-- ==== Sys2Proof/Word.lean ====
section
/-! DEFINITION. The word types of the Gliec and their plainest views (spec/00 R3, spec/07 R162). -/
namespace Sys2Proof

/-- One byte of memory. -/
abbrev Byte := BitVec 8
/-- A 32-bit instruction word or lane register. -/
abbrev Word := BitVec 32
/-- A 64-bit s-register, mask or queue entry. -/
abbrev Dword := BitVec 64

/-- Bit `i` of a 64-bit mask, bit i being lane i (spec/05 R129). -/
def Dword.has (m : Dword) (i : Nat) : Bool := m.getLsbD i

/-- The mask with the lowest `n` bits set. -/
def Dword.low (n : Nat) : Dword := BitVec.ofNat 64 (2 ^ n - 1)

/-- The mask with only bit `i` set. -/
def Dword.bit (i : Nat) : Dword := BitVec.ofNat 64 (2 ^ i)

/-- The lanes of a mask in ascending order, 0 to 63. -/
def Dword.lanes (m : Dword) : List Nat := (List.range 64).filter (fun i => m.getLsbD i)

end Sys2Proof
end

