-- ==== Sys2Proof/Machine/Tab.lean ====
section
/-! DEFINITION. Sparse tables: what is absent reads as the default of the place. They hold the machine's arrays of which a
run touches few entries. -/
namespace Sys2Proof.Machine

/-- A table of values by number, in ascending order of number. -/
structure Tab (α : Type) where
  cells : List (Nat × α)
  deriving DecidableEq, Repr

/-- The first cell of key `k`. -/
def findCell {α : Type} (k : Nat) : List (Nat × α) → Option α
  | [] => none
  | c :: r => if c.1 = k then some c.2 else findCell k r

/-- The cells with key `k` set to `a`, at its place in ascending order. -/
def putCell {α : Type} (k : Nat) (a : α) : List (Nat × α) → List (Nat × α)
  | [] => [(k, a)]
  | c :: r => if k < c.1 then (k, a) :: c :: r else if c.1 = k then (k, a) :: r else c :: putCell k a r

/-- The cells without key `k`. -/
def dropCell {α : Type} (k : Nat) (l : List (Nat × α)) : List (Nat × α) := l.filter fun c => c.1 != k

/-- The table with no entry. -/
def Tab.empty {α : Type} : Tab α := { cells := [] }
/-- The entry at `k`, if there is one. -/
def Tab.find {α : Type} (t : Tab α) (k : Nat) : Option α := findCell k t.cells
/-- The entry at `k`, or `d` where there is none. -/
def Tab.get {α : Type} (t : Tab α) (k : Nat) (d : α) : α := (t.find k).getD d
/-- The table with `a` at `k`. -/
def Tab.put {α : Type} (t : Tab α) (k : Nat) (a : α) : Tab α := { cells := putCell k a t.cells }
/-- The table with nothing at `k`. -/
def Tab.drop {α : Type} (t : Tab α) (k : Nat) : Tab α := { cells := dropCell k t.cells }
/-- The table with `a` at `k` where there is one, else with nothing there. -/
def Tab.place {α : Type} (t : Tab α) (k : Nat) (a : Option α) : Tab α := match a with
  | some v => t.put k v
  | none => t.drop k
/-- Is there an entry at `k`? -/
def Tab.has {α : Type} (t : Tab α) (k : Nat) : Bool := (t.find k).isSome
/-- The keys in order. -/
def Tab.keys {α : Type} (t : Tab α) : List Nat := t.cells.map (·.1)
/-- The entries whose key satisfies `p`. -/
def Tab.keep {α : Type} (t : Tab α) (p : Nat → Bool) : Tab α := { cells := t.cells.filter fun c => p c.1 }
/-- The table with `a` at `k`, of at most `cap` entries: in a full one the entry whose place `v` gives makes room. -/
def Tab.putIn {α : Type} (t : Tab α) (cap : Nat) (v : List Nat → Nat) (k : Nat) (a : α) : Tab α :=
  if t.has k || decide (t.cells.length < cap) then t.put k a
  else (t.drop (t.keys.getD (v t.keys % t.keys.length) 0)).put k a
/-- Every entry of `u` laid over `t`. -/
def Tab.over {α : Type} (t u : Tab α) : Tab α := u.cells.foldr (fun c t => t.put c.1 c.2) t
/-- The lowest number below `n` with no entry. -/
def Tab.free {α : Type} (t : Tab α) (n : Nat) : Option Nat := (List.range n).find? fun k => !t.has k
/-- How many numbers below `n` have no entry. -/
def Tab.frees {α : Type} (t : Tab α) (n : Nat) : Nat := ((List.range n).filter fun k => !t.has k).length

end Sys2Proof.Machine
end

