-- ==== Sys2Proof/Machine/Bits.lean ====
section
/-! DEFINITION. Bit fields, sign extension and byte order (spec/00 R3). -/
namespace Sys2Proof.Machine

/-- The field of `n` bits of `x` whose lowest bit is `lo`. -/
def fld {w : Nat} (x : BitVec w) (lo n : Nat) : Nat := x.toNat / 2 ^ lo % 2 ^ n

/-- `x` with the field of `n` bits at `lo` set to `v`. -/
def setFld {w : Nat} (x : BitVec w) (lo n v : Nat) : BitVec w :=
  BitVec.ofNat w (x.toNat - fld x lo n * 2 ^ lo + v % 2 ^ n * 2 ^ lo)

/-- A 64-bit word put together from fields (value, lowest bit). -/
def packD (l : List (Nat × Nat)) : Dword := BitVec.ofNat 64 (l.foldl (fun a f => a + f.1 * 2 ^ f.2) 0)

/-- The low `n` bits of `v` as a signed number. -/
def signed (n v : Nat) : Int := if v % 2 ^ n < 2 ^ (n - 1) then (v % 2 ^ n : Nat) else (v % 2 ^ n : Nat) - (2 ^ n : Nat)

/-- An integer as `n` bits, modulo 2^n. -/
def wrapN (n : Nat) (v : Int) : Nat := (v % (2 ^ n : Nat)).toNat

/-- The low `n` bits of `v`, sign-extended to 64 bits. -/
def sext64 (n v : Nat) : Dword := BitVec.ofInt 64 (signed n v)

/-- A number from bytes, least significant first. -/
def leNat : List Byte → Nat
  | [] => 0
  | b :: r => b.toNat + 256 * leNat r

/-- The low `n` bytes of a number, least significant first. -/
def natLe : Nat → Nat → List Byte
  | 0, _ => []
  | n + 1, v => BitVec.ofNat 8 v :: natLe n (v / 256)

/-- The bytes of 64-bit words in memory order. -/
def bytesOfDwords (l : List Dword) : List Byte := l.flatMap fun d => natLe 8 d.toNat

/-- `n` 64-bit words from bytes in memory order. -/
def dwordsOfBytes : Nat → List Byte → List Dword
  | 0, _ => []
  | n + 1, bs => BitVec.ofNat 64 (leNat (bs.take 8)) :: dwordsOfBytes n (bs.drop 8)

/-- Word `k` of a list of 64-bit words, 0 beyond its end. -/
def wordAt (l : List Dword) (k : Nat) : Dword := l.getD k 0

/-- The number of one bits of the low `n` bits. -/
def popNat : Nat → Nat → Nat
  | 0, _ => 0
  | n + 1, v => v % 2 + popNat n (v / 2)

/-- The lowest index below `n` with a one bit, or `n`. -/
def ffsNat (n v : Nat) : Nat := ((List.range n).find? fun i => v.testBit i).getD n

/-- The smallest multiple of `k` that is not below `a`. -/
def alignUp (a k : Nat) : Nat := (a + k - 1) / k * k

/-- Numbers with no repeats, in the order of first occurrence. -/
def dedup (l : List Nat) : List Nat := l.foldl (fun acc a => if acc.contains a then acc else acc ++ [a]) []

/-- The stretches of [a, a + n) that lie each within one block of `k` bytes: start and length, in order. -/
def pieces (k a n : Nat) : List (Nat × Nat) :=
  if n = 0 then [] else
    (List.range ((a + n - 1) / k - a / k + 1)).map fun i =>
      let lo := max a ((a / k + i) * k)
      (lo, min (a + n) ((a / k + i + 1) * k) - lo)

end Sys2Proof.Machine
end

