-- ==== Sys2Proof/Syntax.lean ====
section
/-! DEFINITION. The instructions and events of the Gliec: one constructor for every row of spec/opcode_table.json. An
instruction row carries its words' fields, cut as spec/07 R164 and R167 and its entry's extension map cut them (reserved
bits included, so that no bit is dropped); an event row carries the place where it happens and what the outside world
brings to it. -/
namespace Sys2Proof

/-- L-form word of layout LA or LX (spec/07 R164). -/
structure LA where
  m : BitVec 3
  b : BitVec 7
  a : BitVec 7
  d : BitVec 6
  k : Bool
  deriving DecidableEq, Repr

/-- L-form word of layout LI (spec/07 R164). -/
structure LI where
  imm : BitVec 10
  a : BitVec 7
  d : BitVec 6
  k : Bool
  deriving DecidableEq, Repr

/-- G-form word of layout GA or GX (spec/07 R167). -/
structure GA where
  b : BitVec 7
  a : BitVec 8
  d : BitVec 8
  k : Bool
  deriving DecidableEq, Repr

/-- G-form word of layout GI (spec/07 R167). -/
structure GI where
  imm : BitVec 7
  a : BitVec 8
  d : BitVec 8
  k : Bool
  deriving DecidableEq, Repr

/-- G-form word of layout GB (spec/07 R167). -/
structure GB where
  disp : BitVec 23
  k : Bool
  deriving DecidableEq, Repr

/-- G-form word of layout GC (spec/07 R167). -/
structure GC where
  disp : BitVec 15
  c : BitVec 8
  k : Bool
  deriving DecidableEq, Repr

/-- G-form word of layout GA whose b field is a mode that the opcode row fixes (spec/15 R331, R333). -/
structure GM where
  a : BitVec 8
  d : BitVec 8
  k : Bool
  deriving DecidableEq, Repr

/-- Extension word of VCMP and FCMP (spec/09 R212). -/
structure CmpX where
  cc : BitVec 3
  mrg : Bool
  sd : BitVec 8
  res : BitVec 20
  deriving DecidableEq, Repr

/-- Extension word of VVOTE (spec/09 R222). -/
structure VoteX where
  mode : BitVec 2
  sd : BitVec 8
  res : BitVec 22
  deriving DecidableEq, Repr

/-- Extension word of XSEND and XRECV (spec/09 R225). -/
structure SlotX where
  slot : BitVec 4
  res : BitVec 28
  deriving DecidableEq, Repr

/-- Extension word of the lane loads, stores, PREF and DISCARD (spec/10 R228). -/
structure MemX where
  ix : BitVec 2
  scl : BitVec 2
  ord : BitVec 2
  scope : BitVec 3
  pol : BitVec 2
  sp : Bool
  res : BitVec 4
  off : BitVec 16
  deriving DecidableEq, Repr

/-- Extension word of the lane atomics (spec/10 R231). -/
structure AtomX where
  ix : BitVec 2
  scl : BitVec 2
  ord : BitVec 2
  scope : BitVec 3
  res : BitVec 2
  nr : Bool
  aop : BitVec 4
  off : BitVec 16
  deriving DecidableEq, Repr

/-- Extension word of FENCE (spec/10 R234). -/
structure FenceX where
  kind : BitVec 2
  scope : BitVec 3
  res : BitVec 27
  deriving DecidableEq, Repr

/-- Extension word of ACCRD and ACCRDC (spec/11 R256). -/
structure TileX where
  tile : BitVec 2
  res : BitVec 30
  deriving DecidableEq, Repr

/-- Extension word of TADD (spec/11 R261). -/
structure TaddX where
  coff : BitVec 14
  roff : BitVec 9
  res : BitVec 9
  deriving DecidableEq, Repr

/-- Extension word of TNORM and TNORMQ (spec/11 R264). -/
structure EpsX where
  se : BitVec 8
  res : BitVec 24
  deriving DecidableEq, Repr

/-- Extension word of RCMP (spec/12 R283). -/
structure AstrX where
  astr : BitVec 4
  res : BitVec 28
  deriving DecidableEq, Repr

/-- Extension word of TRACE, TRACEA and TRACEO (spec/13 R298). -/
structure TraceX where
  vmask : BitVec 8
  cullb : Bool
  res : BitVec 23
  deriving DecidableEq, Repr

/-- Extension word of VMARCH (spec/13 R302). -/
structure MarchX where
  strm : BitVec 4
  den : Bool
  next : Bool
  res : BitVec 26
  deriving DecidableEq, Repr

/-- Extension word of CALL (spec/08 R195). -/
structure CallX where
  disp : BitVec 22
  c : BitVec 8
  csense : Bool
  cen : Bool
  deriving DecidableEq, Repr

/-- Extension word of BAR (spec/08 R200). -/
structure BarX where
  roles : BitVec 4
  seq : Bool
  res : BitVec 27
  deriving DecidableEq, Repr

/-- Extension word of GCMP (spec/08 R191). -/
structure GcmpX where
  cc : BitVec 3
  u : Bool
  all : Bool
  bi : Bool
  imm : BitVec 16
  res : BitVec 10
  deriving DecidableEq, Repr

/-- Extension word of GLD and GST (spec/10 R236). -/
structure GmemX where
  sz : BitVec 3
  ixe : Bool
  ord : BitVec 2
  scope : BitVec 3
  pol : BitVec 2
  sp : Bool
  res : BitVec 4
  off : BitVec 16
  deriving DecidableEq, Repr

/-- Extension word of GATOM (spec/10 R236). -/
structure GatomX where
  ty : BitVec 3
  ixe : Bool
  ord : BitVec 2
  scope : BitVec 3
  res : BitVec 2
  sp : Bool
  aop : BitVec 4
  off : BitVec 16
  deriving DecidableEq, Repr

/-- Extension word of CPY (spec/10 R239, R170). -/
structure CpyX where
  mode : BitVec 3
  pol : BitVec 2
  res : Bool
  soff : BitVec 12
  res2 : BitVec 8
  gsense : Bool
  gslot : BitVec 4
  gen : Bool
  deriving DecidableEq, Repr

/-- Extension word of LAYOUT (spec/10 R241, R170). -/
structure LayoutX where
  op : Bool
  res : BitVec 25
  gsense : Bool
  gslot : BitVec 4
  gen : Bool
  deriving DecidableEq, Repr

/-- Extension word of ZFILL (spec/10 R242, R170). -/
structure ZfillX where
  sp : Bool
  off : BitVec 12
  res : BitVec 13
  gsense : Bool
  gslot : BitVec 4
  gen : Bool
  deriving DecidableEq, Repr

/-- Extension word of CALLRED and CGATHER (spec/10 R244, R170). -/
structure CollX where
  op : BitVec 2
  ssp : Bool
  dsp : Bool
  q8 : Bool
  res : BitVec 21
  gsense : Bool
  gslot : BitVec 4
  gen : Bool
  deriving DecidableEq, Repr

/-- Extension word of OMAP (spec/11 R251, R170). -/
structure OmapX where
  map : BitVec 3
  res : BitVec 23
  gsense : Bool
  gslot : BitVec 4
  gen : Bool
  deriving DecidableEq, Repr

/-- Extension word of MMA and MSQD (spec/11 R251, R170). -/
structure MmaX where
  tile : BitVec 2
  map : BitVec 3
  acc : Bool
  res : BitVec 20
  gsense : Bool
  gslot : BitVec 4
  gen : Bool
  deriving DecidableEq, Repr

/-- Extension word of MTOPK (spec/11 R251, R170). -/
structure TopkX where
  tile : BitVec 2
  km1 : BitVec 4
  res : BitVec 20
  gsense : Bool
  gslot : BitVec 4
  gen : Bool
  deriving DecidableEq, Repr

/-- Extension word of MZERO and MADDT (spec/11 R251, R170). -/
structure MtileX where
  tile : BitVec 2
  res : BitVec 24
  gsense : Bool
  gslot : BitVec 4
  gen : Bool
  deriving DecidableEq, Repr

/-- Extension word of MSTORE (spec/11 R251, R170). -/
structure StoreX where
  tile : BitVec 2
  ty : Bool
  sp : Bool
  pol : BitVec 2
  res : BitVec 20
  gsense : Bool
  gslot : BitVec 4
  gen : Bool
  deriving DecidableEq, Repr

/-- Extension word of TCFG (spec/11 R251, R170). -/
structure TcfgX where
  sm1 : BitVec 4
  res : BitVec 22
  gsense : Bool
  gslot : BitVec 4
  gen : Bool
  deriving DecidableEq, Repr

/-- Extension word of TEVICT and TRESTORE (spec/11 R251, R170). -/
structure ImageX where
  obj : Bool
  clr : Bool
  tile : BitVec 2
  res : BitVec 22
  gsense : Bool
  gslot : BitVec 4
  gen : Bool
  deriving DecidableEq, Repr

/-- Extension word of MUTATE (spec/12 R278). -/
structure MutX where
  kind : BitVec 2
  res : BitVec 30
  deriving DecidableEq, Repr

/-- Extension word of REPLAY (spec/12 R281). -/
structure ReplayX where
  qpri : BitVec 3
  res : BitVec 29
  deriving DecidableEq, Repr

/-- Extension word of LAUNCHD (spec/14 R319). -/
structure LaunchX where
  qpri : BitVec 3
  pm1 : BitVec 10
  res : BitVec 19
  deriving DecidableEq, Repr

/-- A literal extension word (spec/07 R169). -/
structure Lit where
  lit : BitVec 32
  deriving DecidableEq, Repr

/-- A unit that issues instructions: a path of a group slot, the sequencer of a team slot, or a lantern program slot
(spec/05 R118, R122, R137). -/
inductive UnitId where
  | path (core slot idx : Nat)
  | seq (core slot : Nat)
  | lant (core slot : Nat)
  deriving DecidableEq, Repr

/-- What chooses the next run: a quadrant of a core (spec/14 R317) or a lantern core (spec/14 R324). -/
inductive Issuer where
  | quad (core q : Nat)
  | lantern (core : Nat)
  deriving DecidableEq, Repr

/-- What a patrol scrub finds in a sector (spec/02 R78). -/
inductive ScrubFinding where
  | clean
  | corrected
  | uncorrectable
  deriving DecidableEq, Repr

/-- Where an uncorrectable on-die SRAM error strikes (spec/02 R79). -/
inductive SramPlace where
  | l2Sector (sector : Nat)
  | l2Tag (line : Nat)
  | scratchpad (core off : Nat)
  | teamStore (core team : Nat)
  deriving DecidableEq, Repr

/-- Where a parity error strikes a read cache (spec/02 R60). -/
inductive CachePlace where
  | l1 (core line : Nat)
  | code (core line : Nat)
  | lanternData (core line : Nat)
  | lanternCode (core line : Nat)
  deriving DecidableEq, Repr

/-- A role of a kernel (spec/05 R117). -/
structure Role where
  groups : Nat
  regs : Nat
  prio : Nat
  deriving DecidableEq, Repr

/-- The declarations of an installed kernel (spec/05 R116, R117, spec/14 R312, spec/22 R364). -/
structure Kernel where
  ctx : Nat
  entry : Nat
  addrEntry : Nat
  width : Nat
  roles : List Role
  energy : Nat
  replayable : Bool
  deriving DecidableEq, Repr

/-- The label that a relocation names: word `word` of section `part` of its own object (the end of a section counts as one), or an
address in code of another object (spec/22 R363, R365). -/
inductive CodeLabel where
  | own (part word : Nat)
  | far (addr : Nat)
  deriving DecidableEq, Repr
/-- A relocation: its kind, the instruction or the data word at which it stands, its label and what is added to it (spec/22 R365). -/
structure Reloc where
  kind : Nat
  part : Nat
  word : Nat
  label : CodeLabel
  addend : Int
  deriving DecidableEq, Repr
/-- A kernel as an object declares it, with the numbers of its two code sections (spec/22 R364). -/
structure ObjectKernel where
  addrPart : Nat
  codePart : Nat
  width : Nat
  roles : List Role
  energy : Nat
  replayable : Bool
  deriving DecidableEq, Repr
/-- What a portable object says (spec/16 R354, R355): the digest of the key that its signature verifies against, if it verifies, its
VERSION, its code sections, the words of its data section, which has the number after theirs, its kernels and relocations (spec/22 R364,
R365). -/
structure CodeObject where
  signer : Option (BitVec 256)
  version : Nat
  parts : List (List Word)
  data : List Word
  kernels : List ObjectKernel
  relocs : List Reloc
  deriving DecidableEq, Repr, Inhabited

/-- What the host reaches through host link `link`: the register window of function `num`, or the aperture of grove `num` (spec/16
R344). -/
structure ViaLink where
  link : Nat
  num : Nat
  deriving DecidableEq, Repr
/-- Every instruction and event of the opcode table. -/
inductive Instr where
  /-- VADD: Lane integer add modulo 2^w. (R207) -/
  | vadd (f : LA)
  /-- VSUB: Lane integer subtract modulo 2^w. (R207) -/
  | vsub (f : LA)
  /-- VMUL: Lane integer multiply, low w bits. (R207) -/
  | vmul (f : LA)
  /-- VMULH: Lane integer multiply, high w bits. (R207) -/
  | vmulh (f : LA)
  /-- VMAD: Lane integer multiply-add into d. (R208) -/
  | vmad (f : LA)
  /-- VMIN: Lane integer minimum. (R207) -/
  | vmin (f : LA)
  /-- VMAX: Lane integer maximum. (R207) -/
  | vmax (f : LA)
  /-- VAND: Lane bitwise and. (R207) -/
  | vand (f : LA)
  /-- VOR: Lane bitwise or. (R207) -/
  | vor (f : LA)
  /-- VXOR: Lane bitwise xor. (R207) -/
  | vxor (f : LA)
  /-- VSHL: Lane shift left. (R207) -/
  | vshl (f : LA)
  /-- VSHR: Lane logical shift right. (R207) -/
  | vshr (f : LA)
  /-- VSAR: Lane arithmetic shift right. (R207) -/
  | vsar (f : LA)
  /-- VCLZ: Lane count of leading zeros. (R207) -/
  | vclz (f : LA)
  /-- VPOPC: Lane population count. (R207) -/
  | vpopc (f : LA)
  /-- VADDI: Lane add of a signed 10-bit immediate. (R209) -/
  | vaddi (f : LI)
  /-- VSHLI: Lane shift left by immediate. (R209) -/
  | vshli (f : LI)
  /-- VSHRI: Lane logical shift right by immediate. (R209) -/
  | vshri (f : LI)
  /-- VSARI: Lane arithmetic shift right by immediate. (R209) -/
  | vsari (f : LI)
  /-- VSEL: Lane select under a mask in s0-s7. (R211) -/
  | vsel (f : LA)
  /-- VLI: Load a 32-bit literal into lanes. (R210) -/
  | vli (f : LA) (x : Lit)
  /-- VCMP: Integer lane compare into a mask s-register. (R212) -/
  | vcmp (f : LA) (x : CmpX)
  /-- FADD: Floating-point lane add. (R213) -/
  | fadd (f : LA)
  /-- FMUL: Floating-point lane multiply. (R213) -/
  | fmul (f : LA)
  /-- FFMA: Fused multiply-add into d. (R213) -/
  | ffma (f : LA)
  /-- FMIN: Floating-point minimum. (R214) -/
  | fmin (f : LA)
  /-- FMAX: Floating-point maximum. (R214) -/
  | fmax (f : LA)
  /-- FCMP: Floating-point lane compare into a mask. (R212) -/
  | fcmp (f : LA) (x : CmpX)
  /-- BFMA2: Two fused BF16 multiply-adds per register. (R215) -/
  | bfma2 (f : LA)
  /-- CVT: Convert between lane types. (R216) -/
  | cvt (f : LA)
  /-- FRCP: Correctly rounded reciprocal. (R217) -/
  | frcp (f : LA)
  /-- FRSQ: Correctly rounded reciprocal square root. (R217) -/
  | frsq (f : LA)
  /-- FSQRT: Correctly rounded square root. (R217) -/
  | fsqrt (f : LA)
  /-- FEXP2: Correctly rounded 2^x. (R217) -/
  | fexp2 (f : LA)
  /-- FLOG2: Correctly rounded log2. (R217) -/
  | flog2 (f : LA)
  /-- SINT: Correctly rounded sin(2 pi x). (R217) -/
  | sint (f : LA)
  /-- COST: Correctly rounded cos(2 pi x). (R217) -/
  | cost (f : LA)
  /-- VPERM: Read a value from a lane chosen per lane. (R219) -/
  | vperm (f : LA)
  /-- VSHFL: Shuffle lane values up, down, xor or rotate. (R219) -/
  | vshfl (f : LA)
  /-- VBCAST: Broadcast one lane's value to the path. (R219) -/
  | vbcast (f : LA)
  /-- VMATCH: Mask of lanes holding an equal key. (R220) -/
  | vmatch (f : LA)
  /-- VVOTE: Convergent vote into an s-register. (R222) -/
  | vvote (f : LA) (x : VoteX)
  /-- VREDUCE: Convergent reduction in ascending lane order. (R223) -/
  | vreduce (f : LA)
  /-- VSCAN: Convergent inclusive or exclusive scan. (R223) -/
  | vscan (f : LA)
  /-- XSEND: Send lane values into a rendezvous slot. (R225) -/
  | xsend (f : LA) (x : SlotX)
  /-- XRECV: Receive lane values from a rendezvous slot. (R225) -/
  | xrecv (f : LA) (x : SlotX)
  /-- LD: Lane load from global memory. (R229) -/
  | ld (f : LA) (x : MemX)
  /-- ST: Lane store to global memory. (R229) -/
  | st (f : LA) (x : MemX)
  /-- LDS: Lane load from scratchpad. (R229) -/
  | lds (f : LA) (x : MemX)
  /-- STS: Lane store to scratchpad. (R229) -/
  | sts (f : LA) (x : MemX)
  /-- LDQ: 16-byte lane load. (R228) -/
  | ldq (f : LA) (x : MemX)
  /-- STQ: 16-byte lane store. (R228) -/
  | stq (f : LA) (x : MemX)
  /-- ATOM: Lane atomic on global memory. (R231) -/
  | atom (f : LA) (x : AtomX)
  /-- ATOMS: Lane atomic on scratchpad. (R231) -/
  | atoms (f : LA) (x : AtomX)
  /-- ACAS: Lane compare-and-swap on global memory. (R232) -/
  | acas (f : LA) (x : AtomX)
  /-- ACASS: Lane compare-and-swap on scratchpad. (R232) -/
  | acass (f : LA) (x : AtomX)
  /-- AADDX: Exact TX64 atomic add. (R233) -/
  | aaddx (f : LA) (x : AtomX)
  /-- FENCE: Fence event of the path. (R234) -/
  | fence (f : LA) (x : FenceX)
  /-- DISCARD: Discard whole sectors of a range. (R235) -/
  | discard (f : LA) (x : MemX)
  /-- PREF: Prefetch a line into L1 or L2. (R230) -/
  | pref (f : LA) (x : MemX)
  /-- ACCRD: Read a tile element into lanes. (R256) -/
  | accrd (f : LA) (x : TileX)
  /-- TADD: Lane trunk adds into a row. (R261) -/
  | tadd (f : LA) (x : TaddX)
  /-- TNORM: Normalising read of trunk rows. (R264) -/
  | tnorm (f : LA) (x : EpsX)
  /-- TNORMQ: Normalising read quantised to E4M3. (R265) -/
  | tnormq (f : LA) (x : EpsX)
  /-- TSYNC: Order trunk adds before reads, sending partials for span. (R263) -/
  | tsync (f : LA)
  /-- ACCRDC: Read and convert a tile element into lanes. (R256) -/
  | accrdc (f : LA) (x : TileX)
  /-- CVBIND: Bind lanes to a choice vector. (R273) -/
  | cvbind (f : LA)
  /-- DRAW: Take one draw from a vector stream. (R274) -/
  | draw (f : LA)
  /-- DRAWK: Pure keyed draw. (R275) -/
  | drawk (f : LA)
  /-- CVCUR: Read binding cursors and state. (R275) -/
  | cvcur (f : LA)
  /-- RESULT: Write the lane's result into the vector header. (R276) -/
  | result (f : LA)
  /-- RCMP: Accept or reject step with compare record. (R283) -/
  | rcmp (f : LA) (x : AstrX)
  /-- TRACE: Closest-hit traversal. (R298) -/
  | trace (f : LA) (x : TraceX)
  /-- TRACEA: Any-hit traversal. (R298) -/
  | tracea (f : LA) (x : TraceX)
  /-- TRACEO: Next hit after the held one. (R298) -/
  | traceo (f : LA) (x : TraceX)
  /-- HITRD: Read a hit field of the ray slot. (R299) -/
  | hitrd (f : LA)
  /-- HITUV: Read hit barycentrics. (R299) -/
  | hituv (f : LA)
  /-- VMARCH: Start or continue a volume march. (R302) -/
  | vmarch (f : LA) (x : MarchX)
  /-- VMRD: Read a march field of the ray slot. (R299) -/
  | vmrd (f : LA)
  /-- RSAVE: Write the ray slot to memory. (R303) -/
  | rsave (f : LA)
  /-- RLOAD: Load and check the ray slot from memory. (R303) -/
  | rload (f : LA)
  /-- RCLR: Zero the ray slot. (R303) -/
  | rclr (f : LA)
  /-- NOP: No operation. (R186) -/
  | nop (f : GA)
  /-- BR: Uniform branch. (R192) -/
  | br (f : GB)
  /-- BRC: Uniform conditional branch. (R192) -/
  | brc (f : GC)
  /-- BRD: Divergent branch on a mask. (R193) -/
  | brd (f : GC)
  /-- BRX: Branch to a register address. (R192) -/
  | brx (f : GA)
  /-- JOIN: Resolve the innermost divergence. (R125) -/
  | join (f : GA)
  /-- REGANG: Merge parted paths. (R127) -/
  | regang (f : GA)
  /-- IDLE: Make lanes idle. (R126) -/
  | idle (f : GA)
  /-- EXIT: Exit the group or end the stream. (R128) -/
  | exit (f : GA)
  /-- CALL: Call with window shift. (R195) -/
  | call (f : GA) (x : CallX)
  /-- RET: Return through a link. (R196) -/
  | ret (f : GA)
  /-- GROW: Request a larger stack allocation. (R197) -/
  | grow (f : GA)
  /-- SETFMT: Set the path's fmt. (R198) -/
  | setfmt (f : GA)
  /-- GETFMT: Read the path's fmt. (R198) -/
  | getfmt (f : GA)
  /-- QPUT: Append to a team queue. (R199) -/
  | qput (f : GA)
  /-- QGET: Take from a team queue. (R199) -/
  | qget (f : GA)
  /-- BAR: Arrive at a numbered barrier. (R200) -/
  | bar (f : GA) (x : BarX)
  /-- SETG: Set a guard slot. (R201) -/
  | setg (f : GI)
  /-- SYSRD: Read a sys name. (R202) -/
  | sysrd (f : GA)
  /-- SYSWR: Write a sys name. (R202) -/
  | syswr (f : GA)
  /-- GADD: Scalar add. (R187) -/
  | gadd (f : GA)
  /-- GSUB: Scalar subtract. (R187) -/
  | gsub (f : GA)
  /-- GMUL: Scalar multiply. (R187) -/
  | gmul (f : GA)
  /-- GAND: Scalar and. (R187) -/
  | gand (f : GA)
  /-- GOR: Scalar or. (R187) -/
  | gor (f : GA)
  /-- GXOR: Scalar xor. (R187) -/
  | gxor (f : GA)
  /-- GSHL: Scalar shift left. (R187) -/
  | gshl (f : GA)
  /-- GSHR: Scalar logical shift right. (R187) -/
  | gshr (f : GA)
  /-- GSAR: Scalar arithmetic shift right. (R187) -/
  | gsar (f : GA)
  /-- GMIN: Scalar signed minimum. (R187) -/
  | gmin (f : GA)
  /-- GMAX: Scalar signed maximum. (R187) -/
  | gmax (f : GA)
  /-- GSEL: Scalar bitwise select under S[d]. (R188) -/
  | gsel (f : GA)
  /-- GCMP: Scalar compare into a truth value. (R191) -/
  | gcmp (f : GA) (x : GcmpX)
  /-- MPOP: Population count of a scalar. (R187) -/
  | mpop (f : GA)
  /-- MFFS: Index of the lowest set bit. (R187) -/
  | mffs (f : GA)
  /-- GADDI: Scalar add of a 7-bit immediate. (R189) -/
  | gaddi (f : GI)
  /-- GLI: Load a sign-extended literal. (R190) -/
  | gli (f : GA) (x : Lit)
  /-- GLIH: Load the high half of a scalar. (R190) -/
  | glih (f : GA) (x : Lit)
  /-- GLD: Uniform load. (R236) -/
  | gld (f : GA) (x : GmemX)
  /-- GST: Uniform store. (R236) -/
  | gst (f : GA) (x : GmemX)
  /-- GATOM: Uniform atomic. (R236) -/
  | gatom (f : GA) (x : GatomX)
  /-- CPY: Issue a copy command into queue 0. (R239) -/
  | cpy (f : GA) (x : CpyX)
  /-- LAYOUT: Issue a layout bind or invalidate command. (R241) -/
  | layout (f : GA) (x : LayoutX)
  /-- ZFILL: Issue a zero-fill command. (R242) -/
  | zfill (f : GA) (x : ZfillX)
  /-- BFENCE: Close a batch. (R243) -/
  | bfence (f : GI)
  /-- BWAIT: Wait for a batch to complete. (R243) -/
  | bwait (f : GI)
  /-- CALLRED: Issue a collective reduction command. (R244) -/
  | callred (f : GA) (x : CollX)
  /-- CGATHER: Issue a collective gather command. (R244) -/
  | cgather (f : GA) (x : CollX)
  /-- OMAP: Issue an operand-map load. (R250) -/
  | omap (f : GA) (x : OmapX)
  /-- MMA: Issue a matrix multiply. (R252) -/
  | mma (f : GA) (x : MmaX)
  /-- MSQD: Issue a squared-distance matrix command. (R253) -/
  | msqd (f : GA) (x : MmaX)
  /-- MTOPK: Issue a top-k ranking of tile rows. (R255) -/
  | mtopk (f : GA) (x : TopkX)
  /-- MZERO: Issue a tile zeroing. (R254) -/
  | mzero (f : GA) (x : MtileX)
  /-- MSTORE: Issue a tile store to memory. (R254) -/
  | mstore (f : GA) (x : StoreX)
  /-- MADDT: Issue a tile drain into trunk rows. (R262) -/
  | maddt (f : GA) (x : MtileX)
  /-- TCFG: Issue a trunk configuration. (R258) -/
  | tcfg (f : GA) (x : TcfgX)
  /-- TEVICT: Issue a row or tile image write. (R267) -/
  | tevict (f : GA) (x : ImageX)
  /-- TRESTORE: Issue a row or tile image restore. (R268) -/
  | trestore (f : GA) (x : ImageX)
  /-- MUTATE: Build a mutated choice vector. (R278) -/
  | mutate (f : GA) (x : MutX)
  /-- REPLAY: Relaunch lanes from replay records. (R281) -/
  | replay (f : GA) (x : ReplayX)
  /-- RRD: Read a lane's replay list index. (R282) -/
  | rrd (f : GA)
  /-- CVEND: End the lanes' vector bindings. (R276) -/
  | cvend (f : GA)
  /-- LAUNCHD: Queue a device-side launch. (R319) -/
  | launchd (f : GA) (x : LaunchX)
  /-- GRIDSYNC: Arrive at the cooperative grid barrier. (R320) -/
  | gridsync (f : GA)
  /-- RQPUT: Put a record into a record queue. (R322) -/
  | rqput (f : GA)
  /-- RQPUTN: Non-waiting record put. (R322) -/
  | rqputn (f : GA)
  /-- RQGET: Take a record from a record queue. (R322) -/
  | rqget (f : GA)
  /-- RQGETN: Non-waiting record take. (R322) -/
  | rqgetn (f : GA)
  /-- RQCNT: Read a record queue's count. (R322) -/
  | rqcnt (f : GA)
  /-- YIELD: Give way in issue selection. (R323) -/
  | yield (f : GA)
  /-- SLEEP: Wait at least 16 n cycles. (R323) -/
  | sleep (f : GI)
  /-- EVSIG: Raise a grove event counter. (R323) -/
  | evsig (f : GA)
  /-- TRAP: Raise a trap with a code. (R330) -/
  | trap (f : GI)
  /-- TRAPC: Conditional trap. (R330) -/
  | trapc (f : GC)
  /-- TRET: Return from a trap to RPC. (R331) -/
  | tret (f : GM)
  /-- TRET_GOTO: Return from a trap to a given address. (R331) -/
  | tretGoto (f : GM)
  /-- TRET_KILL: End handling by idling the lanes. (R331) -/
  | tretKill (f : GM)
  /-- BKPT: Breakpoint or debug hold. (R330) -/
  | bkpt (f : GI)
  /-- HALT_TEAM: Tear down the team. (R333) -/
  | haltTeam (f : GM)
  /-- HALT_FLUSH: Flush a halted engine queue. (R333) -/
  | haltFlush (f : GM)
  /-- ERRRD: Read trap frame or error record words. (R332) -/
  | errrd (f : GA)
  /-- FAULT_RECORD_WRITE: Write a fault record once the ring has room and signal the interrupt. (R39) -/
  | faultRecordWrite (ctx : Nat)
  /-- FRESUME_RETRY: Answer a NOTPRESENT record with RETRY. (R40) -/
  | fresumeRetry (grove : Nat) (ctx : BitVec 12) (seq : Word)
  /-- FRESUME_ABORT: Answer a NOTPRESENT record with ABORT. (R40) -/
  | fresumeAbort (grove : Nat) (ctx : BitVec 12) (seq : Word)
  /-- TICMD_PAGE: Enqueue a page invalidation. (R41) -/
  | ticmdPage (win : Option Nat) (ctx : BitVec 12) (tag : Word)
  /-- TICMD_CONTEXT: Enqueue a context invalidation. (R41) -/
  | ticmdContext (win : Option Nat) (ctx : BitVec 12) (tag : Word)
  /-- TICMD_GROVE: Enqueue a grove invalidation. (R41) -/
  | ticmdGrove (win : Option Nat) (grove : BitVec 6) (tag : Word)
  /-- TICMD_ALL: Enqueue a module-wide invalidation. (R41) -/
  | ticmdAll (win : Option Nat) (tag : Word)
  /-- INVALIDATION_COMPLETE: An invalidation command completes and DONE takes its TAG. (R42) -/
  | invalidationComplete (win : Option Nat)
  /-- SPLITCFG_WRITE: Change a stand's SRAM split, invalidating L1 and zeroing SRAM. (R50) -/
  | splitcfgWrite (stand : Nat) (v : Dword)
  /-- L2_WRITE_BACK: A line leaves its slice and its dirty sectors are written to HBM. (R68) -/
  | l2WriteBack (line : Nat)
  /-- PATROL_SCRUB: Periodic scrub of every HBM sector. (R78) -/
  | patrolScrub (sector : Nat) (found : ScrubFinding)
  /-- SRAM_UNCORRECTABLE_ERROR: Uncorrectable on-die SRAM error is poisoned or machine-checked. (R79) -/
  | sramUncorrectableError (at_ : SramPlace)
  /-- CACHE_PARITY_ERROR: Parity error invalidates a read-cache line. (R60) -/
  | cacheParityError (at_ : CachePlace)
  /-- MIRROR_WRITE_APPLY: A remote die applies a mirror write once its clock condition holds. (R104) -/
  | mirrorWriteApply (die idx : Nat)
  /-- SPILL_FILL: Spill engine moves stack registers to make the window resident. (R132) -/
  | spillFill (u : UnitId)
  /-- SCRATCHPAD_WAIT_END: A waiting scratchpad access performs once its lines are present. (R55) -/
  | scratchpadWaitEnd (u : UnitId)
  /-- TILE_WAIT_END: A waiting ACCRD performs once the tile is ready. (R100) -/
  | tileWaitEnd (u : UnitId)
  /-- QUEUE_WAIT_END: A waiting QPUT or QGET proceeds once room or an entry exists. (R119) -/
  | queueWaitEnd (u : UnitId)
  /-- RENDEZVOUS_WAIT_END: A waiting XSEND or XRECV proceeds. (R225) -/
  | rendezvousWaitEnd (u : UnitId)
  /-- BARRIER_PHASE_COMPLETE: All participants arrived; waiting parties depart. (R120) -/
  | barrierPhaseComplete (core team bar : Nat)
  /-- GRIDSYNC_PHASE_COMPLETE: All groups of the grid arrived; waiting paths depart. (R320) -/
  | gridsyncPhaseComplete (grid : Nat)
  /-- BATCH_WAIT_COMPLETE: A BWAIT completes as an acquire once its batch has completed. (R99) -/
  | batchWaitComplete (u : UnitId)
  /-- CONVERGENT_PERFORM: A convergent instruction performs once its family has gathered or dropped out. (R221) -/
  | convergentPerform (u : UnitId)
  /-- GROW_GRANT: A waiting GROW is granted when registers are free. (R133) -/
  | growGrant (core slot : Nat)
  /-- EVICTED_GROUP_READMIT: An evicted group is readmitted once its registers fit. (R318) -/
  | evictedGroupReadmit (core : Nat)
  /-- RECORD_QUEUE_WAIT_END: A waiting RQPUT or RQGET proceeds. (R322) -/
  | recordQueueWaitEnd (u : UnitId)
  /-- SLEEP_EXPIRY: A SLEEP's cycle count runs out. (R323) -/
  | sleepExpiry (u : UnitId)
  /-- ENGINE_QUEUE_ROOM: A sequencer waiting on a full engine queue issues its command. (R237) -/
  | engineQueueRoom (u : UnitId)
  /-- LAUNCH_QUEUE_ROOM: A LAUNCHD waiting on a full device queue repeats. (R319) -/
  | launchQueueRoom (u : UnitId)
  /-- CPY_PERFORM: Copy engine performs a copy and sets presence bits. (R240) -/
  | cpyPerform (core team : Nat)
  /-- LAYOUT_PERFORM: Layout cache binds or invalidates a record. (R241) -/
  | layoutPerform (core team : Nat)
  /-- ZFILL_PERFORM: Engine zeroes the range. (R242) -/
  | zfillPerform (core team : Nat)
  /-- OMAP_PERFORM: Operand-map record read, checked and placed. (R250) -/
  | omapPerform (core team : Nat)
  /-- MMA_CHUNK: Matrix unit computes one K-chunk of an MMA. (R252) -/
  | mmaChunk (core team : Nat)
  /-- MSQD_PERFORM: Matrix unit computes squared distances. (R253) -/
  | msqdPerform (core team : Nat)
  /-- MTOPK_PERFORM: Matrix unit ranks tile rows. (R255) -/
  | mtopkPerform (core team : Nat)
  /-- MZERO_PERFORM: Matrix unit zeroes a tile. (R254) -/
  | mzeroPerform (core team : Nat)
  /-- MSTORE_PERFORM: Matrix unit writes a tile to memory. (R254) -/
  | mstorePerform (core team : Nat)
  /-- MADDT_PERFORM: Tile drained into trunk rows. (R262) -/
  | maddtPerform (core team : Nat)
  /-- TCFG_PERFORM: Trunk block zeroed and reconfigured; busy cleared. (R258) -/
  | tcfgPerform (core team : Nat)
  /-- TEVICT_PERFORM: Row or tile images written. (R267) -/
  | tevictPerform (core team q : Nat)
  /-- TRESTORE_PERFORM: Row or tile images checked and restored. (R268) -/
  | trestorePerform (core team q : Nat)
  /-- CALLRED_PERFORM: Collective reduction runs once all ranks are present. (R246) -/
  | callredPerform (core team : Nat)
  /-- CGATHER_PERFORM: Collective gather runs once all ranks are present. (R246) -/
  | cgatherPerform (core team : Nat)
  /-- TRUNK_PARTIAL_RECEIVE: A core receives a span partial and WCNT. (R103) -/
  | trunkPartialReceive (core team : Nat)
  /-- TRAVERSAL_STEP: Traversal unit visits one node or tests one leaf. (R296) -/
  | traversalStep (core slot lane : Nat)
  /-- MARCH_STEP: Volume-march unit takes one step. (R301) -/
  | marchStep (core slot lane : Nat)
  /-- ISSUE_SELECT: Quadrant chooses a path at a run start and counts stalls. (R317) -/
  | issueSelect (q : Issuer)
  /-- PATH_AGED: A path unchosen for 256 cycles becomes aged. (R317) -/
  | pathAged (u : UnitId)
  /-- DEBUG_RECORD_WRITE: A debug record is written once DBGQ has room. (R358) -/
  | debugRecordWrite (grove : Nat)
  /-- STALL_RECORD_WRITE: A stall record is written once STALLQ has room. (R358) -/
  | stallRecordWrite (grove : Nat)
  /-- QKICK: Host moves a submission queue's TAIL. (R307) -/
  | qkick (grove queue : Nat) (tail : Word)
  /-- QCFG_WRITE: Enable or disable a submission queue. (R307) -/
  | qcfgWrite (grove queue : Nat) (v : Dword)
  /-- QSTAT_HALT_CLEAR: Clear HALT and resume a refused queue. (R307) -/
  | qstatHaltClear (grove queue : Nat)
  /-- ENTRY_NOP: NOP submission entry ends at once. (R309) -/
  | entryNop (grove queue : Nat)
  /-- ENTRY_GRAPH: GRAPH entry checked, patched and its nodes released. (R311) -/
  | entryGraph (grove queue : Nat)
  /-- ENTRY_INSTALL: Code translator verifies, installs and reports code. (R354) -/
  | entryInstall (grove queue : Nat) (size : Nat)
  /-- ENTRY_SIGNAL: SIGNAL entry raises an event counter. (R309) -/
  | entrySignal (grove queue : Nat)
  /-- ENTRY_WAIT: WAIT entry ends once its counter is reached. (R309) -/
  | entryWait (grove queue : Nat)
  /-- GRAPH_NODE_START: A graph node starts once its predecessors have ended. (R310) -/
  | graphNodeStart (grove queue node : Nat)
  /-- TEAM_ADMISSION: Admission unit places a team on a core. (R313) -/
  | teamAdmission (grid core : Nat)
  /-- DEVICE_LAUNCH_START: A queued device-side grid comes to start or is refused. (R319) -/
  | deviceLaunchStart (grove : Nat)
  /-- GROUP_RETIRE: A group retires, ending still-bound lanes. (R276) -/
  | groupRetire (core slot : Nat)
  /-- TEAM_RETIRE: A team retires and writes replay and stall records. (R118) -/
  | teamRetire (core team : Nat)
  /-- GRID_END: Grid ends as a system-scope release. (R110) -/
  | gridEnd (grid : Nat)
  /-- PSCMD_SAVE: Request a save of teams to images. (R338) -/
  | pscmdSave (win : Option Nat) (ctx : BitVec 12) (all : Bool) (team : Word) (tag : Byte)
  /-- PSCMD_RESUME: Resume a team from its image. (R341) -/
  | pscmdResume (win : Option Nat) (ctx : BitVec 12) (team : Word) (tag : Byte) (core : Nat)
  /-- PSCMD_TEARDOWN: Tear down named teams. (R338) -/
  | pscmdTeardown (win : Option Nat) (ctx : BitVec 12) (all : Bool) (team : Word) (tag : Byte)
  /-- SAVE_COMPLETE: Team stopped and image written; DONE takes the TAG. (R339) -/
  | saveComplete (win : Option Nat)
  /-- POWER_ON: Power-on starts a cold boot. (R350) -/
  | powerOn
  /-- FUNDAMENTAL_RESET: Fundamental reset starts a cold boot. (R350) -/
  | fundamentalReset
  /-- BOOT_ATTEMPT: A start attempt runs its steps, retrying itself after failure. (R350) -/
  | bootAttempt (links : Nat) (trained : Bool)
  /-- BOOT_TIMEOUT: An attempt not at step 6 within 2 s fails. (R350) -/
  | bootTimeout
  /-- BOOTCMD_WARM: Start warm. (R351) -/
  | bootcmdWarm
  /-- BOOTCMD_SWAP: Select the other slot for the next start. (R351) -/
  | bootcmdSwap
  /-- FLASHCMD: Verify and write a boot image slot. (R351) -/
  | flashcmd (slot : BitVec 2) (src : BitVec 46)
  /-- LCCMD: Lifecycle transition with wipe and warm start. (R351) -/
  | lccmd (dest : BitVec 2) (auth : BitVec 46) (owner : BitVec 256)
  /-- STANDGRV_WRITE: Move a stand to a grove, zeroing its storage. (R353) -/
  | standgrvWrite (stand : Nat) (v : Dword)
  /-- RING_REGISTER_WRITE: Write of STALLQ or DBGQ with checks. (R358) -/
  | ringRegisterWrite (grove : Nat) (debug : Bool) (v : Dword)
  /-- GINT_ACK: Host acknowledges an MSI-X vector. (R347) -/
  | gintAck (grove : Nat) (v : Dword)
  /-- DBGSTOP_ARM: Set a debug stop on a path, group or team. (R356) -/
  | dbgstopArm (grove : Nat) (v : Dword)
  /-- DBGSTOP_GO: Release held paths. (R356) -/
  | dbgstopGo (grove : Nat)
  /-- TRIG: Send a trigger message to the fabric domain. (R359) -/
  | trig (grove : Nat)
  /-- TRIGGER_RECEIVE: Trigger message arrives and fills TRIGRX. (R359) -/
  | triggerReceive (ostamp : Dword) (origin : Byte)
  /-- HOST_POSTED_WRITE: Host posted write to module memory. (R108) -/
  | hostPostedWrite (pa : Nat) (data : List Byte)
  /-- HOST_READ: Host read of module memory. (R108) -/
  | hostRead (pa n : Nat)
  /-- APERTURE_ACCESS: Host access through the BAR2 aperture, translated. (R346) -/
  | apertureAccess (grove : ViaLink) (off n : Nat) (data : Option (List Byte))
  /-- PEER_ACCESS_ARRIVAL: Window access arrives on a peer link and is served or refused. (R348) -/
  | peerAccessArrival (link off n : Nat) (data : Option (List Byte))
  /-- SUPPLY_SAG: Detected sag lowers a die's clock one step. (R360) -/
  | supplySag (die : Nat)
  /-- SAG_RECOVERY_STEP: After 1 us without sag the clock rises one step. (R360) -/
  | sagRecoveryStep (die : Nat)
  /-- REGISTER_WRITE: Write to a register with no behaviour of its own. (R5) -/
  | registerWrite (fn : ViaLink) (off : Nat) (v : Dword)
  /-- FLASH_WRITE_COMPLETE: A flash slot write finishes: FLASHSTAT.BUSY clears, RESULT is set, and under the recovery image the verified image is made primary with BOOTOK, FAIL cleared and a cold start made. (R351) -/
  | flashWriteComplete (size : Nat)
  /-- PEERCFG_WRITE: A write of PEERCFG[p] that enables or disables a peer link, starting its training under the DOM agreement with the far end. (R348) -/
  | peercfgWrite (p : Nat) (v : Dword) (agrees : Bool)
  /-- PEER_LINK_TRAINED: A peer link finishes training with an agreeing partner, sets PEERSTAT.UP and joins the fabric domain. (R348) -/
  | peerLinkTrained (p : Nat)
  deriving DecidableEq, Repr

end Sys2Proof
end

