-- ==== Sys2Proof/Config.lean ====
section
/-! DEFINITION. What an implementation fixes, and the free values: constants without a body, of which nothing can be
proved, so that a theorem holds whatever they are. -/
namespace Sys2Proof

/-- An image of the on-package flash (spec/16 R349): VERSION of its header, the digest of its public key, whether its signature
verifies under that key, and its header and body. -/
structure FlashImage where
  version : Nat
  key : BitVec 256
  intact : Bool
  bytes : List Byte
  deriving DecidableEq, Repr, Inhabited

end Sys2Proof
namespace Sys2Proof.Config

/-- The free values: what the spec leaves open takes `freeNat n` at the current count `n` of State.freeIdx, truncated to
the width of the place (notes/assumptions/9.md). -/
opaque freeNat : Nat → Nat

/-- The free choice of the hardware step that moves next when the agenda is empty (notes/assumptions/1.md). -/
opaque pick : Nat → Nat

/-- The free choice of what leaves a full cache: the place, among `n` keys, of the one that goes (spec/02 R58, R63, spec/01 R32;
notes/assumptions/7.md). -/
opaque victim : Nat → List Nat → Nat
/-- The set of a slice in which a line is held, modulo 128: the spec does not say which (spec/02 R63, notes/assumptions/7.md). -/
opaque l2Set : Nat → Nat
/-- How many free choices may pass before the oldest pending write takes its home instant: a finite number (spec/03 R88). -/
opaque patience : Nat

/-- The cell along an axis in which a march starts whose position there is NaN, modulo the grid's extent: a function of what the
position is computed from (spec/13 R301, spec/04 R114, notes/assumptions/25.md). -/
opaque nanCell : Nat → Word → Word → Word → Nat

/-- The opcodes, form bit included, that a portable version from 1 to 4 leaves unassigned: the spec does not list them (spec/16 R355,
notes/assumptions/10.md). -/
opaque unassigned : Nat → Nat → Bool

/-- The portable object that bytes of memory are: the spec gives neither the file format nor the form of a signature, and bytes that
are no object make a malformed one (spec/16 R354, notes/assumptions/10.md). -/
opaque objectOf : List Byte → CodeObject
/-- The image that bytes of memory are: the spec does not give the place of VERSION in its header, nor the form of its signature
(spec/16 R349, R351, notes/assumptions/10.md). -/
opaque imageOf : List Byte → FlashImage
/-- The digest of the key under which the lifecycle transition object in memory at an address is signed, if it is signed (spec/16
R351, notes/assumptions/10.md). -/
opaque signerAt : List (Nat × Byte) → Nat → Option (BitVec 256)
/-- The owner key digest that a transition to provisioned fuses, by its object: the spec does not say whence it comes (spec/16 R349,
notes/assumptions/10.md). -/
opaque ownerAt : List (Nat × Byte) → Nat → BitVec 256

/-- 512 cores, 64 lantern cores, 64 stands of eight cores, 8 C-dies (spec/00 R1, spec/01 R17). -/
def numCores : Nat := 512
/-- Lantern cores: one in each stand (spec/01 R17). -/
def numLanterns : Nat := 64
/-- C-dies. -/
def numDies : Nat := 8
/-- Group slots of a core (spec/02 R46). -/
def groupSlots : Nat := 32
/-- Team-sequencer slots of a core (spec/02 R46). -/
def teamSlots : Nat := 8
/-- Path-table entries of a group (spec/05 R122). -/
def pathSlots : Nat := 32
/-- Reconvergence stack entries of a group (spec/05 R123). -/
def stackSlots : Nat := 64
/-- The instructions of a run (spec/05 R134). -/
def runLimit : Nat := 8
/-- Physical lane registers of a core (spec/02 R45). -/
def laneRegs : Nat := 131072
/-- Resident lanes of a core (spec/05 R115). -/
def residentLanes : Nat := 1024
/-- Program slots of a lantern core (spec/14 R324). -/
def lanternSlots : Nat := 8
/-- TLB entries of a core and of a lantern core, and walk-cache entries of a die (spec/01 R32). -/
def tlbEntries : Nat := 2048
/-- TLB entries of a lantern core. -/
def lanternTlb : Nat := 64
/-- Walk-cache entries of a die. -/
def walkEntries : Nat := 4096
/-- Lines of a core's instruction cache: 64 KiB of 64 bytes (spec/02 R44, R61). -/
def codeLines : Nat := 1024
/-- Lines of a lantern core's instruction cache and of its data cache: 32 KiB of 64 bytes each. -/
def lanternLines : Nat := 512
/-- Lines of L1 for each eighth of a core's SRAM: 128 KiB of 64 bytes (spec/02 R58). -/
def l1Share : Nat := 2048
/-- Sets of an L2 slice, and the tags and data ways of a set (spec/02 R63). -/
def l2Sets : Nat := 128
/-- Tags of a set. -/
def l2Tags : Nat := 32
/-- Data ways of a set. -/
def l2Ways : Nat := 16
/-- Bytes of module HBM5, 1 TiB (spec/01 R15). -/
def hbmBytes : Nat := 1099511627776

end Sys2Proof.Config
end

