-- ==== Sys2Proof/Machine/State.lean ====
section
/-! DEFINITION. The state of the Gliec as plain data: everything the spec gives the machine, and the state after reset. -/
namespace Sys2Proof.Machine

/-- Why the machine stops. -/
inductive Fault where
  /-- Raised by `issue` in Machine/Issue.lean: an instruction was given to `exec` while no unit has its turn to issue. `step`
  never does this. Safe: nothing of the hardware corresponds to it. -/
  | noIssuingUnit
  deriving DecidableEq, Repr

/-- Why an instruction has no meaning here. -/
inductive Refusal where
  /-- Raised by an arm of `exec` whose instruction has not been given its meaning. Safe: nothing follows from it. -/
  | notModelled (mnemonic : String)
  deriving DecidableEq, Repr

/-- STATE of a path-table entry (spec/05 R122). -/
inductive PathState where
  | ready
  | waiting
  | atJoin
  | atRegang
  | parked
  | held
  | spill
  deriving DecidableEq, Repr

/-- Memory: bytes by physical address, ascending, no entry 0; an unlisted byte reads as 0 (spec/02 R81 for module HBM5;
notes/assumptions/3.md for host and peer frames). -/
abbrev Mem := List Host.Cell

/-- The memory lists its bytes in ascending order and lists no zero. -/
def Mem.wf : Mem → Bool
  | [] => true
  | [c] => c.2 != 0
  | c :: d :: r => c.2 != 0 && decide (c.1 < d.1) && Mem.wf (d :: r)

/-- A trap frame (spec/15 R329). `held` are the path's lanes as they stood at the trap (spec/15 R331). -/
structure Frame where
  active : Bool
  all : Bool
  cause : Byte
  detail : BitVec 16
  fmt : Word
  rpc : Dword
  fpc : Dword
  addr : Dword
  lanes : Dword
  held : Dword
  deriving DecidableEq, Repr

/-- A lane's binding to a choice vector (spec/12 R271, R273). -/
structure Binding where
  bound : Bool
  ptr : Dword
  mode : Bool
  key : Dword
  ser : Word
  nstr : Nat
  cap : Nat
  cur : Tab Nat
  result : Word
  rv : Bool
  ever : Bool
  deriving DecidableEq, Repr

/-- The run in progress: instructions issued, the writes it has not committed, and the latches of both pipes
(spec/05 R134 to R136). Lane registers have the key 64 * register + lane. -/
structure Run where
  count : Nat
  vOver : Tab Word
  sOver : Tab Dword
  bOver : Tab Binding
  xOver : BitVec 7
  lat : List (Option (Tab Dword))
  ulat : List (Option Dword)
  deriving DecidableEq, Repr

/-- The instruction a unit waits in, with what it fixed when it began to wait (notes/assumptions/66.md). -/
structure Wait where
  instr : Instr
  lo : Nat
  deriving DecidableEq, Repr

/-- A park: the lanes that faulted and the records that system software may answer (spec/01 R36, R40). -/
structure Park where
  mask : Dword
  pc : Dword
  addr : Dword
  seqs : List Nat
  deriving DecidableEq, Repr

/-- What a path, a team sequencer and a lantern program have in common (spec/05 R118, R122, R137). `released`: GO has released it,
and it starts one run before DBGSTOP can hold it again (spec/16 R356). -/
structure Thread where
  pc : Dword
  runpc : Dword
  fmt : Word
  state : PathState
  frame : Frame
  run : Run
  wait : Option Wait
  park : Option Park
  age : Option Nat
  released : Bool
  deriving DecidableEq, Repr

/-- A valid path-table entry (spec/05 R122); an entry that is not valid is absent from its table. `fam` numbers the
path's family (spec/09 R221). -/
structure Path where
  th : Thread
  mask : Dword
  arm : Bool
  partner : Nat
  stk : Nat
  stkv : Bool
  wb : Nat
  fam : Nat
  deriving DecidableEq, Repr

/-- A reconvergence stack entry in use (spec/05 R123). -/
structure StackEntry where
  rmask : Dword
  pmask : Dword
  ppc : Dword
  fmt : Word
  kind : Bool
  half : Bool
  next : Nat
  nextv : Bool
  nochk : Bool
  deriving DecidableEq, Repr

/-- A candidate: its hit fields and its record's address. -/
structure Hit where
  t : Word
  u : Word
  v : Word
  inst : Nat
  prim : Nat
  addr : Nat
  kind : Nat
  sub : Nat
  ca : Nat
  cb : Nat
  half : Nat
  front : Bool
  deriving DecidableEq, Repr
/-- A resident group (spec/05 R115, R122, R130). `lwb` is the window base under which each lane last committed a run, the
lane's window once no path holds it (spec/09 R218, notes/assumptions/15.md). `hitRec` is the record address of each lane's
held hit (spec/13 R295); `nexts` are the candidates that a lane's TRACEO has kept so far (spec/13 R296); `traced` are the lanes whose operation has finished while its instruction still waits for others
(spec/13 R304, notes/assumptions/23.md). -/
structure Group where
  team : Nat
  number : Nat
  role : Nat
  width : Nat
  launched : Dword
  idle : Dword
  exited : Dword
  alloc : Nat
  los : Tab Nat
  spilled : Tab Nat
  lwb : Tab Nat
  vregs : Tab Word
  sregs : Tab Dword
  xflags : BitVec 7
  paths : Tab Path
  stack : Tab StackEntry
  growReq : Option Nat
  stall : Tab Word
  binds : Tab Binding
  slots : Tab (Tab Dword)
  hitRec : Tab Dword
  nexts : Tab (List Hit)
  traced : Dword
  replayIdx : Tab Nat
  admitted : Nat
  retired : Bool
  deriving DecidableEq, Repr

/-- A numbered barrier (spec/05 R119, R120): the participant set that the phase's arrivals named, the lanes of each group
slot that have arrived, and whether the sequencer has. -/
structure Barrier where
  phase : Nat
  set : Option Nat
  arrived : Tab Dword
  seq : Bool
  deriving DecidableEq, Repr

/-- A rendezvous slot that is FULL (spec/09 R224); an empty one is absent. -/
structure XSlot where
  mask : Dword
  vals : Tab Dword
  deriving DecidableEq, Repr

/-- A command in an engine queue (spec/10 R237, spec/04 R97 to R99): its place in the team's order of issue, its
instruction and operand values read at issue, the record it read when it began, its guard and the guard's decision (none:
held), the scratchpad lines whose presence it cleared and has not restored, the tiles it reads and writes, how far it has come, the
bytes of a row image on their way, the record and address of the NOTPRESENT fault that holds it, whether it has failed and waits for
its error record (spec/15 R335), and whether its span has ended before it begins (spec/11 R258). -/
structure Cmd where
  id : Nat
  instr : Instr
  ops : List Dword
  record : Option (List Dword)
  guard : Option (Nat × Bool)
  go : Option Bool
  lines : List Nat
  rdTiles : List Nat
  wrTiles : List Nat
  progress : Nat
  begun : Bool
  buf : List Byte
  park : Option (Nat × Dword)
  failed : Bool
  doomed : Bool
  deriving DecidableEq, Repr

/-- An engine queue (spec/10 R237, spec/15 R335). -/
structure EngQueue where
  cmds : List Cmd
  halted : Bool
  deriving DecidableEq, Repr

/-- A team's trunk block (spec/11 R257, R258). -/
structure TrunkCfg where
  base : Nat
  size : Nat
  rowLen : Nat
  span : Nat
  pos : Nat
  members : List Nat
  deriving DecidableEq, Repr

/-- A span partial received from a position of the span (spec/04 R103), or on its way to this team. -/
structure Partial where
  row : Nat
  pos : Nat
  sq : BitVec 144
  wcnt : BitVec 16
  deriving DecidableEq, Repr

/-- A resident team with its sequencer (spec/05 R115, R118, R119). `absent` are scratchpad lines that its image marked absent and that
no command of it is to write (spec/15 R341). `coop` is COOP of its grid, as its image holds it (spec/15 R367). `retiring` is how far its retirement has come: 0 not begun,
1 its replay records are made, 2 its stall record waits, 3 its stall record is written. -/
structure Team where
  grid : Nat
  ctx : Nat
  number : Nat
  kernel : Kernel
  coop : Bool
  slots : List Nat
  spBase : Nat
  spSize : Nat
  absent : List Nat
  tiles : List Nat
  trunk : TrunkCfg
  queues : Tab (List Dword)
  bars : Tab Barrier
  guards : Tab Bool
  xslots : Tab XSlot
  oms : Tab (List Dword)
  eng : Tab EngQueue
  nextCmd : Nat
  fenceLo : Nat
  closures : Tab (Nat × Nat)
  errRec : Option (List Dword)
  haltPending : List Nat
  seq : Thread
  seqRegs : Tab Dword
  seqExited : Bool
  partials : List Partial
  inbox : List Partial
  gridArrived : Tab Dword
  torn : Bool
  retiring : Nat
  deriving DecidableEq, Repr

/-- A write of a core between its core-visible and its home-visible instant (spec/03 R85): by stream of issue, the lanes whose next
accesses it precedes or which have read it (R89, R92), the writes whose home instants come before its own, and the scope of the
release that it is or that a fence before it was, 0 for none (R92 rows 6 and 7). -/
structure PendWrite where
  id : Nat
  after : Tab Dword
  pa : Nat
  bytes : List Byte
  pol : Nat
  mir : Bool
  zel : Bool
  deps : List Nat
  rel : Nat
  deriving DecidableEq, Repr

/-- A store that has been issued and has not yet its core-visible instant (spec/03 R85, R88, notes/assumptions/5.md): the write as it
will pend, the lanes of the path that issued it in stream `grp`, and for one to scratchpad, whose address is then that of the core's
SRAM, its team slot. -/
structure LateStore where
  w : PendWrite
  grp : Nat
  own : Dword
  sp : Option Nat
  deriving DecidableEq, Repr

/-- A read that lanes of a path have made before they come to the instruction that makes it (spec/03 R92, notes/assumptions/5.md): the
stream and lanes of the path, those that may use it, and what they read, with t = p where `fresh`; an address in scratchpad is that of
the core's SRAM. -/
structure Ahead where
  grp : Nat
  own : Dword
  lanes : Dword
  sp : Bool
  place : Nat
  bytes : List Byte
  fresh : Bool
  deriving DecidableEq, Repr

/-- A release fence of lanes of a stream at a far scope: their later writes come after the writes `ids` (spec/03 R92 row 7). -/
structure Promise where
  grp : Nat
  lanes : Dword
  scope : Nat
  ids : List Nat
  deriving DecidableEq, Repr

/-- A leaf held in a TLB (spec/01 R32): context, page base and level, the entry and its address. -/
structure TlbEntry where
  ctx : Nat
  base : Nat
  level : Nat
  leaf : Dword
  pte : Nat
  deriving DecidableEq, Repr

/-- A context's descriptor words 0 to 3 (spec/01 R19). -/
structure CtxDesc where
  w0 : Dword
  w1 : Dword
  w2 : Dword
  w3 : Dword
  deriving DecidableEq, Repr

/-- A table-pointer entry in a die's walk cache: context, the root of the walk that read it, level, and the virtual address divided
by what an entry of the level covers (spec/01 R32, R43). -/
structure WalkEntry where
  ctx : Nat
  root : Nat
  level : Nat
  base : Nat
  entry : Dword
  deriving DecidableEq, Repr

/-- The caches and pending writes of a core or a lantern core (spec/02 R58 to R62, spec/01 R19, R32), its stores that have not their
core-visible instant yet, its reads made early, and its release fences (spec/03 R85, R92). `views` are lines as home slices held them at
view instants that a later L1-view read may have; they are no part of the L1 (spec/03 R86, R87, notes/assumptions/59.md). -/
structure Caches where
  l1 : Tab (List Byte)
  code : Tab (List Byte)
  tlb : List TlbEntry
  wbuf : List PendWrite
  descs : Tab CtxDesc
  views : Tab (List Byte)
  late : List LateStore
  ahead : List Ahead
  promises : List Promise
  deriving DecidableEq, Repr

/-- A record in a core's layout cache (spec/02 R76). -/
structure LayoutEntry where
  ctx : Nat
  handle : Nat
  words : List Dword
  deriving DecidableEq, Repr

/-- An entry of a core's hit predictor (spec/13 R297). -/
structure PredEntry where
  ctx : Nat
  root : Nat
  leaf : Nat
  deriving DecidableEq, Repr

/-- An accumulator tile: its valid flag and its elements, element (i, j) at 128 * i + j (spec/02 R47). -/
structure Tile where
  valid : Bool
  el : Tab Word
  deriving DecidableEq, Repr

/-- A quadrant: the unit it has chosen for a run, and the last one it chose, by its place in the round (spec/14 R317,
spec/07 R172). -/
structure Quad where
  current : Option UnitId
  last : Nat
  deriving DecidableEq, Repr

/-- A group out on eviction, by its slot, with the place and length of its image (spec/14 R318, spec/16 R346). -/
structure Evicted where
  slot : Nat
  pa : Nat
  len : Nat
  group : Group
  deriving DecidableEq, Repr

/-- A core (spec/02 R44 to R62). Scratchpad bytes and poison have their offset in the core's SRAM. -/
structure Core where
  groups : Tab Group
  teams : Tab Team
  sp : Mem
  spPoison : List Nat
  mc : Caches
  layouts : List LayoutEntry
  predictor : List PredEntry
  tiles : Tab Tile
  trunk : Tab Dword
  sq : Tab (BitVec 144)
  rowFlags : Tab Word
  lastCtx : Option Nat
  quads : Tab Quad
  clock : Dword
  evicted : List Evicted
  deriving DecidableEq, Repr

/-- A lantern-core program (spec/14 R324). -/
structure Prog where
  ctx : Nat
  grid : Nat
  number : Nat
  th : Thread
  sregs : Tab Dword
  deriving DecidableEq, Repr

/-- A lantern core (spec/05 R137, spec/02 R62). -/
structure Lantern where
  progs : Tab Prog
  mc : Caches
  clock : Dword
  last : Nat
  deriving DecidableEq, Repr

/-- What waits for a NOTPRESENT record's answer (spec/01 R36, R37); `saved` is a requester of a team that has been saved
(spec/15 R341). `failing` is no requester: command `id` completes once its record is written (spec/04 R99, spec/15 R335). -/
inductive Requester where
  | unit (u : UnitId)
  | engine (core team q : Nat)
  | failing (core team q id : Nat)
  | deferred (n : Nat)
  | saved
  deriving DecidableEq, Repr

/-- A trap ready to be taken by unit `to` (spec/15 R329). -/
structure Delivery where
  dest : UnitId
  lanes : Dword
  cause : Nat
  detail : Nat
  addr : Dword
  all : Bool
  rpc : Dword
  fpc : Dword
  deriving DecidableEq, Repr

/-- A record of a context's fault ring that waits to be written, with the descriptor that the faulting node used, who is parked on it and the trap that is held until
it is written (spec/01 R39). -/
structure PendRecord where
  words : List Dword
  desc : CtxDesc
  seq : Nat
  out : Option Requester
  deliver : Option Delivery
  deriving DecidableEq, Repr

/-- A NOTPRESENT record that a requester is parked on (spec/01 R40). -/
structure Outstanding where
  seq : Nat
  req : Requester
  deriving DecidableEq, Repr

/-- A context: descriptor, trap vector, sequence counters of its fault and of its debug records (spec/01 R19, R38 to R40, spec/16 R353,
R356). `answers` are
the answers, true for ABORT, given to records of teams while they were saved (spec/15 R341). -/
structure Context where
  desc : CtxDesc
  trapv : Dword
  seq : Nat
  dbgSeq : Nat
  pend : List PendRecord
  outstanding : List Outstanding
  answers : List (Nat × Bool)
  deriving DecidableEq, Repr

/-- An invalidation command (spec/01 R41). -/
structure TiCmd where
  kind : Nat
  va : Nat
  ctx : Nat
  grove : Nat
  tag : Word
  deriving DecidableEq, Repr

/-- A save, resume or teardown command (spec/15 R338). -/
structure PsCmd where
  act : Nat
  ctx : Nat
  all : Bool
  team : Nat
  tag : Byte
  img : Nat
  core : Nat
  deriving DecidableEq, Repr

/-- The invalidation and pre-emption registers of a window (spec/01 R41, spec/15 R338). -/
structure Window where
  tiva : Dword
  tiq : List TiCmd
  tiErr : Bool
  tiDone : Word
  psimg : Dword
  psq : List PsCmd
  psErr : Bool
  psDone : Byte
  deriving DecidableEq, Repr

/-- The GRAPH entry a submission queue is running: its nodes' descriptors and addresses, its edges, the grid of each node
that has started, the nodes that have ended, and whether a team was torn down (spec/14 R310, spec/15 R337). -/
structure GraphRun where
  base : Nat
  descs : List (List Dword)
  edges : List (Nat × Nat)
  grids : Tab Nat
  ended : List Nat
  torn : Bool
  deriving DecidableEq, Repr

/-- A submission queue (spec/14 R307), with the GRAPH or WAIT entry it has started. -/
structure SubQueue where
  base : Dword
  en : Bool
  pri : Nat
  log2n : Nat
  ctx : Nat
  tail : Word
  done : Word
  err : Byte
  halt : Bool
  graph : Option GraphRun
  wait : Option (Nat × Dword)
  deriving DecidableEq, Repr

/-- The list of replay records of a REPLAY, with its address and the address of the word that reports the end
(spec/12 R281). -/
structure ReplayList where
  recs : List (List Dword)
  list : Dword
  dest : Dword
  deriving DecidableEq, Repr

/-- An entry of a grove's device-side launch queue: a launch descriptor, or a REPLAY list (spec/12 R281, spec/14 R319). -/
structure DevLaunch where
  ctx : Nat
  desc : List Dword
  addr : Nat
  nteams : Nat
  pri : Nat
  replay : Option ReplayList
  deriving DecidableEq, Repr

/-- A grove (spec/01 R17, spec/14 R307 to R319, spec/16 R345 to R359). `codeKey` is the digest of the code key registered for it (spec/16 R354);
`stallPend` are the teams, by core and slot, whose
stall record waits to be written, `dbgPend` the debug records that wait, with the units they are of; `served` is, by priority, the queue whose grid an admission unit served last, 64 for the
device-side queue (spec/14 R309). -/
structure Grove where
  win : Window
  events : Tab Dword
  queues : Tab SubQueue
  devq : List DevLaunch
  evbase : Dword
  apbase : Dword
  apctx : Dword
  gint : BitVec 4
  stallq : Dword
  dbgq : Dword
  stallPend : List (Nat × Nat)
  dbgPend : List (UnitId × List Dword)
  dbgstop : Dword
  dbgctl : Dword
  codeKey : BitVec 256
  served : Tab Nat
  deriving DecidableEq, Repr

/-- Where a grid came from (spec/14 R307, R319). -/
inductive GridSource where
  | node (grove queue node : Nat)
  | device (grove : Nat)
  deriving DecidableEq, Repr

/-- A grid that has started and not ended (spec/14 R310 to R324, spec/12 R281). `away` are the numbers of its teams that are saved and
not resumed (spec/15 R338), `clashed` those of them whose next TCFG ends as ill-formed when they are back (spec/11 R258). -/
structure Grid where
  ctx : Nat
  grove : Nat
  src : GridSource
  pri : Nat
  kernel : Kernel
  descAddr : Nat
  nteams : Nat
  tlan : Nat
  args : Nat
  rra : Nat
  fmt : Word
  spk : Nat
  tiles : Nat
  trk : Nat
  coop : Bool
  lant : Bool
  spill : Nat
  replay : Option ReplayList
  admitted : Nat
  retired : Nat
  away : List Nat
  torn : Bool
  clashed : List Nat
  syncPhase : Nat
  ending : Bool
  deriving DecidableEq, Repr

/-- A write that the hardware owes after a lane or grid has ended, held by the NOTPRESENT record `parkSeq` (spec/12 R366):
address, bytes and whom it concerns; with `keep` each 32-bit word takes the larger of its 17-bit values (spec/12 R276). -/
structure Deferred where
  id : Nat
  ctx : Nat
  grid : Nat
  core : Nat
  slot : Nat
  lanes : Dword
  va : Dword
  bytes : List Byte
  keep : Bool
  parkSeq : Nat
  deriving DecidableEq, Repr

/-- A line held in its L2 slice: zero-flag form, valid and dirty sectors (spec/02 R63). -/
structure L2Line where
  z : Bool
  vs : BitVec 4
  ds : BitVec 4
  deriving DecidableEq, Repr

/-- What one rank of a collective has read so far of its send buffer and its carries, `units` of them, and which of the bytes come
from poison: it is on its way to the other ranks (spec/10 R246, spec/04 R109). -/
structure Contribution where
  key : Dword × Nat × Nat
  rank : Nat
  units : Nat
  bytes : List Byte
  bad : List Bool
  deriving DecidableEq, Repr

/-- A mirror write on its way to the other dies (spec/04 R104), with its effective policy, whether its bytes come from poison, and for
a ZFILL of a whole L2 line the page's ZEL (spec/01 R26, spec/02 R70, R80). -/
structure MirrorWrite where
  vc : List Nat
  die : Nat
  off : Nat
  bytes : List Byte
  pol : Nat
  bad : Bool
  zero : Option Bool
  applied : List Nat
  deriving DecidableEq, Repr

/-- The eight vector clocks, the mirror writes in flight, and the sum and die of the current writer of each replica byte
(spec/04 R104). -/
structure Mirror where
  vc : Tab Nat
  flight : List MirrorWrite
  cur : Tab (Nat × Nat)
  deriving DecidableEq, Repr

/-- Configuration of a peer link (spec/16 R348, R353). -/
structure Peer where
  en : Bool
  accept : Bool
  lo : Nat
  hi : Nat
  dom : Nat
  refused : Word
  up : Bool
  agrees : Bool
  deriving DecidableEq, Repr

/-- A host link's status (spec/16 R353). -/
structure LinkStat where
  rate : BitVec 2
  width : BitVec 2
  held : Bool
  ide : Bool
  deriving DecidableEq, Repr

/-- The start in progress: cold or warm, and the image it selected (spec/16 R350). -/
structure Start where
  warm : Bool
  image : Option (BitVec 2)
  deriving DecidableEq, Repr

/-- Boot, lifecycle, fuses and flash (spec/16 R349 to R351): `slots` are the images A, B and recovery; `dead`: the recovery image has
failed, and the module waits for a fundamental reset. -/
structure Boot where
  mfgKey : BitVec 256
  ownerKey : BitVec 256
  minVersion : Nat
  slots : Tab FlashImage
  lcstate : BitVec 2
  attempt : Nat
  image : BitVec 2
  primary : Bool
  fail : Bool
  swap : Bool
  dead : Bool
  start : Option Start
  flashBusy : Bool
  flashSlot : BitVec 2
  flashSrc : BitVec 46
  flashResult : BitVec 2
  deriving DecidableEq, Repr

/-- TRIGRX (spec/16 R353, R359). -/
structure TrigRx where
  ostamp : Dword
  lstamp : Dword
  origin : Byte
  fresh : Bool
  deriving DecidableEq, Repr

/-- Registers of the physical function (spec/16 R351 to R353, spec/02 R49, spec/14 R314). -/
structure PfRegs where
  win : Window
  ctxsel : BitVec 12
  split : Tab Nat
  ecw : Dword
  ecb : Tab Nat
  standgrv : Tab (BitVec 7)
  grvlink : Tab Bool
  peers : Tab Peer
  coll : Tab (Dword × Dword)
  fabid : Byte
  trigrx : TrigRx
  links : Tab LinkStat
  sag : Tab Word
  sagLevel : Tab Nat
  hbmCorr : Tab Word
  hbmUncorr : Tab Word
  deriving DecidableEq, Repr

/-- What moves next when the agenda says so: an event of the opcode table, a unit of a quadrant already chosen, a pending
write reaching its home, an entry leaving a cache, or an access of a unit at an instant that is not its issue: a line as it now stands
at home seen for a later read, bytes read early, a store put off, a store put off made visible, the next instruction of other units
between the lanes of an atomic, or one unit of an engine's work (notes/assumptions/1.md, 5.md, 7.md, 59.md; spec/15 R339). `node` below 512 is a core, from 512 on a lantern core. -/
inductive Turn where
  | event (i : Instr)
  | issue (u : UnitId)
  | drain (node k : Nat)
  | evictL1 (node line : Nat)
  | evictCode (node line : Nat)
  | evictTlb (node k : Nat)
  | evictWalk (die k : Nat)
  | glance (node line : Nat)
  | readAhead (u : UnitId) (upto : Nat) (sp : Bool) (place n : Nat) (fresh : Bool)
  | putOff (u : UnitId)
  | appear (node k : Nat)
  | between (u : UnitId) (others : List (Nat × UnitId))
  | unit (core team q : Nat)
  | evictLayout (core k : Nat)
  | learn (core ctx root leaf : Nat)
  deriving DecidableEq, Repr

/-- The machine. `walks` are the dies' walk caches; `nextWrite` numbers pending writes, and `waited` counts the free choices since
the oldest one was last made to take its home instant (notes/assumptions/60.md). `hostData` is what the last read by the host or a peer returned, and `hostBad` whether it was returned
poisoned; `trigOut` the trigger messages sent: module number and timestamp. -/
structure State where
  mem : Mem
  hbm : Mem
  l2 : Tab L2Line
  poison : List Nat
  hbmPoison : List Nat
  walks : Tab (List WalkEntry)
  nextWrite : Nat
  mirror : Mirror
  cores : Tab Core
  lanterns : Tab Lantern
  ctxs : Tab Context
  groves : Tab Grove
  grids : Tab Grid
  nextGrid : Nat
  kernels : List Kernel
  deferred : List Deferred
  contribs : List Contribution
  pf : PfRegs
  boot : Boot
  time : Dword
  trigOut : List (Byte × Dword)
  hostData : List Byte
  hostBad : Bool
  agenda : List Turn
  turn : Option UnitId
  freeIdx : Nat
  waited : Nat
  deriving DecidableEq, Repr

/-- No trap is being handled (spec/15 R329). -/
def Frame.none : Frame :=
  { active := false, all := false, cause := 0, detail := 0, fmt := 0, rpc := 0, fpc := 0, addr := 0, lanes := 0, held := 0 }
/-- Cleared binding state (spec/12 R271). -/
def Binding.none : Binding :=
  { bound := false, ptr := 0, mode := false, key := 0, ser := 0, nstr := 0, cap := 0, cur := .empty, result := 0,
    rv := false, ever := false }
/-- A run that has issued nothing: all latches are invalid (spec/05 R136). -/
def Run.fresh : Run :=
  { count := 0, vOver := .empty, sOver := .empty, bOver := .empty, xOver := 0, lat := [.none, .none, .none, .none],
    ulat := [.none, .none, .none, .none] }
/-- A thread about to start at `pc` with the given fmt. -/
def Thread.startAt (pc : Dword) (fmt : Word) : Thread :=
  { pc := pc, runpc := pc, fmt := fmt, state := .ready, frame := .none, run := .fresh, wait := .none, park := .none,
    age := .none, released := false }
/-- A path-table entry's values where none is in use (spec/05 R122). -/
def Path.none : Path :=
  { th := .startAt 0 0, mask := 0, arm := false, partner := 0, stk := 0, stkv := false, wb := 0, fam := 0 }
/-- A stack entry's values where none is in use (spec/05 R123). -/
def StackEntry.none : StackEntry :=
  { rmask := 0, pmask := 0, ppc := 0, fmt := 0, kind := false, half := false, next := 0, nextv := false, nochk := false }
/-- A group slot with nothing resident. -/
def Group.none : Group :=
  { team := 0, number := 0, role := 0, width := 0, launched := 0, idle := 0, exited := 0, alloc := 0, los := .empty,
    spilled := .empty, lwb := .empty, vregs := .empty, sregs := .empty, xflags := 0, paths := .empty, stack := .empty,
    growReq := .none, stall := .empty, binds := .empty, slots := .empty, hitRec := .empty, nexts := .empty, traced := 0,
    replayIdx := .empty, admitted := 0,
    retired := false }
/-- A barrier at phase 0 with no arrivals (spec/05 R119). -/
def Barrier.none : Barrier := { phase := 0, set := .none, arrived := .empty, seq := false }
/-- An empty engine queue. -/
def EngQueue.none : EngQueue := { cmds := [], halted := false }
/-- No trunk grant. -/
def TrunkCfg.none : TrunkCfg := { base := 0, size := 0, rowLen := 128, span := 1, pos := 0, members := [] }
/-- A kernel of one role and one group (spec/05 R117). -/
def noKernel : Kernel :=
  { ctx := 0, entry := 0, addrEntry := 0, width := 32, roles := [], energy := 0, replayable := false }
/-- A team slot with nothing resident. -/
def Team.none : Team :=
  { grid := 0, ctx := 0, number := 0, kernel := noKernel, coop := false, slots := [], spBase := 0, spSize := 0, absent := [], tiles := [],
    trunk := .none, queues := .empty, bars := .empty, guards := .empty, xslots := .empty, oms := .empty, eng := .empty,
    nextCmd := 0, fenceLo := 0, closures := .empty, errRec := .none, haltPending := [], seq := .startAt 0 0,
    seqRegs := .empty, seqExited := false, partials := [], inbox := [], gridArrived := .empty, torn := false,
    retiring := 0 }
/-- Caches with nothing in them (spec/02 R81). -/
def Caches.none : Caches :=
  { l1 := .empty, code := .empty, tlb := [], wbuf := [], descs := .empty, views := .empty, late := [], ahead := [], promises := [] }
/-- A tile at admission: +0 and valid (spec/11 R247). -/
def Tile.zero : Tile := { valid := true, el := .empty }
/-- A quadrant that has chosen nothing yet. -/
def Quad.none : Quad := { current := .none, last := 0 }
/-- A core after a wipe (spec/02 R81). -/
def Core.none : Core :=
  { groups := .empty, teams := .empty, sp := [], spPoison := [], mc := .none, layouts := [], predictor := [],
    tiles := .empty, trunk := .empty, sq := .empty, rowFlags := .empty, lastCtx := .none, quads := .empty, clock := 0,
    evicted := [] }
/-- A lantern program slot with no program. -/
def Prog.none : Prog :=
  { ctx := 0, grid := 0, number := 0, th := .startAt 0 0, sregs := .empty }
/-- A lantern core after a wipe. -/
def Lantern.none : Lantern := { progs := .empty, mc := .none, clock := 0, last := 0 }
/-- A descriptor after reset (spec/01 R19; the fields with no reset value: notes/assumptions/2.md). -/
def CtxDesc.reset : CtxDesc := { w0 := 0, w1 := 0, w2 := 0, w3 := 0 }
/-- A context after reset. -/
def Context.reset : Context := { desc := .reset, trapv := 0, seq := 0, dbgSeq := 0, pend := [], outstanding := [], answers := [] }
/-- A window's registers after reset (spec/01 R41, spec/15 R338). -/
def Window.reset : Window :=
  { tiva := 0, tiq := [], tiErr := false, tiDone := 0, psimg := 0, psq := [], psErr := false, psDone := 0 }
/-- A submission queue after reset (spec/14 R307). -/
def SubQueue.reset : SubQueue :=
  { base := 0, en := false, pri := 0, log2n := 0, ctx := 0, tail := 0, done := 0, err := 0, halt := false,
    graph := .none, wait := .none }
/-- A grove after reset; GINT, DBGCTL, APBASE, APCTX and the code key have no value there in the spec (notes/assumptions/2.md). -/
def Grove.reset : Grove :=
  { win := .reset, events := .empty, queues := .empty, devq := [], evbase := 0, apbase := 0, apctx := 0, gint := 0,
    stallq := 0, dbgq := 0, stallPend := [], dbgPend := [], dbgstop := 0, dbgctl := 0, codeKey := 0, served := .empty }
/-- No grid. -/
def Grid.none : Grid :=
  { ctx := 0, grove := 0, src := .device 0, pri := 0, kernel := noKernel, descAddr := 0, nteams := 1, tlan := 0, args := 0,
    rra := 0, fmt := 0, spk := 0, tiles := 0, trk := 0, coop := false, lant := false, spill := 0, replay := .none,
    admitted := 0, retired := 0, away := [], torn := false, clashed := [], syncPhase := 0, ending := false }
/-- A peer link after reset (spec/16 R348, R353). -/
def Peer.reset : Peer :=
  { en := false, accept := false, lo := 0, hi := 0, dom := 0, refused := 0, up := false, agrees := false }
/-- A host link after reset (spec/16 R353). -/
def LinkStat.reset : LinkStat := { rate := 0, width := 0, held := false, ide := false }
/-- The weights of ECW after reset: 1, 2, 3, 4, 6, 8, 12, 16 from the low byte up (spec/14 R314). -/
def ecwReset : Dword := 0x100C080604030201
/-- The physical function's registers after reset. -/
def PfRegs.reset : PfRegs :=
  { win := .reset, ctxsel := 0, split := .empty, ecw := ecwReset, ecb := .empty, standgrv := .empty, grvlink := .empty,
    peers := .empty, coll := .empty, fabid := 0, trigrx := { ostamp := 0, lstamp := 0, origin := 0, fresh := false },
    links := .empty, sag := .empty, sagLevel := .empty, hbmCorr := .empty, hbmUncorr := .empty }
/-- An image as a module is delivered with it (notes/assumptions/2.md). -/
def shippedImage : FlashImage := { version := 0, key := 0, intact := true, bytes := [] }
/-- Boot after reset: no start in progress, image A (spec/16 R351; notes/assumptions/2.md). -/
def Boot.reset : Boot :=
  { mfgKey := 0, ownerKey := 0, minVersion := 0, slots := .empty, lcstate := 0, attempt := 0, image := 0, primary := false, fail := false, swap := false, dead := false,
    start := .none,
    flashBusy := false, flashSlot := 0, flashSrc := 0, flashResult := 0 }
/-- Mirror state after a wipe (spec/04 R104). -/
def Mirror.reset : Mirror := { vc := .empty, flight := [], cur := .empty }

/-- The machine right after reset: every register at its Reset column, memory wiped, nothing resident, no unit's turn. -/
def State.reset : State :=
  { mem := [], hbm := [], l2 := .empty, poison := [], hbmPoison := [], walks := .empty, nextWrite := 0, mirror := .reset, cores := .empty,
    lanterns := .empty, ctxs := .empty, groves := .empty, grids := .empty, nextGrid := 0, kernels := [], deferred := [], contribs := [],
    pf := .reset, boot := .reset, time := 0, trigOut := [], hostData := [], hostBad := false, agenda := [], turn := .none, freeIdx := 0,
    waited := 0 }

end Sys2Proof.Machine
end

