-- ==== Sys2Proof/Machine/Mem.lean ====
section
/-! DEFINITION. Memory in its canonical form, the home slices of module HBM5 with what lies below them, and poison
(spec/02 R63 to R72, R78 to R80; spec/04 R104, R105). -/
namespace Sys2Proof.Machine

/-- The byte at `a`. -/
def Mem.get (m : Mem) (a : Nat) : Byte := (findCell a m).getD 0
/-- The memory with byte `b` at `a`; a zero is not listed. -/
def Mem.set (m : Mem) (a : Nat) (b : Byte) : Mem := if b = 0 then dropCell a m else putCell a b m
/-- `n` bytes from `a` up. -/
def Mem.read (m : Mem) (a n : Nat) : List Byte := (List.range n).map fun i => m.get (a + i)
/-- The memory with bytes from `a` up. -/
def Mem.write (m : Mem) (a : Nat) : List Byte → Mem
  | [] => m
  | b :: r => Mem.write (m.set a b) (a + 1) r

/-- A number put into a list without repeats. -/
def addNum (k : Nat) (l : List Nat) : List Nat := if l.contains k then l else k :: l
/-- A number taken out of a list. -/
def delNum (k : Nat) (l : List Nat) : List Nat := l.filter (· != k)

/-- Module HBM5 (spec/01 R15). -/
def inHbm (pa : Nat) : Bool := decide (pa < Config.hbmBytes)
/-- Host memory (spec/01 R15). -/
def inHost (pa : Nat) : Bool := pa / 2 ^ 48 == 1
/-- Peer windows (spec/01 R15). -/
def inPeer (pa : Nat) : Bool := pa / 2 ^ 48 == 2
/-- C-die of a byte of module HBM5 (spec/01 R16). -/
def dieOf (pa : Nat) : Nat := pa / 2 ^ 37 % 8
/-- The replica of a mirror page's byte on die `d` (spec/01 R29). -/
def replica (pa d : Nat) : Nat := pa - dieOf pa * 2 ^ 37 + d * 2 ^ 37

/-- h of the home hash (spec/02 R64). -/
def homeHash (pa : Nat) : Nat :=
  (pa / 2 ^ 8 % 128) ^^^ (pa / 2 ^ 15 % 128) ^^^ (pa / 2 ^ 22 % 128) ^^^ (pa / 2 ^ 29 % 128) ^^^ (pa / 2 ^ 36 % 2)
/-- The HBM5 stack of a byte. -/
def stackOf (pa : Nat) : Nat := 2 * dieOf pa + homeHash pa / 64
/-- The channel of a byte within its stack. -/
def channelOf (pa : Nat) : Nat := homeHash pa % 64
/-- The home slice of a byte. -/
def sliceOf (pa : Nat) : Nat := 128 * dieOf pa + homeHash pa
/-- The line index of a byte within its channel. -/
def rowOf (pa : Nat) : Nat := pa / 2 ^ 15 % 2 ^ 22

/-- The line of a byte and its L2 state. -/
def State.line (s : State) (pa : Nat) : Option L2Line := s.l2.find (pa / 256)
/-- Sector k of a 4-bit sector set. -/
def sectorBit (k : Nat) : BitVec 4 := BitVec.ofNat 4 (2 ^ k)
/-- Is a sector of a line dirty? -/
def L2Line.dirty (l : L2Line) (k : Nat) : Bool := l.ds.getLsbD k || (l.z && l.ds != 0)
/-- A sector is read from HBM again: it is poisoned where HBM has it marked. -/
def State.refetch (s : State) (sec : Nat) : State :=
  { s with poison := if s.hbmPoison.contains sec then addNum sec s.poison else delNum sec s.poison }
/-- A dirty sector written to HBM, with its poison. -/
def State.writeDown (s : State) (sec : Nat) : State :=
  { s with
    hbm := s.hbm.write (sec * 64) (s.mem.read (sec * 64) 64)
    hbmPoison := if s.poison.contains sec then addNum sec s.hbmPoison else delNum sec s.hbmPoison }
/-- A line leaves its slice: its dirty sectors are written to HBM, and the others read as HBM holds them (spec/02 R68, R78). -/
def State.writeBack (s : State) (line : Nat) : State :=
  match s.l2.find line with
  | none => s
  | some l =>
    (List.range 4).foldl (fun s k => if l.dirty k then s.writeDown (line * 4 + k) else s.refetch (line * 4 + k))
      { s with l2 := s.l2.drop line }

/-- Room in its set for a line that is to be held, with a data way or without: a line of the set leaves where every way, or every
tag, is taken (spec/02 R63). -/
def State.l2Room (s : State) (line : Nat) (way : Bool) : State :=
  let same := s.l2.cells.filter fun c => c.1 != line && sliceOf (c.1 * 256) == sliceOf (line * 256)
  if same.length < Config.l2Ways then s else
  let set := same.filter fun c => Config.l2Set c.1 % Config.l2Sets == Config.l2Set line % Config.l2Sets
  let leave (l : List (Nat × L2Line)) : State :=
    s.writeBack ((l.map (·.1)).getD (Config.victim s.freeIdx (l.map (·.1)) % l.length) 0)
  if way && decide (Config.l2Ways ≤ (set.filter fun c => !c.2.z).length) then leave (set.filter fun c => !c.2.z)
  else if !s.l2.has line && decide (Config.l2Tags ≤ set.length) then leave set
  else s
/-- A line held in its slice with the given state. -/
def State.l2Hold (s : State) (line : Nat) (l : L2Line) : State :=
  let s := if l.z then s.l2Room line false else
    match s.l2.find line with
    | some k => if k.z then s.l2Room line true else s
    | none => s.l2Room line true
  { s with l2 := s.l2.put line l }

/-- A read at the home slice with the effective policy `pol` (0 home only, 1 L2 only, 2 L1 and L2) fills what it needs of
the line (spec/02 R66, R70). -/
def State.fillL2 (s : State) (pa pol : Nat) (zel : Bool) : State :=
  if !inHbm pa || pol == 0 then s else
  let k := pa / 64 % 4
  match s.line pa with
  | some l => if l.z then s else s.l2Hold (pa / 256) { l with vs := l.vs ||| sectorBit k }
  | none =>
    let base := pa / 256 * 256
    let clear := (s.hbm.read base 256).all (· == 0) && !(List.range 4).any fun i => s.hbmPoison.contains (base / 64 + i)
    if zel && clear then s.l2Hold (pa / 256) { z := true, vs := 15, ds := 0 }
    else s.l2Hold (pa / 256) { z := false, vs := sectorBit k, ds := 0 }

/-- A write of bytes of one sector at the home slice (spec/02 R67, R80). -/
def State.writeSector (s : State) (pa : Nat) (bs : List Byte) (pol : Nat) : State :=
  let sec := pa / 64
  let whole := decide (64 ≤ bs.length)
  let s := { s with mem := s.mem.write pa bs, poison := if whole then delNum sec s.poison else s.poison }
  if !inHbm pa then s else
  let k := sectorBit (sec % 4)
  match s.line pa with
  | some l =>
    if l.z then s.l2Hold (pa / 256) { z := false, vs := 15, ds := if l.ds = 0 then k else 15 }
    else s.l2Hold (pa / 256) { l with vs := l.vs ||| k, ds := l.ds ||| k }
  | none =>
    if pol == 0 then
      { s with hbm := s.hbm.write pa bs, hbmPoison := if whole then delNum sec s.hbmPoison else s.hbmPoison }
    else s.l2Hold (pa / 256) { z := false, vs := k, ds := k }

/-- A write at the home slices, one access for each sector (spec/03 R83). -/
def State.writeHome (s : State) (pa : Nat) (bs : List Byte) (pol : Nat) : State :=
  (pieces 64 pa bs.length).foldl (fun s p => s.writeSector p.1 ((bs.drop (p.1 - pa)).take p.2) pol) s

/-- Does any byte of [pa, pa + n) lie in a poisoned sector? -/
def State.poisoned (s : State) (pa n : Nat) : Bool := (pieces 64 pa n).any fun p => s.poison.contains (p.1 / 64)

/-- Zero-fill of bytes of one line at its home slice (spec/02 R70). -/
def State.zeroLine (s : State) (pa n : Nat) (zel : Bool) : State :=
  if n = 256 && inHbm pa then
    let base := pa / 64
    ({ s with
      mem := s.mem.write pa (List.replicate 256 0)
      poison := s.poison.filter fun k => !(decide (base ≤ k) && decide (k < base + 4)) } : State).l2Hold (pa / 256)
        { z := zel, vs := 15, ds := 15 }
  else s.writeHome pa (List.replicate n 0) 2

/-- A sector lying wholly inside a discarded range: what the slice held is dropped, and the sector reads as HBM holds it
(spec/02 R71, R72, spec/04 R112); a line with Z = 1 of which some sectors are discarded keeps the others as zeros with a data way
(notes/assumptions/61.md). -/
def State.discardSector (s : State) (sec : Nat) : State :=
  match s.l2.find (sec / 4) with
  | none => s
  | some l =>
    let k := sectorBit (sec % 4)
    if l.vs &&& k = 0 then s else
    let vs := l.vs &&& ~~~k
    let l' : L2Line := { z := false, vs := vs, ds := l.ds &&& ~~~k }
    let s := ({ s with mem := s.mem.write (sec * 64) (s.hbm.read (sec * 64) 64) } : State).refetch sec
    if vs = 0 then { s with l2 := s.l2.drop (sec / 4) } else s.l2Hold (sec / 4) l'

/-- A DISCARD of [pa, pa + n) at the home slices. -/
def State.discardHome (s : State) (pa n : Nat) : State :=
  if !inHbm pa then s else
    (pieces 64 pa n).foldl (fun s p => if p.2 = 64 then s.discardSector (p.1 / 64) else s) s

/-- A sector becomes poisoned at its home slice (spec/02 R79, R80). -/
def State.poisonHome (s : State) (sec : Nat) : State := { s with poison := addNum sec s.poison }

/-- A sector becomes poisoned by a write just made to it: in its slice, and where the slice does not hold its line in HBM
(spec/02 R67, R80). -/
def State.spoilHome (s : State) (sec : Nat) : State :=
  { s.poisonHome sec with
    hbmPoison := if inHbm (sec * 64) && !s.l2.has (sec / 4) then addNum sec s.hbmPoison else s.hbmPoison }

/-- Sum of a vector clock. -/
def clockSum (vc : List Nat) : Nat := vc.foldl (· + ·) 0

/-- Does a write with the sum of its vector clock and its die beat the current writer of a byte (spec/04 R104)? -/
def Mirror.beats (m : Mirror) (sum die pa : Nat) : Bool := match m.cur.find pa with
  | none => true
  | some c => decide (c.1 < sum) || (sum == c.1 && decide (c.2 < die))
/-- The bytes of a mirror write that stand at `pa`, those in `won` alone, written under its policy: one access where all of them are
(spec/01 R26, spec/02 R70, R80). -/
def State.mirrorPut (s : State) (pa : Nat) (w : MirrorWrite) (won : List Nat) : State :=
  if won.length = w.bytes.length then match w.zero with
    | some zel => s.zeroLine pa w.bytes.length zel
    | none => s.writeHome pa w.bytes w.pol
  else won.foldl (fun s i => s.writeHome (pa + i) [w.bytes.getD i 0] w.pol) s
/-- A mirror write applied to the replica of die `e`: of its bytes those that beat their current writers (spec/04 R104). -/
def State.mirrorApply (s : State) (e : Nat) (w : MirrorWrite) : State :=
  let pa := replica w.off e
  let sum := clockSum w.vc
  let won := (List.range w.bytes.length).filter fun i => s.mirror.beats sum w.die (pa + i)
  let s := s.mirrorPut pa w won
  let s := if w.bad && !won.isEmpty then s.spoilHome (pa / 64) else s
  { s with mirror := { s.mirror with cur := won.foldl (fun t i => t.put (pa + i) (sum, w.die)) s.mirror.cur } }

/-- Counter k of die d's vector clock. -/
def Mirror.count (m : Mirror) (d k : Nat) : Nat := m.vc.get (d * 8 + k) 0

/-- A write of bytes of one sector to a mirror page, or a ZFILL of one line of it, by a party of die `d`, at its home instant
(spec/04 R104). -/
def State.mirrorWrite (s : State) (d pa : Nat) (bs : List Byte) (pol : Nat) (bad : Bool) (zero : Option Bool) : State :=
  let m := { s.mirror with vc := s.mirror.vc.put (d * 8 + d) (s.mirror.count d d + 1) }
  let w : MirrorWrite :=
    { vc := (List.range 8).map (m.count d), die := d, off := replica pa 0, bytes := bs, pol := pol, bad := bad, zero := zero
      applied := [d] }
  let s := { s with mirror := { m with flight := m.flight ++ [w] } }
  s.mirrorApply d w

/-- Has mirror write `w` come to die `e` in causal order? -/
def Mirror.arrives (m : Mirror) (e : Nat) (w : MirrorWrite) : Bool :=
  !w.applied.contains e && m.count e w.die + 1 == w.vc.getD w.die 0 &&
    (List.range 8).all fun k => k == w.die || decide (w.vc.getD k 0 ≤ m.count e k)

/-- Die `e` applies the mirror write at place `idx` of those in flight, if its clock condition holds (spec/04 R104). -/
def State.mirrorArrive (s : State) (e idx : Nat) : State :=
  match s.mirror.flight[idx]? with
  | none => s
  | some w =>
    if !s.mirror.arrives e w then s else
    let s := s.mirrorApply e w
    let w' := { w with applied := e :: w.applied }
    { s with mirror := { s.mirror with
        vc := s.mirror.vc.put (e * 8 + w.die) (w.vc.getD w.die 0)
        flight := if w'.applied.length = 8 then s.mirror.flight.eraseIdx idx else s.mirror.flight.set idx w' } }

/-- Every mirror write in flight applied everywhere, as a release at device scope or wider waits for (spec/04 R106): up
to `n` rounds over the eight dies. -/
def State.mirrorSettle : Nat → State → State
  | 0, s => s
  | n + 1, s =>
    if s.mirror.flight.isEmpty then s else
    mirrorSettle n ((List.range 8).foldl (fun s e =>
      match s.mirror.flight.findIdx? (s.mirror.arrives e) with
      | some i => s.mirrorArrive e i
      | none => s) s)

end Sys2Proof.Machine
end

