-- ==== Sys2Proof/Machine/Access.lean ====
section
/-! DEFINITION. Translation and the accesses of a core or lantern core to global memory: contexts and their descriptors, the
page-table walk, TLBs, L1, pending writes, instruction fetch, acquire and release (spec/01, spec/02 R58 to R62, spec/03).
A node is a core, 0 to 511, a lantern core, 512 + its number, or 576 for the management core. -/
namespace Sys2Proof

/-- The node whose caches a unit uses. -/
def UnitId.node : UnitId → Nat
  | .path c _ _ => c
  | .seq c _ => c
  | .lant l _ => 512 + l
/-- The stream of issue of a unit among those of its node: its group, a team sequencer's 32 + its slot, a lantern program's 40 + its slot
(spec/03 R82, R89). -/
def UnitId.party : UnitId → Nat
  | .path _ g _ => g
  | .seq _ t => 32 + t
  | .lant _ p => 40 + p

end Sys2Proof
namespace Sys2Proof.Machine

/-- A source of accesses: its node, its stream of issue, the lanes of the path that issues, and which of them makes the access where it
is not one access for the unit (spec/03 R82, R83, R89; notes/assumptions/6.md). -/
structure Who where
  node : Nat
  grp : Nat
  lanes : Dword
  lane : Option Nat := none
/-- The lanes whose access it is. -/
def Who.actors (w : Who) : Dword := match w.lane with
  | some l => Dword.bit l
  | none => w.lanes
/-- The hardware of a node, in accesses that it makes for no unit: the spill engine's, those of a retirement, the front end's. -/
def hardware (n : Nat) : Who := { node := n, grp := 64, lanes := 1 }

/-- Core `c`. -/
def State.core (s : State) (c : Nat) : Core := s.cores.get c .none
/-- Core `c` changed by `f`. -/
def State.onCore (s : State) (c : Nat) (f : Core → Core) : State := { s with cores := s.cores.put c (f (s.core c)) }
/-- Lantern core `l`. -/
def State.lantern (s : State) (l : Nat) : Lantern := s.lanterns.get l .none
/-- Lantern core `l` changed by `f`. -/
def State.onLantern (s : State) (l : Nat) (f : Lantern → Lantern) : State :=
  { s with lanterns := s.lanterns.put l (f (s.lantern l)) }
/-- Context `c`. -/
def State.ctx (s : State) (c : Nat) : Context := s.ctxs.get c .reset
/-- Context `c` changed by `f`. -/
def State.onCtx (s : State) (c : Nat) (f : Context → Context) : State := { s with ctxs := s.ctxs.put c (f (s.ctx c)) }
/-- Grove `g`. -/
def State.grove (s : State) (g : Nat) : Grove := s.groves.get g .reset
/-- Grove `g` changed by `f`. -/
def State.onGrove (s : State) (g : Nat) (f : Grove → Grove) : State :=
  { s with groves := s.groves.put g (f (s.grove g)) }

/-- A unit as a source of accesses; a unit that is no path has one lane. -/
def State.whoOf (s : State) (u : UnitId) : Who :=
  { node := u.node, grp := u.party, lanes := match u with
    | .path c g i => (((s.core c).groups.get g .none).paths.get i .none).mask
    | _ => 1 }
/-- Lane `l` of a path as a source of accesses. -/
def State.laneWho (s : State) (u : UnitId) (l : Nat) : Who := { s.whoOf u with lane := some l }
/-- The management core's number among the nodes. -/
def mgmtNode : Nat := 576
/-- The caches of a node; the management core keeps none. -/
def State.caches (s : State) (n : Nat) : Caches :=
  if n < 512 then (s.core n).mc else if n < 576 then (s.lantern (n - 512)).mc else .none
/-- The caches of a node changed by `f`. -/
def State.onCaches (s : State) (n : Nat) (f : Caches → Caches) : State :=
  if n < 512 then s.onCore n fun c => { c with mc := f c.mc }
  else if n < 576 then s.onLantern (n - 512) fun l => { l with mc := f l.mc }
  else s
/-- The C-die of a node (spec/01 R17). -/
def nodeDie (n : Nat) : Nat := if n < 512 then n / 64 else (n - 512) / 8 % 8

/-- Lines that a node's L1 or data cache holds at most: (8 - SPLIT) times 128 KiB on a core (spec/02 R49, R58, R62). -/
def State.l1Lines (s : State) (n : Nat) : Nat :=
  if n < 512 then (8 - s.pf.split.get (n / 8) 4) * Config.l1Share else Config.lanternLines
/-- Lines that a node's instruction cache holds at most (spec/02 R61). -/
def nodeCodeLines (n : Nat) : Nat := if n < 512 then Config.codeLines else Config.lanternLines
/-- Entries that a node's TLB holds at most (spec/01 R32). -/
def nodeTlbEntries (n : Nat) : Nat := if n < 512 then Config.tlbEntries else Config.lanternTlb
/-- The choice of what leaves a full cache now. -/
def State.victim (s : State) : List Nat → Nat := Config.victim s.freeIdx
/-- A list of at most `cap` entries with `a` in front: in a full one the entry whose place `v` gives makes room. -/
def keepIn {α : Type} (cap v : Nat) (a : α) (l : List α) : List α := if l.length < cap then a :: l else a :: l.eraseIdx (v % l.length)

/-- ROOT of a descriptor, as the physical address of the level-3 table (spec/01 R19). -/
def CtxDesc.root (d : CtxDesc) : Nat := fld d.w0 16 36 * 65536
/-- EN of a descriptor. -/
def CtxDesc.en (d : CtxDesc) : Bool := d.w0.getLsbD 0
/-- GROVE of a descriptor. -/
def CtxDesc.grove (d : CtxDesc) : Nat := fld d.w0 52 6
/-- FQLOG2 of a descriptor. -/
def CtxDesc.fqlog2 (d : CtxDesc) : Nat := fld d.w2 0 5
/-- FQBASE of a descriptor, as a physical address. -/
def CtxDesc.fqbase (d : CtxDesc) : Nat := fld d.w2 12 40 * 4096

/-- The descriptor that a node uses for a context: its copy, or what the table holds, which it then keeps until an
invalidation (spec/01 R19). -/
def State.descOf (s : State) (n c : Nat) : CtxDesc := ((s.caches n).descs.find c).getD (s.ctx c).desc
/-- The node keeps the descriptor it has used. -/
def State.keepDesc (s : State) (n c : Nat) : State :=
  s.onCaches n fun m => { m with descs := m.descs.put c (s.descOf n c) }

/-- Kinds of access (spec/01 R25, R38 KIND). -/
inductive Kind where
  | load
  | store
  | atomic
  | fetch
  | discard
  | engRead
  | engWrite
  deriving DecidableEq, Repr

/-- KIND in a fault record. -/
def Kind.code : Kind → Nat
  | .load => 0 | .store => 1 | .atomic => 2 | .fetch => 3 | .discard => 4 | .engRead => 5 | .engWrite => 6

/-- A fault of one lane or of a whole unit: cause and detail (spec/15 R326), address, and what a fault record needs
(spec/01 R38). Causes below 16 are translation codes (spec/01 R35). `used`: the access whose translation had passed, and whose leaf had
been used, before it met poison (spec/01 R33). -/
structure Flt where
  cause : Nat
  detail : Nat
  addr : Dword
  kind : Nat
  level : Nat
  used : Option Kind := none
  deriving DecidableEq, Repr

/-- A fault with an address. -/
def fltAt (cause : Nat) (addr : Dword) : Flt := { cause := cause, detail := 0, addr := addr, kind := 0, level := 0 }
/-- POISON met by a translated access (spec/02 R80). -/
def poisonAt (k : Kind) (addr : Dword) : Flt := { fltAt 0x12 addr with kind := k.code, used := some k }
/-- A fault with a detail and no address. -/
def fltD (cause detail : Nat) : Flt := { cause := cause, detail := detail, addr := 0, kind := 0, level := 0 }

/-- A translated address: physical address, leaf entry, level, and the entry's own address. -/
structure Xlat where
  pa : Nat
  leaf : Dword
  level : Nat
  pte : Nat
  deriving DecidableEq, Repr

/-- Bytes that a leaf at `lvl` maps (spec/01 R22). -/
def pageBytes : Nat → Nat
  | 0 => 65536
  | 1 => 2097152
  | _ => 1073741824
/-- Index of a virtual address at a level (spec/01 R22). -/
def vaIndex (va : Nat) : Nat → Nat
  | 0 => va / 2 ^ 16 % 32
  | 1 => va / 2 ^ 21 % 512
  | 2 => va / 2 ^ 30 % 8192
  | _ => va / 2 ^ 43 % 8192
/-- Size and alignment of the table at a level (spec/01 R22). -/
def tableBytes : Nat → Nat
  | 0 => 256
  | 1 => 4096
  | _ => 65536
/-- A 64-bit entry read at its home slice. -/
def State.home64 (s : State) (a : Nat) : Dword := BitVec.ofNat 64 (leNat (s.mem.read a 8))

/-- NEXT of a table pointer. -/
def pteNext (e : Dword) : Nat := fld e 8 44 * 256
/-- A table pointer found at level `lvl` keeps spec/01 R23. -/
def pointerOk (e : Dword) (lvl : Nat) : Bool :=
  fld e 2 6 == 0 && fld e 52 12 == 0 && inHbm (pteNext e) && pteNext e % tableBytes (lvl - 1) == 0
/-- The page frame of a leaf. -/
def leafPa (e : Dword) : Nat := fld e 16 36 * 65536
/-- A leaf at level `lvl` keeps spec/01 R24. -/
def leafOk (e : Dword) (lvl : Nat) : Bool :=
  fld e 12 4 == 0 && fld e 58 6 == 0 && fld e 5 2 != 3 && !(e.getLsbD 4 && e.getLsbD 3) &&
    leafPa e % pageBytes lvl == 0 && (inHbm (leafPa e) || inHost (leafPa e) || inPeer (leafPa e)) &&
    !((e.getLsbD 7 || e.getLsbD 9) && !inHbm (leafPa e))

/-- The walk from the table at `table`, which is of level `lvl` (spec/01 R25). An error is a code and a level. Poison of an entry is
not looked at (notes/assumptions/69.md). -/
def State.walk (s : State) (va : Nat) (lvl table : Nat) : Except (Nat × Nat) Xlat :=
  let at_ := table + 8 * vaIndex va lvl
  let e := s.home64 at_
  if !e.getLsbD 0 then .error (0, lvl) else
  if e.getLsbD 1 then
    if lvl == 3 || !leafOk e lvl then .error (1, lvl)
    else .ok { pa := leafPa e + va % pageBytes lvl, leaf := e, level := lvl, pte := at_ }
  else if !pointerOk e lvl then .error (1, lvl) else
  match lvl with
  | 0 => .error (1, 0)
  | l + 1 => s.walk va l (pteNext e)

/-- The checks of a leaf for a kind of access, in the order of spec/01 R25: the code of the first that fails. -/
def leafDeny (e : Dword) (k : Kind) (keymask : Dword) : Option Nat :=
  let rd := e.getLsbD 2
  let wr := e.getLsbD 3
  if (k == .load || k == .engRead) && !rd then some 3
  else if (k == .store || k == .engWrite || k == .discard) && !wr then some 4
  else if k == .atomic && !(rd && wr) then some 4
  else if k == .fetch && !e.getLsbD 4 then some 5
  else if !keymask.getLsbD (fld e 52 6) then some 6
  else if k == .atomic && e.getLsbD 7 then some 7
  else if k == .atomic && inHost (leafPa e) then some 9
  else if k == .discard && !e.getLsbD 8 then some 8
  else none

/-- A TLB entry of a node that covers an address of a context. -/
def State.tlbFind (s : State) (n c va : Nat) : Option TlbEntry :=
  (s.caches n).tlb.find? fun t => t.ctx == c && t.base == va / pageBytes t.level * pageBytes t.level

/-- What an entry of a table of level 1, 2 or 3 covers (spec/01 R22). -/
def spanBytes : Nat → Nat
  | 1 => 2 ^ 21
  | 2 => 2 ^ 30
  | _ => 2 ^ 43
/-- The walk cache that a node's walks use: that of its die; the management core uses none (spec/01 R32). -/
def State.walkCache (s : State) (n : Nat) : List WalkEntry := if n < 576 then s.walks.get (nodeDie n) [] else []
/-- The level and table at which a node's walk begins: below the lowest table pointer on the path that its die's walk cache holds from
walks under the same root, or at the root (spec/01 R25, R32, R43). -/
def State.walkStart (s : State) (n c va : Nat) : Nat × Nat :=
  let root := (s.descOf n c).root
  let held (l : Nat) : Option WalkEntry :=
    (s.walkCache n).find? fun w => w.ctx == c && w.root == root && w.level == l && w.base == va / spanBytes l
  match [1, 2, 3].findSome? held with
  | some w => (w.level - 1, pteNext w.entry)
  | none => (3, root)
/-- The table pointers that a walk from the table at `table` reads on its path, with their levels. -/
def State.pointers (s : State) (va : Nat) : Nat → Nat → List (Nat × Dword)
  | 0, _ => []
  | l + 1, table =>
    let e := s.home64 (table + 8 * vaIndex va (l + 1))
    if e.getLsbD 0 && !e.getLsbD 1 && pointerOk e (l + 1) then (l + 1, e) :: s.pointers va l (pteNext e) else []
/-- A walk cache with a table pointer that a walk has read. -/
def keepPointer (v : List Nat → Nat) (c root va : Nat) (l : List WalkEntry) (p : Nat × Dword) : List WalkEntry :=
  let w : WalkEntry := { ctx := c, root := root, level := p.1, base := va / spanBytes p.1, entry := p.2 }
  let l := l.filter fun x => !(x.ctx == w.ctx && x.root == w.root && x.level == w.level && x.base == w.base)
  keepIn Config.walkEntries (v (l.map (·.base))) w l
/-- The die's walk cache holds the table pointers that a node's walk for `va` reads. -/
def State.keepWalk (s : State) (n c va : Nat) : State :=
  if n < 576 then
    let a := s.walkStart n c va
    { s with walks := s.walks.put (nodeDie n) ((s.pointers va a.1 a.2).foldl (keepPointer s.victim c (s.descOf n c).root va) (s.walkCache n)) }
  else s

/-- A translation as the node makes it: from its TLB, or by a walk (spec/01 R25, R32). -/
def State.lookup (s : State) (n c va : Nat) : Except (Nat × Nat) Xlat :=
  match s.tlbFind n c va with
  | some t => .ok { pa := leafPa t.leaf + va % pageBytes t.level, leaf := t.leaf, level := t.level, pte := t.pte }
  | none => s.walk va (s.walkStart n c va).1 (s.walkStart n c va).2

/-- A translation with all its checks (spec/01 R25). -/
def State.translate (s : State) (n c : Nat) (va : Dword) (k : Kind) : Except Flt Xlat :=
  let err (code level : Nat) : Flt := { cause := code, detail := 0, addr := va, kind := k.code, level := level }
  if fld va 56 8 != 0 then .error (err 2 3) else
  match s.lookup n c va.toNat with
  | .error (code, lvl) => .error (err code lvl)
  | .ok x =>
    match leafDeny x.leaf k (s.descOf n c).w1 with
    | some code => .error (err code x.level)
    | none => .ok x

/-- The bits that the walker sets in a used leaf: ACC, and DTY for a write (spec/01 R33). -/
def leafFlags (e : Dword) (k : Kind) : Dword :=
  if k == .discard then e
  else if k == .store || k == .atomic || k == .engWrite then e ||| 0xC00 else e ||| 0x400

/-- A translation of `va` has been made: the descriptor is kept by the node, and what a walk has read by its die (spec/01 R19, R32). -/
def State.useCtx (s : State) (n c : Nat) (va : Dword) : State :=
  (if (s.tlbFind n c va.toNat).isSome then s else s.keepWalk n c va.toNat).keepDesc n c
/-- The leaf of a translation of `va` is used: flags set at its home, and the leaf kept by the node (spec/01 R19, R32, R33). -/
def State.useLeaf (s : State) (n c : Nat) (va : Dword) (x : Xlat) (k : Kind) : State :=
  let e := leafFlags x.leaf k
  let s := s.useCtx n c va
  let s := if e = x.leaf then s else s.writeSector x.pte (natLe 8 (s.home64 x.pte ||| leafFlags 0 k).toNat) 1
  let b := va.toNat / pageBytes x.level * pageBytes x.level
  let t : TlbEntry := { ctx := c, base := b, level := x.level, leaf := e, pte := x.pte }
  s.onCaches n fun m =>
    let l := m.tlb.filter fun u => !(u.ctx == c && u.base == b && u.level == x.level)
    { m with tlb := keepIn (nodeTlbEntries n) (s.victim (l.map (·.base))) t l }
/-- What an access that faulted leaves of its translation: the descriptor and what the walk read, of one that met poison the use of its
leaf too; an address that is not canonical is not translated (spec/01 R12, R19, R33). -/
def State.met (s : State) (n c : Nat) (f : Flt) : State :=
  match f.used with
  | some k => match s.translate n c f.addr k with
    | .ok x => s.useLeaf n c f.addr x k
    | .error _ => s
  | none => if decide (f.cause < 16) && f.cause != 2 then s.useCtx n c f.addr else s

/-- Effective policy of an access: 0 home only, 1 L2 only, 2 L1 and L2, from the leaf's POL and the request, which is 2 for
PAGE, 1 for L2 and 0 for HOME (spec/01 R27, R28). -/
def effPol (x : Xlat) (req : Nat) : Nat := if inHbm (leafPa x.leaf) then min (fld x.leaf 5 2) req else 0
/-- Is the page a mirror page? -/
def Xlat.mir (x : Xlat) : Bool := x.leaf.getLsbD 7
/-- Is the page zero-eligible? -/
def Xlat.zel (x : Xlat) : Bool := x.leaf.getLsbD 9
/-- The physical address that a node reaches: on a mirror page, that of its die's replica (spec/01 R29). -/
def Xlat.at_ (x : Xlat) (n : Nat) : Nat := if x.mir then replica x.pa (nodeDie n) else x.pa

/-- A node's pending writes laid over bytes read at `pa` (spec/03 R85, R86). -/
def overlay (wbuf : List PendWrite) (pa : Nat) (bs : List Byte) : List Byte :=
  wbuf.foldl (fun bs w =>
    if w.pa + w.bytes.length ≤ pa || pa + bs.length ≤ w.pa then bs else
    (List.range bs.length).map fun i =>
      if w.pa ≤ pa + i && pa + i < w.pa + w.bytes.length then w.bytes.getD (pa + i - w.pa) 0 else bs.getD i 0) bs

/-- A line that an L1-view read of the node need not bring from its home now: its L1 holds it, or it was read there at an earlier view
instant (spec/03 R86, R87, notes/assumptions/59.md). -/
def Caches.line (m : Caches) (line : Nat) : Option (List Byte) := match m.l1.find line with
  | some b => some b
  | .none => m.views.find line
/-- Would a read by the node with effective policy `pol` meet poison (spec/02 R80)? A pending write of the node that covers the
whole sector has cleared it for the node, and a line that its L1 holds, or that it saw earlier, is clean. -/
def State.poisonedFor (s : State) (n pa len pol : Nat) : Bool :=
  (pieces 64 pa len).any fun p =>
    s.poison.contains (p.1 / 64) && !(pol == 2 && ((s.caches n).line (p.1 / 64)).isSome) &&
      !((s.caches n).wbuf.any fun w => w.pa == p.1 / 64 * 64 && decide (64 ≤ w.bytes.length))

/-- The value of bytes as a node sees them with t = p: at home, with its own pending writes (spec/03 R86). -/
def State.seeHome (s : State) (n pa len : Nat) : List Byte := overlay (s.caches n).wbuf pa (s.mem.read pa len)

/-- A line of 64 bytes as an L1-view read finds it. -/
def State.seeL1 (s : State) (n line : Nat) : List Byte :=
  ((s.caches n).line line).getD (s.seeHome n (line * 64) 64)

/-- Bytes of one sector read by a node: through its L1 where the effective policy is L1 and L2 and the read need not be
fresh, else at home (spec/02 R58, R59, spec/03 R86). -/
def State.seePiece (s : State) (n pa len pol : Nat) (fresh : Bool) : List Byte :=
  if pol == 2 && !fresh then ((s.seeL1 n (pa / 64)).drop (pa % 64)).take len else s.seeHome n pa len

/-- The node's L1 holds the line (spec/02 R58); no later read of it has an earlier view instant (spec/03 R87). -/
def State.keepL1 (s : State) (n line : Nat) (bs : List Byte) : State :=
  s.onCaches n fun m => { m with l1 := m.l1.putIn (s.l1Lines n) s.victim line bs, views := m.views.drop line }
/-- Lines of the L1 whose number does not satisfy `p` are invalid, and so is what was seen of them before (spec/02 R59,
spec/03 R87). -/
def Caches.keepLines (m : Caches) (p : Nat → Bool) : Caches := { m with l1 := m.l1.keep p, views := m.views.keep p }
/-- Every line of the L1 is invalid. -/
def Caches.noLines (m : Caches) : Caches := { m with l1 := .empty, views := .empty }
/-- What the home slice of a line holds now, with the node's own pending writes, is what an L1-view read of the node may find later; a
poisoned line is not (spec/03 R86, R87, spec/02 R80, notes/assumptions/59.md). -/
def State.glance (s : State) (n line : Nat) : State :=
  if !inHbm (64 * line) || s.poisoned (64 * line) 64 then s
  else s.onCaches n fun m => { m with views := m.views.put line (s.seeHome n (64 * line) 64) }
/-- What a read of one sector leaves: its line in L2, and in L1 for an L1-view read (spec/02 R59, R66). -/
def State.fillPiece (s : State) (n pa pol : Nat) (zel fresh : Bool) : State :=
  let s := s.fillL2 pa pol zel
  if pol == 2 && !fresh then
    let line := s.seeL1 n (pa / 64)
    s.keepL1 n (pa / 64) line
  else s

/-- The value of a translated read. -/
def State.seeAt (s : State) (n : Nat) (x : Xlat) (len req : Nat) (fresh : Bool) : List Byte :=
  (pieces 64 (x.at_ n) len).flatMap fun p => s.seePiece n p.1 p.2 (effPol x req) fresh
/-- What a translated read leaves in the caches. -/
def State.fillAt (s : State) (n : Nat) (x : Xlat) (len req : Nat) (fresh : Bool) : State :=
  (pieces 64 (x.at_ n) len).foldl (fun s p => s.fillPiece n p.1 (effPol x req) x.zel fresh) s

/-- Every mirror write in flight is applied at every replica (spec/04 R106). -/
def State.settleMirror (s : State) : State := s.mirrorSettle (8 * s.mirror.flight.length)
/-- A pending write reaches its home (spec/03 R85, spec/04 R104); for one that is a release at device scope or wider every mirror
write is at every replica before (spec/04 R106). -/
def State.performWrite (s : State) (die : Nat) (w : PendWrite) : State :=
  let s := if 4 ≤ w.rel then s.settleMirror else s
  if w.mir then s.mirrorWrite die w.pa w.bytes w.pol false none else s.writeHome w.pa w.bytes w.pol

/-- Do two stretches of bytes share a byte? -/
def overlaps (a n b m : Nat) : Bool := decide (a < b + m) && decide (b < a + n)
/-- Do two pending writes write a byte both? -/
def PendWrite.meets (v w : PendWrite) : Bool := overlaps v.pa v.bytes.length w.pa w.bytes.length

/-- The pending write at place `k` of a node takes its home instant, unless an earlier one overlaps it, or one that it is ordered
after still pends (spec/03 R85, R92 rows 1, 6 and 7). -/
def State.drain (s : State) (n k : Nat) : State :=
  match (s.caches n).wbuf[k]? with
  | none => s
  | some w =>
    if ((s.caches n).wbuf.take k).any fun v => v.meets w || w.deps.contains v.id then s else
    (s.onCaches n fun m => { m with wbuf := m.wbuf.eraseIdx k }).performWrite (nodeDie n) w

/-- The numbers `ids` of pending writes, with those of every write that must take its home instant before one of them. -/
def needed (wbuf : List PendWrite) (ids : List Nat) : List Nat :=
  (List.range wbuf.length).reverse.foldl (fun need k =>
    match wbuf[k]? with
    | none => need
    | some w => if need.contains w.id then need ++ w.deps ++ ((wbuf.take k).filter fun v => v.meets w).map (·.id) else need) ids
/-- The pending writes of a node with numbers `ids` reach their homes, each after those that come before it, oldest first. -/
def State.drainIds (s : State) (n : Nat) (ids : List Nat) : State :=
  let l := (s.caches n).wbuf
  let go := (needed l ids).contains
  if !l.any fun w => go w.id then s else
  (l.filter fun w => go w.id).foldl (fun s w => s.performWrite (nodeDie n) w)
    (s.onCaches n fun m => { m with wbuf := m.wbuf.filter fun w => !go w.id })
/-- The pending writes of a node that touch [pa, pa + len) reach their homes. -/
def State.drainOver (s : State) (n pa len : Nat) : State :=
  s.drainIds n (((s.caches n).wbuf.filter fun w => overlaps w.pa w.bytes.length pa len).map (·.id))

/-- Does a release at a far scope wait for a write to `pa`: to module HBM5, from fabric scope on to a peer's, at system scope to
host memory too (spec/04 R107)? -/
def relWaits (scope pa : Nat) : Bool := inHbm pa || (decide (5 ≤ scope) && inPeer pa) || (decide (6 ≤ scope) && inHost pa)
/-- Lanes of a stream that the write, or its reading, precedes in group order, with `m` among them (spec/03 R89). -/
def PendWrite.seenBy (w : PendWrite) (grp : Nat) (m : Dword) : PendWrite :=
  { w with after := w.after.put grp (w.after.get grp 0 ||| m) }
/-- The pending writes that a release of lanes of a stream at a far scope is ordered after: those they have made, those made before them
in group order, and those they have read (spec/03 R89, R92 row 6). -/
def Caches.owed (m : Caches) (w : Who) (scope : Nat) : List Nat :=
  (m.wbuf.filter fun e => relWaits scope e.pa && e.after.get w.grp 0 &&& w.lanes != 0).map (·.id)
/-- [pa, pa + len) has been read: the pending writes that were returned are noted. -/
def State.noteRead (s : State) (w : Who) (pa len : Nat) : State :=
  let hit (e : PendWrite) : Bool := overlaps e.pa e.bytes.length pa len
  if !(s.caches w.node).wbuf.any hit then s else
    s.onCaches w.node fun m => { m with wbuf := m.wbuf.map fun e => if hit e then e.seenBy w.grp w.lanes else e }
/-- What lanes have read of [place, place + n) before they come to the instruction that reads it: the oldest read of those that every one
of them may use; a `fresh` one has t = p (spec/03 R86, R90, R92). -/
def State.aheadOf (s : State) (w : Who) (sp : Bool) (place n : Nat) (fresh : Bool) : Option (List Byte) :=
  ((s.caches w.node).ahead.find? fun a =>
    a.grp == w.grp && w.actors &&& ~~~a.lanes == 0 && a.sp == sp && decide (a.place ≤ place) &&
      decide (place + n ≤ a.place + a.bytes.length) && (a.fresh || !fresh)).map fun a => (a.bytes.drop (place - a.place)).take n
/-- Bytes are accessed: what lanes that precede this access, or make it, have read of them early is not used after it
(spec/03 R92 row 1). -/
def State.touch (s : State) (w : Who) (sp : Bool) (place n : Nat) : State :=
  let hit (a : Ahead) : Bool := a.grp == w.grp && a.own &&& w.lanes != 0 && a.sp == sp && overlaps a.place a.bytes.length place n
  if !(s.caches w.node).ahead.any hit then s else s.onCaches w.node fun m => { m with ahead := m.ahead.filter fun a => !hit a }

/-- A translated read of `n` bytes: what was read early, or what the node finds now, and what that leaves. -/
def State.readBy (s : State) (w : Who) (x : Xlat) (n req : Nat) (fresh : Bool) : List Byte × State :=
  let pa := x.at_ w.node
  match s.aheadOf w false pa n (fresh || effPol x req != 2) with
  | some bs => (bs, s.noteRead w pa n)
  | none => (s.seeAt w.node x n req fresh, ((s.fillAt w.node x n req fresh).noteRead w pa n).touch w false pa n)
/-- The unit uses no read made before now: its acquire comes before its later accesses (spec/03 R92 rows 3, 4 and 8). -/
def State.forget (s : State) (u : UnitId) : State :=
  let w := s.whoOf u
  let hit (a : Ahead) : Bool := a.grp == w.grp && a.own &&& w.lanes != 0
  if !(s.caches w.node).ahead.any hit then s else s.onCaches w.node fun m => { m with ahead := m.ahead.filter fun a => !hit a }

/-- New bytes in a node's L1 line, where the line is present (spec/02 R59). -/
def patchL1 (l1 : Tab (List Byte)) (pa : Nat) (bs : List Byte) : Tab (List Byte) :=
  match l1.find (pa / 64) with
  | none => l1
  | some line => l1.put (pa / 64) (line.take (pa % 64) ++ bs ++ line.drop (pa % 64 + bs.length))

/-- New bytes in what an L1-view read of the node finds. -/
def Caches.patch (m : Caches) (pa : Nat) (bs : List Byte) : Caches :=
  { m with l1 := patchL1 m.l1 pa bs, views := patchL1 m.views pa bs }

/-- The release fences that order later writes of lanes of a stream (spec/03 R92 row 7). -/
def Caches.fences (m : Caches) (w : Who) : List Promise := m.promises.filter fun p => p.grp == w.grp && p.lanes &&& w.lanes != 0
/-- The widest scope of release fences. -/
def widest (l : List Promise) : Nat := l.foldl (fun a p => max a p.scope) 0
/-- A write as it pends; as a release at scope `rel`, 0 where it is none, it is ordered after what precedes it in group order and what
its lanes have read (spec/03 R83, R85, R92). -/
def State.pending (s : State) (w : Who) (x : Xlat) (bs : List Byte) (req rel : Nat) : PendWrite :=
  let m := s.caches w.node
  let fence := (m.fences w).flatMap (·.ids)
  { id := s.nextWrite, after := Tab.empty.put w.grp w.lanes, pa := x.at_ w.node, bytes := bs, pol := effPol x req, mir := x.mir
    zel := x.zel, deps := if 3 ≤ rel then fence ++ m.owed w rel else fence, rel := max (widest (m.fences w)) rel }
/-- A write of a node at its core-visible instant: the L1 line is updated and the write is pending, one for each sector (spec/02 R59,
spec/03 R83, R85). -/
def State.pend (s : State) (n : Nat) (e : PendWrite) : State :=
  s.onCaches n fun m =>
    (pieces 64 e.pa e.bytes.length).foldl (fun m p =>
      let b := (e.bytes.drop (p.1 - e.pa)).take p.2
      { m.patch p.1 b with wbuf := m.wbuf ++ [{ e with pa := p.1, bytes := b }] }) m
/-- A write of lanes of a stream, core-visible now. -/
def State.storeAt (s : State) (w : Who) (x : Xlat) (bs : List Byte) (req rel : Nat) : State :=
  ((({ s with nextWrite := s.nextWrite + 1 } : State).touch w false (x.at_ w.node) bs.length)).pend w.node (s.pending w x bs req rel)

/-- Bytes written to a core's SRAM; a quarter written whole loses its poison (spec/02 R80). -/
def Core.spPut (k : Core) (base : Nat) (bs : List Byte) : Core :=
  { k with
    sp := k.sp.write base bs
    spPoison := k.spPoison.filter fun q => !(decide (base ≤ q * 64) && decide (q * 64 + 64 ≤ base + bs.length)) }
/-- Do two stores put off write a byte both? -/
def LateStore.meets (a b : LateStore) : Bool := a.sp.isSome == b.sp.isSome && a.w.meets b.w
/-- The store put off at place `k` of a node becomes visible, unless an earlier one overlaps it (spec/03 R85, R88, R92 row 1). -/
def State.appear (s : State) (n k : Nat) : State :=
  match (s.caches n).late[k]? with
  | none => s
  | some e =>
    if ((s.caches n).late.take k).any fun v => v.meets e then s else
    let s := (s.onCaches n fun m => { m with late := m.late.eraseIdx k }).touch { node := n, grp := e.grp, lanes := e.own } e.sp.isSome
      e.w.pa e.w.bytes.length
    match e.sp with
    | some _ => s.onCore n fun q => q.spPut e.w.pa e.w.bytes
    | none => s.pend n e.w
/-- The stores put off of a node that `p` picks become visible, each after those that come before it. -/
def State.appearIf (s : State) (n : Nat) (p : LateStore → Bool) : State :=
  let l := (s.caches n).late
  let ids := (List.range l.length).reverse.foldl (fun (need : List LateStore) k => match l[k]? with
    | none => need
    | some e => if p e || need.any (fun x => e.meets x) then e :: need else need) []
  ids.foldl (fun s e => match (s.caches n).late.findIdx? fun x => x.w.id == e.w.id with
    | some k => s.appear n k
    | none => s) s
/-- A stream of a node begins with no past: what an earlier user of its number did is no part of it. -/
def State.freshStream (s : State) (n grp : Nat) : State :=
  (s.appearIf n fun e => e.grp == grp).onCaches n fun m =>
    { m with
      wbuf := m.wbuf.map fun e => { e with after := e.after.drop grp }
      promises := m.promises.filter fun p => p.grp != grp
      ahead := m.ahead.filter fun a => a.grp != grp }
/-- Every store of a node becomes visible, and every pending write reaches its home, oldest first. -/
def State.drainAll (s : State) (n : Nat) : State :=
  let s := s.appearIf n fun _ => true
  let l := (s.caches n).wbuf
  l.foldl (fun s w => s.performWrite (nodeDie n) w) (s.onCaches n fun m => { m with wbuf := [] })

/-- An atomic of a node at the home slice: `f` of the bytes found gives the bytes written, if any (spec/03 R85, R93). -/
def State.atomicAt (s : State) (n : Nat) (x : Xlat) (len req : Nat) (f : List Byte → Option (List Byte)) : State :=
  let s := s.drainOver n x.pa len
  match f (s.mem.read x.pa len) with
  | none => s.fillL2 x.pa (effPol x req) x.zel
  | some b =>
    (s.writeHome x.pa b (effPol x req)).onCaches n fun m => m.patch x.pa b
/-- The bytes an atomic finds. -/
def State.atomicSees (s : State) (n : Nat) (x : Xlat) (len : Nat) : List Byte := s.seeHome n x.pa len

/-- An acquire at core scope or wider invalidates every L1 line of the node (spec/02 R59, spec/03 R87). -/
def State.acquire (s : State) (n : Nat) (scope : Nat) : State :=
  if scope < 2 then s else s.onCaches n Caches.noLines
/-- The release fence holds for lanes of a stream no longer. -/
def Promise.without (p : Promise) (w : Who) : Promise := if p.grp = w.grp then { p with lanes := p.lanes &&& ~~~w.lanes } else p
/-- What the release fences before a unit's next access have put before its later writes has reached its home (spec/03 R92 row 7). -/
def State.fenced (s : State) (u : UnitId) : State :=
  let w := s.whoOf u
  match (s.caches u.node).fences w with
  | [] => s
  | fs =>
    let s := (s.drainIds u.node (fs.flatMap (·.ids))).onCaches u.node fun m =>
      { m with promises := (m.promises.map (·.without w)).filter fun p => p.lanes != 0 }
    if 4 ≤ widest fs then s.settleMirror else s
/-- A release of a unit that is no store to global memory: at die scope and wider the writes that it is ordered after reach their
homes; at device scope and wider mirror writes reach every replica (spec/03 R92 rows 5 to 8, spec/04 R106, R107). -/
def State.release (s : State) (u : UnitId) (scope : Nat) : State :=
  if scope < 3 then s else
  let s := s.fenced u
  let s := s.drainIds u.node ((s.caches u.node).owed (s.whoOf u) scope)
  if scope < 4 then s else s.settleMirror
/-- A release fence of a unit: its later writes are ordered after what it has written and read (spec/03 R92 row 7). -/
def State.promise (s : State) (u : UnitId) (scope : Nat) : State :=
  if scope < 3 then s else
  let w := s.whoOf u
  s.onCaches u.node fun m =>
    { m with promises := m.promises ++ [{ grp := w.grp, lanes := w.lanes, scope := scope, ids := m.owed w scope }] }
/-- A release at system scope by every party of a node (spec/04 R110, R113). -/
def State.releaseAll (s : State) (n : Nat) : State := (s.drainAll n).settleMirror

/-- The 64-byte line of code at `pa` as the node's instruction cache gives it (spec/02 R61). -/
def State.codeLine (s : State) (n line : Nat) : List Byte :=
  ((s.caches n).code.find line).getD (s.mem.read (line * 64) 64)
/-- The node's instruction cache holds the line, if it is of module HBM5 (spec/01 R26, spec/02 R61, R70). -/
def State.keepCode (s : State) (n line : Nat) (zel : Bool) : State :=
  if !inHbm (line * 64) then s else
  let l := s.codeLine n line
  (s.fillL2 (line * 64) 1 zel).onCaches n fun m => { m with code := m.code.putIn (nodeCodeLines n) s.victim line l }

end Sys2Proof.Machine
end

