-- ==== Sys2Proof/WellFormed.lean ====
section
/-! DEFINITION. What an instruction's fields must satisfy before it performs (spec/07 R163 to R175): the checks of each level,
the units that may issue it, its length, and whether it ends a run. -/
namespace Sys2Proof

/-- Width of an operand type code (spec/07 R178, spec/06 R148). -/
def typeW (m : BitVec 3) : Nat := if m == 2 || m == 3 || m == 7 then 64 else 32

/-- ORD and SCOPE together (spec/10 R228). -/
def ordScopeOk (ord : BitVec 2) (scope : BitVec 3) : Bool := scope != 7 && (ord != 0 || scope == 0)
/-- The extension word of the lane loads and stores, apart from what each opcode adds (spec/10 R226, R228). -/
def memxOk (b : BitVec 7) (x : MemX) : Bool :=
  x.ix != 3 && (x.ix != 0 || b == 0) && x.res == 0 && ordScopeOk x.ord x.scope && x.pol != 3
/-- The extension word of the lane atomics, apart from what each opcode adds (spec/10 R231). -/
def atomxOk (b : BitVec 7) (x : AtomX) : Bool :=
  x.ix != 3 && (x.ix != 0 || b == 0) && x.res == 0 && ordScopeOk x.ord x.scope
/-- Type and operation pairs of the atomics (spec/10 R231, R236). -/
def aopOk (ty aop : Nat) : Bool :=
  if aop ≤ 5 then ty ≤ 3 || (ty == 7 && aop == 0)
  else if aop == 6 then ty ≤ 4 else if aop == 7 then ty == 4 else aop == 8 && ty ≤ 3
/-- The guard of an engine command (spec/07 R170). -/
def guardOk (gen : Bool) (slot : BitVec 4) (sense : Bool) : Bool := gen || (slot == 0 && !sense)

/-- An operand field and the rule it is checked by (spec/07 R165, R166, R168, R175 steps 5 and 6). -/
inductive Opnd where
  /-- an L-form source of width w -/
  | srcL (code : BitVec 7) (w : Nat)
  /-- an L-form source that is read only under a condition -/
  | srcLIf (c : Bool) (code : BitVec 7) (w : Nat)
  /-- a lane register that is read, or read and written -/
  | regL (d : BitVec 6) (w : Nat)
  /-- a lane result: not examined with K = 1 -/
  | dstL (d : BitVec 6) (k : Bool) (w : Nat)
  /-- a G-form source: an s-register or a uniform latch -/
  | srcG (code : BitVec 8)
  /-- a G-form source that is read only under a condition -/
  | srcGIf (c : Bool) (code : BitVec 8)
  /-- an s-register that is read, or read and written -/
  | regG (code : BitVec 8)
  /-- a uniform result: not examined with K = 1 -/
  | dstG (d : BitVec 8) (k : Bool)
  /-- no result: K must be 0 -/
  | noK (k : Bool)
  /-- an immediate or number within its range -/
  | lim (ok : Bool)
  deriving DecidableEq, Repr

/-- Is an L-form source code legal at its width? -/
def srcLOk (code : BitVec 7) (w : Nat) : Bool :=
  !(decide (68 ≤ code.toNat) && decide (code.toNat ≤ 71)) &&
    !(decide (code.toNat ≤ 63) && w == 64 && code.toNat % 2 == 1)
/-- Is a G-form source code legal where no sys.* name may stand? -/
def srcGOk (code : BitVec 8) : Bool := decide (code.toNat ≤ 159) || decide (252 ≤ code.toNat)
/-- The check of step 5 of spec/07 R175 for one operand field. -/
def Opnd.ok : Opnd → Bool
  | .srcL c w => srcLOk c w
  | .srcLIf b c w => !b || srcLOk c w
  | .regL d w => !(w == 64 && d.toNat % 2 == 1)
  | .dstL d k w => k || !(w == 64 && d.toNat % 2 == 1)
  | .srcG c => srcGOk c
  | .srcGIf b c => !b || srcGOk c
  | .regG c => decide (c.toNat ≤ 159)
  | .dstG d k => k || decide (d.toNat ≤ 159)
  | .noK k => !k
  | .lim b => b
/-- The latch that an operand field reads: true for the L-pipe, and its number (spec/07 R165, R168). -/
def Opnd.latch : Opnd → Option (Bool × Nat)
  | .srcL c _ => if 64 ≤ c.toNat ∧ c.toNat ≤ 67 then some (true, c.toNat - 64) else none
  | .srcLIf b c _ => if b ∧ 64 ≤ c.toNat ∧ c.toNat ≤ 67 then some (true, c.toNat - 64) else none
  | .srcG c => if 252 ≤ c.toNat then some (false, c.toNat - 252) else none
  | .srcGIf b c => if b ∧ 252 ≤ c.toNat then some (false, c.toNat - 252) else none
  | _ => none

/-- Which units may issue an instruction (spec/05 R118, R137, spec/07 R179). -/
inductive Units where
  /-- every unit -/
  | all
  /-- compute paths: L-form -/
  | lform
  /-- compute paths: divergence, window and grid barrier -/
  | group
  /-- compute paths and sequencers: team objects -/
  | team
  /-- the team sequencer: engine commands -/
  | seq
  /-- CALL: other units only with shift 0 -/
  | call (n : Nat)
  /-- SETG: OPEN on the sequencer, the others on compute paths -/
  | setg (v : Nat)
  /-- no unit: an event -/
  | none
  deriving DecidableEq, Repr

/-- Step 4 of spec/07 R175 for the first word: modifier values and unused fields; d of an opcode with no lane result is examined under
K = 1 too (notes/assumptions/74.md). -/
def Instr.firstOk : Instr → Bool
  | .vadd f => decide (f.m.toNat ≤ 3)
  | .vsub f => decide (f.m.toNat ≤ 3)
  | .vmul f => decide (f.m.toNat ≤ 3)
  | .vmulh f => decide (f.m.toNat ≤ 3)
  | .vmad f => decide (f.m.toNat ≤ 3)
  | .vmin f => decide (f.m.toNat ≤ 3)
  | .vmax f => decide (f.m.toNat ≤ 3)
  | .vand f => decide (f.m.toNat ≤ 3)
  | .vor f => decide (f.m.toNat ≤ 3)
  | .vxor f => decide (f.m.toNat ≤ 3)
  | .vshl f => decide (f.m.toNat ≤ 3)
  | .vshr f => decide (f.m.toNat ≤ 3)
  | .vsar f => decide (f.m.toNat ≤ 3)
  | .vclz f => decide (f.m.toNat ≤ 3) && f.b == 0
  | .vpopc f => decide (f.m.toNat ≤ 3) && f.b == 0
  | .vaddi _ => true
  | .vshli _ => true
  | .vshri _ => true
  | .vsari _ => true
  | .vsel _ => true
  | .vli f _ => f.a == 0 && f.b == 0 && f.m == 0
  | .vcmp f _ => decide (f.m.toNat ≤ 3) && f.d == 0
  | .fadd f => (f.m == 4 || f.m == 5)
  | .fmul f => (f.m == 4 || f.m == 5)
  | .ffma f => (f.m == 4 || f.m == 5)
  | .fmin f => (f.m == 4 || f.m == 5)
  | .fmax f => (f.m == 4 || f.m == 5)
  | .fcmp f _ => (f.m == 4 || f.m == 5) && f.d == 0
  | .bfma2 f => f.m == 5
  | .cvt f => decide (f.b.toNat ≤ 7) && f.b.toNat != f.m.toNat
  | .frcp f => (f.m == 4 || f.m == 5) && f.b == 0
  | .frsq f => (f.m == 4 || f.m == 5) && f.b == 0
  | .fsqrt f => (f.m == 4 || f.m == 5) && f.b == 0
  | .fexp2 f => (f.m == 4 || f.m == 5) && f.b == 0
  | .flog2 f => (f.m == 4 || f.m == 5) && f.b == 0
  | .sint f => (f.m == 4 || f.m == 5) && f.b == 0
  | .cost f => (f.m == 4 || f.m == 5) && f.b == 0
  | .vperm f => f.m == 0
  | .vshfl f => decide (f.m.toNat ≤ 3)
  | .vbcast f => f.m == 0
  | .vmatch f => (f.m == 1 || f.m == 3) && f.b == 0
  | .vvote f _ => (f.m == 1 || f.m == 3) && f.b == 0 && f.d == 0
  | .vreduce f => f.m != 6 && decide (f.b.toNat % 8 ≤ 5) && (decide (f.m.toNat ≤ 3) || decide (f.b.toNat % 8 ≤ 2)) && decide (f.b.toNat < 8)
  | .vscan f => f.m != 6 && decide (f.b.toNat % 8 ≤ 5) && (decide (f.m.toNat ≤ 3) || decide (f.b.toNat % 8 ≤ 2)) && decide (f.b.toNat < 16)
  | .xsend f _ => (f.m == 1 || f.m == 3) && f.b == 0 && f.d == 0
  | .xrecv f _ => (f.m == 1 || f.m == 3) && f.b == 0 && f.a == 0
  | .ld f _ => decide (f.m.toNat ≤ 5)
  | .st f _ => (f.m == 0 || f.m == 2 || f.m == 4 || f.m == 5)
  | .lds f _ => decide (f.m.toNat ≤ 5)
  | .sts f _ => (f.m == 0 || f.m == 2 || f.m == 4 || f.m == 5)
  | .ldq f _ => f.m == 0
  | .stq f _ => f.m == 0
  | .atom f _ => decide (f.m.toNat ≤ 4)
  | .atoms f _ => decide (f.m.toNat ≤ 4)
  | .acas f _ => decide (f.m.toNat ≤ 3)
  | .acass f _ => decide (f.m.toNat ≤ 3)
  | .aaddx f _ => f.m == 7
  | .fence f _ => f.d == 0 && f.a == 0 && f.b == 0 && f.m == 0
  | .discard f _ => f.m == 0 && f.d == 0
  | .pref f _ => decide (f.m.toNat ≤ 1) && f.d == 0
  | .accrd f _ => f.m == 4 && f.b == 0
  | .tadd f _ => (f.m == 4 || f.m == 5 || f.m == 7) && f.d == 0
  | .tnorm f _ => (f.m == 4 || f.m == 5)
  | .tnormq f _ => f.m == 6
  | .tsync f => decide (f.m.toNat ≤ 3) && f.d == 0 && f.b == 0
  | .accrdc f _ => (f.m == 5 || f.m == 6) && f.b == 0
  | .cvbind f => f.m == 0 && f.d == 0
  | .draw f => (f.m == 1 || f.m == 4) && f.a == 0
  | .drawk f => (f.m == 1 || f.m == 4)
  | .cvcur f => f.m == 1 && f.a == 0
  | .result f => f.m == 4 && f.d == 0 && f.b == 0
  | .rcmp f _ => f.m == 1 && f.b == 0
  | .trace f _ => f.m == 0
  | .tracea f _ => f.m == 0
  | .traceo f _ => f.m == 0 && f.a == 0 && f.b == 0
  | .hitrd f => f.m == 0 && f.a == 0
  | .hituv f => f.m == 0 && f.a == 0 && f.b == 0
  | .vmarch f _ => f.m == 0
  | .vmrd f => f.m == 0 && f.a == 0
  | .rsave f => f.m == 0 && f.d == 0 && f.b == 0
  | .rload f => f.m == 0 && f.d == 0 && f.b == 0
  | .rclr f => f.m == 0 && f.d == 0 && f.a == 0 && f.b == 0
  | .nop f => f.d == 0 && f.a == 0 && f.b == 0 && !f.k
  | .br _ => true
  | .brc _ => true
  | .brd _ => true
  | .brx f => f.d == 0 && f.b == 0
  | .join f => f.d == 0 && f.a == 0 && f.b == 0
  | .regang f => f.d == 0 && f.a == 0 && f.b == 0
  | .idle f => f.d == 0 && f.b == 0
  | .exit f => f.d == 0 && f.a == 0 && f.b == 0
  | .call f _ => f.a == 0
  | .ret f => f.d == 0 && f.b == 0
  | .grow f => f.d == 0 && f.b == 0
  | .setfmt f => f.d == 0 && f.b == 0
  | .getfmt f => f.a == 0 && f.b == 0
  | .qput f => f.d == 0
  | .qget f => f.a == 0
  | .bar f _ => f.d == 0 && f.a == 0
  | .setg f => (decide (3 ≤ f.imm.toNat) || f.a == 0)
  | .sysrd f => f.b == 0
  | .syswr f => f.b == 0
  | .gadd _ => true
  | .gsub _ => true
  | .gmul _ => true
  | .gand _ => true
  | .gor _ => true
  | .gxor _ => true
  | .gshl _ => true
  | .gshr _ => true
  | .gsar _ => true
  | .gmin _ => true
  | .gmax _ => true
  | .gsel _ => true
  | .gcmp _ _ => true
  | .mpop f => f.b == 0
  | .mffs f => f.b == 0
  | .gaddi _ => true
  | .gli f _ => f.a == 0 && f.b == 0
  | .glih f _ => f.b == 0
  | .gld _ _ => true
  | .gst _ _ => true
  | .gatom _ _ => true
  | .cpy _ _ => true
  | .layout f _ => f.d == 0 && f.b == 0
  | .zfill f _ => f.d == 0
  | .bfence f => f.d == 0 && f.a == 0
  | .bwait f => f.d == 0 && f.a == 0
  | .callred _ _ => true
  | .cgather _ _ => true
  | .omap f _ => f.d == 0 && f.b == 0
  | .mma f _ => f.d == 0 && f.a == 0 && f.b == 0
  | .msqd f _ => f.d == 0 && f.a == 0 && f.b == 0
  | .mtopk f _ => f.b == 0
  | .mzero f _ => f.d == 0 && f.a == 0 && f.b == 0
  | .mstore f _ => f.a == 0
  | .maddt f _ => f.d == 0 && f.b == 0
  | .tcfg f _ => f.d == 0
  | .tevict f _ => f.d == 0
  | .trestore f _ => f.d == 0
  | .mutate _ _ => true
  | .replay _ _ => true
  | .rrd f => f.b == 0
  | .cvend f => f.d == 0 && f.a == 0 && f.b == 0
  | .launchd _ _ => true
  | .gridsync f => f.d == 0 && f.a == 0 && f.b == 0
  | .rqput f => f.d == 0
  | .rqputn _ => true
  | .rqget f => f.b == 0
  | .rqgetn _ => true
  | .rqcnt f => f.b == 0
  | .yield f => f.d == 0 && f.a == 0 && f.b == 0
  | .sleep f => f.d == 0 && f.a == 0
  | .evsig f => f.d == 0
  | .trap f => f.d == 0 && f.a == 0
  | .trapc _ => true
  | .tret f => f.d == 0 && f.a == 0
  | .tretGoto f => f.d == 0
  | .tretKill f => f.d == 0 && f.a == 0
  | .bkpt f => f.d == 0 && f.a == 0
  | .haltTeam f => f.d == 0
  | .haltFlush f => f.d == 0
  | .errrd f => f.a == 0
  | .faultRecordWrite _ => true
  | .fresumeRetry _ _ _ => true
  | .fresumeAbort _ _ _ => true
  | .ticmdPage _ _ _ => true
  | .ticmdContext _ _ _ => true
  | .ticmdGrove _ _ _ => true
  | .ticmdAll _ _ => true
  | .invalidationComplete _ => true
  | .splitcfgWrite _ _ => true
  | .l2WriteBack _ => true
  | .patrolScrub _ _ => true
  | .sramUncorrectableError _ => true
  | .cacheParityError _ => true
  | .mirrorWriteApply _ _ => true
  | .spillFill _ => true
  | .scratchpadWaitEnd _ => true
  | .tileWaitEnd _ => true
  | .queueWaitEnd _ => true
  | .rendezvousWaitEnd _ => true
  | .barrierPhaseComplete _ _ _ => true
  | .gridsyncPhaseComplete _ => true
  | .batchWaitComplete _ => true
  | .convergentPerform _ => true
  | .growGrant _ _ => true
  | .evictedGroupReadmit _ => true
  | .recordQueueWaitEnd _ => true
  | .sleepExpiry _ => true
  | .engineQueueRoom _ => true
  | .launchQueueRoom _ => true
  | .cpyPerform _ _ => true
  | .layoutPerform _ _ => true
  | .zfillPerform _ _ => true
  | .omapPerform _ _ => true
  | .mmaChunk _ _ => true
  | .msqdPerform _ _ => true
  | .mtopkPerform _ _ => true
  | .mzeroPerform _ _ => true
  | .mstorePerform _ _ => true
  | .maddtPerform _ _ => true
  | .tcfgPerform _ _ => true
  | .tevictPerform _ _ _ => true
  | .trestorePerform _ _ _ => true
  | .callredPerform _ _ => true
  | .cgatherPerform _ _ => true
  | .trunkPartialReceive _ _ => true
  | .traversalStep _ _ _ => true
  | .marchStep _ _ _ => true
  | .issueSelect _ => true
  | .pathAged _ => true
  | .debugRecordWrite _ => true
  | .stallRecordWrite _ => true
  | .qkick _ _ _ => true
  | .qcfgWrite _ _ _ => true
  | .qstatHaltClear _ _ => true
  | .entryNop _ _ => true
  | .entryGraph _ _ => true
  | .entryInstall _ _ _ => true
  | .entrySignal _ _ => true
  | .entryWait _ _ => true
  | .graphNodeStart _ _ _ => true
  | .teamAdmission _ _ => true
  | .deviceLaunchStart _ => true
  | .groupRetire _ _ => true
  | .teamRetire _ _ => true
  | .gridEnd _ => true
  | .pscmdSave _ _ _ _ _ => true
  | .pscmdResume _ _ _ _ _ => true
  | .pscmdTeardown _ _ _ _ _ => true
  | .saveComplete _ => true
  | .powerOn => true
  | .fundamentalReset => true
  | .bootAttempt _ _ => true
  | .bootTimeout => true
  | .bootcmdWarm => true
  | .bootcmdSwap => true
  | .flashcmd _ _ => true
  | .lccmd _ _ _ => true
  | .standgrvWrite _ _ => true
  | .ringRegisterWrite _ _ _ => true
  | .gintAck _ _ => true
  | .dbgstopArm _ _ => true
  | .dbgstopGo _ => true
  | .trig _ => true
  | .triggerReceive _ _ => true
  | .hostPostedWrite _ _ => true
  | .hostRead _ _ => true
  | .apertureAccess _ _ _ _ => true
  | .peerAccessArrival _ _ _ _ => true
  | .supplySag _ => true
  | .sagRecoveryStep _ => true
  | .registerWrite _ _ _ => true
  | .flashWriteComplete _ => true
  | .peercfgWrite _ _ _ => true
  | .peerLinkTrained _ => true

/-- Step 4 of spec/07 R175 for the extension word, and for first-word fields that it makes unused. -/
def Instr.extOk : Instr → Bool
  | .vadd _ => true
  | .vsub _ => true
  | .vmul _ => true
  | .vmulh _ => true
  | .vmad _ => true
  | .vmin _ => true
  | .vmax _ => true
  | .vand _ => true
  | .vor _ => true
  | .vxor _ => true
  | .vshl _ => true
  | .vshr _ => true
  | .vsar _ => true
  | .vclz _ => true
  | .vpopc _ => true
  | .vaddi _ => true
  | .vshli _ => true
  | .vshri _ => true
  | .vsari _ => true
  | .vsel _ => true
  | .vli _ _ => true
  | .vcmp _ x => x.res == 0
  | .fadd _ => true
  | .fmul _ => true
  | .ffma _ => true
  | .fmin _ => true
  | .fmax _ => true
  | .fcmp _ x => x.res == 0
  | .bfma2 _ => true
  | .cvt _ => true
  | .frcp _ => true
  | .frsq _ => true
  | .fsqrt _ => true
  | .fexp2 _ => true
  | .flog2 _ => true
  | .sint _ => true
  | .cost _ => true
  | .vperm _ => true
  | .vshfl _ => true
  | .vbcast _ => true
  | .vmatch _ => true
  | .vvote _ x => x.res == 0
  | .vreduce _ => true
  | .vscan _ => true
  | .xsend _ x => x.res == 0
  | .xrecv _ x => x.res == 0
  | .ld f x => memxOk f.b x && decide (x.ord.toNat ≤ 1) && !x.sp
  | .st f x => memxOk f.b x && (x.ord == 0 || x.ord == 2) && !x.sp
  | .lds f x => memxOk f.b x && decide (x.ord.toNat ≤ 1) && !x.sp && x.pol == 0
  | .sts f x => memxOk f.b x && (x.ord == 0 || x.ord == 2) && !x.sp && x.pol == 0
  | .ldq f x => memxOk f.b x && decide (x.ord.toNat ≤ 1) && (!x.sp || x.pol == 0)
  | .stq f x => memxOk f.b x && (x.ord == 0 || x.ord == 2) && (!x.sp || x.pol == 0)
  | .atom f x => atomxOk f.b x && aopOk f.m.toNat x.aop.toNat && decide (x.aop.toNat ≤ 7)
  | .atoms f x => atomxOk f.b x && aopOk f.m.toNat x.aop.toNat && decide (x.aop.toNat ≤ 7)
  | .acas f x => atomxOk f.b x && !x.nr && x.aop == 0
  | .acass f x => atomxOk f.b x && !x.nr && x.aop == 0
  | .aaddx f x => atomxOk f.b x && x.aop == 0
  | .fence _ x => x.kind != 0 && x.scope != 7 && x.res == 0
  | .discard _ x => x.ix == 0 && x.scl == 0 && x.ord == 0 && x.scope == 0 && x.pol == 0 && x.res == 0
  | .pref f x => memxOk f.b x && decide (x.ord.toNat ≤ 1) && !x.sp
  | .accrd _ x => x.res == 0
  | .tadd _ x => x.res == 0
  | .tnorm _ x => x.res == 0
  | .tnormq _ x => x.res == 0
  | .tsync _ => true
  | .accrdc _ x => x.res == 0
  | .cvbind _ => true
  | .draw _ => true
  | .drawk _ => true
  | .cvcur _ => true
  | .result _ => true
  | .rcmp _ x => x.res == 0
  | .trace _ x => x.res == 0
  | .tracea _ x => x.res == 0
  | .traceo _ x => x.vmask == 0 && !x.cullb && x.res == 0
  | .hitrd _ => true
  | .hituv _ => true
  | .vmarch f x => x.res == 0 && (!x.next || (x.strm == 0 && !x.den && f.a == 0 && f.b == 0))
  | .vmrd _ => true
  | .rsave _ => true
  | .rload _ => true
  | .rclr _ => true
  | .nop _ => true
  | .br _ => true
  | .brc _ => true
  | .brd _ => true
  | .brx _ => true
  | .join _ => true
  | .regang _ => true
  | .idle _ => true
  | .exit _ => true
  | .call _ x => (x.cen || (x.c == 0 && !x.csense))
  | .ret _ => true
  | .grow _ => true
  | .setfmt _ => true
  | .getfmt _ => true
  | .qput _ => true
  | .qget _ => true
  | .bar _ x => x.res == 0 && (x.seq || x.roles != 0)
  | .setg _ => true
  | .sysrd _ => true
  | .syswr _ => true
  | .gadd _ => true
  | .gsub _ => true
  | .gmul _ => true
  | .gand _ => true
  | .gor _ => true
  | .gxor _ => true
  | .gshl _ => true
  | .gshr _ => true
  | .gsar _ => true
  | .gmin _ => true
  | .gmax _ => true
  | .gsel _ => true
  | .gcmp f x => x.res == 0 && (x.bi || x.imm == 0) && (!x.bi || f.b == 0) && (!x.u || (x.cc != 0 && x.cc != 1 && x.cc != 6 && x.cc != 7))
  | .mpop _ => true
  | .mffs _ => true
  | .gaddi _ => true
  | .gli _ _ => true
  | .glih _ _ => true
  | .gld f x => x.res == 0 && ordScopeOk x.ord x.scope && x.pol != 3 && (!x.sp || x.pol == 0) && (x.ixe || f.b == 0) && x.sz != 7 && decide (x.ord.toNat ≤ 1)
  | .gst f x => x.res == 0 && ordScopeOk x.ord x.scope && x.pol != 3 && (!x.sp || x.pol == 0) && (x.ixe || f.b == 0) && (x.sz == 0 || x.sz == 2 || x.sz == 4 || x.sz == 6) && (x.ord == 0 || x.ord == 2)
  | .gatom f x => x.res == 0 && ordScopeOk x.ord x.scope && (x.ixe || f.b == 0) && (decide (x.ty.toNat ≤ 4) || x.ty == 7) && aopOk x.ty.toNat x.aop.toNat
  | .cpy _ x => guardOk x.gen x.gslot x.gsense && x.res == false && x.res2 == 0 && x.pol != 3 && decide (x.mode.toNat ≤ 5) && (decide (x.mode.toNat ≤ 3) || x.soff == 0)
  | .layout _ x => guardOk x.gen x.gslot x.gsense && x.res == 0
  | .zfill _ x => guardOk x.gen x.gslot x.gsense && x.res == 0
  | .bfence _ => true
  | .bwait _ => true
  | .callred _ x => guardOk x.gen x.gslot x.gsense && x.res == 0 && x.op != 3
  | .cgather _ x => guardOk x.gen x.gslot x.gsense && x.res == 0 && x.op == 0
  | .omap _ x => guardOk x.gen x.gslot x.gsense && x.res == 0
  | .mma _ x => guardOk x.gen x.gslot x.gsense && x.res == 0
  | .msqd _ x => guardOk x.gen x.gslot x.gsense && x.res == 0
  | .mtopk _ x => guardOk x.gen x.gslot x.gsense && x.res == 0
  | .mzero _ x => guardOk x.gen x.gslot x.gsense && x.res == 0
  | .mstore _ x => guardOk x.gen x.gslot x.gsense && x.res == 0 && x.pol != 3 && (!x.sp || x.pol == 0)
  | .maddt _ x => guardOk x.gen x.gslot x.gsense && x.res == 0
  | .tcfg _ x => guardOk x.gen x.gslot x.gsense && x.res == 0
  | .tevict _ x => guardOk x.gen x.gslot x.gsense && x.res == 0
  | .trestore _ x => guardOk x.gen x.gslot x.gsense && x.res == 0 && !x.clr
  | .mutate _ x => x.kind != 3 && x.res == 0
  | .replay _ x => x.res == 0
  | .rrd _ => true
  | .cvend _ => true
  | .launchd _ x => x.res == 0
  | .gridsync _ => true
  | .rqput _ => true
  | .rqputn _ => true
  | .rqget _ => true
  | .rqgetn _ => true
  | .rqcnt _ => true
  | .yield _ => true
  | .sleep _ => true
  | .evsig _ => true
  | .trap _ => true
  | .trapc _ => true
  | .tret _ => true
  | .tretGoto _ => true
  | .tretKill _ => true
  | .bkpt _ => true
  | .haltTeam _ => true
  | .haltFlush _ => true
  | .errrd _ => true
  | .faultRecordWrite _ => true
  | .fresumeRetry _ _ _ => true
  | .fresumeAbort _ _ _ => true
  | .ticmdPage _ _ _ => true
  | .ticmdContext _ _ _ => true
  | .ticmdGrove _ _ _ => true
  | .ticmdAll _ _ => true
  | .invalidationComplete _ => true
  | .splitcfgWrite _ _ => true
  | .l2WriteBack _ => true
  | .patrolScrub _ _ => true
  | .sramUncorrectableError _ => true
  | .cacheParityError _ => true
  | .mirrorWriteApply _ _ => true
  | .spillFill _ => true
  | .scratchpadWaitEnd _ => true
  | .tileWaitEnd _ => true
  | .queueWaitEnd _ => true
  | .rendezvousWaitEnd _ => true
  | .barrierPhaseComplete _ _ _ => true
  | .gridsyncPhaseComplete _ => true
  | .batchWaitComplete _ => true
  | .convergentPerform _ => true
  | .growGrant _ _ => true
  | .evictedGroupReadmit _ => true
  | .recordQueueWaitEnd _ => true
  | .sleepExpiry _ => true
  | .engineQueueRoom _ => true
  | .launchQueueRoom _ => true
  | .cpyPerform _ _ => true
  | .layoutPerform _ _ => true
  | .zfillPerform _ _ => true
  | .omapPerform _ _ => true
  | .mmaChunk _ _ => true
  | .msqdPerform _ _ => true
  | .mtopkPerform _ _ => true
  | .mzeroPerform _ _ => true
  | .mstorePerform _ _ => true
  | .maddtPerform _ _ => true
  | .tcfgPerform _ _ => true
  | .tevictPerform _ _ _ => true
  | .trestorePerform _ _ _ => true
  | .callredPerform _ _ => true
  | .cgatherPerform _ _ => true
  | .trunkPartialReceive _ _ => true
  | .traversalStep _ _ _ => true
  | .marchStep _ _ _ => true
  | .issueSelect _ => true
  | .pathAged _ => true
  | .debugRecordWrite _ => true
  | .stallRecordWrite _ => true
  | .qkick _ _ _ => true
  | .qcfgWrite _ _ _ => true
  | .qstatHaltClear _ _ => true
  | .entryNop _ _ => true
  | .entryGraph _ _ => true
  | .entryInstall _ _ _ => true
  | .entrySignal _ _ => true
  | .entryWait _ _ => true
  | .graphNodeStart _ _ _ => true
  | .teamAdmission _ _ => true
  | .deviceLaunchStart _ => true
  | .groupRetire _ _ => true
  | .teamRetire _ _ => true
  | .gridEnd _ => true
  | .pscmdSave _ _ _ _ _ => true
  | .pscmdResume _ _ _ _ _ => true
  | .pscmdTeardown _ _ _ _ _ => true
  | .saveComplete _ => true
  | .powerOn => true
  | .fundamentalReset => true
  | .bootAttempt _ _ => true
  | .bootTimeout => true
  | .bootcmdWarm => true
  | .bootcmdSwap => true
  | .flashcmd _ _ => true
  | .lccmd _ _ _ => true
  | .standgrvWrite _ _ => true
  | .ringRegisterWrite _ _ _ => true
  | .gintAck _ _ => true
  | .dbgstopArm _ _ => true
  | .dbgstopGo _ => true
  | .trig _ => true
  | .triggerReceive _ _ => true
  | .hostPostedWrite _ _ => true
  | .hostRead _ _ => true
  | .apertureAccess _ _ _ _ => true
  | .peerAccessArrival _ _ _ _ => true
  | .supplySag _ => true
  | .sagRecoveryStep _ => true
  | .registerWrite _ _ _ => true
  | .flashWriteComplete _ => true
  | .peercfgWrite _ _ _ => true
  | .peerLinkTrained _ => true

/-- The operand fields that steps 5 and 6 of spec/07 R175 check; a latch code in a of SYSRD is left to step 7
(notes/assumptions/73.md), and C of a guarded CALL may be a latch (notes/assumptions/76.md). -/
def Instr.opnds : Instr → List Opnd
  | .vadd f => [.srcL f.a (typeW f.m), .srcL f.b (typeW f.m), .dstL f.d f.k (typeW f.m)]
  | .vsub f => [.srcL f.a (typeW f.m), .srcL f.b (typeW f.m), .dstL f.d f.k (typeW f.m)]
  | .vmul f => [.srcL f.a (typeW f.m), .srcL f.b (typeW f.m), .dstL f.d f.k (typeW f.m)]
  | .vmulh f => [.srcL f.a (typeW f.m), .srcL f.b (typeW f.m), .dstL f.d f.k (typeW f.m)]
  | .vmad f => [.srcL f.a (typeW f.m), .srcL f.b (typeW f.m), .regL f.d (typeW f.m)]
  | .vmin f => [.srcL f.a (typeW f.m), .srcL f.b (typeW f.m), .dstL f.d f.k (typeW f.m)]
  | .vmax f => [.srcL f.a (typeW f.m), .srcL f.b (typeW f.m), .dstL f.d f.k (typeW f.m)]
  | .vand f => [.srcL f.a (typeW f.m), .srcL f.b (typeW f.m), .dstL f.d f.k (typeW f.m)]
  | .vor f => [.srcL f.a (typeW f.m), .srcL f.b (typeW f.m), .dstL f.d f.k (typeW f.m)]
  | .vxor f => [.srcL f.a (typeW f.m), .srcL f.b (typeW f.m), .dstL f.d f.k (typeW f.m)]
  | .vshl f => [.srcL f.a (typeW f.m), .srcL f.b (typeW f.m), .dstL f.d f.k (typeW f.m)]
  | .vshr f => [.srcL f.a (typeW f.m), .srcL f.b (typeW f.m), .dstL f.d f.k (typeW f.m)]
  | .vsar f => [.srcL f.a (typeW f.m), .srcL f.b (typeW f.m), .dstL f.d f.k (typeW f.m)]
  | .vclz f => [.srcL f.a (typeW f.m), .dstL f.d f.k (typeW f.m)]
  | .vpopc f => [.srcL f.a (typeW f.m), .dstL f.d f.k (typeW f.m)]
  | .vaddi f => [.srcL f.a 32, .dstL f.d f.k 32]
  | .vshli f => [.srcL f.a 32, .dstL f.d f.k 32, .lim (decide (f.imm.toNat ≤ 31))]
  | .vshri f => [.srcL f.a 32, .dstL f.d f.k 32, .lim (decide (f.imm.toNat ≤ 31))]
  | .vsari f => [.srcL f.a 32, .dstL f.d f.k 32, .lim (decide (f.imm.toNat ≤ 31))]
  | .vsel f => [.srcL f.a 32, .srcL f.b 32, .dstL f.d f.k 32]
  | .vli f _ => [.dstL f.d f.k 32]
  | .vcmp f x => [.noK f.k, .srcL f.a (typeW f.m), .srcL f.b (typeW f.m), .regG x.sd]
  | .fadd f => [.srcL f.a 32, .srcL f.b 32, .dstL f.d f.k 32]
  | .fmul f => [.srcL f.a 32, .srcL f.b 32, .dstL f.d f.k 32]
  | .ffma f => [.srcL f.a 32, .srcL f.b 32, .regL f.d 32]
  | .fmin f => [.srcL f.a 32, .srcL f.b 32, .dstL f.d f.k 32]
  | .fmax f => [.srcL f.a 32, .srcL f.b 32, .dstL f.d f.k 32]
  | .fcmp f x => [.noK f.k, .srcL f.a 32, .srcL f.b 32, .regG x.sd]
  | .bfma2 f => [.srcL f.a 32, .srcL f.b 32, .regL f.d 32]
  | .cvt f => [.srcL f.a (typeW (f.b.setWidth 3)), .dstL f.d f.k (typeW f.m)]
  | .frcp f => [.srcL f.a 32, .dstL f.d f.k 32]
  | .frsq f => [.srcL f.a 32, .dstL f.d f.k 32]
  | .fsqrt f => [.srcL f.a 32, .dstL f.d f.k 32]
  | .fexp2 f => [.srcL f.a 32, .dstL f.d f.k 32]
  | .flog2 f => [.srcL f.a 32, .dstL f.d f.k 32]
  | .sint f => [.srcL f.a 32, .dstL f.d f.k 32]
  | .cost f => [.srcL f.a 32, .dstL f.d f.k 32]
  | .vperm f => [.srcL f.a 32, .srcL f.b 32, .dstL f.d f.k 32]
  | .vshfl f => [.srcL f.a 32, .srcL f.b 32, .dstL f.d f.k 32]
  | .vbcast f => [.srcL f.a 32, .srcL f.b 32, .dstL f.d f.k 32]
  | .vmatch f => [.srcL f.a (typeW f.m), .dstL f.d f.k 64]
  | .vvote f x => [.noK f.k, .srcL f.a (typeW f.m), .regG x.sd]
  | .vreduce f => [.srcL f.a (typeW f.m), .dstL f.d f.k (typeW f.m)]
  | .vscan f => [.srcL f.a (typeW f.m), .dstL f.d f.k (typeW f.m)]
  | .xsend f _ => [.noK f.k, .srcL f.a (typeW f.m)]
  | .xrecv f _ => [.dstL f.d f.k (typeW f.m)]
  | .ld f x => [.srcL f.a 64, .srcLIf (x.ix != 0) f.b 32, .dstL f.d f.k (if f.m == 5 then 64 else 32)]
  | .st f x => [.noK f.k, .srcL f.a 64, .srcLIf (x.ix != 0) f.b 32, .regL f.d (if f.m == 5 then 64 else 32)]
  | .lds f x => [.srcL f.a 64, .srcLIf (x.ix != 0) f.b 32, .dstL f.d f.k (if f.m == 5 then 64 else 32)]
  | .sts f x => [.noK f.k, .srcL f.a 64, .srcLIf (x.ix != 0) f.b 32, .regL f.d (if f.m == 5 then 64 else 32)]
  | .ldq f x => [.srcL f.a 64, .srcLIf (x.ix != 0) f.b 32, .dstL f.d f.k 32]
  | .stq f x => [.noK f.k, .srcL f.a 64, .srcLIf (x.ix != 0) f.b 32, .regL f.d 32]
  | .atom f x => [.noK f.k, .srcL f.a 64, .srcLIf (x.ix != 0) f.b 32, .regL f.d (typeW f.m)]
  | .atoms f x => [.noK f.k, .srcL f.a 64, .srcLIf (x.ix != 0) f.b 32, .regL f.d (typeW f.m)]
  | .acas f x => [.noK f.k, .srcL f.a 64, .srcLIf (x.ix != 0) f.b 32, .regL f.d 32, .lim (decide (f.d.toNat % (if decide (2 ≤ f.m.toNat) then 4 else 2) = 0))]
  | .acass f x => [.noK f.k, .srcL f.a 64, .srcLIf (x.ix != 0) f.b 32, .regL f.d 32, .lim (decide (f.d.toNat % (if decide (2 ≤ f.m.toNat) then 4 else 2) = 0))]
  | .aaddx f x => [.noK f.k, .srcL f.a 64, .srcLIf (x.ix != 0) f.b 32, .regL f.d 64]
  | .fence f _ => [.noK f.k]
  | .discard f _ => [.noK f.k, .srcL f.a 64, .srcL f.b 32]
  | .pref f x => [.noK f.k, .srcL f.a 64, .srcLIf (x.ix != 0) f.b 32]
  | .accrd f _ => [.srcL f.a 32, .dstL f.d f.k 32]
  | .tadd f _ => [.noK f.k, .srcL f.a (typeW f.m), .srcL f.b 32]
  | .tnorm f x => [.srcL f.a 32, .srcL f.b 32, .dstL f.d f.k 32, .regG x.se]
  | .tnormq f x => [.srcL f.a 32, .srcL f.b 32, .dstL f.d f.k 64, .regG x.se]
  | .tsync f => [.noK f.k, .srcL f.a 32]
  | .accrdc f _ => [.srcL f.a 32, .dstL f.d f.k 32]
  | .cvbind f => [.noK f.k, .srcL f.a 64, .srcL f.b 64]
  | .draw f => [.dstL f.d f.k 32, .lim (decide (f.b.toNat ≤ 15))]
  | .drawk f => [.srcL f.a 64, .srcL f.b 32, .dstL f.d f.k 32]
  | .cvcur f => [.dstL f.d f.k 32, .lim (decide (f.b.toNat ≤ 16))]
  | .result f => [.noK f.k, .srcL f.a 32]
  | .rcmp f _ => [.srcL f.a 64, .dstL f.d f.k 32]
  | .trace f _ => [.srcL f.a 32, .srcL f.b 64, .dstL f.d f.k 32]
  | .tracea f _ => [.srcL f.a 32, .srcL f.b 64, .dstL f.d f.k 32]
  | .traceo f _ => [.dstL f.d f.k 32]
  | .hitrd f => [.dstL f.d f.k 32]
  | .hituv f => [.dstL f.d f.k 32]
  | .vmarch f x => [.srcLIf (!x.next) f.a 32, .srcLIf (!x.next) f.b 64, .dstL f.d f.k 32]
  | .vmrd f => [.dstL f.d f.k 32]
  | .rsave f => [.noK f.k, .srcL f.a 64]
  | .rload f => [.noK f.k, .srcL f.a 64]
  | .rclr f => [.noK f.k]
  | .nop _ => []
  | .br f => [.noK f.k]
  | .brc f => [.noK f.k, .srcG f.c]
  | .brd f => [.noK f.k, .srcG f.c]
  | .brx f => [.noK f.k, .srcG f.a]
  | .join f => [.noK f.k]
  | .regang f => [.noK f.k]
  | .idle f => [.noK f.k, .srcG f.a]
  | .exit f => [.noK f.k]
  | .call f x => [.noK f.k, .regG f.d, .lim (decide (f.b.toNat ≤ 48)), .srcGIf x.cen x.c]
  | .ret f => [.noK f.k, .srcG f.a]
  | .grow f => [.noK f.k, .srcG f.a]
  | .setfmt f => [.noK f.k, .srcG f.a]
  | .getfmt f => [.dstG f.d f.k]
  | .qput f => [.noK f.k, .srcG f.a, .lim (decide (f.b.toNat ≤ 7))]
  | .qget f => [.dstG f.d f.k, .lim (decide (f.b.toNat ≤ 7))]
  | .bar f _ => [.noK f.k, .lim (decide (f.b.toNat ≤ 15))]
  | .setg f => [.noK f.k, .lim (decide (f.d.toNat ≤ 15)), .lim (decide (f.imm.toNat ≤ 3)), .srcGIf (f.imm == 3) f.a]
  | .sysrd f => [.dstG f.d f.k, .lim (decide (f.a.toNat ≤ 191 ∨ 252 ≤ f.a.toNat))]
  | .syswr f => [.noK f.k, .srcG f.a]
  | .gadd f => [.dstG f.d f.k, .srcG f.a]
  | .gsub f => [.dstG f.d f.k, .srcG f.a]
  | .gmul f => [.dstG f.d f.k, .srcG f.a]
  | .gand f => [.dstG f.d f.k, .srcG f.a]
  | .gor f => [.dstG f.d f.k, .srcG f.a]
  | .gxor f => [.dstG f.d f.k, .srcG f.a]
  | .gshl f => [.dstG f.d f.k, .srcG f.a]
  | .gshr f => [.dstG f.d f.k, .srcG f.a]
  | .gsar f => [.dstG f.d f.k, .srcG f.a]
  | .gmin f => [.dstG f.d f.k, .srcG f.a]
  | .gmax f => [.dstG f.d f.k, .srcG f.a]
  | .gsel f => [.regG f.d, .srcG f.a]
  | .gcmp f _ => [.dstG f.d f.k, .srcG f.a]
  | .mpop f => [.dstG f.d f.k, .srcG f.a]
  | .mffs f => [.dstG f.d f.k, .srcG f.a]
  | .gaddi f => [.dstG f.d f.k, .srcG f.a]
  | .gli f _ => [.dstG f.d f.k]
  | .glih f _ => [.dstG f.d f.k, .srcG f.a]
  | .gld f _ => [.dstG f.d f.k, .srcG f.a]
  | .gst f _ => [.noK f.k, .regG f.d, .srcG f.a]
  | .gatom f x => [.regG f.d, .srcG f.a, .lim (decide (x.aop != 8 ∨ f.d.toNat ≤ 158))]
  | .cpy f x => [.noK f.k, .regG f.d, .srcG f.a, .lim (decide (x.mode.toNat ≤ 3 ∨ f.b.toNat ≤ 125))]
  | .layout f _ => [.noK f.k, .srcG f.a]
  | .zfill f _ => [.noK f.k, .srcG f.a]
  | .bfence f => [.noK f.k, .lim (decide (f.imm.toNat ≤ 15))]
  | .bwait f => [.noK f.k, .lim (decide (f.imm.toNat ≤ 15))]
  | .callred f _ => [.noK f.k, .regG f.d, .srcG f.a]
  | .cgather f _ => [.noK f.k, .regG f.d, .srcG f.a]
  | .omap f _ => [.noK f.k, .srcG f.a]
  | .mma f _ => [.noK f.k]
  | .msqd f _ => [.noK f.k]
  | .mtopk f _ => [.noK f.k, .regG f.d, .srcG f.a]
  | .mzero f _ => [.noK f.k]
  | .mstore f _ => [.noK f.k, .regG f.d]
  | .maddt f _ => [.noK f.k, .srcG f.a]
  | .tcfg f _ => [.noK f.k, .srcG f.a]
  | .tevict f _ => [.noK f.k, .srcG f.a]
  | .trestore f _ => [.noK f.k, .srcG f.a]
  | .mutate f _ => [.noK f.k, .regG f.d, .srcG f.a]
  | .replay f _ => [.noK f.k, .regG f.d, .srcG f.a]
  | .rrd f => [.dstG f.d f.k, .srcG f.a]
  | .cvend f => [.noK f.k]
  | .launchd f _ => [.dstG f.d f.k, .srcG f.a]
  | .gridsync f => [.noK f.k]
  | .rqput f => [.srcG f.a]
  | .rqputn f => [.dstG f.d f.k, .srcG f.a]
  | .rqget f => [.regG f.d, .srcG f.a]
  | .rqgetn f => [.regG f.d, .srcG f.a]
  | .rqcnt f => [.dstG f.d f.k, .srcG f.a]
  | .yield f => [.noK f.k]
  | .sleep f => [.noK f.k, .lim (decide (f.imm.toNat ≤ 63))]
  | .evsig f => [.noK f.k, .srcG f.a]
  | .trap f => [.noK f.k, .lim (decide (f.imm.toNat ≤ 63))]
  | .trapc f => [.noK f.k, .srcG f.c]
  | .tret f => [.noK f.k]
  | .tretGoto f => [.noK f.k, .srcG f.a]
  | .tretKill f => [.noK f.k]
  | .bkpt f => [.noK f.k, .lim (decide (f.imm.toNat ≤ 63))]
  | .haltTeam f => [.noK f.k, .srcG f.a]
  | .haltFlush f => [.noK f.k, .srcG f.a]
  | .errrd f => [.dstG f.d f.k]
  | .faultRecordWrite _ => []
  | .fresumeRetry _ _ _ => []
  | .fresumeAbort _ _ _ => []
  | .ticmdPage _ _ _ => []
  | .ticmdContext _ _ _ => []
  | .ticmdGrove _ _ _ => []
  | .ticmdAll _ _ => []
  | .invalidationComplete _ => []
  | .splitcfgWrite _ _ => []
  | .l2WriteBack _ => []
  | .patrolScrub _ _ => []
  | .sramUncorrectableError _ => []
  | .cacheParityError _ => []
  | .mirrorWriteApply _ _ => []
  | .spillFill _ => []
  | .scratchpadWaitEnd _ => []
  | .tileWaitEnd _ => []
  | .queueWaitEnd _ => []
  | .rendezvousWaitEnd _ => []
  | .barrierPhaseComplete _ _ _ => []
  | .gridsyncPhaseComplete _ => []
  | .batchWaitComplete _ => []
  | .convergentPerform _ => []
  | .growGrant _ _ => []
  | .evictedGroupReadmit _ => []
  | .recordQueueWaitEnd _ => []
  | .sleepExpiry _ => []
  | .engineQueueRoom _ => []
  | .launchQueueRoom _ => []
  | .cpyPerform _ _ => []
  | .layoutPerform _ _ => []
  | .zfillPerform _ _ => []
  | .omapPerform _ _ => []
  | .mmaChunk _ _ => []
  | .msqdPerform _ _ => []
  | .mtopkPerform _ _ => []
  | .mzeroPerform _ _ => []
  | .mstorePerform _ _ => []
  | .maddtPerform _ _ => []
  | .tcfgPerform _ _ => []
  | .tevictPerform _ _ _ => []
  | .trestorePerform _ _ _ => []
  | .callredPerform _ _ => []
  | .cgatherPerform _ _ => []
  | .trunkPartialReceive _ _ => []
  | .traversalStep _ _ _ => []
  | .marchStep _ _ _ => []
  | .issueSelect _ => []
  | .pathAged _ => []
  | .debugRecordWrite _ => []
  | .stallRecordWrite _ => []
  | .qkick _ _ _ => []
  | .qcfgWrite _ _ _ => []
  | .qstatHaltClear _ _ => []
  | .entryNop _ _ => []
  | .entryGraph _ _ => []
  | .entryInstall _ _ _ => []
  | .entrySignal _ _ => []
  | .entryWait _ _ => []
  | .graphNodeStart _ _ _ => []
  | .teamAdmission _ _ => []
  | .deviceLaunchStart _ => []
  | .groupRetire _ _ => []
  | .teamRetire _ _ => []
  | .gridEnd _ => []
  | .pscmdSave _ _ _ _ _ => []
  | .pscmdResume _ _ _ _ _ => []
  | .pscmdTeardown _ _ _ _ _ => []
  | .saveComplete _ => []
  | .powerOn => []
  | .fundamentalReset => []
  | .bootAttempt _ _ => []
  | .bootTimeout => []
  | .bootcmdWarm => []
  | .bootcmdSwap => []
  | .flashcmd _ _ => []
  | .lccmd _ _ _ => []
  | .standgrvWrite _ _ => []
  | .ringRegisterWrite _ _ _ => []
  | .gintAck _ _ => []
  | .dbgstopArm _ _ => []
  | .dbgstopGo _ => []
  | .trig _ => []
  | .triggerReceive _ _ => []
  | .hostPostedWrite _ _ => []
  | .hostRead _ _ => []
  | .apertureAccess _ _ _ _ => []
  | .peerAccessArrival _ _ _ _ => []
  | .supplySag _ => []
  | .sagRecoveryStep _ => []
  | .registerWrite _ _ _ => []
  | .flashWriteComplete _ => []
  | .peercfgWrite _ _ _ => []
  | .peerLinkTrained _ => []

/-- Does the instruction end its run (spec/05 R134)? -/
def Instr.endsRun : Instr → Bool
  | .vadd _ => false
  | .vsub _ => false
  | .vmul _ => false
  | .vmulh _ => false
  | .vmad _ => false
  | .vmin _ => false
  | .vmax _ => false
  | .vand _ => false
  | .vor _ => false
  | .vxor _ => false
  | .vshl _ => false
  | .vshr _ => false
  | .vsar _ => false
  | .vclz _ => false
  | .vpopc _ => false
  | .vaddi _ => false
  | .vshli _ => false
  | .vshri _ => false
  | .vsari _ => false
  | .vsel _ => false
  | .vli _ _ => false
  | .vcmp _ _ => false
  | .fadd _ => false
  | .fmul _ => false
  | .ffma _ => false
  | .fmin _ => false
  | .fmax _ => false
  | .fcmp _ _ => false
  | .bfma2 _ => false
  | .cvt _ => false
  | .frcp _ => false
  | .frsq _ => false
  | .fsqrt _ => false
  | .fexp2 _ => false
  | .flog2 _ => false
  | .sint _ => false
  | .cost _ => false
  | .vperm _ => false
  | .vshfl _ => false
  | .vbcast _ => false
  | .vmatch _ => false
  | .vvote _ _ => false
  | .vreduce _ => false
  | .vscan _ => false
  | .xsend _ _ => true
  | .xrecv _ _ => true
  | .ld _ _ => false
  | .st _ _ => true
  | .lds _ _ => false
  | .sts _ _ => true
  | .ldq _ _ => false
  | .stq _ _ => true
  | .atom _ _ => true
  | .atoms _ _ => true
  | .acas _ _ => true
  | .acass _ _ => true
  | .aaddx _ _ => true
  | .fence _ _ => true
  | .discard _ _ => true
  | .pref _ _ => false
  | .accrd _ _ => false
  | .tadd _ _ => true
  | .tnorm _ _ => false
  | .tnormq _ _ => false
  | .tsync _ => true
  | .accrdc _ _ => false
  | .cvbind _ => true
  | .draw _ => true
  | .drawk _ => false
  | .cvcur _ => false
  | .result _ => true
  | .rcmp _ _ => true
  | .trace _ _ => true
  | .tracea _ _ => true
  | .traceo _ _ => true
  | .hitrd _ => false
  | .hituv _ => false
  | .vmarch _ _ => true
  | .vmrd _ => false
  | .rsave _ => true
  | .rload _ => true
  | .rclr _ => true
  | .nop _ => false
  | .br _ => true
  | .brc _ => true
  | .brd _ => true
  | .brx _ => true
  | .join _ => true
  | .regang _ => true
  | .idle _ => true
  | .exit _ => true
  | .call _ _ => true
  | .ret _ => true
  | .grow _ => true
  | .setfmt _ => true
  | .getfmt _ => false
  | .qput _ => true
  | .qget _ => true
  | .bar _ _ => true
  | .setg _ => true
  | .sysrd _ => true
  | .syswr _ => true
  | .gadd _ => false
  | .gsub _ => false
  | .gmul _ => false
  | .gand _ => false
  | .gor _ => false
  | .gxor _ => false
  | .gshl _ => false
  | .gshr _ => false
  | .gsar _ => false
  | .gmin _ => false
  | .gmax _ => false
  | .gsel _ => false
  | .gcmp _ _ => false
  | .mpop _ => false
  | .mffs _ => false
  | .gaddi _ => false
  | .gli _ _ => false
  | .glih _ _ => false
  | .gld _ _ => false
  | .gst _ _ => true
  | .gatom _ _ => true
  | .cpy _ _ => true
  | .layout _ _ => true
  | .zfill _ _ => true
  | .bfence _ => true
  | .bwait _ => true
  | .callred _ _ => true
  | .cgather _ _ => true
  | .omap _ _ => true
  | .mma _ _ => true
  | .msqd _ _ => true
  | .mtopk _ _ => true
  | .mzero _ _ => true
  | .mstore _ _ => true
  | .maddt _ _ => true
  | .tcfg _ _ => true
  | .tevict _ _ => true
  | .trestore _ _ => true
  | .mutate _ _ => true
  | .replay _ _ => true
  | .rrd _ => false
  | .cvend _ => true
  | .launchd _ _ => true
  | .gridsync _ => true
  | .rqput _ => true
  | .rqputn _ => true
  | .rqget _ => true
  | .rqgetn _ => true
  | .rqcnt _ => false
  | .yield _ => true
  | .sleep _ => true
  | .evsig _ => true
  | .trap _ => true
  | .trapc _ => true
  | .tret _ => true
  | .tretGoto _ => true
  | .tretKill _ => true
  | .bkpt _ => true
  | .haltTeam _ => true
  | .haltFlush _ => true
  | .errrd _ => false
  | .faultRecordWrite _ => false
  | .fresumeRetry _ _ _ => false
  | .fresumeAbort _ _ _ => false
  | .ticmdPage _ _ _ => false
  | .ticmdContext _ _ _ => false
  | .ticmdGrove _ _ _ => false
  | .ticmdAll _ _ => false
  | .invalidationComplete _ => false
  | .splitcfgWrite _ _ => false
  | .l2WriteBack _ => false
  | .patrolScrub _ _ => false
  | .sramUncorrectableError _ => false
  | .cacheParityError _ => false
  | .mirrorWriteApply _ _ => false
  | .spillFill _ => false
  | .scratchpadWaitEnd _ => false
  | .tileWaitEnd _ => false
  | .queueWaitEnd _ => false
  | .rendezvousWaitEnd _ => false
  | .barrierPhaseComplete _ _ _ => false
  | .gridsyncPhaseComplete _ => false
  | .batchWaitComplete _ => false
  | .convergentPerform _ => false
  | .growGrant _ _ => false
  | .evictedGroupReadmit _ => false
  | .recordQueueWaitEnd _ => false
  | .sleepExpiry _ => false
  | .engineQueueRoom _ => false
  | .launchQueueRoom _ => false
  | .cpyPerform _ _ => false
  | .layoutPerform _ _ => false
  | .zfillPerform _ _ => false
  | .omapPerform _ _ => false
  | .mmaChunk _ _ => false
  | .msqdPerform _ _ => false
  | .mtopkPerform _ _ => false
  | .mzeroPerform _ _ => false
  | .mstorePerform _ _ => false
  | .maddtPerform _ _ => false
  | .tcfgPerform _ _ => false
  | .tevictPerform _ _ _ => false
  | .trestorePerform _ _ _ => false
  | .callredPerform _ _ => false
  | .cgatherPerform _ _ => false
  | .trunkPartialReceive _ _ => false
  | .traversalStep _ _ _ => false
  | .marchStep _ _ _ => false
  | .issueSelect _ => false
  | .pathAged _ => false
  | .debugRecordWrite _ => false
  | .stallRecordWrite _ => false
  | .qkick _ _ _ => false
  | .qcfgWrite _ _ _ => false
  | .qstatHaltClear _ _ => false
  | .entryNop _ _ => false
  | .entryGraph _ _ => false
  | .entryInstall _ _ _ => false
  | .entrySignal _ _ => false
  | .entryWait _ _ => false
  | .graphNodeStart _ _ _ => false
  | .teamAdmission _ _ => false
  | .deviceLaunchStart _ => false
  | .groupRetire _ _ => false
  | .teamRetire _ _ => false
  | .gridEnd _ => false
  | .pscmdSave _ _ _ _ _ => false
  | .pscmdResume _ _ _ _ _ => false
  | .pscmdTeardown _ _ _ _ _ => false
  | .saveComplete _ => false
  | .powerOn => false
  | .fundamentalReset => false
  | .bootAttempt _ _ => false
  | .bootTimeout => false
  | .bootcmdWarm => false
  | .bootcmdSwap => false
  | .flashcmd _ _ => false
  | .lccmd _ _ _ => false
  | .standgrvWrite _ _ => false
  | .ringRegisterWrite _ _ _ => false
  | .gintAck _ _ => false
  | .dbgstopArm _ _ => false
  | .dbgstopGo _ => false
  | .trig _ => false
  | .triggerReceive _ _ => false
  | .hostPostedWrite _ _ => false
  | .hostRead _ _ => false
  | .apertureAccess _ _ _ _ => false
  | .peerAccessArrival _ _ _ _ => false
  | .supplySag _ => false
  | .sagRecoveryStep _ => false
  | .registerWrite _ _ _ => false
  | .flashWriteComplete _ => false
  | .peercfgWrite _ _ _ => false
  | .peerLinkTrained _ => false

/-- The units that may issue each instruction (spec/05 R118, R137, spec/07 R179, spec/15 R333). -/
def Instr.units : Instr → Units
  | .vadd _ => .lform
  | .vsub _ => .lform
  | .vmul _ => .lform
  | .vmulh _ => .lform
  | .vmad _ => .lform
  | .vmin _ => .lform
  | .vmax _ => .lform
  | .vand _ => .lform
  | .vor _ => .lform
  | .vxor _ => .lform
  | .vshl _ => .lform
  | .vshr _ => .lform
  | .vsar _ => .lform
  | .vclz _ => .lform
  | .vpopc _ => .lform
  | .vaddi _ => .lform
  | .vshli _ => .lform
  | .vshri _ => .lform
  | .vsari _ => .lform
  | .vsel _ => .lform
  | .vli _ _ => .lform
  | .vcmp _ _ => .lform
  | .fadd _ => .lform
  | .fmul _ => .lform
  | .ffma _ => .lform
  | .fmin _ => .lform
  | .fmax _ => .lform
  | .fcmp _ _ => .lform
  | .bfma2 _ => .lform
  | .cvt _ => .lform
  | .frcp _ => .lform
  | .frsq _ => .lform
  | .fsqrt _ => .lform
  | .fexp2 _ => .lform
  | .flog2 _ => .lform
  | .sint _ => .lform
  | .cost _ => .lform
  | .vperm _ => .lform
  | .vshfl _ => .lform
  | .vbcast _ => .lform
  | .vmatch _ => .lform
  | .vvote _ _ => .lform
  | .vreduce _ => .lform
  | .vscan _ => .lform
  | .xsend _ _ => .lform
  | .xrecv _ _ => .lform
  | .ld _ _ => .lform
  | .st _ _ => .lform
  | .lds _ _ => .lform
  | .sts _ _ => .lform
  | .ldq _ _ => .lform
  | .stq _ _ => .lform
  | .atom _ _ => .lform
  | .atoms _ _ => .lform
  | .acas _ _ => .lform
  | .acass _ _ => .lform
  | .aaddx _ _ => .lform
  | .fence _ _ => .lform
  | .discard _ _ => .lform
  | .pref _ _ => .lform
  | .accrd _ _ => .lform
  | .tadd _ _ => .lform
  | .tnorm _ _ => .lform
  | .tnormq _ _ => .lform
  | .tsync _ => .lform
  | .accrdc _ _ => .lform
  | .cvbind _ => .lform
  | .draw _ => .lform
  | .drawk _ => .lform
  | .cvcur _ => .lform
  | .result _ => .lform
  | .rcmp _ _ => .lform
  | .trace _ _ => .lform
  | .tracea _ _ => .lform
  | .traceo _ _ => .lform
  | .hitrd _ => .lform
  | .hituv _ => .lform
  | .vmarch _ _ => .lform
  | .vmrd _ => .lform
  | .rsave _ => .lform
  | .rload _ => .lform
  | .rclr _ => .lform
  | .nop _ => .all
  | .br _ => .all
  | .brc _ => .all
  | .brd _ => .group
  | .brx _ => .all
  | .join _ => .group
  | .regang _ => .group
  | .idle _ => .group
  | .exit _ => .all
  | .call f _ => .call f.b.toNat
  | .ret _ => .all
  | .grow _ => .group
  | .setfmt _ => .all
  | .getfmt _ => .all
  | .qput _ => .team
  | .qget _ => .team
  | .bar _ _ => .team
  | .setg f => .setg f.imm.toNat
  | .sysrd _ => .all
  | .syswr _ => .all
  | .gadd _ => .all
  | .gsub _ => .all
  | .gmul _ => .all
  | .gand _ => .all
  | .gor _ => .all
  | .gxor _ => .all
  | .gshl _ => .all
  | .gshr _ => .all
  | .gsar _ => .all
  | .gmin _ => .all
  | .gmax _ => .all
  | .gsel _ => .all
  | .gcmp _ _ => .all
  | .mpop _ => .all
  | .mffs _ => .all
  | .gaddi _ => .all
  | .gli _ _ => .all
  | .glih _ _ => .all
  | .gld _ _ => .all
  | .gst _ _ => .all
  | .gatom _ _ => .all
  | .cpy _ _ => .seq
  | .layout _ _ => .seq
  | .zfill _ _ => .seq
  | .bfence _ => .seq
  | .bwait _ => .team
  | .callred _ _ => .seq
  | .cgather _ _ => .seq
  | .omap _ _ => .seq
  | .mma _ _ => .seq
  | .msqd _ _ => .seq
  | .mtopk _ _ => .seq
  | .mzero _ _ => .seq
  | .mstore _ _ => .seq
  | .maddt _ _ => .seq
  | .tcfg _ _ => .seq
  | .tevict _ _ => .seq
  | .trestore _ _ => .seq
  | .mutate _ _ => .all
  | .replay _ _ => .all
  | .rrd _ => .all
  | .cvend _ => .all
  | .launchd _ _ => .all
  | .gridsync _ => .group
  | .rqput _ => .all
  | .rqputn _ => .all
  | .rqget _ => .all
  | .rqgetn _ => .all
  | .rqcnt _ => .all
  | .yield _ => .all
  | .sleep _ => .all
  | .evsig _ => .all
  | .trap _ => .all
  | .trapc _ => .all
  | .tret _ => .all
  | .tretGoto _ => .all
  | .tretKill _ => .all
  | .bkpt _ => .all
  | .haltTeam _ => .all
  | .haltFlush _ => .seq
  | .errrd _ => .all
  | .faultRecordWrite _ => .none
  | .fresumeRetry _ _ _ => .none
  | .fresumeAbort _ _ _ => .none
  | .ticmdPage _ _ _ => .none
  | .ticmdContext _ _ _ => .none
  | .ticmdGrove _ _ _ => .none
  | .ticmdAll _ _ => .none
  | .invalidationComplete _ => .none
  | .splitcfgWrite _ _ => .none
  | .l2WriteBack _ => .none
  | .patrolScrub _ _ => .none
  | .sramUncorrectableError _ => .none
  | .cacheParityError _ => .none
  | .mirrorWriteApply _ _ => .none
  | .spillFill _ => .none
  | .scratchpadWaitEnd _ => .none
  | .tileWaitEnd _ => .none
  | .queueWaitEnd _ => .none
  | .rendezvousWaitEnd _ => .none
  | .barrierPhaseComplete _ _ _ => .none
  | .gridsyncPhaseComplete _ => .none
  | .batchWaitComplete _ => .none
  | .convergentPerform _ => .none
  | .growGrant _ _ => .none
  | .evictedGroupReadmit _ => .none
  | .recordQueueWaitEnd _ => .none
  | .sleepExpiry _ => .none
  | .engineQueueRoom _ => .none
  | .launchQueueRoom _ => .none
  | .cpyPerform _ _ => .none
  | .layoutPerform _ _ => .none
  | .zfillPerform _ _ => .none
  | .omapPerform _ _ => .none
  | .mmaChunk _ _ => .none
  | .msqdPerform _ _ => .none
  | .mtopkPerform _ _ => .none
  | .mzeroPerform _ _ => .none
  | .mstorePerform _ _ => .none
  | .maddtPerform _ _ => .none
  | .tcfgPerform _ _ => .none
  | .tevictPerform _ _ _ => .none
  | .trestorePerform _ _ _ => .none
  | .callredPerform _ _ => .none
  | .cgatherPerform _ _ => .none
  | .trunkPartialReceive _ _ => .none
  | .traversalStep _ _ _ => .none
  | .marchStep _ _ _ => .none
  | .issueSelect _ => .none
  | .pathAged _ => .none
  | .debugRecordWrite _ => .none
  | .stallRecordWrite _ => .none
  | .qkick _ _ _ => .none
  | .qcfgWrite _ _ _ => .none
  | .qstatHaltClear _ _ => .none
  | .entryNop _ _ => .none
  | .entryGraph _ _ => .none
  | .entryInstall _ _ _ => .none
  | .entrySignal _ _ => .none
  | .entryWait _ _ => .none
  | .graphNodeStart _ _ _ => .none
  | .teamAdmission _ _ => .none
  | .deviceLaunchStart _ => .none
  | .groupRetire _ _ => .none
  | .teamRetire _ _ => .none
  | .gridEnd _ => .none
  | .pscmdSave _ _ _ _ _ => .none
  | .pscmdResume _ _ _ _ _ => .none
  | .pscmdTeardown _ _ _ _ _ => .none
  | .saveComplete _ => .none
  | .powerOn => .none
  | .fundamentalReset => .none
  | .bootAttempt _ _ => .none
  | .bootTimeout => .none
  | .bootcmdWarm => .none
  | .bootcmdSwap => .none
  | .flashcmd _ _ => .none
  | .lccmd _ _ _ => .none
  | .standgrvWrite _ _ => .none
  | .ringRegisterWrite _ _ _ => .none
  | .gintAck _ _ => .none
  | .dbgstopArm _ _ => .none
  | .dbgstopGo _ => .none
  | .trig _ => .none
  | .triggerReceive _ _ => .none
  | .hostPostedWrite _ _ => .none
  | .hostRead _ _ => .none
  | .apertureAccess _ _ _ _ => .none
  | .peerAccessArrival _ _ _ _ => .none
  | .supplySag _ => .none
  | .sagRecoveryStep _ => .none
  | .registerWrite _ _ _ => .none
  | .flashWriteComplete _ => .none
  | .peercfgWrite _ _ _ => .none
  | .peerLinkTrained _ => .none

/-- Bytes of the instruction in memory (spec/07 R162): 4, or 8 with an extension word. -/
def Instr.len : Instr → Nat
  | .vadd _ => 4
  | .vsub _ => 4
  | .vmul _ => 4
  | .vmulh _ => 4
  | .vmad _ => 4
  | .vmin _ => 4
  | .vmax _ => 4
  | .vand _ => 4
  | .vor _ => 4
  | .vxor _ => 4
  | .vshl _ => 4
  | .vshr _ => 4
  | .vsar _ => 4
  | .vclz _ => 4
  | .vpopc _ => 4
  | .vaddi _ => 4
  | .vshli _ => 4
  | .vshri _ => 4
  | .vsari _ => 4
  | .vsel _ => 4
  | .vli _ _ => 8
  | .vcmp _ _ => 8
  | .fadd _ => 4
  | .fmul _ => 4
  | .ffma _ => 4
  | .fmin _ => 4
  | .fmax _ => 4
  | .fcmp _ _ => 8
  | .bfma2 _ => 4
  | .cvt _ => 4
  | .frcp _ => 4
  | .frsq _ => 4
  | .fsqrt _ => 4
  | .fexp2 _ => 4
  | .flog2 _ => 4
  | .sint _ => 4
  | .cost _ => 4
  | .vperm _ => 4
  | .vshfl _ => 4
  | .vbcast _ => 4
  | .vmatch _ => 4
  | .vvote _ _ => 8
  | .vreduce _ => 4
  | .vscan _ => 4
  | .xsend _ _ => 8
  | .xrecv _ _ => 8
  | .ld _ _ => 8
  | .st _ _ => 8
  | .lds _ _ => 8
  | .sts _ _ => 8
  | .ldq _ _ => 8
  | .stq _ _ => 8
  | .atom _ _ => 8
  | .atoms _ _ => 8
  | .acas _ _ => 8
  | .acass _ _ => 8
  | .aaddx _ _ => 8
  | .fence _ _ => 8
  | .discard _ _ => 8
  | .pref _ _ => 8
  | .accrd _ _ => 8
  | .tadd _ _ => 8
  | .tnorm _ _ => 8
  | .tnormq _ _ => 8
  | .tsync _ => 4
  | .accrdc _ _ => 8
  | .cvbind _ => 4
  | .draw _ => 4
  | .drawk _ => 4
  | .cvcur _ => 4
  | .result _ => 4
  | .rcmp _ _ => 8
  | .trace _ _ => 8
  | .tracea _ _ => 8
  | .traceo _ _ => 8
  | .hitrd _ => 4
  | .hituv _ => 4
  | .vmarch _ _ => 8
  | .vmrd _ => 4
  | .rsave _ => 4
  | .rload _ => 4
  | .rclr _ => 4
  | .nop _ => 4
  | .br _ => 4
  | .brc _ => 4
  | .brd _ => 4
  | .brx _ => 4
  | .join _ => 4
  | .regang _ => 4
  | .idle _ => 4
  | .exit _ => 4
  | .call _ _ => 8
  | .ret _ => 4
  | .grow _ => 4
  | .setfmt _ => 4
  | .getfmt _ => 4
  | .qput _ => 4
  | .qget _ => 4
  | .bar _ _ => 8
  | .setg _ => 4
  | .sysrd _ => 4
  | .syswr _ => 4
  | .gadd _ => 4
  | .gsub _ => 4
  | .gmul _ => 4
  | .gand _ => 4
  | .gor _ => 4
  | .gxor _ => 4
  | .gshl _ => 4
  | .gshr _ => 4
  | .gsar _ => 4
  | .gmin _ => 4
  | .gmax _ => 4
  | .gsel _ => 4
  | .gcmp _ _ => 8
  | .mpop _ => 4
  | .mffs _ => 4
  | .gaddi _ => 4
  | .gli _ _ => 8
  | .glih _ _ => 8
  | .gld _ _ => 8
  | .gst _ _ => 8
  | .gatom _ _ => 8
  | .cpy _ _ => 8
  | .layout _ _ => 8
  | .zfill _ _ => 8
  | .bfence _ => 4
  | .bwait _ => 4
  | .callred _ _ => 8
  | .cgather _ _ => 8
  | .omap _ _ => 8
  | .mma _ _ => 8
  | .msqd _ _ => 8
  | .mtopk _ _ => 8
  | .mzero _ _ => 8
  | .mstore _ _ => 8
  | .maddt _ _ => 8
  | .tcfg _ _ => 8
  | .tevict _ _ => 8
  | .trestore _ _ => 8
  | .mutate _ _ => 8
  | .replay _ _ => 8
  | .rrd _ => 4
  | .cvend _ => 4
  | .launchd _ _ => 8
  | .gridsync _ => 4
  | .rqput _ => 4
  | .rqputn _ => 4
  | .rqget _ => 4
  | .rqgetn _ => 4
  | .rqcnt _ => 4
  | .yield _ => 4
  | .sleep _ => 4
  | .evsig _ => 4
  | .trap _ => 4
  | .trapc _ => 4
  | .tret _ => 4
  | .tretGoto _ => 4
  | .tretKill _ => 4
  | .bkpt _ => 4
  | .haltTeam _ => 4
  | .haltFlush _ => 4
  | .errrd _ => 4
  | .faultRecordWrite _ => 0
  | .fresumeRetry _ _ _ => 0
  | .fresumeAbort _ _ _ => 0
  | .ticmdPage _ _ _ => 0
  | .ticmdContext _ _ _ => 0
  | .ticmdGrove _ _ _ => 0
  | .ticmdAll _ _ => 0
  | .invalidationComplete _ => 0
  | .splitcfgWrite _ _ => 0
  | .l2WriteBack _ => 0
  | .patrolScrub _ _ => 0
  | .sramUncorrectableError _ => 0
  | .cacheParityError _ => 0
  | .mirrorWriteApply _ _ => 0
  | .spillFill _ => 0
  | .scratchpadWaitEnd _ => 0
  | .tileWaitEnd _ => 0
  | .queueWaitEnd _ => 0
  | .rendezvousWaitEnd _ => 0
  | .barrierPhaseComplete _ _ _ => 0
  | .gridsyncPhaseComplete _ => 0
  | .batchWaitComplete _ => 0
  | .convergentPerform _ => 0
  | .growGrant _ _ => 0
  | .evictedGroupReadmit _ => 0
  | .recordQueueWaitEnd _ => 0
  | .sleepExpiry _ => 0
  | .engineQueueRoom _ => 0
  | .launchQueueRoom _ => 0
  | .cpyPerform _ _ => 0
  | .layoutPerform _ _ => 0
  | .zfillPerform _ _ => 0
  | .omapPerform _ _ => 0
  | .mmaChunk _ _ => 0
  | .msqdPerform _ _ => 0
  | .mtopkPerform _ _ => 0
  | .mzeroPerform _ _ => 0
  | .mstorePerform _ _ => 0
  | .maddtPerform _ _ => 0
  | .tcfgPerform _ _ => 0
  | .tevictPerform _ _ _ => 0
  | .trestorePerform _ _ _ => 0
  | .callredPerform _ _ => 0
  | .cgatherPerform _ _ => 0
  | .trunkPartialReceive _ _ => 0
  | .traversalStep _ _ _ => 0
  | .marchStep _ _ _ => 0
  | .issueSelect _ => 0
  | .pathAged _ => 0
  | .debugRecordWrite _ => 0
  | .stallRecordWrite _ => 0
  | .qkick _ _ _ => 0
  | .qcfgWrite _ _ _ => 0
  | .qstatHaltClear _ _ => 0
  | .entryNop _ _ => 0
  | .entryGraph _ _ => 0
  | .entryInstall _ _ _ => 0
  | .entrySignal _ _ => 0
  | .entryWait _ _ => 0
  | .graphNodeStart _ _ _ => 0
  | .teamAdmission _ _ => 0
  | .deviceLaunchStart _ => 0
  | .groupRetire _ _ => 0
  | .teamRetire _ _ => 0
  | .gridEnd _ => 0
  | .pscmdSave _ _ _ _ _ => 0
  | .pscmdResume _ _ _ _ _ => 0
  | .pscmdTeardown _ _ _ _ _ => 0
  | .saveComplete _ => 0
  | .powerOn => 0
  | .fundamentalReset => 0
  | .bootAttempt _ _ => 0
  | .bootTimeout => 0
  | .bootcmdWarm => 0
  | .bootcmdSwap => 0
  | .flashcmd _ _ => 0
  | .lccmd _ _ _ => 0
  | .standgrvWrite _ _ => 0
  | .ringRegisterWrite _ _ _ => 0
  | .gintAck _ _ => 0
  | .dbgstopArm _ _ => 0
  | .dbgstopGo _ => 0
  | .trig _ => 0
  | .triggerReceive _ _ => 0
  | .hostPostedWrite _ _ => 0
  | .hostRead _ _ => 0
  | .apertureAccess _ _ _ _ => 0
  | .peerAccessArrival _ _ _ _ => 0
  | .supplySag _ => 0
  | .sagRecoveryStep _ => 0
  | .registerWrite _ _ _ => 0
  | .flashWriteComplete _ => 0
  | .peercfgWrite _ _ _ => 0
  | .peerLinkTrained _ => 0

/-- Step 3 of spec/07 R175: the unit may not issue the instruction. -/
def Instr.wrongUnit (i : Instr) (u : UnitId) : Bool :=
  match i.units, u with
  | .all, _ => false
  | .lform, .path _ _ _ => false
  | .lform, _ => true
  | .group, .path _ _ _ => false
  | .group, _ => true
  | .team, .lant _ _ => true
  | .team, _ => false
  | .seq, .seq _ _ => false
  | .seq, _ => true
  | .call _, .path _ _ _ => false
  | .call n, _ => n != 0
  | .setg v, .path _ _ _ => v == 2
  | .setg v, .seq _ _ => v == 0 || v == 1 || v == 3
  | .setg _, .lant _ _ => true
  | .none, _ => true

/-- Every operand field keeps its rule. -/
def Instr.opndsOk (i : Instr) : Bool := i.opnds.all Opnd.ok

/-- An instruction that raises no fault at steps 4 and 5 of spec/07 R175, wherever it stands but at offset 60. -/
def Instr.wellFormed (i : Instr) : Bool := i.firstOk && i.extOk && i.opndsOk

end Sys2Proof
end

