-- ==== Sys2Proof/Machine/Units.lean ====
section
/-! DEFINITION. Units that issue instructions, their registers and latches, runs and the path table
(spec/05 R115 to R137, spec/07 R165, R168, R171, R172). -/
namespace Sys2Proof

/-- Is the unit a path? -/
def UnitId.isPath : UnitId → Bool
  | .path _ _ _ => true
  | _ => false
/-- Is the unit a team sequencer? -/
def UnitId.isSeq : UnitId → Bool
  | .seq _ _ => true
  | _ => false
/-- The core or lantern core number of a unit. -/
def UnitId.place : UnitId → Nat
  | .path c _ _ => c
  | .seq c _ => c
  | .lant l _ => l
/-- The quadrant through which a unit issues (spec/14 R317). -/
def UnitId.quad : UnitId → Nat
  | .path _ g _ => g % 4
  | .seq _ t => t % 4
  | .lant _ _ => 0

end Sys2Proof
namespace Sys2Proof.Machine


/-- Group slot `g` of core `c`. -/
def State.group (s : State) (c g : Nat) : Group := (s.core c).groups.get g .none
/-- Group slot `g` of core `c` changed by `f`. -/
def State.onGroup (s : State) (c g : Nat) (f : Group → Group) : State :=
  s.onCore c fun k => { k with groups := k.groups.put g (f (k.groups.get g .none)) }
/-- Team slot `t` of core `c`. -/
def State.team (s : State) (c t : Nat) : Team := (s.core c).teams.get t .none
/-- Team slot `t` of core `c` changed by `f`. -/
def State.onTeam (s : State) (c t : Nat) (f : Team → Team) : State :=
  s.onCore c fun k => { k with teams := k.teams.put t (f (k.teams.get t .none)) }
/-- Path-table entry `i` of a group. -/
def Group.path (g : Group) (i : Nat) : Path := g.paths.get i .none
/-- Path-table entry `i` of a group changed by `f`. -/
def Group.onPath (g : Group) (i : Nat) (f : Path → Path) : Group := { g with paths := g.paths.put i (f (g.path i)) }
/-- Program slot `p` of lantern core `l`. -/
def State.prog (s : State) (l p : Nat) : Prog := (s.lantern l).progs.get p .none
/-- Program slot `p` of lantern core `l` changed by `f`. -/
def State.onProg (s : State) (l p : Nat) (f : Prog → Prog) : State :=
  s.onLantern l fun k => { k with progs := k.progs.put p (f (k.progs.get p .none)) }

/-- The team slot of a unit; a lantern program has none. -/
def State.teamSlot (s : State) : UnitId → Nat
  | .path c g _ => (s.group c g).team
  | .seq _ t => t
  | .lant _ _ => 0
/-- Barrier `k` of a team. -/
def Team.bar (t : Team) (k : Nat) : Barrier := t.bars.get k .none
/-- Engine queue `q` of a team. -/
def Team.engq (t : Team) (q : Nat) : EngQueue := t.eng.get q .none
/-- Engine queue `q` of a team changed by `f`. -/
def Team.onEngq (t : Team) (q : Nat) (f : EngQueue → EngQueue) : Team := { t with eng := t.eng.put q (f (t.engq q)) }
/-- Every incomplete command of a team. -/
def Team.cmds (t : Team) : List Cmd := t.eng.cells.flatMap fun q => q.2.cmds
/-- The team of a unit. -/
def State.teamOf (s : State) (u : UnitId) : Team := s.team u.place (s.teamSlot u)
/-- The team of a unit changed by `f`. -/
def State.onTeamOf (s : State) (u : UnitId) (f : Team → Team) : State := s.onTeam u.place (s.teamSlot u) f
/-- The context of a unit. -/
def State.ctxOf (s : State) : UnitId → Nat
  | .lant l p => (s.prog l p).ctx
  | u => (s.teamOf u).ctx
/-- The grid of a unit. -/
def State.gridOf (s : State) : UnitId → Nat
  | .lant l p => (s.prog l p).grid
  | u => (s.teamOf u).grid
/-- The thread of a unit. -/
def State.thread (s : State) : UnitId → Thread
  | .path c g i => ((s.group c g).path i).th
  | .seq c t => (s.team c t).seq
  | .lant l p => (s.prog l p).th
/-- The thread of a unit changed by `f`. -/
def State.onThread (s : State) (u : UnitId) (f : Thread → Thread) : State :=
  match u with
  | .path c g i => s.onGroup c g fun k => k.onPath i fun p => { p with th := f p.th }
  | .seq c t => s.onTeam c t fun k => { k with seq := f k.seq }
  | .lant l p => s.onProg l p fun k => { k with th := f k.th }
/-- The run in progress of a unit changed by `f`. -/
def State.onRun (s : State) (u : UnitId) (f : Run → Run) : State := s.onThread u fun t => { t with run := f t.run }
/-- The group of a path; another unit has none. -/
def State.groupOf (s : State) : UnitId → Group
  | .path c g _ => s.group c g
  | _ => .none
/-- The group of a path changed by `f`. -/
def State.onGroupOf (s : State) (u : UnitId) (f : Group → Group) : State :=
  match u with
  | .path c g _ => s.onGroup c g f
  | _ => s
/-- The path-table entry of a path. -/
def State.pathOf (s : State) : UnitId → Path
  | .path c g i => (s.group c g).path i
  | _ => .none
/-- The path-table entry of a path changed by `f`. -/
def State.onPathOf (s : State) (u : UnitId) (f : Path → Path) : State :=
  match u with
  | .path c g i => s.onGroup c g fun k => k.onPath i f
  | _ => s
/-- Is the unit resident: a valid path, a sequencer whose stream has not ended, a program? -/
def State.alive (s : State) : UnitId → Bool
  | .path c g i => (s.group c g).paths.has i
  | .seq c t => (s.core c).teams.has t && !(s.team c t).seqExited
  | .lant l p => (s.lantern l).progs.has p
/-- The execute mask of a unit: of a path its MASK (spec/05 R129), of any other unit nothing. -/
def State.maskOf (s : State) (u : UnitId) : Dword := (s.pathOf u).mask
/-- Lanes that are launched and neither idle nor exited. -/
def Group.live (g : Group) : Dword := g.launched &&& ~~~(g.idle ||| g.exited)

/-! Registers. A lane register's key is 64 * its physical index + its lane; the index is 0 to 15 for v0 to v15 and 16 + j for
stack register j, so that vk with k ≥ 16 has index WB + k (spec/05 R130). -/

/-- Key of the lane register with physical index `x` of lane `l`. -/
def vSlot (l x : Nat) : Nat := 64 * x + l

/-- Physical index of vk under window base `wb`. -/
def vIndex (wb k : Nat) : Nat := if k < 16 then k else wb + k
/-- Key of vk of lane `l`. -/
def vKey (wb l k : Nat) : Nat := vSlot l (vIndex wb k)
/-- The committed value of vk of lane `l` under window base `wb`. -/
def Group.vreg (g : Group) (wb l k : Nat) : Word := g.vregs.get (vKey wb l k) 0
/-- vk of lane `l` as the path sees it: its run's write, or the committed value (spec/05 R135). -/
def State.vget (s : State) (u : UnitId) (l k : Nat) : Word :=
  let p := s.pathOf u
  (p.th.run.vOver.find (vKey p.wb l k)).getD ((s.groupOf u).vreg p.wb l k)
/-- A write of vk of lane `l` in the path's run. -/
def State.vput (s : State) (u : UnitId) (l k : Nat) (v : Word) : State :=
  let wb := (s.pathOf u).wb
  s.onRun u fun r => { r with vOver := r.vOver.put (vKey wb l k) v }

/-- The committed s-registers of a unit: of its group, its team's sequencer, or its program. -/
def State.sregs (s : State) : UnitId → Tab Dword
  | .path c g _ => (s.group c g).sregs
  | .seq c t => (s.team c t).seqRegs
  | .lant l p => (s.prog l p).sregs
/-- S[k] as the unit sees it (spec/08 R184). -/
def State.sget (s : State) (u : UnitId) (k : Nat) : Dword :=
  ((s.thread u).run.sOver.find k).getD ((s.sregs u).get k 0)
/-- A write of S[k] in the unit's run. -/
def State.sput (s : State) (u : UnitId) (k : Nat) (v : Dword) : State :=
  s.onRun u fun r => { r with sOver := r.sOver.put k v }

/-- The lane value that an L-form source code supplies at width 32 or 64 (spec/07 R165); the codes and latches have been
checked before. -/
def State.srcL (s : State) (u : UnitId) (code l w : Nat) : Dword :=
  let cut (x : Dword) : Dword := if w = 64 then x else x &&& 0xFFFFFFFF
  if code < 64 then
    if w = 64 then (s.vget u l (code + 1) ++ s.vget u l code : BitVec 64)
    else (s.vget u l code).setWidth 64
  else if code < 68 then cut ((((s.thread u).run.lat.getD (code - 64) none).getD .empty).get l 0)
  else cut (s.sget u (code - 72))

/-- src(a) of a G-form instruction: an s-register or a uniform latch (spec/07 R168, spec/08 R183). -/
def State.srcG (s : State) (u : UnitId) (code : Nat) : Dword :=
  if code < 160 then s.sget u code else ((s.thread u).run.ulat.getD (code - 252) none).getD 0

/-- The latches of the L-form pipe shifted: `r` enters b0 (spec/05 R136). -/
def State.shiftL (s : State) (u : UnitId) (r : Option (Tab Dword)) : State :=
  s.onRun u fun k => { k with lat := r :: k.lat.take 3 }
/-- The latches of the uniform pipe shifted. -/
def State.shiftG (s : State) (u : UnitId) (r : Option Dword) : State :=
  s.onRun u fun k => { k with ulat := r :: k.ulat.take 3 }

/-- A lane result of width `w` written to vd for each lane it holds, unless K = 1, and shifted into the L-pipe latch
(spec/05 R136, spec/07 R166). -/
def State.laneResult (s : State) (u : UnitId) (d : Nat) (k : Bool) (w : Nat) (vals : Tab Dword) : State :=
  let s := if k then s else
    vals.cells.foldl (fun s c =>
      let s := s.vput u c.1 d (c.2.setWidth 32)
      if w = 64 then s.vput u c.1 (d + 1) (c.2.extractLsb' 32 32) else s) s
  s.shiftL u (some vals)
/-- A uniform result written to S[d], unless K = 1, and shifted into the uniform latch (spec/08 R183). -/
def State.uniResult (s : State) (u : UnitId) (d : Nat) (k : Bool) (v : Dword) : State :=
  (if k then s else s.sput u d v).shiftG u (some v)
/-- Flags set by OR in the run (spec/06 R140). -/
def State.orFlags (s : State) (u : UnitId) (f : BitVec 7) : State := s.onRun u fun r => { r with xOver := r.xOver ||| f }

/-! Runs. -/

/-- The binding state of lane `l` as the path sees it (spec/12 R271). -/
def State.bindOf (s : State) (u : UnitId) (l : Nat) : Binding :=
  ((s.thread u).run.bOver.find l).getD ((s.groupOf u).binds.get l .none)
/-- A change of lane `l`'s binding state in the path's run. -/
def State.bindPut (s : State) (u : UnitId) (l : Nat) (b : Binding) : State :=
  s.onRun u fun r => { r with bOver := r.bOver.put l b }

/-- The run's writes committed, its flags with them (spec/05 R135, spec/08 R184, notes/assumptions/71.md). -/
def State.commit (s : State) (u : UnitId) : State :=
  let r := (s.thread u).run
  match u with
  | .path c g i => s.onGroup c g fun k =>
      { k with vregs := k.vregs.over r.vOver, sregs := k.sregs.over r.sOver, binds := k.binds.over r.bOver,
               xflags := k.xflags ||| r.xOver
               lwb := (k.path i).mask.lanes.foldl (fun t l => t.put l (k.path i).wb) k.lwb }
  | .seq c t => s.onTeam c t fun k => { k with seqRegs := k.seqRegs.over r.sOver }
  | .lant l p => s.onProg l p fun k => { k with sregs := k.sregs.over r.sOver }

/-- The unit has no turn. -/
def State.dropTurn (s : State) (u : UnitId) : State := if s.turn = some u then { s with turn := none } else s
/-- A quadrant that has chosen nothing. -/
def Quad.idle (q : Quad) : Quad := { q with current := .none }
/-- The unit's quadrant is free, if it had chosen the unit. -/
def State.freeQuad (s : State) (u : UnitId) : State :=
  match u with
  | .lant _ _ => s
  | u =>
    if ((s.core u.place).quads.get u.quad .none).current = some u then
      s.onCore u.place fun k => { k with quads := k.quads.put u.quad (k.quads.get u.quad .none).idle }
    else s
/-- The unit gives up its place: it has no turn, and its quadrant is free. -/
def State.leave (s : State) (u : UnitId) : State := (s.dropTurn u).freeQuad u

/-- The thread about to start a run at `pc`, every latch invalid and nothing uncommitted. -/
def Thread.restart (t : Thread) (pc : Dword) : Thread :=
  { t with pc := pc, runpc := pc, run := .fresh, wait := none, state := .ready }
/-- The run ends: its writes are committed, and the next run starts at the unit's PC. -/
def State.endRun (s : State) (u : UnitId) : State :=
  ((s.commit u).onThread u fun t => t.restart t.pc).leave u

/-- The run's writes of some lanes are lost (spec/05 R135). -/
def Run.loseLanes (r : Run) (m : Dword) : Run :=
  { r with vOver := r.vOver.keep fun k => !m.getLsbD (k % 64), bOver := r.bOver.keep fun k => !m.getLsbD k }

/-- The unit waits at its instruction, its run as it stands (spec/02 R55, spec/05 R135, notes/assumptions/66.md). -/
def State.waitIn (s : State) (u : UnitId) (w : Wait) : State :=
  (s.onThread u fun t => { t with state := .waiting, wait := some w }).leave u

/-- The instruction in which a thread waits, if it waits. -/
def Thread.waiting (t : Thread) : Option Instr := if t.state == .waiting then t.wait.map fun w => w.instr else none

/-- A lantern core issues one instruction of a program at a time: the program's turn is over (spec/14 R324). -/
def State.nextSlot (s : State) (u : UnitId) : State := match u with
  | .lant _ _ => s.dropTurn u
  | _ => s
/-- The instruction is done: PC past its words, one more instruction in the run, which ends after a run-ending instruction
or the eighth (spec/05 R134, spec/07 R162). -/
def State.done (s : State) (u : UnitId) (len : Nat) (ends : Bool) : State :=
  let s := s.onThread u fun t =>
    { t with pc := t.pc + BitVec.ofNat 64 len, state := .ready, wait := none, run := { t.run with count := t.run.count + 1 } }
  if ends || decide (Config.runLimit ≤ (s.thread u).run.count) then s.endRun u else s.nextSlot u
/-- A branch is done: the next run starts at `pc` (spec/08 R185). -/
def State.jump (s : State) (u : UnitId) (pc : Dword) : State :=
  (s.onThread u fun t => { t with pc := pc, state := .ready, wait := none }).endRun u

end Sys2Proof.Machine
end

