-- ==== Sys2Proof/Machine/Ops.lean ====
section
/-! DEFINITION. Fault records, taking a trap and returning from one, parking, teardown (spec/01 R36 to R40, spec/15 R326 to
R337), and the path table's and the reconvergence stack's own operations (spec/05 R122, R123). -/
namespace Sys2Proof.Machine

/-! Free values and clocks. -/

/-- The next free value (notes/assumptions/9.md). -/
def State.freeVal (s : State) : Nat := Config.freeNat s.freeIdx
/-- One free value has been drawn. -/
def State.spend (s : State) : State := { s with freeIdx := s.freeIdx + 1 }
/-- Time passes: the device timestamp has advanced by a free amount since it was last read (notes/assumptions/8.md). -/
def State.tick (s : State) : State := { s.spend with time := s.time + BitVec.ofNat 64 s.freeVal }

/-! Rings of records in module HBM5 (spec/01 R39, spec/16 R358). -/

/-- Producer index minus consumer index, modulo 2^64. -/
def State.ringUsed (s : State) (base : Nat) : Nat := (s.home64 (base - 4096) - s.home64 (base - 4088)).toNat
/-- Is there room for `k` more slots in a ring of 2^lg? -/
def State.ringRoom (s : State) (base lg k : Nat) : Bool := decide (s.ringUsed base + k ≤ 2 ^ lg)
/-- Slots written from the producer index on, then the producer index moved. -/
def State.ringWrite (s : State) (base lg size : Nat) (slots : List (List Byte)) : State :=
  let n := (s.home64 (base - 4096)).toNat
  let s := (List.range slots.length).foldl
    (fun s i => s.writeHome (base + size * ((n + i) % 2 ^ lg)) (slots.getD i []) 1) s
  s.writeHome (base - 4096) (natLe 8 (n + slots.length)) 1
/-- MSI-X vector `v` of a grove becomes pending (spec/16 R347). -/
def State.signal (s : State) (g v : Nat) : State := s.onGrove g fun k => { k with gint := k.gint ||| BitVec.ofNat 4 (2 ^ v) }

/-! The path table and the stack. -/

/-- Is the instruction convergent (spec/09 R221)? -/
def convergent : Instr → Bool
  | .vvote _ _ => true
  | .vreduce _ => true
  | .vscan _ => true
  | _ => false
/-- Does the thread wait in a convergent instruction? -/
def Thread.gathers (t : Thread) : Bool := t.state == .waiting && (t.wait.any fun w => convergent w.instr)
/-- Member `i` of the family drops out of the waits of the members that wait in a convergent instruction at an address
other than `at_`: the wait's `lo` is the set of path indices that have dropped out (spec/09 R221). -/
def Group.dropOut (g : Group) (i : Nat) (at_ : Option Dword) : Group :=
  { g with paths := { cells := g.paths.cells.map fun c =>
      if c.1 != i && c.2.th.gathers && some c.2.th.pc != at_ then
        (c.1, { c.2 with th := { c.2.th with wait := c.2.th.wait.map fun w => { w with lo := w.lo ||| 2 ^ i } } })
      else c } }
/-- The unit, if it is a path, drops out of its family's waits elsewhere. -/
def State.dropOut (s : State) (u : UnitId) (at_ : Option Dword) : State :=
  match u with
  | .path c g i => s.onGroup c g fun k => k.dropOut i at_
  | _ => s
/-- A new member with index `i` has dropped out of no wait. -/
def Group.forgetOut (g : Group) (i : Nat) : Group :=
  { g with paths := { cells := g.paths.cells.map fun c =>
      if c.2.th.gathers then
        (c.1, { c.2 with th := { c.2.th with
          wait := c.2.th.wait.map fun w => { w with lo := if w.lo.testBit i then w.lo - 2 ^ i else w.lo } } })
      else c } }

/-- A new valid path-table entry at the lowest free index (spec/05 R123). -/
def Group.newPath (g : Group) (p : Path) : Group :=
  match g.paths.free Config.pathSlots with
  | some i => let g := g.forgetOut i; { g with paths := g.paths.put i p }
  | .none => g
/-- Index that the next new entry takes. -/
def Group.nextPath (g : Group) : Nat := (g.paths.free Config.pathSlots).getD 0
/-- Lanes `x` of a path set apart as a new path that is to restart the run: fmt, WB and family of the path, its own trap
frame empty, parked until it is told to go on (spec/01 R36, spec/15 R329). -/
def Path.splitOff (p : Path) (x : Dword) : Path :=
  { th := { Thread.startAt p.th.runpc p.th.fmt with state := .parked }, mask := x, arm := false, partner := 0, stk := 0,
    stkv := false, wb := p.wb, fam := p.fam }
/-- What remains of a path when lanes `x` leave it. -/
def Path.without (p : Path) (x : Dword) : Path :=
  { p with mask := p.mask &&& ~~~x, th := { p.th with run := p.th.run.loseLanes x } }

/-! Fault records. -/

/-- CTX, GROVE, CORE, GSLOT and PATH of a unit at their places in word 2 of a record (spec/01 R38), GROVE as the unit's node has it
(spec/01 R19, R43). -/
def State.place (s : State) (u : UnitId) : Nat :=
  let c := s.ctxOf u
  let at_ := c + (s.descOf u.node c).grove * 2 ^ 12
  match u with
  | .path k g i => at_ + k * 2 ^ 18 + g * 2 ^ 27 + i * 2 ^ 32
  | .seq k t => at_ + k * 2 ^ 18 + t * 2 ^ 27
  | .lant l p => at_ + l * 2 ^ 18 + p * 2 ^ 27
/-- SRC of a unit in a fault record. -/
def srcCode : UnitId → Nat
  | .path _ _ _ => 0
  | .seq _ _ => 2
  | .lant _ _ => 3
/-- Word 2 of a fault record (spec/01 R38). -/
def recWord2 (place : Nat) (f : Flt) (src eng : Nat) : Dword :=
  BitVec.ofNat 64 (place + f.kind * 2 ^ 37 + f.cause * 2 ^ 40 + f.level * 2 ^ 44 + src * 2 ^ 46 + eng * 2 ^ 48)

/-- A trap taken: the frame written, fmt 0, PC at the handler, a new run (spec/15 R329). -/
def Thread.enter (t : Thread) (d : Delivery) (vec held : Dword) : Thread :=
  { t.restart vec with
    frame := { active := true, all := d.all, cause := BitVec.ofNat 8 d.cause, detail := BitVec.ofNat 16 d.detail,
               fmt := t.fmt, rpc := d.rpc, fpc := d.fpc, addr := d.addr, lanes := d.lanes, held := held }
    fmt := 0, park := none }

/-- Which core and team slot a unit belongs to. -/
def State.home (s : State) (u : UnitId) : Nat × Nat := (u.place, s.teamSlot u)
/-- Does the unit belong to team slot `t` of core `c`? -/
def State.inTeam (s : State) (c t : Nat) (u : UnitId) : Bool :=
  match u with
  | .lant _ _ => false
  | _ => s.home u == (c, t)

/-- The grid counts one more retired team or ended program. -/
def State.countRetired (s : State) (gid : Nat) (torn : Bool) : State :=
  match s.grids.find gid with
  | none => s
  | some g => { s with grids := s.grids.put gid { g with retired := g.retired + 1, torn := g.torn || torn } }

/-- A group whose paths are gone; its stall bank stays (spec/15 R337, spec/16 R357). -/
def Group.ended (g : Group) : Group := { g with paths := .empty, stack := .empty, retired := true, growReq := .none }
/-- Every path, the sequencer and every wait of a team stop at once, its engine commands are dropped, and it stands ready
to retire (spec/15 R337). -/
def State.stopTeam (s : State) (c t : Nat) : State :=
  let units := s.inTeam c t
  let s := { s with turn := match s.turn with
    | some u => if units u then none else some u
    | none => none }
  let ctx := (s.team c t).ctx
  let s := s.onCtx ctx fun k =>
    { k with
      outstanding := k.outstanding.filter fun o => match o.req with
        | .unit u => !units u
        | .engine c' t' _ => !(c' == c && t' == t)
        | .failing _ _ _ _ => true
        | .deferred _ => true
        | .saved => true
      pend := k.pend.map fun r => { r with
        deliver := match r.deliver with
          | some d => if units d.dest then none else some d
          | none => none
        out := match r.out with
          | some (.unit u) => if units u then none else some (.unit u)
          | some (.engine c' t' q) => if c' == c && t' == t then none else some (.engine c' t' q)
          | some (.failing c' t' q n) => if c' == c && t' == t then none else some (.failing c' t' q n)
          | o => o } }
  s.onCore c fun k =>
    { k with
      groups := (k.evicted.filter fun e => e.group.team == t).foldl (fun gs e => if gs.has e.slot then gs else gs.put e.slot e.group.ended)
        { cells := k.groups.cells.map fun x => if x.2.team = t then (x.1, x.2.ended) else x }
      quads := { cells := k.quads.cells.map fun x =>
        match x.2.current with
        | some u => if units u then (x.1, { x.2 with current := none }) else x
        | none => x }
      evicted := k.evicted.filter fun e => e.group.team != t
      teams := k.teams.put t
        { k.teams.get t .none with seqExited := true, eng := .empty, torn := true, haltPending := [] } }

/-- A record enters the context's SEQ series (spec/01 R38, R39); node `nd`, which met the fault, has it written to the ring that its
descriptor of the context names (spec/01 R19, R43). -/
def State.pushRecord (s : State) (nd c : Nat) (w : List Dword) (out : Option Requester) (dlv : Option Delivery) : State :=
  let seq := (s.ctx c).seq
  let s := s.tick
  let w3 : Dword := BitVec.ofNat 64 (seq % 2 ^ 32 + s.time.toNat % 2 ^ 32 * 2 ^ 32)
  let r : PendRecord := { words := w ++ [w3], desc := s.descOf nd c, seq := seq, out := out, deliver := dlv }
  s.onCtx c fun k => { k with seq := (seq + 1) % 2 ^ 32, pend := k.pend ++ [r] }

/-- The team's groups and sequencer are stopped and its error record enters the fault queue: a teardown with its ECODE
(spec/15 R335 to R337). `cmd` is word 1, `who` the unit it is filled for. -/
def State.tearTeam (s : State) (who : UnitId) (ecode cmd : Nat) : State :=
  let c := who.place
  let t := s.teamSlot who
  let ctx := s.ctxOf who
  let gid := s.gridOf who
  let w2 : Dword := BitVec.ofNat 64 (s.place who + ecode * 2 ^ 40 + 2 ^ 63)
  let s := (s.stopTeam c t).pushRecord c ctx [0, BitVec.ofNat 64 cmd, w2] none none
  let rec4 := (((s.ctx ctx).pend.getLast?).map (·.words)).getD []
  let s := s.onTeam c t fun k => { k with errRec := some rec4 }
  match s.grids.find gid with
  | none => s
  | some g => { s with grids := s.grids.put gid { g with torn := true } }

/-- A lantern program that is torn down ends alone (spec/15 R337). -/
def State.tearProg (s : State) (l p ecode cmd : Nat) : State :=
  let u := UnitId.lant l p
  let ctx := s.ctxOf u
  let gid := s.gridOf u
  let w2 : Dword := BitVec.ofNat 64 (s.place u + ecode * 2 ^ 40 + 2 ^ 63)
  let s := s.pushRecord u.node ctx [0, BitVec.ofNat 64 cmd, w2] none none
  let s := (s.onLantern l fun k => { k with progs := k.progs.drop p }).leave u
  s.countRetired gid false

/-- Teardown of the unit's team, or of the lantern program alone. -/
def State.tearUnit (s : State) (u : UnitId) (ecode cmd : Nat) : State :=
  match u with
  | .lant l p => s.tearProg l p ecode cmd
  | u => s.tearTeam u ecode cmd

/-- Low half of word 0 of the trap frame that a delivery makes (spec/15 R329, R335). -/
def Delivery.low (d : Delivery) : Nat := 1 + cond d.all 1 0 * 2 + d.cause * 256 + d.detail % 65536 * 65536
/-- Low half of word 0 of a trap frame. -/
def Frame.low (f : Frame) : Nat :=
  cond f.active 1 0 + cond f.all 1 0 * 2 + f.cause.toNat * 256 + f.detail.toNat * 65536

/-- TAKING A TRAP (spec/15 R329): with a frame active or no handler the team is torn down; otherwise the handling unit
enters the context's handler. -/
def State.takeTrap (s : State) (d : Delivery) : State :=
  let t := s.thread d.dest
  let vec := (s.ctx (s.ctxOf d.dest)).trapv
  if t.frame.active then s.tearUnit d.dest 0x11 t.frame.low
  else if vec = 0 then s.tearUnit d.dest 0x10 d.low
  else
    let s := (s.onThread d.dest fun t => t.enter d vec (s.maskOf d.dest)).leave d.dest
    if d.cause = 0 then s.dropOut d.dest none else s

/-- An arrival taken back, as the unit is to repeat its BAR or GRIDSYNC (spec/05 R120, spec/14 R320, spec/15 R339). -/
def State.unarrive (s : State) (u : UnitId) : State :=
  let th := s.thread u
  if th.state != .waiting then s else
  match th.wait with
  | none => s
  | some w => match w.instr with
    | .bar f _ =>
      let k := f.b.toNat
      if w.lo != ((s.teamOf u).bar k).phase then s else
      s.onTeamOf u fun t =>
        let b := t.bar k
        { t with bars := t.bars.put k (match u with
          | .path _ g _ => { b with arrived := b.arrived.put g (b.arrived.get g 0 &&& ~~~(s.maskOf u)) }
          | _ => { b with seq := false }) }
    | .gridsync _ =>
      s.onTeamOf u fun t => match u with
        | .path _ g _ => { t with gridArrived := t.gridArrived.put g (t.gridArrived.get g 0 &&& ~~~(s.maskOf u)) }
        | _ => t
    | _ => s
/-- The sequencer takes ENGINE-HALT for the first queue that has halted, if no trap is being handled (spec/15 R335). -/
def State.haltTrap (s : State) (c t : Nat) : State :=
  let u := UnitId.seq c t
  let th := s.thread u
  match (s.team c t).haltPending with
  | [] => s
  | q :: rest =>
    if th.frame.active then s else
    let s := s.onTeam c t fun k => { k with haltPending := rest }
    ((s.unarrive u).leave u).takeTrap { dest := u, lanes := 0, cause := 0x38, detail := q, addr := 0, all := false, rpc := th.runpc, fpc := th.pc }
/-- A command that has failed completes, its record `r` being written, in the order of spec/15 R335: its tiles are marked invalid, its
queue halts, and the sequencer is told: in the wait it stands in, or at its next run start; where its stream has ended the team is
torn down. -/
def State.cmdEnded (s : State) (c t q id : Nat) (r : List Dword) : State :=
  let u := UnitId.seq c t
  match ((s.team c t).engq q).cmds.find? fun x => x.id == id with
  | none => s
  | some cmd =>
    let s := s.onCore c fun k =>
      let tm := k.teams.get t .none
      { k with
        tiles := cmd.wrTiles.foldl (fun ts w => match tm.tiles[w]? with
          | some n => ts.put n { ts.get n .zero with valid := false }
          | none => ts) k.tiles
        teams := k.teams.put t
          { (tm.onEngq q fun e => { e with cmds := e.cmds.filter (fun x => x.id != id), halted := true }) with
              errRec := some r, haltPending := tm.haltPending ++ [q] } }
    if (s.team c t).seqExited then s.tearTeam u 0x10 (1 + 0x38 * 256 + q * 65536)
    else if (s.thread u).state == .waiting then s.haltTrap c t else s

/-- Is the requester parked on its record until it is answered? -/
def Requester.parks : Requester → Bool
  | .failing _ _ _ _ => false
  | _ => true
/-- The first waiting record of a context is written if the ring has room; its NOTPRESENT requester can then be answered,
a trap held for it is taken, and a command that failed with it completes (spec/01 R39, R40, spec/15 R335). -/
def State.writeRecord (s : State) (c : Nat) : State :=
  let k := s.ctx c
  match k.pend with
  | [] => s
  | r :: rest =>
    let base := r.desc.fqbase
    let lg := r.desc.fqlog2
    if !s.ringRoom base lg 1 then s else
    let s := s.ringWrite base lg 32 [bytesOfDwords r.words]
    let s := s.onCtx c fun k =>
      { k with
        pend := rest
        outstanding := match r.out with
          | some q => if q.parks then k.outstanding ++ [{ seq := r.seq, req := q }] else k.outstanding
          | none => k.outstanding }
    let s := s.signal r.desc.grove 0
    let s := match r.out with
      | some (.failing k t q id) => s.cmdEnded k t q id r.words
      | _ => s
    match r.deliver with
    | some d => s.takeTrap d
    | none => s
/-- Waiting records written while there is room, `n` at most. -/
def State.flushRecords : Nat → State → Nat → State
  | 0, s, _ => s
  | n + 1, s, c => if (s.ctx c).pend.isEmpty then s else flushRecords n (s.writeRecord c) c

/-- Records of one event that node `nd` met: all enter the series, the trap goes with the last; with no record it is taken at once. -/
def State.report (s : State) (nd c : Nat) (recs : List (List Dword)) (out : Option Requester) (dlv : Option Delivery) :
    State :=
  match recs.reverse with
  | [] => match dlv with
    | some d => s.takeTrap d
    | none => s
  | last :: front =>
    let s := front.reverse.foldl (fun s w => s.pushRecord nd c w out none) s
    let s := s.pushRecord nd c last out dlv
    s.flushRecords ((s.ctx c).pend.length + 1) c

/-- The lowest-numbered lane first. -/
def lanesMask (l : List (Nat × Flt)) : Dword := l.foldl (fun m x => m ||| Dword.bit x.1) 0
/-- Fault records of lanes at one instruction: one for each 64 KiB page (spec/01 R38). -/
def laneRecords (place : Nat) (src : Nat) (fs : List (Nat × Flt)) : List (List Dword) :=
  let fs := fs.filter fun x => decide (x.2.cause < 16)
  let pages := dedup (fs.map fun x => x.2.addr.toNat / 65536)
  pages.filterMap fun pg =>
    let here := fs.filter fun x => x.2.addr.toNat / 65536 == pg
    match here with
    | [] => none
    | (_, f) :: _ => some [f.addr, if src = 0 then lanesMask here else 0, recWord2 place f src 0]

/-- The sequence numbers that the next `n` records of a context take. -/
def State.nextSeqs (s : State) (c n : Nat) : List Nat := (List.range n).map fun i => ((s.ctx c).seq + i) % 2 ^ 32

/-- The fault of a sequencer or a lantern program, which has one path: NOTPRESENT parks it at the instruction
(spec/01 R37), anything else is a trap. -/
def State.faultOther (s : State) (u : UnitId) (f : Flt) : State :=
  let c := s.ctxOf u
  let s := s.met u.node c f
  let t := s.thread u
  if f.cause = 0 then
    let recs := laneRecords (s.place u) (srcCode u) [(0, f)]
    let seqs := s.nextSeqs c recs.length
    let s := (s.commit u).onThread u fun t =>
      { t.restart t.pc with state := .parked, park := some { mask := 0, pc := t.pc, addr := f.addr, seqs := seqs } }
    (s.leave u).report u.node c recs (some (.unit u)) none
  else
    let recs := laneRecords (s.place u) (srcCode u) [(0, f)]
    let d : Delivery := { dest := u, lanes := 0, cause := f.cause, detail := f.detail, addr := f.addr, all := false,
                          rpc := t.runpc, fpc := t.pc }
    let s := (s.onThread u fun t => { t.restart t.pc with state := .parked, runpc := t.runpc }).leave u
    s.report u.node c recs none (some d)

/-- Can lanes `x` of a path leave it for an entry of their own? -/
def State.canSplit (s : State) (u : UnitId) (x : Dword) : Bool :=
  x != s.maskOf u && ((s.groupOf u).paths.free Config.pathSlots).isSome

/-- Does a trap that the unit raises tear its team down: it handles one already, or there is no handler (spec/15 R329)? -/
def State.tears (s : State) (u : UnitId) : Bool := (s.thread u).frame.active || (s.ctx (s.ctxOf u)).trapv == 0

/-- Lanes of a path fault at its instruction (spec/01 R36, spec/15 R326, R327, R329): they are parked, or taken to the trap
handler, apart from the others where an entry is free. Where the trap tears the team down, the path stays whole. -/
def State.faultLanes (s : State) (c g i : Nat) (fs : List (Nat × Flt)) : State :=
  let u := UnitId.path c g i
  let s := fs.foldl (fun s x => s.met c (s.ctxOf u) x.2) s
  let p := s.pathOf u
  let np := fs.filter fun x => x.2.cause = 0
  let tp := fs.filter fun x => x.2.cause != 0
  let x := lanesMask fs
  let can := s.canSplit u x
  let split := can && (tp.isEmpty || !s.tears u)
  let ctx := s.ctxOf u
  let s' := if split then
      s.onGroup c g fun k => (k.onPath i fun q => q.without x).newPath (p.splitOff x)
    else (s.onThread u fun t => { t.restart t.runpc with state := .parked }).leave u
  let h := if split then UnitId.path c g (s.group c g).nextPath else u
  match tp with
  | [] =>
    let recs := laneRecords (s.place h) 0 np
    let seqs := s.nextSeqs ctx recs.length
    let park : Park := { mask := lanesMask np, pc := p.th.pc, addr := (np.head?.map fun x => x.2.addr).getD 0, seqs := seqs }
    (s'.onThread h fun t => { t with park := some park }).report c ctx recs (some (.unit h)) none
  | (_, f) :: _ =>
    let d : Delivery := { dest := h, lanes := lanesMask tp, cause := f.cause, detail := f.detail, addr := f.addr,
                          all := !np.isEmpty || (!can && x != p.mask), rpc := p.th.runpc, fpc := p.th.pc }
    s'.report c ctx (laneRecords (s.place u) 0 fs) none (some d)

/-- Which lanes of a path perform the instruction when lanes `x` fault: the others where an entry is free, else none. -/
def State.performers (s : State) (u : UnitId) (x : Dword) : Dword :=
  if x = 0 then s.maskOf u else if s.canSplit u x then s.maskOf u &&& ~~~x else 0

/-- A fault of the whole unit at its instruction: every lane of a path takes it (spec/15 R326). -/
def State.faultUnit (s : State) (u : UnitId) (f : Flt) : State :=
  match u with
  | .path c g i => s.faultLanes c g i ((s.maskOf u).lanes.map fun l => (l, f))
  | u => s.faultOther u f

/-- A trap that an instruction raises on purpose: the run's writes are committed and the handler resumes after the
instruction (spec/15 R329, R330). -/
def State.trapAfter (s : State) (u : UnitId) (cause detail : Nat) (next : Dword) : State :=
  let pc := (s.thread u).pc
  let lanes := s.maskOf u
  let s := ((s.commit u).onThread u fun t => t.restart t.pc).leave u
  s.takeTrap { dest := u, lanes := lanes, cause := cause, detail := detail, addr := 0, all := false, rpc := next, fpc := pc }

/-- THE RETURN FROM A TRAP (spec/15 R331): fmt restored, no trap active, a new run at `pc`; with ALL the path has again the
lanes it had at the trap. -/
def State.trapReturn (s : State) (u : UnitId) (pc : Dword) (all : Bool) : State :=
  let f := (s.thread u).frame
  let s := s.commit u
  let s := if all && f.all then s.onPathOf u fun p => { p with mask := f.held } else s
  (s.onThread u fun t => { t.restart pc with fmt := f.fmt, frame := { f with active := false } }).leave u

end Sys2Proof.Machine
end

