-- ==== Sys2Proof/Machine/Issue.lean ====
section
/-! DEFINITION. Issuing an instruction: the checks of spec/07 R175 before it performs, and what every instruction does when
it is done. -/
namespace Sys2Proof.Machine

/-- The answer of a step. -/
abbrev Answer := Host.Outcome State Fault Refusal

/-- ILLEGAL-OPERAND, for checks of step 7 too (spec/15 R326). -/
def illegalOperand : Flt := fltD 0x23 0

/-- Is a latch valid (spec/07 R172)? -/
def Run.latchValid (r : Run) (lpipe : Bool) (n : Nat) : Bool :=
  if lpipe then (r.lat.getD n none).isSome else (r.ulat.getD n none).isSome

/-- Steps 3 to 6 of spec/07 R175 for an instruction issued by a unit: the fault of the first check that fails. An
instruction with an extension word at offset 60 of its line fails step 5, and its extension word is not examined
(spec/07 R163). Of several invalid latches the first in the order of Instr.opnds gives DETAIL (notes/assumptions/75.md). -/
def State.preCheck (s : State) (u : UnitId) (i : Instr) : Option Flt :=
  let t := s.thread u
  let cut := i.len == 8 && t.pc.toNat % 64 == 60
  if i.wrongUnit u then some (fltD 0x21 0)
  else if !i.firstOk || (!cut && !i.extOk) then some (fltD 0x22 0)
  else if cut || !i.opndsOk then some illegalOperand
  else match (i.opnds.filterMap Opnd.latch).find? fun l => !t.run.latchValid l.1 l.2 with
    | some l => some (fltD 0x24 l.2)
    | none => none

/-- An instruction issued by the unit whose turn it is: the checks, then its effect `k`. -/
def issue (i : Instr) (s : State) (k : UnitId → State → State) : Answer :=
  match s.turn with
  | none => .fault .noIssuingUnit
  | some u =>
    match s.preCheck u i with
    | some f => .next (s.faultUnit u f)
    | none => .next (k u s)

/-- An L-form instruction with no lane result is done: an invalid latch enters its pipe (spec/09 R206). -/
def State.doneL (s : State) (u : UnitId) (i : Instr) : State := (s.shiftL u none).done u i.len i.endsRun
/-- A G-form instruction with no result is done (spec/08 R183). -/
def State.doneG (s : State) (u : UnitId) (i : Instr) : State := (s.shiftG u none).done u i.len i.endsRun
/-- A G-form instruction with result `v` is done. -/
def State.doneR (s : State) (u : UnitId) (i : Instr) (d : Nat) (k : Bool) (v : Dword) : State :=
  (s.uniResult u d k v).done u i.len i.endsRun
/-- An L-form instruction with a lane result of width `w` is done. -/
def State.doneV (s : State) (u : UnitId) (i : Instr) (d : Nat) (k : Bool) (w : Nat) (vals : Tab Dword) : State :=
  (s.laneResult u d k w vals).done u i.len i.endsRun

/-- A table of one value for each lane of a mask. -/
def laneTab (m : Dword) (f : Nat → Dword) : Tab Dword := { cells := m.lanes.map fun l => (l, f l) }
/-- Flags gathered over lanes. -/
def gather (m : Dword) (f : Nat → BitVec 7) : BitVec 7 := m.lanes.foldl (fun a l => a ||| f l) 0

/-- A lane instruction whose result in each lane of the path is `f` of the state it is issued in, with the flags it sets
(spec/09 R206). -/
def laneOp (i : Instr) (d : Nat) (k : Bool) (w : Nat) (f : State → UnitId → Nat → Dword × BitVec 7) (s : State) : Answer :=
  issue i s fun u s =>
    let m := s.maskOf u
    (s.orFlags u (gather m fun l => (f s u l).2)).doneV u i d k w (laneTab m fun l => (f s u l).1)

/-- A lane instruction that also reads its destination, for which K = 1 is an illegal operand at step 7 (spec/09 R206). -/
def laneAcc (i : Instr) (d : Nat) (k : Bool) (w : Nat) (f : State → UnitId → Nat → Dword × BitVec 7) (s : State) : Answer :=
  issue i s fun u s =>
    if k then s.faultUnit u illegalOperand else
    let m := s.maskOf u
    (s.orFlags u (gather m fun l => (f s u l).2)).doneV u i d false w (laneTab m fun l => (f s u l).1)

/-- A scalar instruction whose 64-bit result is `f` of the state it is issued in (spec/08 R183, R187). -/
def scalarOp (i : Instr) (d : Nat) (k : Bool) (f : State → UnitId → Dword) (s : State) : Answer :=
  issue i s fun u s => s.doneR u i d k (f s u)

/-- A lane register of width `w` as the path sees it, zero-extended. -/
def State.vwide (s : State) (u : UnitId) (l k w : Nat) : Dword :=
  if w = 64 then (s.vget u l (k + 1) ++ s.vget u l k : BitVec 64) else (s.vget u l k).setWidth 64

end Sys2Proof.Machine
end

