-- ==== Sys2Proof/Machine/LaneInt.lean ====
section
/-! DEFINITION. Integer and bitwise lane arithmetic and compares: opcodes 0x01 to 0x16 (spec/09 R207 to R212). -/
namespace Sys2Proof.Machine

/-- An integer operation at width 32 or 64 by type: operands as numbers below 2^w, the result taken modulo 2^w
(spec/09 R207). -/
def atWidth (w : Nat) (x : Nat) : Dword := BitVec.ofNat 64 (x % 2 ^ w)

/-- x and y at the width of type m, put through `op m w x y`. -/
def laneInt2 (i : Instr) (f : LA) (op : Nat → Nat → Nat → Nat → Nat) (s : State) : Answer :=
  let w := typeW f.m
  laneOp i f.d.toNat f.k w (fun s u l =>
    (atWidth w (op f.m.toNat w (s.srcL u f.a.toNat l w).toNat (s.srcL u f.b.toNat l w).toNat), 0)) s
/-- x at the width of type m, put through `op w x`. -/
def laneInt1 (i : Instr) (f : LA) (op : Nat → Nat → Nat) (s : State) : Answer :=
  let w := typeW f.m
  laneOp i f.d.toNat f.k w (fun s u l => (atWidth w (op w (s.srcL u f.a.toNat l w).toNat), 0)) s
/-- x at 32 bits and the immediate, put through `op` (spec/09 R209). -/
def laneImm (i : Instr) (f : LI) (op : Word → BitVec 10 → Word) (s : State) : Answer :=
  laneOp i f.d.toNat f.k 32 (fun s u l =>
    ((op ((s.srcL u f.a.toNat l 32).setWidth 32) f.imm).setWidth 64, 0)) s

/-- Does x come before y, signed for types 0 and 2? -/
def intLt (m w x y : Nat) : Bool := if m % 2 = 0 then decide (signed w x < signed w y) else decide (x < y)
/-- The high w bits of the 2w-bit product, signed for types 0 and 2. -/
def mulHigh (m w x y : Nat) : Nat :=
  if m % 2 = 0 then wrapN w ((signed w x * signed w y) / (2 ^ w : Nat)) else x * y / 2 ^ w
/-- An arithmetic shift right by a natural amount of any size. -/
def sarN (w x n : Nat) : Nat := wrapN w (signed w x / (2 ^ min n w : Nat))
/-- Leading zero bits. -/
def clzN (w x : Nat) : Nat := if x = 0 then w else w - 1 - Nat.log2 x

/-- VADD. -/
def execVadd (f : LA) (s : State) : Answer := laneInt2 (.vadd f) f (fun _ _ x y => x + y) s
/-- VSUB. -/
def execVsub (f : LA) (s : State) : Answer := laneInt2 (.vsub f) f (fun _ w x y => x + 2 ^ w - y) s
/-- VMUL. -/
def execVmul (f : LA) (s : State) : Answer := laneInt2 (.vmul f) f (fun _ _ x y => x * y) s
/-- VMULH. -/
def execVmulh (f : LA) (s : State) : Answer := laneInt2 (.vmulh f) f mulHigh s
/-- VMIN. -/
def execVmin (f : LA) (s : State) : Answer := laneInt2 (.vmin f) f (fun m w x y => if intLt m w y x then y else x) s
/-- VMAX. -/
def execVmax (f : LA) (s : State) : Answer := laneInt2 (.vmax f) f (fun m w x y => if intLt m w x y then y else x) s
/-- VAND. -/
def execVand (f : LA) (s : State) : Answer := laneInt2 (.vand f) f (fun _ _ x y => x &&& y) s
/-- VOR. -/
def execVor (f : LA) (s : State) : Answer := laneInt2 (.vor f) f (fun _ _ x y => x ||| y) s
/-- VXOR. -/
def execVxor (f : LA) (s : State) : Answer := laneInt2 (.vxor f) f (fun _ _ x y => x ^^^ y) s
/-- VSHL. -/
def execVshl (f : LA) (s : State) : Answer :=
  laneInt2 (.vshl f) f (fun _ w x y => if w ≤ y then 0 else x * 2 ^ y) s
/-- VSHR. -/
def execVshr (f : LA) (s : State) : Answer :=
  laneInt2 (.vshr f) f (fun _ w x y => if w ≤ y then 0 else x / 2 ^ y) s
/-- VSAR. -/
def execVsar (f : LA) (s : State) : Answer := laneInt2 (.vsar f) f (fun _ w x y => sarN w x y) s
/-- VCLZ. -/
def execVclz (f : LA) (s : State) : Answer := laneInt1 (.vclz f) f clzN s
/-- VPOPC. -/
def execVpopc (f : LA) (s : State) : Answer := laneInt1 (.vpopc f) f popNat s
/-- VMAD: x × y + V[d] modulo 2^w (spec/09 R208). -/
def execVmad (f : LA) (s : State) : Answer :=
  let w := typeW f.m
  laneAcc (.vmad f) f.d.toNat f.k w (fun s u l =>
    (atWidth w ((s.srcL u f.a.toNat l w).toNat * (s.srcL u f.b.toNat l w).toNat + (s.vwide u l f.d.toNat w).toNat), 0)) s
/-- VADDI. -/
def execVaddi (f : LI) (s : State) : Answer := laneImm (.vaddi f) f (fun x n => x + n.signExtend 32) s
/-- VSHLI. -/
def execVshli (f : LI) (s : State) : Answer := laneImm (.vshli f) f (fun x n => x <<< n.toNat) s
/-- VSHRI. -/
def execVshri (f : LI) (s : State) : Answer := laneImm (.vshri f) f (fun x n => x >>> n.toNat) s
/-- VSARI. -/
def execVsari (f : LI) (s : State) : Answer := laneImm (.vsari f) f (fun x n => x.sshiftRight n.toNat) s
/-- VLI: the literal in every lane (spec/09 R210). -/
def execVli (f : LA) (x : Lit) (s : State) : Answer :=
  laneOp (.vli f x) f.d.toNat f.k 32 (fun _ _ _ => (x.lit.setWidth 64, 0)) s
/-- VSEL: a where bit l of S[m] is 1, else b (spec/09 R211). -/
def execVsel (f : LA) (s : State) : Answer :=
  laneOp (.vsel f) f.d.toNat f.k 32 (fun s u l =>
    (if (s.sget u f.m.toNat).getLsbD l then s.srcL u f.a.toNat l 32 else s.srcL u f.b.toNat l 32, 0)) s

/-- A mask with bit l set where `p l` holds, over lanes of `m`. -/
def maskWhere (m : Dword) (p : Nat → Bool) : Dword :=
  m.lanes.foldl (fun a l => if p l then a ||| Dword.bit l else a) 0

/-- The mask of a group's width. -/
def Group.widthMask (g : Group) : Dword := Dword.low g.width

/-- A compare: a mask into S[SD]; with MERGE lanes outside the path keep their bits (spec/09 R212). -/
def compareOp (i : Instr) (x : CmpX) (p : State → UnitId → Nat → Bool) (s : State) : Answer :=
  issue i s fun u s =>
    let m := s.maskOf u
    let r := maskWhere m (p s u)
    let old := if x.mrg then s.sget u x.sd.toNat &&& ~~~m else 0
    (s.sput u x.sd.toNat ((r ||| old) &&& (s.groupOf u).widthMask)).doneL u i

/-- The conditions of VCMP (spec/09 R212). -/
def condV (cc m w x y : Nat) : Bool :=
  match cc with
  | 0 => x == y
  | 1 => x != y
  | 2 => intLt m w x y
  | 3 => !intLt m w y x
  | 4 => intLt m w y x
  | 5 => !intLt m w x y
  | 6 => x &&& y != 0
  | _ => x &&& y == 0
/-- VCMP. -/
def execVcmp (f : LA) (x : CmpX) (s : State) : Answer :=
  let w := typeW f.m
  compareOp (.vcmp f x) x (fun s u l =>
    condV x.cc.toNat f.m.toNat w (s.srcL u f.a.toNat l w).toNat (s.srcL u f.b.toNat l w).toNat) s

end Sys2Proof.Machine
end

