-- ==== Sys2Proof/Machine/Flags.lean ====
section
/-! DEFINITION. Number formats, rounding and the exception flags (spec/06 R139 to R149): every operation computes an exact
value and rounds it once. -/
namespace Sys2Proof.Machine

/-! The exception flags (spec/06 R140). -/

/-- Invalid operation. -/
def flagNV : BitVec 7 := 1
/-- Exact infinite result from finite operands. -/
def flagDZ : BitVec 7 := 2
/-- Overflow. -/
def flagOF : BitVec 7 := 4
/-- Tiny and inexact, or flushed. -/
def flagUF : BitVec 7 := 8
/-- Inexact. -/
def flagNX : BitVec 7 := 16
/-- Conversion into E4M3 overflowed. -/
def flagF8S : BitVec 7 := 32
/-- Conversion into TX64 saturated. -/
def flagTXS : BitVec 7 := 64

/-! The fmt register (spec/06 R139). -/

/-- RM of a fmt value: 0 nearest even, 1 toward zero, 2 toward +∞, 3 toward −∞. -/
def fmtRM (f : Word) : Nat := fld f 0 2
/-- DAZ of a fmt value. -/
def fmtDAZ (f : Word) : Bool := f.getLsbD 2
/-- FTZ of a fmt value. -/
def fmtFTZ (f : Word) : Bool := f.getLsbD 3
/-- F8NAN of a fmt value. -/
def fmtF8NAN (f : Word) : Bool := f.getLsbD 4

/-! Exact values. -/

/-- A binary floating-point format: precision in bits, and the exponent of its smallest subnormal (spec/06 R142). -/
structure FloatFmt where
  prec : Nat
  low : Int
  deriving DecidableEq, Repr

/-- FP32. -/
def fp32 : FloatFmt := { prec := 24, low := -149 }
/-- BF16. -/
def bf16 : FloatFmt := { prec := 8, low := -133 }
/-- E4M3 with unbounded exponent (spec/06 R146). -/
def e4m3 : FloatFmt := { prec := 4, low := -9 }

/-- An exact real: ±mag × 2^exp, or, with `more`, a real whose magnitude lies strictly between mag and mag + 1 units of
2^exp. Where `more` holds, mag has more bits than any format keeps. -/
structure Exact where
  neg : Bool
  mag : Nat
  exp : Int
  more : Bool
  deriving DecidableEq, Repr

/-- A value of a floating-point format. -/
inductive FloatVal where
  | nan
  | inf (neg : Bool)
  | fin (x : Exact)
  deriving DecidableEq, Repr

/-- An integer times a power of two. -/
def Exact.ofInt (i : Int) (e : Int) : Exact := { neg := decide (i < 0), mag := i.natAbs, exp := e, more := false }
/-- ±0. -/
def Exact.zero (neg : Bool) : Exact := { neg := neg, mag := 0, exp := 0, more := false }
/-- Is the value zero? -/
def Exact.isZero (x : Exact) : Bool := x.mag == 0 && !x.more
/-- The value as an integer number of units of 2^e, where e is not above its exponent. -/
def Exact.units (x : Exact) (e : Int) : Int :=
  let m : Int := (x.mag * 2 ^ (x.exp - e).toNat : Nat)
  if x.neg then -m else m

/-- Rounds mag × 2^exp (and a bit more) to whole units of 2^(exp + k): the rounded number of units, and whether it
differs from the exact value (spec/06 R143). -/
def roundUnits (rm : Nat) (neg : Bool) (mag : Nat) (more : Bool) (k : Nat) : Nat × Bool :=
  let q := mag / 2 ^ k
  let r := mag % 2 ^ k
  let inexact := r != 0 || more
  let above := decide (2 ^ k < 2 * r) || (decide (2 ^ k = 2 * r) && more)
  let tie := decide (2 ^ k = 2 * r) && !more
  let up := match rm with
    | 0 => above || (tie && q % 2 == 1)
    | 1 => false
    | 2 => inexact && !neg
    | _ => inexact && neg
  (if up then q + 1 else q, inexact)

/-- Rounds an exact value to the grid of a format with unbounded exponent: a number of units, the exponent of the unit,
and whether it is inexact. -/
def roundGrid (f : FloatFmt) (rm : Nat) (x : Exact) : Nat × Int × Bool :=
  if x.mag = 0 then
    let r := roundUnits rm x.neg 0 x.more 1
    (r.1, f.low, r.2)
  else
    let top : Int := (Nat.log2 x.mag : Nat) + x.exp
    let unit : Int := max f.low (top - f.prec + 1)
    if unit ≤ x.exp then (x.mag * 2 ^ (x.exp - unit).toNat, unit, x.more)
    else
      let r := roundUnits rm x.neg x.mag x.more (unit - x.exp).toNat
      (r.1, unit, r.2)

/-- The bit pattern of a magnitude: units on the grid (spec/06 R142). -/
def FloatFmt.code (f : FloatFmt) (m : Nat) (unit : Int) : Nat := (unit - f.low).toNat * 2 ^ (f.prec - 1) + m
/-- The pattern of +∞. -/
def FloatFmt.infCode (f : FloatFmt) : Nat := 255 * 2 ^ (f.prec - 1)
/-- The sign bit of a format of eight exponent bits. -/
def FloatFmt.sign (f : FloatFmt) (neg : Bool) : Nat := if neg then 2 ^ (f.prec + 7) else 0
/-- The canonical NaN (spec/06 R142). -/
def FloatFmt.nanCode (f : FloatFmt) : Nat := f.infCode + 2 ^ (f.prec - 2)

/-- rnd(x, F, m) with FTZ: the pattern and the flags (spec/06 R143). -/
def rndExact (f : FloatFmt) (rm : Nat) (ftz : Bool) (x : Exact) : Nat × BitVec 7 :=
  let s := f.sign x.neg
  if x.isZero then (s, 0) else
  let r := roundGrid f rm x
  let code := f.code r.1 r.2.1
  let nx := if r.2.2 then flagNX else 0
  if f.infCode ≤ code then
    let toInf := rm == 0 || (rm == 2 && !x.neg) || (rm == 3 && x.neg)
    (s + (if toInf then f.infCode else f.infCode - 1), flagOF ||| flagNX)
  else if code < 2 ^ (f.prec - 1) then
    if ftz then (s, flagUF ||| flagNX)
    else (s + code, nx ||| (if r.2.2 then flagUF else 0))
  else (s + code, nx)

/-- A value rounded into a format; NaN gives the canonical NaN (spec/06 R143, R144). -/
def rnd (f : FloatFmt) (rm : Nat) (ftz : Bool) : FloatVal → Nat × BitVec 7
  | .nan => (f.nanCode, 0)
  | .inf neg => (f.sign neg + f.infCode, 0)
  | .fin x => rndExact f rm ftz x

/-- The value of a pattern of a format of eight exponent bits; with DAZ a subnormal is a zero of its sign
(spec/06 R139, R142). -/
def FloatFmt.read (f : FloatFmt) (daz : Bool) (v : Nat) : FloatVal :=
  let frac := v % 2 ^ (f.prec - 1)
  let e := v / 2 ^ (f.prec - 1) % 256
  let neg := v / 2 ^ (f.prec + 7) % 2 == 1
  if e = 255 then if frac = 0 then .inf neg else .nan
  else if e = 0 then
    .fin { neg := neg, mag := if daz then 0 else frac, exp := f.low, more := false }
  else .fin { neg := neg, mag := 2 ^ (f.prec - 1) + frac, exp := f.low + (e - 1 : Nat), more := false }

/-- The value of an E4M3 byte (spec/06 R145). -/
def readE4m3 (v : Nat) : FloatVal :=
  let e := v / 8 % 16
  let m := v % 8
  let neg := v / 128 % 2 == 1
  if e = 15 ∧ m = 7 then .nan
  else if e = 0 then .fin { neg := neg, mag := m, exp := -9, more := false }
  else .fin { neg := neg, mag := 8 + m, exp := (e : Int) - 10, more := false }

/-! Exact operations on values: the result, and NV where the operation is invalid (spec/06 R144). -/

/-- The exact sum of two finite values; an exact zero takes the sign that spec/06 R143 gives. -/
def Exact.add (rm : Nat) (x y : Exact) : Exact :=
  let e := min x.exp y.exp
  let s := x.units e + y.units e
  if s = 0 then
    .zero (if x.isZero && y.isZero && x.neg == y.neg then x.neg else rm == 3)
  else .ofInt s e
/-- The exact product of two finite values. -/
def Exact.mul (x y : Exact) : Exact :=
  { neg := x.neg != y.neg, mag := x.mag * y.mag, exp := x.exp + y.exp, more := false }

/-- x + y. -/
def FloatVal.add (rm : Nat) : FloatVal → FloatVal → FloatVal × BitVec 7
  | .nan, _ => (.nan, 0)
  | _, .nan => (.nan, 0)
  | .inf a, .inf b => if a == b then (.inf a, 0) else (.nan, flagNV)
  | .inf a, .fin _ => (.inf a, 0)
  | .fin _, .inf b => (.inf b, 0)
  | .fin x, .fin y => (.fin (x.add rm y), 0)
/-- x × y. -/
def FloatVal.mul : FloatVal → FloatVal → FloatVal × BitVec 7
  | .nan, _ => (.nan, 0)
  | _, .nan => (.nan, 0)
  | .inf a, .inf b => (.inf (a != b), 0)
  | .inf a, .fin y => if y.isZero then (.nan, flagNV) else (.inf (a != y.neg), 0)
  | .fin x, .inf b => if x.isZero then (.nan, flagNV) else (.inf (x.neg != b), 0)
  | .fin x, .fin y => (.fin (x.mul y), 0)
/-- x × y + z, the NaN rule first (spec/06 R144). -/
def FloatVal.fma (rm : Nat) (x y z : FloatVal) : FloatVal × BitVec 7 :=
  if z = .nan then (.nan, 0) else
  let p := x.mul y
  if p.1 = .nan then p else p.1.add rm z
/-- A value with the other sign. -/
def FloatVal.negate : FloatVal → FloatVal
  | .nan => .nan
  | .inf a => .inf (!a)
  | .fin x => .fin { x with neg := !x.neg }
/-- The magnitude of a value. -/
def FloatVal.abs : FloatVal → FloatVal
  | .nan => .nan
  | .inf _ => .inf false
  | .fin x => .fin { x with neg := false }
/-- Is the value an infinity or NaN? -/
def FloatVal.special : FloatVal → Bool
  | .fin _ => false
  | _ => true
/-- x / y for values rounded to nearest by an engine: 0/0 and ∞/∞ are invalid, x/0 is an infinity. The quotient keeps 64
bits and a mark for the rest. -/
def FloatVal.div : FloatVal → FloatVal → FloatVal
  | .nan, _ => .nan
  | _, .nan => .nan
  | .inf _, .inf _ => .nan
  | .inf a, .fin y => .inf (a != y.neg)
  | .fin x, .inf b => .fin (.zero (x.neg != b))
  | .fin x, .fin y =>
    if y.mag = 0 then if x.mag = 0 then .nan else .inf (x.neg != y.neg)
    else
      let k := 64 + Nat.log2 y.mag
      let n := x.mag * 2 ^ k
      .fin { neg := x.neg != y.neg, mag := n / y.mag, exp := x.exp - y.exp - k, more := n % y.mag != 0 }

/-- Three-way order of two values that are not NaN, zeros of either sign equal: less, equal, greater as −1, 0, 1. -/
def FloatVal.cmp : FloatVal → FloatVal → Int
  | .inf a, .inf b => if a == b then 0 else if a then -1 else 1
  | .inf a, _ => if a then -1 else 1
  | _, .inf b => if b then 1 else -1
  | .fin x, .fin y =>
    let e := min x.exp y.exp
    let d := x.units e - y.units e
    if d < 0 then -1 else if d = 0 then 0 else 1
  | _, _ => 0
/-- The sign of a value. -/
def FloatVal.neg : FloatVal → Bool
  | .nan => false
  | .inf a => a
  | .fin x => x.neg
/-- The smaller under spec/09 R214: −0 below +0. -/
def FloatVal.below (x y : FloatVal) : Bool := decide (x.cmp y < 0) || (x.cmp y == 0 && x.neg && !y.neg)

/-! Conversions. -/

/-- e4m3_q(x, m, n): the byte and the flags (spec/06 R146). -/
def e4m3q (rm : Nat) (nan : Bool) : FloatVal → Nat × BitVec 7
  | .nan => (0x7F, 0)
  | .inf neg => (if nan then 0x7F else (if neg then 0xFE else 0x7E), flagF8S ||| flagNX)
  | .fin x =>
    let s := if x.neg then 0x80 else 0
    if x.isZero then (s, 0) else
    let r := roundGrid e4m3 rm x
    let code := e4m3.code r.1 r.2.1
    if 0x7E < code then (if nan then 0x7F else s + 0x7E, flagF8S ||| flagNX)
    else (s + code, if r.2.2 then flagNX else 0)

/-- A finite value rounded to a whole number of units of 2^e: the integer, and whether it is inexact. -/
def Exact.toUnits (rm : Nat) (x : Exact) (e : Int) : Int × Bool :=
  if e ≤ x.exp then (x.units e, x.more)
  else
    let r := roundUnits rm x.neg x.mag x.more (e - x.exp).toNat
    (if x.neg then -(r.1 : Int) else (r.1 : Int), r.2)

/-- sat_tx(x): the integer n and the flags (spec/06 R149). -/
def satTx : FloatVal → Int × BitVec 7
  | .nan => (0, flagNV)
  | .inf neg => (if neg then -(2 ^ 63) else 2 ^ 63 - 1, flagTXS)
  | .fin x =>
    let n := (x.toUnits 0 (-32)).1
    if 2 ^ 63 ≤ n then (2 ^ 63 - 1, flagTXS)
    else if n ≤ -(2 ^ 63) then (-(2 ^ 63), flagTXS)
    else (n, 0)

/-- A value converted to an integer between lo and hi (spec/09 R216). -/
def toInteger (rm : Nat) (lo hi : Int) : FloatVal → Int × BitVec 7
  | .nan => (0, flagNV)
  | .inf neg => (if neg then lo else hi, flagNV)
  | .fin x =>
    let r := x.toUnits rm 0
    if r.1 < lo then (lo, flagNV) else if hi < r.1 then (hi, flagNV)
    else (r.1, if r.2 then flagNX else 0)

/-! Engine arithmetic: FP32, nearest even, subnormals kept, no flags (spec/06 R141). -/

/-- The value of an FP32 word, subnormals kept. -/
def val32 (w : Word) : FloatVal := fp32.read false w.toNat
/-- RN into FP32. -/
def rn32 (x : FloatVal) : Word := BitVec.ofNat 32 (rnd fp32 0 false x).1
/-- RN(x + y). -/
def add32 (x y : Word) : Word := rn32 ((val32 x).add 0 (val32 y)).1
/-- RN(x − y). -/
def sub32 (x y : Word) : Word := rn32 ((val32 x).add 0 (val32 y).negate).1
/-- RN(x × y). -/
def mul32 (x y : Word) : Word := rn32 ((val32 x).mul (val32 y)).1
/-- RN(x / y). -/
def div32 (x y : Word) : Word := rn32 ((val32 x).div (val32 y))
/-- A BF16 pattern widened to FP32. -/
def widen (v : Nat) : Word := BitVec.ofNat 32 (v % 65536 * 65536)
/-- RN into BF16 of an FP32 word. -/
def toBf16 (w : Word) : Nat := (rnd bf16 0 false (val32 w)).1
/-- The FP32 word of an integer times a power of two. -/
def rnInt (i : Int) (e : Int) : Word := rn32 (.fin (.ofInt i e))
/-- RN(q × s) of an E4M3 byte and an FP32 scale. -/
def dequant (q : Nat) (s : Word) : Word := rn32 ((readE4m3 q).mul (val32 s)).1

end Sys2Proof.Machine
end

