-- ==== Sys2Proof/Machine/Special.lean ====
section
/-! DEFINITION. The correctly rounded special functions (spec/06 R160, R161): each is computed in fixed point with 512
fraction bits, far past what any operand of FP32 or BF16 needs to be rounded correctly (notes/assumptions/14.md). -/
namespace Sys2Proof.Machine

/-- Fraction bits of the fixed-point numbers of this file. -/
def fixBits : Nat := 512

/-- The integer square root, one bit at a time from bit `n` down. -/
def isqrtFrom : Nat → Nat → Nat → Nat
  | 0, _, r => r
  | n + 1, v, r => if (r + 2 ^ n) * (r + 2 ^ n) ≤ v then isqrtFrom n v (r + 2 ^ n) else isqrtFrom n v r
/-- The integer square root. -/
def isqrt (v : Nat) : Nat := isqrtFrom (Nat.log2 v / 2 + 1) v 0

/-- Σ t z2^i / (2 (k + i) + 1) for `n` terms, t and z2 in fixed point: a hyperbolic arc tangent. -/
def atanhSum : Nat → Nat → Nat → Nat → Nat
  | 0, _, _, _ => 0
  | n + 1, k, t, z2 => t / (2 * k + 1) + atanhSum n (k + 1) (t * z2 / 2 ^ fixBits) z2
/-- ln(a / b) in fixed point for b ≤ a < 2 b. -/
def lnFix (a b : Nat) : Nat :=
  let z := (a - b) * 2 ^ fixBits / (a + b)
  2 * atanhSum 180 0 z (z * z / 2 ^ fixBits)
/-- ln 2 in fixed point. -/
def ln2Fix : Nat :=
  let z := 2 ^ fixBits / 3
  2 * atanhSum 180 0 z (z * z / 2 ^ fixBits)
/-- Σ t y^i / (k (k + 1) … ): the exponential series from its term `k` on. -/
def expSum : Nat → Nat → Nat → Nat → Nat
  | 0, _, _, _ => 0
  | n + 1, k, t, y => t + expSum n (k + 1) (t * y / 2 ^ fixBits / (k + 1)) y
/-- arc tan(1 / m) as an alternating sum of `n` terms in fixed point, t = 1 / m^(2k + 1). -/
def atanSum : Nat → Nat → Nat → Nat → Int
  | 0, _, _, _ => 0
  | n + 1, k, t, m => ((t / (2 * k + 1) : Nat) : Int) - atanSum n (k + 1) (t / (m * m)) m
/-- π in fixed point, by Machin's formula. -/
def piFix : Nat := (16 * atanSum 120 0 (2 ^ fixBits / 5) 5 - 4 * atanSum 40 0 (2 ^ fixBits / 239) 239).toNat
/-- The alternating series of sine (t = y, k = 1) and cosine (t = 1, k = 0) in fixed point: y2 = y². -/
def trigSum : Nat → Nat → Nat → Nat → Int
  | 0, _, _, _ => 0
  | n + 1, k, t, y2 => (t : Int) - trigSum n (k + 2) (t * y2 / 2 ^ fixBits / ((k + 1) * (k + 2))) y2

/-- An inexact magnitude in fixed point as an exact value marked as having more. -/
def fixed (neg : Bool) (m : Nat) (e : Int) : Exact := { neg := neg, mag := m, exp := e - fixBits, more := true }

/-- 1 / x. -/
def fnRcp : FloatVal → FloatVal × BitVec 7
  | .nan => (.nan, 0)
  | .inf a => (.fin (.zero a), 0)
  | .fin x => if x.mag = 0 then (.inf x.neg, flagDZ) else (FloatVal.div (.fin (.ofInt 1 0)) (.fin x), 0)
/-- √x. -/
def fnSqrt : FloatVal → FloatVal × BitVec 7
  | .nan => (.nan, 0)
  | .inf a => if a then (.nan, flagNV) else (.inf false, 0)
  | .fin x =>
    if x.mag = 0 then (.fin x, 0) else if x.neg then (.nan, flagNV) else
    let par := (x.exp % 2).toNat
    let m := x.mag * 2 ^ (80 + par)
    let r := isqrt m
    (.fin { neg := false, mag := r, exp := (x.exp - par) / 2 - 40, more := r * r != m }, 0)
/-- 1 / √x. -/
def fnRsq : FloatVal → FloatVal × BitVec 7
  | .nan => (.nan, 0)
  | .inf a => if a then (.nan, flagNV) else (.fin (.zero false), 0)
  | .fin x =>
    if x.mag = 0 then (.inf x.neg, flagDZ) else if x.neg then (.nan, flagNV) else
    let par := (x.exp % 2).toNat
    let m := x.mag * 2 ^ par
    let k := 64 + Nat.log2 m
    let r := isqrt (2 ^ (2 * k) / m)
    (.fin { neg := false, mag := r, exp := -((x.exp - par) / 2) - k, more := r * r * m != 2 ^ (2 * k) }, 0)
/-- 2^x. -/
def fnExp2 : FloatVal → FloatVal × BitVec 7
  | .nan => (.nan, 0)
  | .inf a => (if a then .fin (.zero false) else .inf false, 0)
  | .fin x =>
    if 0 ≤ x.exp ∧ 2000 ≤ x.exp then
      (if x.mag = 0 then .fin (.ofInt 1 0)
       else if x.neg then .fin { neg := false, mag := 1, exp := -400, more := true } else .fin (.ofInt 1 100000), 0)
    else
    let v := x.units (min x.exp (-(fixBits : Int)))
    let one : Int := 2 ^ (-(min x.exp (-(fixBits : Int)))).toNat
    let n := v / one
    let f := (v % one).toNat
    if n < -1000 then (.fin { neg := false, mag := 1, exp := -400, more := true }, 0)
    else if f = 0 then (.fin { neg := false, mag := 1, exp := n, more := false }, 0)
    else (.fin (fixed false (expSum 120 0 (2 ^ fixBits) (f * ln2Fix / 2 ^ fixBits)) n), 0)
/-- log2 x. -/
def fnLog2 : FloatVal → FloatVal × BitVec 7
  | .nan => (.nan, 0)
  | .inf a => if a then (.nan, flagNV) else (.inf false, 0)
  | .fin x =>
    if x.mag = 0 then (.inf true, flagDZ) else if x.neg then (.nan, flagNV) else
    let top := Nat.log2 x.mag
    let n : Int := top + x.exp
    if x.mag = 2 ^ top then (.fin (if n = 0 then .zero false else .ofInt n 0), 0)
    else
      let v : Int := n * (2 ^ fixBits : Nat) + (lnFix x.mag (2 ^ top) * 2 ^ fixBits / ln2Fix : Nat)
      (.fin (fixed (decide (v < 0)) v.natAbs 0), 0)
/-- The quadrant of a finite operand in turns, and the exact fraction of a quarter turn beyond it as numerator and
number of fraction bits. -/
def quarterOf (x : Exact) : Nat × Nat × Nat :=
  let d := (-x.exp).toNat
  let num := if 0 ≤ x.exp then 0 else x.mag % 2 ^ d
  (4 * num / 2 ^ d, 4 * num % 2 ^ d, d)
/-- sin (π/2 · r / 2^d) and cos of the same, 0 < r < 2^d, as exact values. -/
def quarterTrig (sine : Bool) (neg : Bool) (r d : Nat) : Exact :=
  let y := piFix * r / 2 ^ (d + 1)
  let y2 := y * y / 2 ^ fixBits
  fixed neg (if sine then trigSum 75 1 y y2 else trigSum 75 0 (2 ^ fixBits) y2).natAbs 0
/-- sin 2πx. -/
def fnSin : FloatVal → FloatVal × BitVec 7
  | .nan => (.nan, 0)
  | .inf _ => (.nan, flagNV)
  | .fin x =>
    let (q, r, d) := quarterOf x
    let neg := x.neg != decide (2 ≤ q)
    if r = 0 then (.fin (if q % 2 = 0 then .zero x.neg else .ofInt (if neg then -1 else 1) 0), 0)
    else (.fin (quarterTrig (q % 2 == 0) neg r d), 0)
/-- cos 2πx. -/
def fnCos : FloatVal → FloatVal × BitVec 7
  | .nan => (.nan, 0)
  | .inf _ => (.nan, flagNV)
  | .fin x =>
    let (q, r, d) := quarterOf x
    let neg := q == 1 || q == 2
    if r = 0 then (.fin (if q % 2 = 1 then .zero false else .ofInt (if q = 2 then -1 else 1) 0), 0)
    else (.fin (quarterTrig (q % 2 == 1) neg r d), 0)

/-- E = RN(−ln(1 − k × 2^-24)) in FP32 (spec/06 R161). -/
def freeFlight (k : Nat) : Word :=
  if k = 0 then 0 else
  let m := 2 ^ 24 - k
  let top := Nat.log2 m
  -- 2^24 / m = 2^n × (2^(top + 1) / m) with 1 < 2^(top + 1) / m ≤ 2
  if m = 2 ^ top then rn32 (.fin (fixed false ((24 - top) * ln2Fix) 0))
  else rn32 (.fin (fixed false ((23 - top) * ln2Fix + lnFix (2 ^ (top + 1)) m) 0))

end Sys2Proof.Machine
end

