-- ==== Sys2Proof/Machine/LaneFloat.lean ====
section
/-! DEFINITION. Floating-point lane arithmetic, conversions and special functions: opcodes 0x18 to 0x26 (spec/09 R212 to
R217). -/
namespace Sys2Proof.Machine

/-- The format of type 4 (.f32) or 5 (.bf16). -/
def floatOf (m : Nat) : FloatFmt := if m = 5 then bf16 else fp32
/-- The value of a floating-point lane operand, read under DAZ (spec/09 R205, R213). -/
def readFloat (fmt : Word) (m : Nat) (v : Dword) : FloatVal := (floatOf m).read (fmtDAZ fmt) (v.toNat % 2 ^ 32)
/-- A floating-point result rounded under the path's fmt, with its flags. -/
def finish (fmt : Word) (m : Nat) (r : FloatVal × BitVec 7) : Dword × BitVec 7 :=
  let q := rnd (floatOf m) (fmtRM fmt) (fmtFTZ fmt) r.1
  (BitVec.ofNat 64 q.1, r.2 ||| q.2)

/-- The path's fmt. -/
def State.fmtOf (s : State) (u : UnitId) : Word := (s.thread u).fmt

/-- A two-operand floating-point instruction (spec/09 R213). -/
def laneFloat2 (i : Instr) (f : LA) (op : Nat → FloatVal → FloatVal → FloatVal × BitVec 7) (s : State) : Answer :=
  laneOp i f.d.toNat f.k 32 (fun s u l =>
    let fmt := s.fmtOf u
    let m := f.m.toNat
    finish fmt m (op (fmtRM fmt) (readFloat fmt m (s.srcL u f.a.toNat l 32)) (readFloat fmt m (s.srcL u f.b.toNat l 32)))) s
/-- A special function (spec/09 R217). -/
def laneFloat1 (i : Instr) (f : LA) (op : FloatVal → FloatVal × BitVec 7) (s : State) : Answer :=
  laneOp i f.d.toNat f.k 32 (fun s u l =>
    let fmt := s.fmtOf u
    finish fmt f.m.toNat (op (readFloat fmt f.m.toNat (s.srcL u f.a.toNat l 32)))) s

/-- FADD. -/
def execFadd (f : LA) (s : State) : Answer := laneFloat2 (.fadd f) f FloatVal.add s
/-- FMUL. -/
def execFmul (f : LA) (s : State) : Answer := laneFloat2 (.fmul f) f (fun _ => FloatVal.mul) s
/-- FFMA: x × y + V[d], one rounding. -/
def execFfma (f : LA) (s : State) : Answer :=
  laneAcc (.ffma f) f.d.toNat f.k 32 (fun s u l =>
    let fmt := s.fmtOf u
    let m := f.m.toNat
    finish fmt m (FloatVal.fma (fmtRM fmt) (readFloat fmt m (s.srcL u f.a.toNat l 32))
      (readFloat fmt m (s.srcL u f.b.toNat l 32)) (readFloat fmt m (s.vwide u l f.d.toNat 32)))) s

/-- A floating-point pattern after DAZ: a subnormal becomes a zero of its sign. -/
def afterDaz (f : FloatFmt) (daz : Bool) (v : Nat) : Nat :=
  if daz && v / 2 ^ (f.prec - 1) % 256 == 0 then v / 2 ^ (f.prec + 7) % 2 * 2 ^ (f.prec + 7) else v % 2 ^ (f.prec + 8)
/-- FMIN and FMAX of two patterns: one operand unchanged after DAZ (spec/09 R214). -/
def pickFloat (f : FloatFmt) (daz less : Bool) (x y : Nat) : Nat :=
  let p := f.read daz x
  let q := f.read daz y
  if p = .nan ∧ q = .nan then f.nanCode
  else if p = .nan then afterDaz f daz y
  else if q = .nan then afterDaz f daz x
  else if (if less then q.below p else p.below q) then afterDaz f daz y else afterDaz f daz x
/-- FMIN and FMAX by lanes. -/
def laneMinMax (i : Instr) (f : LA) (less : Bool) (s : State) : Answer :=
  laneOp i f.d.toNat f.k 32 (fun s u l =>
    let daz := fmtDAZ (s.fmtOf u)
    (BitVec.ofNat 64 (pickFloat (floatOf f.m.toNat) daz less (s.srcL u f.a.toNat l 32).toNat
      (s.srcL u f.b.toNat l 32).toNat), 0)) s
/-- FMIN. -/
def execFmin (f : LA) (s : State) : Answer := laneMinMax (.fmin f) f true s
/-- FMAX. -/
def execFmax (f : LA) (s : State) : Answer := laneMinMax (.fmax f) f false s

/-- The conditions of FCMP (spec/09 R212). -/
def condF (cc : Nat) (x y : FloatVal) : Bool :=
  let un := x == .nan || y == .nan
  match cc with
  | 0 => !un && x.cmp y == 0
  | 1 => un || x.cmp y != 0
  | 2 => !un && decide (x.cmp y < 0)
  | 3 => !un && decide (x.cmp y ≤ 0)
  | 4 => !un && decide (0 < x.cmp y)
  | 5 => !un && decide (0 ≤ x.cmp y)
  | 6 => un
  | _ => !un
/-- FCMP. -/
def execFcmp (f : LA) (x : CmpX) (s : State) : Answer :=
  compareOp (.fcmp f x) x (fun s u l =>
    let fmt := s.fmtOf u
    condF x.cc.toNat (readFloat fmt f.m.toNat (s.srcL u f.a.toNat l 32))
      (readFloat fmt f.m.toNat (s.srcL u f.b.toNat l 32))) s

/-- One half of BFMA2 (spec/09 R215). -/
def bfmaHalf (fmt : Word) (h : Nat) (x y z : Dword) : Dword × BitVec 7 :=
  let part (v : Dword) : FloatVal := bf16.read (fmtDAZ fmt) (v.toNat / 2 ^ (16 * h) % 65536)
  finish fmt 5 (FloatVal.fma (fmtRM fmt) (part x) (part y) (part z))
/-- BFMA2: a fused multiply-add in each half. -/
def execBfma2 (f : LA) (s : State) : Answer :=
  laneAcc (.bfma2 f) f.d.toNat f.k 32 (fun s u l =>
    let fmt := s.fmtOf u
    let x := s.srcL u f.a.toNat l 32
    let y := s.srcL u f.b.toNat l 32
    let z := s.vwide u l f.d.toNat 32
    let lo := bfmaHalf fmt 0 x y z
    let hi := bfmaHalf fmt 1 x y z
    (lo.1 + hi.1 <<< 16, lo.2 ||| hi.2)) s

/-- The exact value of a lane operand of a type (spec/09 R216). -/
def valueOf (ty : Nat) (daz : Bool) (v : Dword) : FloatVal :=
  match ty with
  | 0 => .fin (.ofInt (signed 32 v.toNat) 0)
  | 1 => .fin (.ofInt (v.toNat % 2 ^ 32 : Nat) 0)
  | 2 => .fin (.ofInt (signed 64 v.toNat) 0)
  | 3 => .fin (.ofInt v.toNat 0)
  | 4 => fp32.read daz (v.toNat % 2 ^ 32)
  | 5 => bf16.read daz (v.toNat % 2 ^ 16)
  | 6 => readE4m3 (v.toNat % 256)
  | _ => .fin (.ofInt (signed 64 v.toNat) (-32))
/-- An integer result as 64 bits, of which the type's width is kept. -/
def intResult (w : Nat) (r : Int × BitVec 7) : Dword × BitVec 7 := (BitVec.ofNat 64 (wrapN w r.1), r.2)
/-- The result of CVT from type `src` into type `dst` (spec/09 R216). -/
def convert (fmt : Word) (dst src : Nat) (v : Dword) : Dword × BitVec 7 :=
  let rm := fmtRM fmt
  match dst with
  | 0 => intResult 32 (toInteger rm (-(2 ^ 31)) (2 ^ 31 - 1) (valueOf src false v))
  | 1 => intResult 32 (toInteger rm 0 (2 ^ 32 - 1) (valueOf src false v))
  | 2 => intResult 64 (toInteger rm (-(2 ^ 63)) (2 ^ 63 - 1) (valueOf src false v))
  | 3 => intResult 64 (toInteger rm 0 (2 ^ 64 - 1) (valueOf src false v))
  | 4 => finish fmt 4 (valueOf src (fmtDAZ fmt) v, 0)
  | 5 => finish fmt 5 (valueOf src (fmtDAZ fmt) v, 0)
  | 6 =>
    let q := e4m3q rm (fmtF8NAN fmt) (valueOf src false v)
    (BitVec.ofNat 64 q.1, q.2)
  | _ => intResult 64 (satTx (valueOf src false v))
/-- CVT. -/
def execCvt (f : LA) (s : State) : Answer :=
  laneOp (.cvt f) f.d.toNat f.k (typeW f.m) (fun s u l =>
    convert (s.fmtOf u) f.m.toNat f.b.toNat (s.srcL u f.a.toNat l (typeW (f.b.setWidth 3)))) s

/-- FRCP. -/
def execFrcp (f : LA) (s : State) : Answer := laneFloat1 (.frcp f) f fnRcp s
/-- FRSQ. -/
def execFrsq (f : LA) (s : State) : Answer := laneFloat1 (.frsq f) f fnRsq s
/-- FSQRT. -/
def execFsqrt (f : LA) (s : State) : Answer := laneFloat1 (.fsqrt f) f fnSqrt s
/-- FEXP2. -/
def execFexp2 (f : LA) (s : State) : Answer := laneFloat1 (.fexp2 f) f fnExp2 s
/-- FLOG2. -/
def execFlog2 (f : LA) (s : State) : Answer := laneFloat1 (.flog2 f) f fnLog2 s
/-- SINT. -/
def execSint (f : LA) (s : State) : Answer := laneFloat1 (.sint f) f fnSin s
/-- COST. -/
def execCost (f : LA) (s : State) : Answer := laneFloat1 (.cost f) f fnCos s

end Sys2Proof.Machine
end

