-- ==== Sys2Proof/Machine/CrossLane.lean ====
section
/-! DEFINITION. Moving values between lanes, convergent instructions and messages between groups: opcodes 0x28 to 0x31
(spec/09 R218 to R225). -/
namespace Sys2Proof.Machine

/-- The path of a group that holds lane `j`. -/
def Group.holder (g : Group) (j : Nat) : Option Path := ((g.paths.cells.find? fun c => c.2.mask.getLsbD j).map (·.2))
/-- The window base of lane `j`: its path's, or the one under which it last committed (notes/assumptions/15.md). -/
def Group.laneWb (g : Group) (j : Nat) : Nat :=
  match g.holder j with
  | some p => p.wb
  | .none => g.lwb.get j 0
/-- vr of source lane `j` as path `u` reads it (spec/09 R218). -/
def State.otherLane (s : State) (u : UnitId) (j r : Nat) : Word :=
  let g := s.groupOf u
  if !g.launched.getLsbD j then 0
  else if (s.maskOf u).getLsbD j then s.vget u j r
  else g.vreg (g.laneWb j) j r
/-- The 32-bit source `a` of lane `j`: a register of that lane, or a broadcast. -/
def State.fromLane (s : State) (u : UnitId) (a j : Nat) : Dword :=
  if a < 64 then (s.otherLane u j a).setWidth 64 else s.srcL u a j 32

/-- A move between lanes; a latch code in `a`, or a `b` that is not as `bOk` says, is an illegal operand at step 7
(spec/09 R218, R219). -/
def moveOp (i : Instr) (f : LA) (bOk : Bool) (src : State → UnitId → Nat → Nat) (s : State) : Answer :=
  issue i s fun u s =>
    let a := f.a.toNat
    if (64 ≤ a ∧ a ≤ 67) ∨ !bOk then s.faultUnit u illegalOperand else
    s.doneV u i f.d.toNat f.k 32 (laneTab (s.maskOf u) fun l => s.fromLane u a (src s u l))

/-- The width of the unit's group, at least 1. -/
def State.widthOf (s : State) (u : UnitId) : Nat := max 1 (s.groupOf u).width

/-- VPERM: lane b[l] mod width. -/
def execVperm (f : LA) (s : State) : Answer :=
  moveOp (.vperm f) f true (fun s u l => (s.srcL u f.b.toNat l 32).toNat % s.widthOf u) s
/-- The source lane of VSHFL; outside the group the lane itself (spec/09 R219). -/
def shuffleSource (m l c w : Nat) : Nat :=
  match m with
  | 0 => if c ≤ l ∧ l - c < w then l - c else l
  | 1 => if l + c < w then l + c else l
  | 2 => if l ^^^ c < w then l ^^^ c else l
  | _ => (l + c) % w
/-- VSHFL. -/
def execVshfl (f : LA) (s : State) : Answer :=
  moveOp (.vshfl f) f true (fun s u l => shuffleSource f.m.toNat l (s.srcL u f.b.toNat l 32).toNat (s.widthOf u)) s
/-- VBCAST: lane S[k] mod width; b must be a broadcast. -/
def execVbcast (f : LA) (s : State) : Answer :=
  moveOp (.vbcast f) f (decide (72 ≤ f.b.toNat)) (fun s u _ => (s.sget u (f.b.toNat - 72)).toNat % s.widthOf u) s

/-- VMATCH: the mask of the path's lanes that hold the same key (spec/09 R220). -/
def execVmatch (f : LA) (s : State) : Answer :=
  let w := typeW f.m
  issue (.vmatch f) s fun u s =>
    let m := s.maskOf u
    s.doneV u (.vmatch f) f.d.toNat f.k 64
      (laneTab m fun l => maskWhere m fun j => s.srcL u f.a.toNat j w == s.srcL u f.a.toNat l w)

/-! Convergent instructions. -/

/-- Does path `p` of a group stand at, or wait in, an instruction that keeps it from a convergent instruction: is it out
from the start of a member's wait (spec/09 R221)? -/
def Thread.out (t : Thread) (x : Dword) : Bool :=
  t.state == .atJoin || t.state == .atRegang ||
    (t.state == .waiting && (match t.wait with
      | some w => match w.instr with
        | .qput _ => true
        | .qget _ => true
        | .xsend _ _ => true
        | .xrecv _ _ => true
        | .bar _ _ => true
        | .grow _ => true
        | i => convergent i && t.pc != x
      | none => false)) ||
    (t.frame.active && t.frame.cause == 0)

/-- The other members of path `u`'s family, by index. -/
def State.family (s : State) (u : UnitId) : List (Nat × Path) :=
  match u with
  | .path c g i => (s.group c g).paths.cells.filter fun k => k.1 != i && k.2.fam == (s.pathOf u).fam
  | _ => []
/-- The members that have dropped out when the unit comes to its convergent instruction. -/
def State.outAtStart (s : State) (u : UnitId) : Nat :=
  (s.family u).foldl (fun a k => if k.2.th.out (s.thread u).pc then a ||| 2 ^ k.1 else a) 0
/-- The members that wait at the unit's convergent instruction. -/
def State.gathered (s : State) (u : UnitId) : List Nat :=
  ((s.family u).filter fun k => k.2.th.gathers && k.2.th.pc == (s.thread u).pc).map (·.1)
/-- Has every other member come to the unit's instruction, or dropped out? -/
def State.converged (s : State) (u : UnitId) (out : Nat) : Bool :=
  (s.family u).all fun k => (k.2.th.gathers && k.2.th.pc == (s.thread u).pc) || out.testBit k.1

/-- The path of index `i` in the group of `u`. -/
def siblingOf (u : UnitId) (i : Nat) : UnitId :=
  match u with
  | .path c g _ => .path c g i
  | v => v

/-- The taking-part lanes and their operands at width w, in ascending lane order (spec/09 R221, R223). -/
def State.taking (s : State) (us : List UnitId) (a w : Nat) : List (Nat × Dword) :=
  (List.range 64).filterMap fun l =>
    (us.find? fun u => (s.maskOf u).getLsbD l).map fun u => (l, s.srcL u a l w)

/-- The value of VVOTE (spec/09 R222). -/
def voteValue (mode : Nat) (vals : List (Nat × Dword)) : Dword :=
  let yes := vals.filter fun v => v.2 != 0
  match mode with
  | 0 => yes.foldl (fun a v => a ||| Dword.bit v.1) 0
  | 1 => if yes.isEmpty then 0 else 1
  | 2 => if yes.length = vals.length then 1 else 0
  | _ => if vals.all fun v => some v.2 == (vals.head?.map (·.2)) then 1 else 0

/-- The identity of a combination for VSCAN with EXCL (spec/09 R223). -/
def combineIdentity (ty op : Nat) : Dword :=
  match op with
  | 0 => 0
  | 1 => match ty with
    | 0 => 0x7FFFFFFF
    | 1 => 0xFFFFFFFF
    | 2 => 0x7FFFFFFFFFFFFFFF
    | 3 => 0xFFFFFFFFFFFFFFFF
    | 4 => 0x7F800000
    | 5 => 0x7F80
    | _ => 0x7FFFFFFFFFFFFFFF
  | 2 => match ty with
    | 0 => 0x80000000
    | 1 => 0
    | 2 => 0x8000000000000000
    | 3 => 0
    | 4 => 0xFF800000
    | 5 => 0xFF80
    | _ => 0x8000000000000000
  | 3 => if ty ≤ 1 then 0xFFFFFFFF else 0xFFFFFFFFFFFFFFFF
  | _ => 0

/-- One combination of integers or TX64 values. -/
def combineInt (ty op : Nat) (x y : Dword) : Dword :=
  let w := if ty ≤ 1 then 32 else 64
  let m := if ty = 7 then 2 else ty
  match op with
  | 0 => atWidth w (x.toNat + y.toNat)
  | 1 => if intLt m w y.toNat x.toNat then y else x
  | 2 => if intLt m w x.toNat y.toNat then y else x
  | 3 => x &&& y
  | 4 => x ||| y
  | _ => x ^^^ y

/-- One combination of an accumulator and the next operand with its flags. An addition in .bf16 keeps its accumulator in
FP32 (spec/09 R223). -/
def combine (fmt : Word) (ty op : Nat) (acc x : Dword) : Dword × BitVec 7 :=
  if ty = 4 ∨ ty = 5 then
    let f := floatOf ty
    if op = 0 then
      let a := fp32.read (fmtDAZ fmt && ty == 4) acc.toNat
      let b := f.read (fmtDAZ fmt) (x.toNat % 2 ^ (f.prec + 8))
      finish fmt 4 (a.add (fmtRM fmt) b)
    else (BitVec.ofNat 64 (pickFloat f (fmtDAZ fmt) (op == 1) acc.toNat x.toNat), 0)
  else (combineInt ty op acc x, 0)
/-- The accumulator that the first operand starts: for a .bf16 addition the operand widened (spec/09 R223). -/
def combineStart (fmt : Word) (ty op : Nat) (x : Dword) : Dword :=
  if ty = 5 ∧ op = 0 then BitVec.ofNat 64 (rnd fp32 0 false (bf16.read (fmtDAZ fmt) (x.toNat % 65536))).1
  else if ty = 5 then x &&& 0xFFFF else x
/-- A result as it is written: for a .bf16 addition rounded into BF16. -/
def combineOut (fmt : Word) (ty op : Nat) (acc : Dword) : Dword × BitVec 7 :=
  if ty = 5 ∧ op = 0 then finish fmt 5 (fp32.read false acc.toNat, 0) else (acc, 0)

/-- The accumulators after each taking-part lane, in ascending lane order, with all flags. -/
def scanLanes (fmt : Word) (ty op : Nat) : List (Nat × Dword) → List (Nat × Dword) × BitVec 7
  | [] => ([], 0)
  | (l, x) :: rest =>
    let r := rest.foldl (fun (st : List (Nat × Dword) × Dword × BitVec 7) v =>
      let c := combine fmt ty op st.2.1 v.2
      (st.1 ++ [(v.1, c.1)], c.1, st.2.2 ||| c.2)) ([(l, combineStart fmt ty op x)], combineStart fmt ty op x, 0)
    (r.1, r.2.2)

/-- What VREDUCE or VSCAN gives each taking-part lane under one member's fmt, and its flags, those of every
result's rounding among them (spec/09 R223, notes/assumptions/79.md). -/
def reduceValues (fmt : Word) (ty op : Nat) (scan excl : Bool) (vals : List (Nat × Dword)) :
    List (Nat × Dword) × BitVec 7 :=
  let r := scanLanes fmt ty op vals
  let last := (r.1.getLast?.map (·.2)).getD 0
  let raw : List (Nat × Dword × BitVec 7) :=
    if scan then
      (List.range r.1.length).map fun k =>
        let l := (r.1.getD k (0, 0)).1
        if !excl then (l, combineOut fmt ty op (r.1.getD k (0, 0)).2)
        else if k = 0 then (l, combineIdentity ty op, 0)
        else (l, combineOut fmt ty op (r.1.getD (k - 1) (0, 0)).2)
    else r.1.map fun v => (v.1, combineOut fmt ty op last)
  (raw.map fun v => (v.1, v.2.1), raw.foldl (fun a v => a ||| v.2.2) r.2)

/-- A convergent instruction performs for member `u`: it writes the results of its own lanes and goes on
behind the instruction's words, two of them for VVOTE (spec/09 R221 to R223, notes/assumptions/78.md). -/
def State.memberPerform (s0 : State) (us : List UnitId) (i : Instr) (s : State) (u : UnitId) : State :=
  match i with
  | .vvote f x =>
    let v := voteValue x.mode.toNat (s0.taking us f.a.toNat (typeW f.m))
    (s.sput u x.sd.toNat (v &&& if x.mode = 0 then (s0.groupOf u).widthMask else 1)).doneL u i
  | .vreduce f =>
    let r := reduceValues (s0.fmtOf u) f.m.toNat (f.b.toNat % 8) false false (s0.taking us f.a.toNat (typeW f.m))
    let mine := r.1.filter fun v => (s0.maskOf u).getLsbD v.1
    (s.orFlags u r.2).doneV u i f.d.toNat f.k (typeW f.m) { cells := mine }
  | .vscan f =>
    let r := reduceValues (s0.fmtOf u) f.m.toNat (f.b.toNat % 8) true (f.b.toNat / 8 % 2 == 1)
      (s0.taking us f.a.toNat (typeW f.m))
    let mine := r.1.filter fun v => (s0.maskOf u).getLsbD v.1
    (s.orFlags u r.2).doneV u i f.d.toNat f.k (typeW f.m) { cells := mine }
  | _ => s

/-- The unit and the members that wait at its convergent instruction perform it together. -/
def State.convergeNow (s : State) (u : UnitId) (i : Instr) : State :=
  let us := u :: (s.gathered u).map (siblingOf u)
  us.foldl (fun t v => State.memberPerform s us i t v) s

/-- A path comes to a convergent instruction: it performs at once where every other member of its family is there or has
dropped out, and waits otherwise (spec/09 R221). -/
def State.arrive (s : State) (u : UnitId) (i : Instr) : State :=
  let s := s.dropOut u (some (s.thread u).pc)
  let out := s.outAtStart u
  if s.converged u out then s.convergeNow u i else s.waitIn u { instr := i, lo := out }
/-- A path that waits in a convergent instruction performs it once its family has gathered or dropped out. -/
def State.tryConverge (s : State) (u : UnitId) : State :=
  match (s.thread u).wait with
  | some w =>
    if (s.thread u).gathers && s.converged u w.lo then s.convergeNow u w.instr else s
  | none => s

/-- VVOTE (spec/09 R222). -/
def execVvote (f : LA) (x : VoteX) (s : State) : Answer := issue (.vvote f x) s fun u s => s.arrive u (.vvote f x)
/-- VREDUCE (spec/09 R223). -/
def execVreduce (f : LA) (s : State) : Answer := issue (.vreduce f) s fun u s => s.arrive u (.vreduce f)
/-- VSCAN (spec/09 R223). -/
def execVscan (f : LA) (s : State) : Answer := issue (.vscan f) s fun u s => s.arrive u (.vscan f)

/-! Messages between groups. -/

/-- XSEND: waits while the slot is FULL, then fills it (spec/09 R225). -/
def State.xsend (f : LA) (x : SlotX) (u : UnitId) (s : State) : State :=
  let k := x.slot.toNat
  let s := s.dropOut u none
  if (s.teamOf u).xslots.has k then s.waitIn u { instr := .xsend f x, lo := 0 } else
  let m := s.maskOf u
  let v := laneTab m fun l => s.srcL u f.a.toNat l (typeW f.m)
  ((s.release u 1).onTeamOf u fun t => { t with xslots := t.xslots.put k { mask := m, vals := v } }).doneL u (.xsend f x)
/-- XRECV: waits while the slot is empty, then empties it; a lane the sender did not name receives 0 (spec/09 R225). -/
def State.xrecv (f : LA) (x : SlotX) (u : UnitId) (s : State) : State :=
  let k := x.slot.toNat
  let s := s.dropOut u none
  match (s.teamOf u).xslots.find k with
  | none => s.waitIn u { instr := .xrecv f x, lo := 0 }
  | some r =>
    let v := laneTab (s.maskOf u) fun l =>
      if r.mask.getLsbD l then (if f.m = 1 then r.vals.get l 0 &&& 0xFFFFFFFF else r.vals.get l 0) else 0
    let s := (s.onTeamOf u fun t => { t with xslots := t.xslots.drop k }).acquire u.node 1
    s.doneV u (.xrecv f x) f.d.toNat f.k (typeW f.m) v

/-- XSEND. -/
def execXsend (f : LA) (x : SlotX) (s : State) : Answer := issue (.xsend f x) s (State.xsend f x)
/-- XRECV. -/
def execXrecv (f : LA) (x : SlotX) (s : State) : Answer := issue (.xrecv f x) s (State.xrecv f x)

end Sys2Proof.Machine
end

