-- ==== Sys2Proof/Machine/Operands.lean ====
section
/-! DEFINITION. Memory operands: effective addresses, the checks of an access, scratchpad bytes with their presence and poison,
and the accesses themselves (spec/01 R12, R13, spec/02 R53 to R57, R80, spec/10 R226, R227, R236). -/
namespace Sys2Proof.Machine

/-! Scratchpad. Offsets are relative to the team's allocation. -/

/-- Is [a, a + n) inside a team's allocation (spec/01 R13)? -/
def Team.spIn (t : Team) (a n : Nat) : Bool := decide (a < 2 ^ 20) && decide (a + n ≤ t.spSize)
/-- The first byte of a range that begins at `ea`, and is not inside a team's allocation, that lies outside it (spec/15 R329). -/
def Team.spOut (t : Team) (ea : Dword) : Dword := if ea.toNat < t.spSize then BitVec.ofNat 64 t.spSize else ea
/-- Is any line of [a, a + n) absent: has a command cleared it and not yet made its last write to it (spec/02 R53, R54)? -/
def Team.spAbsent (t : Team) (a n : Nat) : Bool :=
  let on (l : Nat) : Bool := decide (a < (l + 1) * 256) && decide (l * 256 < a + n)
  t.absent.any on || t.eng.cells.any fun q => q.2.cmds.any fun c => c.lines.any on
/-- Bytes of a team's scratchpad. -/
def State.spRead (s : State) (c t a n : Nat) : List Byte := (s.core c).sp.read ((s.team c t).spBase + a) n
/-- Bytes written to a team's scratchpad; a quarter written whole loses its poison (spec/02 R80). -/
def State.spWrite (s : State) (c t a : Nat) (bs : List Byte) : State :=
  s.onCore c fun k => k.spPut ((s.team c t).spBase + a) bs
/-- Is any byte of [a, a + n) of a team's scratchpad poisoned? -/
def State.spPoisoned (s : State) (c t a n : Nat) : Bool :=
  let base := (s.team c t).spBase + a
  (s.core c).spPoison.any fun q => decide (base < (q + 1) * 64) && decide (q * 64 < base + n)
/-- Every quarter that holds a byte of [a, a + n) becomes poisoned. -/
def State.spSpoil (s : State) (c t a n : Nat) : State :=
  let base := (s.team c t).spBase + a
  s.onCore c fun k =>
    { k with spPoison := (pieces 64 base n).foldl (fun l p => addNum (p.1 / 64) l) k.spPoison }

/-! Effective addresses. -/

/-- ea(l) of spec/10 R226. -/
def State.laneAddr (s : State) (u : UnitId) (a b ix scl : Nat) (off : BitVec 16) (l : Nat) : Dword :=
  let xi : Dword := match ix with
    | 0 => 0
    | 1 => s.srcL u b l 32
    | _ => (s.srcL u b l 32).setWidth 32 |>.signExtend 64
  s.srcL u a l 64 + xi <<< scl + off.signExtend 64
/-- The address of a uniform access (spec/10 R236). -/
def State.uniAddr (s : State) (u : UnitId) (a b : Nat) (ixe : Bool) (off : BitVec 16) : Dword :=
  s.srcG u a + (if ixe then s.sget u b else 0) + off.signExtend 64

/-! One access. -/

/-- An access that passed its checks: its address, and its translation where it is global. -/
structure Ready where
  addr : Dword
  xl : Option Xlat

/-- The checks of an access of `n` bytes by a unit, in order: ALIGN, then the scratchpad's bounds or the translation, then
poison for a read, which has request `req` (spec/10 R226, R227, spec/02 R80). -/
def State.accessCheck (s : State) (u : UnitId) (sp : Bool) (k : Kind) (n req : Nat) (ea : Dword) : Except Flt Ready :=
  let reads := k == .load || k == .atomic
  if ea.toNat % n != 0 then .error (fltAt 0x10 ea)
  else if sp then
    if !(s.teamOf u).spIn ea.toNat n then .error (fltAt 0x11 ea)
    else if reads && s.spPoisoned u.place (s.teamSlot u) ea.toNat n then .error (fltAt 0x12 ea)
    else .ok { addr := ea, xl := none }
  else
    match s.translate u.node (s.ctxOf u) ea k with
    | .error f => .error f
    | .ok x =>
      if reads && s.poisonedFor u.node (x.at_ u.node) n (effPol x req) then .error (poisonAt k ea)
      else .ok { addr := ea, xl := some x }
/-- Does an access have to wait for an absent scratchpad line (spec/02 R55)? -/
def State.mustWait (s : State) (u : UnitId) (sp : Bool) (n : Nat) (ea : Dword) : Bool :=
  sp && ea.toNat % n == 0 && (s.teamOf u).spIn ea.toNat n && (s.teamOf u).spAbsent ea.toNat n

/-- ACQUIRE and RELEASE in an ORD field (spec/10 R228). -/
def isAcq (ord : Nat) : Bool := ord % 2 == 1
/-- RELEASE in an ORD field. -/
def isRel (ord : Nat) : Bool := decide (2 ≤ ord)
/-- Is a load with this ordering one with t = p (spec/03 R86)? -/
def freshLoad (ord scope : Nat) : Bool := isAcq ord && decide (2 ≤ scope)
/-- The request that decides whether a load may find its line in L1: not PAGE where the load must be fresh. -/
def viewReq (req ord scope : Nat) : Nat := if freshLoad ord scope then min 1 req else req
/-- The scope of the release that a store is, 0 where it is none. -/
def relScope (ord scope : Nat) : Nat := if isRel ord then scope else 0
/-- The request of a POL field: 2 for PAGE, 1 for L2, 0 for HOME (spec/10 R228). -/
def reqOf (pol : Nat) : Nat := 2 - pol

/-- The address in a core's SRAM of a scratchpad access of a unit. -/
def State.spPlace (s : State) (u : UnitId) (r : Ready) : Nat := (s.teamOf u).spBase + r.addr.toNat
/-- A read of `n` bytes by `w`, which is the unit or a lane of it: the bytes, and the state it leaves. -/
def State.readAt (s : State) (u : UnitId) (w : Who) (r : Ready) (n req : Nat) (fresh : Bool) : List Byte × State :=
  match r.xl with
  | none => match s.aheadOf w true (s.spPlace u r) n false with
    | some bs => (bs, s)
    | none => (s.spRead u.place (s.teamSlot u) r.addr.toNat n, s.touch w true (s.spPlace u r) n)
  | some x =>
    let v := s.readBy w x n req fresh
    (v.1, ((s.useLeaf u.node (s.ctxOf u) r.addr x .load).readBy w x n req fresh).2)
/-- A write; to global memory it is a release at scope `rel`, 0 where it is none. -/
def State.writeAt (s : State) (u : UnitId) (w : Who) (r : Ready) (bs : List Byte) (req rel : Nat) : State :=
  match r.xl with
  | none => (s.touch w true (s.spPlace u r) bs.length).spWrite u.place (s.teamSlot u) r.addr.toNat bs
  | some x => (s.useLeaf u.node (s.ctxOf u) r.addr x .store).storeAt w x bs req rel
/-- An atomic: the bytes found, and the state it leaves (spec/03 R93). -/
def State.rmwAt (s : State) (u : UnitId) (w : Who) (r : Ready) (n : Nat) (f : List Byte → Option (List Byte)) : List Byte × State :=
  match r.xl with
  | none =>
    let old := s.spRead u.place (s.teamSlot u) r.addr.toNat n
    let s := s.touch w true (s.spPlace u r) n
    (old, match f old with
      | none => s
      | some b => s.spWrite u.place (s.teamSlot u) r.addr.toNat b)
  | some x =>
    (s.atomicSees u.node x n,
      ((s.useLeaf u.node (s.ctxOf u) r.addr x .atomic).touch w false x.pa n).atomicAt u.node x n 2 f)

/-! Accesses of the lanes of a path. -/

/-- Lanes that fault take their fault; `body` performs for the others where a path remains for them, and before a teardown
(spec/10 R227, spec/01 R36, spec/15 R329). -/
def State.withFaults (s : State) (u : UnitId) (fs : List (Nat × Flt)) (body : State → State) : State :=
  if fs.isEmpty then body s else
  match u with
  | .path c g i =>
    let go := s.performers u (lanesMask fs)
    if (fs.any fun x => x.2.cause != 0) && s.tears u then
      let p := s.pathOf u
      let s := if go = 0 then s else (body (s.onPathOf u fun q => { q with mask := go })).onPathOf u fun _ => p
      s.faultLanes c g i fs
    else
      let s' := s.faultLanes c g i fs
      if go = 0 then s' else body s'
  | _ => match fs with
    | (_, f) :: _ => s.faultOther u f
    | [] => s

/-- The faults among the lanes' checks. -/
def faultsOf (l : List (Nat × Except Flt Ready)) : List (Nat × Flt) :=
  l.filterMap fun x => match x.2 with
    | .error f => some (x.1, f)
    | .ok _ => none
/-- The lanes that passed. -/
def readyOf (l : List (Nat × Except Flt Ready)) : List (Nat × Ready) :=
  l.filterMap fun x => match x.2 with
    | .error _ => none
    | .ok r => some (x.1, r)

/-- The lanes that passed perform one after the other, each giving the bytes it read (spec/03 R90). -/
def eachLane (act : State → Nat → Ready → List Byte × State) (s : State) (l : List (Nat × Ready)) :
    List (Nat × List Byte) × State :=
  l.foldl (fun a x => let r := act a.2 x.1 x.2; (a.1 ++ [(x.1, r.1)], r.2)) ([], s)

/-- A memory instruction of the lanes of a path: addresses `ea`, the wait for absent lines, the faults, then `act` for each
other lane in ascending order and `fin` with the bytes read. -/
def State.laneMem (s : State) (u : UnitId) (i : Instr) (sp : Bool) (k : Kind) (n req : Nat) (ea : Nat → Dword)
    (act : State → Nat → Ready → List Byte × State) (before : State → State)
    (fin : State → List (Nat × List Byte) → State) : State :=
  let lanes := (s.maskOf u).lanes
  if lanes.any fun l => s.mustWait u sp n (ea l) then s.waitIn u { instr := i, lo := 0 } else
  let chk := lanes.map fun l => (l, s.accessCheck u sp k n req (ea l))
  s.withFaults u (faultsOf chk) fun s =>
    let r := eachLane act (before s) ((readyOf chk).filter fun x => (s.maskOf u).getLsbD x.1)
    fin r.2 r.1

/-- A uniform memory instruction: one access for the unit (spec/10 R236). -/
def State.uniMem (s : State) (u : UnitId) (i : Instr) (sp : Bool) (k : Kind) (n req : Nat) (ea : Dword)
    (act : State → Ready → State) : State :=
  if s.mustWait u sp n ea then s.waitIn u { instr := i, lo := 0 } else
  match s.accessCheck u sp k n req ea with
  | .error f => s.faultUnit u f
  | .ok r => act s r

end Sys2Proof.Machine
end

