-- ==== Sys2Proof/Machine/Memory.lean ====
section
/-! DEFINITION. Lane and uniform loads, stores, atomics, fences, discards and prefetches: opcodes L 0x38 to 0x45 and G 0x30 to
0x32 (spec/10 R228 to R236). -/
namespace Sys2Proof.Machine

/-! Loads and stores. -/

/-- Bytes of an access by the m field of the loads and stores (spec/10 R228). -/
def sizeOfM (m : Nat) : Nat := if m ≤ 1 then 1 else if m ≤ 3 then 2 else if m = 4 then 4 else 8
/-- The value of a load: sign-extended to 32 bits for .s8 and .s16, else zero-extended. -/
def loadValue (m : Nat) (bs : List Byte) : Dword :=
  let v := leNat bs
  if m = 1 then BitVec.ofNat 64 (wrapN 32 (signed 8 v)) else if m = 3 then BitVec.ofNat 64 (wrapN 32 (signed 16 v))
  else BitVec.ofNat 64 v
/-- What comes before an access that takes its home instant, or its instant at the scratchpad, at once: what the unit's release fences
have ordered, and for a release what it waits for (spec/03 R92 rows 6 and 7). -/
def State.before (s : State) (u : UnitId) (ord scope : Nat) : State := if isRel ord then s.release u scope else s.fenced u
/-- What comes before a store: to global memory nothing, since its home instant comes later. -/
def State.beforeStore (s : State) (u : UnitId) (sp : Bool) (ord scope : Nat) : State := if sp then s.before u ord scope else s
/-- What an acquire does after them (spec/03 R87, R92). -/
def State.after (s : State) (u : UnitId) (ord scope : Nat) : State := if isAcq ord then (s.acquire u.node scope).forget u else s

/-- A lane load of up to 8 bytes (spec/10 R229). -/
def State.laneLoad (i : Instr) (f : LA) (x : MemX) (sp : Bool) (u : UnitId) (s : State) : State :=
  let m := f.m.toNat
  let n := sizeOfM m
  let ord := x.ord.toNat
  let scope := x.scope.toNat
  s.laneMem u i sp .load n (viewReq (reqOf x.pol.toNat) ord scope) (s.laneAddr u f.a.toNat f.b.toNat x.ix.toNat x.scl.toNat x.off)
    (fun s l r => s.readAt u (s.laneWho u l) r n (reqOf x.pol.toNat) (freshLoad ord scope)) id
    (fun s vals => (s.after u ord scope).doneV u i f.d.toNat f.k (if m = 5 then 64 else 32)
      { cells := vals.map fun v => (v.1, loadValue m v.2) })
/-- A lane store of up to 8 bytes (spec/10 R229). -/
def State.laneStore (i : Instr) (f : LA) (x : MemX) (sp : Bool) (u : UnitId) (s : State) : State :=
  let m := f.m.toNat
  let n := sizeOfM m
  s.laneMem u i sp .store n 0 (s.laneAddr u f.a.toNat f.b.toNat x.ix.toNat x.scl.toNat x.off)
    (fun s l r => ([], s.writeAt u (s.laneWho u l) r (natLe n (s.vwide u l f.d.toNat (if m = 5 then 64 else 32)).toNat) (reqOf x.pol.toNat)
      (relScope x.ord.toNat x.scope.toNat)))
    (fun s => s.beforeStore u sp x.ord.toNat x.scope.toNat) (fun s _ => s.doneL u i)
/-- Registers vd to vd + 3 take the 16 bytes of a quad load; its latch takes the first 64 bits (spec/10 R228, R229). -/
def State.quadResult (s : State) (u : UnitId) (d : Nat) (k : Bool) (vals : List (Nat × List Byte)) : State :=
  let s := if k then s else
    vals.foldl (fun s v => (List.range 4).foldl
      (fun s j => s.vput u v.1 (d + j) (BitVec.ofNat 32 (leNat ((v.2.drop (4 * j)).take 4)))) s) s
  s.shiftL u (some { cells := vals.map fun v => (v.1, BitVec.ofNat 64 (leNat (v.2.take 8))) })
/-- The 16 bytes of vd to vd + 3 of a lane. -/
def State.quadOf (s : State) (u : UnitId) (l d : Nat) : List Byte :=
  (List.range 4).flatMap fun j => natLe 4 (s.vget u l (d + j)).toNat
/-- LDQ. -/
def State.ldq (f : LA) (x : MemX) (u : UnitId) (s : State) : State :=
  let i := Instr.ldq f x
  if !f.k && f.d.toNat % 4 != 0 then s.faultUnit u illegalOperand else
  let ord := x.ord.toNat
  let scope := x.scope.toNat
  s.laneMem u i x.sp .load 16 (viewReq (reqOf x.pol.toNat) ord scope) (s.laneAddr u f.a.toNat f.b.toNat x.ix.toNat x.scl.toNat x.off)
    (fun s l r => s.readAt u (s.laneWho u l) r 16 (reqOf x.pol.toNat) (freshLoad ord scope)) id
    (fun s vals => ((s.after u ord scope).quadResult u f.d.toNat f.k vals).done u i.len i.endsRun)
/-- STQ. -/
def State.stq (f : LA) (x : MemX) (u : UnitId) (s : State) : State :=
  let i := Instr.stq f x
  if f.d.toNat % 4 != 0 then s.faultUnit u illegalOperand else
  s.laneMem u i x.sp .store 16 0 (s.laneAddr u f.a.toNat f.b.toNat x.ix.toNat x.scl.toNat x.off)
    (fun s l r => ([], s.writeAt u (s.laneWho u l) r (s.quadOf u l f.d.toNat) (reqOf x.pol.toNat) (relScope x.ord.toNat x.scope.toNat)))
    (fun s => s.beforeStore u x.sp x.ord.toNat x.scope.toNat) (fun s _ => s.doneL u i)

/-- LD. -/
def execLd (f : LA) (x : MemX) (s : State) : Answer := issue (.ld f x) s (State.laneLoad (.ld f x) f x false)
/-- ST. -/
def execSt (f : LA) (x : MemX) (s : State) : Answer := issue (.st f x) s (State.laneStore (.st f x) f x false)
/-- LDS. -/
def execLds (f : LA) (x : MemX) (s : State) : Answer := issue (.lds f x) s (State.laneLoad (.lds f x) f x true)
/-- STS. -/
def execSts (f : LA) (x : MemX) (s : State) : Answer := issue (.sts f x) s (State.laneStore (.sts f x) f x true)
/-- LDQ. -/
def execLdq (f : LA) (x : MemX) (s : State) : Answer := issue (.ldq f x) s (State.ldq f x)
/-- STQ. -/
def execStq (f : LA) (x : MemX) (s : State) : Answer := issue (.stq f x) s (State.stq f x)

/-- The line of one lane's address brought nearer, where nothing about it faults; the leaf's ACC stays (spec/10 R230,
notes/assumptions/68.md). -/
def State.prefetch (s : State) (u : UnitId) (ea : Dword) (req : Nat) : State :=
  match s.translate u.node (s.ctxOf u) ea .load with
  | .error _ => s
  | .ok x =>
    let y := { x with pa := x.pa / 64 * 64 }
    if s.poisonedFor u.node (y.at_ u.node) 64 (effPol y req) then s else s.fillAt u.node y 64 req false
/-- PREF (spec/10 R230). -/
def execPref (f : LA) (x : MemX) (s : State) : Answer :=
  issue (.pref f x) s fun u s =>
    ((s.maskOf u).lanes.foldl (fun s l =>
      s.prefetch u (s.laneAddr u f.a.toNat f.b.toNat x.ix.toNat x.scl.toNat x.off l)
        (min (reqOf x.pol.toNat) (if f.m = 0 then 2 else 1))) s).doneL u (.pref f x)

/-! Atomics. -/

/-- RN(old + operand) in FP32 under a path's fmt; no flag (spec/10 R231, spec/06 R141). -/
def fadd32 (fmt : Word) (old op : Nat) : Nat :=
  let daz := fmtDAZ fmt
  (rnd fp32 (fmtRM fmt) (fmtFTZ fmt) (((fp32.read daz old).add (fmtRM fmt) (fp32.read daz op)).1)).1
/-- f(AOP, old, operand) at a type (spec/10 R231); .tx adds modulo 2^64 (spec/10 R233). -/
def atomicOp (fmt : Word) (ty aop old op : Nat) : Nat :=
  let w := if ty = 2 ∨ ty = 3 ∨ ty = 7 then 64 else 32
  match aop with
  | 0 => (old + op) % 2 ^ w
  | 1 => old &&& op
  | 2 => old ||| op
  | 3 => old ^^^ op
  | 4 => if intLt ty w op old then op else old
  | 5 => if intLt ty w old op then op else old
  | 6 => op
  | _ => fadd32 fmt old op
/-- The bytes that a compare-and-swap of `n` bytes writes, if any (spec/10 R232). -/
def casBytes (n cmp swp : Nat) (old : List Byte) : Option (List Byte) := if leNat old = cmp then some (natLe n swp) else none

/-- An atomic of the lanes whose new bytes are `g s l old`, its old value returned to vd unless NR (spec/10 R231); `mid` is what other
parties do before a lane's access (spec/03 R90). -/
def State.laneAtomic (i : Instr) (f : LA) (x : AtomX) (sp : Bool) (n : Nat)
    (g : State → Nat → List Byte → Option (List Byte)) (u : UnitId) (s : State) (mid : State → Nat → State := fun s _ => s) : State :=
  let ord := x.ord.toNat
  let scope := x.scope.toNat
  s.laneMem u i sp .atomic n 0 (s.laneAddr u f.a.toNat f.b.toNat x.ix.toNat x.scl.toNat x.off)
    (fun s l r => (mid s l).rmwAt u (s.laneWho u l) r n (g s l)) (fun s => s.before u ord scope)
    (fun s vals =>
      let s := s.after u ord scope
      if x.nr then s.doneL u i
      else s.doneV u i f.d.toNat false (8 * n) { cells := vals.map fun v => (v.1, BitVec.ofNat 64 (leNat v.2)) })
/-- ATOM and ATOMS. -/
def State.atomAny (i : Instr) (f : LA) (x : AtomX) (sp : Bool) (u : UnitId) (s : State)
    (mid : State → Nat → State := fun s _ => s) : State :=
  let w := typeW f.m
  let n := w / 8
  State.laneAtomic i f x sp n (fun s l old =>
    some (natLe n (atomicOp (s.fmtOf u) f.m.toNat x.aop.toNat (leNat old) (s.vwide u l f.d.toNat w).toNat))) u s mid
/-- ACAS and ACASS: the compare value in vd, the swap value in the register or pair after it (spec/10 R232). -/
def State.casAny (i : Instr) (f : LA) (x : AtomX) (sp : Bool) (u : UnitId) (s : State)
    (mid : State → Nat → State := fun s _ => s) : State :=
  let w := typeW f.m
  let n := w / 8
  State.laneAtomic i f x sp n (fun s l old =>
    casBytes n (s.vwide u l f.d.toNat w).toNat (s.vwide u l (f.d.toNat + w / 32) w).toNat old) u s mid
/-- AADDX: exact TX64 addition modulo 2^64 (spec/10 R233). -/
def State.aaddx (f : LA) (x : AtomX) (u : UnitId) (s : State) (mid : State → Nat → State := fun s _ => s) : State :=
  State.laneAtomic (.aaddx f x) f x false 8 (fun s l old =>
    some (natLe 8 (atomicOp 0 7 0 (leNat old) (s.vwide u l f.d.toNat 64).toNat))) u s mid

/-- ATOM. -/
def execAtom (f : LA) (x : AtomX) (s : State) : Answer := issue (.atom f x) s fun u s => State.atomAny (.atom f x) f x false u s
/-- ATOMS. -/
def execAtoms (f : LA) (x : AtomX) (s : State) : Answer := issue (.atoms f x) s fun u s => State.atomAny (.atoms f x) f x true u s
/-- ACAS. -/
def execAcas (f : LA) (x : AtomX) (s : State) : Answer := issue (.acas f x) s fun u s => State.casAny (.acas f x) f x false u s
/-- ACASS. -/
def execAcass (f : LA) (x : AtomX) (s : State) : Answer := issue (.acass f x) s fun u s => State.casAny (.acass f x) f x true u s
/-- AADDX. -/
def execAaddx (f : LA) (x : AtomX) (s : State) : Answer := issue (.aaddx f x) s fun u s => State.aaddx f x u s

/-- What a fence does (spec/03 R92 rows 4, 7 and 8, R87): KIND 1 acquire, 2 release, 3 both. A release fence puts what the unit has
written and read before its later writes, a full fence before all that it does. -/
def State.fence (s : State) (u : UnitId) (kind scope : Nat) : State :=
  match kind with
  | 1 => s.acquire u.node scope
  | 2 => s.promise u scope
  | _ => (s.release u scope).acquire u.node scope
/-- FENCE (spec/10 R234). -/
def execFence (f : LA) (x : FenceX) (s : State) : Answer :=
  issue (.fence f x) s fun u s => (s.fence u x.kind.toNat x.scope.toNat).doneL u (.fence f x)

/-! DISCARD. -/

/-- The pages of a range of global addresses, each translated with kind discard: a piece of 64 KiB with its translation, or its
fault (spec/10 R235). -/
def State.discardXlat (s : State) (u : UnitId) (ea : Dword) (n : Nat) : List (Except Flt (Xlat × Nat)) :=
  (pieces 65536 ea.toNat n).map fun p => (s.translate u.node (s.ctxOf u) (BitVec.ofNat 64 p.1) .discard).map fun x => (x, p.2)
/-- One piece of a discard: the sectors wholly inside, and the core's L1 lines in the range (spec/02 R71, R72); a discard is a write for
the order, and takes its home instant at once (spec/03 R92 row 7, notes/assumptions/61.md). -/
def State.discardPiece (s : State) (u : UnitId) (x : Xlat) (len : Nat) : State :=
  if x.mir || !inHbm x.pa then s else
  let n := u.node
  let s := (s.fenced u).onCaches n fun m => m.keepLines fun k => !overlaps (k * 64) 64 x.pa len
  ((s.touch (s.whoOf u) false x.pa len).drainOver n x.pa len).discardHome x.pa len
/-- The faults and translations of DISCARD for one lane, page by page. -/
def State.discardCheck (s : State) (u : UnitId) (sp : Bool) (ea : Dword) (n : Nat) : List (Except Flt (Xlat × Nat)) :=
  if n = 0 then []
  else if sp then if (s.teamOf u).spIn ea.toNat n then [] else [.error (fltAt 0x11 ((s.teamOf u).spOut ea))]
  else s.discardXlat u ea n
/-- The faults that a lane reports of those it has met: where any code does not park, only those (spec/01 R36). -/
def reported (fs : List Flt) : List Flt := if fs.any fun f => f.cause != 0 then fs.filter fun f => f.cause != 0 else fs
/-- The faults among checks. -/
def errorsOf {α : Type} (l : List (Except Flt α)) : List Flt := l.filterMap fun c => match c with
  | .error f => some f
  | .ok _ => none
/-- DISCARD (spec/10 R235). -/
def execDiscard (f : LA) (x : MemX) (s : State) : Answer :=
  issue (.discard f x) s fun u s =>
    let chk := (s.maskOf u).lanes.map fun l =>
      (l, s.discardCheck u x.sp (s.laneAddr u f.a.toNat 0 0 0 x.off l) (s.srcL u f.b.toNat l 32).toNat)
    let fs := chk.flatMap fun c => (reported (errorsOf c.2)).map fun f => (c.1, f)
    s.withFaults u fs fun s =>
      let ok := chk.filter fun c => (s.maskOf u).getLsbD c.1 && (errorsOf c.2).isEmpty
      (ok.foldl (fun s c => c.2.foldl (fun s p => match p with
        | .ok p => s.discardPiece u p.1 p.2
        | .error _ => s) s) s).doneL u (.discard f x)

/-! Uniform accesses. -/

/-- Bytes of an access by the SZ field (spec/10 R236). -/
def sizeOfSZ (sz : Nat) : Nat := if sz ≤ 1 then 1 else if sz ≤ 3 then 2 else if sz ≤ 5 then 4 else 8
/-- A uniform load's value: sign-extended for odd SZ. -/
def loadValueG (sz : Nat) (bs : List Byte) : Dword :=
  if sz % 2 = 1 then sext64 (8 * sizeOfSZ sz) (leNat bs) else BitVec.ofNat 64 (leNat bs)
/-- A lantern core has no scratchpad: SP = 1 is an illegal operand there at step 7 (spec/10 R236). -/
def spOk (u : UnitId) (sp : Bool) : Bool := match u with
  | .lant _ _ => !sp
  | _ => true
/-- GLD. -/
def State.gld (f : GA) (x : GmemX) (u : UnitId) (s : State) : State :=
  if !spOk u x.sp then s.faultUnit u illegalOperand else
  let n := sizeOfSZ x.sz.toNat
  let ord := x.ord.toNat
  let scope := x.scope.toNat
  s.uniMem u (.gld f x) x.sp .load n (viewReq (reqOf x.pol.toNat) ord scope) (s.uniAddr u f.a.toNat f.b.toNat x.ixe x.off) fun s r =>
    let v := s.readAt u (s.whoOf u) r n (reqOf x.pol.toNat) (freshLoad ord scope)
    (v.2.after u ord scope).doneR u (.gld f x) f.d.toNat f.k (loadValueG x.sz.toNat v.1)
/-- GST. -/
def State.gst (f : GA) (x : GmemX) (u : UnitId) (s : State) : State :=
  if !spOk u x.sp then s.faultUnit u illegalOperand else
  let n := sizeOfSZ x.sz.toNat
  s.uniMem u (.gst f x) x.sp .store n 0 (s.uniAddr u f.a.toNat f.b.toNat x.ixe x.off) fun s r =>
    ((s.beforeStore u x.sp x.ord.toNat x.scope.toNat).writeAt u (s.whoOf u) r (natLe n (s.sget u f.d.toNat).toNat) (reqOf x.pol.toNat)
      (relScope x.ord.toNat x.scope.toNat)).doneG u (.gst f x)
/-- The bytes that GATOM writes (spec/10 R236); an .fadd rounds under the unit's own fmt (notes/assumptions/72.md). -/
def State.gatomBytes (s : State) (u : UnitId) (f : GA) (x : GatomX) (n : Nat) (old : List Byte) : Option (List Byte) :=
  let d := f.d.toNat
  let op := (s.sget u d).toNat % 2 ^ (8 * n)
  if x.aop = 8 then casBytes n op ((s.sget u (d + 1)).toNat % 2 ^ (8 * n)) old
  else some (natLe n (atomicOp (s.fmtOf u) x.ty.toNat x.aop.toNat (leNat old) op))
/-- GATOM: the old value into S[d] and the latch, or with K = 1 nowhere (spec/10 R236). -/
def State.gatom (f : GA) (x : GatomX) (u : UnitId) (s : State) : State :=
  if !spOk u x.sp then s.faultUnit u illegalOperand else
  let n := typeW x.ty / 8
  let ord := x.ord.toNat
  let scope := x.scope.toNat
  s.uniMem u (.gatom f x) x.sp .atomic n 0 (s.uniAddr u f.a.toNat f.b.toNat x.ixe x.off) fun s r =>
    let v := (s.before u ord scope).rmwAt u (s.whoOf u) r n (s.gatomBytes u f x n)
    let s := v.2.after u ord scope
    if f.k then s.doneG u (.gatom f x) else s.doneR u (.gatom f x) f.d.toNat false (BitVec.ofNat 64 (leNat v.1))
/-- GLD. -/
def execGld (f : GA) (x : GmemX) (s : State) : Answer := issue (.gld f x) s (State.gld f x)
/-- GST. -/
def execGst (f : GA) (x : GmemX) (s : State) : Answer := issue (.gst f x) s (State.gst f x)
/-- GATOM. -/
def execGatom (f : GA) (x : GatomX) (s : State) : Answer := issue (.gatom f x) s (State.gatom f x)

end Sys2Proof.Machine
end

