-- ==== Sys2Proof/Machine/Paths.lean ====
section
/-! DEFINITION. Divergence and reconvergence: what BRD, JOIN, IDLE, REGANG and EXIT do to the path table and the
reconvergence stack (spec/05 R122 to R128). -/
namespace Sys2Proof.Machine

/-- Entry `e` of the reconvergence stack. -/
def Group.entry (g : Group) (e : Nat) : StackEntry := g.stack.get e .none
/-- Lanes of `mask` that lie in slices all of whose lanes in `mask` are in `t` (spec/05 R124). -/
def slicesWithin (mask t : Dword) : Dword :=
  maskOfLanes (mask.lanes.filter fun l =>
    (List.range 4).all fun k => !mask.getLsbD (l / 4 * 4 + k) || t.getLsbD (l / 4 * 4 + k))
where
  /-- A mask from lane numbers. -/
  maskOfLanes (l : List Nat) : Dword := l.foldl (fun a k => a ||| Dword.bit k) 0

/-- A new path with lanes `m` that starts at `pc` with the fmt, WB and family of `p` (spec/05 R124). -/
def Path.fork (p : Path) (m pc : Dword) : Path :=
  { th := Thread.startAt pc p.th.fmt, mask := m, arm := false, partner := 0, stk := 0, stkv := false, wb := p.wb,
    fam := p.fam }
/-- The path with another mask, about to start a run at `pc`. -/
def Path.goOn (p : Path) (m pc : Dword) : Path := { p with mask := m, th := p.th.restart pc }
/-- An entry pushed on path `i`'s stack, at the lowest free index (spec/05 R125). -/
def Group.push (g : Group) (i : Nat) (e : StackEntry) : Group :=
  match g.stack.free Config.stackSlots with
  | .none => g
  | some k =>
    let p := g.path i
    { g with
      stack := g.stack.put k { e with next := p.stk, nextv := p.stkv }
      paths := g.paths.put i { p with stk := k, stkv := true } }
/-- The top entry popped from path `i`'s stack (spec/05 R125). -/
def Group.pop (g : Group) (i : Nat) : Group :=
  let p := g.path i
  let e := g.entry p.stk
  { g with
    stack := g.stack.drop p.stk
    paths := g.paths.put i { p with stk := if e.nextv then e.next else 0, stkv := e.nextv } }
/-- A new arm, its entry on top of its stack. -/
def Path.asArm (p : Path) (e partner : Nat) : Path := { p with arm := true, stk := e, stkv := true, partner := partner }

/-- BRD by path `i` on mask `m` (spec/05 R124): the group after it, or nothing where the stack is full. -/
def Group.brd (g : Group) (i : Nat) (m target fall : Dword) : Option Group :=
  let p := g.path i
  let t := p.mask &&& m
  let n := p.mask &&& ~~~m
  if n = 0 then some { g with paths := g.paths.put i (p.goOn p.mask target) }
  else if t = 0 then some { g with paths := g.paths.put i (p.goOn p.mask fall) }
  else
    let ts := slicesWithin p.mask t
    let ns := slicesWithin p.mask n
    let x := p.mask &&& ~~~(ts ||| ns)
    let need := (if ts = 0 then 0 else 1) + (if ns = 0 then 0 else 1) + (if x = 0 then 0 else 2) - 1
    let room := decide (need ≤ g.paths.frees Config.pathSlots) && (x == 0 || (g.stack.free Config.stackSlots).isSome)
    if !p.arm && !p.stkv && room then
      if x = 0 then
        let g := g.newPath (p.fork ts target)
        some { g with paths := g.paths.put i (p.goOn ns fall) }
      else
        let e := (g.stack.free Config.stackSlots).getD 0
        let pair : StackEntry := { StackEntry.none with rmask := x, fmt := p.th.fmt, kind := true }
        let g := { g with stack := g.stack.put e pair }
        let g := if ts = 0 then g else g.newPath (p.fork ts target)
        let g := if ns = 0 then g else g.newPath (p.fork ns fall)
        let a := g.nextPath
        let g := g.newPath ((p.fork (x &&& t) target).asArm e i)
        some { g with paths := g.paths.put i ((p.goOn (x &&& n) fall).asArm e a) }
    else if (g.stack.free Config.stackSlots).isNone then none
    else
      let g := g.push i { StackEntry.none with rmask := p.mask, pmask := n, ppc := fall, fmt := p.th.fmt }
      some { g with paths := g.paths.put i ((g.path i).goOn t target) }

/-- The partner of arm `i`, where its entry is still the other arm of the pair. -/
def Group.partnerOf (g : Group) (i : Nat) : Option Path :=
  match g.paths.find (g.path i).partner with
  | some q => if q.arm && q.partner == i then some q else .none
  | .none => .none

/-- Two arms at one JOIN merge into the lower entry; one arm whose partner's entry was freed keeps its own (spec/05 R125,
notes/assumptions/70.md). -/
def Group.merge (g : Group) (i : Nat) (q : Option Path) (j : Dword) : Group :=
  let p := g.path i
  let k := match q with
    | some _ => min i p.partner
    | .none => i
  let other := if k = i then p.partner else i
  let e := g.entry p.stk
  let m := g.path k
  let mask := p.mask ||| (match q with
    | some r => r.mask
    | .none => 0)
  let th := m.th.restart (j + 4)
  let m := { m with mask := mask, arm := false, partner := 0, th := { th with fmt := e.fmt },
                    stk := if e.nextv then e.next else 0, stkv := e.nextv }
  let paths := if q.isSome then g.paths.drop other else g.paths
  { g with stack := g.stack.drop p.stk, paths := paths.put k m }

/-- What a path finds at JOIN. -/
inductive JoinResult where
  /-- the path goes on -/
  | ok (g : Group)
  /-- join mismatch, for these path indices -/
  | mismatch (who : List Nat)

/-- JOIN by path `i` at address `j` (spec/05 R125). -/
def Group.join (g : Group) (i : Nat) (j : Dword) : JoinResult :=
  let p := g.path i
  let e := g.entry p.stk
  if p.stkv && !e.kind then
    if !e.half then
      let p' := { p.goOn e.pmask e.ppc with th := { (p.th.restart e.ppc) with fmt := e.fmt } }
      .ok { g with stack := g.stack.put p.stk { e with ppc := j, half := true, pmask := 0 }, paths := g.paths.put i p' }
    else if !e.nochk && j != e.ppc then .mismatch [i]
    else
      let g := g.pop i
      let p := g.path i
      .ok { g with paths := g.paths.put i { p with mask := e.rmask, th := { (p.th.restart (j + 4)) with fmt := e.fmt } } }
  else if p.arm then
    match g.partnerOf i with
    | .none => .ok (g.merge i .none j)
    | some q =>
      if q.th.state == .atJoin then
        if q.th.pc == j && q.wb == p.wb then .ok (g.merge i (some q) j) else .mismatch [i, p.partner]
      else .ok { g with paths := g.paths.put i { p with th := { (p.th.restart j) with state := .atJoin } } }
  else .ok { g with paths := g.paths.put i (p.goOn p.mask (j + 4)) }

/-- Lanes `x` taken out of RMASK in the entries of a stack from `e` down, `n` at most. -/
def Group.unmask : Nat → Group → Nat → Dword → Group
  | 0, g, _, _ => g
  | n + 1, g, e, x =>
    let t := g.entry e
    let g := { g with stack := g.stack.put e { t with rmask := t.rmask &&& ~~~x } }
    if t.nextv then unmask n g t.next x else g

/-- Path `i` has no lanes: the table of spec/05 R126, applied until it rests. -/
def Group.emptied : Nat → Group → Nat → Group
  | 0, g, _ => g
  | n + 1, g, i =>
    let p := g.path i
    let e := g.entry p.stk
    if p.stkv && !e.kind then
      if !e.half then
        { g with
          stack := g.stack.put p.stk { e with half := true, nochk := true, pmask := 0 }
          paths := g.paths.put i (p.goOn e.pmask e.ppc) }
      else
        let g := g.pop i
        let p := g.path i
        let p' := { p with mask := e.rmask, th := { (p.th.restart (e.ppc + 4)) with fmt := e.fmt } }
        let g := { g with paths := g.paths.put i p' }
        if e.rmask = 0 then emptied n g i else g
    else if p.arm then
      match g.partnerOf i with
      | .none => { g with stack := g.stack.drop p.stk, paths := g.paths.drop i }
      | some q =>
        let k := p.partner
        let g := { g with paths := g.paths.drop i }
        if q.th.state == .atJoin then g.merge k .none q.th.pc else g
    else { g with paths := g.paths.drop i }

/-- Lanes `x` of path `i` become idle; what remains of the path goes on at `next` (spec/05 R126). -/
def Group.makeIdle (g : Group) (i : Nat) (x next : Dword) : Group :=
  let p := g.path i
  let g := { g with idle := g.idle ||| x }
  let g := if p.stkv then g.unmask Config.stackSlots p.stk x else g
  let g := { g with paths := g.paths.put i (p.goOn (p.mask &&& ~~~x) next) }
  if p.mask &&& ~~~x = 0 then g.emptied (Config.stackSlots + 1) i else g

/-- The paths that stand at REGANG. -/
def Group.atRegang (g : Group) : List (Nat × Path) := g.paths.cells.filter fun c => c.2.th.state == .atRegang
/-- Do the paths at REGANG together hold every live lane of the group (spec/05 R127)? -/
def Group.regangFull (g : Group) : Bool :=
  let all := g.atRegang.foldl (fun a c => a ||| c.2.mask) 0
  !g.atRegang.isEmpty && g.live &&& ~~~all == 0
/-- May the paths at REGANG merge: one address and one WB, none an arm or with a stack (spec/05 R127)? -/
def Group.regangAgree (g : Group) : Bool :=
  match g.atRegang with
  | [] => false
  | (_, p) :: r => r.all fun c => c.2.th.pc == p.th.pc && c.2.wb == p.wb
/-- The merge of the paths at REGANG into the lowest-indexed entry. -/
def Group.regangMerge (g : Group) : Group :=
  match g.atRegang with
  | [] => g
  | (k, p) :: r =>
    let all := r.foldl (fun a c => a ||| c.2.mask) p.mask
    let paths := r.foldl (fun t c => t.drop c.1) g.paths
    { g with paths := paths.put k (p.goOn all (p.th.pc + 4)) }

/-- The paths at REGANG merge, or each takes the fault, once they hold every live lane (spec/05 R127). -/
def State.regangCheck (s : State) (c g : Nat) : State :=
  let k := s.group c g
  if !k.regangFull then s
  else if k.regangAgree then s.onGroup c g Group.regangMerge
  else k.atRegang.foldl (fun s p => s.faultUnit (.path c g p.1) (fltD 0x28 2)) s

/-- Lanes `x` of a path become idle, and whoever waited for them at REGANG is served; the path goes on at `next`
(spec/05 R126). -/
def State.idleLanes (s : State) (u : UnitId) (x next : Dword) : State :=
  match u with
  | .path c g i =>
    let s := if s.maskOf u &&& ~~~x = 0 then s.dropOut u none else s
    let s := (s.commit u).leave u
    (s.onGroup c g fun k => k.makeIdle i x next).regangCheck c g
  | _ => s

end Sys2Proof.Machine
end

