-- ==== Sys2Proof/Machine/Window.lean ====
section
/-! DEFINITION. Register windows: the resident ring, the spill engine, CALL and RET's window moves, GROW
(spec/05 R130 to R133, spec/08 R195 to R197). -/
namespace Sys2Proof.Machine

/-- Groups of a team of the kernel (spec/05 R117). -/
def kernelGroups (k : Kernel) : Nat := if k.roles.isEmpty then 1 else k.roles.foldl (fun a r => a + r.groups) 0
/-- The grid of number `gid`. -/
def State.grid (s : State) (gid : Nat) : Grid := s.grids.get gid .none
/-- sys.spillbase of a team: SPILL + 4096 × G × W × team, or 0 with no spill area (spec/05 R132). -/
def State.spillBase (s : State) (t : Team) : Nat :=
  let g := s.grid t.grid
  if g.spill = 0 then 0 else g.spill + 4096 * kernelGroups g.kernel * g.kernel.width * t.number
/-- LO after the least move that makes the window at `wb` resident in a ring of `a` registers from `lo` (spec/05 R132). -/
def moveLo (a lo wb : Nat) : Nat := if lo + a < wb + 48 then wb + 48 - a else if wb < lo then wb else lo
/-- Lanes of the group at a path's window base whose window is not resident. -/
def Group.unresident (g : Group) (m : Dword) (wb : Nat) : List Nat :=
  m.lanes.filter fun l => moveLo g.alloc (g.los.get l 0) wb != g.los.get l 0
/-- Would the window at `wb` need a spill in some lane of the mask? -/
def Group.needsSpill (g : Group) (m : Dword) (wb : Nat) : Bool :=
  m.lanes.any fun l => decide (g.los.get l 0 < moveLo g.alloc (g.los.get l 0) wb)

/-- The mark of a path that waits for the spill engine. -/
def spillMark (u : UnitId) : Wait := { instr := .spillFill u, lo := 0 }
/-- A path whose window is not wholly resident takes STATE spill or fill (spec/05 R132). -/
def State.checkWindow (s : State) (u : UnitId) : State :=
  if ((s.groupOf u).unresident (s.maskOf u) (s.pathOf u).wb).isEmpty then s
  else s.onThread u fun t => { t with state := .spill, wait := some (spillMark u) }

/-- One access of the spill engine: lane, logical register, and whether it writes. -/
structure SpillAccess where
  lane : Nat
  reg : Nat
  write : Bool
  deriving DecidableEq, Repr

/-- What the spill engine does for lane `l` to move LO from `lo` to `lo'` in a ring of `a`, where registers below `top` above
the ring hold spilled values (spec/05 R132). -/
def spillPlan (l a lo lo' top : Nat) : List SpillAccess :=
  let regs (from_ n : Nat) : List Nat := (List.range n).map (from_ + ·)
  if lo < lo' then
    (regs lo (lo' - lo)).map (fun k => { lane := l, reg := k, write := true }) ++
      ((regs (lo + a) (lo' - lo)).filter fun k => decide (k < top)).map fun k => { lane := l, reg := k, write := false }
  else
    ((regs (lo' + a) (lo - lo')).filter fun k => decide (k < 1024)).map (fun k => { lane := l, reg := k, write := true }) ++
      (regs lo' (lo - lo')).map fun k => { lane := l, reg := k, write := false }

/-- The address of a logical register in a lane's spill area. -/
def State.spillAddr (s : State) (c g : Nat) (x : SpillAccess) : Dword :=
  let k := s.group c g
  let t := s.team c k.team
  BitVec.ofNat 64 (s.spillBase t + 4096 * (k.number * k.width + x.lane) + 4 * x.reg)
/-- The translation of a spill access. -/
def State.spillXlat (s : State) (c g : Nat) (x : SpillAccess) : Except Flt Xlat :=
  s.translate c (s.team c (s.group c g).team).ctx (s.spillAddr c g x) (if x.write then .store else .load)
/-- The faults of spill accesses, one for each lane. -/
def State.spillFaults (s : State) (c g : Nat) (xs : List SpillAccess) : List (Nat × Flt) :=
  xs.foldl (fun fs x =>
    if fs.any fun y => y.1 == x.lane then fs else
    match s.spillXlat c g x with
    | .error f => fs ++ [(x.lane, f)]
    | .ok t =>
      if !x.write && s.poisonedFor c (t.at_ c) 4 (effPol t 2) then fs ++ [(x.lane, poisonAt .load (s.spillAddr c g x))] else fs) []
/-- A lane of a group as the source of an access that the spill engine makes for it (spec/05 R132). -/
def laneOf (c g l : Nat) : Who := { node := c, grp := g, lanes := Dword.bit l, lane := some l }
/-- A spill access made: the register to memory, or from it. -/
def State.spillOne (s : State) (c g : Nat) (x : SpillAccess) : State :=
  match s.spillXlat c g x with
  | .error _ => s
  | .ok t =>
    let ctx := (s.team c (s.group c g).team).ctx
    let key := vSlot x.lane (16 + x.reg)
    let va := s.spillAddr c g x
    if x.write then
      (s.useLeaf c ctx va t .store).storeAt (laneOf c g x.lane) t (natLe 4 ((s.group c g).vregs.get key 0).toNat) 2 0
    else
      let v := BitVec.ofNat 32 (leNat (s.seeAt c t 4 2 false))
      (((s.useLeaf c ctx va t .load).fillAt c t 4 2 false).noteRead (laneOf c g x.lane) (t.at_ c) 4).onGroup c g fun k => { k with vregs := k.vregs.put key v }

/-- A path parks whole at its place for NOTPRESENT faults of some of its lanes (spec/01 R37). -/
def State.parkWhole (s : State) (u : UnitId) (fs : List (Nat × Flt)) : State :=
  let ctx := s.ctxOf u
  let recs := laneRecords (s.place u) 0 fs
  let park : Park := { mask := lanesMask fs, pc := (s.thread u).pc,
                       addr := (fs.head?.map fun x => x.2.addr).getD 0, seqs := s.nextSeqs ctx recs.length }
  (s.onThread u fun t => { t with state := .parked, park := some park }).report u.node ctx recs (some (.unit u)) none

/-- SPILL_FILL: the spill engine makes the window of path `i` resident and sets it ready, or its access faults
(spec/05 R132). -/
def State.spillFill (s : State) (c g i : Nat) : State :=
  let u := UnitId.path c g i
  if (s.thread u).state != .spill then s else
  let k := s.group c g
  let wb := (s.pathOf u).wb
  let lanes := k.unresident (s.maskOf u) wb
  let dest (l : Nat) : Nat := moveLo k.alloc (k.los.get l 0) wb
  let plan := lanes.flatMap fun l => spillPlan l k.alloc (k.los.get l 0) (dest l) (k.spilled.get l 0)
  let fs := s.spillFaults c g plan
  if fs.any fun x => x.2.cause != 0 then s.faultLanes c g i fs
  else if !fs.isEmpty then s.parkWhole u fs
  else
    let s := plan.foldl (fun s x => s.spillOne c g x) s
    let s := s.onGroup c g fun k =>
      { k with
        spilled := lanes.foldl (fun t l =>
          if dest l < k.los.get l 0 then t.put l (max (t.get l 0) (min 1024 (k.los.get l 0 + k.alloc))) else t) k.spilled
        los := lanes.foldl (fun t l => t.put l (dest l)) k.los }
    s.onThread u fun t => { t with state := .ready, wait := none }

/-- Physical lane registers in use on a core: 16 + A for every lane of each resident group; a retired group holds none
(spec/02 R45). -/
def Core.regsUsed (c : Core) : Nat :=
  c.groups.cells.foldl (fun a g => if g.2.retired then a else a + g.2.width * (16 + g.2.alloc)) 0

/-- The size that a thread waits for in GROW. -/
def Thread.growAsk (t : Thread) : Option Nat := match t.state, t.wait with
  | .waiting, some w => match w.instr with
    | .grow _ => some w.lo
    | _ => none
  | _, _ => none
/-- The largest size that a path of the group still waits for. -/
def Group.growMost (g : Group) : Option Nat :=
  g.paths.cells.foldl (fun a p => match p.2.th.growAsk with
    | some n => some (max n (a.getD 0))
    | .none => a) .none
/-- What a fill for a group's GROW has met, given to its waiting paths: each takes the faults of its own lanes, and the first those of
lanes that stand in no waiting path (notes/assumptions/62.md). -/
def growShare (waits : List (Nat × Path)) (fs : List (Nat × Flt)) : List (Nat × List (Nat × Flt)) :=
  let held (l : Nat) : Bool := waits.any fun w => w.2.mask.getLsbD l
  waits.map fun w =>
    let own := fs.filter fun x => w.2.mask.getLsbD x.1
    let first := (waits.head?.map (·.1)) == some w.1
    (w.1, if first && own.isEmpty then
        match fs.filter fun x => !held x.1 with
        | x :: _ => w.2.mask.lanes.map fun l => (l, x.2)
        | [] => []
      else own)
/-- A path waiting in GROW meets faults of the fill: NOTPRESENT alone parks it whole at the start of its run, anything else is a trap
of the lanes that faulted (spec/01 R37, spec/05 R132, R135). -/
def State.growFault (s : State) (c g i : Nat) (fs : List (Nat × Flt)) : State :=
  if fs.isEmpty then s
  else if fs.any fun x => x.2.cause != 0 then s.faultLanes c g i fs
  else
    let u := UnitId.path c g i
    (s.parkWhole u fs).onThread u fun t => { t.restart t.runpc with state := .parked }
/-- GROW_GRANT: a group's request is granted once the core's free registers cover it; new registers that hold spilled values
are filled (spec/05 R133). Its waiting paths whose own request is met go on. Where the fill meets a fault nothing is granted. -/
def State.growGrant (s : State) (c g : Nat) : State :=
  let k := s.group c g
  match k.growReq with
  | none => s
  | some a =>
    if a ≤ k.alloc ∨ Config.laneRegs < (s.core c).regsUsed + k.width * (a - k.alloc) then s else
    let plan : List SpillAccess := (List.range k.width).flatMap fun l =>
      let lo := k.los.get l 0
      ((List.range (a - k.alloc)).map (lo + k.alloc + ·)).filterMap fun r =>
        if r < k.spilled.get l 0 then some { lane := l, reg := r, write := false } else none
    let waits := k.paths.cells.filter fun p => p.2.th.growAsk.isSome
    let fs := s.spillFaults c g plan
    if !fs.isEmpty then
      let s := (growShare waits fs).foldl (fun s x => s.growFault c g x.1 x.2) s
      s.onGroup c g fun k => { k with growReq := k.growMost }
    else
      let s := plan.foldl (fun s x => s.spillOne c g x) s
      let s := s.onGroup c g fun k => { k with alloc := a, growReq := none }
      waits.foldl (fun s p =>
        let u := UnitId.path c g p.1
        if p.2.th.growAsk.getD 0 ≤ a then s.doneG u (((p.2.th.wait.map (·.instr))).getD (.grow { b := 0, a := 0, d := 0, k := false })) else s) s

/-- A window move of a compute path to base `wb` and address `pc`, with the spill or fill it needs (spec/05 R131, R132). -/
def State.moveWindow (s : State) (u : UnitId) (wb : Nat) (pc : Dword) : State :=
  let s := s.commit u
  let s := (s.onThread u fun t => { t with run := .fresh }).onPathOf u fun p => { p with wb := wb }
  (s.jump u pc).checkWindow u

/-- STACK-OVERFLOW (spec/05 R131). -/
def stackOverflow : Flt := fltD 0x2A 0
/-- STACK-UNDERFLOW (spec/05 R131). -/
def stackUnderflow : Flt := fltD 0x2B 0

end Sys2Proof.Machine
end

