-- ==== Sys2Proof/Machine/Choice.lean ====
section
/-! DEFINITION. Choice vectors: the draw function, binding, draws, results, mutation and the acceptance step
(spec/12 R269 to R284, spec/06 R152, R153). -/
namespace Sys2Proof.Machine

/-! Plain accesses made one after another by a party, all or none of which count (spec/04 R96, spec/15 R326). -/

/-- A plain read of `n` bytes by party `nd` in context `ctx`: its bytes and what it leaves, or its fault. -/
def State.plainLoad (s : State) (nd : Who) (ctx : Nat) (va : Dword) (n : Nat) : Except Flt (List Byte × State) :=
  (pieces 65536 va.toNat n).foldl (fun acc p => do
    let (bs, s) ← acc
    let a : Dword := BitVec.ofNat 64 p.1
    let x ← s.translate nd.node ctx a .load
    if s.poisonedFor nd.node (x.at_ nd.node) p.2 (effPol x 2) then throw (poisonAt .load a)
    pure (bs ++ (s.readBy nd x p.2 2 false).1, ((s.useLeaf nd.node ctx a x .load).readBy nd x p.2 2 false).2)) (pure ([], s))
/-- A plain write by a party. -/
def State.plainStore (s : State) (nd : Who) (ctx : Nat) (va : Dword) (bs : List Byte) : Except Flt State :=
  (pieces 65536 va.toNat bs.length).foldl (fun acc p => do
    let s ← acc
    let a : Dword := BitVec.ofNat 64 p.1
    let x ← s.translate nd.node ctx a .store
    pure ((s.useLeaf nd.node ctx a x .store).storeAt nd x ((bs.drop (p.1 - va.toNat)).take p.2) 2 0)) (pure s)
/-- 64-bit words read. -/
def State.plainWords (s : State) (nd : Who) (ctx : Nat) (va : Dword) (n : Nat) : Except Flt (List Dword × State) := do
  let (bs, s) ← s.plainLoad nd ctx va (8 * n)
  pure (dwordsOfBytes n bs, s)

/-- `body` for each lane of a mask in ascending order: the state, the values, and the faults of the lanes it failed for,
which leave nothing. -/
def State.laneRun (s : State) (lanes : List Nat) (body : State → Nat → Except Flt (State × Dword)) :
    State × List (Nat × Dword) × List (Nat × Flt) :=
  lanes.foldl (fun a l => match body a.1 l with
    | .ok r => (r.1, a.2.1 ++ [(l, r.2)], a.2.2)
    | .error f => (a.1, a.2.1, a.2.2 ++ [(l, f)])) (s, [], [])
/-- An instruction whose lanes perform `body` one after the other; lanes that fault perform nothing (spec/12 R272). -/
def State.laneSeq (s : State) (u : UnitId) (body : State → Nat → Except Flt (State × Dword))
    (fin : State → List (Nat × Dword) → State) : State :=
  let fs := (s.laneRun (s.maskOf u).lanes body).2.2
  s.withFaults u fs fun s =>
    let r := s.laneRun ((s.maskOf u).lanes.filter fun l => !(fs.any fun x => x.1 == l)) body
    fin r.1 r.2.1

/-! The vector in memory. -/

/-- The choice-vector fault with its cause number (spec/12 R272). -/
def cvFault (cause : Nat) : Flt := fltD 0x14 cause
/-- A header's bytes 0 to 127 (spec/12 R269). -/
structure CvHeader where
  words : List Dword
  lens : List Nat
  deriving DecidableEq, Repr
/-- RPL. -/
def CvHeader.rpl (h : CvHeader) : Bool := (wordAt h.words 1).getLsbD 1
/-- NSTR. -/
def CvHeader.nstr (h : CvHeader) : Nat := fld (wordAt h.words 1) 2 5
/-- CAP. -/
def CvHeader.cap (h : CvHeader) : Nat := fld (wordAt h.words 1) 8 16 + 1
/-- SERIAL. -/
def CvHeader.serial (h : CvHeader) : Word := (wordAt h.words 1).extractLsb' 32 32
/-- RESULT. -/
def CvHeader.result (h : CvHeader) : Word := (wordAt h.words 2).setWidth 32
/-- RV. -/
def CvHeader.rv (h : CvHeader) : Bool := (wordAt h.words 2).getLsbD 32
/-- LEN[s]. -/
def CvHeader.len (h : CvHeader) (s : Nat) : Nat := h.lens.getD s 0
/-- Is a header well formed (spec/12 R269)? -/
def CvHeader.ok (h : CvHeader) : Bool :=
  let w1 := wordAt h.words 1
  w1.getLsbD 0 && decide (1 ≤ h.nstr) && decide (h.nstr ≤ 16) && !w1.getLsbD 7 && fld w1 24 8 == 0 &&
    fld (wordAt h.words 2) 33 31 == 0 && wordAt h.words 3 == 0 &&
    (List.range 4).all (fun k => wordAt h.words (12 + k) == 0) &&
    (List.range 16).all fun s => decide (h.len s < 2 ^ 17) && (if s < h.nstr then decide (h.len s ≤ h.cap) else h.len s == 0)
/-- A header from its words. -/
def cvHeaderOf (ws : List Dword) : CvHeader :=
  { words := ws, lens := (List.range 16).map fun s => fld (wordAt ws (4 + s / 2)) (32 * (s % 2)) 32 }
/-- A header read and checked by a party. -/
def State.cvHeader (s : State) (nd : Who) (ctx : Nat) (p : Dword) : Except Flt (CvHeader × State) := do
  if p.toNat % 128 != 0 then throw (cvFault 1)
  let (ws, s) ← s.plainWords nd ctx p 16
  let h := cvHeaderOf ws
  if h.ok then pure (h, s) else throw (cvFault 1)
/-- The address of entry i of stream st. -/
def cvEntryAt (p : Dword) (cap st i : Nat) : Dword := p + BitVec.ofNat 64 (128 + 4 * (cap * st + i))
/-- An entry from VAL, USED and ORG (spec/12 R270). -/
def cvEntry (val : Nat) (used : Bool) (org : Nat) : List Byte :=
  natLe 4 (val % 2 ^ 24 + (if used then 2 ^ 24 else 0) + org % 4 * 2 ^ 25)
/-- VAL of an entry. -/
def entVal (e : Nat) : Nat := e % 2 ^ 24
/-- ORG of an entry. -/
def entOrg (e : Nat) : Nat := e / 2 ^ 25 % 4

/-- The rounds of D that are left, from round i (spec/06 R153). -/
def drawRounds : Nat → Nat → Nat → Nat → Nat → Nat → Nat
  | 0, _, a, b, _, _ => (a ^^^ b) / 256
  | n + 1, i, a, b, k0, k1 =>
    let p := a * 0xC8A13E5B
    let kx := if i % 2 = 0 then k0 else k1
    let a' := (p / 2 ^ 32) ^^^ b ^^^ kx
    let b' := p % 2 ^ 32
    if i % 2 = 1 then drawRounds n (i + 1) a' b' ((k0 + 0x6F4A2D93) % 2 ^ 32) ((k1 + 0x3B1C7E65) % 2 ^ 32)
    else drawRounds n (i + 1) a' b' k0 k1
/-- D(key, stream, index) (spec/06 R153). -/
def drawOf (key : Dword) (stream index : Nat) : Nat :=
  drawRounds 10 0 (stream * 2 ^ 16 ||| index) 0x51D70C29 (key.toNat % 2 ^ 32) (key.toNat / 2 ^ 32)
/-- A draw as a lane result: k, or k × 2^-24 in FP32 (spec/12 R274). -/
def drawResult (k m : Nat) : Dword := if m = 4 then (rnInt k (-24)).setWidth 64 else BitVec.ofNat 64 k

/-! Binding. -/

/-- The new LEN fields that cvend writes: the cursors, in replay mode not below what is held (spec/12 R276). -/
def Binding.lens (b : Binding) (old : List Byte) : List Byte :=
  (List.range b.nstr).flatMap fun st =>
    let c := b.cur.get st 0
    natLe 4 (if b.mode then max (leNat ((old.drop (4 * st)).take 4) % 2 ^ 17) c else c)
/-- The memory part of cvend for a binding. -/
def State.cvLens (s : State) (nd : Who) (ctx : Nat) (b : Binding) : Except Flt State := do
  let n := 4 * b.nstr
  let (old, s) ← if b.mode then s.plainLoad nd ctx (b.ptr + 32) n else pure ([], s)
  s.plainStore nd ctx (b.ptr + 32) (b.lens old)
/-- cvend(l) (spec/12 R276). -/
def State.cvend (s : State) (u : UnitId) (l : Nat) : Except Flt State := do
  let b := s.bindOf u l
  if !b.bound then pure s else
  let s ← s.cvLens (s.laneWho u l) (s.ctxOf u) b
  pure (s.bindPut u l { b with bound := false })
/-- The record of the list that launched lane `l`, where REPLAY did (spec/12 R282). -/
def State.replayRec (s : State) (u : UnitId) (l : Nat) : Option (List Dword) :=
  match (s.grid (s.gridOf u)).replay, (s.groupOf u).replayIdx.find l with
  | some r, some k => r.recs[k]?
  | _, _ => none
/-- The vector address that CVBIND takes for a lane. -/
def State.bindAddr (s : State) (u : UnitId) (a l : Nat) : Dword :=
  match (s.bindOf u l).ever, s.replayRec u l with
  | false, some r => wordAt r 3 &&& 0xFFFFFFFFFFFFFF
  | _, _ => s.srcL u a l 64
/-- CVBIND for one lane (spec/12 R273). -/
def State.bindLane (f : LA) (u : UnitId) (s : State) (l : Nat) : Except Flt (State × Dword) := do
  let key := s.srcL u f.b.toNat l 64
  let p := s.bindAddr u f.a.toNat l
  let s ← s.cvend u l
  let (h, s) ← s.cvHeader (s.laneWho u l) (s.ctxOf u) p
  let base : Binding :=
    { bound := true, ptr := p, mode := h.rpl, key := wordAt h.words 0, ser := h.serial, nstr := h.nstr, cap := h.cap,
      cur := .empty, result := 0, rv := false, ever := true }
  if h.rpl then pure (s.bindPut u l base, 0) else
  let s ← s.plainStore (s.laneWho u l) (s.ctxOf u) p (bytesOfDwords [key])
  let s ← s.plainStore (s.laneWho u l) (s.ctxOf u) (p + 12) (List.replicate 12 0)
  pure (s.bindPut u l { base with key := key, ser := 0 }, 0)
/-- A lane that faults at CVBIND keeps no binding: its old one has been ended; where those writes were what faulted, NOTPRESENT
leaves it to be ended on RETRY, and any other fault drops it (spec/12 R273, notes/assumptions/64.md). -/
def State.unbindFaulted (s : State) (u : UnitId) (l : Nat) : State :=
  let drop (s' : State) : State :=
    s'.onGroupOf u fun g => { g with binds := g.binds.put l { s.bindOf u l with bound := false } }
  match s.cvend u l with
  | .ok s' => drop s'
  | .error f => if f.cause = 0 then s else drop s
/-- Lanes bound one after the other: what they leave, and the faults of those that end unbound. -/
def State.bindRun (f : LA) (u : UnitId) (s : State) (lanes : List Nat) : State × List (Nat × Flt) :=
  lanes.foldl (fun a l => match State.bindLane f u a.1 l with
    | .ok r => (r.1, a.2)
    | .error e => (a.1.unbindFaulted u l, a.2 ++ [(l, e)])) (s, [])
/-- CVBIND (spec/12 R273): the lanes that fault take their faults once; their old bindings have been ended, and the others bind. -/
def execCvbind (f : LA) (s : State) : Answer :=
  issue (.cvbind f) s fun u s =>
    let fs := (State.bindRun f u s (s.maskOf u).lanes).2
    let s := fs.foldl (fun s x => s.unbindFaulted u x.1) s
    s.withFaults u fs fun s =>
      (State.bindRun f u s ((s.maskOf u).lanes.filter fun l => !(fs.any fun x => x.1 == l))).1.doneL u (.cvbind f)

/-! Drawing. -/

/-- One draw from stream `st` of lane l's vector (spec/12 R274): it reads the entry only where it uses its VAL
(notes/assumptions/82.md). -/
def State.drawLane (s : State) (u : UnitId) (l st : Nat) : Except Flt (State × Nat) := do
  let b := s.bindOf u l
  if !b.bound then throw (cvFault 0)
  if b.nstr ≤ st then throw (cvFault 2)
  let i := b.cur.get st 0
  if i = b.cap then throw (cvFault 3)
  let nd := s.laneWho u l
  let ctx := s.ctxOf u
  let a := cvEntryAt b.ptr b.cap st i
  let (k, org, s) ←
    if !b.mode then pure (drawOf b.key st i, 0, s) else do
      let (lb, s) ← s.plainLoad nd ctx (b.ptr + BitVec.ofNat 64 (32 + 4 * st)) 4
      if i < leNat lb % 2 ^ 17 then
        let (e, s) ← s.plainLoad nd ctx a 4
        pure (entVal (leNat e), entOrg (leNat e), s)
      else pure (drawOf (b.key ^^^ b.ser.setWidth 64) st i, 2, s)
  let s ← s.plainStore nd ctx a (cvEntry k true org)
  pure (s.bindPut u l { b with cur := b.cur.put st (i + 1) }, k)
/-- DRAW (spec/12 R274). -/
def execDraw (f : LA) (s : State) : Answer :=
  issue (.draw f) s fun u s =>
    if f.k then s.faultUnit u illegalOperand else
    s.laneSeq u (fun s l => do
      let (s, k) ← s.drawLane u l f.b.toNat
      pure (s, drawResult k f.m.toNat)) fun s vals => s.doneV u (.draw f) f.d.toNat false 32 { cells := vals }
/-- DRAWK (spec/12 R275). -/
def execDrawk (f : LA) (s : State) : Answer :=
  laneOp (.drawk f) f.d.toNat f.k 32 (fun s u l =>
    let w := s.srcL u f.b.toNat l 32
    (drawResult (drawOf (s.srcL u f.a.toNat l 64) (fld w 16 4) (fld w 0 16)) f.m.toNat, 0)) s
/-- Bits that CVCUR reads with b = 16. -/
def Binding.status (b : Binding) : Nat := cond b.bound 1 0 + cond b.mode 1 0 * 2 + b.nstr * 4
/-- CVCUR (spec/12 R275). -/
def execCvcur (f : LA) (s : State) : Answer :=
  issue (.cvcur f) s fun u s =>
    s.laneSeq u (fun s l =>
      let b := s.bindOf u l
      if f.b = 16 then pure (s, BitVec.ofNat 64 b.status)
      else if b.bound then pure (s, BitVec.ofNat 64 (b.cur.get f.b.toNat 0))
      else throw (cvFault 0)) fun s vals => s.doneV u (.cvcur f) f.d.toNat f.k 32 { cells := vals }
/-- RESULT (spec/12 R276). -/
def execResult (f : LA) (s : State) : Answer :=
  issue (.result f) s fun u s =>
    s.laneSeq u (fun s l => do
      let b := s.bindOf u l
      if !b.bound then throw (cvFault 0)
      let v := (s.srcL u f.a.toNat l 32).setWidth 32
      let s ← s.plainStore (s.laneWho u l) (s.ctxOf u) (b.ptr + 16) (natLe 8 (v.toNat + 2 ^ 32))
      pure (s.bindPut u l { b with result := v, rv := true }, 0)) fun s _ => s.doneL u (.result f)
/-- CVEND on a compute path, a G-form instruction: a fault of one lane's writes is taken by every lane of the path, NOTPRESENT only
where no other was met (spec/15 R326, spec/01 R36). -/
def State.cvendPath (s : State) (u : UnitId) (i : Instr) : State :=
  let lanes := (s.maskOf u).lanes
  let r := s.laneRun lanes fun s l => do pure (← s.cvend u l, 0)
  let fs := if r.2.2.any fun x => x.2.cause != 0 then r.2.2.filter fun x => x.2.cause != 0 else r.2.2
  match fs with
  | [] => r.1.doneG u i
  | (_, f) :: _ => s.withFaults u (lanes.map fun l => (l, ((fs.find? fun x => x.1 == l).map (·.2)).getD f)) fun s => s
/-- CVEND (spec/12 R276). -/
def execCvend (f : GA) (s : State) : Answer :=
  issue (.cvend f) s fun u s =>
    match u with
    | .path _ _ _ => s.cvendPath u (.cvend f)
    | _ => s.doneG u (.cvend f)

/-! Acceptance. -/

/-- A of RCMP (spec/12 R283). -/
def acceptRatio (fx fy : Word) : Word :=
  let x := val32 fx
  let y := val32 fy
  let zero : FloatVal := .fin (.zero false)
  if y == .nan || decide (y.cmp zero ≤ 0) then 0
  else if x == .nan || decide (x.cmp zero ≤ 0) then 0x3F800000
  else if x == .inf false then (if y == .inf false then 0x3F800000 else 0)
  else
    let r := div32 fy fx
    if (val32 r).cmp (val32 0x3F800000) < 0 then r else 0x3F800000
/-- Entries of a vector below LEN that satisfy a test. -/
def State.countEntries (s : State) (nd : Who) (ctx : Nat) (p : Dword) (h : CvHeader) (test : Nat → Bool) : Except Flt (Nat × State) :=
  (List.range h.nstr).foldl (fun acc st => do
    let (n, s) ← acc
    let (bs, s) ← s.plainLoad nd ctx (cvEntryAt p h.cap st 0) (4 * h.len st)
    pure (n + ((List.range (h.len st)).filter fun i => test (leNat ((bs.drop (4 * i)).take 4))).length, s)) (pure (0, s))
/-- RCMP for one lane (spec/12 R283); its record addresses need no alignment (notes/assumptions/81.md). -/
def State.rcmpLane (f : LA) (x : AstrX) (u : UnitId) (s : State) (l : Nat) : Except Flt (State × Dword) := do
  let nd := s.laneWho u l
  let ctx := s.ctxOf u
  let a := s.srcL u f.a.toNat l 64
  let b := s.bindOf u l
  if !b.bound then throw (cvFault 0)
  let (c, s) ← s.plainWords nd ctx a 4
  let xp := wordAt c 0 &&& 0xFFFFFFFFFFFFFF
  let yp := wordAt c 1 &&& 0xFFFFFFFFFFFFFF
  let (hx, s) ← s.cvHeader nd ctx xp
  let (hy, s) ← s.cvHeader nd ctx yp
  if !(hx.rv && hy.rv) then throw (cvFault 5)
  if b.nstr ≤ x.astr.toNat then throw (cvFault 2)
  let ratio := acceptRatio hx.result hy.result
  let (unused, s) ← s.countEntries nd ctx yp hy fun e => !e.testBit 24
  let (fresh, s) ← s.countEntries nd ctx yp hy fun e => entOrg e == 2
  let (s, k) ← s.drawLane u l x.astr.toNat
  let acc := decide ((FloatVal.fin (.ofInt k (-24))).cmp (val32 ratio) < 0)
  let ncmp := fld (wordAt c 3) 0 32
  let cr := (wordAt c 2 &&& 0xFFFFFFFFFFFFFF) + BitVec.ofNat 64 (32 * ncmp)
  let s ← s.plainStore nd ctx cr (bytesOfDwords
    [hy.result ++ hx.result, packD [(ratio.toNat, 0), (k, 32), (cond acc 1 0, 56)],
     packD [(unused % 2 ^ 32, 0), (fresh % 2 ^ 32, 32)], hy.serial.setWidth 64])
  let s ← s.plainStore nd ctx (a + 24) (natLe 4 (ncmp + 1))
  let s ← if acc then s.plainStore nd ctx a (bytesOfDwords [wordAt c 1, wordAt c 0]) else pure s
  pure (s, BitVec.ofNat 64 (cond acc 1 0))
/-- RCMP. -/
def execRcmp (f : LA) (x : AstrX) (s : State) : Answer :=
  issue (.rcmp f x) s fun u s =>
    if f.k then s.faultUnit u illegalOperand else
    s.laneSeq u (State.rcmpLane f x u) fun s vals => s.doneV u (.rcmp f x) f.d.toNat false 32 { cells := vals }

/-! Mutation. -/

/-- The entries of every stream of a vector, below LEN. -/
def State.readStreams (s : State) (nd : Who) (ctx : Nat) (p : Dword) (h : CvHeader) : Except Flt (List (List Nat) × State) :=
  (List.range h.nstr).foldl (fun acc st => do
    let (l, s) ← acc
    let (bs, s) ← s.plainLoad nd ctx (cvEntryAt p h.cap st 0) (4 * h.len st)
    pure (l ++ [(List.range (h.len st)).map fun i => leNat ((bs.drop (4 * i)).take 4)], s)) (pure ([], s))
/-- An entry with another VAL, marked mutated. -/
def mutated (e val : Nat) : Nat := e % 2 ^ 25 - e % 2 ^ 24 + val % 2 ^ 24 + 2 ^ 25
/-- .perturb: list entries applied one after the other (spec/12 R279). -/
def perturb (es : List (List Nat)) (list : List Dword) : List (List Nat) :=
  list.foldl (fun es d =>
    let st := fld d 24 4
    let o := fld d 32 16
    let row := es.getD st []
    let e := row.getD o 0
    es.set st (row.set o (mutated e (entVal e + fld d 0 24)))) es
/-- .shift of stream `st` by `r`. -/
def shiftStream (es : List (List Nat)) (st r : Nat) : List (List Nat) :=
  let row := es.getD st []
  es.set st ((List.range row.length).map fun i =>
    let e := row.getD ((i + r) % row.length) 0
    mutated e (entVal e))
/-- .splice at (st, p) (spec/12 R279). -/
def splice (es fs : List (List Nat)) (st p : Nat) : List (List Nat) :=
  (List.range es.length).map fun k =>
    let x := es.getD k []
    let y := fs.getD k []
    if k < st then x else if st < k then y else
    let p1 := min p x.length
    x.take p1 ++ y.drop p1
/-- The new header: that of src1 with RPL, SERIAL, RV, RESULT and LEN as given. -/
def newHeader (h : CvHeader) (serial : Nat) (lens : List Nat) : List Byte :=
  let w1 := fld (wordAt h.words 1) 0 32
  bytesOfDwords [wordAt h.words 0, packD [(w1 - w1 / 2 % 2 * 2 + 2, 0), (serial, 32)], 0, 0] ++
    ((List.range 16).flatMap fun st => natLe 4 (lens.getD st 0)) ++ List.replicate 32 0
/-- MUTATE's reads, checks and writes (spec/12 R278 to R280): src1's header is checked first, then MUTATION's causes, then src2's header
(notes/assumptions/83.md). -/
def State.mutate (s : State) (u : UnitId) (dst src desc : Dword) (kind : Nat) : Except Flt State := do
  let nd := s.whoOf u
  let ctx := s.ctxOf u
  let bad := cvFault 4
  let (d, s) ← s.plainWords nd ctx desc 4
  let (h, s) ← s.cvHeader nd ctx src
  let st := fld (wordAt d 1) 0 4
  let amt := fld (wordAt d 1) 4 17
  let p2 := wordAt d 2 &&& 0xFFFFFFFFFFFFFF
  let nl := if kind = 0 then fld (wordAt d 3) 0 16 else 0
  let size := 128 + 4 * h.cap * h.nstr
  if fld (wordAt d 0) 32 32 != 0 || fld (wordAt d 1) 21 43 != 0 || fld (wordAt d 2) 56 8 != 0 || fld (wordAt d 3) 16 48 != 0 ||
      (kind != 0 && decide (h.nstr ≤ st)) || (kind == 1 && decide (2 ^ 16 ≤ amt)) || (kind == 2 && decide (2 ^ 16 < amt)) ||
      (kind == 0 && p2.toNat % 8 != 0) || dst.toNat % 128 != 0 || overlaps dst.toNat size src.toNat size ||
      (kind == 2 && overlaps dst.toNat size p2.toNat size) || (nl != 0 && overlaps dst.toNat size p2.toNat (8 * nl)) then
    throw bad
  let (list, s) ← s.plainWords nd ctx p2 nl
  if list.any fun e => fld e 28 4 != 0 || fld e 48 16 != 0 || decide (h.nstr ≤ fld e 24 4) ||
      decide (h.len (fld e 24 4) ≤ fld e 32 16) then throw bad
  let (es, s) ← s.readStreams nd ctx src h
  let (out, s) ←
    if kind = 0 then pure (perturb es list, s)
    else if kind = 1 then pure (shiftStream es st amt, s)
    else do
      let (h2, s) ← s.cvHeader nd ctx p2
      if h2.nstr != h.nstr || h2.cap != h.cap then throw bad
      let (fs, s) ← s.readStreams nd ctx p2 h2
      pure (splice es fs st amt, s)
  let s ← s.plainStore nd ctx dst (newHeader h (fld (wordAt d 0) 0 32) (out.map (·.length)))
  (List.range out.length).foldl (fun acc k => do
    let s ← acc
    s.plainStore nd ctx (cvEntryAt dst h.cap k 0)
      ((out.getD k []).flatMap fun e => cvEntry (entVal e) false (entOrg e))) (pure s)
/-- MUTATE: a failed check or access leaves everything as it was. -/
def execMutate (f : GA) (x : MutX) (s : State) : Answer :=
  issue (.mutate f x) s fun u s =>
    match s.mutate u (s.sget u f.d.toNat) (s.srcG u f.a.toNat) (s.sget u f.b.toNat) x.kind.toNat with
    | .error e => s.faultUnit u e
    | .ok s => s.doneG u (.mutate f x)

end Sys2Proof.Machine
end

