-- ==== Sys2Proof/Machine/Late.lean ====
section
/-! DEFINITION. Accesses of the front end on the management core, and the writes that the hardware makes after a lane or a grid
has ended (spec/14 R310, R311; spec/12 R366). -/
namespace Sys2Proof.Machine

/-- A read by the front end, with t = p at home. -/
def State.frontLoad (s : State) (ctx : Nat) (va : Dword) (n : Nat) : Except Flt (List Byte × State) :=
  s.plainLoad (hardware mgmtNode) ctx va n
/-- Bytes of a translated write of the front end, at home. -/
def State.frontPut (s : State) (ctx : Nat) (va : Dword) (x : Xlat) (b : List Byte) : State :=
  let s := s.useLeaf mgmtNode ctx va x .store
  let pa := x.at_ mgmtNode
  if x.mir then s.mirrorWrite (nodeDie mgmtNode) pa b (effPol x 2) false none else s.writeHome pa b (effPol x 2)
/-- A write by the front end. -/
def State.frontStore (s : State) (ctx : Nat) (va : Dword) (bs : List Byte) : Except Flt State :=
  (pieces 64 va.toNat bs.length).foldl (fun acc p => do
    let s ← acc
    let a : Dword := BitVec.ofNat 64 p.1
    let x ← s.translate mgmtNode ctx a .store
    pure (s.frontPut ctx a x ((bs.drop (p.1 - va.toNat)).take p.2))) (pure s)

/-- 32-bit words, each the larger of its 17-bit values before and after. -/
def keepLarger (old new : List Byte) : List Byte :=
  (List.range (new.length / 4)).flatMap fun k =>
    natLe 4 (max (leNat ((old.drop (4 * k)).take 4) % 2 ^ 17) (leNat ((new.drop (4 * k)).take 4)))
/-- A number for the next deferred write. -/
def State.deferId (s : State) : Nat := 1 + s.deferred.foldl (fun a d => max a d.id) 0
/-- The node that makes a deferred write: the core of the lane that it concerns, or else the front end. -/
def Deferred.node (d : Deferred) : Nat := if d.lanes = 0 then mgmtNode else d.core
/-- Word 2 of the fault record of a deferred write: SRC 1, ENG 14, with core and slot where a lane is concerned. -/
def State.lateWord2 (s : State) (d : Deferred) (f : Flt) : Dword :=
  recWord2 (d.ctx + (s.descOf d.node d.ctx).grove * 2 ^ 12 + (if d.lanes = 0 then 0 else d.core * 2 ^ 18 + d.slot * 2 ^ 27)) f 1 14
/-- A deferred write made: where a lane is concerned a plain write of its core, else of the front end. NOTPRESENT holds it until
its record is answered; any other fault drops it, with its record. -/
def State.lateWrite (s : State) (d : Deferred) : State :=
  let nd := d.node
  match s.translate nd d.ctx d.va .store with
  | .ok x =>
    let b := if d.keep then keepLarger (s.seeHome nd (x.at_ nd) d.bytes.length) d.bytes else d.bytes
    if d.lanes = 0 then s.frontPut d.ctx d.va x b
    else (s.useLeaf nd d.ctx d.va x .store).storeAt (hardware nd) x b 2 0
  | .error f =>
    let rec_ := [f.addr, d.lanes, s.lateWord2 d f]
    if f.cause = 0 then
      let s := { s with deferred := s.deferred ++ [{ d with parkSeq := (s.ctx d.ctx).seq }] }
      s.report nd d.ctx [rec_] (some (.deferred d.id)) none
    else s.report nd d.ctx [rec_] none none
/-- The answer to a deferred write's record: RETRY walks again, ABORT drops the write. -/
def State.lateAnswer (s : State) (id : Nat) (abort : Bool) : State :=
  match s.deferred.find? fun d => d.id == id with
  | none => s
  | some d =>
    let s := { s with deferred := s.deferred.filter fun x => x.id != id }
    if abort then s else s.lateWrite d

end Sys2Proof.Machine
end

