-- ==== Sys2Proof/Decode.lean ====
section
/-! DEFINITION. The decoder and the encoder of the Gliec's instruction words (spec/07 R162 to R170, R176, R177). A field
is cut by division and remainder at its bit position, so that every bit of a word has one place. -/
namespace Sys2Proof

/-- Why bytes are no instruction. -/
inductive DecodeError where
  /-- fewer bytes than the instruction has -/
  | truncated
  /-- an opcode that the map of its form does not assign (spec/07 R176, R177) -/
  | reservedOpcode
  /-- a mode of TRET or HALT that its entry does not list (spec/15 R331, R333) -/
  | reservedMode
  deriving DecidableEq, Repr

/-- One bit as a number. -/
def bitNat (b : Bool) : Nat := cond b 1 0

/-- Bit `n` of a word given as its power of two. -/
def bitAt (w p : Nat) : Bool := w / p % 2 == 1

/-- The 24 bits below the opcode. L-form word of layout LA or LX (spec/07 R164). -/
def LA.enc (f : LA) : Nat :=
  f.m.toNat + f.b.toNat * 8 + f.a.toNat * 1024 + f.d.toNat * 131072 + bitNat f.k * 8388608
/-- The fields of the 24 bits below the opcode. -/
def LA.dec (w : Nat) : LA :=
  { m := BitVec.ofNat 3 w, b := BitVec.ofNat 7 (w / 8), a := BitVec.ofNat 7 (w / 1024),
    d := BitVec.ofNat 6 (w / 131072), k := bitAt w 8388608 }

/-- The 24 bits below the opcode. L-form word of layout LI (spec/07 R164). -/
def LI.enc (f : LI) : Nat :=
  f.imm.toNat + f.a.toNat * 1024 + f.d.toNat * 131072 + bitNat f.k * 8388608
/-- The fields of the 24 bits below the opcode. -/
def LI.dec (w : Nat) : LI :=
  { imm := BitVec.ofNat 10 w, a := BitVec.ofNat 7 (w / 1024), d := BitVec.ofNat 6 (w / 131072),
    k := bitAt w 8388608 }

/-- The 24 bits below the opcode. G-form word of layout GA or GX (spec/07 R167). -/
def GA.enc (f : GA) : Nat :=
  f.b.toNat + f.a.toNat * 128 + f.d.toNat * 32768 + bitNat f.k * 8388608
/-- The fields of the 24 bits below the opcode. -/
def GA.dec (w : Nat) : GA :=
  { b := BitVec.ofNat 7 w, a := BitVec.ofNat 8 (w / 128), d := BitVec.ofNat 8 (w / 32768), k := bitAt w 8388608 }

/-- The 24 bits below the opcode. G-form word of layout GI (spec/07 R167). -/
def GI.enc (f : GI) : Nat :=
  f.imm.toNat + f.a.toNat * 128 + f.d.toNat * 32768 + bitNat f.k * 8388608
/-- The fields of the 24 bits below the opcode. -/
def GI.dec (w : Nat) : GI :=
  { imm := BitVec.ofNat 7 w, a := BitVec.ofNat 8 (w / 128), d := BitVec.ofNat 8 (w / 32768), k := bitAt w 8388608 }

/-- The 24 bits below the opcode. G-form word of layout GB (spec/07 R167). -/
def GB.enc (f : GB) : Nat :=
  f.disp.toNat + bitNat f.k * 8388608
/-- The fields of the 24 bits below the opcode. -/
def GB.dec (w : Nat) : GB :=
  { disp := BitVec.ofNat 23 w, k := bitAt w 8388608 }

/-- The 24 bits below the opcode. G-form word of layout GC (spec/07 R167). -/
def GC.enc (f : GC) : Nat :=
  f.disp.toNat + f.c.toNat * 32768 + bitNat f.k * 8388608
/-- The fields of the 24 bits below the opcode. -/
def GC.dec (w : Nat) : GC :=
  { disp := BitVec.ofNat 15 w, c := BitVec.ofNat 8 (w / 32768), k := bitAt w 8388608 }

/-- The 24 bits below the opcode of a word whose b field is the mode `b`. -/
def GM.enc (b : Nat) (f : GM) : Nat := b + f.a.toNat * 128 + f.d.toNat * 32768 + bitNat f.k * 8388608
/-- The fields of such a word. -/
def GM.dec (w : Nat) : GM := { a := BitVec.ofNat 8 (w / 128), d := BitVec.ofNat 8 (w / 32768), k := bitAt w 8388608 }

/-- Extension word of VCMP and FCMP (spec/09 R212), as a number. -/
def CmpX.enc (f : CmpX) : Nat :=
  f.cc.toNat + bitNat f.mrg * 8 + f.sd.toNat * 16 + f.res.toNat * 4096
/-- Extension word of VCMP and FCMP (spec/09 R212), its fields. -/
def CmpX.dec (w : Nat) : CmpX :=
  { cc := BitVec.ofNat 3 w, mrg := bitAt w 8, sd := BitVec.ofNat 8 (w / 16), res := BitVec.ofNat 20 (w / 4096) }

/-- Extension word of VVOTE (spec/09 R222), as a number. -/
def VoteX.enc (f : VoteX) : Nat :=
  f.mode.toNat + f.sd.toNat * 4 + f.res.toNat * 1024
/-- Extension word of VVOTE (spec/09 R222), its fields. -/
def VoteX.dec (w : Nat) : VoteX :=
  { mode := BitVec.ofNat 2 w, sd := BitVec.ofNat 8 (w / 4), res := BitVec.ofNat 22 (w / 1024) }

/-- Extension word of XSEND and XRECV (spec/09 R225), as a number. -/
def SlotX.enc (f : SlotX) : Nat :=
  f.slot.toNat + f.res.toNat * 16
/-- Extension word of XSEND and XRECV (spec/09 R225), its fields. -/
def SlotX.dec (w : Nat) : SlotX :=
  { slot := BitVec.ofNat 4 w, res := BitVec.ofNat 28 (w / 16) }

/-- Extension word of the lane loads, stores, PREF and DISCARD (spec/10 R228), as a number. -/
def MemX.enc (f : MemX) : Nat :=
  f.ix.toNat + f.scl.toNat * 4 + f.ord.toNat * 16 + f.scope.toNat * 64 + f.pol.toNat * 512 +
    bitNat f.sp * 2048 + f.res.toNat * 4096 + f.off.toNat * 65536
/-- Extension word of the lane loads, stores, PREF and DISCARD (spec/10 R228), its fields. -/
def MemX.dec (w : Nat) : MemX :=
  { ix := BitVec.ofNat 2 w, scl := BitVec.ofNat 2 (w / 4), ord := BitVec.ofNat 2 (w / 16),
    scope := BitVec.ofNat 3 (w / 64), pol := BitVec.ofNat 2 (w / 512), sp := bitAt w 2048,
    res := BitVec.ofNat 4 (w / 4096), off := BitVec.ofNat 16 (w / 65536) }

/-- Extension word of the lane atomics (spec/10 R231), as a number. -/
def AtomX.enc (f : AtomX) : Nat :=
  f.ix.toNat + f.scl.toNat * 4 + f.ord.toNat * 16 + f.scope.toNat * 64 + f.res.toNat * 512 +
    bitNat f.nr * 2048 + f.aop.toNat * 4096 + f.off.toNat * 65536
/-- Extension word of the lane atomics (spec/10 R231), its fields. -/
def AtomX.dec (w : Nat) : AtomX :=
  { ix := BitVec.ofNat 2 w, scl := BitVec.ofNat 2 (w / 4), ord := BitVec.ofNat 2 (w / 16),
    scope := BitVec.ofNat 3 (w / 64), res := BitVec.ofNat 2 (w / 512), nr := bitAt w 2048,
    aop := BitVec.ofNat 4 (w / 4096), off := BitVec.ofNat 16 (w / 65536) }

/-- Extension word of FENCE (spec/10 R234), as a number. -/
def FenceX.enc (f : FenceX) : Nat :=
  f.kind.toNat + f.scope.toNat * 4 + f.res.toNat * 32
/-- Extension word of FENCE (spec/10 R234), its fields. -/
def FenceX.dec (w : Nat) : FenceX :=
  { kind := BitVec.ofNat 2 w, scope := BitVec.ofNat 3 (w / 4), res := BitVec.ofNat 27 (w / 32) }

/-- Extension word of ACCRD and ACCRDC (spec/11 R256), as a number. -/
def TileX.enc (f : TileX) : Nat :=
  f.tile.toNat + f.res.toNat * 4
/-- Extension word of ACCRD and ACCRDC (spec/11 R256), its fields. -/
def TileX.dec (w : Nat) : TileX :=
  { tile := BitVec.ofNat 2 w, res := BitVec.ofNat 30 (w / 4) }

/-- Extension word of TADD (spec/11 R261), as a number. -/
def TaddX.enc (f : TaddX) : Nat :=
  f.coff.toNat + f.roff.toNat * 16384 + f.res.toNat * 8388608
/-- Extension word of TADD (spec/11 R261), its fields. -/
def TaddX.dec (w : Nat) : TaddX :=
  { coff := BitVec.ofNat 14 w, roff := BitVec.ofNat 9 (w / 16384), res := BitVec.ofNat 9 (w / 8388608) }

/-- Extension word of TNORM and TNORMQ (spec/11 R264), as a number. -/
def EpsX.enc (f : EpsX) : Nat :=
  f.se.toNat + f.res.toNat * 256
/-- Extension word of TNORM and TNORMQ (spec/11 R264), its fields. -/
def EpsX.dec (w : Nat) : EpsX :=
  { se := BitVec.ofNat 8 w, res := BitVec.ofNat 24 (w / 256) }

/-- Extension word of RCMP (spec/12 R283), as a number. -/
def AstrX.enc (f : AstrX) : Nat :=
  f.astr.toNat + f.res.toNat * 16
/-- Extension word of RCMP (spec/12 R283), its fields. -/
def AstrX.dec (w : Nat) : AstrX :=
  { astr := BitVec.ofNat 4 w, res := BitVec.ofNat 28 (w / 16) }

/-- Extension word of TRACE, TRACEA and TRACEO (spec/13 R298), as a number. -/
def TraceX.enc (f : TraceX) : Nat :=
  f.vmask.toNat + bitNat f.cullb * 256 + f.res.toNat * 512
/-- Extension word of TRACE, TRACEA and TRACEO (spec/13 R298), its fields. -/
def TraceX.dec (w : Nat) : TraceX :=
  { vmask := BitVec.ofNat 8 w, cullb := bitAt w 256, res := BitVec.ofNat 23 (w / 512) }

/-- Extension word of VMARCH (spec/13 R302), as a number. -/
def MarchX.enc (f : MarchX) : Nat :=
  f.strm.toNat + bitNat f.den * 16 + bitNat f.next * 32 + f.res.toNat * 64
/-- Extension word of VMARCH (spec/13 R302), its fields. -/
def MarchX.dec (w : Nat) : MarchX :=
  { strm := BitVec.ofNat 4 w, den := bitAt w 16, next := bitAt w 32, res := BitVec.ofNat 26 (w / 64) }

/-- Extension word of CALL (spec/08 R195), as a number. -/
def CallX.enc (f : CallX) : Nat :=
  f.disp.toNat + f.c.toNat * 4194304 + bitNat f.csense * 1073741824 + bitNat f.cen * 2147483648
/-- Extension word of CALL (spec/08 R195), its fields. -/
def CallX.dec (w : Nat) : CallX :=
  { disp := BitVec.ofNat 22 w, c := BitVec.ofNat 8 (w / 4194304), csense := bitAt w 1073741824,
    cen := bitAt w 2147483648 }

/-- Extension word of BAR (spec/08 R200), as a number. -/
def BarX.enc (f : BarX) : Nat :=
  f.roles.toNat + bitNat f.seq * 16 + f.res.toNat * 32
/-- Extension word of BAR (spec/08 R200), its fields. -/
def BarX.dec (w : Nat) : BarX :=
  { roles := BitVec.ofNat 4 w, seq := bitAt w 16, res := BitVec.ofNat 27 (w / 32) }

/-- Extension word of GCMP (spec/08 R191), as a number. -/
def GcmpX.enc (f : GcmpX) : Nat :=
  f.cc.toNat + bitNat f.u * 8 + bitNat f.all * 16 + bitNat f.bi * 32 + f.imm.toNat * 64 + f.res.toNat * 4194304
/-- Extension word of GCMP (spec/08 R191), its fields. -/
def GcmpX.dec (w : Nat) : GcmpX :=
  { cc := BitVec.ofNat 3 w, u := bitAt w 8, all := bitAt w 16, bi := bitAt w 32, imm := BitVec.ofNat 16 (w / 64),
    res := BitVec.ofNat 10 (w / 4194304) }

/-- Extension word of GLD and GST (spec/10 R236), as a number. -/
def GmemX.enc (f : GmemX) : Nat :=
  f.sz.toNat + bitNat f.ixe * 8 + f.ord.toNat * 16 + f.scope.toNat * 64 + f.pol.toNat * 512 +
    bitNat f.sp * 2048 + f.res.toNat * 4096 + f.off.toNat * 65536
/-- Extension word of GLD and GST (spec/10 R236), its fields. -/
def GmemX.dec (w : Nat) : GmemX :=
  { sz := BitVec.ofNat 3 w, ixe := bitAt w 8, ord := BitVec.ofNat 2 (w / 16), scope := BitVec.ofNat 3 (w / 64),
    pol := BitVec.ofNat 2 (w / 512), sp := bitAt w 2048, res := BitVec.ofNat 4 (w / 4096),
    off := BitVec.ofNat 16 (w / 65536) }

/-- Extension word of GATOM (spec/10 R236), as a number. -/
def GatomX.enc (f : GatomX) : Nat :=
  f.ty.toNat + bitNat f.ixe * 8 + f.ord.toNat * 16 + f.scope.toNat * 64 + f.res.toNat * 512 +
    bitNat f.sp * 2048 + f.aop.toNat * 4096 + f.off.toNat * 65536
/-- Extension word of GATOM (spec/10 R236), its fields. -/
def GatomX.dec (w : Nat) : GatomX :=
  { ty := BitVec.ofNat 3 w, ixe := bitAt w 8, ord := BitVec.ofNat 2 (w / 16), scope := BitVec.ofNat 3 (w / 64),
    res := BitVec.ofNat 2 (w / 512), sp := bitAt w 2048, aop := BitVec.ofNat 4 (w / 4096),
    off := BitVec.ofNat 16 (w / 65536) }

/-- Extension word of CPY (spec/10 R239, R170), as a number. -/
def CpyX.enc (f : CpyX) : Nat :=
  f.mode.toNat + f.pol.toNat * 8 + bitNat f.res * 32 + f.soff.toNat * 64 + f.res2.toNat * 262144 +
    bitNat f.gsense * 67108864 + f.gslot.toNat * 134217728 + bitNat f.gen * 2147483648
/-- Extension word of CPY (spec/10 R239, R170), its fields. -/
def CpyX.dec (w : Nat) : CpyX :=
  { mode := BitVec.ofNat 3 w, pol := BitVec.ofNat 2 (w / 8), res := bitAt w 32, soff := BitVec.ofNat 12 (w / 64),
    res2 := BitVec.ofNat 8 (w / 262144), gsense := bitAt w 67108864, gslot := BitVec.ofNat 4 (w / 134217728),
    gen := bitAt w 2147483648 }

/-- Extension word of LAYOUT (spec/10 R241, R170), as a number. -/
def LayoutX.enc (f : LayoutX) : Nat :=
  bitNat f.op + f.res.toNat * 2 + bitNat f.gsense * 67108864 + f.gslot.toNat * 134217728 +
    bitNat f.gen * 2147483648
/-- Extension word of LAYOUT (spec/10 R241, R170), its fields. -/
def LayoutX.dec (w : Nat) : LayoutX :=
  { op := bitAt w 1, res := BitVec.ofNat 25 (w / 2), gsense := bitAt w 67108864,
    gslot := BitVec.ofNat 4 (w / 134217728), gen := bitAt w 2147483648 }

/-- Extension word of ZFILL (spec/10 R242, R170), as a number. -/
def ZfillX.enc (f : ZfillX) : Nat :=
  bitNat f.sp + f.off.toNat * 2 + f.res.toNat * 8192 + bitNat f.gsense * 67108864 + f.gslot.toNat * 134217728 +
    bitNat f.gen * 2147483648
/-- Extension word of ZFILL (spec/10 R242, R170), its fields. -/
def ZfillX.dec (w : Nat) : ZfillX :=
  { sp := bitAt w 1, off := BitVec.ofNat 12 (w / 2), res := BitVec.ofNat 13 (w / 8192),
    gsense := bitAt w 67108864, gslot := BitVec.ofNat 4 (w / 134217728), gen := bitAt w 2147483648 }

/-- Extension word of CALLRED and CGATHER (spec/10 R244, R170), as a number. -/
def CollX.enc (f : CollX) : Nat :=
  f.op.toNat + bitNat f.ssp * 4 + bitNat f.dsp * 8 + bitNat f.q8 * 16 + f.res.toNat * 32 +
    bitNat f.gsense * 67108864 + f.gslot.toNat * 134217728 + bitNat f.gen * 2147483648
/-- Extension word of CALLRED and CGATHER (spec/10 R244, R170), its fields. -/
def CollX.dec (w : Nat) : CollX :=
  { op := BitVec.ofNat 2 w, ssp := bitAt w 4, dsp := bitAt w 8, q8 := bitAt w 16, res := BitVec.ofNat 21 (w / 32),
    gsense := bitAt w 67108864, gslot := BitVec.ofNat 4 (w / 134217728), gen := bitAt w 2147483648 }

/-- Extension word of OMAP (spec/11 R251, R170), as a number. -/
def OmapX.enc (f : OmapX) : Nat :=
  f.map.toNat + f.res.toNat * 8 + bitNat f.gsense * 67108864 + f.gslot.toNat * 134217728 +
    bitNat f.gen * 2147483648
/-- Extension word of OMAP (spec/11 R251, R170), its fields. -/
def OmapX.dec (w : Nat) : OmapX :=
  { map := BitVec.ofNat 3 w, res := BitVec.ofNat 23 (w / 8), gsense := bitAt w 67108864,
    gslot := BitVec.ofNat 4 (w / 134217728), gen := bitAt w 2147483648 }

/-- Extension word of MMA and MSQD (spec/11 R251, R170), as a number. -/
def MmaX.enc (f : MmaX) : Nat :=
  f.tile.toNat + f.map.toNat * 4 + bitNat f.acc * 32 + f.res.toNat * 64 + bitNat f.gsense * 67108864 +
    f.gslot.toNat * 134217728 + bitNat f.gen * 2147483648
/-- Extension word of MMA and MSQD (spec/11 R251, R170), its fields. -/
def MmaX.dec (w : Nat) : MmaX :=
  { tile := BitVec.ofNat 2 w, map := BitVec.ofNat 3 (w / 4), acc := bitAt w 32, res := BitVec.ofNat 20 (w / 64),
    gsense := bitAt w 67108864, gslot := BitVec.ofNat 4 (w / 134217728), gen := bitAt w 2147483648 }

/-- Extension word of MTOPK (spec/11 R251, R170), as a number. -/
def TopkX.enc (f : TopkX) : Nat :=
  f.tile.toNat + f.km1.toNat * 4 + f.res.toNat * 64 + bitNat f.gsense * 67108864 + f.gslot.toNat * 134217728 +
    bitNat f.gen * 2147483648
/-- Extension word of MTOPK (spec/11 R251, R170), its fields. -/
def TopkX.dec (w : Nat) : TopkX :=
  { tile := BitVec.ofNat 2 w, km1 := BitVec.ofNat 4 (w / 4), res := BitVec.ofNat 20 (w / 64),
    gsense := bitAt w 67108864, gslot := BitVec.ofNat 4 (w / 134217728), gen := bitAt w 2147483648 }

/-- Extension word of MZERO and MADDT (spec/11 R251, R170), as a number. -/
def MtileX.enc (f : MtileX) : Nat :=
  f.tile.toNat + f.res.toNat * 4 + bitNat f.gsense * 67108864 + f.gslot.toNat * 134217728 +
    bitNat f.gen * 2147483648
/-- Extension word of MZERO and MADDT (spec/11 R251, R170), its fields. -/
def MtileX.dec (w : Nat) : MtileX :=
  { tile := BitVec.ofNat 2 w, res := BitVec.ofNat 24 (w / 4), gsense := bitAt w 67108864,
    gslot := BitVec.ofNat 4 (w / 134217728), gen := bitAt w 2147483648 }

/-- Extension word of MSTORE (spec/11 R251, R170), as a number. -/
def StoreX.enc (f : StoreX) : Nat :=
  f.tile.toNat + bitNat f.ty * 4 + bitNat f.sp * 8 + f.pol.toNat * 16 + f.res.toNat * 64 +
    bitNat f.gsense * 67108864 + f.gslot.toNat * 134217728 + bitNat f.gen * 2147483648
/-- Extension word of MSTORE (spec/11 R251, R170), its fields. -/
def StoreX.dec (w : Nat) : StoreX :=
  { tile := BitVec.ofNat 2 w, ty := bitAt w 4, sp := bitAt w 8, pol := BitVec.ofNat 2 (w / 16),
    res := BitVec.ofNat 20 (w / 64), gsense := bitAt w 67108864, gslot := BitVec.ofNat 4 (w / 134217728),
    gen := bitAt w 2147483648 }

/-- Extension word of TCFG (spec/11 R251, R170), as a number. -/
def TcfgX.enc (f : TcfgX) : Nat :=
  f.sm1.toNat + f.res.toNat * 16 + bitNat f.gsense * 67108864 + f.gslot.toNat * 134217728 +
    bitNat f.gen * 2147483648
/-- Extension word of TCFG (spec/11 R251, R170), its fields. -/
def TcfgX.dec (w : Nat) : TcfgX :=
  { sm1 := BitVec.ofNat 4 w, res := BitVec.ofNat 22 (w / 16), gsense := bitAt w 67108864,
    gslot := BitVec.ofNat 4 (w / 134217728), gen := bitAt w 2147483648 }

/-- Extension word of TEVICT and TRESTORE (spec/11 R251, R170), as a number. -/
def ImageX.enc (f : ImageX) : Nat :=
  bitNat f.obj + bitNat f.clr * 2 + f.tile.toNat * 4 + f.res.toNat * 16 + bitNat f.gsense * 67108864 +
    f.gslot.toNat * 134217728 + bitNat f.gen * 2147483648
/-- Extension word of TEVICT and TRESTORE (spec/11 R251, R170), its fields. -/
def ImageX.dec (w : Nat) : ImageX :=
  { obj := bitAt w 1, clr := bitAt w 2, tile := BitVec.ofNat 2 (w / 4), res := BitVec.ofNat 22 (w / 16),
    gsense := bitAt w 67108864, gslot := BitVec.ofNat 4 (w / 134217728), gen := bitAt w 2147483648 }

/-- Extension word of MUTATE (spec/12 R278), as a number. -/
def MutX.enc (f : MutX) : Nat :=
  f.kind.toNat + f.res.toNat * 4
/-- Extension word of MUTATE (spec/12 R278), its fields. -/
def MutX.dec (w : Nat) : MutX :=
  { kind := BitVec.ofNat 2 w, res := BitVec.ofNat 30 (w / 4) }

/-- Extension word of REPLAY (spec/12 R281), as a number. -/
def ReplayX.enc (f : ReplayX) : Nat :=
  f.qpri.toNat + f.res.toNat * 8
/-- Extension word of REPLAY (spec/12 R281), its fields. -/
def ReplayX.dec (w : Nat) : ReplayX :=
  { qpri := BitVec.ofNat 3 w, res := BitVec.ofNat 29 (w / 8) }

/-- Extension word of LAUNCHD (spec/14 R319), as a number. -/
def LaunchX.enc (f : LaunchX) : Nat :=
  f.qpri.toNat + f.pm1.toNat * 8 + f.res.toNat * 8192
/-- Extension word of LAUNCHD (spec/14 R319), its fields. -/
def LaunchX.dec (w : Nat) : LaunchX :=
  { qpri := BitVec.ofNat 3 w, pm1 := BitVec.ofNat 10 (w / 8), res := BitVec.ofNat 19 (w / 8192) }

/-- A literal extension word (spec/07 R169), as a number. -/
def Lit.enc (f : Lit) : Nat :=
  f.lit.toNat
/-- A literal extension word (spec/07 R169), its fields. -/
def Lit.dec (w : Nat) : Lit :=
  { lit := BitVec.ofNat 32 w }

/-- L-form opcodes of layout LX, which carry an extension word (spec/07 R162, R176). -/
def twoWordL : Nat → Bool
  | 21 => true
  | 22 => true
  | 29 => true
  | 44 => true
  | 48 => true
  | 49 => true
  | 56 => true
  | 57 => true
  | 58 => true
  | 59 => true
  | 60 => true
  | 61 => true
  | 62 => true
  | 63 => true
  | 64 => true
  | 65 => true
  | 66 => true
  | 67 => true
  | 68 => true
  | 69 => true
  | 72 => true
  | 73 => true
  | 74 => true
  | 75 => true
  | 77 => true
  | 85 => true
  | 88 => true
  | 89 => true
  | 90 => true
  | 93 => true
  | _ => false

/-- G-form opcodes of layout GX, which carry an extension word (spec/07 R162, R177). -/
def twoWordG : Nat → Bool
  | 9 => true
  | 16 => true
  | 36 => true
  | 40 => true
  | 41 => true
  | 48 => true
  | 49 => true
  | 50 => true
  | 51 => true
  | 52 => true
  | 53 => true
  | 56 => true
  | 57 => true
  | 64 => true
  | 65 => true
  | 66 => true
  | 67 => true
  | 68 => true
  | 69 => true
  | 70 => true
  | 71 => true
  | 72 => true
  | 73 => true
  | 80 => true
  | 81 => true
  | 88 => true
  | _ => false

/-- The L-form opcode map (spec/07 R176): opcode, the 24 bits below it, and the extension word. -/
def decodeL (op w x : Nat) : Except DecodeError Instr :=
  match op with
  | 1 => .ok (.vadd (LA.dec w))
  | 2 => .ok (.vsub (LA.dec w))
  | 3 => .ok (.vmul (LA.dec w))
  | 4 => .ok (.vmulh (LA.dec w))
  | 5 => .ok (.vmad (LA.dec w))
  | 6 => .ok (.vmin (LA.dec w))
  | 7 => .ok (.vmax (LA.dec w))
  | 8 => .ok (.vand (LA.dec w))
  | 9 => .ok (.vor (LA.dec w))
  | 10 => .ok (.vxor (LA.dec w))
  | 11 => .ok (.vshl (LA.dec w))
  | 12 => .ok (.vshr (LA.dec w))
  | 13 => .ok (.vsar (LA.dec w))
  | 14 => .ok (.vclz (LA.dec w))
  | 15 => .ok (.vpopc (LA.dec w))
  | 16 => .ok (.vaddi (LI.dec w))
  | 17 => .ok (.vshli (LI.dec w))
  | 18 => .ok (.vshri (LI.dec w))
  | 19 => .ok (.vsari (LI.dec w))
  | 20 => .ok (.vsel (LA.dec w))
  | 21 => .ok (.vli (LA.dec w) (Lit.dec x))
  | 22 => .ok (.vcmp (LA.dec w) (CmpX.dec x))
  | 24 => .ok (.fadd (LA.dec w))
  | 25 => .ok (.fmul (LA.dec w))
  | 26 => .ok (.ffma (LA.dec w))
  | 27 => .ok (.fmin (LA.dec w))
  | 28 => .ok (.fmax (LA.dec w))
  | 29 => .ok (.fcmp (LA.dec w) (CmpX.dec x))
  | 30 => .ok (.bfma2 (LA.dec w))
  | 31 => .ok (.cvt (LA.dec w))
  | 32 => .ok (.frcp (LA.dec w))
  | 33 => .ok (.frsq (LA.dec w))
  | 34 => .ok (.fsqrt (LA.dec w))
  | 35 => .ok (.fexp2 (LA.dec w))
  | 36 => .ok (.flog2 (LA.dec w))
  | 37 => .ok (.sint (LA.dec w))
  | 38 => .ok (.cost (LA.dec w))
  | 40 => .ok (.vperm (LA.dec w))
  | 41 => .ok (.vshfl (LA.dec w))
  | 42 => .ok (.vbcast (LA.dec w))
  | 43 => .ok (.vmatch (LA.dec w))
  | 44 => .ok (.vvote (LA.dec w) (VoteX.dec x))
  | 45 => .ok (.vreduce (LA.dec w))
  | 46 => .ok (.vscan (LA.dec w))
  | 48 => .ok (.xsend (LA.dec w) (SlotX.dec x))
  | 49 => .ok (.xrecv (LA.dec w) (SlotX.dec x))
  | 56 => .ok (.ld (LA.dec w) (MemX.dec x))
  | 57 => .ok (.st (LA.dec w) (MemX.dec x))
  | 58 => .ok (.lds (LA.dec w) (MemX.dec x))
  | 59 => .ok (.sts (LA.dec w) (MemX.dec x))
  | 60 => .ok (.ldq (LA.dec w) (MemX.dec x))
  | 61 => .ok (.stq (LA.dec w) (MemX.dec x))
  | 62 => .ok (.atom (LA.dec w) (AtomX.dec x))
  | 63 => .ok (.atoms (LA.dec w) (AtomX.dec x))
  | 64 => .ok (.acas (LA.dec w) (AtomX.dec x))
  | 65 => .ok (.acass (LA.dec w) (AtomX.dec x))
  | 66 => .ok (.aaddx (LA.dec w) (AtomX.dec x))
  | 67 => .ok (.fence (LA.dec w) (FenceX.dec x))
  | 68 => .ok (.discard (LA.dec w) (MemX.dec x))
  | 69 => .ok (.pref (LA.dec w) (MemX.dec x))
  | 72 => .ok (.accrd (LA.dec w) (TileX.dec x))
  | 73 => .ok (.tadd (LA.dec w) (TaddX.dec x))
  | 74 => .ok (.tnorm (LA.dec w) (EpsX.dec x))
  | 75 => .ok (.tnormq (LA.dec w) (EpsX.dec x))
  | 76 => .ok (.tsync (LA.dec w))
  | 77 => .ok (.accrdc (LA.dec w) (TileX.dec x))
  | 80 => .ok (.cvbind (LA.dec w))
  | 81 => .ok (.draw (LA.dec w))
  | 82 => .ok (.drawk (LA.dec w))
  | 83 => .ok (.cvcur (LA.dec w))
  | 84 => .ok (.result (LA.dec w))
  | 85 => .ok (.rcmp (LA.dec w) (AstrX.dec x))
  | 88 => .ok (.trace (LA.dec w) (TraceX.dec x))
  | 89 => .ok (.tracea (LA.dec w) (TraceX.dec x))
  | 90 => .ok (.traceo (LA.dec w) (TraceX.dec x))
  | 91 => .ok (.hitrd (LA.dec w))
  | 92 => .ok (.hituv (LA.dec w))
  | 93 => .ok (.vmarch (LA.dec w) (MarchX.dec x))
  | 94 => .ok (.vmrd (LA.dec w))
  | 95 => .ok (.rsave (LA.dec w))
  | 96 => .ok (.rload (LA.dec w))
  | 97 => .ok (.rclr (LA.dec w))
  | _ => .error .reservedOpcode

/-- TRET by its mode (spec/15 R331). -/
def decodeTret (w : Nat) : Except DecodeError Instr :=
  match w % 128 with
  | 0 => .ok (.tret (GM.dec w))
  | 1 => .ok (.tretGoto (GM.dec w))
  | 2 => .ok (.tretKill (GM.dec w))
  | _ => .error .reservedMode

/-- HALT by its mode (spec/15 R333). -/
def decodeHalt (w : Nat) : Except DecodeError Instr :=
  match w % 128 with
  | 0 => .ok (.haltTeam (GM.dec w))
  | 1 => .ok (.haltFlush (GM.dec w))
  | _ => .error .reservedMode

/-- The G-form opcode map (spec/07 R177). -/
def decodeG (op w x : Nat) : Except DecodeError Instr :=
  match op with
  | 0 => .ok (.nop (GA.dec w))
  | 1 => .ok (.br (GB.dec w))
  | 2 => .ok (.brc (GC.dec w))
  | 3 => .ok (.brd (GC.dec w))
  | 4 => .ok (.brx (GA.dec w))
  | 5 => .ok (.join (GA.dec w))
  | 6 => .ok (.regang (GA.dec w))
  | 7 => .ok (.idle (GA.dec w))
  | 8 => .ok (.exit (GA.dec w))
  | 9 => .ok (.call (GA.dec w) (CallX.dec x))
  | 10 => .ok (.ret (GA.dec w))
  | 11 => .ok (.grow (GA.dec w))
  | 12 => .ok (.setfmt (GA.dec w))
  | 13 => .ok (.getfmt (GA.dec w))
  | 14 => .ok (.qput (GA.dec w))
  | 15 => .ok (.qget (GA.dec w))
  | 16 => .ok (.bar (GA.dec w) (BarX.dec x))
  | 17 => .ok (.setg (GI.dec w))
  | 18 => .ok (.sysrd (GA.dec w))
  | 19 => .ok (.syswr (GA.dec w))
  | 24 => .ok (.gadd (GA.dec w))
  | 25 => .ok (.gsub (GA.dec w))
  | 26 => .ok (.gmul (GA.dec w))
  | 27 => .ok (.gand (GA.dec w))
  | 28 => .ok (.gor (GA.dec w))
  | 29 => .ok (.gxor (GA.dec w))
  | 30 => .ok (.gshl (GA.dec w))
  | 31 => .ok (.gshr (GA.dec w))
  | 32 => .ok (.gsar (GA.dec w))
  | 33 => .ok (.gmin (GA.dec w))
  | 34 => .ok (.gmax (GA.dec w))
  | 35 => .ok (.gsel (GA.dec w))
  | 36 => .ok (.gcmp (GA.dec w) (GcmpX.dec x))
  | 37 => .ok (.mpop (GA.dec w))
  | 38 => .ok (.mffs (GA.dec w))
  | 39 => .ok (.gaddi (GI.dec w))
  | 40 => .ok (.gli (GA.dec w) (Lit.dec x))
  | 41 => .ok (.glih (GA.dec w) (Lit.dec x))
  | 48 => .ok (.gld (GA.dec w) (GmemX.dec x))
  | 49 => .ok (.gst (GA.dec w) (GmemX.dec x))
  | 50 => .ok (.gatom (GA.dec w) (GatomX.dec x))
  | 51 => .ok (.cpy (GA.dec w) (CpyX.dec x))
  | 52 => .ok (.layout (GA.dec w) (LayoutX.dec x))
  | 53 => .ok (.zfill (GA.dec w) (ZfillX.dec x))
  | 54 => .ok (.bfence (GI.dec w))
  | 55 => .ok (.bwait (GI.dec w))
  | 56 => .ok (.callred (GA.dec w) (CollX.dec x))
  | 57 => .ok (.cgather (GA.dec w) (CollX.dec x))
  | 64 => .ok (.omap (GA.dec w) (OmapX.dec x))
  | 65 => .ok (.mma (GA.dec w) (MmaX.dec x))
  | 66 => .ok (.msqd (GA.dec w) (MmaX.dec x))
  | 67 => .ok (.mtopk (GA.dec w) (TopkX.dec x))
  | 68 => .ok (.mzero (GA.dec w) (MtileX.dec x))
  | 69 => .ok (.mstore (GA.dec w) (StoreX.dec x))
  | 70 => .ok (.maddt (GA.dec w) (MtileX.dec x))
  | 71 => .ok (.tcfg (GA.dec w) (TcfgX.dec x))
  | 72 => .ok (.tevict (GA.dec w) (ImageX.dec x))
  | 73 => .ok (.trestore (GA.dec w) (ImageX.dec x))
  | 80 => .ok (.mutate (GA.dec w) (MutX.dec x))
  | 81 => .ok (.replay (GA.dec w) (ReplayX.dec x))
  | 82 => .ok (.rrd (GA.dec w))
  | 83 => .ok (.cvend (GA.dec w))
  | 88 => .ok (.launchd (GA.dec w) (LaunchX.dec x))
  | 89 => .ok (.gridsync (GA.dec w))
  | 90 => .ok (.rqput (GA.dec w))
  | 91 => .ok (.rqputn (GA.dec w))
  | 92 => .ok (.rqget (GA.dec w))
  | 93 => .ok (.rqgetn (GA.dec w))
  | 94 => .ok (.rqcnt (GA.dec w))
  | 95 => .ok (.yield (GA.dec w))
  | 96 => .ok (.sleep (GI.dec w))
  | 97 => .ok (.evsig (GA.dec w))
  | 104 => .ok (.trap (GI.dec w))
  | 105 => .ok (.trapc (GC.dec w))
  | 106 => decodeTret w
  | 107 => .ok (.bkpt (GI.dec w))
  | 108 => decodeHalt w
  | 109 => .ok (.errrd (GA.dec w))
  | _ => .error .reservedOpcode

/-- Bit 31 chooses the form, bits 30 to 24 the opcode (spec/07 R164, R167). -/
def decodeWords (w x : Nat) : Except DecodeError Instr :=
  if w / 2147483648 % 2 = 0 then decodeL (w / 16777216 % 128) (w % 16777216) x
  else decodeG (w / 16777216 % 128) (w % 16777216) x

/-- Does the first word's opcode carry an extension word? -/
def twoWords (w : Nat) : Bool :=
  if w / 2147483648 % 2 = 0 then twoWordL (w / 16777216 % 128) else twoWordG (w / 16777216 % 128)

/-- A little-endian word of four bytes (spec/00 R3, spec/07 R162). -/
def wordOfBytes (b0 b1 b2 b3 : Byte) : Nat :=
  b0.toNat + b1.toNat * 256 + b2.toNat * 65536 + b3.toNat * 16777216

/-- Decoding, total on any bytes: the instruction and the bytes after it, or the reason why there is none. -/
def decode : List Byte → Except DecodeError (Instr × List Byte)
  | b0 :: b1 :: b2 :: b3 :: rest =>
    let w := wordOfBytes b0 b1 b2 b3
    if twoWords w then
      match rest with
      | c0 :: c1 :: c2 :: c3 :: rest' => (decodeWords w (wordOfBytes c0 c1 c2 c3)).map fun i => (i, rest')
      | _ => .error .truncated
    else (decodeWords w 0).map fun i => (i, rest)
  | _ => .error .truncated

/-- The four bytes of a word, least significant first. -/
def bytesOfWord (w : Nat) : List Byte :=
  [BitVec.ofNat 8 w, BitVec.ofNat 8 (w / 256), BitVec.ofNat 8 (w / 65536), BitVec.ofNat 8 (w / 16777216)]

/-- The instruction that the decoder reads from `nbits` bits numbered as the opcode table numbers them: the first word is
bits 31 to 0, the extension word bits 63 to 32, and every bit from `nbits` on is 0. -/
def decodeTableWord (nbits w : Nat) : Option Instr :=
  let v := w % 2 ^ nbits
  match decode (bytesOfWord (v % 4294967296) ++ bytesOfWord (v / 4294967296)) with
  | .ok (i, _) => some i
  | .error _ => none

/-- The words of an instruction, first word first; an event has none. Written from the same tables as the decoder. -/
def encode : Instr → List Nat
  | .vadd f => [16777216 + f.enc]
  | .vsub f => [33554432 + f.enc]
  | .vmul f => [50331648 + f.enc]
  | .vmulh f => [67108864 + f.enc]
  | .vmad f => [83886080 + f.enc]
  | .vmin f => [100663296 + f.enc]
  | .vmax f => [117440512 + f.enc]
  | .vand f => [134217728 + f.enc]
  | .vor f => [150994944 + f.enc]
  | .vxor f => [167772160 + f.enc]
  | .vshl f => [184549376 + f.enc]
  | .vshr f => [201326592 + f.enc]
  | .vsar f => [218103808 + f.enc]
  | .vclz f => [234881024 + f.enc]
  | .vpopc f => [251658240 + f.enc]
  | .vaddi f => [268435456 + f.enc]
  | .vshli f => [285212672 + f.enc]
  | .vshri f => [301989888 + f.enc]
  | .vsari f => [318767104 + f.enc]
  | .vsel f => [335544320 + f.enc]
  | .vli f x => [352321536 + f.enc, x.enc]
  | .vcmp f x => [369098752 + f.enc, x.enc]
  | .fadd f => [402653184 + f.enc]
  | .fmul f => [419430400 + f.enc]
  | .ffma f => [436207616 + f.enc]
  | .fmin f => [452984832 + f.enc]
  | .fmax f => [469762048 + f.enc]
  | .fcmp f x => [486539264 + f.enc, x.enc]
  | .bfma2 f => [503316480 + f.enc]
  | .cvt f => [520093696 + f.enc]
  | .frcp f => [536870912 + f.enc]
  | .frsq f => [553648128 + f.enc]
  | .fsqrt f => [570425344 + f.enc]
  | .fexp2 f => [587202560 + f.enc]
  | .flog2 f => [603979776 + f.enc]
  | .sint f => [620756992 + f.enc]
  | .cost f => [637534208 + f.enc]
  | .vperm f => [671088640 + f.enc]
  | .vshfl f => [687865856 + f.enc]
  | .vbcast f => [704643072 + f.enc]
  | .vmatch f => [721420288 + f.enc]
  | .vvote f x => [738197504 + f.enc, x.enc]
  | .vreduce f => [754974720 + f.enc]
  | .vscan f => [771751936 + f.enc]
  | .xsend f x => [805306368 + f.enc, x.enc]
  | .xrecv f x => [822083584 + f.enc, x.enc]
  | .ld f x => [939524096 + f.enc, x.enc]
  | .st f x => [956301312 + f.enc, x.enc]
  | .lds f x => [973078528 + f.enc, x.enc]
  | .sts f x => [989855744 + f.enc, x.enc]
  | .ldq f x => [1006632960 + f.enc, x.enc]
  | .stq f x => [1023410176 + f.enc, x.enc]
  | .atom f x => [1040187392 + f.enc, x.enc]
  | .atoms f x => [1056964608 + f.enc, x.enc]
  | .acas f x => [1073741824 + f.enc, x.enc]
  | .acass f x => [1090519040 + f.enc, x.enc]
  | .aaddx f x => [1107296256 + f.enc, x.enc]
  | .fence f x => [1124073472 + f.enc, x.enc]
  | .discard f x => [1140850688 + f.enc, x.enc]
  | .pref f x => [1157627904 + f.enc, x.enc]
  | .accrd f x => [1207959552 + f.enc, x.enc]
  | .tadd f x => [1224736768 + f.enc, x.enc]
  | .tnorm f x => [1241513984 + f.enc, x.enc]
  | .tnormq f x => [1258291200 + f.enc, x.enc]
  | .tsync f => [1275068416 + f.enc]
  | .accrdc f x => [1291845632 + f.enc, x.enc]
  | .cvbind f => [1342177280 + f.enc]
  | .draw f => [1358954496 + f.enc]
  | .drawk f => [1375731712 + f.enc]
  | .cvcur f => [1392508928 + f.enc]
  | .result f => [1409286144 + f.enc]
  | .rcmp f x => [1426063360 + f.enc, x.enc]
  | .trace f x => [1476395008 + f.enc, x.enc]
  | .tracea f x => [1493172224 + f.enc, x.enc]
  | .traceo f x => [1509949440 + f.enc, x.enc]
  | .hitrd f => [1526726656 + f.enc]
  | .hituv f => [1543503872 + f.enc]
  | .vmarch f x => [1560281088 + f.enc, x.enc]
  | .vmrd f => [1577058304 + f.enc]
  | .rsave f => [1593835520 + f.enc]
  | .rload f => [1610612736 + f.enc]
  | .rclr f => [1627389952 + f.enc]
  | .nop f => [2147483648 + f.enc]
  | .br f => [2164260864 + f.enc]
  | .brc f => [2181038080 + f.enc]
  | .brd f => [2197815296 + f.enc]
  | .brx f => [2214592512 + f.enc]
  | .join f => [2231369728 + f.enc]
  | .regang f => [2248146944 + f.enc]
  | .idle f => [2264924160 + f.enc]
  | .exit f => [2281701376 + f.enc]
  | .call f x => [2298478592 + f.enc, x.enc]
  | .ret f => [2315255808 + f.enc]
  | .grow f => [2332033024 + f.enc]
  | .setfmt f => [2348810240 + f.enc]
  | .getfmt f => [2365587456 + f.enc]
  | .qput f => [2382364672 + f.enc]
  | .qget f => [2399141888 + f.enc]
  | .bar f x => [2415919104 + f.enc, x.enc]
  | .setg f => [2432696320 + f.enc]
  | .sysrd f => [2449473536 + f.enc]
  | .syswr f => [2466250752 + f.enc]
  | .gadd f => [2550136832 + f.enc]
  | .gsub f => [2566914048 + f.enc]
  | .gmul f => [2583691264 + f.enc]
  | .gand f => [2600468480 + f.enc]
  | .gor f => [2617245696 + f.enc]
  | .gxor f => [2634022912 + f.enc]
  | .gshl f => [2650800128 + f.enc]
  | .gshr f => [2667577344 + f.enc]
  | .gsar f => [2684354560 + f.enc]
  | .gmin f => [2701131776 + f.enc]
  | .gmax f => [2717908992 + f.enc]
  | .gsel f => [2734686208 + f.enc]
  | .gcmp f x => [2751463424 + f.enc, x.enc]
  | .mpop f => [2768240640 + f.enc]
  | .mffs f => [2785017856 + f.enc]
  | .gaddi f => [2801795072 + f.enc]
  | .gli f x => [2818572288 + f.enc, x.enc]
  | .glih f x => [2835349504 + f.enc, x.enc]
  | .gld f x => [2952790016 + f.enc, x.enc]
  | .gst f x => [2969567232 + f.enc, x.enc]
  | .gatom f x => [2986344448 + f.enc, x.enc]
  | .cpy f x => [3003121664 + f.enc, x.enc]
  | .layout f x => [3019898880 + f.enc, x.enc]
  | .zfill f x => [3036676096 + f.enc, x.enc]
  | .bfence f => [3053453312 + f.enc]
  | .bwait f => [3070230528 + f.enc]
  | .callred f x => [3087007744 + f.enc, x.enc]
  | .cgather f x => [3103784960 + f.enc, x.enc]
  | .omap f x => [3221225472 + f.enc, x.enc]
  | .mma f x => [3238002688 + f.enc, x.enc]
  | .msqd f x => [3254779904 + f.enc, x.enc]
  | .mtopk f x => [3271557120 + f.enc, x.enc]
  | .mzero f x => [3288334336 + f.enc, x.enc]
  | .mstore f x => [3305111552 + f.enc, x.enc]
  | .maddt f x => [3321888768 + f.enc, x.enc]
  | .tcfg f x => [3338665984 + f.enc, x.enc]
  | .tevict f x => [3355443200 + f.enc, x.enc]
  | .trestore f x => [3372220416 + f.enc, x.enc]
  | .mutate f x => [3489660928 + f.enc, x.enc]
  | .replay f x => [3506438144 + f.enc, x.enc]
  | .rrd f => [3523215360 + f.enc]
  | .cvend f => [3539992576 + f.enc]
  | .launchd f x => [3623878656 + f.enc, x.enc]
  | .gridsync f => [3640655872 + f.enc]
  | .rqput f => [3657433088 + f.enc]
  | .rqputn f => [3674210304 + f.enc]
  | .rqget f => [3690987520 + f.enc]
  | .rqgetn f => [3707764736 + f.enc]
  | .rqcnt f => [3724541952 + f.enc]
  | .yield f => [3741319168 + f.enc]
  | .sleep f => [3758096384 + f.enc]
  | .evsig f => [3774873600 + f.enc]
  | .trap f => [3892314112 + f.enc]
  | .trapc f => [3909091328 + f.enc]
  | .tret f => [3925868544 + GM.enc 0 f]
  | .tretGoto f => [3925868544 + GM.enc 1 f]
  | .tretKill f => [3925868544 + GM.enc 2 f]
  | .bkpt f => [3942645760 + f.enc]
  | .haltTeam f => [3959422976 + GM.enc 0 f]
  | .haltFlush f => [3959422976 + GM.enc 1 f]
  | .errrd f => [3976200192 + f.enc]
  | .faultRecordWrite _ => []
  | .fresumeRetry _ _ _ => []
  | .fresumeAbort _ _ _ => []
  | .ticmdPage _ _ _ => []
  | .ticmdContext _ _ _ => []
  | .ticmdGrove _ _ _ => []
  | .ticmdAll _ _ => []
  | .invalidationComplete _ => []
  | .splitcfgWrite _ _ => []
  | .l2WriteBack _ => []
  | .patrolScrub _ _ => []
  | .sramUncorrectableError _ => []
  | .cacheParityError _ => []
  | .mirrorWriteApply _ _ => []
  | .spillFill _ => []
  | .scratchpadWaitEnd _ => []
  | .tileWaitEnd _ => []
  | .queueWaitEnd _ => []
  | .rendezvousWaitEnd _ => []
  | .barrierPhaseComplete _ _ _ => []
  | .gridsyncPhaseComplete _ => []
  | .batchWaitComplete _ => []
  | .convergentPerform _ => []
  | .growGrant _ _ => []
  | .evictedGroupReadmit _ => []
  | .recordQueueWaitEnd _ => []
  | .sleepExpiry _ => []
  | .engineQueueRoom _ => []
  | .launchQueueRoom _ => []
  | .cpyPerform _ _ => []
  | .layoutPerform _ _ => []
  | .zfillPerform _ _ => []
  | .omapPerform _ _ => []
  | .mmaChunk _ _ => []
  | .msqdPerform _ _ => []
  | .mtopkPerform _ _ => []
  | .mzeroPerform _ _ => []
  | .mstorePerform _ _ => []
  | .maddtPerform _ _ => []
  | .tcfgPerform _ _ => []
  | .tevictPerform _ _ _ => []
  | .trestorePerform _ _ _ => []
  | .callredPerform _ _ => []
  | .cgatherPerform _ _ => []
  | .trunkPartialReceive _ _ => []
  | .traversalStep _ _ _ => []
  | .marchStep _ _ _ => []
  | .issueSelect _ => []
  | .pathAged _ => []
  | .debugRecordWrite _ => []
  | .stallRecordWrite _ => []
  | .qkick _ _ _ => []
  | .qcfgWrite _ _ _ => []
  | .qstatHaltClear _ _ => []
  | .entryNop _ _ => []
  | .entryGraph _ _ => []
  | .entryInstall _ _ _ => []
  | .entrySignal _ _ => []
  | .entryWait _ _ => []
  | .graphNodeStart _ _ _ => []
  | .teamAdmission _ _ => []
  | .deviceLaunchStart _ => []
  | .groupRetire _ _ => []
  | .teamRetire _ _ => []
  | .gridEnd _ => []
  | .pscmdSave _ _ _ _ _ => []
  | .pscmdResume _ _ _ _ _ => []
  | .pscmdTeardown _ _ _ _ _ => []
  | .saveComplete _ => []
  | .powerOn => []
  | .fundamentalReset => []
  | .bootAttempt _ _ => []
  | .bootTimeout => []
  | .bootcmdWarm => []
  | .bootcmdSwap => []
  | .flashcmd _ _ => []
  | .lccmd _ _ _ => []
  | .standgrvWrite _ _ => []
  | .ringRegisterWrite _ _ _ => []
  | .gintAck _ _ => []
  | .dbgstopArm _ _ => []
  | .dbgstopGo _ => []
  | .trig _ => []
  | .triggerReceive _ _ => []
  | .hostPostedWrite _ _ => []
  | .hostRead _ _ => []
  | .apertureAccess _ _ _ _ => []
  | .peerAccessArrival _ _ _ _ => []
  | .supplySag _ => []
  | .sagRecoveryStep _ => []
  | .registerWrite _ _ _ => []
  | .flashWriteComplete _ => []
  | .peercfgWrite _ _ _ => []
  | .peerLinkTrained _ => []

/-- The bytes of an instruction in memory. -/
def encodeBytes (i : Instr) : List Byte := (encode i).flatMap bytesOfWord

/-- The instruction has words of its own: it is no event. -/
def hasWord (i : Instr) : Bool := !(encode i).isEmpty

end Sys2Proof
end

