-- ==== Sys2Proof/Machine/Translate.lean ====
section
/-! DEFINITION. The code translator: a portable object placed, with NOP before a two-word instruction at offset 60, relocated and
checked (spec/16 R354, R355, spec/07 R163, spec/22 R364, R365). -/
namespace Sys2Proof.Machine

/-- A word of placed code: the object's section and word that it comes from, or nothing for an inserted NOP. -/
structure PlacedWord where
  src : Option (Nat × Nat)
  word : Word
  deriving DecidableEq, Repr

/-- The word of NOP (spec/07 R177). -/
def nopWord : Word := 0x80000000
/-- The words of section `k` from word `i` on, placed from byte offset `off`; `ext` tells that an extension word comes next
(spec/07 R163). -/
def placeWords (k : Nat) : List Word → Nat → Nat → Bool → List PlacedWord
  | [], _, _, _ => []
  | w :: r, i, off, ext =>
    if ext then { src := some (k, i), word := w } :: placeWords k r (i + 1) (off + 4) false
    else if twoWords w.toNat && off % 64 == 60 then
      { src := none, word := nopWord } :: { src := some (k, i), word := w } :: placeWords k r (i + 1) (off + 8) true
    else { src := some (k, i), word := w } :: placeWords k r (i + 1) (off + 4) (twoWords w.toNat)
/-- Sections placed one after the other, each at the next 64 B boundary (spec/22 R364). -/
def placeParts : List (List Word) → Nat → List PlacedWord → List PlacedWord
  | [], _, done => done
  | p :: r, k, done =>
    let pad := (16 - done.length % 16) % 16
    let done := done ++ List.replicate pad { src := none, word := nopWord }
    placeParts r (k + 1) (done ++ placeWords k p 0 (4 * done.length) false)
/-- The byte offset at which word `i` of section `k` was placed; the section's end stands after its last word. -/
def offsetOf (ps : List PlacedWord) (k i : Nat) : Option Nat :=
  match ps.findIdx? fun p => p.src == some (k, i) with
  | some n => some (4 * n)
  | none => if i = 0 then none else (ps.findIdx? fun p => p.src == some (k, i - 1)).map fun n => 4 * (n + 1)

/-! What makes an object malformed (spec/05 R117, spec/22 R364). -/

/-- Does a kernel keep the limits of its declarations, its two sections being sections of the object with code in them? -/
def kernelOk (parts : List (List Word)) (k : ObjectKernel) : Bool :=
  (k.width == 16 || k.width == 32 || k.width == 64) && decide (k.roles.length ≤ 4) && decide (k.energy ≤ 7) &&
    (k.roles.all fun r => decide (1 ≤ r.groups) && decide (64 ≤ r.regs) && decide (r.regs ≤ 271) && decide (r.prio ≤ 3)) &&
    decide (k.roles.foldl (fun a r => a + r.groups) 0 ≤ 32) && !(parts.getD k.addrPart []).isEmpty && !(parts.getD k.codePart []).isEmpty
/-- Does every kernel, and does each section belong to one kernel, once? -/
def kernelsOk (o : CodeObject) : Bool :=
  let ps := o.kernels.flatMap fun k => [k.addrPart, k.codePart]
  o.kernels.all (kernelOk o.parts) && decide ps.Nodup
/-- The opcode of a word, its form bit above it. -/
def opcodeOf (w : Word) : Nat := w.toNat / 16777216
/-- Is an opcode assigned in a portable version? Version 5 is the native set; which opcodes an older version lacks is not in the
spec (spec/16 R355, notes/assumptions/10.md). -/
def opcodeIn (version : Nat) (w : Word) : Bool :=
  (match decodeWords w.toNat 0 with
    | .error .reservedOpcode => false
    | _ => true) && (decide (version = 5) || !Config.unassigned version (opcodeOf w))
/-- Is every instruction's opcode one of the version's? -/
def opcodesIn (version : Nat) : List Word → Bool → Bool
  | [], _ => true
  | w :: r, ext => (ext || opcodeIn version w) && opcodesIn version r (!ext && twoWords w.toNat)

/-! Relocations (spec/22 R365). -/

/-- The opcodes whose memory operand has an OFF field: the lane memory instructions, GLD, GST and GATOM. -/
def hasOff (op : Nat) : Bool :=
  (decide (56 ≤ op) && decide (op ≤ 69) && op != 67) || op == 176 || op == 177 || op == 178
/-- May a relocation of a kind stand at an instruction's first word? -/
def relocFits (kind : Nat) (w : Word) : Bool :=
  let op := opcodeOf w
  match kind with
  | 1 => op == 129
  | 2 => op == 130 || op == 131
  | 3 => op == 137
  | 4 => op == 168 || op == 21
  | 5 => op == 169
  | 6 => hasOff op
  | _ => false
/-- The value of a label, the code being placed at `base`: its address, or for one of the data section its offset in the data image
(spec/22 R363, R364). -/
def labelAt (base : Nat) (o : CodeObject) (ps : List PlacedWord) : CodeLabel → Option Nat
  | .own k i =>
    if k = o.parts.length then (if i ≤ o.data.length then some (4 * i) else none) else (offsetOf ps k i).map fun o => base + o
  | .far a => some a
/-- Is it a relocation of a word of the data section? Its value goes into the data image, which the host places; nothing installed
takes it (spec/22 R364, R365). -/
def inData (r : Reloc) (o : CodeObject) : Bool := r.part == o.parts.length && decide (r.word < o.data.length)
/-- The value that a relocation of a kind stores, before it is cut to its field, and whether it fits. -/
def relocValue (kind : Nat) (place target : Int) : Int × Bool :=
  let d := (target - place) / 4
  let aligned := target % 4 == 0
  let within (v lo hi : Int) : Bool := decide (lo ≤ v) && decide (v < hi)
  match kind with
  | 1 => (d, aligned && within d (-2 ^ 22) (2 ^ 22))
  | 2 => (d, aligned && within d (-2 ^ 14) (2 ^ 14))
  | 3 => (d, aligned && within d (-2 ^ 21) (2 ^ 21))
  | 4 => (target % 2 ^ 32, true)
  | 5 => (target / 2 ^ 32 % 2 ^ 32, true)
  | _ => (target, within target (-2 ^ 15) (2 ^ 15))
/-- The low `n` bits of a word from bit `lo` set to a value's. -/
def putField (w : Word) (lo n : Nat) (v : Int) : Word :=
  let old := w.toNat / 2 ^ lo % 2 ^ n
  BitVec.ofNat 32 (w.toNat - old * 2 ^ lo + (v % 2 ^ n).toNat * 2 ^ lo)
/-- What a relocation comes to: the code with its field set, or the status of the object's rejection with the value. -/
inductive Relocated where
  | done (ps : List PlacedWord)
  | rejected (status : Nat) (value : Int)
/-- The word at index `n` of placed code changed by `f`. -/
def onWord (ps : List PlacedWord) (n : Nat) (f : Word → Word) : List PlacedWord :=
  ps.modify n fun p => { p with word := f p.word }
/-- One relocation applied to code placed at `base`: STATUS 4 where its place or label is none of the object's, or its kind is not
one of that instruction or, at a data word, not kind 4; STATUS 5 where its value does not fit. The label's address and the value are in 64-bit two's complement
(spec/22 R363). -/
def relocate (base : Nat) (o : CodeObject) (ps : List PlacedWord) (r : Reloc) : Relocated :=
  if inData r o then if r.kind = 4 && (labelAt base o ps r.label).isSome then .done ps else .rejected 4 0 else
  match ps.findIdx? fun p => p.src == some (r.part, r.word) with
  | none => .rejected 4 0
  | some n =>
    if !relocFits r.kind ((ps.map (·.word)).getD n 0) then .rejected 4 0 else
    match labelAt base o ps r.label with
    | none => .rejected 4 0
    | some a =>
      let target : Int := (BitVec.ofInt 64 (a + r.addend)).toInt
      let v := relocValue r.kind (base + 4 * n) target
      if !v.2 then .rejected 5 v.1 else
      .done (match r.kind with
        | 1 => onWord ps n fun w => putField w 0 23 v.1
        | 2 => onWord ps n fun w => putField w 0 15 v.1
        | 3 => onWord ps (n + 1) fun w => putField w 0 22 v.1
        | 6 => onWord ps (n + 1) fun w => putField w 16 16 v.1
        | _ => onWord ps (n + 1) fun _ => BitVec.ofInt 32 v.1)
/-- Relocations applied in order, from index `k`; the first that is rejected gives its index. -/
def relocateAll (base : Nat) (o : CodeObject) : List Reloc → Nat → List PlacedWord → Except (Nat × Nat × Int) (List PlacedWord)
  | [], _, ps => .ok ps
  | r :: rest, k, ps => match relocate base o ps r with
    | .done ps => relocateAll base o rest (k + 1) ps
    | .rejected st v => .error (st, k, v)

/-! The verdict. -/

/-- The translator's verdict on an object for a context and a code region: a rejection with STATUS, RELOC and VALUE, or the code's
bytes and its kernels. -/
inductive Translation where
  | rejected (status reloc : Nat) (value : Dword)
  | code (bytes : List Byte) (kernels : List Kernel)
  deriving DecidableEq, Repr
/-- A kernel of placed code: its two sections are its entries. -/
def kernelOf (ctx base : Nat) (ps : List PlacedWord) (k : ObjectKernel) : Kernel :=
  { ctx := ctx, entry := base + (offsetOf ps k.codePart 0).getD 0, addrEntry := base + (offsetOf ps k.addrPart 0).getD 0
    width := k.width, roles := k.roles, energy := k.energy, replayable := k.replayable }
/-- An object translated, in the order of spec/16 R354: signature under the code key `key`, VERSION, then declarations, opcodes and relocations
(notes/assumptions/10.md gives the order of the last three). -/
def translateObject (key : BitVec 256) (ctx base : Nat) (o : CodeObject) : Translation :=
  if o.signer != some key then .rejected 1 0 0
  else if o.version = 0 ∨ 5 < o.version then .rejected 2 0 0
  else if !kernelsOk o then .rejected 4 0 0
  else if !(o.parts.all fun p => opcodesIn o.version p false) then .rejected 3 0 0
  else match relocateAll base o o.relocs 0 (placeParts o.parts 0 []) with
    | .error (st, k, v) => .rejected st k (if st = 5 then BitVec.ofInt 64 v else 0)
    | .ok ps => .code (ps.flatMap fun p => bytesOfWord p.word.toNat) (o.kernels.map (kernelOf ctx base ps))

end Sys2Proof.Machine
end

