-- ==== Sys2Proof/Machine/Control.lean ====
section
/-! DEFINITION. Control instructions: branches, divergence, calls, the format register (spec/08 R192 to R198). -/
namespace Sys2Proof.Machine

/-- The target of a displacement of `w` bits in words from the instruction's own address (spec/07 R167). -/
def branchTarget {w : Nat} (pc : Dword) (disp : BitVec w) : Dword := pc + (disp.signExtend 64) * 4
/-- An address operand: bits [55:2], with [1:0] and [63:56] zero. -/
def codeAddr (v : Dword) : Dword := BitVec.ofNat 64 (v.toNat / 4 % 2 ^ 54 * 4)
/-- The address of the unit's instruction. -/
def State.pcOf (s : State) (u : UnitId) : Dword := (s.thread u).pc

/-- BR (spec/08 R192). -/
def execBr (f : GB) (s : State) : Answer := issue (.br f) s fun u s => s.jump u (branchTarget (s.pcOf u) f.disp)
/-- BRC (spec/08 R192). -/
def execBrc (f : GC) (s : State) : Answer :=
  issue (.brc f) s fun u s =>
    s.jump u (if s.srcG u f.c.toNat != 0 then branchTarget (s.pcOf u) f.disp else s.pcOf u + 4)
/-- BRX (spec/08 R192). -/
def execBrx (f : GA) (s : State) : Answer := issue (.brx f) s fun u s => s.jump u (codeAddr (s.srcG u f.a.toNat))
/-- BRD: the path splits on the mask, or takes the divergence fault where the stack is full (spec/05 R124, spec/08 R193). -/
def execBrd (f : GC) (s : State) : Answer :=
  issue (.brd f) s fun u s =>
    match u with
    | .path c g i =>
      let pc := s.pcOf u
      match (s.group c g).brd i (s.srcG u f.c.toNat) (branchTarget pc f.disp) (pc + 4) with
      | some _ =>
        let m := s.srcG u f.c.toNat
        let s := (s.commit u).leave u
        s.onGroup c g fun k => (k.brd i m (branchTarget pc f.disp) (pc + 4)).getD k
      | none => s.faultUnit u (fltD 0x28 0)
    | _ => s
/-- JOIN: the innermost divergence is resolved, or the arms take the fault join mismatch (spec/05 R125). -/
def execJoin (f : GA) (s : State) : Answer :=
  issue (.join f) s fun u s =>
    match u with
    | .path c g i =>
      let j := s.pcOf u
      let s := s.dropOut u none
      match (s.group c g).join i j with
      | .mismatch who => who.foldl (fun s k => s.faultUnit (.path c g k) (fltD 0x28 1)) s
      | .ok _ =>
        let s := (s.commit u).leave u
        s.onGroup c g fun k => match k.join i j with
          | .ok k' => k'
          | .mismatch _ => k
    | _ => s
/-- REGANG: the path waits until every live lane stands at one (spec/05 R127). -/
def execRegang (f : GA) (s : State) : Answer :=
  issue (.regang f) s fun u s =>
    match u with
    | .path c g _ =>
      let p := s.pathOf u
      let s := s.dropOut u none
      if p.arm || p.stkv then s.faultUnit u (fltD 0x28 3) else
      let s := (s.commit u).leave u
      (s.onThread u fun t => { (t.restart t.pc) with state := .atRegang }).regangCheck c g
    | _ => s
/-- IDLE: lanes of the path become idle (spec/05 R126). -/
def execIdle (f : GA) (s : State) : Answer :=
  issue (.idle f) s fun u s => s.idleLanes u (s.maskOf u &&& s.srcG u f.a.toNat) (s.pcOf u + 4)

/-- A sequencer's stream ends (spec/08 R194); with a halt trap still to take its team is torn down (spec/15 R335). -/
def State.endStream (s : State) (u : UnitId) : State :=
  match (s.teamOf u).haltPending with
  | q :: _ => s.tearTeam u 0x10 (1 + 0x38 * 256 + q * 65536)
  | [] =>
    let s := (s.commit u).leave u
    s.onTeamOf u fun t => { t with seqExited := true, seq := t.seq.restart t.seq.pc }
/-- A lantern program ends (spec/08 R194). -/
def State.endProg (s : State) (u : UnitId) : State :=
  match u with
  | .lant l p =>
    let gid := s.gridOf u
    ((s.onLantern l fun k => { k with progs := k.progs.drop p }).leave u).countRetired gid false
  | _ => s
/-- May path `i` EXIT: the only entry, no open divergence, every live lane (spec/05 R128)? -/
def Group.mayExit (g : Group) (i : Nat) : Bool :=
  let p := g.path i
  g.paths.cells.length == 1 && !p.arm && !p.stkv && g.live &&& ~~~p.mask == 0
/-- EXIT: the group's lanes have exited, the stream or program has ended (spec/05 R128, spec/08 R194). -/
def execExit (f : GA) (s : State) : Answer :=
  issue (.exit f) s fun u s =>
    match u with
    | .path c g i =>
      let s := s.dropOut u none
      if !(s.group c g).mayExit i then s.faultUnit u (fltD 0x29 0) else
      let s := (s.commit u).leave u
      s.onGroup c g fun k => { k with exited := k.exited ||| k.live, paths := k.paths.drop i }
    | .seq _ _ => s.endStream u
    | .lant _ _ => s.endProg u

/-- CALL: link, window move, jump; a false guard only ends the run (spec/08 R195). -/
def execCall (f : GA) (x : CallX) (s : State) : Answer :=
  issue (.call f x) s fun u s =>
    let pc := s.pcOf u
    let n := f.b.toNat
    let next := pc + 8
    if x.cen && (s.srcG u x.c.toNat != 0) != x.csense then s.jump u next else
    let target := branchTarget pc x.disp
    let link : Dword := BitVec.ofNat 64 (n * 2 ^ 56) ||| codeAddr next
    let s' := s.sput u f.d.toNat link
    match u with
    | .path _ _ _ =>
      let p := s.pathOf u
      if 1 ≤ n ∧ 1024 < p.wb + n + 48 then s.faultUnit u stackOverflow
      else if s.spillBase (s.teamOf u) = 0 ∧ (s.groupOf u).needsSpill p.mask (p.wb + n) then
        s.faultUnit u stackOverflow
      else s'.moveWindow u (p.wb + n) target
    | _ => s'.jump u target
/-- RET: the window moves down by the link's shift; other units need a shift of 0 (spec/08 R196). -/
def execRet (f : GA) (s : State) : Answer :=
  issue (.ret f) s fun u s =>
    let link := s.srcG u f.a.toNat
    let n := fld link 56 8
    match u with
    | .path _ _ _ =>
      let p := s.pathOf u
      if n = 0 ∨ 48 < n ∨ p.wb < n then s.faultUnit u stackUnderflow
      else s.moveWindow u (p.wb - n) (codeAddr link)
    | _ => if n != 0 then s.faultUnit u stackUnderflow else s.jump u (codeAddr link)
/-- SETFMT (spec/08 R198). -/
def execSetfmt (f : GA) (s : State) : Answer :=
  issue (.setfmt f) s fun u s =>
    let v := (s.srcG u f.a.toNat).setWidth 32 &&& 31
    (s.onThread u fun t => { t with fmt := v }).doneG u (.setfmt f)
/-- GETFMT (spec/08 R198). -/
def execGetfmt (f : GA) (s : State) : Answer :=
  scalarOp (.getfmt f) f.d.toNat f.k (fun s u => ((s.thread u).fmt).setWidth 64) s

/-- SPILL_FILL (spec/05 R132). -/
def execSpillFill (u : UnitId) (s : State) : Answer :=
  .next (match u with
    | .path c g i => s.spillFill c g i
    | _ => s)
/-- CONVERGENT_PERFORM (spec/09 R221). -/
def execConvergentPerform (u : UnitId) (s : State) : Answer := .next (s.tryConverge u)

end Sys2Proof.Machine
end

