-- ==== Sys2Proof/Machine/TeamObj.lean ====
section
/-! DEFINITION. What the streams of a team share: queues, barriers, guard slots; and the system names
(spec/05 R119 to R121, spec/08 R199 to R203). -/
namespace Sys2Proof.Machine

/-! Queues. -/

/-- Queue `k` of a team, oldest entry first. -/
def Team.queue (t : Team) (k : Nat) : List Dword := t.queues.get k []
/-- QPUT: waits while the queue holds 16 entries; a release at team scope (spec/08 R199). The value is read when the
instruction issues. -/
def State.qput (f : GA) (u : UnitId) (s : State) : State :=
  let k := f.b.toNat
  let s := s.dropOut u none
  let v := s.srcG u f.a.toNat
  if 16 ≤ ((s.teamOf u).queue k).length then s.waitIn u { instr := .qput f, lo := 0 } else
  ((s.release u 1).onTeamOf u fun t => { t with queues := t.queues.put k (t.queue k ++ [v]) }).doneG u (.qput f)
/-- QGET: waits while the queue is empty; an acquire at team scope (spec/08 R199). -/
def State.qget (f : GA) (u : UnitId) (s : State) : State :=
  let k := f.b.toNat
  let s := s.dropOut u none
  match (s.teamOf u).queue k with
  | [] => s.waitIn u { instr := .qget f, lo := 0 }
  | v :: rest =>
    let s := (s.onTeamOf u fun t => { t with queues := t.queues.put k rest }).acquire u.node 1
    s.doneR u (.qget f) f.d.toNat f.k v
/-- QPUT. -/
def execQput (f : GA) (s : State) : Answer := issue (.qput f) s (State.qput f)
/-- QGET. -/
def execQget (f : GA) (s : State) : Answer := issue (.qget f) s (State.qget f)

/-! Barriers. -/

/-- The participant set that a BAR names. -/
def barPart (x : BarX) : Nat := x.roles.toNat + (if x.seq then 16 else 0)
/-- The units of a team: its sequencer and the paths of its groups. -/
def State.teamUnits (s : State) (c t : Nat) : List UnitId :=
  .seq c t :: ((s.core c).groups.cells.filter fun g => g.2.team == t).flatMap fun g =>
    g.2.paths.cells.map fun p => .path c g.1 p.1
/-- Does a unit wait in BAR at barrier `k`, its arrival counting for phase `ph`? -/
def Thread.atBar (t : Thread) (k ph : Nat) : Bool :=
  t.state == .waiting && (match t.wait with
    | some w => match w.instr with
      | .bar f _ => f.b.toNat == k && w.lo == ph
      | _ => false
    | none => false)
/-- Has every participant of barrier `k`'s phase arrived (spec/05 R120)? A group with no live lane has retired. -/
def State.barFull (s : State) (c t k : Nat) : Bool :=
  let tm := s.team c t
  let b := tm.bar k
  match b.set with
  | none => false
  | some part =>
    -- a group out on eviction has not arrived (spec/14 R318)
    !((s.core c).evicted.any fun e => e.group.team == t && part.testBit e.group.role && e.group.live != 0) &&
    ((s.core c).groups.cells.all fun g =>
      g.2.team != t || !part.testBit g.2.role || g.2.live &&& ~~~(b.arrived.get g.1 0) == 0) &&
      (part / 16 % 2 == 0 || b.seq || tm.seqExited)
/-- A unit's arrival counted at barrier `k`. -/
def State.barCount (s : State) (c t k part : Nat) (u : UnitId) : State :=
  s.onTeam c t fun tm =>
    let b := tm.bar k
    let b := { b with set := some (b.set.getD part) }
    let b := match u with
      | .path _ g _ => { b with arrived := b.arrived.put g (b.arrived.get g 0 ||| s.maskOf u) }
      | _ => { b with seq := true }
    { tm with bars := tm.bars.put k b }
/-- The phase of barrier `k` completes: its waiting parties depart, as from an acquire at team scope, and arrivals already
made for the next phase count there (spec/05 R120, spec/04 R94). -/
def State.barDepart (s : State) (c t k : Nat) : State :=
  let ph := ((s.team c t).bar k).phase
  let us := s.teamUnits c t
  let going := us.filter fun u => (s.thread u).atBar k ph
  let next := us.filter fun u => (s.thread u).atBar k (ph + 1)
  let s := s.onTeam c t fun tm =>
    { tm with bars := tm.bars.put k { phase := ph + 1, set := none, arrived := .empty, seq := false } }
  let s := going.foldl (fun s u =>
    match (s.thread u).wait with
    | some w => (s.acquire u.node 1).doneG u w.instr
    | none => s) s
  next.foldl (fun s u =>
    match (s.thread u).wait with
    | some w => match w.instr with
      | .bar _ x => s.barCount c t k (barPart x) u
      | _ => s
    | none => s) s
/-- The phase completes if every participant has arrived. -/
def State.barTry (s : State) (c t k : Nat) : State := if s.barFull c t k then s.barDepart c t k else s
/-- Has the party arrived already in the current phase: the sequencer, or a lane of the path? -/
def Barrier.has (b : Barrier) (u : UnitId) (m : Dword) : Bool :=
  match u with
  | .path _ g _ => b.arrived.get g 0 &&& m != 0
  | _ => b.seq
/-- BAR (spec/05 R120, spec/08 R200): an undeclared role is an illegal operand, a party outside the set or a set other than
the phase's is a barrier mismatch; otherwise the party arrives, as a release at team scope, and waits. -/
def execBar (f : GA) (x : BarX) (s : State) : Answer :=
  issue (.bar f x) s fun u s =>
    let k := f.b.toNat
    let c := u.place
    let t := s.teamSlot u
    let tm := s.team c t
    let roles := max 1 tm.kernel.roles.length
    let b := tm.bar k
    let inside := match u with
      | .path _ _ _ => x.roles.getLsbD (s.groupOf u).role
      | _ => x.seq
    let s := s.dropOut u none
    if 2 ^ roles ≤ x.roles.toNat then s.faultUnit u illegalOperand
    else if !inside || (b.set.any fun p => p != barPart x) then s.faultUnit u (fltD 0x2C k)
    else
      let s := s.release u 1
      if b.has u (s.maskOf u) then s.waitIn u { instr := .bar f x, lo := b.phase + 1 }
      else ((s.barCount c t k (barPart x) u).waitIn u { instr := .bar f x, lo := b.phase }).barTry c t k
/-- BARRIER_PHASE_COMPLETE (spec/05 R120). -/
def execBarrierPhaseComplete (c t k : Nat) (s : State) : Answer := .next (s.barTry c t k)

/-! Guard slots. -/

/-- Commands discarded by their guards are complete (spec/05 R121, spec/04 R99). -/
def dropDiscarded (l : List Cmd) : List Cmd := l.filter fun c => c.go != some false
/-- Every queue of a team changed by `f`. -/
def Team.mapQueues (t : Team) (f : EngQueue → EngQueue) : Team :=
  { t with eng := { cells := t.eng.cells.map fun q => (q.1, f q.2) } }
/-- Guard slot `k` resolved to `v`: held commands under it are decided (spec/05 R121). -/
def Team.resolve (t : Team) (k : Nat) (v : Bool) : Team :=
  let t := { t with guards := t.guards.put k v }
  t.mapQueues fun q => { q with cmds := dropDiscarded (q.cmds.map fun c =>
    match c.guard, c.go with
    | some (k', sense), .none => if k' = k then { c with go := some (v == sense) } else c
    | _, _ => c) }
/-- SETG (spec/05 R121, spec/08 R201): a path resolves an OPEN slot, as a release at team scope; the sequencer reopens
one. -/
def execSetg (f : GI) (s : State) : Answer :=
  issue (.setg f) s fun u s =>
    let k := f.d.toNat
    let tm := s.teamOf u
    if f.imm = 2 then (s.onTeamOf u fun t => { t with guards := t.guards.drop k }).doneG u (.setg f)
    else if tm.guards.has k then s.faultUnit u (fltD 0x2D k)
    else
      let v := if f.imm = 3 then s.srcG u f.a.toNat != 0 else f.imm == 1
      ((s.release u 1).onTeamOf u fun t => t.resolve k v).doneG u (.setg f)

/-! System names. -/

/-- A path's value of the names that only a compute path has (spec/08 R203). -/
def State.pathName (s : State) (u : UnitId) (code : Nat) : Nat :=
  let g := s.groupOf u
  let p := s.pathOf u
  match code with
  | 161 => g.number
  | 162 => g.role
  | 163 => g.width
  | 164 => g.launched.toNat
  | 165 => g.live.toNat
  | 166 => p.mask.toNat
  | 167 => match u with
    | .path _ _ i => i
    | _ => 0
  | 171 => g.number * g.width
  | 173 => g.alloc
  | 174 => p.wb
  | 175 => (g.xflags ||| p.th.run.xOver).toNat
  | _ => 0
/-- The team or program number of a unit. -/
def State.teamNumber (s : State) : UnitId → Nat
  | .lant l p => (s.prog l p).number
  | u => (s.teamOf u).number
/-- The value of a sys.* name for a unit (spec/08 R203); sys.spillbase of a lantern program is 0 (notes/assumptions/77.md). -/
def State.sysName (s : State) (u : UnitId) (code : Nat) : Nat :=
  let grid := s.grid (s.gridOf u)
  match code with
  | 160 => match u with
    | .path _ _ _ => 0
    | .seq _ _ => 1
    | .lant _ _ => 2
  | 168 => s.teamNumber u
  | 169 => grid.nteams
  | 170 => grid.args
  | 172 => match u with
    | .lant _ _ => 0
    | _ => s.spillBase (s.teamOf u)
  | 176 => s.ctxOf u
  | 177 => grid.grove
  | 178 => u.place
  | 179 => match u with
    | .lant l _ => (s.lantern l).clock.toNat
    | _ => (s.core u.place).clock.toNat
  | 180 => s.time.toNat
  | 181 => grid.kernel.energy
  | _ => if u.isPath then s.pathName u code else 0
/-- The clock that a name shows has advanced by a free amount since it was last read (notes/assumptions/8.md). -/
def State.advance (s : State) (u : UnitId) (code : Nat) : State :=
  if code = 180 then s.tick
  else if code = 179 then
    let d := BitVec.ofNat 64 s.freeVal
    match u with
    | .lant l _ => s.spend.onLantern l fun k => { k with clock := k.clock + d }
    | _ => s.spend.onCore u.place fun k => { k with clock := k.clock + d }
  else s
/-- SYSRD (spec/08 R202): anything but a named sys code is an illegal operand at step 7. -/
def execSysrd (f : GA) (s : State) : Answer :=
  issue (.sysrd f) s fun u s =>
    let code := f.a.toNat
    if code < 160 ∨ 181 < code then s.faultUnit u illegalOperand else
    let s := s.advance u code
    s.doneR u (.sysrd f) f.d.toNat f.k (BitVec.ofNat 64 (s.sysName u code))
/-- SYSWR (spec/08 R202): only sys.xflags can be written, where a 1 clears; other units ignore it. -/
def execSyswr (f : GA) (s : State) : Answer :=
  issue (.syswr f) s fun u s =>
    if f.d.toNat != 175 then s.faultUnit u illegalOperand else
    let clear := ~~~((s.srcG u f.a.toNat).setWidth 7)
    let s := s.onGroupOf u fun g => { g with xflags := (g.xflags ||| (s.pathOf u).th.run.xOver) &&& clear }
    (s.onRun u fun r => { r with xOver := 0 }).doneG u (.syswr f)

end Sys2Proof.Machine
end

