-- ==== Sys2Proof/Machine/Engine.lean ====
section
/-! DEFINITION. Engine commands: their queues, their accesses, how they end; batches; the copy engine
(spec/10 R237 to R243, spec/04 R96 to R99, spec/02 R73 to R76, spec/15 R335). -/
namespace Sys2Proof.Machine

/-! Issue. -/

/-- The engine queue of a command (spec/10 R237, spec/11 R251). -/
def engQueue : Instr → Nat
  | .cpy _ _ => 0
  | .layout _ _ => 0
  | .zfill _ _ => 0
  | .omap _ _ => 1
  | .mma _ _ => 1
  | .msqd _ _ => 1
  | .mtopk _ _ => 1
  | .mzero _ _ => 1
  | .mstore _ _ => 1
  | .maddt _ _ => 2
  | .tcfg _ _ => 2
  | .tevict _ x => if x.obj then 1 else 2
  | .trestore _ x => if x.obj then 1 else 2
  | .callred _ _ => 3
  | .cgather _ _ => 3
  | _ => 0
/-- Is there room for one more command in queue `q` (spec/10 R237)? -/
def State.engineRoom (s : State) (c t q : Nat) : Bool :=
  if q = 0 ∨ q = 3 then
    decide (((s.core c).teams.cells.foldl (fun a x => a + (x.2.engq 0).cmds.length + (x.2.engq 3).cmds.length) 0) < 1024)
  else decide (((s.team c t).engq q).cmds.length < 64)

/-- The guard of a command (spec/07 R170). -/
def guardOf (gen : Bool) (slot : BitVec 4) (sense : Bool) : Option (Nat × Bool) :=
  if gen then some (slot.toNat, sense) else none
/-- The lines of 256 bytes that hold bytes of [a, a + n), where the range lies in the team's allocation. -/
def Team.linesOf (t : Team) (a n : Nat) : List Nat :=
  if n = 0 || !t.spIn a n then [] else (pieces 256 a n).map fun p => p.1 / 256
/-- What a command brings to its queue. -/
structure NewCmd where
  guard : Option (Nat × Bool)
  ops : List Dword
  lines : List Nat
  rd : List Nat
  wr : List Nat
  empty : Bool
  record : Option (List Dword) := none

/-- A command of the sequencer placed in its queue, or a wait for room (spec/10 R237): it clears the presence of the lines it
will write, and a resolved guard decides it (spec/02 R53, spec/05 R121). One that is discarded or has nothing to do is
complete at once. -/
def State.enqueue (i : Instr) (f : State → UnitId → NewCmd) (u : UnitId) (s : State) : State :=
  let q := engQueue i
  if !s.engineRoom u.place (s.teamSlot u) q then s.waitIn u { instr := i, lo := 0 } else
  let x := f s u
  let tm := s.teamOf u
  let go := match x.guard with
    | none => some true
    | some (k, sense) => (tm.guards.find k).map (· == sense)
  let cmd : Cmd :=
    { id := tm.nextCmd, instr := i, ops := x.ops, record := x.record, guard := x.guard, go := go, lines := dedup x.lines,
      rdTiles := x.rd, wrTiles := x.wr, progress := 0, begun := false, buf := [], park := none, failed := false, doomed := false }
  (s.onTeamOf u fun t =>
    let t := { t with nextCmd := t.nextCmd + 1 }
    if x.empty || go == some false then t else t.onEngq q fun e => { e with cmds := e.cmds ++ [cmd] }).doneG u i

/-! How a command ends. -/

/-- The head of queue `q` of a team leaves it: it is complete (spec/04 R99). -/
def State.cmdDone (s : State) (c t q : Nat) : State :=
  s.onTeam c t fun k => k.onEngq q fun e => { e with cmds := e.cmds.tail }
/-- The head of queue `q` of a team changed by `f`. -/
def State.onHead (s : State) (c t q : Nat) (f : Cmd → Cmd) : State :=
  s.onTeam c t fun k => k.onEngq q fun e => match e.cmds with
    | [] => e
    | x :: r => { e with cmds := f x :: r }
/-- The head of queue `q` of a team that may move on: decided, neither held by a fault nor failed, its queue not halted, its team not
torn down. -/
def State.headOf (s : State) (c t q : Nat) : Option Cmd :=
  let tm := s.team c t
  let e := tm.engq q
  if tm.torn || e.halted then none else
  match e.cmds with
  | x :: _ => if x.go == some true && x.park.isNone && !x.failed then some x else none
  | [] => none

/-- The words of an instruction, as its encoder gives them. -/
def wordsOf (i : Instr) : Nat × Nat := ((encode i).getD 0 0, (encode i).getD 1 0)
/-- A command ends as ill-formed: its record enters the fault queue, and with it written the command completes (spec/15 R335).
`rec_` is the record without its last word. -/
def State.cmdFails (s : State) (c t q : Nat) (cmd : Cmd) (rec_ : List Dword) : State :=
  (s.onHead c t q fun x => { x with failed := true, park := none }).report c (s.team c t).ctx [rec_] (some (.failing c t q cmd.id)) none
/-- A command ends as ill-formed with an ECODE and the address it was using (spec/15 R335, R336). -/
def State.illFormed (s : State) (c t q : Nat) (cmd : Cmd) (ecode : Nat) (addr : Dword) : State :=
  let w := wordsOf cmd.instr
  let w2 : Dword := BitVec.ofNat 64 (s.place (.seq c t) + ecode * 2 ^ 40 + q * 2 ^ 48 + 2 ^ 63)
  s.cmdFails c t q cmd [addr &&& 0xFFFFFFFFFFFFFF, BitVec.ofNat 64 (w.1 + w.2 * 2 ^ 32), w2]
/-- A command meets a translation fault: NOTPRESENT holds it, anything else ends it (spec/10 R238, spec/01 R37, R38). -/
def State.cmdFault (s : State) (c t q : Nat) (cmd : Cmd) (f : Flt) : State :=
  let ctx := (s.team c t).ctx
  let rec_ := [f.addr, 0, recWord2 (s.place (.seq c t)) f 1 q]
  let s := s.met c ctx f
  if f.cause = 0 then
    let seq := (s.ctx ctx).seq
    let s := s.onHead c t q fun x => { x with park := some (seq, f.addr) }
    s.report c ctx [rec_] (some (.engine c t q)) none
  else s.cmdFails c t q cmd rec_

/-! Accesses. -/

/-- What a read by an engine gives: bytes, which of them come from a poisoned sector, and the fault that stopped it. -/
structure Got where
  s : State
  bytes : List Byte
  bad : List Bool
  flt : Option Flt
/-- What a write by an engine gives. -/
structure Put where
  s : State
  flt : Option Flt

/-- An engine read of global bytes, one access for each sector: t = p at home, the core's own pending writes seen
(spec/04 R96, spec/01 R27, R28). `req` is 2 for PAGE, 1 for L2, 0 for HOME. -/
def State.engRead (s : State) (c ctx : Nat) (va : Dword) (n req : Nat) : Got :=
  (pieces 64 va.toNat n).foldl (fun g p =>
    if g.flt.isSome then g else
    let a : Dword := BitVec.ofNat 64 p.1
    match g.s.translate c ctx a .engRead with
    | .error f => { g with flt := some f }
    | .ok x =>
      let pa := x.at_ c
      { s := (g.s.useLeaf c ctx a x .engRead).fillL2 pa (min 1 (effPol x req)) x.zel
        bytes := g.bytes ++ g.s.seeHome c pa p.2
        bad := g.bad ++ List.replicate p.2 (g.s.poisonedFor c pa p.2 (min 1 (effPol x req)))
        flt := none }) { s := s, bytes := [], bad := [], flt := none }

/-- Bytes of one sector written at home by an engine of core `c`: earlier writes of the core to them come first, and the
core's L1 lines are invalidated; `spoil` marks what it writes poisoned (spec/04 R96, spec/02 R59, R80, spec/04 R104). -/
def State.engStore (s : State) (c : Nat) (x : Xlat) (bs : List Byte) (req : Nat) (spoil : Bool) : State :=
  let pa := x.at_ c
  let s := s.drainOver c pa bs.length
  let s := if x.mir then s.mirrorWrite (nodeDie c) pa bs (effPol x req) spoil none
    else
      let s := s.writeHome pa bs (effPol x req)
      if spoil then s.spoilHome (pa / 64) else s
  s.onCaches c fun m => m.keepLines fun k => !overlaps (k * 64) 64 pa bs.length
/-- An engine write of global bytes, one access for each sector; `spoil` marks what it writes poisoned (spec/02 R80). -/
def State.engWrite (s : State) (c ctx : Nat) (va : Dword) (bs : List Byte) (req : Nat) (spoil : Bool) : Put :=
  (pieces 64 va.toNat bs.length).foldl (fun w p =>
    if w.flt.isSome then w else
    let a : Dword := BitVec.ofNat 64 p.1
    match w.s.translate c ctx a .engWrite with
    | .error f => { w with flt := some f }
    | .ok x =>
      { s := (w.s.useLeaf c ctx a x .engWrite).engStore c x ((bs.drop (p.1 - va.toNat)).take p.2) req spoil, flt := none })
    { s := s, flt := none }

/-- A read of a command's source: scratchpad or global. No command reaches scratchpad beyond its team's allocation, whatever an image
made of it (spec/15 R367, notes/assumptions/11.md). -/
def State.engSrc (s : State) (c t : Nat) (sp : Bool) (a : Dword) (n req : Nat) : Got :=
  if sp then
    if !(s.team c t).spIn a.toNat n then { s := s, bytes := List.replicate n 0, bad := List.replicate n false, flt := none } else
    { s := s, bytes := s.spRead c t a.toNat n
      bad := (List.range n).map fun i => s.spPoisoned c t (a.toNat + i) 1
      flt := none }
  else s.engRead c (s.team c t).ctx a n req
/-- A write of a command's destination: to global memory after what the sequencer's release fences have put before it
(spec/04 R97, spec/03 R92 row 7). -/
def State.engDst (s : State) (c t : Nat) (sp : Bool) (a : Dword) (bs : List Byte) (req : Nat) (spoil : Bool) : Put :=
  if sp then
    if !(s.team c t).spIn a.toNat bs.length then { s := s, flt := none } else
    let s := s.spWrite c t a.toNat bs
    { s := if spoil then s.spSpoil c t a.toNat bs.length else s, flt := none }
  else (s.fenced (.seq c t)).engWrite c (s.team c t).ctx a bs req spoil
/-- Is a scratchpad line of the send buffer [a, a + n) of collective command `id` absent (spec/02 R55)? The lines that it clears itself
hold it up for nothing: its receive buffer may be its send buffer (spec/10 R246, notes/assumptions/20.md). -/
def Team.absentFor (t : Team) (id a n : Nat) : Bool :=
  let on (l : Nat) : Bool := decide (a < (l + 1) * 256) && decide (l * 256 < a + n)
  t.absent.any on || t.eng.cells.any fun q => q.2.cmds.any fun x => x.id != id && x.lines.any on

/-- How a command's work ended: all done, a fault, an ill-formed condition, or a wait. -/
inductive CmdEnd where
  | done
  | fault (f : Flt)
  | ill (ecode : Nat) (addr : Dword)
  | wait
  deriving DecidableEq, Repr
/-- The work of a command: the state, how far it has come, whether it ended before all was done, the scratchpad lines that it has
still to write, where that differs from what it cleared (spec/02 R54), and the record that it uses from now on (spec/02 R76). -/
structure Work where
  s : State
  progress : Nat
  stop : Option CmdEnd
  left : Option (List Nat) := none
  record : Option (List Dword) := none

/-- Steps `progress` to `n` − 1 of a command's work, each by `f`, until one stops; with `lim`, only so many of them now
(spec/15 R339). -/
def Work.run (w : Work) (lim : Option Nat) (n : Nat) (f : State → Nat → Work) : Work :=
  let ks := (List.range n).drop w.progress
  let r := ((lim.map ks.take).getD ks).foldl (fun w k => if w.stop.isSome then w else f w.s k) w
  if r.stop.isNone && lim.isSome && decide (r.progress < n) then { r with stop := some .wait } else r
/-- Work done up to step `k`. -/
def workTo (s : State) (k : Nat) : Work := { s := s, progress := k, stop := none }
/-- Work that stops before step `k` is done. -/
def workStop (s : State) (k : Nat) (e : CmdEnd) : Work := { s := s, progress := k, stop := some e }
/-- A write as step `k` of the work. -/
def Put.work (p : Put) (k : Nat) : Work :=
  match p.flt with
  | none => workTo p.s (k + 1)
  | some f => workStop p.s k (.fault f)
/-- The work of the head of queue `q` taken over: it completes, is held, ends as ill-formed, or waits. -/
def State.settle (c t q : Nat) (cmd : Cmd) (w : Work) : State :=
  let s := w.s.onHead c t q fun x =>
    { x with progress := w.progress, begun := true, lines := w.left.getD x.lines, record := w.record.or x.record }
  match w.stop with
  | none => s.cmdDone c t q
  | some .done => s.cmdDone c t q
  | some (.fault f) => s.cmdFault c t q cmd f
  | some (.ill e a) => s.illFormed c t q cmd e a
  | some .wait => s

/-- Is command `x` held by an earlier one over a tile (spec/11 R248)? -/
def Team.tileHeld (t : Team) (x : Cmd) : Bool :=
  t.cmds.any fun y => decide (y.id < x.id) &&
    ((y.wrTiles.any fun k => x.rdTiles.contains k || x.wrTiles.contains k) || y.rdTiles.any fun k => x.wrTiles.contains k)
/-- The head of queue `q`, if it is a command that `sel` picks and nothing holds it, does its work. -/
def State.perform (s : State) (c t q : Nat) (work : State → Cmd → Option Work) : State :=
  match s.headOf c t q with
  | none => s
  | some x =>
    if (s.team c t).tileHeld x then s else
    match work s x with
    | none => s
    | some w => State.settle c t q x w

/-! Layout records. -/

/-- Bytes of an element by TYPE of a layout record (spec/02 R73). -/
def layoutElem (ty : Nat) : Nat := match ty with
  | 0 => 1 | 1 => 2 | 2 => 4 | 3 => 4 | 4 => 4 | _ => 8
/-- TYPE of a record. -/
def recType (r : List Dword) : Nat := fld (wordAt r 0) 56 4
/-- RANK of a record. -/
def recRank (r : List Dword) : Nat := fld (wordAt r 0) 60 3
/-- DIMk of a record. -/
def recDim (r : List Dword) (k : Nat) : Nat := fld (wordAt r (1 + k / 2)) (32 * (k % 2)) 32
/-- STRIDEk of a record; dimension 0 is contiguous. -/
def recStride (r : List Dword) (k : Nat) : Nat :=
  if k = 0 then layoutElem (recType r) else fld (wordAt r (2 + k)) 0 48
/-- Is a layout record well formed (spec/02 R73, R74)? -/
def layoutOk (r : List Dword) : Bool :=
  let e := layoutElem (recType r)
  let rank := recRank r
  let base := fld (wordAt r 0) 0 56
  let last := (List.range rank).foldl (fun a k => a + (recDim r k - 1) * recStride r k) (base + e - 1)
  decide (recType r ≤ 7) && decide (1 ≤ rank) && decide (rank ≤ 4) && base % e == 0 && !(wordAt r 0).getLsbD 63 &&
    (List.range 3).all (fun k => fld (wordAt r (3 + k)) 48 16 == 0) && fld (wordAt r 6) 33 31 == 0 && wordAt r 7 == 1 &&
    (List.range 4).all (fun k =>
      if k < rank then recDim r k != 0 && recStride r k % e == 0
      else recDim r k == 1 && (k == 0 || recStride r k == 0)) &&
    decide (last < 2 ^ 56)

/-- What a command finds for a layout handle: the record, or why it cannot be used. -/
structure Layout where
  s : State
  words : List Dword
  stop : Option CmdEnd
/-- A core's layout cache with a record put in; it holds 256 (spec/02 R76). -/
def keepLayout (l : List LayoutEntry) (e : LayoutEntry) : List LayoutEntry :=
  (e :: l.filter fun x => !(x.ctx == e.ctx && x.handle == e.handle)).take 256
/-- The record of a handle loaded from memory and checked (spec/02 R76); poison of its bytes is not looked at
(notes/assumptions/69.md). -/
def State.loadLayout (s : State) (c ctx : Nat) (h : Dword) : Layout :=
  if h.toNat % 64 != 0 then { s := s, words := [], stop := some (.ill 0x01 h) } else
  let g := s.engRead c ctx h 64 2
  match g.flt with
  | some f => { s := g.s, words := [], stop := some (.fault f) }
  | none =>
    let r := dwordsOfBytes 8 g.bytes
    if !layoutOk r then { s := g.s, words := r, stop := some (.ill 0x01 h) } else
    let s := g.s.onCore c fun k => { k with layouts := keepLayout k.layouts { ctx := ctx, handle := h.toNat, words := r } }
    { s := s, words := r, stop := none }
/-- The record of a handle as the cache holds it, or loaded on first use. -/
def State.useLayout (s : State) (c ctx : Nat) (h : Dword) : Layout :=
  match (s.core c).layouts.find? fun x => x.ctx == ctx && x.handle == h.toNat with
  | some e => { s := s, words := e.words, stop := none }
  | none => s.loadLayout c ctx h

/-! CPY. -/

/-- Does CPY's mode write scratchpad? -/
def cpyToSp (mode : Nat) : Bool := mode == 0 || mode == 3 || mode == 4
/-- Does CPY's mode read scratchpad? -/
def cpyFromSp (mode : Nat) : Bool := mode == 1 || mode == 3 || mode == 5
/-- Is CPY's mode a box mode? -/
def cpyBox (mode : Nat) : Bool := mode == 4 || mode == 5
/-- n_k of a box from its third operand. -/
def boxExt (ops : List Dword) (k : Nat) : Nat := fld (wordAt ops 4) (16 * k) 16
/-- o_k of a box. -/
def boxOrg (ops : List Dword) (k : Nat) : Int := signed 32 (fld (wordAt ops (2 + k / 2)) (32 * (k % 2)) 32)
/-- Elements of a box. -/
def boxCount (ops : List Dword) : Nat := boxExt ops 0 * boxExt ops 1 * boxExt ops 2 * boxExt ops 3
/-- The lines of a command of which only the most bytes are known that it may write from `a` on: those of its range that lie in the
team's allocation (notes/assumptions/21.md). -/
def Team.linesUpTo (t : Team) (a n : Nat) : List Nat := t.linesOf a (min n (t.spSize - a))
/-- The record with which a box copy is placed in its queue, if it has one there: the one that its handle names now, unless a LAYOUT
of its queue stands before it, whose outcome it is to use (spec/02 R53, R76, spec/10 R241, notes/assumptions/21.md). -/
def State.boxRecord (s : State) (u : UnitId) (ops : List Dword) : Option (List Dword) :=
  let r := s.useLayout u.place (s.ctxOf u) (wordAt ops 1)
  let behind := ((s.teamOf u).engq 0).cmds.any fun x => match x.instr with
    | .layout _ _ => true
    | _ => false
  if behind || r.stop.isSome then none else some r.words
/-- The lines that a box copy clears at issue: its elements have the size that its record gives; without one, they may have the largest
(notes/assumptions/21.md). -/
def Team.boxLines (t : Team) (r : Option (List Dword)) (ops : List Dword) : List Nat :=
  let d := (wordAt ops 0).toNat
  match r with
  | .none => t.linesUpTo d (8 * boxCount ops)
  | some r =>
    let n := boxCount ops * layoutElem (recType r)
    if 2 ^ 30 < n then [] else t.linesOf d n
/-- CPY (spec/10 R239, R240). -/
def State.cpy (f : GA) (x : CpyX) : UnitId → State → State :=
  State.enqueue (.cpy f x) fun s u =>
    let mode := x.mode.toNat
    let d := s.sget u f.d.toNat
    let a := s.srcG u f.a.toNat
    let b := f.b.toNat
    if cpyBox mode then
      let ops := [d, a, s.sget u b, s.sget u (b + 1), s.sget u (b + 2)]
      let r := s.boxRecord u ops
      { guard := guardOf x.gen x.gslot x.gsense, ops := ops, rd := [], wr := [], empty := false, record := r
        lines := if mode == 4 then (s.teamOf u).boxLines r ops else [] }
    else
      let n := s.sget u b
      { guard := guardOf x.gen x.gslot x.gsense, ops := [d, a + x.soff.signExtend 64, n], rd := [], wr := []
        empty := n == 0
        lines := if cpyToSp mode && decide (n.toNat ≤ 2 ^ 30) then (s.teamOf u).linesOf d.toNat n.toNat else [] }
/-- CPY. -/
def execCpy (f : GA) (x : CpyX) (s : State) : Answer := issue (.cpy f x) s (State.cpy f x)

/-- A linear copy's ill-formed conditions (spec/10 R240). -/
def Team.linearBad (t : Team) (mode d a n : Nat) : Bool :=
  decide (2 ^ 30 < n) || (cpyToSp mode && !t.spIn d n) || (cpyFromSp mode && !t.spIn a n) ||
    ((mode == 2 || mode == 3) && decide (a < d + n) && decide (d < a + n))
/-- One aligned unit of 64 destination bytes of a linear copy: unit `k` of those from `d` up, of a copy of `n` bytes. -/
def State.linearUnit (c t : Nat) (mode req : Nat) (d a : Dword) (p : Nat × Nat) (k : Nat) (s : State) : Work :=
  let off := p.1 - d.toNat
  let g := s.engSrc c t (cpyFromSp mode) (a + BitVec.ofNat 64 off) p.2 req
  match g.flt with
  | some f => workStop g.s k (.fault f)
  | none => (g.s.engDst c t (cpyToSp mode) (d + BitVec.ofNat 64 off) g.bytes req (g.bad.any id)).work k
/-- The scratchpad lines of pieces of at most 64 bytes. -/
def linesOfPieces (us : List (Nat × Nat)) : List Nat := dedup (us.map fun p => p.1 / 256)
/-- The work of a linear copy. -/
def State.linearCopy (s : State) (c t : Nat) (x : CpyX) (lim : Option Nat) (cmd : Cmd) : Work :=
  let mode := x.mode.toNat
  let d := wordAt cmd.ops 0
  let a := wordAt cmd.ops 1
  let n := (wordAt cmd.ops 2).toNat
  let tm := s.team c t
  if tm.linearBad mode d.toNat a.toNat n then workStop s 0 (.ill 0x03 0)
  else if cpyFromSp mode && tm.spAbsent a.toNat n then workStop s cmd.progress .wait
  else
    let us := pieces 64 d.toNat n
    let w := (workTo s cmd.progress).run lim us.length fun s k => s.linearUnit c t mode (reqOf x.pol.toNat) d a (us.getD k (0, 0)) k
    { w with left := some (if cpyToSp mode then linesOfPieces (us.drop w.progress) else []) }

/-- Coordinate k of element `n` of a box, in the visiting order of spec/02 R75. -/
def boxCoord (ops : List Dword) (n k : Nat) : Int :=
  let below := (List.range k).foldl (fun a j => a * boxExt ops j) 1
  boxOrg ops k + (n / below % boxExt ops k : Nat)
/-- Is the element in bounds? -/
def boxIn (r : List Dword) (ops : List Dword) (n : Nat) : Bool :=
  (List.range (recRank r)).all fun k => decide (0 ≤ boxCoord ops n k) && decide (boxCoord ops n k < recDim r k)
/-- The address of an element in bounds. -/
def boxAddr (r : List Dword) (ops : List Dword) (n : Nat) : Dword :=
  BitVec.ofNat 64 ((List.range (recRank r)).foldl (fun a k => a + (boxCoord ops n k).toNat * recStride r k)
    (fld (wordAt r 0) 0 56))
/-- PAD's low bytes, as an element. -/
def boxPad (r : List Dword) : List Byte := natLe (layoutElem (recType r)) (fld (wordAt r 6) 0 32)
/-- What the elements of a box from `k` on give that a piece of the destination takes: their bytes, whether poison was met, and what
stopped them. -/
structure Gathered where
  s : State
  bytes : List Byte
  bad : Bool
  stop : Option CmdEnd
/-- Elements `k` to `k + n - 1` of a box read: those out of bounds are PAD, or end the command (spec/02 R75). -/
def State.boxGather (s : State) (c t req : Nat) (r ops : List Dword) (k n : Nat) : Gathered :=
  (List.range n).foldl (fun g i =>
    if g.stop.isSome then g
    else if boxIn r ops (k + i) then
      let x := g.s.engRead c (s.team c t).ctx (boxAddr r ops (k + i)) (layoutElem (recType r)) req
      { s := x.s, bytes := g.bytes ++ x.bytes, bad := g.bad || x.bad.any id, stop := x.flt.map .fault }
    else if (wordAt r 6).getLsbD 32 then { g with stop := some (.ill 0x01 0) }
    else { g with bytes := g.bytes ++ boxPad r }) { s := s, bytes := [], bad := false, stop := none }
/-- One aligned unit of 64 scratchpad bytes of a box read: piece `p`, number `k` (spec/02 R56, R75, R80, spec/10 R240). Elements before
one that ends the command are written. -/
def State.boxUnit (c t req : Nat) (r ops : List Dword) (p : Nat × Nat) (k : Nat) (s : State) : Work :=
  let e := layoutElem (recType r)
  let off := p.1 - (wordAt ops 0).toNat
  let g := s.boxGather c t req r ops (off / e) ((off + p.2 - 1) / e + 1 - off / e)
  let bs := (g.bytes.drop (off % e)).take p.2
  let put (s : State) : State := (s.engDst c t true (BitVec.ofNat 64 p.1) bs req g.bad).s
  match g.stop with
  | none => workTo (put g.s) (k + 1)
  | some (.ill x a) => workStop (if bs.isEmpty then g.s else put g.s) k (.ill x a)
  | some x => workStop g.s k x
/-- One element written to a tensor; an element out of bounds is dropped, or ends the command (spec/02 R75, spec/10 R240). -/
def State.boxPut (c t req : Nat) (r ops : List Dword) (k : Nat) (s : State) : Work :=
  let e := layoutElem (recType r)
  if boxIn r ops k then
    let g := s.engSrc c t true (wordAt ops 0 + BitVec.ofNat 64 (e * k)) e req
    (g.s.engDst c t false (boxAddr r ops k) g.bytes req (g.bad.any id)).work k
  else if (wordAt r 6).getLsbD 32 then workStop s k (.ill 0x01 0)
  else workTo s (k + 1)
/-- The record that a box copy uses: before its first unit it comes from the layout cache, which loads it where it must; a copy that had
one at issue, or has begun, goes on with that one (spec/02 R76). -/
def State.boxLayout (s : State) (c t : Nat) (cmd : Cmd) : Layout :=
  match cmd.progress, cmd.record with
  | _ + 1, some r => { s := s, words := r, stop := none }
  | _, o =>
    let l := s.useLayout c (s.team c t).ctx (wordAt cmd.ops 1)
    if l.stop.isSome then l else { l with words := o.getD l.words }
/-- The work of a box copy: its record says which lines it has still to write. A box with no element has an empty range, which is in
the allocation where it begins there (spec/10 R240, notes/assumptions/80.md). -/
def State.boxCopy (s : State) (c t : Nat) (x : CpyX) (lim : Option Nat) (cmd : Cmd) : Work :=
  let ops := cmd.ops
  let l := s.boxLayout c t cmd
  match l.stop with
  | some e => workStop l.s cmd.progress e
  | none =>
    let r := l.words
    let tm := l.s.team c t
    let n := boxCount ops
    let d := (wordAt ops 0).toNat
    let bytes := n * layoutElem (recType r)
    let flat := (List.range 4).all fun k => decide (k < recRank r) || (boxExt ops k == 1 && boxOrg ops k == 0)
    if 2 ^ 30 < bytes || !flat || !tm.spIn d bytes then workStop l.s cmd.progress (.ill 0x03 0)
    else if x.mode == 4 then
      let us := pieces 64 d bytes
      let w := (workTo l.s cmd.progress).run lim us.length fun s k => s.boxUnit c t (reqOf x.pol.toNat) r ops (us.getD k (0, 0)) k
      { w with left := some (linesOfPieces (us.drop w.progress)), record := some r }
    else if tm.spAbsent d bytes then { workStop l.s cmd.progress .wait with record := some r }
    else { (workTo l.s cmd.progress).run lim n fun s k => s.boxPut c t (reqOf x.pol.toNat) r ops k with record := some r }
/-- CPY's work: all of it, or `lim` of its units. -/
def State.cpyWork (c t : Nat) (lim : Option Nat) (s : State) (cmd : Cmd) : Option Work :=
  match cmd.instr with
  | .cpy _ x => some (if cpyBox x.mode.toNat then s.boxCopy c t x lim cmd else s.linearCopy c t x lim cmd)
  | _ => none
/-- CPY_PERFORM (spec/10 R240). -/
def execCpyPerform (c t : Nat) (s : State) : Answer := .next (s.perform c t 0 (State.cpyWork c t none))

/-! LAYOUT and ZFILL. -/

/-- LAYOUT (spec/10 R241). -/
def State.layout (f : GA) (x : LayoutX) : UnitId → State → State :=
  State.enqueue (.layout f x) fun s u =>
    { guard := guardOf x.gen x.gslot x.gsense, ops := [s.srcG u f.a.toNat], lines := [], rd := [], wr := [], empty := false }
/-- LAYOUT. -/
def execLayout (f : GA) (x : LayoutX) (s : State) : Answer := issue (.layout f x) s (State.layout f x)
/-- LAYOUT_PERFORM (spec/10 R241, spec/02 R76). -/
def execLayoutPerform (c t : Nat) (s : State) : Answer :=
  .next (s.perform c t 0 fun s cmd => match cmd.instr with
    | .layout _ x =>
      let h := wordAt cmd.ops 0
      let ctx := (s.team c t).ctx
      if x.op then
        some (workTo (s.onCore c fun k => { k with layouts := k.layouts.filter fun e => !(e.ctx == ctx && e.handle == h.toNat) }) 1)
      else
        let l := s.loadLayout c ctx h
        some { s := l.s, progress := 0, stop := l.stop }
    | _ => none)

/-- ZFILL (spec/10 R242). -/
def State.zfill (f : GA) (x : ZfillX) : UnitId → State → State :=
  State.enqueue (.zfill f x) fun s u =>
    let a := s.srcG u f.a.toNat + x.off.signExtend 64
    let n := s.sget u f.b.toNat
    { guard := guardOf x.gen x.gslot x.gsense, ops := [a, n], rd := [], wr := [], empty := n == 0
      lines := if x.sp && decide (n.toNat ≤ 2 ^ 30) then (s.teamOf u).linesOf a.toNat n.toNat else [] }
/-- ZFILL. -/
def execZfill (f : GA) (x : ZfillX) (s : State) : Answer := issue (.zfill f x) s (State.zfill f x)
/-- One line or part of a line of a global ZFILL (spec/02 R70, spec/04 R104). -/
def State.zeroUnit (c t : Nat) (p : Nat × Nat) (k : Nat) (s : State) : Work :=
  let a : Dword := BitVec.ofNat 64 p.1
  let ctx := (s.team c t).ctx
  match s.translate c ctx a .engWrite with
  | .error f => workStop s k (.fault f)
  | .ok x =>
    if p.2 = 256 && inHbm x.pa then
      let pa := x.at_ c
      let s := ((s.fenced (.seq c t)).useLeaf c ctx a x .engWrite).drainOver c pa 256
      let s := if x.mir then s.mirrorWrite (nodeDie c) pa (List.replicate 256 0) (effPol x 2) false (some x.zel)
        else s.zeroLine pa 256 x.zel
      workTo (s.onCaches c fun m => m.keepLines fun j => !overlaps (j * 64) 64 pa 256) (k + 1)
    else (s.engDst c t false a (List.replicate p.2 0) 2 false).work k
/-- Bytes of scratchpad written by a command from unit `cmd.progress` of 64 bytes on: all that is left at once, or `lim` units. -/
def State.spFill (s : State) (c t a : Nat) (bs : List Byte) (lim : Option Nat) (cmd : Cmd) : Work :=
  let us := pieces 64 a bs.length
  match lim with
  | none => workTo (s.spWrite c t (us.getD cmd.progress (a, 0)).1 (bs.drop ((us.getD cmd.progress (a, 0)).1 - a))) us.length
  | some _ =>
    let w := (workTo s cmd.progress).run lim us.length fun s k =>
      let p := us.getD k (a, 0)
      workTo (s.spWrite c t p.1 ((bs.drop (p.1 - a)).take p.2)) (k + 1)
    { w with left := some (linesOfPieces (us.drop w.progress)) }
/-- ZFILL's work: all of it, or `lim` of its units. -/
def State.zfillWork (c t : Nat) (lim : Option Nat) (s : State) (cmd : Cmd) : Option Work :=
  match cmd.instr with
  | .zfill _ x =>
    let a := wordAt cmd.ops 0
    let n := (wordAt cmd.ops 1).toNat
    let tm := s.team c t
    some (if 2 ^ 30 < n || (x.sp && !tm.spIn a.toNat n) then workStop s 0 (.ill 0x03 0)
      else if x.sp then s.spFill c t a.toNat (List.replicate n 0) lim cmd
      else
        let us := pieces 256 a.toNat n
        (workTo s cmd.progress).run lim us.length fun s k => s.zeroUnit c t (us.getD k (0, 0)) k)
  | _ => none
/-- ZFILL_PERFORM (spec/10 R242). -/
def execZfillPerform (c t : Nat) (s : State) : Answer := .next (s.perform c t 0 (State.zfillWork c t none))

/-! Batches. -/

/-- BFENCE: the commands issued since the previous BFENCE are closed into batch n (spec/04 R99). -/
def execBfence (f : GI) (s : State) : Answer :=
  issue (.bfence f) s fun u s =>
    (s.onTeamOf u fun t =>
      { t with closures := t.closures.put f.imm.toNat (t.fenceLo, t.nextCmd), fenceLo := t.nextCmd }).doneG u (.bfence f)
/-- Has every command with a number from `lo` to `hi` − 1 completed? -/
def Team.rangeDone (t : Team) (lo hi : Nat) : Bool := t.cmds.all fun c => !(decide (lo ≤ c.id) && decide (c.id < hi))
/-- BWAIT: waits until the latest closure of its batch has completed, then is an acquire at core scope (spec/04 R99,
spec/10 R243). -/
def State.bwait (f : GI) (u : UnitId) (s : State) : State :=
  let tm := s.teamOf u
  let r := tm.closures.get f.imm.toNat (0, 0)
  if tm.rangeDone r.1 r.2 then (s.acquire u.node 2).doneG u (.bwait f)
  else s.waitIn u { instr := .bwait f, lo := 0 }
/-- BWAIT. -/
def execBwait (f : GI) (s : State) : Answer := issue (.bwait f) s (State.bwait f)

end Sys2Proof.Machine
end

