-- ==== Sys2Proof/Machine/RaySlot.lean ====
section
/-! DEFINITION. The ray slot and the exact arithmetic of rays, boxes and primitives (spec/13 R285 to R294). -/
namespace Sys2Proof.Machine

/-! The slot: 32 words, each field a word, its lowest bit and its width (spec/13 R285). -/

/-- A field of the ray slot. -/
structure SlotField where
  word : Nat
  lo : Nat
  n : Nat
/-- A slot's field. -/
def slotGet (w : Tab Dword) (f : SlotField) : Nat := fld (w.get f.word 0) f.lo f.n
/-- A slot with a field set. -/
def slotSet (w : Tab Dword) (f : SlotField) (v : Nat) : Tab Dword := w.put f.word (setFld (w.get f.word 0) f.lo f.n v)
/-- FP32 half `h` of word `k`. -/
def slotHalf (k h : Nat) : SlotField := { word := k, lo := 32 * h, n := 32 }
/-- HT. -/
def fHT : SlotField := slotHalf 4 0
/-- HU. -/
def fHU : SlotField := slotHalf 4 1
/-- HV. -/
def fHV : SlotField := slotHalf 5 0
/-- HINST. -/
def fHINST : SlotField := slotHalf 5 1
/-- HPRIM. -/
def fHPRIM : SlotField := slotHalf 6 0
/-- HFLAGS. -/
def fHFLAGS : SlotField := slotHalf 6 1
/-- ROOT. -/
def fROOT : SlotField := { word := 7, lo := 0, n := 56 }
/-- TRAIL. -/
def fTRAIL : SlotField := { word := 16, lo := 0, n := 64 }
/-- LEVEL. -/
def fLEVEL : SlotField := { word := 17, lo := 0, n := 6 }
/-- SP. -/
def fSP : SlotField := { word := 17, lo := 6, n := 4 }
/-- DROP. -/
def fDROP : SlotField := { word := 17, lo := 10, n := 1 }
/-- OP. -/
def fOP : SlotField := { word := 17, lo := 11, n := 3 }
/-- PHASE. -/
def fPHASE : SlotField := { word := 17, lo := 14, n := 2 }
/-- VMASK. -/
def fVMASK : SlotField := { word := 17, lo := 16, n := 8 }
/-- CULLB. -/
def fCULLB : SlotField := { word := 17, lo := 24, n := 1 }
/-- INI. -/
def fINI : SlotField := { word := 17, lo := 25, n := 1 }
/-- ILEVEL. -/
def fILEVEL : SlotField := { word := 17, lo := 26, n := 6 }
/-- INODE. -/
def fINODE : SlotField := { word := 18, lo := 0, n := 56 }
/-- VOL. -/
def fVOL : SlotField := { word := 19, lo := 0, n := 56 }
/-- CX, CY and CZ by axis. -/
def fCell (x : Nat) : SlotField := { word := 20, lo := 10 * x, n := 10 }
/-- VACT. -/
def fVACT : SlotField := { word := 20, lo := 30, n := 1 }
/-- DEN. -/
def fDEN : SlotField := { word := 20, lo := 31, n := 1 }
/-- STRM. -/
def fSTRM : SlotField := { word := 20, lo := 32, n := 4 }
/-- VEV. -/
def fVEV : SlotField := { word := 20, lo := 36, n := 2 }
/-- VT. -/
def fVT : SlotField := slotHalf 21 0
/-- VTEND. -/
def fVTEND : SlotField := slotHalf 21 1
/-- SBAR. -/
def fSBAR : SlotField := slotHalf 22 0
/-- SIG. -/
def fSIG : SlotField := slotHalf 22 1
/-- NNULL. -/
def fNNULL : SlotField := slotHalf 23 0
/-- NDRAW. -/
def fNDRAW : SlotField := slotHalf 23 1
/-- CVPTR. -/
def fCVPTR : SlotField := { word := 24, lo := 0, n := 56 }
/-- DCUR. -/
def fDCUR : SlotField := { word := 25, lo := 0, n := 17 }
/-- IPC. -/
def fIPC : SlotField := { word := 26, lo := 0, n := 56 }

/-- Several fields set. -/
def slotSets (w : Tab Dword) (l : List (SlotField × Nat)) : Tab Dword := l.foldl (fun w f => slotSet w f.1 f.2) w
/-- The slot of lane `l` of a path's group. -/
def State.slot (s : State) (u : UnitId) (l : Nat) : Tab Dword := (s.groupOf u).slots.get l .empty
/-- The slot of lane `l` set; its fields are final at once (spec/13 R304). -/
def State.slotPut (s : State) (u : UnitId) (l : Nat) (w : Tab Dword) : State :=
  s.onGroupOf u fun g => { g with slots := g.slots.put l w }
/-- The slot's 32 words. -/
def slotWords (w : Tab Dword) : List Dword := (List.range 32).map fun k => w.get k 0
/-- A slot from words. -/
def slotOf (l : List Dword) : Tab Dword := { cells := (List.range 32).map fun k => (k, wordAt l k) }

/-! The ray. -/

/-- A ray in some space. -/
structure Ray where
  o : List Word
  d : List Word
  tmin : Word
  tmax : Word
  deriving DecidableEq, Repr
/-- A component of a vector. -/
def comp (v : List Word) (x : Nat) : Word := v.getD x 0
/-- An FP32 field of a slot. -/
def slotW (w : Tab Dword) (k h : Nat) : Word := BitVec.ofNat 32 (slotGet w (slotHalf k h))
/-- The ray of a slot. -/
def rayOf (w : Tab Dword) : Ray :=
  { o := [slotW w 0 0, slotW w 0 1, slotW w 1 0], d := [slotW w 2 0, slotW w 2 1, slotW w 3 0], tmin := slotW w 1 1,
    tmax := slotW w 3 1 }
/-- x < y as reals; false with NaN. -/
def ltW (x y : Word) : Bool := val32 x != .nan && val32 y != .nan && decide ((val32 x).cmp (val32 y) < 0)
/-- x = 0 as a real. -/
def zeroW (x : Word) : Bool := x.toNat % 2 ^ 31 == 0
/-- min and max of spec/09 R214. -/
def minW (x y : Word) : Word := BitVec.ofNat 32 (pickFloat fp32 false true x.toNat y.toNat)
/-- The larger. -/
def maxW (x y : Word) : Word := BitVec.ofNat 32 (pickFloat fp32 false false x.toNat y.toNat)
/-- Has the ray no hit, reading no memory (spec/13 R287)? -/
def Ray.void (r : Ray) : Bool :=
  (r.o ++ r.d ++ [r.tmin, r.tmax]).any (fun x => val32 x == .nan) || r.d.all zeroW || ltW r.tmax r.tmin
/-- A ray taken through a 3 × 4 matrix, row-major (spec/13 R291). -/
def Ray.through (r : Ray) (m : List Word) : Ray :=
  let e (i j : Nat) : Word := m.getD (4 * i + j) 0
  let dot (i : Nat) (v : List Word) : Word :=
    add32 (add32 (mul32 (e i 0) (comp v 0)) (mul32 (e i 1) (comp v 1))) (mul32 (e i 2) (comp v 2))
  { r with o := (List.range 3).map fun i => add32 (dot i r.o) (e i 3), d := (List.range 3).map fun i => dot i r.d }
/-- +∞. -/
def infW : Word := 0x7F800000
/-- box() of spec/13 R291: the interval, or a miss. -/
def boxTest (lo hi : List Word) (r : Ray) (tlo thi : Word) : Option (Word × Word) :=
  let t := (List.range 3).foldl (fun acc x => match acc with
    | none => none
    | some (tn, tf) =>
      let l := comp lo x
      let h := comp hi x
      let o := comp r.o x
      let d := comp r.d x
      if val32 l == .nan || val32 h == .nan then none
      else if zeroW d then if ltW o l || ltW h o then none else some (tn, tf)
      else
        let ta := div32 (sub32 l o) d
        let tb := div32 (sub32 h o) d
        some (maxW tn (minW ta tb), minW tf (maxW ta tb))) (some (tlo, thi))
  match t with
  | some (tn, tf) => if ltW tf tn then none else some (tn, tf)
  | none => none

/-! Triangles (spec/13 R292). -/

/-- An FP32 value in units of 2^-149; nothing for an infinity or NaN. -/
def unitsW (x : Word) : Option Int :=
  match val32 x with
  | .fin v => some (v.units (-149))
  | _ => none
/-- A quotient of integers times a power of two, rounded to FP32; a zero quotient by a negative divisor is −0
(notes/assumptions/84.md). -/
def rnQuot (n : Int) (d : Int) (e : Int) : Word := rn32 ((FloatVal.fin (.ofInt n e)).div (.fin (.ofInt d 0)))
/-- What a triangle test gives: t, the barycentrics, whether the face is the front. -/
structure TriHit where
  t : Word
  u : Word
  v : Word
  front : Bool
  deriving DecidableEq, Repr
/-- The axis of the largest magnitude, the lowest on ties. -/
def mainAxis (d : List Word) : Nat :=
  let big (x y : Nat) : Bool := decide ((val32 (comp d x)).abs.cmp (val32 (comp d y)).abs < 0)
  let a := if big 0 1 then 1 else 0
  if big a 2 then 2 else a
/-- The sheared vertices of a triangle in units of 2^-149. -/
def shear (r : Ray) (q : List Word) : Option (List Int) :=
  let kz := mainAxis r.d
  let k1 := (kz + 1) % 3
  let k2 := (k1 + 1) % 3
  let neg := ltW (comp r.d kz) 0
  let kx := if neg then k2 else k1
  let ky := if neg then k1 else k2
  let sx := div32 (comp r.d kx) (comp r.d kz)
  let sy := div32 (comp r.d ky) (comp r.d kz)
  let sz := div32 0x3F800000 (comp r.d kz)
  let p (x : Nat) : Word := sub32 (comp q x) (comp r.o x)
  match unitsW (sub32 (p kx) (mul32 sx (p kz))), unitsW (sub32 (p ky) (mul32 sy (p kz))), unitsW (mul32 sz (p kz)) with
  | some x, some y, some z => some [x, y, z]
  | _, _, _ => none
/-- The test of a triangle; a sheared value that is not finite makes it a miss (notes/assumptions/24.md). -/
def triTest (r : Ray) (cull : Bool) (a b c : List Word) : Option TriHit :=
  match shear r a, shear r b, shear r c with
  | some a, some b, some c =>
    let g (l : List Int) (k : Nat) : Int := l.getD k 0
    let u := g c 0 * g b 1 - g c 1 * g b 0
    let v := g a 0 * g c 1 - g a 1 * g c 0
    let w := g b 0 * g a 1 - g b 1 * g a 0
    let det := u + v + w
    if (decide (u < 0) || decide (v < 0) || decide (w < 0)) && (decide (0 < u) || decide (0 < v) || decide (0 < w)) then none
    else if det = 0 then none
    else if cull && decide (det < 0) then none
    else
      let t := rnQuot (u * g a 2 + v * g b 2 + w * g c 2) det (-149)
      if ltW t r.tmin || ltW r.tmax t then none
      else some { t := t, u := rnQuot v det 0, v := rnQuot w det 0, front := decide (0 < det) }
  | _, _, _ => none

/-! Curves (spec/13 R293). -/

/-- RN of an exact sum of FP32 values with integer weights, times 2^e. -/
def rnSum (l : List (Int × Word)) (e : Int) : Word :=
  rnInt (l.foldl (fun a p => a + p.1 * ((unitsW p.2).getD 0)) 0) (e - 149)
/-- Point Q_i of a curve's centreline. -/
def curvePoint (p : List (List Word)) (i : Nat) : List Word :=
  let j : Int := (8 - i : Nat)
  let k : Int := i
  (List.range 3).map fun x => rnSum
    [(j * j * j, comp (p.getD 0 []) x), (3 * j * j * k, comp (p.getD 1 []) x), (3 * j * k * k, comp (p.getD 2 []) x),
     (k * k * k, comp (p.getD 3 []) x)] (-9)
/-- Radius ρ_i. -/
def curveRadius (r0 r1 : Word) (i : Nat) : Word := rnSum [((8 - i : Nat), r0), ((i : Int), r1)] (-3)
/-- The direction w across sub-segment i, if it can be hit. -/
def curveAcross (r : Ray) (q0 q1 : List Word) : Option (List Word) :=
  let e (x : Nat) : Word := sub32 (comp q1 x) (comp q0 x)
  let c (x : Nat) : Word :=
    let y := (x + 1) % 3
    let z := (x + 2) % 3
    sub32 (mul32 (comp r.d y) (e z)) (mul32 (comp r.d z) (e y))
  let n2 := add32 (add32 (mul32 (c 0) (c 0)) (mul32 (c 1) (c 1))) (mul32 (c 2) (c 2))
  if zeroW n2 || (val32 n2).special then none else
  let sc := rn32 (fnRsq (val32 n2)).1
  some ((List.range 3).map fun x => mul32 (c x) sc)
/-- A corner: Q ± ρ × w. -/
def curveCorner (q w : List Word) (rho : Word) (plus : Bool) : List Word :=
  (List.range 3).map fun x =>
    let m := mul32 rho (comp w x)
    if plus then add32 (comp q x) m else sub32 (comp q x) m

/-! Patches (spec/13 R294). -/

/-- 6 n³ B_i(a/n). -/
def splineW (i a n : Nat) : Int :=
  let a : Int := a
  let n : Int := n
  match i with
  | 0 => (n - a) * (n - a) * (n - a)
  | 1 => 3 * a * a * a - 6 * a * a * n + 4 * n * n * n
  | 2 => -3 * a * a * a + 3 * a * a * n + 3 * a * n * n + n * n * n
  | _ => a * a * a
/-- Grid point G[a][b] of a patch diced into n × n cells. -/
def patchPoint (p : List (List Word)) (n a b : Nat) : List Word :=
  (List.range 3).map fun x =>
    let sum := (List.range 16).foldl (fun acc k =>
      acc + splineW (k / 4) a n * splineW (k % 4) b n * ((unitsW (comp (p.getD k []) x)).getD 0)) 0
    rnQuot sum ((36 * n ^ 6 : Nat) : Int) (-149)

/-! Hits in order (spec/13 R295). -/

/-- The places of a key after t. -/
def Hit.key (h : Hit) : List Nat := [h.inst, h.prim, h.addr, if h.kind = 1 then h.sub else h.ca * 32 + h.cb, h.half]
/-- Lexicographic order of lists of one length. -/
def lexLt : List Nat → List Nat → Bool
  | a :: r, b :: t => decide (a < b) || (a == b && lexLt r t)
  | _, _ => false
/-- Is the key of `x` less than that of `y`? -/
def Hit.before (x y : Hit) : Bool := ltW x.t y.t || (!ltW y.t x.t && lexLt x.key y.key)
/-- Do two hits have one t, HINST and HPRIM? -/
def Hit.ties (x y : Hit) : Bool := !ltW x.t y.t && !ltW y.t x.t && x.inst == y.inst && x.prim == y.prim
/-- The least of a list of candidates and one that may be held. -/
def leastHit (best : Option Hit) (l : List Hit) : Option Hit :=
  l.foldl (fun b h => match b with
    | none => some h
    | some g => if h.before g then some h else some g) best
/-- HFLAGS of a hit (spec/13 R286). -/
def Hit.flags (h : Hit) : Nat :=
  1 + (if h.front then 2 else 0) + h.kind * 4 + h.sub * 16 + h.ca * 128 + h.cb * 4096 + h.half * 2 ^ 17
/-- The hit that a slot holds, with its record's address. -/
def heldHit (w : Tab Dword) (addr : Nat) : Option Hit :=
  let f := slotGet w fHFLAGS
  if f % 2 = 0 then none else
  some { t := BitVec.ofNat 32 (slotGet w fHT), u := BitVec.ofNat 32 (slotGet w fHU), v := BitVec.ofNat 32 (slotGet w fHV),
         inst := slotGet w fHINST, prim := slotGet w fHPRIM, addr := addr, kind := f / 4 % 4, sub := f / 16 % 8,
         ca := f / 128 % 32, cb := f / 4096 % 32, half := f / 2 ^ 17 % 2, front := f / 2 % 2 == 1 }
/-- A slot that holds a hit, or none with HT = TMAX. -/
def slotHit (w : Tab Dword) (h : Option Hit) : Tab Dword :=
  match h with
  | some h => slotSets w [(fHT, h.t.toNat), (fHU, h.u.toNat), (fHV, h.v.toNat), (fHINST, h.inst), (fHPRIM, h.prim),
      (fHFLAGS, h.flags)]
  | none => slotSets w [(fHT, (rayOf w).tmax.toNat), (fHU, 0), (fHV, 0), (fHINST, 0), (fHPRIM, 0), (fHFLAGS, 0)]

end Sys2Proof.Machine
end

