-- ==== Sys2Proof/Machine/Trace.lean ====
section
/-! DEFINITION. The traversal unit: scene records, the walk, TRACE, TRACEA, TRACEO, and the instructions that read or move the
ray slot (spec/13 R288 to R299, R303 to R306). -/
namespace Sys2Proof.Machine

/-- The traversal fault with its cause number (spec/13 R305). -/
def trvFault (cause : Nat) : Flt := fltD 0x15 cause
/-- A page of a range that is read: its address, its translation, and how many bytes of it. -/
structure ScenePage where
  addr : Dword
  xl : Xlat
  len : Nat
/-- The pages of a range that is read, all translated before any byte is (spec/13 R303). -/
def State.scenePages (s : State) (u : UnitId) (va : Dword) (n : Nat) : Except Flt (List ScenePage) :=
  (pieces 65536 va.toNat n).foldl (fun acc p => do
    let l ← acc
    let a : Dword := BitVec.ofNat 64 p.1
    let x ← s.translate u.node (s.ctxOf u) a .load
    pure (l ++ [{ addr := a, xl := x, len := p.2 }])) (pure [])
/-- A read of scene, volume or slot bytes by a lane, with t = p (spec/13 R303, R306). -/
def State.sceneLoad (s : State) (u : UnitId) (va : Dword) (n : Nat) : Except Flt (List Byte × State) := do
  let l ← s.scenePages u va n
  match l.find? fun p => s.poisonedFor u.node (p.xl.at_ u.node) p.len 0 with
  | some p => throw (poisonAt .load p.addr)
  | none =>
    pure (l.foldl (fun r p =>
      (r.1 ++ (r.2.readBy (s.whoOf u) p.xl p.len 2 true).1,
        ((r.2.useLeaf u.node (s.ctxOf u) p.addr p.xl .load).readBy (s.whoOf u) p.xl p.len 2 true).2)) ([], s))
/-- A natural number in a record's bytes. -/
def recNat (b : List Byte) (at_ n : Nat) : Nat := leNat ((b.drop at_).take n)
/-- FP32 words in a record's bytes. -/
def recWords (b : List Byte) (at_ n : Nat) : List Word := (List.range n).map fun k => BitVec.ofNat 32 (recNat b (at_ + 4 * k) 4)

/-! Nodes (spec/13 R288, R290). -/

/-- A child of a node. -/
structure Child where
  slot : Nat
  ty : Nat
  target : Nat
  cnt : Nat
  lo : List Word
  hi : List Word
  deriving DecidableEq, Repr
/-- Child slot c of a node at `a`: its target may lie outside the space, as a signed number. -/
def childOf (b : List Byte) (a : Nat) (c : Nat) : Child × Int :=
  let r := recNat b (96 + 6 * c) 6
  let off : Int := signed 45 (r / 8)
  let tgt : Int := a + off * 128
  ({ slot := c, ty := r % 8, target := tgt.toNat, cnt := recNat b (120 + c) 1, lo := recWords b (24 * c) 3,
     hi := recWords b (24 * c + 12) 3 }, tgt)
/-- Does a child keep spec/13 R288, in the top level or under an instance? -/
def childOk (inside : Bool) (k : Child × Int) : Bool :=
  let c := k.1
  let leaf := decide (3 ≤ c.ty)
  decide (c.ty ≤ 5) && (leaf == (c.cnt != 0)) &&
    (c.ty == 0 || (decide (0 ≤ k.2) && decide (k.2 < 2 ^ 56))) &&
    !(leaf && !inside) && !(c.ty == 2 && inside)
/-- The children of a node that are not empty. -/
def State.readNode (s : State) (u : UnitId) (a : Nat) (inside : Bool) : Except Flt (List Child × State) := do
  if a % 128 != 0 then throw (trvFault 0)
  let (b, s) ← s.sceneLoad u (BitVec.ofNat 64 a) 128
  let cs := (List.range 4).map (childOf b a)
  if recNat b 124 4 == 0 && cs.all (childOk inside) then pure ((cs.map (·.1)).filter (·.ty != 0), s)
  else throw (trvFault 0)
/-- An instance: its node, root, INDEX, MASK, DICE and world-to-object matrix. -/
structure Inst where
  node : Nat
  root : Nat
  index : Nat
  mask : Nat
  dice : Nat
  wto : List Word
  deriving DecidableEq, Repr
/-- An instance node read. -/
def State.readInst (s : State) (u : UnitId) (a : Nat) : Except Flt (Inst × State) := do
  if a % 128 != 0 then throw (trvFault 0)
  let (b, s) ← s.sceneLoad u (BitVec.ofNat 64 a) 128
  let i : Inst := { node := a, root := recNat b 96 7, index := recNat b 104 4, mask := recNat b 108 1,
                    dice := recNat b 109 1 % 8, wto := recWords b 48 12 }
  if recNat b 103 1 == 0 && decide (i.dice ≤ 5) && decide (recNat b 109 1 < 8) && recNat b 110 18 == 0 then pure (i, s)
  else throw (trvFault 0)

/-! The walk. -/

/-- Where the walk stands: a node or leaf, its level and instance. -/
structure Pos where
  addr : Nat
  ty : Nat
  cnt : Nat
  level : Nat
  inst : Option Inst
  ilevel : Nat
  deriving DecidableEq, Repr
/-- The ray in the space of a place. -/
def Pos.ray (p : Pos) (w : Tab Dword) : Ray := match p.inst with
  | some i => (rayOf w).through i.wto
  | none => rayOf w
/-- The top-level root. -/
def rootPos (w : Tab Dword) : Pos := { addr := slotGet w fROOT, ty := 1, cnt := 0, level := 0, inst := none, ilevel := 0 }
/-- Step from a place into a child: a node at level 32 raises DEPTH (spec/13 R296). -/
def State.enterChild (s : State) (u : UnitId) (p : Pos) (c : Child) : Except Flt (Pos × State) := do
  let l := p.level + 1
  if c.ty ≤ 2 ∧ 32 ≤ l then throw (trvFault 1)
  if c.ty = 2 then
    let (i, s) ← s.readInst u c.target
    pure ({ addr := i.root, ty := 1, cnt := 0, level := l, inst := some i, ilevel := l }, s)
  else pure ({ p with addr := c.target, ty := c.ty, cnt := c.cnt, level := l }, s)
/-- A child's entry value over [TMIN, +∞], if its box is met there (spec/13 R296). -/
def childEntry (r : Ray) (c : Child) : Option Word := (boxTest c.lo c.hi r r.tmin infW).map (·.1)
/-- A child put in its place by (tn, slot). -/
def orderIn (x : Word × Child) : List (Word × Child) → List (Word × Child)
  | [] => [x]
  | y :: r => if ltW x.1 y.1 then x :: y :: r else y :: orderIn x r
/-- The children of a node whose boxes are met, in (tn, slot) order. -/
def ordered (r : Ray) (cs : List Child) : List Child :=
  ((cs.filterMap fun c => (childEntry r c).map fun t => (t, c)).foldl (fun l x => orderIn x l) []).map (·.2)
/-- Is a child not culled: its box is met over [TMIN, bound], and its instance's MASK admits the ray? -/
def State.unculled (s : State) (u : UnitId) (r : Ray) (bound : Word) (vmask : Nat) (c : Child) : Except Flt (Bool × State) := do
  if (boxTest c.lo c.hi r r.tmin bound).isNone then pure (false, s)
  else if c.ty = 2 then
    let (i, s) ← s.readInst u c.target
    pure (i.mask &&& vmask != 0, s)
  else pure (true, s)
/-- The children of a list that are not culled. -/
def State.keepUnculled (s : State) (u : UnitId) (r : Ray) (bound : Word) (vmask : Nat) (cs : List Child) :
    Except Flt (List Child × State) :=
  cs.foldl (fun acc c => do
    let (l, s) ← acc
    let (k, s) ← s.unculled u r bound vmask c
    pure (if k then l ++ [c] else l, s)) (pure ([], s))
/-- The slot taken at a level of the trail. -/
def trailAt (w : Tab Dword) (l : Nat) : Nat := slotGet w fTRAIL / 4 ^ l % 4
/-- The trail with slot `c` at level `l` and nothing above it. -/
def trailSet (w : Tab Dword) (l c : Nat) : Tab Dword := slotSet w fTRAIL (slotGet w fTRAIL % 4 ^ l + c * 4 ^ l)
/-- The place reached from `p` by `n` levels of the trail; a trail that leads nowhere breaks the scene's rules. -/
def State.follow (u : UnitId) (w : Tab Dword) : Nat → State → Pos → Except Flt (Pos × State)
  | 0, s, p => pure (p, s)
  | n + 1, s, p => do
    if p.ty != 1 then throw (trvFault 0)
    let (cs, s) ← s.readNode u p.addr p.inst.isSome
    match cs.find? fun c => c.slot == trailAt w p.level with
    | none => throw (trvFault 0)
    | some c => do
      let (q, s) ← s.enterChild u p c
      follow u w n s q
/-- The slot after entering a place (spec/13 R296). -/
def slotEnter (w : Tab Dword) (p : Pos) : Tab Dword :=
  slotSets w [(fLEVEL, p.level), (fINI, if p.inst.isSome then 1 else 0), (fINODE, (p.inst.map (·.node)).getD 0),
    (fILEVEL, if p.inst.isSome then p.ilevel else 0)]
/-- A stack entry pushed; the oldest is dropped where eight are held (spec/13 R286, R296). -/
def slotPush (w : Tab Dword) (c : Child) (level : Nat) : Tab Dword :=
  let sp := slotGet w fSP
  let w := if sp = 8 then
      slotSets ((List.range 7).foldl (fun a k => a.put (8 + k) (w.get (9 + k) 0)) w) [(fDROP, 1), (fSP, 7)] else w
  let sp := slotGet w fSP
  let e := packD [(level, 0), (if c.ty = 2 then 1 else 0, 6), (c.target / 128 % 2 ^ 49, 7), (c.slot, 56)]
  slotSet (w.put (8 + sp) e) fSP (sp + 1)
/-- STK, TRAIL, LEVEL, SP and DROP cleared. -/
def slotNoWalk (w : Tab Dword) : Tab Dword :=
  slotSets ((List.range 8).foldl (fun a k => a.put (8 + k) 0) w) [(fTRAIL, 0), (fLEVEL, 0), (fSP, 0), (fDROP, 0)]
/-- finish(S): the walk's fields cleared, the operation complete (spec/13 R296). -/
def slotFinish (w : Tab Dword) : Tab Dword := slotSet (slotNoWalk w) fPHASE 2
/-- A walk that stands at the root and holds nothing. -/
def slotAfresh (w : Tab Dword) : Tab Dword := slotEnter (slotNoWalk w) (rootPos w)
/-- The bound: the t of the least hit held, or TMAX. -/
def slotBound (w : Tab Dword) : Word := BitVec.ofNat 32 (slotGet w fHT)

/-! Leaves (spec/13 R289, R292 to R294). -/

/-- Hits of a triangle record. -/
def triRecord (r : Ray) (cull : Bool) (i : Inst) (a : Nat) (b : List Byte) : List Hit :=
  match triTest r cull (recWords b 0 3) (recWords b 12 3) (recWords b 24 3) with
  | some h => [{ t := h.t, u := h.u, v := h.v, inst := i.index, prim := recNat b 36 4, addr := a, kind := 0, sub := 0, ca := 0,
                 cb := 0, half := 0, front := h.front }]
  | none => []
/-- Hits of a curve record: eight ribbons of two triangles. -/
def curveRecord (r : Ray) (i : Inst) (a : Nat) (b : List Byte) : List Hit :=
  let p := (List.range 4).map fun k => recWords b (12 * k) 3
  let r0 : Word := BitVec.ofNat 32 (recNat b 48 4)
  let r1 : Word := BitVec.ofNat 32 (recNat b 52 4)
  (List.range 8).flatMap fun n =>
    let q0 := curvePoint p n
    let q1 := curvePoint p (n + 1)
    match curveAcross r q0 q1 with
    | none => []
    | some w =>
      let l0 := curveCorner q0 w (curveRadius r0 r1 n) false
      let g0 := curveCorner q0 w (curveRadius r0 r1 n) true
      let l1 := curveCorner q1 w (curveRadius r0 r1 (n + 1)) false
      let g1 := curveCorner q1 w (curveRadius r0 r1 (n + 1)) true
      [(0, triTest r false l0 g0 g1), (1, triTest r false l0 g1 l1)].filterMap fun x => x.2.map fun h =>
        { t := h.t, u := h.u, v := h.v, inst := i.index, prim := recNat b 56 4, addr := a, kind := 1, sub := n, ca := 0, cb := 0,
          half := x.1, front := h.front }
/-- Hits of a patch record: n² cells of two triangles. -/
def patchRecord (r : Ray) (cull : Bool) (i : Inst) (a : Nat) (b : List Byte) : List Hit :=
  let p := (List.range 16).map fun k => recWords b (12 * k) 3
  let n := 2 ^ i.dice
  (List.range (n * n)).flatMap fun k =>
    let ca := k / n
    let cb := k % n
    let g00 := patchPoint p n ca cb
    let g11 := patchPoint p n (ca + 1) (cb + 1)
    [(0, triTest r cull g00 (patchPoint p n (ca + 1) cb) g11), (1, triTest r cull g00 g11 (patchPoint p n ca (cb + 1)))].filterMap
      fun x => x.2.map fun h =>
        { t := h.t, u := h.u, v := h.v, inst := i.index, prim := recNat b 192 4, addr := a, kind := 2, sub := 0, ca := ca, cb := cb,
          half := x.1, front := h.front }
/-- Bytes of a leaf's record, and how many FP32 words it opens with. -/
def leafRecord (ty : Nat) : Nat × Nat := if ty = 3 then (48, 9) else if ty = 4 then (64, 14) else (208, 48)
/-- The hits of a leaf: a record with a coordinate or radius that is not finite is never hit. -/
def State.leafHits (s : State) (u : UnitId) (p : Pos) (r : Ray) (cull : Bool) : Except Flt (List Hit × State) :=
  match p.inst with
  | none => throw (trvFault 0)
  | some i =>
    let z := leafRecord p.ty
    (List.range p.cnt).foldl (fun acc k => do
      let (l, s) ← acc
      let a := p.addr + z.1 * k
      let (b, s) ← s.sceneLoad u (BitVec.ofNat 64 a) z.1
      let hs := if (recWords b 0 z.2).any fun x => (val32 x).special then []
        else if p.ty = 3 then triRecord r cull i a b
        else if p.ty = 4 then curveRecord r i a b
        else patchRecord r cull i a b
      pure (l ++ hs, s)) (pure ([], s))

/-! Steps (spec/13 R296). -/

/-- A slot and the address of its held hit's record, where the unit has it: an RLOADed slot does not hold it. `best`: the
candidates that a TRACEO in flight has kept so far; nothing where the slot was moved, and the walk then begins again. -/
structure Walk where
  s : State
  w : Tab Dword
  addr : Option Nat
  best : Option (List Hit)
/-- The slot's held hit. -/
def Walk.held (k : Walk) : Option Hit := heldHit k.w (k.addr.getD 0)
/-- Is a candidate's key greater than the held hit's, whatever the address of a record that the unit does not have? With no
held hit every key is: the spec names no key there (notes/assumptions/85.md). -/
def Walk.above (k : Walk) (x : Hit) : Bool := match k.held with
  | some h => if k.addr.isSome then h.before x else h.before x && !h.ties x
  | none => true
/-- Can only the address of the held hit's record, which the unit does not have, say whether a candidate's key is greater? -/
def Walk.unsure (k : Walk) (x : Hit) : Bool := k.addr.isNone && k.held.any fun h => h.ties x
/-- What a TRACEO keeps of its candidates: the least above the held hit, and those that only its record's address places. -/
def Walk.keep (k : Walk) (l : List Hit) : List Hit := l.filter k.unsure ++ (leastHit none (l.filter k.above)).toList
/-- The held hit with its record's address: where the unit does not have it, the least address of a kept candidate that agrees
with the slot in every field (spec/13 R295, R304, notes/assumptions/23.md). -/
def Walk.placed (k : Walk) (l : List Hit) : Option Hit := k.held.map fun h =>
  if k.addr.isSome then h else
  { h with addr := ((leastHit none (l.filter fun x => decide ({ x with addr := h.addr } = h))).map (·.addr)).getD 0 }
/-- The bound of a walk: the t of the least hit found so far, or TMAX while there is none (spec/13 R296). -/
def Walk.bound (k : Walk) : Word := match k.best with
  | some l => ((leastHit none (l.filter k.above)).map (·.t)).getD (rayOf k.w).tmax
  | none => slotBound k.w
/-- The walk ends: TRACEO's slot takes the least candidate whose key is greater than the held hit's. -/
def Walk.finish (k : Walk) : Walk := match k.best with
  | some l =>
    let b := leastHit none (l.filter fun x => (k.placed l).all fun h => h.before x)
    { k with w := slotFinish (slotHit k.w b), addr := b.map (·.addr), best := none }
  | none => { k with w := slotFinish k.w }
/-- restart(S), down from place `p`, whose level the trail passes: `best` is the deepest place passed whose order has a child
that is not culled after the trail's, with that child. -/
def State.restartFrom (u : UnitId) (w : Tab Dword) (bound : Word) : Nat → State → Pos → Option (Pos × Child) →
    Except Flt (Option (Pos × Child) × State)
  | 0, s, _, best => pure (best, s)
  | n + 1, s, p, best => do
    if p.ty != 1 then return (best, s)
    let (cs, s) ← s.readNode u p.addr p.inst.isSome
    let r := p.ray w
    let os := ordered r cs
    let c := trailAt w p.level
    let vm := slotGet w fVMASK
    let later := (os.dropWhile fun k => k.slot != c).drop 1
    let (l, s) ← s.keepUnculled u r bound vm later
    let best := match l.head? with
      | some k => some (p, k)
      | none => best
    match os.find? fun k => k.slot == c with
    | none => pure (best, s)
    | some k => do
      let (ok, s) ← s.unculled u r bound vm k
      if !ok then return (best, s)
      let (q, s) ← s.enterChild u p k
      restartFrom u w bound n s q best
/-- "up": the next pending node, a restart, or the end. -/
def Walk.up (u : UnitId) (k : Walk) : Except Flt Walk := do
  let w := k.w
  let sp := slotGet w fSP
  if sp != 0 then
    let e := w.get (8 + (sp - 1)) 0
    let l := fld e 0 6
    let w := slotSets (trailSet w (l - 1) (fld e 56 2)) [(fSP, sp - 1), (fLEVEL, l)]
    let w := w.put (8 + (sp - 1)) 0
    let (p, s) ← State.follow u w l k.s (rootPos w)
    pure { k with s := s, w := slotEnter w p }
  else if slotGet w fDROP = 0 then pure k.finish
  else
    let (best, s) ← State.restartFrom u w k.bound (slotGet w fLEVEL) k.s (rootPos w) none
    match best with
    | none => pure { k with s := s }.finish
    | some (p, c) => do
      let (q, s) ← s.enterChild u p c
      pure { k with s := s, w := slotEnter (trailSet w p.level c.slot) q }
/-- A leaf's hits are taken: TRACEA ends at the first, TRACEO keeps what may be the next, TRACE the least. A tie with a held hit
whose record's address the unit does not have makes TRACE's walk begin again. -/
def Walk.leaf (u : UnitId) (k : Walk) (hs : List Hit) : Except Flt Walk :=
  match k.best with
  | some b => Walk.up u { k with best := some (k.keep (b ++ hs)) }
  | none =>
    if slotGet k.w fOP = 2 then
      if hs.isEmpty then Walk.up u k else pure { k with w := slotFinish (slotSet (slotHit k.w none) fHFLAGS 1) }
    else if k.addr.isNone && k.held.any (fun h => hs.any h.ties) then pure { k with w := slotAfresh (slotHit k.w none) }
    else match leastHit k.held hs with
      | none => Walk.up u k
      | some h => Walk.up u { k with w := slotHit k.w (some h), addr := if hs.contains h then some h.addr else k.addr }
/-- One step of TRACE, TRACEA or TRACEO: one node visited or one leaf tested. -/
def Walk.step (u : UnitId) (k : Walk) : Except Flt Walk := do
  let w := k.w
  let vm := slotGet w fVMASK
  let (p, s) ← State.follow u w (slotGet w fLEVEL) k.s (rootPos w)
  let r := p.ray w
  if p.ty != 1 then
    let (hs, s) ← s.leafHits u p r (slotGet w fCULLB == 1)
    Walk.leaf u { k with s := s } hs
  else
    let (cs, s) ← s.readNode u p.addr p.inst.isSome
    let (hs, s) ← s.keepUnculled u r k.bound vm (ordered r cs)
    match hs with
    | [] => Walk.up u { k with s := s }
    | c :: rest => do
      let w := rest.reverse.foldl (fun w x => slotPush w x (p.level + 1)) w
      let (q, s) ← s.enterChild u p c
      pure { k with s := s, w := slotEnter (trailSet w p.level c.slot) q }

/-- The next step of a lane's traversal in flight: the state after it, or its fault. -/
def State.traceStep (s : State) (u : UnitId) (l : Nat) : Except Flt State := do
  let g := s.groupOf u
  let k : Walk := { s := s, w := s.slot u l, addr := (g.hitRec.find l).map (·.toNat), best := g.nexts.find l }
  let k := if slotGet k.w fOP = 3 && k.best.isNone then { k with w := slotAfresh k.w, best := some [] } else k
  let k ← Walk.step u k
  pure ((k.s.slotPut u l k.w).onGroupOf u fun g =>
    { g with hitRec := g.hitRec.place l (k.addr.map fun a => BitVec.ofNat 64 a), nexts := g.nexts.place l k.best })

/-! What the tracing instructions and VMARCH have in common. -/

/-- How an operation of the two units begins in a lane, what its next step is, and its lane result. -/
structure RayOp where
  begin_ : State → UnitId → Nat → Except Flt State
  step : State → UnitId → Nat → Except Flt State
  value : State → UnitId → Nat → Dword

/-- Is the lane's operation in flight, or finished, at the instruction the unit stands at (spec/13 R304)? -/
def State.rayHere (s : State) (u : UnitId) (l : Nat) : Bool :=
  let w := s.slot u l
  slotGet w fIPC == (s.pcOf u).toNat % 2 ^ 56 && (slotGet w fPHASE == 1 || (slotGet w fPHASE == 2 && (s.groupOf u).traced.getLsbD l))
/-- PHASE after a fault of a step or of the beginning: empty, except after a park, a choice-vector fault and CVMISMATCH
(spec/13 R304, R305). -/
def State.rayFaulted (s : State) (u : UnitId) (x : Nat × Flt) : State :=
  if x.2.cause = 0 ∨ x.2.cause = 0x14 ∨ (x.2.cause = 0x15 ∧ 4 ≤ x.2.detail) then s
  else s.slotPut u x.1 (slotSet (s.slot u x.1) fPHASE 0)
/-- What holds up or ends a lane: nothing (it has finished), a step to come, or a fault. `bad` are the lanes whose operation did
not begin. -/
def State.rayLane (s : State) (u : UnitId) (op : RayOp) (bad : Nat) (l : Nat) : Option (Option Flt) :=
  if bad.testBit l then match op.begin_ s u l with
    | .error f => some (some f)
    | .ok _ => some none
  else if slotGet (s.slot u l) fPHASE != 1 then none
  else match op.step s u l with
    | .error f => some (some f)
    | .ok _ => some none
/-- The instruction ends once every lane of the path has finished or can only fault: the lanes that fault take their faults
together, the others have their results (spec/13 R298, R304, spec/15 R327). -/
def State.rayTry (s : State) (u : UnitId) (i : Instr) (op : RayOp) (d : Nat) (k : Bool) : State :=
  let bad := ((s.thread u).wait.map (·.lo)).getD 0
  let st := (s.maskOf u).lanes.map fun l => (l, s.rayLane u op bad l)
  if st.any fun x => x.2 == some none then
    s.onGroupOf u fun g => { g with traced := (st.filter fun x => x.2.isNone).foldl (fun m x => m ||| Dword.bit x.1) g.traced }
  else
  let fs := st.filterMap fun x => match x.2 with
    | some (some f) => some (x.1, f)
    | _ => none
  let ended := lanesMask fs
  let s := s.onGroupOf u fun g => { g with traced := (g.traced ||| s.maskOf u) &&& ~~~ended }
  let s := fs.foldl (fun s x => s.rayFaulted u x) s
  s.withFaults u fs fun s =>
    let m := s.maskOf u
    let vals := laneTab m fun l => op.value s u l
    (s.onGroupOf u fun g => { g with traced := g.traced &&& ~~~m }).doneV u i d k 32 vals
/-- The instruction begins: each lane continues what is in flight at this address, or begins afresh; then the path waits. -/
def State.rayIssue (i : Instr) (op : RayOp) (d : Nat) (k : Bool) (u : UnitId) (s : State) : State :=
  let r := (s.maskOf u).lanes.foldl (fun (a : State × Nat) l =>
    if a.1.rayHere u l then a else
    let t := a.1.onGroupOf u fun g => { g with traced := g.traced &&& ~~~(Dword.bit l) }
    match op.begin_ t u l with
    | .ok t => (t, a.2)
    | .error _ => (t, a.2 ||| 2 ^ l)) (s, 0)
  (r.1.waitIn u { instr := i, lo := r.2 }).rayTry u i op d k
/-- One step of lane `l`'s operation. -/
def State.rayStep (s : State) (u : UnitId) (i : Instr) (op : RayOp) (d : Nat) (k : Bool) (l : Nat) : State :=
  let bad := ((s.thread u).wait.map (·.lo)).getD 0
  let s := if bad.testBit l || slotGet (s.slot u l) fPHASE != 1 then s else match op.step s u l with
    | .ok t => t
    | .error _ => s
  s.rayTry u i op d k
/-- The path that holds lane `l` of a group. -/
def State.pathOfLane (s : State) (c g l : Nat) : Option UnitId :=
  ((s.group c g).paths.cells.find? fun p => p.2.mask.getLsbD l).map fun p => .path c g p.1

/-! The instructions. -/

/-- A ray block's eight words loaded into a slot's first four words. -/
def State.loadRay (s : State) (u : UnitId) (l a : Nat) (w : Tab Dword) : Tab Dword :=
  (List.range 4).foldl (fun w k => w.put k (s.vget u l (a + 2 * k + 1) ++ s.vget u l (a + 2 * k))) w
/-- Is a ray operand's code a ray block's (spec/13 R287)? -/
def rayBlockOk (a : BitVec 7) : Bool := decide (a.toNat ≤ 56) && a.toNat % 8 == 0
/-- A slot with the march fields cleared. -/
def slotNoMarch (w : Tab Dword) : Tab Dword := (List.range 7).foldl (fun w k => w.put (19 + k) 0) w
/-- What the unit holds of lane `l`'s hits beside the slot is dropped. -/
def State.forgetHit (s : State) (u : UnitId) (l : Nat) : State :=
  s.onGroupOf u fun g => { g with hitRec := g.hitRec.drop l, nexts := g.nexts.drop l }
/-- TRACE and TRACEA begin (spec/13 R298). -/
def traceBegin (f : LA) (x : TraceX) (op : Nat) (s : State) (u : UnitId) (l : Nat) : Except Flt State :=
  let w := slotNoMarch (s.loadRay u l f.a.toNat (slotFinish .empty))
  let root := (s.srcL u f.b.toNat l 64).toNat
  let w := slotSets (slotHit w none) [(fROOT, root), (fVMASK, x.vmask.toNat), (fCULLB, if x.cullb then 1 else 0), (fOP, op),
    (fIPC, (s.pcOf u).toNat), (fPHASE, 1)]
  let s := s.forgetHit u l
  if (rayOf w).void then pure (s.slotPut u l (slotFinish w))
  else if root % 128 != 0 || decide (2 ^ 56 ≤ root) then throw (trvFault 0)
  else pure (s.slotPut u l w)
/-- TRACEO begins: it needs a complete TRACE or TRACEO. -/
def traceoBegin (s : State) (u : UnitId) (l : Nat) : Except Flt State :=
  let w := s.slot u l
  if slotGet w fPHASE == 2 && (slotGet w fOP == 1 || slotGet w fOP == 3) then
    let w := slotSets (slotAfresh w) [(fOP, 3), (fPHASE, 1), (fIPC, (s.pcOf u).toNat)]
    let s := s.onGroupOf u fun g => { g with nexts := g.nexts.drop l }
    pure (s.slotPut u l (if (rayOf w).void then slotFinish (slotHit w none) else w))
  else throw (trvFault 3)
/-- HFLAGS as the lane result. -/
def hitValue (s : State) (u : UnitId) (l : Nat) : Dword := BitVec.ofNat 64 (slotGet (s.slot u l) fHFLAGS)
/-- TRACE as an operation. -/
def traceOp (f : LA) (x : TraceX) (op : Nat) : RayOp :=
  { begin_ := traceBegin f x op, step := State.traceStep, value := hitValue }
/-- TRACEO as an operation. -/
def traceoOp : RayOp := { begin_ := traceoBegin, step := State.traceStep, value := hitValue }
/-- TRACE. -/
def execTrace (f : LA) (x : TraceX) (s : State) : Answer :=
  issue (.trace f x) s fun u s =>
    if !rayBlockOk f.a then s.faultUnit u illegalOperand else State.rayIssue (.trace f x) (traceOp f x 1) f.d.toNat f.k u s
/-- TRACEA. -/
def execTracea (f : LA) (x : TraceX) (s : State) : Answer :=
  issue (.tracea f x) s fun u s =>
    if !rayBlockOk f.a then s.faultUnit u illegalOperand else State.rayIssue (.tracea f x) (traceOp f x 2) f.d.toNat f.k u s
/-- TRACEO. -/
def execTraceo (f : LA) (x : TraceX) (s : State) : Answer :=
  issue (.traceo f x) s (State.rayIssue (.traceo f x) traceoOp f.d.toNat f.k)
/-- TRAVERSAL_STEP (spec/13 R296): one step of the lane's traversal, if its path waits in one. -/
def execTraversalStep (c g l : Nat) (s : State) : Answer :=
  .next (match s.pathOfLane c g l with
    | none => s
    | some u => match (s.thread u).waiting with
      | some (.trace f x) => s.rayStep u (.trace f x) (traceOp f x 1) f.d.toNat f.k l
      | some (.tracea f x) => s.rayStep u (.tracea f x) (traceOp f x 2) f.d.toNat f.k l
      | some (.traceo f x) => s.rayStep u (.traceo f x) traceoOp f.d.toNat f.k l
      | _ => s)

/-! Reading and moving the slot. -/

/-- A slot as HITRD, HITUV and VMRD see it: zeros while PHASE is empty (spec/13 R299). -/
def slotSeen (w : Tab Dword) (f : SlotField) : Nat := if slotGet w fPHASE = 0 then 0 else slotGet w f
/-- HITRD. -/
def execHitrd (f : LA) (s : State) : Answer :=
  issue (.hitrd f) s fun u s =>
    let sel := f.b.toNat
    if 3 < sel then s.faultUnit u illegalOperand else
    s.doneV u (.hitrd f) f.d.toNat f.k 32 (laneTab (s.maskOf u) fun l =>
      BitVec.ofNat 64 (slotSeen (s.slot u l) (if sel = 0 then fHT else if sel = 1 then fHINST else if sel = 2 then fHPRIM else fHFLAGS)))
/-- HITUV. -/
def execHituv (f : LA) (s : State) : Answer :=
  issue (.hituv f) s fun u s =>
    if f.d.toNat % 2 != 0 then s.faultUnit u illegalOperand else
    s.doneV u (.hituv f) f.d.toNat f.k 64 (laneTab (s.maskOf u) fun l =>
      packD [(slotSeen (s.slot u l) fHU, 0), (slotSeen (s.slot u l) fHV, 32)])
/-- The value of VMRD's selector. -/
def vmrdValue (w : Tab Dword) (sel : Nat) : Nat :=
  match sel with
  | 0 => slotSeen w fVT
  | 1 => slotSeen w fSBAR
  | 2 => slotSeen w fSIG
  | 3 => slotSeen w fNNULL
  | 4 => slotSeen w fNDRAW
  | 5 => slotSeen w (fCell 0) + slotSeen w (fCell 1) * 2 ^ 10 + slotSeen w (fCell 2) * 2 ^ 20
  | 6 => slotSeen w fVEV + slotSeen w fVACT * 4
  | _ => slotSeen w fVTEND
/-- VMRD. -/
def execVmrd (f : LA) (s : State) : Answer :=
  issue (.vmrd f) s fun u s =>
    if 7 < f.b.toNat then s.faultUnit u illegalOperand else
    s.doneV u (.vmrd f) f.d.toNat f.k 32 (laneTab (s.maskOf u) fun l => BitVec.ofNat 64 (vmrdValue (s.slot u l) f.b.toNat))

/-- The address of RSAVE and RLOAD, if it is aligned. -/
def rayAddr (a : Dword) : Except Flt Dword := if a.toNat % 64 = 0 then pure a else throw (fltAt 0x10 a)
/-- RSAVE (spec/13 R303). -/
def execRsave (f : LA) (s : State) : Answer :=
  issue (.rsave f) s fun u s =>
    s.laneSeq u (fun s l => do
      let a ← rayAddr (s.srcL u f.a.toNat l 64)
      let s ← s.plainStore (s.laneWho u l) (s.ctxOf u) a (bytesOfDwords (slotWords (s.slot u l)))
      pure (s, 0)) fun s _ => s.doneL u (.rsave f)
/-- Is every reserved field of a slot zero (spec/13 R285, R286)? -/
def slotTidy (w : Tab Dword) : Bool :=
  let hi (k n : Nat) : Bool := fld (w.get k 0) n (64 - n) == 0
  hi 7 56 && hi 17 32 && hi 18 56 && hi 19 56 && hi 20 38 && hi 24 56 && hi 25 17 && hi 26 56 &&
    (List.range 5).all (fun k => w.get (27 + k) 0 == 0) && (List.range 8).all (fun k => hi (8 + k) 58) &&
    decide (slotGet w fHFLAGS < 2 ^ 18)
/-- Does an image keep the checks of spec/13 R303? -/
def slotOk (w : Tab Dword) : Bool :=
  slotTidy w && slotGet w fHFLAGS / 4 % 4 != 3 && decide (slotGet w fOP ≤ 4) &&
    slotGet w fPHASE != 3 && slotGet w fVEV != 3 && decide (slotGet w fSP ≤ 8) && decide (slotGet w fLEVEL ≤ 32)
/-- RLOAD for one lane (spec/13 R303). -/
def State.rloadLane (f : LA) (u : UnitId) (s : State) (l : Nat) : Except Flt (State × Dword) := do
  let a ← rayAddr (s.srcL u f.a.toNat l 64)
  let (b, s) ← s.sceneLoad u a 256
  let w := slotOf (dwordsOfBytes 32 b)
  if !slotOk w then throw (trvFault 4)
  let k := s.bindOf u l
  let act := slotGet w fVACT == 1
  if act && !(k.bound && k.ptr.toNat == slotGet w fCVPTR) then throw (trvFault 5)
  let s := if act then s.bindPut u l { k with cur := k.cur.put (slotGet w fSTRM) (slotGet w fDCUR) } else s
  pure (((s.slotPut u l w).forgetHit u l).onGroupOf u fun g => { g with traced := g.traced &&& ~~~(Dword.bit l) }, 0)
/-- RLOAD. -/
def execRload (f : LA) (s : State) : Answer :=
  issue (.rload f) s fun u s => s.laneSeq u (State.rloadLane f u) fun s _ => s.doneL u (.rload f)
/-- RCLR. -/
def execRclr (f : LA) (s : State) : Answer :=
  issue (.rclr f) s fun u s =>
    ((s.maskOf u).lanes.foldl (fun s l => (s.slotPut u l .empty).forgetHit u l) s
      |>.onGroupOf u fun g => { g with traced := g.traced &&& ~~~(s.maskOf u) }).doneL u (.rclr f)

end Sys2Proof.Machine
end

