-- ==== Sys2Proof/Machine/Launch.lean ====
section
/-! DEFINITION. Launches from the device, REPLAY lists, GRIDSYNC, record queues, and giving way (spec/12 R281, R282,
spec/14 R312, R319 to R325). -/
namespace Sys2Proof.Machine

/-! Launch descriptors (spec/14 R312), as their eight words. -/

/-- ENTRY. -/
def dEntry (d : List Dword) : Nat := fld (wordAt d 0) 0 56
/-- NTEAMS; a field of 0 means 2^32. -/
def dTeams (d : List Dword) : Nat := if fld (wordAt d 1) 0 32 = 0 then 2 ^ 32 else fld (wordAt d 1) 0 32
/-- TLAN. -/
def dTlan (d : List Dword) : Nat := fld (wordAt d 1) 32 7
/-- ARGS. -/
def dArgs (d : List Dword) : Nat := fld (wordAt d 2) 0 56
/-- RRA. -/
def dRra (d : List Dword) : Nat := fld (wordAt d 3) 0 56
/-- FMT. -/
def dFmt (d : List Dword) : Word := (wordAt d 4).setWidth 32
/-- SPK. -/
def dSpk (d : List Dword) : Nat := fld (wordAt d 4) 32 8
/-- TILES. -/
def dTiles (d : List Dword) : Nat := fld (wordAt d 4) 40 3
/-- TRK. -/
def dTrk (d : List Dword) : Nat := fld (wordAt d 4) 43 6
/-- COOP. -/
def dCoop (d : List Dword) : Bool := (wordAt d 4).getLsbD 49
/-- LANT. -/
def dLant (d : List Dword) : Bool := (wordAt d 4).getLsbD 50
/-- SPILL. -/
def dSpill (d : List Dword) : Nat := fld (wordAt d 5) 0 56
/-- The kernel of a context whose compute section, or for a lantern grid whose program, enters at `entry`. -/
def State.kernelAt (s : State) (ctx entry : Nat) : Option Kernel :=
  s.kernels.find? fun k => k.ctx == ctx && k.entry == entry
/-- The conditions on fields of a launch descriptor, which make a host entry BADENTRY (spec/14 R311, R312, R324). Those that
need the kernel's width and groups hold for an ENTRY that names none. -/
def State.descOk (s : State) (ctx : Nat) (d : List Dword) : Bool :=
  fld (wordAt d 0) 56 8 == 0 && fld (wordAt d 1) 39 25 == 0 && fld (wordAt d 2) 56 8 == 0 && fld (wordAt d 3) 56 8 == 0 &&
    fld (wordAt d 4) 5 27 == 0 && fld (wordAt d 4) 51 13 == 0 && fld (wordAt d 5) 56 8 == 0 && wordAt d 6 == 0 &&
    wordAt d 7 == 0 && decide (dSpk d ≤ 224) && decide (dTiles d ≤ 4) && decide (dTrk d ≤ 32) && dRra d % 64 == 0 &&
    dSpill d % 4096 == 0 &&
    (!dLant d || (dSpk d == 0 && dTiles d == 0 && dTrk d == 0 && !dCoop d && dTlan d == 0)) &&
    (match s.kernelAt ctx (dEntry d) with
      | none => true
      | some k => decide (dTlan d ≤ k.width) &&
          (dSpill d == 0 || decide (dSpill d + 4096 * kernelGroups k * k.width * dTeams d < 2 ^ 56)))
/-- Entries of a device-side launch queue (spec/14 R319). -/
def deviceQueueSize : Nat := 256
/-- A grove's device-side launch queue with one more entry. -/
def State.pushLaunch (s : State) (g : Nat) (e : DevLaunch) : State := s.onGrove g fun k => { k with devq := k.devq ++ [e] }
/-- Is the grove's device-side launch queue full? -/
def State.launchFull (s : State) (g : Nat) : Bool := decide (deviceQueueSize ≤ (s.grove g).devq.length)
/-- The grove of a unit. -/
def State.groveOf (s : State) (u : UnitId) : Nat := (s.ctx (s.ctxOf u)).desc.grove

/-- What LAUNCHD reads: the descriptor, and the number of teams. -/
def State.launchReads (s : State) (u : UnitId) (f : GA) (x : LaunchX) : Except Flt (List Dword × Nat × State) := do
  let (db, s) ← s.sceneLoad u (s.srcG u f.a.toNat) 64
  let (cb, s) ← s.sceneLoad u (s.sget u f.b.toNat) 8
  let per := x.pm1.toNat + 1
  let nt := (leNat cb + per - 1) / per
  pure (dwordsOfBytes 8 db, nt, s)
/-- LAUNCHD (spec/14 R319): a release at device scope, the reads, then the launch queued or the wait for room. -/
def State.launchd (f : GA) (x : LaunchX) (u : UnitId) (s : State) : State :=
  let s := s.release u 4
  match s.launchReads u f x with
  | .error e => s.faultUnit u e
  | .ok (d, nt, s') =>
    if nt = 0 then s'.doneR u (.launchd f x) f.d.toNat f.k 0
    else if 2 ^ 32 < nt ∨ !s.descOk (s.ctxOf u) d then s.faultUnit u illegalOperand
    else if s.launchFull (s.groveOf u) then s.waitIn u { instr := .launchd f x, lo := 0 }
    else
      (s'.pushLaunch (s.groveOf u)
        { ctx := s.ctxOf u, desc := d.set 1 (setFld (wordAt d 1) 0 32 nt), addr := fld (s.srcG u f.a.toNat) 0 56, nteams := nt, pri := x.qpri.toNat,
          replay := none }).doneR u (.launchd f x) f.d.toNat f.k (BitVec.ofNat 64 nt)
/-- LAUNCHD. -/
def execLaunchd (f : GA) (x : LaunchX) (s : State) : Answer := issue (.launchd f x) s (State.launchd f x)

/-! Replay lists (spec/12 R277, R281, R282). -/

/-- TEAM, GRP and LANE of a replay record as one number. -/
def replayCoord (r : List Dword) : Nat := fld (wordAt r 1) 0 43
/-- The width that WC names. -/
def widthOfCode (wc : Nat) : Nat := 16 * 2 ^ wc
/-- Does one replay record keep spec/12 R281, by itself and in the geometry of its word 5? -/
def replayRecOk (r : List Dword) : Bool :=
  let w (k : Nat) : Dword := wordAt r k
  let nt := if fld (w 5) 0 32 = 0 then 2 ^ 32 else fld (w 5) 0 32
  fld (w 0) 56 8 == 0 && fld (w 1) 43 21 == 0 && fld (w 2) 56 8 == 0 && fld (w 3) 56 8 == 0 && fld (w 4) 33 31 == 0 &&
    fld (w 5) 39 25 == 0 && fld (w 6) 56 8 == 0 && fld (w 7) 5 3 == 0 && fld (w 7) 26 38 == 0 && w 3 != 0 &&
    fld (w 5) 37 2 != 3 && decide (fld (w 1) 0 32 < nt) && decide (fld (w 1) 32 5 ≤ fld (w 5) 32 5) &&
    decide (fld (w 1) 37 6 < widthOfCode (fld (w 5) 37 2))
/-- Do two records launch one grid? -/
def replaySame (r q : List Dword) : Bool :=
  wordAt r 0 == wordAt q 0 && wordAt r 2 == wordAt q 2 && wordAt r 5 == wordAt q 5 && wordAt r 6 == wordAt q 6 &&
    wordAt r 7 == wordAt q 7
/-- Does a list keep spec/12 R281? -/
def State.replayOk (s : State) (ctx : Nat) (l : List (List Dword)) : Bool :=
  match l with
  | [] => false
  | r :: _ =>
    l.all replayRecOk && l.all (replaySame r) && (dedup (l.map replayCoord)).length == l.length &&
      (match s.kernelAt ctx (fld (wordAt r 0) 0 56) with
        | none => false
        | some k => k.replayable && kernelGroups k == fld (wordAt r 5) 32 5 + 1 && k.width == widthOfCode (fld (wordAt r 5) 37 2))
/-- The launch descriptor that a replay list stands for. -/
def replayDesc (r : List Dword) : List Dword :=
  let w (k : Nat) : Dword := wordAt r k
  [w 0, packD [(fld (w 5) 0 32, 0)], w 2, 0,
   packD [(fld (w 7) 0 5, 0), (fld (w 7) 8 8, 32), (fld (w 7) 16 3, 40), (fld (w 7) 19 6, 43), (fld (w 7) 25 1, 49)], w 6, 0, 0]
/-- REPLAY (spec/12 R281): it waits for room in the launch queue as LAUNCHD does. -/
def State.replay (f : GA) (x : ReplayX) (u : UnitId) (s : State) : State :=
  let n := (s.sget u f.b.toNat).toNat
  let a := s.srcG u f.a.toNat
  let dst := s.sget u f.d.toNat
  let ctx := s.ctxOf u
  if n = 0 ∨ 65536 < n ∨ a.toNat % 64 != 0 ∨ dst.toNat % 8 != 0 then s.faultUnit u (cvFault 6) else
  let s := s.release u 4
  match s.plainWords (s.whoOf u) ctx a (8 * n) with
  | .error e => s.faultUnit u e
  | .ok (ws, s') =>
    let recs := (List.range n).map fun k => (ws.drop (8 * k)).take 8
    if !s.replayOk ctx recs then s.faultUnit u (cvFault 6)
    else if s.launchFull (s.groveOf u) then s.waitIn u { instr := .replay f x, lo := 0 }
    else
      let d := replayDesc (recs.getD 0 [])
      (s'.pushLaunch (s.groveOf u)
        { ctx := ctx, desc := d, addr := fld a 0 56, nteams := dTeams d, pri := x.qpri.toNat,
          replay := some { recs := recs, list := a, dest := dst } }).doneG u (.replay f x)
/-- REPLAY. -/
def execReplay (f : GA) (x : ReplayX) (s : State) : Answer := issue (.replay f x) s (State.replay f x)
/-- The value of RRD for lane `n` of a unit's group. -/
def State.replayIndex (s : State) (u : UnitId) (n : Nat) : Dword :=
  match u with
  | .path _ _ _ =>
    if (s.grid (s.gridOf u)).replay.isSome && decide (n < (s.groupOf u).width) then
      match (s.groupOf u).replayIdx.find n with
      | some k => BitVec.ofNat 64 k
      | none => BitVec.allOnes 64
    else BitVec.allOnes 64
  | _ => BitVec.allOnes 64
/-- RRD (spec/12 R282). -/
def execRrd (f : GA) (s : State) : Answer :=
  scalarOp (.rrd f) f.d.toNat f.k (fun s u => s.replayIndex u (s.srcG u f.a.toNat).toNat) s

/-- The team numbers of a grid in the order of their admission: all of them, or those that a replay list names. -/
def Grid.teamNumber (g : Grid) (k : Nat) : Nat :=
  match g.replay with
  | .none => k
  | some r => ((dedup (r.recs.map fun x => fld (wordAt x 1) 0 32)).foldl (fun l n => insertNat n l) []).getD k 0
where
  /-- A number put at its place in ascending order. -/
  insertNat (n : Nat) : List Nat → List Nat
    | [] => [n]
    | m :: r => if n < m then n :: m :: r else m :: insertNat n r
/-- How many teams a launch of `n` teams makes: with a replay list those that its records name (spec/12 R281). -/
def teamsLaunched (n : Nat) (replay : Option ReplayList) : Nat :=
  match replay with
  | .none => n
  | some r => (dedup (r.recs.map fun x => fld (wordAt x 1) 0 32)).length
/-- How many teams of a grid are launched. -/
def Grid.total (g : Grid) : Nat := teamsLaunched g.nteams g.replay

/-! GRIDSYNC (spec/14 R320). -/

/-- The resident teams of a grid: core and team slot. -/
def State.gridTeams (s : State) (gid : Nat) : List (Nat × Nat) :=
  s.cores.cells.flatMap fun c => (c.2.teams.cells.filter fun t => t.2.grid == gid).map fun t => (c.1, t.1)
/-- Has every live lane of every group of a team arrived? A group out on eviction has not. -/
def State.teamSynced (s : State) (c t : Nat) : Bool :=
  !((s.core c).evicted.any fun e => e.group.team == t && e.group.live != 0) && (s.core c).groups.cells.all fun g => g.2.team != t || g.2.live &&& ~~~((s.team c t).gridArrived.get g.1 0) == 0
/-- Has every group of every team of the grid arrived? Retired teams count as arrived; a team that is out on a save does
not. -/
def State.gridSynced (s : State) (gid : Nat) : Bool :=
  let ts := s.gridTeams gid
  let g := s.grid gid
  ts.any (fun x => (s.team x.1 x.2).gridArrived.cells.any fun m => m.2 != 0) && ts.length + g.retired == g.total &&
    ts.all fun x => s.teamSynced x.1 x.2
/-- The phase completes: the waiting paths depart, as from an acquire at device scope. -/
def State.gridDepart (s : State) (gid : Nat) : State :=
  let ts := s.gridTeams gid
  let going := (ts.flatMap fun x => s.teamUnits x.1 x.2).filter fun u => match (s.thread u).waiting with
    | some (.gridsync _) => true
    | _ => false
  let s := ts.foldl (fun s x => s.onTeam x.1 x.2 fun t => { t with gridArrived := .empty }) s
  let s := { s with grids := s.grids.put gid { s.grid gid with syncPhase := (s.grid gid).syncPhase + 1 } }
  going.foldl (fun s u => match (s.thread u).waiting with
    | some i => (s.acquire u.node 4).doneG u i
    | none => s) s
/-- The phase completes if all have arrived. -/
def State.gridTry (s : State) (gid : Nat) : State := if s.gridSynced gid then s.gridDepart gid else s
/-- GRIDSYNC: illegal in a grid that is not cooperative; otherwise the path arrives, as a release at device scope, and waits. -/
def execGridsync (f : GA) (s : State) : Answer :=
  issue (.gridsync f) s fun u s =>
    let gid := s.gridOf u
    if !(s.grid gid).coop then s.faultUnit u illegalOperand else
    let s := s.release u 4
    let s := match u with
      | .path _ g _ => s.onTeamOf u fun t => { t with gridArrived := t.gridArrived.put g (t.gridArrived.get g 0 ||| s.maskOf u) }
      | _ => s
    (s.waitIn u { instr := .gridsync f, lo := (s.grid gid).syncPhase }).gridTry gid
/-- GRIDSYNC_PHASE_COMPLETE (spec/14 R320). -/
def execGridsyncPhaseComplete (gid : Nat) (s : State) : Answer := .next (s.gridTry gid)

/-! Record queues (spec/14 R321, R322). -/

/-- Bytes [va, va + n) that an atomic of the unit accesses: their translation and their value at home. -/
def State.rqAccess (s : State) (u : UnitId) (va : Dword) (n : Nat) : Except Flt (Xlat × List Byte) := do
  let x ← s.translate u.node (s.ctxOf u) va .atomic
  if s.poisonedFor u.node x.pa n 0 then throw (poisonAt .atomic va)
  pure (x, s.seeHome u.node x.pa n)
/-- A record queue as an instruction finds it. -/
structure RecordQueue where
  addr : Dword
  hx : Xlat
  base : Nat
  size : Nat
  words : Nat
  head : Dword
  tail : Dword
/-- The queue's header read and checked. -/
def State.rqHeader (s : State) (u : UnitId) (a : Dword) : Except Flt RecordQueue := do
  if a.toNat % 64 != 0 then throw (fltAt 0x10 a)
  let (x, b) ← s.rqAccess u a 64
  let d := dwordsOfBytes 8 b
  let w (k : Nat) : Dword := wordAt d k
  if fld (w 0) 56 8 != 0 || !(w 1).getLsbD 8 || fld (w 1) 9 55 != 0 || w 4 != 0 || w 5 != 0 || w 6 != 0 || w 7 != 0 ||
      decide (16 < fld (w 1) 0 5) || fld (w 0) 0 56 % 64 != 0 then throw illegalOperand
  pure { addr := a, hx := x, base := fld (w 0) 0 56, size := 2 ^ fld (w 1) 0 5, words := fld (w 1) 5 3 + 1, head := w 2,
         tail := w 3 }
/-- Is the queue full? -/
def RecordQueue.full (q : RecordQueue) : Bool := q.tail - q.head == BitVec.ofNat 64 q.size
/-- Is the queue empty? -/
def RecordQueue.empty (q : RecordQueue) : Bool := q.tail == q.head
/-- The address of slot `k` mod N. -/
def RecordQueue.slot (q : RecordQueue) (k : Dword) : Dword := BitVec.ofNat 64 (q.base + 64 * (k.toNat % q.size))
/-- Bytes written at home by an atomic of the unit. -/
def State.rqWrite (s : State) (u : UnitId) (va : Dword) (x : Xlat) (at_ : Nat) (bs : List Byte) : State :=
  (s.useLeaf u.node (s.ctxOf u) va x .atomic).atomicAt u.node { x with pa := x.pa + at_ } bs.length 2 fun _ => some bs
/-- The record put at TAIL: S[x] onward. -/
def State.rqPut (s : State) (u : UnitId) (q : RecordQueue) (x : Nat) : Except Flt State := do
  let va := q.slot q.tail
  let bs := (List.range q.words).flatMap fun k => natLe 8 (s.sget u (x + k)).toNat
  let (y, _) ← s.rqAccess u va bs.length
  let s := s.release u 4
  pure ((s.rqWrite u va y 0 bs).rqWrite u q.addr q.hx 24 (natLe 8 (q.tail + 1).toNat))
/-- The record taken from HEAD: its words. -/
def State.rqTake (s : State) (u : UnitId) (q : RecordQueue) : Except Flt (List Dword × State) := do
  let va := q.slot q.head
  let (y, b) ← s.rqAccess u va (8 * q.words)
  let s := s.fenced u
  let s := (s.useLeaf u.node (s.ctxOf u) va y .atomic).atomicAt u.node y (8 * q.words) 2 fun _ => none
  let s := s.rqWrite u q.addr q.hx 16 (natLe 8 (q.head + 1).toNat)
  pure (dwordsOfBytes q.words b, s.acquire u.node 4)
/-- The header's leaf after an atomic access that moves no record. -/
def State.rqTouch (s : State) (u : UnitId) (q : RecordQueue) : State := s.useLeaf u.node (s.ctxOf u) q.addr q.hx .atomic
/-- The words of a record written to S[x] onward. -/
def State.rqLoad (s : State) (u : UnitId) (x : Nat) (ws : List Dword) : State :=
  (List.range ws.length).foldl (fun s k => s.sput u (x + k) (wordAt ws k)) s
/-- RQPUT: waits while the queue is full. -/
def State.rqput (f : GA) (u : UnitId) (s : State) : State :=
  if f.k then s.faultUnit u illegalOperand else
  match s.rqHeader u (s.srcG u f.a.toNat) with
  | .error e => s.faultUnit u e
  | .ok q =>
    if 128 < f.b.toNat + q.words then s.faultUnit u illegalOperand
    else if q.full then s.waitIn u { instr := .rqput f, lo := 0 }
    else match s.rqPut u q f.b.toNat with
      | .error e => s.faultUnit u e
      | .ok s => s.doneG u (.rqput f)
/-- RQGET: waits while the queue is empty. -/
def State.rqget (f : GA) (u : UnitId) (s : State) : State :=
  if f.k then s.faultUnit u illegalOperand else
  match s.rqHeader u (s.srcG u f.a.toNat) with
  | .error e => s.faultUnit u e
  | .ok q =>
    if 160 < f.d.toNat + q.words then s.faultUnit u illegalOperand
    else if q.empty then s.waitIn u { instr := .rqget f, lo := 0 }
    else match s.rqTake u q with
      | .error e => s.faultUnit u e
      | .ok (ws, s) => ((s.rqLoad u f.d.toNat ws).shiftG u (some (wordAt ws 0))).done u 4 true
/-- RQPUT. -/
def execRqput (f : GA) (s : State) : Answer := issue (.rqput f) s (State.rqput f)
/-- RQPUTN: 1 if put, 0 if full. -/
def execRqputn (f : GA) (s : State) : Answer :=
  issue (.rqputn f) s fun u s =>
    match s.rqHeader u (s.srcG u f.a.toNat) with
    | .error e => s.faultUnit u e
    | .ok q =>
      if 128 < f.b.toNat + q.words then s.faultUnit u illegalOperand
      else if !f.k && decide (f.b.toNat ≤ f.d.toNat) && decide (f.d.toNat < f.b.toNat + q.words) then s.faultUnit u illegalOperand
      else if q.full then ((s.rqTouch u q).release u 4).doneR u (.rqputn f) f.d.toNat f.k 0
      else match s.rqPut u q f.b.toNat with
        | .error e => s.faultUnit u e
        | .ok s => s.doneR u (.rqputn f) f.d.toNat f.k 1
/-- RQGET. -/
def execRqget (f : GA) (s : State) : Answer := issue (.rqget f) s (State.rqget f)
/-- RQGETN: S[b] is 1 if a record was taken, else 0. -/
def execRqgetn (f : GA) (s : State) : Answer :=
  issue (.rqgetn f) s fun u s =>
    if f.k then s.faultUnit u illegalOperand else
    match s.rqHeader u (s.srcG u f.a.toNat) with
    | .error e => s.faultUnit u e
    | .ok q =>
      let b := f.b.toNat
      let d := f.d.toNat
      if 160 < d + q.words ∨ (d ≤ b ∧ b < d + q.words) then s.faultUnit u illegalOperand
      else if q.empty then ((s.rqTouch u q).acquire u.node 4).doneR u (.rqgetn f) b false 0
      else match s.rqTake u q with
        | .error e => s.faultUnit u e
        | .ok (ws, s) => (s.rqLoad u d ws).doneR u (.rqgetn f) b false 1
/-- RQCNT: TAIL − HEAD, read at one instant. -/
def execRqcnt (f : GA) (s : State) : Answer :=
  issue (.rqcnt f) s fun u s =>
    let a := s.srcG u f.a.toNat
    if a.toNat % 64 != 0 then s.faultUnit u (fltAt 0x10 a) else
    match s.sceneLoad u (a + 16) 16 with
    | .error e => s.faultUnit u e
    | .ok (b, s) =>
      let d := dwordsOfBytes 2 b
      s.doneR u (.rqcnt f) f.d.toNat f.k (wordAt d 1 - wordAt d 0)

/-! Giving way (spec/14 R323). -/

/-- The place of a unit in its quadrant's round: group slots first, then sequencers (spec/14 R317). -/
def placeInRound (u : UnitId) : Nat :=
  match u with
  | .path _ g i => g * 32 + i
  | .seq _ t => 1024 + t
  | .lant _ p => p
/-- The unit stands last in its round, without age. -/
def State.yieldTurn (s : State) (u : UnitId) : State :=
  let s := s.onThread u fun t => { t with age := none }
  match u with
  | .lant l p => s.onLantern l fun k => { k with last := p }
  | _ => s.onCore u.place fun k =>
      { k with quads := k.quads.put u.quad { k.quads.get u.quad .none with last := placeInRound u } }
/-- YIELD. -/
def execYield (f : GA) (s : State) : Answer := issue (.yield f) s fun u s => (s.yieldTurn u).doneG u (.yield f)
/-- SLEEP: n = 0 does nothing. -/
def execSleep (f : GI) (s : State) : Answer :=
  issue (.sleep f) s fun u s =>
    if f.imm = 0 then s.doneG u (.sleep f) else s.waitIn u { instr := .sleep f, lo := f.imm.toNat }
/-- The clock of a unit's core or lantern core advanced. -/
def State.addClock (s : State) (u : UnitId) (n : Nat) : State :=
  match u with
  | .lant l _ => s.onLantern l fun k => { k with clock := k.clock + BitVec.ofNat 64 n }
  | _ => s.onCore u.place fun k => { k with clock := k.clock + BitVec.ofNat 64 n }
/-- SLEEP_EXPIRY: at least 16 × n cycles have passed. -/
def execSleepExpiry (u : UnitId) (s : State) : Answer :=
  .next (match (s.thread u).waiting with
    | some (.sleep f) => (s.addClock u (16 * f.imm.toNat)).doneG u (.sleep f)
    | _ => s)
/-- An event counter of a grove raised to at least `v` (spec/14 R309, R323). -/
def State.raiseEvent (s : State) (g ev : Nat) (v : Dword) : State :=
  s.onGrove g fun k =>
    let old := k.events.get ev 0
    { k with events := k.events.put ev (if old.toNat < v.toNat then v else old) }
/-- EVSIG: a release at system scope. -/
def execEvsig (f : GA) (s : State) : Answer :=
  issue (.evsig f) s fun u s =>
    let e := (s.srcG u f.a.toNat).toNat
    if 256 ≤ e then s.faultUnit u illegalOperand else
    ((s.release u 6).raiseEvent (s.groveOf u) e (s.sget u f.b.toNat)).doneG u (.evsig f)

end Sys2Proof.Machine
end

