-- ==== Sys2Proof/Machine/Traps.lean ====
section
/-! DEFINITION. The trap opcodes, debug holds and trigger messages, reading trap state, halting (spec/15 R330 to R333,
spec/16 R356, R358, R359). -/
namespace Sys2Proof.Machine

/-! Debug records and triggers. -/

/-- LOG2N of a ring register (spec/16 R358). -/
def ringLog (v : Dword) : Nat := fld v 0 5
/-- BASE of a ring register, as a physical address. -/
def ringBase (v : Dword) : Nat := fld v 12 40 * 4096
/-- The oldest debug record of a grove is written if DBGQ has room, and vector 2 signalled. -/
def State.writeDebug (s : State) (g : Nat) : State :=
  let k := s.grove g
  match k.dbgPend with
  | [] => s
  | r :: rest =>
    if ringLog k.dbgq = 0 then s.onGrove g fun k => { k with dbgPend := rest }
    else if !s.ringRoom (ringBase k.dbgq) (ringLog k.dbgq) 1 then s
    else ((s.ringWrite (ringBase k.dbgq) (ringLog k.dbgq) 32 [bytesOfDwords r.2]).onGrove g fun k => { k with dbgPend := rest }).signal g 2
/-- DEBUG_RECORD_WRITE (spec/16 R358). -/
def execDebugRecordWrite (g : Nat) (s : State) : Answer := .next (s.writeDebug g)
/-- A debug record of a unit with its cause: 0 stop, 1 BKPT, 2 trigger; SEQ numbers the debug records of its context (spec/16 R356,
notes/assumptions/86.md). With the ring disabled there is none. -/
def State.debugRecord (s : State) (u : UnitId) (cause : Nat) : State :=
  let g := s.groveOf u
  let k := s.grove g
  if ringLog k.dbgq = 0 then s else
  let s := s.tick
  let x := s.ctx (s.ctxOf u)
  let w2 : Dword := BitVec.ofNat 64 (s.place u + cause * 2 ^ 40)
  let w3 : Dword := BitVec.ofNat 64 (x.dbgSeq % 2 ^ 32 + s.time.toNat % 2 ^ 32 * 2 ^ 32)
  ((s.onCtx (s.ctxOf u) fun x => { x with dbgSeq := (x.dbgSeq + 1) % 2 ^ 32 }).onGrove g fun k => { k with
    dbgPend := k.dbgPend ++ [(u, [s.pcOf u, s.maskOf u, w2, w3])] }).writeDebug g
/-- A trigger message sent: it carries the module's number and the device timestamp (spec/16 R359). -/
def State.sendTrigger (s : State) : State :=
  let s := s.tick
  { s with trigOut := s.trigOut ++ [(s.pf.fabid, s.time)] }
/-- A unit held at its run start, with the hold's debug record and trigger message (spec/16 R356, R359). -/
def State.holdUnit (s : State) (u : UnitId) (cause : Nat) : State :=
  (((s.onThread u fun t => { t with state := .held, wait := none }).leave u).debugRecord u cause).sendTrigger

/-! The trap opcodes. -/

/-- TRAP (spec/15 R330). -/
def execTrap (f : GI) (s : State) : Answer :=
  issue (.trap f) s fun u s => s.trapAfter u 0x30 f.imm.toNat (s.pcOf u + 4)
/-- TRAPC: the displacement bits hold the code. -/
def execTrapc (f : GC) (s : State) : Answer :=
  issue (.trapc f) s fun u s =>
    if s.srcG u f.c.toNat != 0 then s.trapAfter u 0x30 f.disp.toNat (s.pcOf u + 4) else s.doneG u (.trapc f)
/-- Is BKPT armed for a unit's context: BKEN of its grove, with CTXSEL naming the context (spec/16 R356)? -/
def State.bkptArmed (s : State) (u : UnitId) : Bool :=
  (s.grove (s.groveOf u)).dbgctl.getLsbD 0 && s.pf.ctxsel.toNat == s.ctxOf u
/-- BKPT: held after its run where armed; otherwise a trap, with a trigger message where DBGCTL[1] asks for one. -/
def execBkpt (f : GI) (s : State) : Answer :=
  issue (.bkpt f) s fun u s =>
    if s.bkptArmed u then (s.doneG u (.bkpt f)).holdUnit u 1
    else
      let s := if (s.grove (s.groveOf u)).dbgctl.getLsbD 1 then s.sendTrigger else s
      s.trapAfter u 0x31 f.imm.toNat (s.pcOf u + 4)

/-- A path back from its handler whose window is not resident waits for the spill engine again (spec/05 R132). -/
def State.windowAfter (s : State) (u : UnitId) : State := if u.isPath then s.checkWindow u else s
/-- TRET (spec/15 R331). -/
def execTret (f : GM) (s : State) : Answer :=
  issue (.tret f) s fun u s =>
    let r := (s.thread u).frame
    if !r.active then s.faultUnit u illegalOperand else (s.trapReturn u (codeAddr r.rpc) true).windowAfter u
/-- TRET.goto. -/
def execTretGoto (f : GM) (s : State) : Answer :=
  issue (.tretGoto f) s fun u s =>
    if !(s.thread u).frame.active then s.faultUnit u illegalOperand
    else (s.trapReturn u (codeAddr (s.srcG u f.a.toNat)) false).windowAfter u
/-- TRET.kill: the lanes become idle; a sequencer or lantern program ends. -/
def execTretKill (f : GM) (s : State) : Answer :=
  issue (.tretKill f) s fun u s =>
    if !(s.thread u).frame.active then s.faultUnit u illegalOperand else
    let s := s.onThread u fun t => { t with fmt := t.frame.fmt, frame := { t.frame with active := false } }
    match u with
    | .path _ _ _ => s.idleLanes u (s.maskOf u) (s.pcOf u)
    | .seq _ _ => s.endStream u
    | .lant _ _ => s.endProg u

/-- A word of a trap frame as a register shows it (spec/15 R329). -/
def Frame.word (f : Frame) : Nat → Dword
  | 0 => BitVec.ofNat 64 (f.low + f.fmt.toNat * 2 ^ 32)
  | 1 => codeAddr f.rpc
  | 2 => codeAddr f.fpc
  | 3 => f.addr
  | 4 => f.lanes
  | _ => 0
/-- The value that ERRRD reads (spec/15 R332). -/
def State.errWord (s : State) (u : UnitId) (sel : Nat) : Dword :=
  if sel ≤ 4 then (s.thread u).frame.word sel
  else match u with
    | .lant _ _ => 0
    | _ => match (s.teamOf u).errRec with
      | some r => wordAt r (sel - 5)
      | none => 0
/-- ERRRD: a selector above 8 is an illegal operand at step 7. -/
def execErrrd (f : GA) (s : State) : Answer :=
  issue (.errrd f) s fun u s =>
    if 8 < f.b.toNat then s.faultUnit u illegalOperand else s.doneR u (.errrd f) f.d.toNat f.k (s.errWord u f.b.toNat)
/-- HALT.team (spec/15 R333). -/
def execHaltTeam (f : GM) (s : State) : Answer :=
  issue (.haltTeam f) s fun u s => s.tearUnit u 0x20 (fld (s.srcG u f.a.toNat) 0 16)
/-- HALT.flush: a halted queue's commands are complete, and it accepts commands again. -/
def execHaltFlush (f : GM) (s : State) : Answer :=
  issue (.haltFlush f) s fun u s =>
    let q := (s.srcG u f.a.toNat).toNat
    if 3 < q then s.faultUnit u illegalOperand else
    (s.onTeamOf u fun t => t.onEngq q fun e => if e.halted then { cmds := [], halted := false } else e).doneG u (.haltFlush f)

end Sys2Proof.Machine
end

