-- ==== Sys2Proof/Machine/Matrix.lean ====
section
/-! DEFINITION. The matrix unit: tiles, operand maps, the matrix commands of queue 1 and the tile reads of lanes
(spec/11 R247 to R256, spec/06 R154 to R156). -/
namespace Sys2Proof.Machine

/-! Tiles. -/

/-- Is tile `k` granted to the team (spec/11 R247)? -/
def Team.hasTile (t : Team) (k : Nat) : Bool := decide (k < t.tiles.length)
/-- Tile `k` of a team. -/
def State.tile (s : State) (c t k : Nat) : Tile :=
  match (s.team c t).tiles[k]? with
  | some n => (s.core c).tiles.get n .zero
  | none => .zero
/-- Tile `k` of a team set. -/
def State.setTile (s : State) (c t k : Nat) (x : Tile) : State :=
  match (s.team c t).tiles[k]? with
  | some n => s.onCore c fun q => { q with tiles := q.tiles.put n x }
  | none => s
/-- Element (i, j) of a tile. -/
def Tile.at_ (x : Tile) (i j : Nat) : Word := x.el.get (128 * i + j) 0
/-- A tile's elements from a function. -/
def tileOf (f : Nat → Nat → Word) : Tab Word := { cells := (List.range 16384).map fun n => (n, f (n / 128) (n % 128)) }
/-- Is the tile's ready flag set: is no command that writes it incomplete (spec/04 R100)? -/
def Team.tileReady (t : Team) (k : Nat) : Bool := !(t.cmds.any fun c => c.wrTiles.contains k)

/-! Operand maps. -/

/-- Fields of an operand map (spec/11 R250). -/
def mapAOff (m : List Dword) : Nat := fld (wordAt m 0) 0 20
/-- APITCH. -/
def mapAPitch (m : List Dword) : Nat := fld (wordAt m 0) 20 20
/-- SAOFF. -/
def mapSaOff (m : List Dword) : Nat := fld (wordAt m 0) 40 20
/-- TYPE .bf16. -/
def mapBf (m : List Dword) : Bool := fld (wordAt m 0) 60 2 == 1
/-- BGL. -/
def mapBGl (m : List Dword) : Bool := (wordAt m 0).getLsbD 62
/-- BBASE. -/
def mapBBase (m : List Dword) : Nat := fld (wordAt m 1) 0 56
/-- BPITCH. -/
def mapBPitch (m : List Dword) : Nat := fld (wordAt m 2) 0 32
/-- The number C of K-chunks. -/
def mapChunks (m : List Dword) : Nat := fld (wordAt m 2) 32 6 + 1
/-- SBBASE. -/
def mapSbBase (m : List Dword) : Nat := fld (wordAt m 3) 0 56
/-- Bytes of an operand element. -/
def mapElem (m : List Dword) : Nat := if mapBf m then 2 else 1
/-- Is a map's record well formed for a team (spec/11 R250)? -/
def Team.mapOk (t : Team) (m : List Dword) : Bool :=
  let e := mapElem m
  let k := 128 * mapChunks m
  let fp8 := !mapBf m
  decide (fld (wordAt m 0) 60 2 ≤ 1) && fld (wordAt m 1) 56 8 == 0 && fld (wordAt m 2) 38 26 == 0 &&
    fld (wordAt m 3) 56 8 == 0 && wordAt m 4 == 0 && wordAt m 5 == 0 && wordAt m 6 == 0 && wordAt m 7 == 1 &&
    (mapBGl m || decide (mapBBase m < 2 ^ 20)) && decide (e * k ≤ mapAPitch m) && decide (128 * e ≤ mapBPitch m) &&
    mapAOff m % 4 == 0 && mapAPitch m % 4 == 0 && mapBPitch m % 4 == 0 &&
    (!fp8 || (mapSaOff m % 4 == 0 && mapSbBase m % 4 == 0)) &&
    t.spIn (mapAOff m) (127 * mapAPitch m + e * k) &&
    (mapBGl m || t.spIn (mapBBase m) ((k - 1) * mapBPitch m + 128 * e)) &&
    (!fp8 || (t.spIn (mapSaOff m) (4 * 128 * mapChunks m) &&
      (mapBGl m || t.spIn (mapSbBase m) (4 * mapChunks m))))
/-- OMAP (spec/11 R250). -/
def State.omap (f : GA) (x : OmapX) : UnitId → State → State :=
  State.enqueue (.omap f x) fun s u =>
    { guard := guardOf x.gen x.gslot x.gsense, ops := [s.srcG u f.a.toNat], lines := [], rd := [], wr := [], empty := false }
/-- OMAP. -/
def execOmap (f : GA) (x : OmapX) (s : State) : Answer := issue (.omap f x) s (State.omap f x)
/-- OMAP_PERFORM: the record read, checked and placed in its slot; an ill-formed one leaves the slot empty. Poison of its bytes is
not looked at (notes/assumptions/69.md). -/
def execOmapPerform (c t : Nat) (s : State) : Answer :=
  .next (s.perform c t 1 fun s cmd => match cmd.instr with
    | .omap _ x =>
      let a := wordAt cmd.ops 0
      let j := x.map.toNat
      let g := s.engRead c (s.team c t).ctx a 64 2
      let r := dwordsOfBytes 8 g.bytes
      some (match g.flt with
        | some f => workStop g.s 0 (.fault f)
        | none =>
          if (g.s.team c t).mapOk r then workTo (g.s.onTeam c t fun k => { k with oms := k.oms.put j r }) 1
          else workStop (g.s.onTeam c t fun k => { k with oms := k.oms.drop j }) 0 (.ill 0x02 a))
    | _ => none)

/-! MMA and MSQD. -/

/-- The operands of one K-chunk: bytes of A's rows, bytes of B's rows, the scales, and whether any was poisoned. -/
structure Chunk where
  s : State
  a : List (List Byte)
  b : List (List Byte)
  sa : List Word
  sb : Word
  bad : Bool
  flt : Option Flt
/-- Rows of bytes read one after another. -/
def State.engRows (s : State) (c t : Nat) (sp : Bool) (addrs : List Nat) (n : Nat) : List (List Byte) × Got :=
  addrs.foldl (fun r a =>
    if r.2.flt.isSome then r else
    let g := r.2.s.engSrc c t sp (BitVec.ofNat 64 a) n 2
    (r.1 ++ [g.bytes], { g with bad := [r.2.bad.any id || g.bad.any id] })) ([], { s := s, bytes := [], bad := [], flt := none })
/-- Addresses of A's rows of chunk `q`. -/
def mapARows (m : List Dword) (q : Nat) : List Nat :=
  (List.range 128).map fun i => mapAOff m + i * mapAPitch m + mapElem m * 128 * q
/-- Addresses of B's rows of chunk `q`. -/
def mapBRows (m : List Dword) (q : Nat) : List Nat := (List.range 128).map fun k => mapBBase m + (128 * q + k) * mapBPitch m
/-- Addresses of A's scales of chunk `q`. -/
def mapSa (m : List Dword) (q : Nat) : List Nat := (List.range 128).map fun i => mapSaOff m + 4 * (mapChunks m * i + q)
/-- Does a chunk have to wait for an absent scratchpad line (spec/02 R55)? -/
def Team.chunkWaits (t : Team) (m : List Dword) (q : Nat) (scales : Bool) : Bool :=
  let e := mapElem m
  (mapARows m q).any (fun a => t.spAbsent a (128 * e)) ||
    (!mapBGl m && (mapBRows m q).any fun a => t.spAbsent a (128 * e)) ||
    (scales && ((mapSa m q).any (fun a => t.spAbsent a 4) ||
      (!mapBGl m && t.spAbsent (mapSbBase m + 4 * q) 4)))
/-- The operands of chunk `q` read. -/
def State.readChunk (s : State) (c t : Nat) (m : List Dword) (q : Nat) (scales : Bool) : Chunk :=
  let n := 128 * mapElem m
  let ra := s.engRows c t true (mapARows m q) n
  let rb := ra.2.s.engRows c t (!mapBGl m) (mapBRows m q) n
  let rs := rb.2.s.engRows c t true (if scales then mapSa m q else []) 4
  let rt := rs.2.s.engRows c t (!mapBGl m) (if scales then [mapSbBase m + 4 * q] else []) 4
  { s := rt.2.s, a := ra.1, b := rb.1, sa := rs.1.map fun b => BitVec.ofNat 32 (leNat b)
    sb := BitVec.ofNat 32 (leNat (rt.1.getD 0 []))
    bad := ra.2.bad.any id || rb.2.bad.any id || rs.2.bad.any id || rt.2.bad.any id
    flt := match rb.2.flt with
      | some f => some f
      | none => rt.2.flt }

/-- An E4M3 byte in units of 2^-9, or nothing for NaN. -/
def e4m3Units (b : Byte) : Option Int :=
  match readE4m3 b.toNat with
  | .fin x => some (x.units (-9))
  | _ => none
/-- The k-th byte of a row. -/
def rowByte (r : List Byte) (k : Nat) : Byte := r.getD k 0
/-- The k-th BF16 element of a row, widened. -/
def rowBf (r : List Byte) (k : Nat) : Word := widen ((r.getD (2 * k) 0).toNat + 256 * (r.getD (2 * k + 1) 0).toNat)
/-- Row i of A and column j of B as E4M3 units; nothing where one of them is NaN. -/
def Chunk.units (k : Chunk) (i j : Nat) : Option (List (Int × Int)) :=
  (List.range 128).foldr (fun n acc =>
    match acc, e4m3Units (rowByte (k.a.getD i []) n), e4m3Units (rowByte (k.b.getD n []) j) with
    | some l, some x, some y => some ((x, y) :: l)
    | _, _, _ => none) (some [])
/-- Neighbours of a list added in pairs (spec/06 R156). -/
def pairSums : List Word → List Word
  | a :: b :: r => add32 a b :: pairSums r
  | l => l
/-- The sum of 128 words over the fixed binary tree of spec/06 R156. -/
def treeSum (l : List Word) : Word :=
  (pairSums (pairSums (pairSums (pairSums (pairSums (pairSums (pairSums l))))))).getD 0 0
/-- acc after one chunk of an MMA (spec/06 R155, R156). -/
def Chunk.mma (k : Chunk) (bf : Bool) (i j : Nat) (acc : Word) : Word :=
  if bf then
    add32 acc (treeSum ((List.range 128).map fun n => mul32 (rowBf (k.a.getD i []) n) (rowBf (k.b.getD n []) j)))
  else match k.units i j with
    | none => 0x7FC00000
    | some l =>
      let cs := rnInt (l.foldl (fun a p => a + p.1 * p.2) 0) (-18)
      add32 acc (mul32 cs (mul32 (k.sa.getD i 0) k.sb))
/-- acc after one chunk of an MSQD (spec/11 R253). -/
def Chunk.msqd (k : Chunk) (bf : Bool) (i j : Nat) (acc : Word) : Word :=
  if bf then
    add32 acc (treeSum ((List.range 128).map fun n =>
      let d := sub32 (rowBf (k.a.getD i []) n) (rowBf (k.b.getD n []) j)
      mul32 d d))
  else match k.units i j with
    | none => 0x7FC00000
    | some l => add32 acc (rnInt (l.foldl (fun a p => a + (p.1 - p.2) * (p.1 - p.2)) 0) (-18))

/-- MMA or MSQD at issue (spec/11 R251). -/
def State.matrixCmd (i : Instr) (x : MmaX) : UnitId → State → State :=
  State.enqueue i fun _ _ =>
    let k := x.tile.toNat
    { guard := guardOf x.gen x.gslot x.gsense, ops := [], lines := [], rd := if x.acc then [k] else [], wr := [k], empty := false }
/-- MMA. -/
def execMma (f : GA) (x : MmaX) (s : State) : Answer := issue (.mma f x) s (State.matrixCmd (.mma f x) x)
/-- MSQD. -/
def execMsqd (f : GA) (x : MmaX) (s : State) : Answer := issue (.msqd f x) s (State.matrixCmd (.msqd f x) x)
/-- One chunk of an MMA or MSQD (spec/11 R252): the sums so far stand in the tile, which nothing can read before the last
chunk is added. -/
def State.matrixChunk (s : State) (c t : Nat) (x : MmaX) (cmd : Cmd) (scales : Bool)
    (op : Chunk → Bool → Nat → Nat → Word → Word) : Work :=
  let k := x.tile.toNat
  let q := cmd.progress
  let tm := s.team c t
  if !tm.hasTile k then workStop s q (.ill 0x03 0) else
  match tm.oms.find x.map.toNat with
  | none => workStop s q (.ill 0x02 0)
  | some m =>
    let old := s.tile c t k
    if x.acc && !old.valid then workStop s q (.ill 0x04 0)
    else if tm.chunkWaits m q (scales && !mapBf m) then workStop s q .wait
    else
      let ch := s.readChunk c t m q (scales && !mapBf m)
      match ch.flt with
      | some f => workStop ch.s q (.fault f)
      | none =>
        if ch.bad then workStop ch.s q (.ill 0x05 0) else
        let start (i j : Nat) : Word := if q = 0 && !x.acc then 0 else old.at_ i j
        let last := decide (mapChunks m ≤ q + 1)
        let s := ch.s.setTile c t k
          { valid := old.valid || (last && !x.acc), el := tileOf fun i j => op ch (mapBf m) i j (start i j) }
        { s := s, progress := q + 1, stop := if last then none else some .wait }
/-- MMA_CHUNK (spec/11 R252). -/
def execMmaChunk (c t : Nat) (s : State) : Answer :=
  .next (s.perform c t 1 fun s cmd => match cmd.instr with
    | .mma _ x => some (s.matrixChunk c t x cmd true Chunk.mma)
    | _ => none)
/-- One chunk of an MMA or MSQD as a command's work. -/
def State.chunkWork (c t : Nat) (s : State) (cmd : Cmd) : Option Work :=
  match cmd.instr with
  | .mma _ x => some (s.matrixChunk c t x cmd true Chunk.mma)
  | .msqd _ x => some (s.matrixChunk c t x cmd false Chunk.msqd)
  | _ => none
/-- Chunks of an MSQD until it completes or stops, `n` at most. -/
def State.msqdLoop : Nat → State → Nat → Nat → State
  | 0, s, _, _ => s
  | n + 1, s, c, t =>
    match s.headOf c t 1 with
    | some cmd => match cmd.instr with
      | .msqd _ x =>
        if (s.team c t).tileHeld cmd then s else
        let s' := State.settle c t 1 cmd (s.matrixChunk c t x cmd false Chunk.msqd)
        if ((s'.team c t).engq 1).cmds.any (fun y => y.id == cmd.id && y.progress == cmd.progress) then s'
        else if ((s'.team c t).engq 1).cmds.any (fun y => y.id == cmd.id) then msqdLoop n s' c t else s'
      | _ => s
    | none => s
/-- MSQD_PERFORM (spec/11 R253). -/
def execMsqdPerform (c t : Nat) (s : State) : Answer := .next (State.msqdLoop 64 s c t)

/-! MZERO, MSTORE, MTOPK. -/

/-- MZERO (spec/11 R254). -/
def State.mzero (f : GA) (x : MtileX) : UnitId → State → State :=
  State.enqueue (.mzero f x) fun _ _ =>
    { guard := guardOf x.gen x.gslot x.gsense, ops := [], lines := [], rd := [], wr := [x.tile.toNat], empty := false }
/-- MZERO. -/
def execMzero (f : GA) (x : MtileX) (s : State) : Answer := issue (.mzero f x) s (State.mzero f x)
/-- MZERO_PERFORM. -/
def execMzeroPerform (c t : Nat) (s : State) : Answer :=
  .next (s.perform c t 1 fun s cmd => match cmd.instr with
    | .mzero _ x =>
      let k := x.tile.toNat
      some (if !(s.team c t).hasTile k then workStop s 0 (.ill 0x03 0) else workTo (s.setTile c t k .zero) 1)
    | _ => none)

/-- Bytes of an element of MSTORE. -/
def storeElem (x : StoreX) : Nat := if x.ty then 2 else 4
/-- Bytes of scratchpad from S[d] on that MSTORE writes into. -/
def storeSpan (x : StoreX) (pitch : Nat) : Nat := 127 * pitch + 128 * storeElem x
/-- The scratchpad lines into which MSTORE writes its 128 rows from S[d] on. -/
def Team.storeLines (t : Team) (x : StoreX) (d pitch : Nat) : List Nat :=
  if t.spIn d (storeSpan x pitch) then (List.range 128).flatMap fun i => t.linesOf (d + i * pitch) (128 * storeElem x) else []
/-- MSTORE (spec/11 R254). -/
def State.mstore (f : GA) (x : StoreX) : UnitId → State → State :=
  State.enqueue (.mstore f x) fun s u =>
    let d := s.sget u f.d.toNat
    let b := s.sget u f.b.toNat
    let tm := s.teamOf u
    { guard := guardOf x.gen x.gslot x.gsense, ops := [d, b], rd := [x.tile.toNat], wr := [], empty := false
      lines := if x.sp then tm.storeLines x d.toNat b.toNat else [] }
/-- MSTORE. -/
def execMstore (f : GA) (x : StoreX) (s : State) : Answer := issue (.mstore f x) s (State.mstore f x)
/-- The bytes of an element as MSTORE writes it. -/
def storeBytes (x : StoreX) (w : Word) : List Byte := if x.ty then natLe 2 (toBf16 w) else natLe 4 w.toNat
/-- MSTORE's work: all of it, or `lim` of its elements. -/
def State.mstoreWork (c t : Nat) (lim : Option Nat) (s : State) (cmd : Cmd) : Option Work :=
  match cmd.instr with
  | .mstore _ x =>
    let k := x.tile.toNat
    let d := wordAt cmd.ops 0
    let b := wordAt cmd.ops 1
    let tm := s.team c t
    let e := storeElem x
    some (if !tm.hasTile k || b.toNat % e != 0 || (x.sp && !tm.spIn d.toNat (storeSpan x b.toNat)) then
        workStop s cmd.progress (.ill 0x03 0)
      else if !(s.tile c t k).valid then workStop s cmd.progress (.ill 0x04 0)
      else
        let x0 := s.tile c t k
        (workTo s cmd.progress).run lim 16384 fun s n =>
          let a := d + BitVec.ofNat 64 (n / 128) * b + BitVec.ofNat 64 (e * (n % 128))
          (s.engDst c t x.sp a (storeBytes x (x0.at_ (n / 128) (n % 128))) (reqOf x.pol.toNat) false).work n)
  | _ => none
/-- MSTORE_PERFORM. -/
def execMstorePerform (c t : Nat) (s : State) : Answer := .next (s.perform c t 1 (State.mstoreWork c t none))

/-- The place of an FP32 pattern in the ranking of MTOPK: a larger value is higher, −0 below +0, NaN lowest
(spec/11 R255). -/
def rankKey (w : Word) : Int :=
  let m : Nat := w.toNat % 2 ^ 31
  if 0x7F800000 < m then -(2 ^ 40) else if w.toNat < 2 ^ 31 then (m : Int) else -(m : Int) - 1
/-- A column put into a list ranked best first. -/
def rankIn (x : Int × Nat) : List (Int × Nat) → List (Int × Nat)
  | [] => [x]
  | y :: r => if y.1 < x.1 then x :: y :: r else y :: rankIn x r
/-- The columns of row `i` in rank order. -/
def Tile.ranked (x : Tile) (i : Nat) : List Nat :=
  ((List.range 128).foldl (fun l j => rankIn (rankKey (x.at_ i j), j) l) []).map (·.2)
/-- Rows named by MTOPK's operand, 0 meaning 128. -/
def topkRows (a : Dword) : Nat := if fld a 16 8 = 0 then 128 else fld a 16 8
/-- MTOPK (spec/11 R255). -/
def State.mtopk (f : GA) (x : TopkX) : UnitId → State → State :=
  State.enqueue (.mtopk f x) fun s u =>
    let d := s.sget u f.d.toNat
    let a := s.srcG u f.a.toNat
    { guard := guardOf x.gen x.gslot x.gsense, ops := [d, a], rd := [x.tile.toNat], wr := [], empty := false
      lines := (s.teamOf u).linesOf d.toNat (8 * (x.km1.toNat + 1) * topkRows a) }
/-- MTOPK. -/
def execMtopk (f : GA) (x : TopkX) (s : State) : Answer := issue (.mtopk f x) s (State.mtopk f x)
/-- MTOPK's work: all of it, or `lim` units of 64 bytes. -/
def State.mtopkWork (c t : Nat) (lim : Option Nat) (s : State) (cmd : Cmd) : Option Work :=
  match cmd.instr with
  | .mtopk _ x =>
    let k := x.tile.toNat
    let d := (wordAt cmd.ops 0).toNat
    let a := wordAt cmd.ops 1
    let tm := s.team c t
    let row0 := fld a 0 16
    let kk := x.km1.toNat + 1
    some (if !tm.hasTile k || decide (128 < row0 + topkRows a) || fld a 24 40 != 0 || !tm.spIn d (8 * kk * topkRows a) then
        workStop s 0 (.ill 0x03 0)
      else if !(s.tile c t k).valid then workStop s 0 (.ill 0x04 0)
      else
        let x0 := s.tile c t k
        let bytes := (List.range (topkRows a)).flatMap fun i =>
          ((x0.ranked (row0 + i)).take kk).flatMap fun j => natLe 8 ((x0.at_ (row0 + i) j).toNat + j * 2 ^ 32)
        s.spFill c t d bytes lim cmd)
  | _ => none
/-- MTOPK_PERFORM. -/
def execMtopkPerform (c t : Nat) (s : State) : Answer := .next (s.perform c t 1 (State.mtopkWork c t none))

/-! Tile reads by lanes. -/

/-- ACCRD and ACCRDC (spec/11 R256): element (x[13:7], x[6:0]) of the tile into each lane, converted by `g`. -/
def State.accAny (i : Instr) (f : LA) (x : TileX) (g : Word → Dword → Dword × BitVec 7) (u : UnitId) (s : State) : State :=
  let k := x.tile.toNat
  let tm := s.teamOf u
  if !tm.hasTile k then s.faultUnit u illegalOperand
  else if !tm.tileReady k then s.waitIn u { instr := i, lo := 0 }
  else
    let tl := s.tile u.place (s.teamSlot u) k
    if !tl.valid then s.faultUnit u (fltD 0x16 k) else
    let m := s.maskOf u
    let val (l : Nat) : Dword × BitVec 7 :=
      let p := s.srcL u f.a.toNat l 32
      g (s.fmtOf u) ((tl.at_ (fld p 7 7) (fld p 0 7)).setWidth 64)
    (s.orFlags u (gather m fun l => (val l).2)).doneV u i f.d.toNat f.k 32 (laneTab m fun l => (val l).1)
/-- ACCRD's body. -/
def State.accrd (f : LA) (x : TileX) : UnitId → State → State := State.accAny (.accrd f x) f x fun _ v => (v, 0)
/-- ACCRDC's body. -/
def State.accrdc (f : LA) (x : TileX) : UnitId → State → State :=
  State.accAny (.accrdc f x) f x fun fmt v => convert fmt f.m.toNat 4 v
/-- ACCRD. -/
def execAccrd (f : LA) (x : TileX) (s : State) : Answer := issue (.accrd f x) s (State.accrd f x)
/-- ACCRDC. -/
def execAccrdc (f : LA) (x : TileX) (s : State) : Answer := issue (.accrdc f x) s (State.accrdc f x)

end Sys2Proof.Machine
end

