-- ==== Sys2Proof/Machine/Trunk.lean ====
section
/-! DEFINITION. The trunk store: rows of TX64 elements with their SQ144 sums, adds, normalising reads, spans, row and tile
images (spec/11 R257 to R268, spec/04 R101 to R103). -/
namespace Sys2Proof.Machine

/-! Rows. -/

/-- Rows of a team's block (spec/11 R257). -/
def TrunkCfg.rows (k : TrunkCfg) : Nat := if k.rowLen = 0 then 0 else k.size / k.rowLen
/-- Place in the core's store of element (row, col). -/
def TrunkCfg.el (k : TrunkCfg) (row col : Nat) : Nat := k.base + row * k.rowLen + col
/-- The SQ144 register and flags of a row. -/
def TrunkCfg.reg (k : TrunkCfg) (row : Nat) : Nat := (k.base + row * k.rowLen) / 128
/-- The integer of an element's TX64 value. -/
def State.trunkEl (s : State) (c t row col : Nat) : Int :=
  ((s.core c).trunk.get ((s.team c t).trunk.el row col) 0).toInt
/-- SQ144 of a row. -/
def State.trunkSq (s : State) (c t row : Nat) : BitVec 144 := (s.core c).sq.get ((s.team c t).trunk.reg row) 0
/-- Flags of a row (spec/11 R259). -/
def State.trunkFlags (s : State) (c t row : Nat) : Word := (s.core c).rowFlags.get ((s.team c t).trunk.reg row) 0
/-- WCNT of a row. -/
def State.trunkWcnt (s : State) (c t row : Nat) : BitVec 16 := (s.trunkFlags c t row).extractLsb' 8 16
/-- Is the team's trunk busy: is a TCFG incomplete (spec/11 R258)? -/
def Team.trunkBusy (t : Team) : Bool := t.cmds.any fun c => match c.instr with
  | .tcfg _ _ => true
  | _ => false

/-- How many times a sum wraps: w of spec/11 R260. -/
def trunkWrap (x : Int) : Int := if 2 ^ 63 ≤ x then 1 else if x < -(2 ^ 63) then -1 else 0
/-- trunk_add of spec/11 R260, with CSAT and CINV of the contribution set by OR. -/
def State.trunkAdd (s : State) (c t row col : Nat) (v : Int) (csat cinv : Bool) : State :=
  let k := (s.team c t).trunk
  let x := s.trunkEl c t row col
  let w := trunkWrap (x + v)
  let x2 := x + v - w * 2 ^ 64
  let sq : Int := ((s.trunkSq c t row).toNat : Int) - x * x + x2 * x2
  let fl := s.trunkFlags c t row
  let wc := wrapN 16 ((fl.toNat / 256 % 65536 : Nat) + w)
  let fl := setFld (fl ||| (if csat then 1 else 0) ||| (if cinv then 2 else 0)) 8 16 wc
  s.onCore c fun q =>
    { q with
      trunk := q.trunk.put (k.el row col) (BitVec.ofInt 64 x2)
      sq := q.sq.put (k.reg row) (BitVec.ofInt 144 sq)
      rowFlags := q.rowFlags.put (k.reg row) fl }
/-- The contribution of an FP32 or BF16 value: its integer, whether it saturated and whether it was NaN (spec/11 R261). -/
def contribution (x : FloatVal) : Int × Bool × Bool :=
  match x with
  | .nan => (0, false, true)
  | x => ((satTx x).1, (satTx x).2 != 0, false)
/-- Every element, SQ144 register and flag of a team's block zeroed, and the block arranged anew (spec/11 R257, R258). -/
def State.trunkClear (s : State) (c t : Nat) (f : TrunkCfg → TrunkCfg) : State :=
  let k := (s.team c t).trunk
  let within (n : Nat) : Bool := decide (k.base ≤ n) && decide (n < k.base + k.size)
  s.onCore c fun q =>
    let tm := q.teams.get t .none
    { q with
      trunk := q.trunk.keep fun n => !within n
      sq := q.sq.keep fun n => !within (128 * n)
      rowFlags := q.rowFlags.keep fun n => !within (128 * n)
      teams := q.teams.put t { tm with trunk := f tm.trunk, partials := [], inbox := [] } }

/-! Lane adds and TSYNC. -/

/-- TADD (spec/11 R261). -/
def State.tadd (f : LA) (x : TaddX) (u : UnitId) (s : State) : State :=
  let i := Instr.tadd f x
  let c := u.place
  let t := s.teamSlot u
  let tm := s.team c t
  let m := f.m.toNat
  if tm.trunkBusy then s.waitIn u { instr := i, lo := 0 } else
  let at_ (l : Nat) : Nat × Nat :=
    let b := s.srcL u f.b.toNat l 32
    (fld b 16 16 + x.roff.toNat, fld b 0 16 + x.coff.toNat)
  let val (l : Nat) : Int × Bool × Bool :=
    if m = 7 then ((s.srcL u f.a.toNat l 64).toInt, false, false)
    else contribution ((floatOf m).read false ((s.srcL u f.a.toNat l 32).toNat % 2 ^ 32))
  let lanes := (s.maskOf u).lanes
  let out (l : Nat) : Bool := decide (tm.trunk.rows ≤ (at_ l).1) || decide (tm.trunk.rowLen ≤ (at_ l).2)
  s.withFaults u ((lanes.filter out).map fun l => (l, fltD 0x13 0)) fun s =>
    ((lanes.filter fun l => !out l).foldl (fun s l =>
      let v := val l
      s.trunkAdd c t (at_ l).1 (at_ l).2 v.1 v.2.1 v.2.2) s).doneL u i
/-- TADD. -/
def execTadd (f : LA) (x : TaddX) (s : State) : Answer := issue (.tadd f x) s (State.tadd f x)

/-- The team slots of a grid's team `n`: core and slot. -/
def State.findTeam (s : State) (gid n : Nat) : Option (Nat × Nat) :=
  s.cores.cells.findSome? fun c => (c.2.teams.cells.find? fun t => t.2.grid == gid && t.2.number == n && !t.2.torn).map fun t => (c.1, t.1)
/-- The other members of a team's span: core and slot. -/
def State.spanOthers (s : State) (c t : Nat) : List (Nat × Nat) :=
  let tm := s.team c t
  (tm.trunk.members.filter (· != tm.number)).filterMap fun n => s.findTeam tm.grid n
/-- The rows that a TSYNC operand names (spec/11 R263). -/
def syncRows (k : TrunkCfg) (v : Dword) : List Nat :=
  if fld v 16 16 = 0 then List.range k.rows else (List.range (fld v 16 16)).map (fld v 0 16 + ·)
/-- Do partials of the team's position for some of these rows still travel to other members? -/
def State.partialsOut (s : State) (c t : Nat) (rows : List Nat) : Bool :=
  let pos := (s.team c t).trunk.pos
  (s.spanOthers c t).any fun m => (s.team m.1 m.2).inbox.any fun p => p.pos == pos && rows.contains p.row
/-- The team's partials of some rows are sent to every other member of the span (spec/04 R103). -/
def State.sendPartials (s : State) (c t : Nat) (rows : List Nat) : State :=
  let pos := (s.team c t).trunk.pos
  let ps : List Partial := rows.map fun r => { row := r, pos := pos, sq := s.trunkSq c t r, wcnt := s.trunkWcnt c t r }
  (s.spanOthers c t).foldl (fun s m => s.onTeam m.1 m.2 fun k => { k with inbox := k.inbox ++ ps }) s
/-- Is a member of the team's span saved and not resumed? It has no core that could receive a partial. -/
def State.spanAway (s : State) (c t : Nat) : Bool :=
  let tm := s.team c t
  tm.trunk.members.any fun n => n != tm.number && (s.grid tm.grid).away.contains n
/-- TSYNC (spec/11 R263): adds are performed as they issue, so that only .span has something to send and to wait for: that every other
member is on a core, then that each has received the partials. -/
def State.tsync (f : LA) (u : UnitId) (s : State) : State :=
  let i := Instr.tsync f
  let c := u.place
  let t := s.teamSlot u
  let k := (s.team c t).trunk
  let v := s.sget u (f.a.toNat - 72)
  let rows := syncRows k v
  if f.a.toNat < 72 then s.faultUnit u illegalOperand
  else if (s.team c t).trunkBusy then s.waitIn u { instr := i, lo := 0 }
  else if fld v 16 16 != 0 && decide (k.rows < fld v 0 16 + fld v 16 16) then s.faultUnit u (fltD 0x13 0)
  else if f.m != 3 || decide (k.span ≤ 1) then s.doneL u i
  else
    let sent := match (s.thread u).wait with
      | some w => w.lo == 1
      | none => false
    if !sent && s.spanAway c t then s.waitIn u { instr := i, lo := 0 } else
    let s := if sent then s else s.sendPartials c t rows
    if s.partialsOut c t rows then s.waitIn u { instr := i, lo := 1 } else s.doneL u i
/-- TSYNC. -/
def execTsync (f : LA) (s : State) : Answer := issue (.tsync f) s (State.tsync f)
/-- The partials on their way to a team are received: the latest of each row and position counts (spec/04 R103). -/
def State.receivePartials (s : State) (c t : Nat) : State :=
  s.onTeam c t fun k =>
    { k with
      partials := k.inbox.foldl (fun l p => (l.filter fun q => !(q.row == p.row && q.pos == p.pos)) ++ [p]) k.partials
      inbox := [] }

/-! Normalising reads. -/

/-- Partials that a row's read uses: those of the other positions of the span. -/
def Team.partialsOf (t : Team) (row : Nat) : List Partial := t.partials.filter fun p => p.row == row && p.pos != t.trunk.pos
/-- SQ_total of a row, at 145 bits (spec/04 R103, spec/06 R151). -/
def State.sqTotal (s : State) (c t row : Nat) : Nat :=
  ((s.team c t).partialsOf row).foldl (fun a p => a + p.sq.toNat) (s.trunkSq c t row).toNat
/-- Does the row read as wrapped (spec/11 R264)? -/
def State.rowWrapped (s : State) (c t row : Nat) : Bool :=
  s.trunkWcnt c t row != 0 || ((s.team c t).partialsOf row).any fun p => p.wcnt != 0
/-- inv of a row: RN(1 / √(RN(ms + eps))) with ms = RN(N × 2^-64 / n) (spec/11 R264). -/
def State.rowInv (s : State) (c t row : Nat) (eps : Word) : Word :=
  let k := (s.team c t).trunk
  let ms := rn32 ((FloatVal.fin (.ofInt (s.sqTotal c t row) (-64))).div (.fin (.ofInt ((k.rowLen * k.span : Nat) : Int) 0)))
  rn32 (fnRsq (val32 (add32 ms eps))).1
/-- The canonical NaN of a type. -/
def nanOf (m : Nat) : Nat := (floatOf m).nanCode
/-- y of spec/11 R264 for an element, in type 4 or 5; `gain` is γ. -/
def State.normValue (s : State) (c t row col : Nat) (eps gain : Word) (m : Nat) : Nat :=
  if s.rowWrapped c t row then nanOf m else
  let xi := mul32 (rnInt (s.trunkEl c t row col) (-32)) (s.rowInv c t row eps)
  (rnd (floatOf m) 0 false ((val32 xi).mul (val32 gain)).1).1
/-- The FP32 gain of a local column, from the table at scratchpad offset `g`. -/
def State.gainAt (s : State) (c t g col : Nat) : Word := BitVec.ofNat 32 (leNat (s.spRead c t (g + 4 * col) 4))
/-- amax of a block of FP32 words: NaN if any is NaN, and then not finite (spec/11 R265, spec/06 R159). -/
def amaxOf (l : List Word) : FloatVal :=
  l.foldl (fun a w => match a, (val32 w).abs with
    | .nan, _ => .nan
    | _, .nan => .nan
    | a, x => if a.cmp x < 0 then x else a) (.fin (.zero false))
/-- s of a block: RN(amax / 448), or 1.0. -/
def blockScale (l : List Word) : Word :=
  match amaxOf l with
  | .fin x => if x.isZero then 0x3F800000 else rn32 ((FloatVal.fin x).div (.fin (.ofInt 448 0)))
  | _ => 0x3F800000
/-- e4m3_q(RN(y / s), nearest even, 0). -/
def quantOf (y sc : Word) : Nat := (e4m3q 0 false (val32 (div32 y sc))).1
/-- TNORM and TNORMQ (spec/11 R264, R265): the gain columns that a lane reads, and its result. -/
def State.tnormAny (i : Instr) (f : LA) (se : Nat) (quant : Bool) (u : UnitId) (s : State) : State :=
  let c := u.place
  let t := s.teamSlot u
  let tm := s.team c t
  let k := tm.trunk
  if f.b.toNat < 72 then s.faultUnit u illegalOperand else
  let g := (s.sget u (f.b.toNat - 72)).toNat % 2 ^ 20
  let eps := (s.sget u se).setWidth 32
  let at_ (l : Nat) : Nat × Nat :=
    let a := s.srcL u f.a.toNat l 32
    (fld a 16 16, fld a 0 16)
  let out (l : Nat) : Bool := decide (k.rows ≤ (at_ l).1) || decide (k.rowLen ≤ (at_ l).2)
  let first (l : Nat) : Nat := if quant then (at_ l).2 / 128 * 128 else (at_ l).2
  let cols := if quant then 128 else 1
  let lanes := (s.maskOf u).lanes
  let from_ (l : Nat) : Nat := g + 4 * first l
  let absent := lanes.any fun l => !out l && tm.spIn (from_ l) (4 * cols) && tm.spAbsent (from_ l) (4 * cols)
  if tm.trunkBusy || absent then s.waitIn u { instr := i, lo := cond absent 1 0 }
  else
    let fs := lanes.filterMap fun l =>
      if out l then some (l, fltD 0x13 0)
      else if !tm.spIn (from_ l) (4 * cols) then
        some (l, fltAt 0x11 (BitVec.ofNat 64 (((List.range cols).map (from_ l + 4 * ·)).find? (fun a => !tm.spIn a 4) |>.getD (from_ l))))
      else if s.spPoisoned c t (from_ l) (4 * cols) then some (l, fltAt 0x12 (BitVec.ofNat 64 (from_ l)))
      else none
    s.withFaults u fs fun s' =>
      let m := (s'.maskOf u).lanes.filter fun l => !(fs.any fun x => x.1 == l)
      let val (l : Nat) : Dword :=
        let r := (at_ l).1
        if quant then
          let ys := (List.range 128).map fun j =>
            BitVec.ofNat 32 (s.normValue c t r (first l + j) eps (s.gainAt c t g (first l + j)) 4)
          let sc := blockScale ys
          BitVec.ofNat 64 (quantOf (ys.getD ((at_ l).2 - first l) 0) sc + sc.toNat * 2 ^ 32)
        else BitVec.ofNat 64 (s.normValue c t r (at_ l).2 eps (s.gainAt c t g (at_ l).2) f.m.toNat)
      s'.doneV u i f.d.toNat f.k (if quant then 64 else 32) { cells := m.map fun l => (l, val l) }
/-- TNORM's body. -/
def State.tnorm (f : LA) (x : EpsX) : UnitId → State → State := State.tnormAny (.tnorm f x) f x.se.toNat false
/-- TNORMQ's body. -/
def State.tnormq (f : LA) (x : EpsX) : UnitId → State → State := State.tnormAny (.tnormq f x) f x.se.toNat true
/-- TNORM. -/
def execTnorm (f : LA) (x : EpsX) (s : State) : Answer := issue (.tnorm f x) s (State.tnorm f x)
/-- TNORMQ. -/
def execTnormq (f : LA) (x : EpsX) (s : State) : Answer := issue (.tnormq f x) s (State.tnormq f x)

/-! MADDT. -/

/-- MADDT (spec/11 R262). -/
def State.maddt (f : GA) (x : MtileX) : UnitId → State → State :=
  State.enqueue (.maddt f x) fun s u =>
    { guard := guardOf x.gen x.gslot x.gsense, ops := [s.srcG u f.a.toNat], lines := [], rd := [x.tile.toNat], wr := [], empty := false }
/-- MADDT. -/
def execMaddt (f : GA) (x : MtileX) (s : State) : Answer := issue (.maddt f x) s (State.maddt f x)
/-- MADDT_PERFORM. -/
def execMaddtPerform (c t : Nat) (s : State) : Answer :=
  .next (s.perform c t 2 fun s cmd => match cmd.instr with
    | .maddt _ x =>
      let k := x.tile.toNat
      let a := wordAt cmd.ops 0
      let tm := s.team c t
      let n := if fld a 32 8 = 0 then 128 else fld a 32 8
      some (if !tm.hasTile k || decide (128 < n) || fld a 40 24 != 0 || decide (tm.trunk.rows < fld a 0 16 + n) ||
            decide (tm.trunk.rowLen < fld a 16 16 + 128) then workStop s 0 (.ill 0x03 0)
        else if !(s.tile c t k).valid then workStop s 0 (.ill 0x04 0)
        else
          let x0 := s.tile c t k
          workTo ((List.range (n * 128)).foldl (fun s e =>
            let v := contribution (val32 (x0.at_ (e / 128) (e % 128)))
            s.trunkAdd c t (fld a 0 16 + e / 128) (fld a 16 16 + e % 128) v.1 v.2.1 v.2.2) s) 1)
    | _ => none)

/-! TCFG. -/

/-- TCFG (spec/11 R258). -/
def State.tcfg (f : GA) (x : TcfgX) : UnitId → State → State :=
  State.enqueue (.tcfg f x) fun s u =>
    { guard := guardOf x.gen x.gslot x.gsense, ops := [s.srcG u f.a.toNat, s.sget u f.b.toNat], lines := [], rd := [], wr := [],
      empty := false }
/-- TCFG. -/
def execTcfg (f : GA) (x : TcfgX) (s : State) : Answer := issue (.tcfg f x) s (State.tcfg f x)
/-- L and n of a TCFG that has begun, and its span record: what every member must agree on. -/
def Cmd.spanKey (x : Cmd) : Option (Nat × Nat × List Dword) :=
  match x.instr, x.record with
  | .tcfg _ k, some r => if x.begun then some ((wordAt x.ops 0).toNat, k.sm1.toNat + 1, r) else none
  | _, _ => none
/-- The TCFG that a team has begun and not completed. -/
def State.spanBegun (s : State) (p : Nat × Nat) : Option Cmd :=
  ((s.team p.1 p.2).engq 2).cmds.head?.filter fun x => x.spanKey.isSome
/-- Team numbers of a span record. -/
def spanMembers (n : Nat) (r : List Dword) : List Nat := (List.range n).map fun p => fld (wordAt r (p / 2)) (32 * (p % 2)) 32
/-- The team numbers of a begun TCFG's span. -/
def Cmd.spanNames (x : Cmd) : List Nat := match x.spanKey with
  | some (_, n, r) => spanMembers n r
  | none => []
/-- The members of a begun TCFG's span, by core and slot. -/
def State.spanTeams (s : State) (gid : Nat) (x : Cmd) : List (Nat × Nat) := x.spanNames.filterMap fun m => s.findTeam gid m
/-- Teams of a grid whose begun TCFG names the team, or that the team's names. -/
def State.spanMeets (s : State) (c t : Nat) (x : Cmd) : List (Nat × Nat) :=
  let gid := (s.team c t).grid
  let all := s.cores.cells.flatMap fun k => (k.2.teams.cells.filter fun m => m.2.grid == gid).map fun m => (k.1, m.1)
  all.filter fun p => p != (c, t) && (match s.spanBegun p with
    | some y => (s.spanTeams gid x).contains p || (s.spanTeams gid y).contains (c, t)
    | none => false)
/-- The oldest incomplete TCFG of a team. -/
def Team.firstTcfg (t : Team) : Option Cmd := (t.engq 2).cmds.find? fun x => match x.instr with
  | .tcfg _ _ => true
  | _ => false
/-- The next TCFG of a team, begun or not, ends as ill-formed when it comes to it. -/
def Team.doomTcfg (t : Team) : Team :=
  match t.firstTcfg with
  | .none => t
  | some y => t.onEngq 2 fun e => { e with cmds := e.cmds.map fun x => if x.id == y.id then { x with doomed := true } else x }
/-- The members of a span that are saved come back to a TCFG that ends as ill-formed. -/
def State.spanAwayEnd (s : State) (gid : Nat) (ns : List Nat) : State :=
  let g := s.grid gid
  let ns := ns.filter fun n => g.away.contains n
  if ns.isEmpty then s else { s with grids := s.grids.put gid { g with clashed := ns ++ g.clashed } }
/-- Members of a span end as ill-formed: each with the TCFG that it has begun or that it comes to next; those of the numbers `ns` that
are saved do so when they are back. -/
def State.spanEnd (s : State) (gid : Nat) (ps : List (Nat × Nat)) (ns : List Nat) : State :=
  ps.foldl (fun s p => match (s.team p.1 p.2).firstTcfg with
    | none => s
    | some y => if y.begun then s.illFormed p.1 p.2 2 y 0x07 0 else s.onTeam p.1 p.2 Team.doomTcfg) (s.spanAwayEnd gid ns)
/-- A begun TCFG meets the others of its span: one that differs ends every incomplete member as ill-formed; when all have
begun, all complete. -/
def State.spanMeet (s : State) (c t : Nat) (x : Cmd) : State :=
  let gid := (s.team c t).grid
  let met := s.spanMeets c t x
  let key (p : Nat × Nat) : Option (Nat × Nat × List Dword) := (s.spanBegun p).bind Cmd.spanKey
  let clash := met.filter fun p => key p != x.spanKey
  if !clash.isEmpty then
    let begun := x :: clash.filterMap s.spanBegun
    s.spanEnd gid ((c, t) :: clash ++ begun.flatMap (s.spanTeams gid)).eraseDups (begun.flatMap Cmd.spanNames)
  else
    let all := (s.spanTeams gid x).eraseDups
    let n := (x.spanKey.map fun k => (dedup (spanMembers k.2.1 k.2.2)).length).getD 1
    if all.length == n && all.all fun p => key p == x.spanKey then all.foldl (fun s p => s.cmdDone p.1 p.2 2) s else s
/-- A TCFG's ill-formed conditions, but for those of its span record (spec/11 R258). -/
def State.tcfgBad (s : State) (c t : Nat) (x : TcfgX) (cmd : Cmd) : Bool :=
  let tm := s.team c t
  let n := x.sm1.toNat + 1
  let l := (wordAt cmd.ops 0).toNat
  l % 128 != 0 || decide (l < 128) || decide (16384 < l) || decide (tm.trunk.size < l) ||
    (decide (1 < n) && !tm.coop) || (n == 1 && wordAt cmd.ops 1 != 0)
/-- A TCFG begins: its checks, its span record, the block zeroed and arranged. -/
def State.tcfgBegin (s : State) (c t : Nat) (x : TcfgX) (cmd : Cmd) : Work :=
  let tm := s.team c t
  let n := x.sm1.toNat + 1
  let l := (wordAt cmd.ops 0).toNat
  let a := wordAt cmd.ops 1
  if s.tcfgBad c t x cmd then workStop s 0 (.ill 0x03 0) else
  if n = 1 then
    workTo (s.trunkClear c t fun k => { k with rowLen := l, span := 1, pos := 0, members := [tm.number] }) 1
  else
    let g := s.engRead c tm.ctx a 64 2
    match g.flt with
    | some f => workStop g.s 0 (.fault f)
    | none =>
      let r := dwordsOfBytes 8 g.bytes
      let ms := spanMembers n r
      match ms.findIdx? (· == tm.number) with
      | none => workStop g.s 0 (.ill 0x03 a)
      | some pos =>
        let s := g.s.trunkClear c t fun k => { k with rowLen := l, span := n, pos := pos, members := ms }
        workStop (s.onHead c t 2 fun y => { y with record := some r, begun := true }) 1 .wait
/-- TCFG's work, in queue 2: one of a single core that a span names differs from that span's. -/
def State.tcfgPerform (s : State) (c t : Nat) : State :=
  match s.headOf c t 2 with
  | none => s
  | some cmd => match cmd.instr with
    | .tcfg _ x =>
      let met := s.spanMeets c t cmd
      if cmd.doomed then s.illFormed c t 2 cmd 0x07 0
      else if x.sm1 == 0 && !met.isEmpty && !s.tcfgBad c t x cmd then
        let s := s.onHead c t 2 fun y => { y with begun := true }
        let begun := met.filterMap s.spanBegun
        let gid := (s.team c t).grid
        s.spanEnd gid ((c, t) :: met ++ begun.flatMap (s.spanTeams gid)).eraseDups (begun.flatMap Cmd.spanNames)
      else
      let s := if cmd.record.isSome then s else State.settle c t 2 cmd (s.tcfgBegin c t x cmd)
      match s.spanBegun (c, t) with
      | some y => if y.id = cmd.id then s.spanMeet c t y else s
      | none => s
    | _ => s

/-! Images. -/

/-- The image of a row: elements, SQ144 partial, flags, zeros (spec/11 R266). -/
def State.rowImage (s : State) (c t row : Nat) : List Byte :=
  let k := (s.team c t).trunk
  ((List.range k.rowLen).flatMap fun j => natLe 8 ((s.core c).trunk.get (k.el row j) 0).toNat) ++
    natLe 18 (s.trunkSq c t row).toNat ++ natLe 4 (s.trunkFlags c t row).toNat ++ List.replicate 42 0
/-- Σ x² over the elements of a row image. -/
def imageSq (els : List Dword) : Nat := els.foldl (fun a d => a + (d.toInt * d.toInt).toNat) 0
/-- Does a row image of `l` elements pass its check (spec/11 R268)? -/
def imageOk (l : Nat) (b : List Byte) : Bool :=
  ((b.drop (8 * l + 22)).take 42).all (· == 0) && leNat ((b.drop (8 * l)).take 18) == imageSq (dwordsOfBytes l b)
/-- A row replaced by its image. -/
def State.rowRestore (s : State) (c t row : Nat) (b : List Byte) : State :=
  let k := (s.team c t).trunk
  let els := dwordsOfBytes k.rowLen b
  s.onCore c fun q =>
    { q with
      trunk := (List.range k.rowLen).foldl (fun a j => a.put (k.el row j) (wordAt els j)) q.trunk
      sq := q.sq.put (k.reg row) (BitVec.ofNat 144 (leNat ((b.drop (8 * k.rowLen)).take 18)))
      rowFlags := q.rowFlags.put (k.reg row) (BitVec.ofNat 32 (leNat ((b.drop (8 * k.rowLen + 18)).take 4)) &&& 0x00FFFF03) }
/-- A row zeroed, with its SQ144 register and flags. -/
def State.rowZero (s : State) (c t row : Nat) : State :=
  let k := (s.team c t).trunk
  s.onCore c fun q =>
    { q with
      trunk := q.trunk.keep fun n => !(decide (k.el row 0 ≤ n) && decide (n < k.el row 0 + k.rowLen))
      sq := q.sq.drop (k.reg row)
      rowFlags := q.rowFlags.drop (k.reg row) }
/-- The image of a tile (spec/11 R266). -/
def Tile.image (x : Tile) : List Byte := (List.range 16384).flatMap fun n => natLe 4 (x.el.get n 0).toNat
/-- TEVICT and TRESTORE at issue (spec/11 R251, R267). -/
def State.imageCmd (i : Instr) (f : GA) (x : ImageX) (write : Bool) : UnitId → State → State :=
  State.enqueue i fun s u =>
    { guard := guardOf x.gen x.gslot x.gsense, ops := [s.srcG u f.a.toNat, s.sget u f.b.toNat], lines := []
      rd := if x.obj && !write then [x.tile.toNat] else [], wr := if x.obj && write then [x.tile.toNat] else [], empty := false }
/-- TEVICT. -/
def execTevict (f : GA) (x : ImageX) (s : State) : Answer := issue (.tevict f x) s (State.imageCmd (.tevict f x) f x false)
/-- TRESTORE. -/
def execTrestore (f : GA) (x : ImageX) (s : State) : Answer := issue (.trestore f x) s (State.imageCmd (.trestore f x) f x true)
/-- The first row that an image command names, and how many. -/
def imageRows (b : Dword) : Nat × Nat := (fld b 0 16, if fld b 16 16 = 0 then 1 else fld b 16 16)
/-- An image command's ill-formed conditions (spec/11 R268). -/
def Team.imageBad (t : Team) (x : ImageX) (a b : Dword) : Bool :=
  a.toNat % 64 != 0 ||
    (if x.obj then x.clr || b != 0 || !t.hasTile x.tile.toNat
     else decide (t.trunk.rows < (imageRows b).1 + (imageRows b).2))
/-- The bytes that the command at the head of queue 2 holds of a row image on its way. -/
def State.rowBuf (s : State) (c t : Nat) : List Byte := (((s.team c t).engq 2).cmds.head?.map (·.buf)).getD []
/-- Units of 64 bytes in the image of one row of a team. -/
def Team.rowUnits (t : Team) : Nat := t.trunk.rowLen / 8 + 1
/-- One unit of 64 bytes of row images written (spec/11 R267): with the first unit of a row its image is taken, and with CLR the row
zeroed, at one instant. -/
def State.evictUnit (c t : Nat) (clr : Bool) (a : Dword) (row0 k : Nat) (s : State) : Work :=
  let tm := s.team c t
  let row := row0 + k / tm.rowUnits
  let i := k % tm.rowUnits
  let va := a + BitVec.ofNat 64 (64 * k)
  match s.translate c tm.ctx va .engWrite with
  | .error f => workStop s k (.fault f)
  | .ok _ =>
    let s := if i = 0 then
        let s := s.onHead c t 2 fun x => { x with buf := s.rowImage c t row }
        if clr then s.rowZero c t row else s
      else s
    (s.engDst c t false va (((s.rowBuf c t).drop (64 * i)).take 64) 2 false).work k
/-- One unit of 64 bytes of row images read (spec/11 R268): with the last unit of a row its image is checked and replaces the row. -/
def State.restoreUnit (c t : Nat) (a : Dword) (row0 k : Nat) (s : State) : Work :=
  let tm := s.team c t
  let n := tm.rowUnits
  let va := a + BitVec.ofNat 64 (64 * (k / n * n))
  let g := s.engRead c tm.ctx (a + BitVec.ofNat 64 (64 * k)) 64 2
  match g.flt with
  | some f => workStop g.s k (.fault f)
  | none =>
    if g.bad.any id then workStop g.s k (.ill 0x05 va) else
    let im := (if k % n = 0 then [] else s.rowBuf c t) ++ g.bytes
    if k % n + 1 < n then workTo (g.s.onHead c t 2 fun x => { x with buf := im }) (k + 1)
    else if !imageOk tm.trunk.rowLen im then workStop g.s k (.ill 0x08 va)
    else workTo (g.s.rowRestore c t (row0 + k / n) im) (k + 1)
/-- One unit of 64 bytes of a tile image read: sixteen elements. -/
def State.restoreTile (c t tile : Nat) (a : Dword) (k : Nat) (s : State) : Work :=
  let g := s.engRead c (s.team c t).ctx (a + BitVec.ofNat 64 (64 * k)) 64 2
  match g.flt with
  | some f => workStop g.s k (.fault f)
  | none =>
    if g.bad.any id then workStop g.s k (.ill 0x05 a) else
    let x := g.s.tile c t tile
    let new : Tab Word := { cells := (List.range 16).map fun i => (16 * k + i, BitVec.ofNat 32 (leNat ((g.bytes.drop (4 * i)).take 4))) }
    workTo (g.s.setTile c t tile { valid := x.valid || k == 1023, el := x.el.over new }) (k + 1)
/-- TEVICT's work: all of it, or `lim` units of 64 bytes. -/
def State.tevictWork (c t : Nat) (lim : Option Nat) (s : State) (cmd : Cmd) : Option Work :=
  match cmd.instr with
  | .tevict _ x =>
    let a := wordAt cmd.ops 0
    let b := wordAt cmd.ops 1
    let tm := s.team c t
    some (if tm.imageBad x a b then workStop s cmd.progress (.ill 0x03 0)
      else if x.obj then
        let x0 := s.tile c t x.tile.toNat
        if !x0.valid then workStop s cmd.progress (.ill 0x04 0) else
        let im := x0.image
        (workTo s cmd.progress).run lim 1024 fun s k =>
          (s.engDst c t false (a + BitVec.ofNat 64 (64 * k)) ((im.drop (64 * k)).take 64) 2 false).work k
      else (workTo s cmd.progress).run lim ((imageRows b).2 * tm.rowUnits) fun s k => s.evictUnit c t x.clr a (imageRows b).1 k)
  | _ => none
/-- TEVICT_PERFORM (spec/11 R267). -/
def execTevictPerform (c t q : Nat) (s : State) : Answer := .next (s.perform c t q (State.tevictWork c t none))
/-- TRESTORE's work: all of it, or `lim` units of 64 bytes. -/
def State.trestoreWork (c t : Nat) (lim : Option Nat) (s : State) (cmd : Cmd) : Option Work :=
  match cmd.instr with
  | .trestore _ x =>
    let a := wordAt cmd.ops 0
    let b := wordAt cmd.ops 1
    let tm := s.team c t
    some (if tm.imageBad x a b then workStop s cmd.progress (.ill 0x03 0)
      else if x.obj then (workTo s cmd.progress).run lim 1024 fun s k => s.restoreTile c t x.tile.toNat a k
      else (workTo s cmd.progress).run lim ((imageRows b).2 * tm.rowUnits) fun s k => s.restoreUnit c t a (imageRows b).1 k)
  | _ => none
/-- TRESTORE_PERFORM (spec/11 R268, R249). -/
def execTrestorePerform (c t q : Nat) (s : State) : Answer := .next (s.perform c t q (State.trestoreWork c t none))

end Sys2Proof.Machine
end

