-- ==== Sys2Proof/Machine/Sched.lean ====
section
/-! DEFINITION. From a kick to a running team: submission queues, graphs, patches, installs, admission
(spec/14 R307 to R316, R324; spec/16 R354, R355). -/
namespace Sys2Proof.Machine

/-! Groves. -/

/-- Do the functions serve register writes: no start is in progress, and the recovery image has not failed (spec/16 R350)? -/
def State.up (s : State) : Bool := s.boot.start.isNone && !s.boot.dead

/-- Does stand `k` belong to grove `g` (spec/16 R353)? -/
def State.standIn (s : State) (k g : Nat) : Bool :=
  let v := s.pf.standgrv.get k 0
  v.getLsbD 6 && fld v 0 6 == g
/-- The stands of a grove. -/
def State.stands (s : State) (g : Nat) : List Nat := (List.range 64).filter fun k => s.standIn k g
/-- The cores of a grove, ascending. -/
def State.groveCores (s : State) (g : Nat) : List Nat := (s.stands g).flatMap fun k => (List.range 8).map (k * 8 + ·)
/-- Does a byte range lie in module HBM5? -/
def rangeInHbm (a n : Nat) : Bool := decide (a + n ≤ Config.hbmBytes)
/-- May the context be launched (spec/01 R19)? -/
def State.ctxOk (s : State) (c : Nat) : Bool :=
  let d := (s.ctx c).desc
  d.en && decide (6 ≤ d.fqlog2) && decide (d.fqlog2 ≤ 16) && inHbm d.root && decide (4096 ≤ d.fqbase) &&
    rangeInHbm d.fqbase (32 * 2 ^ d.fqlog2) && !(s.stands d.grove).isEmpty
/-- The ERR bit of a grove window (spec/01 R41). -/
def State.windowErr (s : State) (g : Nat) : State := s.onGrove g fun k => { k with win := { k.win with tiErr := true } }

/-! Resources (spec/14 R313, R314). -/

/-- The roles of a kernel; one that declares none has one role of one group (spec/05 R117). -/
def kernelRoles (k : Kernel) : List Role := if k.roles.isEmpty then [{ groups := 1, regs := 128, prio := 0 }] else k.roles
/-- Role number and role of each group, in ascending group number. -/
def groupRoles (k : Kernel) : List (Nat × Role) :=
  (List.range (kernelRoles k).length).flatMap fun r =>
    let x := (kernelRoles k).getD r { groups := 0, regs := 0, prio := 0 }
    List.replicate x.groups (r, x)
/-- The weight of a group of class `k`. -/
def State.classWeight (s : State) (k : Nat) : Nat := fld s.pf.ecw (8 * k) 8
/-- The scratchpad share of a core (spec/02 R49). -/
def State.spShare (s : State) (c : Nat) : Nat := s.pf.split.get (c / 8) 4 * 131072
/-- The energy budget of a core. -/
def State.budget (s : State) (c : Nat) : Nat := s.pf.ecb.get (c / 8) 256
/-- What one team takes, or what a core has, of each resource but the sequencer slot: lane registers, lanes, group slots,
scratchpad bytes, tiles, trunk elements, energy. -/
structure Demand where
  regs : Nat
  lanes : Nat
  groups : Nat
  sp : Nat
  tiles : Nat
  trunk : Nat
  energy : Nat
/-- The resources as a list. -/
def Demand.list (d : Demand) : List Nat := [d.regs, d.lanes, d.groups, d.sp, d.tiles, d.trunk, d.energy]
/-- Is a demand within what there is? -/
def Demand.fits (d e : Demand) : Bool := ((List.range 7).all fun k => decide (d.list.getD k 0 ≤ e.list.getD k 0))
/-- The demand of one team. -/
def State.demandOf (s : State) (k : Kernel) (spk tiles trk : Nat) : Demand :=
  let gs := groupRoles k
  { regs := gs.foldl (fun a r => a + k.width * r.2.regs) 0, lanes := gs.length * k.width, groups := gs.length,
    sp := spk * 4096, tiles := tiles, trunk := 2048 * trk, energy := gs.length * s.classWeight k.energy }
/-- An empty core's resources. -/
def State.emptyCore (s : State) (c : Nat) : Demand :=
  { regs := Config.laneRegs, lanes := Config.residentLanes, groups := Config.groupSlots, sp := s.spShare c, tiles := 4,
    trunk := 65536, energy := s.budget c }
/-- How many such teams an empty core holds. -/
def Demand.times (d e : Demand) : Nat :=
  (List.range 7).foldl (fun a k => if d.list.getD k 0 = 0 then a else min a (e.list.getD k 0 / d.list.getD k 0)) Config.teamSlots
/-- The resident groups of a core. -/
def Core.resident (c : Core) : List (Nat × Group) := c.groups.cells.filter fun g => !g.2.retired
/-- The weights of the resident groups of a core. -/
def State.energyUsed (s : State) (c : Nat) : Nat :=
  let k := s.core c
  k.resident.foldl (fun a g => a + s.classWeight ((k.teams.get g.2.team .none).kernel.energy)) 0
/-- What is free on a core. -/
def State.freeOn (s : State) (c : Nat) : Demand :=
  let k := s.core c
  let ts := k.teams.cells
  { regs := Config.laneRegs - k.regsUsed
    lanes := Config.residentLanes - (k.resident.foldl (fun a g => a + g.2.width) 0)
    groups := k.groups.frees Config.groupSlots
    sp := s.spShare c - (ts.foldl (fun a t => a + t.2.spSize) 0)
    tiles := 4 - (ts.foldl (fun a t => a + t.2.tiles.length) 0)
    trunk := 65536
    energy := s.budget c - s.energyUsed c }
/-- The lowest free block of the trunk store of `n` elements. -/
def Core.trunkBlock (c : Core) (n : Nat) : Option Nat :=
  ((List.range 32).map (2048 * ·)).find? fun b =>
    decide (b + n ≤ 65536) && c.teams.cells.all fun t => !overlaps b n t.2.trunk.base t.2.trunk.size
/-- The demand of one team of a grid. -/
def State.gridDemand (s : State) (g : Grid) : Demand := s.demandOf g.kernel g.spk g.tiles g.trk
/-- Does a team of the grid fit on core `c` now, the sum of the weights staying within BUDGET? A group out on eviction comes back before any new team
(spec/14 R318). -/
def State.teamFits (s : State) (g : Grid) (c : Nat) : Bool :=
  let k := s.core c
  k.evicted.isEmpty && decide (s.energyUsed c ≤ s.budget c) && (k.teams.free Config.teamSlots).isSome && (k.trunkBlock (2048 * g.trk)).isSome &&
    (s.gridDemand g).fits (s.freeOn c)

/-! Starting grids. -/

/-- The refusal code of spec/14 R311 for the descriptor of a launch of `total` teams: 1 CTXOFF, 2 BADENTRY, 3 NOTCODE, 4 NOFIT,
5 COOPFIT; 0 is none. The fields of a device-side launch have been judged before, `fields` being false (spec/14 R319, spec/12
R281). -/
def State.refusal (s : State) (ctx : Nat) (d : List Dword) (fields : Bool) (total : Nat) : Nat :=
  if !s.ctxOk ctx then 1
  else if fields && !s.descOk ctx d then 2
  else match s.kernelAt ctx (dEntry d) with
    | none => 3
    | some k =>
      if dLant d then 0 else
      let need := s.demandOf k (dSpk d) (dTiles d) (dTrk d)
      let per := (s.groveCores (s.ctx ctx).desc.grove).map fun c => need.times (s.emptyCore c)
      if per.all (· == 0) then 4
      else if dCoop d && decide (per.foldl (· + ·) 0 < total) then 5 else 0
/-- A grid that starts (spec/14 R310, R312). -/
def State.startGrid (s : State) (ctx : Nat) (src : GridSource) (pri : Nat) (d : List Dword) (addr nteams : Nat)
    (replay : Option ReplayList) : State :=
  let g : Grid :=
    { ctx := ctx, grove := (s.ctx ctx).desc.grove, src := src, pri := pri, kernel := (s.kernelAt ctx (dEntry d)).getD noKernel,
      descAddr := addr, nteams := nteams, tlan := dTlan d, args := dArgs d, rra := dRra d, fmt := dFmt d, spk := dSpk d,
      tiles := dTiles d, trk := dTrk d, coop := dCoop d, lant := dLant d, spill := dSpill d, replay := replay, admitted := 0,
      retired := 0, away := [], torn := false, clashed := [], syncPhase := 0, ending := false }
  { s with grids := s.grids.put s.nextGrid g, nextGrid := s.nextGrid + 1 }

/-! Submission queues (spec/14 R307 to R309). -/

/-- A queue of a grove. -/
def State.queue (s : State) (g n : Nat) : SubQueue := (s.grove g).queues.get n .reset
/-- A queue of a grove changed by `f`. -/
def State.onQueue (s : State) (g n : Nat) (f : SubQueue → SubQueue) : State :=
  s.onGrove g fun k => { k with queues := k.queues.put n (f (k.queues.get n .reset)) }
/-- IDLE. -/
def SubQueue.idle (q : SubQueue) : Bool := !q.en && q.graph.isNone && q.wait.isNone
/-- QCFG as a word. -/
def SubQueue.cfg (q : SubQueue) : Nat := cond q.en 1 0 + q.pri * 2 + q.log2n * 16 + q.ctx * 256
/-- A write of QKICK (spec/14 R307). -/
def State.kick (s : State) (g n : Nat) (tail : Word) : State :=
  let q := s.queue g n
  let ahead := (tail - q.done).toNat
  if 2 ^ q.log2n < ahead ∨ (q.en ∧ ahead < (q.tail - q.done).toNat) then s.windowErr g
  else s.onQueue g n fun q => { q with tail := tail }
/-- QKICK. -/
def execQkick (g n : Nat) (tail : Word) (s : State) : Answer := .next (if s.up then s.kick g n tail else s)
/-- A write of QCFG (spec/14 R307). -/
def State.writeQcfg (s : State) (g n : Nat) (v : Dword) : State :=
  let q := s.queue g n
  let en := v.getLsbD 0
  let ctx := fld v 8 12
  let lg := fld v 4 4
  if q.en then if en then s else s.onQueue g n fun q => { q with en := false }
  else if !q.idle && !(en && fld v 1 19 == q.cfg / 2) then s
  else if en && ((s.ctx ctx).desc.grove != g || lg == 0 || !(inHbm q.base.toNat || inHost q.base.toNat)) then s.windowErr g
  else s.onQueue g n fun q => { q with en := en, pri := fld v 1 3, log2n := lg, ctx := ctx }
/-- QCFG_WRITE. -/
def execQcfgWrite (g n : Nat) (v : Dword) (s : State) : Answer := .next (if s.up then s.writeQcfg g n v else s)
/-- HALT and ERR cleared. -/
def State.clearHalt (s : State) (g n : Nat) : State := s.onQueue g n fun q => { q with halt := false, err := 0 }
/-- QSTAT_HALT_CLEAR. -/
def execQstatHaltClear (g n : Nat) (s : State) : Answer := .next (if s.up then s.clearHalt g n else s)

/-- The started entry of a queue ends, and counts as below TAIL even where a kick has moved TAIL back to it; with a team torn down the queue halts with TEARDOWN (spec/14 R307, spec/15 R337). -/
def State.endEntry (s : State) (g n : Nat) (torn : Bool) : State :=
  let s := s.onQueue g n fun q =>
    { q with done := q.done + 1, tail := if q.tail = q.done then q.done + 1 else q.tail, graph := none, wait := none }
  if torn then (s.onQueue g n fun q => { q with halt := true, err := 6 }).signal g 1 else s
/-- An entry is refused: it ends, and the queue halts with its code (spec/14 R311). -/
def State.refuse (s : State) (g n code : Nat) : State :=
  ((s.endEntry g n false).onQueue g n fun q => { q with halt := true, err := BitVec.ofNat 8 code }).signal g 1
/-- May the front end start the next entry of a queue? -/
def SubQueue.mayStart (q : SubQueue) : Bool :=
  q.en && !q.halt && q.graph.isNone && q.wait.isNone && q.tail != q.done
/-- The words of the next entry of a queue. -/
def State.entryWords (s : State) (g n : Nat) : List Dword :=
  let q := s.queue g n
  dwordsOfBytes 8 (s.mem.read (q.base.toNat + 64 * (q.done.toNat % 2 ^ q.log2n)) 64)
/-- Does an entry keep spec/14 R308? -/
def entryOk (w : List Dword) : Bool :=
  let x (k : Nat) : Dword := wordAt w k
  let kind := fld (x 0) 0 4
  decide (kind ≤ 4) && fld (x 0) 12 52 == 0 && fld (x 2) 56 8 == 0 && fld (x 3) 56 8 == 0 && fld (x 4) 16 48 == 0 &&
    (kind == 3 || kind == 4 || (fld (x 0) 4 8 == 0 && x 1 == 0)) &&
    (kind == 1 || (x 2 == 0 && x 3 == 0 && x 4 == 0)) &&
    (if kind = 2 then fld (x 5) 56 8 == 0 && fld (x 6) 56 8 == 0 && fld (x 7) 56 8 == 0 && fld (x 6) 0 16 == 0
      else x 5 == 0 && x 6 == 0 && x 7 == 0)
/-- The next entry of a queue starts, if its KIND is `kind`: refused where it breaks spec/14 R308, else `body`. -/
def State.entry (s : State) (g n kind : Nat) (body : State → List Dword → State) : State :=
  if !(s.queue g n).mayStart then s else
  let w := s.entryWords g n
  let k := fld (wordAt w 0) 0 4
  if (if k ≤ 4 then k else 0) != kind then s
  else if kind == 1 && !s.ctxOk (s.queue g n).ctx then s.refuse g n 1
  else if !entryOk w then s.refuse g n 2
  else body s w
/-- ENTRY_NOP (spec/14 R309); an entry of a reserved KIND is refused as BADENTRY. -/
def execEntryNop (g n : Nat) (s : State) : Answer := .next (s.entry g n 0 fun s _ => s.endEntry g n false)
/-- ENTRY_SIGNAL (spec/14 R309): the setting is a release of the front end at system scope. -/
def execEntrySignal (g n : Nat) (s : State) : Answer :=
  .next (s.entry g n 3 fun s w => ((s.releaseAll mgmtNode).raiseEvent g (fld (wordAt w 0) 4 8) (wordAt w 1)).endEntry g n false)
/-- ENTRY_WAIT (spec/14 R309): the entry starts, and ends once its counter has reached EVVAL. -/
def execEntryWait (g n : Nat) (s : State) : Answer :=
  .next (
    let s := s.entry g n 4 fun s w => s.onQueue g n fun q => { q with wait := some (fld (wordAt w 0) 4 8, wordAt w 1) }
    match (s.queue g n).wait with
    | some (ev, v) => if v.toNat ≤ ((s.grove g).events.get ev 0).toNat then s.endEntry g n false else s
    | none => s)

/-! Graphs and patches (spec/14 R310, R311). -/

/-- A graph object read: its descriptors, with their addresses, and its edges; nothing where it breaks spec/14 R310. -/
def State.readGraph (s : State) (ctx : Nat) (va : Dword) : Except Flt (Option (List (List Dword) × List (Nat × Nat)) × State) := do
  if va.toNat % 64 != 0 then return (none, s)
  let (hb, s) ← s.frontLoad ctx va 64
  let h := dwordsOfBytes 8 hb
  let nn := fld (wordAt h 0) 0 13
  let ne := fld (wordAt h 0) 16 16
  if nn = 0 || decide (4096 < nn) || fld (wordAt h 0) 13 3 != 0 || fld (wordAt h 0) 32 32 != 0 || (h.drop 1).any (· != 0) then
    return (none, s)
  let (db, s) ← s.frontLoad ctx (va + 64) (64 * nn)
  let (eb, s) ← s.frontLoad ctx (va + BitVec.ofNat 64 (64 + 64 * nn)) (4 * ne)
  let ds := (List.range nn).map fun k => dwordsOfBytes 8 ((db.drop (64 * k)).take 64)
  let es := (List.range ne).map fun k => (leNat ((eb.drop (4 * k)).take 2), leNat ((eb.drop (4 * k + 2)).take 2))
  if es.all fun e => decide (e.1 < e.2) && decide (e.2 < nn) then pure (some (ds, es), s) else pure (none, s)
/-- One patch entry checked and applied. -/
def State.patchOne (s : State) (ctx : Nat) (va : Dword) (ds : List (List Dword)) : Except Flt (Option State) := do
  let (b, s) ← s.frontLoad ctx va 16
  let w := dwordsOfBytes 2 b
  let node := fld (wordAt w 0) 0 12
  let off := fld (wordAt w 0) 16 16
  let size := 2 ^ fld (wordAt w 0) 32 2
  if fld (wordAt w 0) 12 4 != 0 || fld (wordAt w 0) 34 30 != 0 || decide (ds.length ≤ node) || off % size != 0 then return none
  pure (some (← s.frontStore ctx (BitVec.ofNat 64 (dArgs (ds.getD node []) + off)) (natLe size (wordAt w 1).toNat)))
/-- The patch table applied in order, up to the first bad entry: the state, and whether all were good. -/
def State.patchAll (s : State) (ctx : Nat) (va : Dword) (n : Nat) (ds : List (List Dword)) : State × Bool :=
  (List.range n).foldl (fun a k =>
    if !a.2 then a else match a.1.patchOne ctx (va + BitVec.ofNat 64 (16 * k)) ds with
      | .ok (some s) => (s, true)
      | _ => (a.1, false)) (s, true)
/-- A GRAPH entry checked and patched; its nodes are then ready to start, or it is refused. -/
def State.graphEntry (s : State) (g n : Nat) (w : List Dword) : State :=
  let ctx := (s.queue g n).ctx
  let va : Dword := BitVec.ofNat 64 (fld (wordAt w 2) 0 56)
  let np := fld (wordAt w 4) 0 16
  let pt := fld (wordAt w 3) 0 56
  match s.readGraph ctx va with
  | .error _ => s.refuse g n 2
  | .ok (none, s) => s.refuse g n 2
  | .ok (some (ds, es), s) =>
    if np != 0 && pt % 16 != 0 then s.refuse g n 2 else
    let (s, good) := s.patchAll ctx (BitVec.ofNat 64 pt) np ds
    if !good then s.refuse g n 2 else
    match (ds.map fun d => s.refusal ctx d true (dTeams d)).find? fun c => c != 0 with
    | some c => s.refuse g n c
    | none => s.onQueue g n fun q =>
        { q with graph := some { base := va.toNat, descs := ds, edges := es, grids := .empty, ended := [], torn := false } }
/-- ENTRY_GRAPH. The recovery image accepts none (spec/16 R350): it stays in the ring. -/
def execEntryGraph (g n : Nat) (s : State) : Answer :=
  .next (if s.boot.attempt = 4 then s else s.entry g n 1 fun s w => s.graphEntry g n w)
/-- GRAPH_NODE_START: a node starts once every node it depends on has ended, and no team of the graph was torn down
(spec/14 R310, spec/15 R337). -/
def execGraphNodeStart (g n node : Nat) (s : State) : Answer :=
  .next (match (s.queue g n).graph with
    | none => s
    | some r =>
      if r.torn || (r.grids.cells.any fun x => (s.grid x.2).torn) || r.grids.has node || decide (r.descs.length ≤ node) ||
          (r.edges.any fun e => e.2 == node && !r.ended.contains e.1) then s else
      let d := r.descs.getD node []
      let gid := s.nextGrid
      (s.startGrid (s.queue g n).ctx (.node g n node) (s.queue g n).pri d (r.base + 64 + 64 * node) (dTeams d) none).onQueue g n
        fun q => { q with graph := some { r with grids := r.grids.put node gid } })

/-! Installing code (spec/16 R354, R355). -/

/-- The leaves of a code region of `n` bytes at `va`: none where a page is not execute-only. -/
def State.codeLeaves (s : State) (ctx : Nat) (va n : Nat) : Option (List Xlat) :=
  (pieces 65536 va n).foldl (fun acc p => match acc with
    | none => none
    | some l => if 2 ^ 56 ≤ p.1 then none else match s.walk p.1 3 (s.descOf mgmtNode ctx).root with
      | .error _ => none
      | .ok x => if x.leaf.getLsbD 4 && !x.leaf.getLsbD 2 && !x.leaf.getLsbD 3 then some (l ++ [x]) else none) (some [])
/-- Installed code written through physical addresses, on a mirror page to every replica, ACC and DTY set in each leaf (spec/01 R29, R33,
spec/16 R354). -/
def State.writeCode (s : State) (va : Nat) (code : List Byte) (ls : List Xlat) : State :=
  (List.range ls.length).foldl (fun s k => match ls[k]?, (pieces 65536 va code.length)[k]? with
    | some x, some p =>
      let s := s.writeSector x.pte (natLe 8 (s.home64 x.pte ||| 0xC00).toNat) 1
      let bs := (code.drop (p.1 - va)).take p.2
      if x.mir then (pieces 64 x.pa bs.length).foldl (fun s q =>
        s.mirrorWrite (nodeDie mgmtNode) q.1 ((bs.drop (q.1 - x.pa)).take q.2) 1 false none) s
      else s.writeHome x.pa bs 1
    | _, _ => s) s
/-- The instruction caches of a grove invalidated. -/
def State.dropCode (s : State) (g : Nat) : State :=
  ((s.groveCores g) ++ (s.stands g).map (512 + ·)).foldl (fun s n => s.onCaches n fun m => { m with code := .empty }) s
/-- The completion record written; a fault of its write is nowhere reported. -/
def State.installReport (s : State) (ctx : Nat) (rec_ : Dword) (w : List Dword) : State :=
  match s.frontStore ctx rec_ (bytesOfDwords w) with
  | .ok s => s
  | .error _ => s
/-- The verdict on the object of `size` bytes at OBJ, under the code key of its grove: one that cannot be read is malformed. -/
def State.objectVerdict (s : State) (ctx : Nat) (w : List Dword) (size : Nat) : Translation × State :=
  match s.frontLoad ctx (BitVec.ofNat 64 (fld (wordAt w 5) 0 56)) size with
  | .error _ => (.rejected 4 0 0, s)
  | .ok (bs, s) => (translateObject (s.grove (s.ctx ctx).desc.grove).codeKey ctx (fld (wordAt w 6) 0 56) (Config.objectOf bs), s)
/-- An INSTALL entry's verdict carried out, and the report made (spec/16 R354, R355). -/
def State.installEntry (s : State) (g n : Nat) (w : List Dword) (r : Translation) : State :=
  let ctx := (s.queue g n).ctx
  let va := fld (wordAt w 6) 0 56
  let rec_ : Dword := BitVec.ofNat 64 (fld (wordAt w 7) 0 56)
  let s := match r with
    | .rejected status reloc value => s.installReport ctx rec_ [packD [(status, 0), (reloc % 2 ^ 32, 32)], 0, value, 0]
    | .code code ks =>
      match s.codeLeaves ctx va code.length with
      | none => s.installReport ctx rec_ [6, 0, 0, 0]
      | some ls =>
        let s := (s.writeCode va code ls).settleMirror.dropCode (s.ctx ctx).desc.grove
        let rest := s.kernels.filter fun (k : Kernel) => !(ks.any fun x => x.ctx == k.ctx && x.entry == k.entry)
        let s := { s with kernels := ks ++ rest }
        s.installReport ctx rec_ [0, packD [(code.length % 2 ^ 32, 0), (ks.length % 2 ^ 32, 32)], 0, 0]
  s.endEntry g n false
/-- ENTRY_INSTALL: the object of `size` bytes at OBJ is read, translated and written, and the report made, in one step
(notes/assumptions/10.md, 65.md). -/
def execEntryInstall (g n : Nat) (size : Nat) (s : State) : Answer :=
  .next (s.entry g n 2 fun s w =>
    let r := s.objectVerdict (s.queue g n).ctx w size
    r.2.installEntry g n w r.1)

/-! Device-side launches (spec/14 R319, spec/12 R281). -/

/-- DEVICE_LAUNCH_START: the oldest entry of a grove's device-side queue comes to start. Its grid starts, or an error record
tells that it was refused, and for a REPLAY 0x100 + the code is stored. -/
def execDeviceLaunchStart (g : Nat) (s : State) : Answer :=
  .next (match (s.grove g).devq with
    | [] => s
    | e :: rest =>
      let s := s.onGrove g fun k => { k with devq := rest }
      let code := s.refusal e.ctx e.desc false (teamsLaunched e.nteams e.replay)
      if code = 0 then s.startGrid e.ctx (.device g) e.pri e.desc e.addr e.nteams e.replay else
      let w2 : Dword := BitVec.ofNat 64 (e.ctx + g * 2 ^ 12 + 0x14 * 2 ^ 40 + 2 ^ 63)
      let s := s.report mgmtNode e.ctx [[0, BitVec.ofNat 64 code, w2]] none none
      match e.replay with
      | none => s
      | some r =>
        let s := { s with nextGrid := s.nextGrid + 1 }
        s.lateWrite { id := s.deferId, ctx := e.ctx, grid := s.nextGrid - 1, core := 0, slot := 0, lanes := 0, va := r.dest
                      bytes := natLe 8 (0x100 + code), keep := false, parkSeq := 0 })

/-! Admission (spec/14 R313, R315, R316; spec/05 R116, R122; spec/02 R57; spec/11 R247, R257). -/

/-- The lanes of group `n` that a grid launches in team `num` (spec/05 R116, spec/12 R281). -/
def Grid.lanesOf (g : Grid) (num n : Nat) : Dword :=
  match g.replay with
  | .none => if n + 1 = kernelGroups g.kernel ∧ g.tlan ≠ 0 then Dword.low (min g.tlan g.kernel.width) else Dword.low g.kernel.width
  | .some r => r.recs.foldl (fun m x =>
      if fld (wordAt x 1) 0 32 = num ∧ fld (wordAt x 1) 32 5 = n then m ||| Dword.bit (fld (wordAt x 1) 37 6) else m) 0
/-- List index of each lane's record, for a grid that REPLAY launched. -/
def Grid.indicesOf (g : Grid) (num n : Nat) : Tab Nat :=
  match g.replay with
  | .none => .empty
  | .some r => (List.range r.recs.length).foldl (fun t k =>
      let x := r.recs.getD k []
      if fld (wordAt x 1) 0 32 = num ∧ fld (wordAt x 1) 32 5 = n then t.put (fld (wordAt x 1) 37 6) k else t) .empty
/-- A group as admission makes it: entry 0 of its path table holds every launched lane. -/
def Grid.newGroup (g : Grid) (t num n role regs stamp : Nat) : Group :=
  let m := g.lanesOf num n
  { Group.none with
    team := t, number := n, role := role, width := g.kernel.width, launched := m, alloc := regs - 16
    paths := Tab.empty.put 0 { Path.none with th := Thread.startAt (BitVec.ofNat 64 g.kernel.entry) g.fmt, mask := m }
    replayIdx := g.indicesOf num n, admitted := stamp }
/-- A core's groups with those of a new team added at the lowest free slots: the table and the slots taken. -/
def addGroups (ts : Tab Group) (gs : List Group) : Tab Group × List Nat :=
  gs.foldl (fun a g => match a.1.free Config.groupSlots with
    | some k => (a.1.put k g, a.2 ++ [k])
    | none => a) (ts, [])
/-- Bytes of scratchpad addresses that belong to team slot `t`: the slot's own window of 1 MiB of SRAM addresses. -/
def inSpWindow (t a : Nat) : Bool := a / 2 ^ 20 == t
/-- The next team of a grid placed on core `c`, all resources at once: registers, scratchpad, tiles and trunk rows read as
zero, every line is present, and its streams start after an acquire at system scope. -/
def State.placeTeam (s : State) (gid c : Nat) : State :=
  let g := s.grid gid
  let q := s.core c
  let num := g.teamNumber g.admitted
  match q.teams.free Config.teamSlots, q.trunkBlock (2048 * g.trk) with
  | some t, some base =>
    let used := q.teams.cells.flatMap fun x => x.2.tiles
    let tiles := ((List.range 4).filter fun k => !used.contains k).take g.tiles
    let stamp := 1 + q.groups.cells.foldl (fun a x => max a x.2.admitted) 0
    let rs := groupRoles g.kernel
    let gs := ((List.range rs.length).map fun n =>
      let r := rs.getD n (0, { groups := 0, regs := 16, prio := 0 })
      g.newGroup t num n r.1 r.2.regs stamp).filter fun x => x.launched != 0
    let placed := addGroups q.groups gs
    let tm : Team :=
      { Team.none with
        grid := gid, ctx := g.ctx, number := num, kernel := g.kernel, coop := g.coop, slots := placed.2, spBase := t * 2 ^ 20
        spSize := g.spk * 4096, tiles := tiles
        trunk := { TrunkCfg.none with base := base, size := 2048 * g.trk, members := [num] }
        seq := Thread.startAt (BitVec.ofNat 64 g.kernel.addrEntry) g.fmt }
    let s := s.onCore c fun k =>
      { k with
        groups := placed.1, teams := k.teams.put t tm
        sp := k.sp.filter fun x => !inSpWindow t x.1, spPoison := k.spPoison.filter fun x => !inSpWindow t (x * 64)
        tiles := tiles.foldl (fun ts n => ts.put n .zero) k.tiles
        mc := if k.lastCtx = some g.ctx then k.mc else k.mc.noLines
        predictor := if k.lastCtx = some g.ctx then k.predictor else []
        lastCtx := some g.ctx }
    let s := (s.trunkClear c t id).acquire c 6
    let s := (placed.2 ++ [32 + t]).foldl (fun s k => s.freshStream c k) s
    { s with grids := s.grids.put gid { g with admitted := g.admitted + 1 } }
  | _, _ => s
/-- A program of a lantern grid placed on lantern core `l`, which holds programs of one context at a time
(spec/14 R324). -/
def State.placeProg (s : State) (gid l : Nat) : State :=
  let g := s.grid gid
  match (s.lantern l).progs.free Config.lanternSlots with
  | none => s
  | some p =>
    let x : Prog := { Prog.none with
      ctx := g.ctx, grid := gid, number := g.admitted, th := Thread.startAt (BitVec.ofNat 64 g.kernel.entry) g.fmt }
    let s := (s.onLantern l fun k => { k with progs := k.progs.put p x }).acquire (512 + l) 6
    let s := s.freshStream (512 + l) (40 + p)
    { s with grids := s.grids.put gid { g with admitted := g.admitted + 1 } }
/-- Does lantern core `l` have room for a program of the context? -/
def State.lanternFits (s : State) (ctx l : Nat) : Bool :=
  ((s.lantern l).progs.free Config.lanternSlots).isSome && (s.lantern l).progs.cells.all fun p => p.2.ctx == ctx
/-- Every team of a cooperative grid placed, each on the lowest core of the grove on which it fits: nothing where they do not
all fit at once (spec/14 R315). -/
def State.placeAll (gid : Nat) (cores : List Nat) : Nat → State → Option State
  | 0, s => some s
  | n + 1, s => match cores.find? fun c => s.teamFits (s.grid gid) c with
    | none => none
    | some c => placeAll gid cores n (s.placeTeam gid c)
/-- A cooperative grid as it is admitted whole; a grove holds at most 4096 teams. -/
def State.admitWhole (s : State) (gid : Nat) : Option State :=
  let g := s.grid gid
  if 4096 < g.total then none else State.placeAll gid (s.groveCores g.grove) g.total s
/-- Has the grid teams that are ready for admission? -/
def Grid.pending (g : Grid) : Bool := !g.torn && decide (g.admitted < g.total)
/-- A grid's queue in the round of spec/14 R309: the device-side queue stands after the 64 submission queues. -/
def Grid.queueNo (g : Grid) : Nat := match g.src with
  | .node _ q _ => q
  | .device _ => 64
/-- The place of a grid in its grove's order of admission: priority, then the round after the queue served last, then age. -/
def Grid.place (g : Grid) (served : Nat) : Nat := (7 - g.pri) * 65 + (g.queueNo + 64 - served) % 65
/-- Does grid `a` stand before grid `b` in the order of their grove? -/
def State.standsBefore (s : State) (a b : Nat) : Bool :=
  let sv (g : Grid) : Nat := (s.grove (s.grid b).grove).served.get g.pri 64
  let x := (s.grid a).place (sv (s.grid a))
  let y := (s.grid b).place (sv (s.grid b))
  decide (x < y) || (x == y && decide (a < b))
/-- The pending grids of a grove that are not lantern grids. -/
def State.pendingGrids (s : State) (g : Nat) : List Nat :=
  (s.grids.cells.filter fun x => x.2.grove == g && x.2.pending && !x.2.lant).map (·.1)
/-- Is a lantern grid held from admission on lantern core `l`: by one before it that can be served there (spec/14 R309)? -/
def State.lanternHeld (s : State) (gid l : Nat) : Bool :=
  s.grids.cells.any fun x => x.1 != gid && x.2.lant && x.2.pending && x.2.grove == (s.grid gid).grove &&
    s.standsBefore x.1 gid && s.lanternFits x.2.ctx l
/-- Is a grid held from admission on core `c`: by a cooperative grid that stands first and does not fit, or by one before
it that can be served (spec/14 R309, R315)? -/
def State.heldBack (s : State) (gid c : Nat) : Bool :=
  let others := (s.pendingGrids (s.grid gid).grove).filter fun a => a != gid
  let ahead := others.filter fun a => s.standsBefore a gid
  (ahead.any fun a => (s.grid a).coop && others.all fun b => b == a || s.standsBefore a b) ||
    ahead.any fun a => if (s.grid a).coop then (s.admitWhole a).isSome else s.teamFits (s.grid a) c
/-- Is a cooperative grid held from admission: on any core that a team of it takes in `s'`, by a grid before it (spec/14 R309, R315)? -/
def State.coopHeld (s s' : State) (gid : Nat) : Bool :=
  (s.groveCores (s.grid gid).grove).any fun c => ((s'.core c).teams.cells.any fun t => t.2.grid == gid) && s.heldBack gid c
/-- TEAM_ADMISSION: the next team of a grid is placed on core `c`, or for a lantern grid the next program on lantern core `c`;
a cooperative grid is admitted whole. -/
def execTeamAdmission (gid c : Nat) (s : State) : Answer :=
  .next (
    let g := s.grid gid
    if !s.grids.has gid || !g.pending then s
    else
    let serve (s : State) : State := s.onGrove g.grove fun k => { k with served := k.served.put g.pri g.queueNo }
    if g.lant then
      if (s.stands g.grove).contains c && s.lanternFits g.ctx c && !s.lanternHeld gid c then serve (s.placeProg gid c) else s
    else if !(s.groveCores g.grove).contains c then s
    else
      if g.coop then match s.admitWhole gid with
        | some s' => if s.coopHeld s' gid then s else serve s'
        | none => s
      else if !s.heldBack gid c && s.teamFits g c then serve (s.placeTeam gid c) else s)

end Sys2Proof.Machine
end

