-- ==== Sys2Proof/Machine/Hardware.lean ====
section
/-! DEFINITION. What the memory system does by itself: the home hash, lines leaving their slices, scrubbing, errors of on-die
storage, mirror writes, the SRAM split (spec/02 R49, R50, R60, R64, R68, R78 to R81; spec/04 R104). -/
namespace Sys2Proof.Machine

/-- L2_WRITE_BACK (spec/02 R68). -/
def execL2WriteBack (line : Nat) (s : State) : Answer := .next (s.writeBack line)

/-- A counter of HBMERR counts one more. -/
def countOne (t : Tab Word) (k : Nat) : Tab Word := t.put k (t.get k 0 + 1)
/-- Does a line's slice hold a sector of it? -/
def State.l2Holds (s : State) (sec : Nat) : Bool :=
  match s.l2.find (sec / 4) with
  | some l => l.z || l.vs.getLsbD (sec % 4)
  | none => false
/-- A sector marked poisoned in HBM, and counted; where its slice does not hold it, it reads as poisoned. -/
def State.markPoisoned (s : State) (sec : Nat) : State :=
  let s' : State := { s with
    hbmPoison := addNum sec s.hbmPoison
    pf := { s.pf with hbmUncorr := countOne s.pf.hbmUncorr (stackOf (64 * sec)) } }
  if s.l2Holds sec then s' else s'.poisonHome sec
/-- PATROL_SCRUB (spec/02 R78): a sector read by the scrub is clean, corrected in place and counted, or marked poisoned. -/
def execPatrolScrub (sector : Nat) (found : ScrubFinding) (s : State) : Answer :=
  .next (if !inHbm (64 * sector) then s else match found with
    | .clean => s
    | .corrected =>
      { s with pf := { s.pf with hbmCorr := countOne s.pf.hbmCorr (stackOf (64 * sector)) } }
    | .uncorrectable => s.markPoisoned sector)

/-- A line whose tag has failed: its dirty sectors are written to HBM as poisoned. -/
def State.dropTag (s : State) (line : Nat) : State :=
  match s.l2.find line with
  | none => s
  | some l =>
    let ks := (List.range 4).filter l.dirty
    let s := s.writeBack line
    ks.foldl (fun s k => { s with hbmPoison := addNum (4 * line + k) s.hbmPoison, poison := addNum (4 * line + k) s.poison }) s
/-- MACHINE-CHECK: the team is torn down; CMD is the low half of the frame that its trap would have made (spec/15 R326, R335). -/
def State.machineCheck (s : State) (c t : Nat) : State :=
  if (s.core c).teams.has t && !(s.team c t).torn then s.tearTeam (.seq c t) 0x12 (1 + 0x3F * 256) else s
/-- SRAM_UNCORRECTABLE_ERROR (spec/02 R79). A clean L2 sector is filled again from HBM. -/
def execSramUncorrectableError (at_ : SramPlace) (s : State) : Answer :=
  .next (match at_ with
    | .l2Sector sec => match s.l2.find (sec / 4) with
      | some l => if l.dirty (sec % 4) then s.poisonHome sec else s.refetch sec
      | none => s
    | .l2Tag line => s.dropTag line
    | .scratchpad c off => s.onCore c fun k => { k with spPoison := addNum (off / 64) k.spPoison }
    | .teamStore c t => s.machineCheck c t)
/-- CACHE_PARITY_ERROR (spec/02 R60): the line is no longer held. -/
def execCacheParityError (at_ : CachePlace) (s : State) : Answer :=
  .next (match at_ with
    | .l1 c line => s.onCaches (c % 512) fun m => { m with l1 := m.l1.drop line }
    | .code c line => s.onCaches (c % 512) fun m => { m with code := m.code.drop line }
    | .lanternData l line => s.onCaches (512 + l % 64) fun m => { m with l1 := m.l1.drop line }
    | .lanternCode l line => s.onCaches (512 + l % 64) fun m => { m with code := m.code.drop line })
/-- MIRROR_WRITE_APPLY (spec/04 R104). -/
def execMirrorWriteApply (die idx : Nat) (s : State) : Answer := .next (s.mirrorArrive (die % 8) idx)

/-- HELD of a stand: is a team resident on a core of it (spec/02 R49)? -/
def State.standHeld (s : State) (k : Nat) : Bool := (List.range 8).any fun i => !(s.core (8 * k + i)).teams.cells.isEmpty
/-- SPLIT of a stand. -/
def State.splitOf (s : State) (k : Nat) : Nat := s.pf.split.get k 4
/-- A write of SPLITCFG: ignored with SPLIT = 0 or while HELD; a new value empties the L1 and zeroes the SRAM of the stand's
cores. -/
def State.writeSplit (s : State) (k : Nat) (v : Dword) : State :=
  let n := fld v 0 3
  if n = 0 || s.standHeld k || n = s.splitOf k then s else
  let s := { s with pf := { s.pf with split := s.pf.split.put k n } }
  (List.range 8).foldl (fun s i => s.onCore (8 * k + i) fun q =>
    { q with sp := [], spPoison := [], mc := q.mc.noLines }) s
/-- SPLITCFG_WRITE (spec/02 R49, R50). -/
def execSplitcfgWrite (stand : Nat) (v : Dword) (s : State) : Answer := .next (if s.up then s.writeSplit (stand % 64) v else s)

end Sys2Proof.Machine
end

