-- ==== Sys2Proof/Machine/Boot.lean ====
section
/-! DEFINITION. Starting the module: cold and warm starts, attempts, images, the wipe, flash and lifecycle (spec/16 R349 to R351,
spec/02 R81). -/
namespace Sys2Proof.Machine

/-- A wipe of the module (spec/02 R81): every on-core store and every cache is empty, and every byte of module HBM5 is zero. -/
def State.wipe (s : State) : State :=
  { s with
    mem := s.mem.filter fun c => !inHbm c.1, hbm := [], l2 := .empty, poison := s.poison.filter fun k => !inHbm (64 * k)
    hbmPoison := [], walks := .empty, contribs := [], mirror := .reset, cores := .empty, lanterns := .empty }
/-- The fused digest against which the key of an image is checked (spec/16 R349). -/
def Boot.key (b : Boot) : BitVec 256 := if b.lcstate = 0 then b.mfgKey else b.ownerKey
/-- Does an image verify (spec/16 R349)? 0 it does, 1 its signature fails, 2 its VERSION is below the fused minimum. -/
def Boot.verify (b : Boot) (i : FlashImage) : BitVec 2 :=
  if !i.intact || i.key != b.key then 1 else if i.version < b.minVersion then 2 else 0
/-- The image in a slot of the flash: 0 A, 1 B, 2 recovery. -/
def Boot.slot (b : Boot) (k : BitVec 2) : FlashImage := b.slots.get k.toNat shippedImage
/-- Step 1 of a start (spec/16 R350): ATTEMPT counts it and an image is selected; after three attempts it is recovery. ATTEMPT,
PRIMARY, FAIL, the flash and the fuses stay; FLASHSTAT is as after reset. -/
def Boot.begin_ (b : Boot) (warm : Bool) : Boot :=
  let slot : BitVec 2 := if b.primary != b.swap then 1 else 0
  let img : BitVec 2 := if b.attempt < 3 then slot else 2
  { b with
    attempt := if b.attempt < 3 then b.attempt + 1 else 4, image := img, swap := false, dead := false
    start := some { warm := warm, image := some img }, flashBusy := false, flashSlot := 0, flashResult := 0 }
/-- The peer links as a start leaves them: a warm start keeps those that are up (spec/16 R350, R353). -/
def keepPeers (warm hard : Bool) (t : Tab Peer) : Tab Peer :=
  { cells := t.cells.map fun p =>
      let base := if warm && p.2.up then p.2 else Peer.reset
      (p.1, { base with refused := if hard then 0 else p.2.refused }) }
/-- A start begins: nothing runs, and every register is at its reset value but for what the flash, the links and the counters of
HBMERR and PEERSTAT keep (spec/16 R350, R353). `hard` is a power-on or a fundamental reset, which clear those counters. -/
def State.beginStart (s : State) (warm hard : Bool) : State :=
  { State.reset with
    mem := s.mem, hbm := s.hbm, l2 := s.l2, poison := s.poison, hbmPoison := s.hbmPoison
    pf := { PfRegs.reset with
      hbmCorr := if hard then .empty else s.pf.hbmCorr, hbmUncorr := if hard then .empty else s.pf.hbmUncorr
      peers := keepPeers warm hard s.pf.peers, links := if warm then s.pf.links else .empty }
    boot := s.boot.begin_ warm, trigOut := s.trigOut, hostData := s.hostData, hostBad := s.hostBad, agenda := s.agenda
    freeIdx := s.freeIdx }
/-- An attempt fails: a new cold start follows at once, or, where recovery ran, none (spec/16 R350). -/
def State.failStart (s : State) : State :=
  if s.boot.image = 2 then { s with boot := { s.boot with fail := true, dead := true, start := none } }
  else s.beginStart false false
/-- A host link trained: down, held down at a lower rate, or up at a rate, a width and with or without IDE, as the other end
has it (spec/16 R343, notes/assumptions/10.md). -/
def trainedLink (v : Nat) : LinkStat :=
  if v % 4 = 0 then { LinkStat.reset with held := v / 4 % 2 == 1 }
  else { rate := if v / 4 % 2 = 0 then 1 else 2, width := BitVec.ofNat 2 (v / 8 % 3), held := false, ide := v / 32 % 2 == 1 }
/-- The host links that are down are trained, with the outcomes that `v` gives, six bits for each link. -/
def State.trainLinks (s : State) (v : Nat) : State :=
  [0, 1].foldl (fun s l =>
    if (s.pf.links.get l .reset).rate != 0 then s else
    { s with pf := { s.pf with links := s.pf.links.put l (trainedLink (v / 64 ^ l)) } }) s
/-- BOOTOK (spec/16 R350, R351): the image named becomes primary, and ATTEMPT is 0. -/
def Boot.ok (b : Boot) (img : BitVec 2) : Boot := { b with primary := img == 1, attempt := 0 }
/-- A start reaches its last steps: links trained, the wipe, and BOOTOK of an A or B image. -/
def State.finishStart (s : State) (links : Nat) : State :=
  let s := (s.trainLinks links).wipe
  let b := { s.boot with start := none }
  { s with boot := if b.image = 2 then b else b.ok b.image }
/-- POWER_ON. -/
def execPowerOn (s : State) : Answer := .next (s.beginStart false true)
/-- FUNDAMENTAL_RESET. -/
def execFundamentalReset (s : State) : Answer := .next (s.beginStart false true)
/-- BOOT_ATTEMPT: the running start does its steps; `links` is what the host links train to, and `trained` whether HBM5 trains
(notes/assumptions/10.md). -/
def execBootAttempt (links : Nat) (trained : Bool) (s : State) : Answer :=
  .next (if s.boot.start.isNone then s
    else if s.boot.verify (s.boot.slot s.boot.image) == 0 && trained then s.finishStart links else s.failStart)
/-- BOOT_TIMEOUT. -/
def execBootTimeout (s : State) : Answer := .next (if s.boot.start.isNone then s else s.failStart)
/-- A write of BOOTCMD.WARM; one in a running start abandons it. -/
def State.startWarm (s : State) : State := if s.boot.dead then s else s.beginStart true false
/-- BOOTCMD_WARM. -/
def execBootcmdWarm (s : State) : Answer := .next s.startWarm
/-- A write of BOOTCMD.SWAP. -/
def State.swapNext (s : State) : State := if !s.boot.dead then { s with boot := { s.boot with swap := true } } else s
/-- BOOTCMD_SWAP. -/
def execBootcmdSwap (s : State) : Answer := .next s.swapNext

/-- A write of FLASHCMD: refused while BUSY, for the slot of the running image, and for a reserved slot; otherwise the image at
SRC is verified and, if it passes, written, which FLASH_WRITE_COMPLETE ends. -/
def State.flash (s : State) (slot : BitVec 2) (src : BitVec 46) : State :=
  if !s.up then s
  else if s.boot.flashBusy || slot == s.boot.image || decide (2 ≤ slot.toNat) then { s with boot := { s.boot with flashResult := 3 } }
  else { s with boot := { s.boot with flashBusy := true, flashSlot := slot, flashSrc := src } }
/-- FLASHCMD. -/
def execFlashcmd (slot : BitVec 2) (src : BitVec 46) (s : State) : Answer := .next (s.flash slot src)
/-- FLASH_WRITE_COMPLETE of the image of `size` bytes at SRC: one that does not verify leaves the slot unchanged. Under the recovery
image a verified image becomes primary, FAIL is cleared, and a cold start follows. Where an image ends is not in the spec
(notes/assumptions/10.md). -/
def execFlashWriteComplete (size : Nat) (s : State) : Answer :=
  .next (if !s.boot.flashBusy then s else
    let new := Config.imageOf (s.mem.read (64 * s.boot.flashSrc.toNat) size)
    let result := s.boot.verify new
    let b : Boot := { s.boot with
      flashBusy := false, flashResult := result
      slots := if result = 0 then s.boot.slots.put s.boot.flashSlot.toNat new else s.boot.slots }
    let s := { s with boot := b }
    if b.image = 2 ∧ result = 0 then { s with boot := { b.ok b.flashSlot with fail := false } }.beginStart false false else s)

/-- Is a lifecycle transition legal (spec/16 R351)? -/
def lcLegal (a b : BitVec 2) : Bool := (a == 0 && b == 1) || (a == 1 && b == 2) || (a == 2 && b == 3) || (a == 3 && b == 1)
/-- A write of LCCMD: a legal transition whose object is signed under the current state's key wipes the module and starts warm;
provisioning fuses the owner key digest. -/
def State.lifecycle (s : State) (dest : BitVec 2) (auth : BitVec 46) (owner : BitVec 256) : State :=
  let obj := 64 * auth.toNat
  if !s.up || !lcLegal s.boot.lcstate dest || !inHbm obj || Config.signerAt s.mem obj != some s.boot.key then s
  else
    { s.wipe with boot := { s.boot with lcstate := dest, ownerKey := if s.boot.lcstate = 0 then owner else s.boot.ownerKey } }.beginStart true false
/-- LCCMD; `owner` is the digest that provisioning fuses (notes/assumptions/10.md). -/
def execLccmd (dest : BitVec 2) (auth : BitVec 46) (owner : BitVec 256) (s : State) : Answer := .next (s.lifecycle dest auth owner)

end Sys2Proof.Machine
end

