-- ==== Sys2Proof/Machine/Collective.lean ====
section
/-! DEFINITION. Collectives: CALLRED and CGATHER (spec/10 R244 to R246, spec/06 R157, R159, spec/04 R109). -/
namespace Sys2Proof.Machine

/-! The collective record (spec/10 R244). -/

/-- COUNT. -/
def colCount (r : List Dword) : Nat := fld (wordAt r 1) 0 32
/-- NRANK. -/
def colRanks (r : List Dword) : Nat := fld (wordAt r 1) 32 12
/-- RANK. -/
def colRank (r : List Dword) : Nat := fld (wordAt r 1) 44 12
/-- TYPE. -/
def colType (r : List Dword) : Nat := fld (wordAt r 2) 32 3
/-- CARRY. -/
def colCarry (r : List Dword) : Dword := wordAt r 3
/-- COMM, BID and EPOCH, by which commands are matched. -/
def colKey (r : List Dword) : Dword × Nat × Nat := (wordAt r 0, fld (wordAt r 2) 0 32, fld (wordAt r 4) 0 32)
/-- Bytes of an element of a send TYPE. -/
def colBytes (ty : Nat) : Nat := if ty = 1 then 2 else if ty ≤ 3 then 4 else 8
/-- Is it a collective, with which opcode and extension word? -/
def collX : Instr → Option (Bool × CollX)
  | .callred _ x => some (true, x)
  | .cgather _ x => some (false, x)
  | _ => none
/-- Bytes of a command's send buffer. -/
def colSend (r : List Dword) : Nat := colCount r * colBytes (colType r)
/-- Bytes of its receive buffer. -/
def colRecv (red : Bool) (q8 : Bool) (r : List Dword) : Nat :=
  colCount r * (if q8 then 4 else colBytes (colType r)) * (if red then 1 else colRanks r)
/-- The entry of the collective table that decides for a COMM (spec/16 R353). -/
def State.collAdmits (s : State) (comm : Dword) (grove : Nat) : Bool :=
  match s.pf.coll.cells.find? fun e => e.2.1 == comm && e.2.2 != 0 with
  | some e => e.2.2.getLsbD grove
  | none => false
/-- The ECODE of a command's first ill-formed condition, if any (spec/10 R245, R246). -/
def State.collBad (s : State) (c t : Nat) (red : Bool) (x : CollX) (cmd : Cmd) (r : List Dword) : Option Nat :=
  let tm := s.team c t
  let recv := (wordAt cmd.ops 0).toNat
  let send := (wordAt cmd.ops 1).toNat
  let ns := colSend r
  let nr := colRecv red x.q8 r
  let fields := decide (1 ≤ colCount r) && decide (colCount r ≤ 2 ^ 28) && decide (1 ≤ colRanks r) &&
    decide (colRank r < colRanks r) && fld (wordAt r 1) 56 8 == 0 && decide (colType r ≤ 6) && fld (wordAt r 2) 35 29 == 0 &&
    fld (wordAt r 3) 56 8 == 0 && (!x.q8 || fld (wordAt r 3) 0 2 == 0) && fld (wordAt r 4) 32 32 == 0 && wordAt r 5 == 0 &&
    wordAt r 6 == 0 && wordAt r 7 == 0
  let meets := x.dsp == x.ssp && decide (recv < send + ns) && decide (send < recv + nr) && !(recv == send && ns == nr)
  if !fields || meets || (x.dsp && !tm.spIn recv nr) || (x.ssp && !tm.spIn send ns) ||
      (x.q8 && (colType r != 0 || colCount r % 128 != 0 || (red && x.op != 0))) then some 0x03
  else if !s.collAdmits (wordAt r 0) (s.ctx tm.ctx).desc.grove then some 0x06
  else none

/-! Issue. -/

/-- The lines that a collective clears at issue: its record gives their number; where it cannot be read now, they may be all to the end
of the allocation (notes/assumptions/21.md). -/
def State.collLines (s : State) (u : UnitId) (red : Bool) (x : CollX) (d b : Dword) : List Nat :=
  if !x.dsp then [] else
  let g := s.engRead u.place (s.ctxOf u) b 64 2
  let tm := s.teamOf u
  if g.flt.isSome then tm.linesUpTo d.toNat tm.spSize else tm.linesOf d.toNat (colRecv red x.q8 (dwordsOfBytes 8 g.bytes))
/-- CALLRED and CGATHER at issue. -/
def State.collCmd (i : Instr) (red : Bool) (f : GA) (x : CollX) : UnitId → State → State :=
  State.enqueue i fun s u =>
    let d := s.sget u f.d.toNat
    let b := s.sget u f.b.toNat
    { guard := guardOf x.gen x.gslot x.gsense, ops := [d, s.srcG u f.a.toNat, b], rd := [], wr := [], empty := false
      lines := s.collLines u red x d b }
/-- CALLRED. -/
def execCallred (f : GA) (x : CollX) (s : State) : Answer := issue (.callred f x) s (State.collCmd (.callred f x) true f x)
/-- CGATHER. -/
def execCgather (f : GA) (x : CollX) (s : State) : Answer := issue (.cgather f x) s (State.collCmd (.cgather f x) false f x)

/-! Matching. -/

/-- A participant that has begun: core, slot and command. -/
structure Party where
  core : Nat
  slot : Nat
  cmd : Cmd
  deriving DecidableEq, Repr
/-- A participant's record. -/
def Party.rec_ (p : Party) : List Dword := p.cmd.record.getD []
/-- What every participant must agree on (spec/10 R245). -/
def Party.terms (p : Party) : Option (Bool × Nat × Nat × Nat × Nat × Bool) :=
  (collX p.cmd.instr).map fun k => (k.1, colCount p.rec_, colRanks p.rec_, colType p.rec_, k.2.op.toNat, k.2.q8)
/-- The collective that a team has begun and not completed. -/
def State.collBegun (s : State) (c t : Nat) : Option Party :=
  match ((s.team c t).engq 3).cmds with
  | x :: _ => if x.record.isSome && x.begun then some { core := c, slot := t, cmd := x } else none
  | [] => none
/-- Every participant that has begun the collective of a key. -/
def State.parties (s : State) (key : Dword × Nat × Nat) : List Party :=
  (s.cores.cells.flatMap fun k => k.2.teams.cells.filterMap fun t => s.collBegun k.1 t.1).filter fun p => colKey p.rec_ == key

/-! Contributions. -/

/-- A block of 128 elements of FP8 contribution: new carries, and the values the receivers use (spec/06 R159). -/
def carryBlock (x c : List Word) : List Word × List Word :=
  let ys := (List.range x.length).map fun i => add32 (x.getD i 0) (c.getD i 0)
  let sc := blockScale ys
  let qs := ys.map fun y => quantOf y sc
  let vs := qs.map fun q => dequant q sc
  ((List.range x.length).map fun i => sub32 (ys.getD i 0) (vs.getD i 0), vs)
/-- Elements of `n` bytes from bytes. -/
def elemsOf (n : Nat) : Nat → List Byte → List Nat
  | 0, _ => []
  | k + 1, bs => leNat (bs.take n) :: elemsOf n k (bs.drop n)
/-- FP8 contribution of all blocks: new carries and values. -/
def carryAll : Nat → List Word → List Word → List Word × List Word
  | 0, _, _ => ([], [])
  | k + 1, x, c =>
    let b := carryBlock (x.take 128) (c.take 128)
    let r := carryAll k (x.drop 128) (c.drop 128)
    (b.1 ++ r.1, b.2 ++ r.2)
/-- One rank's contribution: the values as patterns of the receive type, which of them come from poison, and new carries. -/
structure Given where
  vals : List Nat
  bad : List Bool
  carry : List Word
/-- A unit of at most 64 bytes that a collective moves for a participant: of its carries or of its buffer, its address, its length and
its place in them. -/
structure CollUnit where
  carry : Bool
  addr : Nat
  len : Nat
  off : Nat
/-- The units of [a, a + n). -/
def collUnits (carry : Bool) (a n : Nat) : List CollUnit :=
  (pieces 64 a n).map fun p => { carry := carry, addr := p.1, len := p.2, off := p.1 - a }
/-- What a participant reads: its send buffer, then its carries. -/
def Party.reads (p : Party) (x : CollX) : List CollUnit :=
  collUnits false (wordAt p.cmd.ops 1).toNat (colSend p.rec_) ++
    if x.q8 then collUnits true (colCarry p.rec_).toNat (4 * colCount p.rec_) else []
/-- What a participant writes: its carries, then its receive buffer of `n` bytes. -/
def Party.writes (p : Party) (x : CollX) (n : Nat) : List CollUnit :=
  (if x.q8 then collUnits true (colCarry p.rec_).toNat (4 * colCount p.rec_) else []) ++
    collUnits false (wordAt p.cmd.ops 0).toNat n
/-- Is it the contribution of a participant? -/
def Party.owns (p : Party) (k : Contribution) : Bool := k.key == colKey p.rec_ && k.rank == colRank p.rec_
/-- What a participant has contributed so far. -/
def State.given (s : State) (p : Party) : Contribution :=
  (s.contribs.find? p.owns).getD { key := colKey p.rec_, rank := colRank p.rec_, units := 0, bytes := [], bad := [] }
/-- A participant's contribution so far set. -/
def State.give (s : State) (p : Party) (k : Contribution) : State :=
  { s with contribs := s.contribs.filter (fun x => !p.owns x) ++ [k] }
/-- Participants' transfers, one after another; the fault that stopped one, with its participant, and how many units may still be moved
now, where there is a limit (spec/15 R339). -/
structure Moved where
  s : State
  stop : Option (Party × Flt)
  left : Option Nat
/-- Is nothing more to be moved now? -/
def Moved.rests (m : Moved) : Bool := m.stop.isSome || m.left == some 0
/-- One participant reads what it has not read yet (spec/04 R109, spec/01 R37). -/
def Moved.read (m : Moved) (p : Party) : Moved :=
  match collX p.cmd.instr with
  | none => m
  | some (_, x) =>
    ((p.reads x).drop (m.s.given p).units).foldl (fun m q =>
      if m.rests then m else
      let k := m.s.given p
      let a := BitVec.ofNat 64 q.addr
      let g := if q.carry then m.s.engRead p.core (m.s.team p.core p.slot).ctx a q.len 2
        else m.s.engSrc p.core p.slot x.ssp a q.len 2
      match g.flt with
      | some f => { m with s := g.s, stop := some (p, f) }
      | none =>
        { s := g.s.give p { k with units := k.units + 1, bytes := k.bytes ++ g.bytes, bad := k.bad ++ g.bad }, stop := none
          left := m.left.map (· - 1) }) m
/-- Has a participant read all that it contributes? -/
def State.hasGiven (s : State) (p : Party) : Bool :=
  match collX p.cmd.instr with
  | none => true
  | some (_, x) => decide ((p.reads x).length ≤ (s.given p).units)
/-- A participant's contribution from what it has read: FP8 takes block scales and carries, and a block that any poison has met is
spoiled whole (spec/06 R159, spec/02 R80, notes/assumptions/63.md). -/
def Party.given (p : Party) (x : CollX) (k : Contribution) : Given :=
  let n := colCount p.rec_
  let e := colBytes (colType p.rec_)
  let ns := colSend p.rec_
  let bad (i : Nat) : Bool := ((k.bad.drop (e * i)).take e).any id
  if !x.q8 then { vals := elemsOf e n k.bytes, bad := (List.range n).map bad, carry := [] } else
  let c := carryAll (n / 128) ((elemsOf 4 n k.bytes).map (BitVec.ofNat 32)) ((elemsOf 4 n (k.bytes.drop ns)).map (BitVec.ofNat 32))
  let block (b : Nat) : Bool := ((k.bad.drop (512 * b)).take 512).any id || ((k.bad.drop (ns + 512 * b)).take 512).any id
  { vals := c.2.map (·.toNat), bad := (List.range n).map fun i => block (i / 128), carry := c.1 }

/-- Two contributions of an element combined: `ty` is the send TYPE (spec/06 R157, spec/10 R246). -/
def colCombine (op ty : Nat) (x y : Nat) : Nat :=
  match ty with
  | 0 =>
    if op = 0 then (add32 (BitVec.ofNat 32 x) (BitVec.ofNat 32 y)).toNat else pickFloat fp32 false (op == 1) x y
  | 1 =>
    if op = 0 then (add32 (BitVec.ofNat 32 x) (BitVec.ofNat 32 y)).toNat else pickFloat bf16 false (op == 1) x y
  | _ =>
    let w := 8 * colBytes ty
    let lt (a b : Nat) : Bool := if ty = 2 ∨ ty = 4 ∨ ty = 6 then decide (signed w a < signed w b) else decide (a < b)
    if op = 0 then (x + y) % 2 ^ w
    else if op = 1 then (if lt y x then y else x)
    else (if lt x y then y else x)
/-- One element over all ranks, in ascending rank order; BF16 sums stand in FP32 and are rounded once. -/
def colElement (op ty : Nat) (xs : List Nat) : Nat :=
  let wide := ty == 1 && op == 0
  let xs := if wide then xs.map fun x => (widen x).toNat else xs
  match xs with
  | [] => 0
  | x :: r =>
    let v := r.foldl (colCombine op ty) x
    if wide then toBf16 (BitVec.ofNat 32 v) else v
/-- The receive buffer's bytes and the elements spoiled by poison. -/
def colResult (red : Bool) (op ty : Nat) (n e : Nat) (gs : List Given) : List Byte × List Bool :=
  if red then
    ((List.range n).flatMap fun i => natLe e (colElement op ty (gs.map fun g => g.vals.getD i 0)),
     (List.range n).map fun i => gs.any fun g => g.bad.getD i false)
  else (gs.flatMap fun g => g.vals.flatMap (natLe e), gs.flatMap (·.bad))

/-- One participant writes what it has not written yet: its carries, then its receive buffer; a unit that takes a byte of a spoiled
element is poisoned (spec/02 R80, spec/04 R109). `e` is the size of an element. -/
def Moved.write (m : Moved) (p : Party) (x : CollX) (g : Given) (bytes : List Byte) (bad : List Bool) (e : Nat) : Moved :=
  let carry := g.carry.flatMap fun w => natLe 4 w.toNat
  let us := p.writes x bytes.length
  ((us.drop p.cmd.progress).zipIdx p.cmd.progress).foldl (fun m q =>
    if m.rests then m else
    let a := BitVec.ofNat 64 q.1.addr
    let part (l : List Byte) : List Byte := (l.drop q.1.off).take q.1.len
    let spoil (l : List Bool) (e : Nat) : Bool := (List.range q.1.len).any fun i => l.getD ((q.1.off + i) / e) false
    let w := if q.1.carry then m.s.engDst p.core p.slot false a (part carry) 2 (spoil g.bad 4)
      else m.s.engDst p.core p.slot x.dsp a (part bytes) 2 (spoil bad e)
    match w.flt with
    | some f => { m with s := w.s, stop := some (p, f) }
    | none =>
      { s := w.s.onHead p.core p.slot 3 fun y => { y with
          progress := q.2 + 1
          lines := if x.dsp then dedup (((us.drop (q.2 + 1)).filter fun k => !k.carry).map fun k => k.addr / 256) else y.lines }
        stop := none
        left := m.left.map (· - 1) }) m
/-- Has a participant, as its queue now holds it, written all that it is to write, `n` bytes into its receive buffer? -/
def State.hasWritten (s : State) (n : Nat) (p : Party) : Bool :=
  match collX p.cmd.instr, ((s.team p.core p.slot).engq 3).cmds with
  | some (_, x), y :: _ => decide ((p.writes x n).length ≤ y.progress)
  | _, _ => true

/-- All ranks are present: every contribution is read, then every write is made, then every mirror write is everywhere, then every
command completes (spec/04 R106, R109, spec/10 R246). A fault holds or ends the command that meets it; what has been moved stays
moved, and the collective goes on from there (spec/01 R37). With `lim`, it moves only so many units now (spec/15 R339). -/
def State.collective (s : State) (lim : Option Nat) (ps : List Party) : State :=
  match ps with
  | [] => s
  | p0 :: _ =>
    match collX p0.cmd.instr with
    | none => s
    | some (red, x) =>
      let rc := p0.rec_
      let n := colCount rc
      let e := if x.q8 then 4 else colBytes (colType rc)
      let waits := ps.any fun p => match collX p.cmd.instr with
        | some (_, y) => y.ssp && (s.given p).units == 0 &&
            (s.team p.core p.slot).absentFor p.cmd.id (wordAt p.cmd.ops 1).toNat (colSend p.rec_)
        | none => false
      if waits then s else
      let r := ps.foldl Moved.read { s := s, stop := none, left := lim }
      let gs := ps.map fun p => match collX p.cmd.instr with
        | some (_, y) => p.given y (r.s.given p)
        | none => { vals := [], bad := [], carry := [] }
      let out := colResult red x.op.toNat (if x.q8 then 0 else colType rc) n e gs
      let w := if r.stop.isSome || !ps.all r.s.hasGiven then r else
        (ps.zip gs).foldl (fun m q => match collX q.1.cmd.instr with
          | some (_, y) => if m.rests then m else m.write q.1 y q.2 out.1 out.2 e
          | none => m) r
      match w.stop with
      | some (p, f) => w.s.cmdFault p.core p.slot 3 p.cmd f
      | none =>
        if !ps.all w.s.hasGiven || !ps.all (w.s.hasWritten out.1.length) then w.s else
        let s := { w.s.settleMirror with contribs := w.s.contribs.filter fun k => k.key != colKey rc }
        ps.foldl (fun s p => s.cmdDone p.core p.slot 3) s

/-- Participants put in ascending rank order. -/
def rankOrder (l : List Party) : List Party :=
  l.foldl (fun acc p => (acc.filter fun q => decide (colRank q.rec_ ≤ colRank p.rec_)) ++ [p] ++
    (acc.filter fun q => !decide (colRank q.rec_ ≤ colRank p.rec_))) []
/-- A begun participant meets the others: a set that does not agree ends as ill-formed; a complete one performs. A held
participant holds all. -/
def State.collMeet (s : State) (lim : Option Nat) (p : Party) : State :=
  let all := s.parties (colKey p.rec_)
  let agree := (all.all fun q => q.terms == p.terms) && (dedup (all.map fun q => colRank q.rec_)).length == all.length
  if !agree then all.foldl (fun s q => s.illFormed q.core q.slot 3 q.cmd 0x06 0) s
  else if all.length == colRanks p.rec_ && all.all fun q => (s.headOf q.core q.slot 3).isSome then s.collective lim (rankOrder all)
  else s
/-- The head of queue 3 begins: its record is read once and checked. -/
def State.collBegin (s : State) (c t : Nat) (red : Bool) (x : CollX) (cmd : Cmd) : State :=
  let b := wordAt cmd.ops 2
  if b.toNat % 64 != 0 then s.illFormed c t 3 cmd 0x03 b else
  let g := s.engRead c (s.team c t).ctx b 64 2
  match g.flt with
  | some f => g.s.cmdFault c t 3 cmd f
  | none =>
    let r := dwordsOfBytes 8 g.bytes
    match g.s.collBad c t red x cmd r with
    | some e => g.s.illFormed c t 3 cmd e b
    | none =>
      let p : Party := { core := c, slot := t, cmd := { cmd with record := some r } }
      ({ g.s with contribs := g.s.contribs.filter fun k => !p.owns k } : State).onHead c t 3 fun y =>
        { y with record := some r, begun := true
                 lines := if x.dsp then (s.team c t).linesOf (wordAt cmd.ops 0).toNat (colRecv red x.q8 r) else [] }
/-- The head of queue 3, if it is a collective of this opcode, moves on, by `lim` units where there is a limit. -/
def State.collPerform (s : State) (red : Bool) (lim : Option Nat) (c t : Nat) : State :=
  match s.headOf c t 3 with
  | none => s
  | some cmd => match collX cmd.instr with
    | none => s
    | some (red', x) =>
      if red' != red then s else
      let s := if cmd.record.isSome then s else s.collBegin c t red x cmd
      match s.collBegun c t with
      | some p => if p.cmd.id = cmd.id then s.collMeet lim p else s
      | none => s
/-- CALLRED_PERFORM. -/
def execCallredPerform (c t : Nat) (s : State) : Answer := .next (s.collPerform true none c t)
/-- CGATHER_PERFORM. -/
def execCgatherPerform (c t : Nat) (s : State) : Answer := .next (s.collPerform false none c t)

end Sys2Proof.Machine
end

