-- ==== Sys2Proof/Machine/Retire.lean ====
section
/-! DEFINITION. How groups, teams and grids end; the choice of the next run (spec/05 R118, spec/12 R276, R277, R281, R366;
spec/04 R110; spec/14 R317, R324; spec/16 R356 to R358). -/
namespace Sys2Proof.Machine

/-! Groups. -/

/-- The write of cvend for lane `l` of a retiring group (spec/12 R276, R366). -/
def State.endBinding (s : State) (c g l : Nat) : State :=
  let k := s.group c g
  let b := k.binds.get l .none
  if !b.bound then s else
  let tm := s.team c k.team
  let s := s.onGroup c g fun k => { k with binds := k.binds.put l { b with bound := false } }
  s.lateWrite
    { id := s.deferId, ctx := tm.ctx, grid := tm.grid, core := c, slot := g, lanes := Dword.bit l, va := b.ptr + 32
      bytes := (List.range b.nstr).flatMap fun k => natLe 4 (b.cur.get k 0), keep := b.mode, parkSeq := 0 }
/-- Does a deferred write of a lane of group slot `g` still wait (spec/12 R366)? -/
def State.slotOwes (s : State) (c g : Nat) : Bool := s.deferred.any fun d => d.lanes != 0 && d.core == c && d.slot == g
/-- GROUP_RETIRE: in a group with no live lane and no path each lane still bound is ended; it retires once none of those writes is
held (spec/12 R276, R366). -/
def execGroupRetire (c g : Nat) (s : State) : Answer :=
  .next (
    let k := s.group c g
    if !(s.core c).groups.has g || k.retired || k.live != 0 || !k.paths.cells.isEmpty then s else
    let s := (List.range 64).foldl (fun s l => s.endBinding c g l) s
    if s.slotOwes c g then s else s.onGroup c g fun k => { k with retired := true, growReq := none })

/-! Teams. -/

/-- WC of a width. -/
def widthCode (w : Nat) : Nat := if w = 16 then 0 else if w = 32 then 1 else 2
/-- The replay record of a lane (spec/12 R277). -/
def replayRecord (g : Grid) (team grp lane : Nat) (b : Binding) : List Dword :=
  [BitVec.ofNat 64 g.kernel.entry, packD [(team % 2 ^ 32, 0), (grp, 32), (lane, 37)], BitVec.ofNat 64 g.args,
   if b.ever then b.ptr else 0, packD [(b.result.toNat, 0), (cond b.rv 1 0, 32)],
   packD [(g.nteams % 2 ^ 32, 0), (kernelGroups g.kernel - 1, 32), (widthCode g.kernel.width, 37)], BitVec.ofNat 64 g.spill,
   packD [(g.fmt.toNat % 32, 0), (g.spk, 8), (g.tiles, 16), (g.trk, 19), (cond g.coop 1 0, 25)]]
/-- What lane `l` of a retiring group has written for it: its record, word 4 of the list record that launched it, or nothing. -/
def State.laneRecord (s : State) (c slot l : Nat) : State :=
  let k := s.group c slot
  let tm := s.team c k.team
  let g := s.grid tm.grid
  let b := k.binds.get l .none
  let r := replayRecord g tm.number k.number l b
  let d (va : Dword) (bs : List Byte) : Deferred :=
    { id := s.deferId, ctx := tm.ctx, grid := tm.grid, core := c, slot := slot, lanes := Dword.bit l, va := va, bytes := bs
      keep := false, parkSeq := 0 }
  match g.replay, k.replayIdx.find l with
  | some x, some i => s.lateWrite (d (x.list + BitVec.ofNat 64 (64 * i + 32)) (natLe 8 (wordAt r 4).toNat))
  | some _, none => s
  | none, _ =>
    if !g.kernel.replayable || g.rra == 0 then s else
    let i := tm.number * kernelGroups g.kernel * k.width + k.number * k.width + l
    s.lateWrite (d (BitVec.ofNat 64 (g.rra + 64 * i)) (bytesOfDwords r))
/-- The replay records of a retiring team. -/
def State.teamRecords (s : State) (c t : Nat) : State :=
  let gs := (s.core c).groups.cells.filter fun g => g.2.team == t
  gs.foldl (fun s g => g.2.launched.lanes.foldl (fun s l => s.laneRecord c g.1 l) s) s
/-- Does a deferred write of a team's lanes still wait? -/
def State.teamOwes (s : State) (c t : Nat) : Bool := (s.team c t).slots.any fun g => s.slotOwes c g
/-- The stall record of a team: a header with CTX, TEAM and ENTRY, then a bank of sixteen counters for each group in ascending
slot (spec/16 R357). -/
def State.stallSlots (s : State) (c t : Nat) : List (List Byte) :=
  let tm := s.team c t
  let head := bytesOfDwords [BitVec.ofNat 64 tm.ctx, BitVec.ofNat 64 tm.number, BitVec.ofNat 64 tm.kernel.entry, 0, 0, 0, 0, 0]
  head :: ((s.core c).groups.cells.filter fun g => g.2.team == t).map fun g =>
    (List.range 16).flatMap fun k => natLe 4 (g.2.stall.get k 0).toNat
/-- The oldest stall record of a grove is written if STALLQ has room for all its slots (spec/16 R358). -/
def State.writeStall (s : State) (g : Nat) : State :=
  let k := s.grove g
  match k.stallPend with
  | [] => s
  | (c, t) :: rest =>
    let slots := s.stallSlots c t
    let go (s : State) : State :=
      (s.onGrove g fun k => { k with stallPend := rest }).onTeam c t fun x => { x with retiring := 3 }
    if ringLog k.stallq = 0 then go s
    else if s.ringRoom (ringBase k.stallq) (ringLog k.stallq) slots.length then
      go (s.ringWrite (ringBase k.stallq) (ringLog k.stallq) 64 slots)
    else s
/-- STALL_RECORD_WRITE. -/
def execStallRecordWrite (g : Nat) (s : State) : Answer := .next (s.writeStall g)
/-- A team leaves its core: its end is a release at system scope, and its resources are free (spec/04 R110). -/
def State.freeTeam (s : State) (c t : Nat) : State :=
  let tm := s.team c t
  let s := s.releaseAll c
  let s := s.onCore c fun k =>
    { k with
      groups := { cells := k.groups.cells.filter fun g => g.2.team != t }
      teams := k.teams.drop t
      tiles := tm.tiles.foldl (fun ts n => ts.drop n) k.tiles }
  s.countRetired tm.grid tm.torn
/-- TEAM_RETIRE (spec/05 R118, spec/04 R110): a team whose streams and commands have all ended makes its replay records, then, once no
write of its lanes waits, its stall record, and leaves its core; a team torn down makes no replay records (spec/15 R337). -/
def execTeamRetire (c t : Nat) (s : State) : Answer :=
  .next (
    let tm := s.team c t
    if !(s.core c).teams.has t then s
    else if !tm.torn && (!tm.seqExited || !tm.cmds.isEmpty || ((s.core c).evicted.any fun e => e.group.team == t) ||
        ((s.core c).groups.cells.any fun g => g.2.team == t && !g.2.retired)) then s
    else
      let s := if tm.retiring = 0 then (if tm.torn then s else s.teamRecords c t).onTeam c t fun x => { x with retiring := 1 } else s
      if s.teamOwes c t then s else
      let g := (s.grid tm.grid).grove
      let s := if (s.team c t).retiring = 1 then
          ((s.onGrove g fun k => { k with stallPend := k.stallPend ++ [(c, t)] }).onTeam c t fun x => { x with retiring := 2 }).writeStall g
        else s
      if (s.team c t).retiring = 3 then s.freeTeam c t else s)

/-! Grids. -/

/-- A node's grid has ended: its entry ends with the last node, or, after a teardown, with the last that had started
(spec/14 R309, R310, spec/15 R337). -/
def State.nodeEnds (s : State) (g q node : Nat) (torn : Bool) : State :=
  match (s.queue g q).graph with
  | none => s
  | some r =>
    let r := { r with ended := node :: r.ended, torn := r.torn || torn }
    let s := s.onQueue g q fun x => { x with graph := some r }
    if (r.grids.keys.all fun n => r.ended.contains n) && (r.torn || r.grids.keys.length == r.descs.length) then
      s.endEntry g q r.torn
    else s
/-- GRID_END (spec/04 R110): every team has retired or every program ended; for a REPLAY, 1 is stored first (spec/12 R281). -/
def execGridEnd (gid : Nat) (s : State) : Answer :=
  .next (
    let g := s.grid gid
    if !s.grids.has gid || g.retired != g.admitted || !(g.torn || g.admitted == g.total) then s else
    let s := if g.lant then (s.stands g.grove).foldl (fun s l => s.releaseAll (512 + l)) s else s
    let s := match g.replay with
      | some r => if g.ending then s else
          let s := { s with grids := s.grids.put gid { g with ending := true } }
          s.lateWrite { id := s.deferId, ctx := g.ctx, grid := gid, core := 0, slot := 0, lanes := 0, va := r.dest
                        bytes := natLe 8 1, keep := false, parkSeq := 0 }
      | none => s
    if s.deferred.any fun d => d.grid == gid then s else
    let s := { s with grids := s.grids.drop gid }
    match g.src with
    | .node gr q node => s.nodeEnds gr q node g.torn
    | .device _ => s)

/-! The choice of the next run (spec/14 R317, R324). -/

/-- The role priority of a unit: a sequencer counts as 3. -/
def State.priority (s : State) (u : UnitId) : Nat :=
  match u with
  | .path c g _ =>
    let k := s.group c g
    ((kernelRoles (s.team c k.team).kernel).getD k.role { groups := 0, regs := 0, prio := 0 }).prio
  | _ => 3
/-- Does a save that a window has come to name a team of a context (spec/15 R338, R339)? -/
def Window.saves (w : Window) (ctx number : Nat) : Bool :=
  match w.psq with
  | x :: _ => x.act == 0 && x.ctx == ctx && (x.all || x.team == number)
  | [] => false
/-- Is the team of a unit that stands at a run start to be saved? It then starts no run. -/
def State.stopsForSave (s : State) (u : UnitId) : Bool :=
  let tm := s.teamOf u
  (s.thread u).run.count == 0 &&
    (s.pf.win.saves tm.ctx tm.number || (s.grove (s.groveOf u)).win.saves tm.ctx tm.number)
/-- The ready units of a quadrant, in the order of its round. -/
def State.readyUnits (s : State) (c q : Nat) : List UnitId :=
  let ps := ((s.core c).groups.cells.filter fun g => g.1 % 4 == q).flatMap fun g =>
    (g.2.paths.cells.filter fun p => p.2.th.state == .ready).map fun p => UnitId.path c g.1 p.1
  let ss := ((s.core c).teams.cells.filter fun t => t.1 % 4 == q && !t.2.seqExited && t.2.seq.state == .ready).map fun t =>
    UnitId.seq c t.1
  (ps ++ ss).filter fun u => !s.stopsForSave u
/-- The first of a list in a round after place `last`. -/
def nextInRound (last : Nat) (l : List UnitId) : Option UnitId :=
  match l.find? fun u => decide (last < placeInRound u) with
  | some u => some u
  | none => l.head?
/-- The longest-waiting of the aged units: the one that aged first. -/
def State.oldest (s : State) (l : List UnitId) : Option UnitId :=
  l.foldl (fun b u => match b, (s.thread u).age with
    | none, some _ => some u
    | some v, some a => if a < ((s.thread v).age).getD 0 then some u else some v
    | b, none => b) none
/-- The unit that a quadrant chooses (spec/14 R317). -/
def State.choose (s : State) (c q : Nat) : Option UnitId :=
  let l := s.readyUnits c q
  match s.oldest l with
  | some u => some u
  | none =>
    let top := l.foldl (fun a u => max a (s.priority u)) 0
    nextInRound ((s.core c).quads.get q .none).last (l.filter fun u => s.priority u == top)
/-- The stall reason of a path (spec/16 R357). -/
def stallReason (t : Thread) : Nat :=
  match t.state with
  | .ready => 0
  | .atJoin => 8
  | .atRegang => 8
  | .parked => 11
  | .held => 12
  | .spill => 10
  | .waiting => match t.waiting with
    | some (.lds _ _) => 2
    | some (.sts _ _) => 2
    | some (.atoms _ _) => 2
    | some (.acass _ _) => 2
    | some (.ldq _ _) => 2
    | some (.stq _ _) => 2
    | some (.gld _ _) => 2
    | some (.gst _ _) => 2
    | some (.gatom _ _) => 2
    | some (.accrd _ _) => 3
    | some (.accrdc _ _) => 3
    | some (.bar _ _) => 4
    | some (.gridsync _) => 4
    | some (.qput _) => 5
    | some (.qget _) => 5
    | some (.xsend _ _) => 5
    | some (.xrecv _ _) => 5
    | some (.bwait _) => 6
    | some (.vvote _ _) => 7
    | some (.vreduce _) => 7
    | some (.vscan _) => 7
    | some (.grow _) => 9
    | some (.trace _ _) => 13
    | some (.tracea _ _) => 13
    | some (.traceo _ _) => 13
    | some (.vmarch _ _) => 13
    | some (.tnorm _ _) => gainStall t
    | some (.tnormq _ _) => gainStall t
    | _ => 15
where
  /-- A wait for the trunk, or for a gain line that is absent (spec/11 R264). -/
  gainStall (t : Thread) : Nat := if (t.wait.map (·.lo)).getD 0 = 1 then 2 else 15
/-- The stall counters that a group may count in now: the least reason that any of its paths holds, where a path that is ready or in its
run may also stand for an operand or latch, or for its fetch, and the path that was chosen was not kept from its choice. -/
def Group.stallsNow (g : Group) (chosen : Option Nat) : List Nat :=
  let rs := (g.paths.cells.filter fun p => chosen != some p.1).map fun p => stallReason p.2.th
  let least := (rs.filter (· != 0)).foldl min 15
  if rs.contains 0 then [0, 1, min 14 least] else if chosen.isSome then [1, min 14 least] else [least]
/-- A free number of cycles counted for a group in one of its stall counters. -/
def State.countStall (c g : Nat) (s : State) (r : Nat) : State :=
  s.spend.onGroup c g fun k => { k with stall := k.stall.put r (k.stall.get r 0 + BitVec.ofNat 32 s.freeVal) }
/-- The groups of a quadrant have each counted a free number of cycles since the last choice in which nothing was issued from them, in
a counter of theirs (spec/16 R357, notes/assumptions/8.md). -/
def State.countStalls (s : State) (c q : Nat) (but : Option UnitId) : State :=
  ((s.core c).groups.cells.filter fun g => g.1 % 4 == q && !g.2.retired).foldl (fun s g =>
    let chosen := match but with
      | some (.path _ k i) => if k == g.1 then some i else none
      | _ => none
    ((s.group c g.1).stallsNow chosen).foldl (State.countStall c g.1) s) s
/-- Does DBGSTOP of the unit's grove name it (spec/16 R356)? -/
def State.stopNamed (s : State) (u : UnitId) : Bool :=
  let v := (s.grove (s.groveOf u)).dbgstop
  let mode := fld v 54 2
  mode != 0 && fld v 0 12 == s.ctxOf u && fld v 12 32 == s.teamNumber u % 2 ^ 32 &&
    (match u with
      | .path _ g i => mode == 3 || (fld v 44 5 == g && (mode == 2 || fld v 49 5 == i))
      | _ => mode == 3)
/-- Is the unit to be held at the run start it stands at? -/
def State.stopHere (s : State) (u : UnitId) : Bool :=
  (s.thread u).run.count == 0 && s.stopNamed u && !(s.thread u).released
/-- A chosen unit begins its run, or goes on with it after a wait in its middle: a sequencer takes ENGINE-HALT at a run start,
DBGSTOP may hold the unit, and a path that goes on after its quadrant was switched to another has no valid latch (spec/15 R335,
spec/16 R356, spec/07 R172, notes/assumptions/66.md). -/
def State.beginRun (s : State) (u : UnitId) (last : Nat) : State :=
  let t := s.thread u
  if s.stopHere u then s.holdUnit u 0 else
  match u with
  | .seq c n =>
    if t.run.count = 0 ∧ !(s.team c n).haltPending.isEmpty ∧ !t.frame.active then s.haltTrap c n else go s t
  | _ => go s t
where
  /-- The unit has its turn. -/
  go (s : State) (t : Thread) : State :=
    let stale := decide (0 < t.run.count) && last != placeInRound u
    let s := s.onThread u fun t =>
      { t with
        age := none, wait := none, released := false
        run := if stale then { t.run with lat := Run.fresh.lat, ulat := Run.fresh.ulat } else t.run }
    let s := s.onCore u.place fun k => { k with quads := k.quads.put u.quad { current := some u, last := placeInRound u } }
    { s with turn := some u }
/-- The next program of a lantern core has its turn, round-robin (spec/14 R324). -/
def State.lanternSelect (s : State) (l : Nat) : State :=
  let us := ((s.lantern l).progs.cells.filter fun p => p.2.th.state == .ready).map fun p => UnitId.lant l p.1
  match nextInRound (s.lantern l).last us with
  | none => s
  | some u =>
    if s.stopHere u then s.holdUnit u 0 else
    let s := s.onThread u fun t => { t with wait := none, released := false }
    { s.onLantern l fun k => { k with last := placeInRound u } with turn := some u }
/-- ISSUE_SELECT: a quadrant with no run in progress chooses, and stalls are counted; a lantern core takes its next program. -/
def execIssueSelect (q : Issuer) (s : State) : Answer :=
  .next (match q with
    | .lantern l => s.lanternSelect l
    | .quad c q =>
      if ((s.core c).quads.get q .none).current.isSome then s else
      let last := ((s.core c).quads.get q .none).last
      let u := s.choose c q
      let s := s.countStalls c q u
      match u with
      | none => s
      | some u => s.beginRun u last)
/-- PATH_AGED: a ready unit that is not in its run has waited 256 cycles (spec/14 R317). -/
def execPathAged (u : UnitId) (s : State) : Answer :=
  .next (match u with
    | .lant _ _ => s
    | _ =>
      let t := s.thread u
      if !s.alive u || t.state != .ready || t.age.isSome || ((s.core u.place).quads.get u.quad .none).current == some u then s else
      let top := (s.readyUnits u.place u.quad).foldl (fun a v => max a (((s.thread v).age.map (· + 1)).getD 0)) 0
      s.onThread u fun t => { t with age := some top })

end Sys2Proof.Machine
end

