-- ==== Sys2Proof/Machine/Image.lean ====
section
/-! DEFINITION. Context images of teams and of evicted groups: their bytes, and reading them back (spec/15 R339 to R341, R367;
spec/05 R122, R123; spec/11 R266). What R367 leaves to the device is laid out as notes/assumptions/11.md says. -/
namespace Sys2Proof.Machine

/-! Words of the device's own form: what is written is read back in the same order. -/

/-- A list: its length, then its items. -/
def putList (l : List (List Nat)) : List Nat := l.length :: l.flatten
/-- A flag. -/
def putBool (b : Bool) : Nat := cond b 1 0
/-- Something that may be absent. -/
def putOpt (o : Option (List Nat)) : List Nat := match o with
  | none => [0]
  | some l => 1 :: l
/-- A list of numbers. -/
def putNats (l : List Nat) : List Nat := l.length :: l
/-- A table. -/
def putTab {α : Type} (f : α → List Nat) (t : Tab α) : List Nat := putList (t.cells.map fun c => c.1 :: f c.2)
/-- A reader of words; beyond the end every word is 0. -/
abbrev Rd (α : Type) := StateM (List Nat) α
/-- The next word. -/
def rdWord : Rd Nat := fun l => (l.headD 0, l.tail)
/-- The next word as a flag. -/
def rdBool : Rd Bool := do return (← rdWord) != 0
/-- The next word as 64 bits. -/
def rdDword : Rd Dword := do return BitVec.ofNat 64 (← rdWord)
/-- `n` items. -/
def rdMany {α : Type} (f : Rd α) : Nat → Rd (List α)
  | 0 => pure []
  | n + 1 => do
    let a ← f
    let r ← rdMany f n
    pure (a :: r)
/-- A list, of no more items than there are words left. -/
def rdList {α : Type} (f : Rd α) : Rd (List α) := do
  let n ← rdWord
  let l ← get
  rdMany f (min n l.length)
/-- A list of numbers. -/
def rdNats : Rd (List Nat) := rdList rdWord
/-- Something that may be absent. -/
def rdOpt {α : Type} (f : Rd α) : Rd (Option α) := do
  if ← rdBool then return some (← f) else return none
/-- A table. -/
def rdTab {α : Type} (f : Rd α) : Rd (Tab α) := do
  let l ← rdList (do let k ← rdWord; let a ← f; pure (k, a))
  pure (l.foldl (fun t c => t.put c.1 c.2) Tab.empty)

/-! Threads, paths, stack entries. -/

/-- STATE (spec/05 R122). -/
def stateCode : PathState → Nat
  | .ready => 0
  | .waiting => 1
  | .atJoin => 2
  | .atRegang => 3
  | .parked => 4
  | .held => 5
  | .spill => 6
/-- The STATE of a code. -/
def stateOfCode (k : Nat) : PathState :=
  match k with
  | 1 => .waiting
  | 2 => .atJoin
  | 3 => .atRegang
  | 4 => .parked
  | 5 => .held
  | 6 => .spill
  | _ => .ready
/-- A path-table entry's four words (spec/05 R122). -/
def Path.words (p : Path) : List Dword :=
  [p.mask, codeAddr p.th.pc,
   packD [(1, 0), (stateCode p.th.state, 1), (putBool p.arm, 4), (p.partner, 5), (p.stk, 10), (putBool p.stkv, 16), (p.wb, 17),
          (p.th.fmt.toNat, 32)], codeAddr p.th.runpc]
/-- A stack entry's four words (spec/05 R123). -/
def StackEntry.words (e : StackEntry) : List Dword :=
  [e.rmask, e.pmask, codeAddr e.ppc,
   packD [(e.fmt.toNat, 0), (putBool e.kind, 32), (putBool e.half, 33), (e.next, 34), (putBool e.nextv, 40), (putBool e.nochk, 41)]]
/-- A trap frame's six words (spec/15 R329). -/
def Frame.words (f : Frame) : List Dword := (List.range 6).map f.word
/-- A park, in the device's own form. -/
def Park.put (p : Park) : List Nat := [p.mask.toNat, p.pc.toNat, p.addr.toNat] ++ putNats p.seqs
/-- A park read back. -/
def rdPark : Rd Park := do return { mask := ← rdDword, pc := ← rdDword, addr := ← rdDword, seqs := ← rdNats }
/-- What of a thread the path table and the trap frame do not hold: the lanes held in its handler, whether it is to go back to the
spill engine, whether GO has released it, its park. -/
structure ThreadExtra where
  held : Dword := 0
  spill : Bool := false
  released : Bool := false
  park : Option Park := none
/-- A thread's, as words. -/
def Thread.extra (t : Thread) : List Nat :=
  [t.frame.held.toNat, putBool t.wait.isSome, putBool t.released] ++ putOpt (t.park.map Park.put)
/-- A thread's read back. -/
def rdExtra : Rd ThreadExtra := do
  return { held := ← rdDword, spill := ← rdBool, released := ← rdBool, park := ← rdOpt rdPark }
/-- A thread from its words: PC, RUNPC, fmt, STATE, its frame and the rest; a unit that waited repeats its instruction. -/
def threadOf (pc runpc : Dword) (fmt : Word) (state : PathState) (fw : List Dword) (u : UnitId) (x : ThreadExtra) : Thread :=
  let w0 := wordAt fw 0
  { Thread.startAt pc fmt with
    runpc := runpc, state := if state == .waiting then .ready else state
    wait := if x.spill && (state == .spill || state == .parked) then some (spillMark u) else none
    park := x.park, released := x.released
    frame :=
      { active := w0.getLsbD 0, all := w0.getLsbD 1, cause := BitVec.ofNat 8 (fld w0 8 8), detail := BitVec.ofNat 16 (fld w0 16 16)
        fmt := BitVec.ofNat 32 (fld w0 32 32), rpc := wordAt fw 1, fpc := wordAt fw 2, addr := wordAt fw 3, lanes := wordAt fw 4
        held := x.held } }
/-- Does a path-table entry break spec/05 R122: a reserved bit, those of its fmt among them (spec/06 R139)? -/
def pathBad (w : List Dword) : Bool :=
  fld (wordAt w 1) 0 2 != 0 || fld (wordAt w 1) 56 8 != 0 || fld (wordAt w 2) 27 5 != 0 || fld (wordAt w 2) 1 3 == 7 ||
    fld (wordAt w 3) 0 2 != 0 || fld (wordAt w 3) 56 8 != 0 || fld (wordAt w 2) 37 27 != 0
/-- Does a stack entry break spec/05 R123? -/
def stackBad (w : List Dword) : Bool :=
  fld (wordAt w 2) 0 2 != 0 || fld (wordAt w 2) 56 8 != 0 || fld (wordAt w 3) 42 22 != 0 || fld (wordAt w 3) 5 27 != 0
/-- Does a trap frame set a reserved bit (spec/15 R329)? -/
def frameBad (w : List Dword) : Bool :=
  fld (wordAt w 0) 2 6 != 0 || fld (wordAt w 0) 37 27 != 0 || fld (wordAt w 1) 0 2 != 0 || fld (wordAt w 1) 56 8 != 0 || fld (wordAt w 2) 0 2 != 0 ||
    fld (wordAt w 2) 56 8 != 0 || wordAt w 5 != 0

/-! Groups. -/

/-- Bytes filled up with zeros to a multiple of `k`. -/
def padTo (k : Nat) (b : List Byte) : List Byte := b ++ List.replicate (alignUp b.length k - b.length) 0
/-- Bytes of words of the device's own form. -/
def ownBytes (l : List Nat) : List Byte := l.flatMap (natLe 8)
/-- What of a group its given sections do not hold. -/
def Group.extra (g : Group) (more : Bool) : List Nat :=
  [putBool more, g.number, g.role, g.width, g.launched.toNat, g.idle.toNat, g.exited.toNat, g.alloc, putBool g.retired,
   g.admitted, g.traced.toNat] ++ putTab (fun k => [k]) g.spilled ++ putTab (fun k => [k]) g.lwb ++
    putTab (fun (k : Dword) => [k.toNat]) g.hitRec ++ putTab (fun k => [k]) g.replayIdx ++
    putTab (fun (p : Path) => p.fam :: p.th.extra) g.paths
/-- Bytes before the device's own words in a group's section: path table, frames, stack pool, s0 to s159, xflags and stall
counters. -/
def groupFixed : Nat := 32 * 32 + 32 * 48 + 64 * 32 + 160 * 8 + 8 + 64
/-- A group's section. -/
def Group.section_ (g : Group) (more : Bool) : List Byte :=
  let ws (f : Path → List Dword) (n : Nat) : List Byte :=
    (List.range 32).flatMap fun i => bytesOfDwords (match g.paths.find i with
      | some p => f p
      | .none => List.replicate n 0)
  let own := g.extra more
  ws Path.words 4 ++ ws (fun p => p.th.frame.words) 6 ++
    ((List.range 64).flatMap fun e => bytesOfDwords (match g.stack.find e with
      | some x => x.words
      | .none => [0, 0, 0, 0])) ++
    ((List.range 160).flatMap fun k => natLe 8 (g.sregs.get k 0).toNat) ++ natLe 8 g.xflags.toNat ++
    ((List.range 16).flatMap fun k => natLe 4 (g.stall.get k 0).toNat) ++ natLe 8 own.length ++ ownBytes own
/-- A lane's binding state in 128 bytes. -/
def Binding.bytes (b : Binding) : List Byte :=
  (natLe 8 b.ptr.toNat ++ natLe 8 b.key.toNat ++ natLe 4 b.ser.toNat ++ natLe 4 b.result.toNat ++ natLe 4 b.nstr ++ natLe 4 b.cap ++
    natLe 4 (putBool b.bound + putBool b.mode * 2 + putBool b.rv * 4 + putBool b.ever * 8) ++
    (List.range 16).flatMap fun k => natLe 4 (b.cur.get k 0)) ++ List.replicate 28 0
/-- A lane's binding state from its bytes. -/
def bindingOf (b : List Byte) : Binding :=
  let at_ (o n : Nat) : Nat := leNat ((b.drop o).take n)
  { ptr := BitVec.ofNat 64 (at_ 0 8), key := BitVec.ofNat 64 (at_ 8 8), ser := BitVec.ofNat 32 (at_ 16 4)
    result := BitVec.ofNat 32 (at_ 20 4), nstr := min 16 (at_ 24 4), cap := at_ 28 4, bound := at_ 32 4 % 2 == 1
    mode := at_ 32 4 / 2 % 2 == 1, rv := at_ 32 4 / 4 % 2 == 1, ever := at_ 32 4 / 8 % 2 == 1
    cur := (List.range (min 16 (at_ 24 4))).foldl (fun t k => t.put k (at_ (36 + 4 * k) 4)) .empty }
/-- Physical place, after v0 to v15, of each register of a lane's ring. -/
def laneKeys (l a lo : Nat) : List Nat :=
  (List.range 16).map (vSlot l) ++ (List.range a).map fun j => vSlot l (16 + lo + j)
/-- Bytes of one lane in a group's lane section. -/
def laneBytes (a : Nat) : Nat := 4 * (16 + a) + 8 + 128 + 256
/-- A group's lane section: of each lane its registers, LO, its binding state and its ray slot. -/
def Group.lanesSection (g : Group) : List Byte :=
  (List.range g.width).flatMap fun l =>
    let lo := g.los.get l 0
    ((laneKeys l g.alloc lo).flatMap fun k => natLe 4 (g.vregs.get k 0).toNat) ++ natLe 8 lo ++ (g.binds.get l .none).bytes ++
      (List.range 32).flatMap fun k => natLe 8 ((g.slots.get l .empty).get k 0).toNat
/-- The two sections of a group, each filled up to a multiple of `k` bytes: 4 KiB in a team's image, 8 in an eviction area. -/
def Group.image (g : Group) (more : Bool) (k : Nat) : List Byte := padTo k (g.section_ more) ++ padTo k g.lanesSection

/-- What reading a group's sections gives: the group, whether another follows, where the next section begins, and whether an
entry breaks its layout. -/
structure GroupRead where
  group : Group
  more : Bool
  next : Nat
  bad : Bool
/-- A register of a lane's ring as a table entry; a zero needs none. -/
def putReg (t : Tab Word) (k v : Nat) : Tab Word := if v = 0 then t else t.put k (BitVec.ofNat 32 v)
/-- One lane read from its bytes. -/
def Group.readLane (g : Group) (l : Nat) (b : List Byte) : Group :=
  let a := g.alloc
  let lo := leNat ((b.drop (4 * (16 + a))).take 8) % 1024
  let ks := laneKeys l a lo
  { g with
    los := if lo = 0 then g.los else g.los.put l lo
    vregs := (List.range ks.length).foldl (fun t i => putReg t (ks.getD i 0) (leNat ((b.drop (4 * i)).take 4))) g.vregs
    binds := (let x := bindingOf ((b.drop (4 * (16 + a) + 8)).take 128); if x = .none then g.binds else g.binds.put l x)
    slots := (let ws := dwordsOfBytes 32 (b.drop (4 * (16 + a) + 136))
              if ws.all (· == 0) then g.slots
              else g.slots.put l ((List.range 32).foldl (fun t k => if wordAt ws k = 0 then t else t.put k (wordAt ws k)) .empty)) }
/-- The device's own words of a group read, with its path table `pw` and trap frames `fw`: an entry whose V is 1 is a path, whether or not
those words list it (spec/15 R341). -/
def rdGroup (team c slot : Nat) (pw fw : Nat → List Dword) : Rd (Group × Bool) := do
  let more ← rdBool
  let number ← rdWord
  let role ← rdWord
  let width ← rdWord
  let launched ← rdDword
  let idle ← rdDword
  let exited ← rdDword
  let alloc ← rdWord
  let retired ← rdBool
  let admitted ← rdWord
  let traced ← rdDword
  let spilled ← rdTab rdWord
  let lwb ← rdTab rdWord
  let hitRec ← rdTab rdDword
  let replayIdx ← rdTab rdWord
  let xs ← rdTab (do return (← rdWord, ← rdExtra))
  let fresh := 1 + xs.cells.foldl (fun a x => max a x.2.1) 0
  let path (i : Nat) : Path :=
    let w := pw i
    let w2 := wordAt w 2
    let x := xs.get i (fresh + i, {})
    { th := threadOf (wordAt w 1) (wordAt w 3) (BitVec.ofNat 32 (fld w2 32 32)) (stateOfCode (fld w2 1 3)) (fw i) (.path c slot i) x.2
      mask := wordAt w 0, arm := w2.getLsbD 4, partner := fld w2 5 5, stk := fld w2 10 6, stkv := w2.getLsbD 16, wb := fld w2 17 10
      fam := x.1 }
  let paths := (List.range 32).foldl (fun t i => if (wordAt (pw i) 2).getLsbD 0 then t.put i (path i) else t) Tab.empty
  pure ({ Group.none with
    team := team, number := number % 32, role := role % 4, width := min 64 width, launched := launched, idle := idle
    exited := exited, alloc := min 255 alloc, retired := retired, admitted := admitted, traced := traced, spilled := spilled
    lwb := lwb, hitRec := hitRec, replayIdx := replayIdx, paths := paths }, more)
/-- The sections of a group at `pa`, each a multiple of `al` bytes, for the slot it is to take. -/
def State.readGroup (s : State) (al pa team c slot : Nat) : GroupRead :=
  let ws (o n : Nat) : List Dword := dwordsOfBytes n (s.mem.read (pa + o) (8 * n))
  let pw (i : Nat) : List Dword := ws (32 * i) 4
  let fw (i : Nat) : List Dword := ws (1024 + 48 * i) 6
  let ew (e : Nat) : List Dword := ws (2560 + 32 * e) 4
  let n := leNat (s.mem.read (pa + groupFixed) 8)
  let own := (dwordsOfBytes n (s.mem.read (pa + groupFixed + 8) (8 * n))).map (·.toNat)
  let r := ((rdGroup team c slot pw fw).run own).1
  let g := r.1
  let sregs := (List.range 160).foldl (fun t k => let v := wordAt (ws (4608 + 8 * k) 1) 0; if v = 0 then t else t.put k v) Tab.empty
  let stall := (List.range 16).foldl (fun t k => putReg t k (leNat (s.mem.read (pa + 5896 + 4 * k) 4))) Tab.empty
  let used := g.paths.cells.foldl (fun a p => if p.2.stkv then p.2.stk :: a else a) []
  let stack := (List.range 64).foldl (fun t e =>
    let w := ew e
    if w.all (· == 0) && !used.contains e then t else
    t.put e { rmask := wordAt w 0, pmask := wordAt w 1, ppc := wordAt w 2, fmt := BitVec.ofNat 32 (fld (wordAt w 3) 0 32)
              kind := (wordAt w 3).getLsbD 32, half := (wordAt w 3).getLsbD 33, next := fld (wordAt w 3) 34 6
              nextv := (wordAt w 3).getLsbD 40, nochk := (wordAt w 3).getLsbD 41 }) Tab.empty
  let g : Group := { g with sregs := sregs, stall := stall, stack := stack, xflags := BitVec.ofNat 7 (leNat (s.mem.read (pa + 5888) 8)) }
  let lanesAt := pa + alignUp (groupFixed + 8 + 8 * n) al
  let lb := laneBytes g.alloc
  let g := (List.range g.width).foldl (fun g l => g.readLane l (s.mem.read (lanesAt + lb * l) lb)) g
  { group := g
    more := r.2
    next := lanesAt + alignUp (lb * g.width) al
    bad := ((List.range 32).any fun i => pathBad (pw i) || frameBad (fw i)) || ((List.range 64).any fun e => stackBad (ew e)) ||
      (g.slots.cells.any fun x => !slotTidy x.2) ||
      (g.paths.cells.any fun p => p.2.mask &&& ~~~g.launched != 0) }

/-! Teams. -/

/-- The number that a group slot's group has in its team. -/
def State.numberOf (s : State) (c slot : Nat) : Nat := (s.group c slot).number
/-- A set of small numbers as bits. -/
def bitsOf (l : List Nat) : Nat := (dedup l).foldl (fun a k => a + 2 ^ k) 0
/-- The numbers below `n` whose bit is set. -/
def bitsUnder (n v : Nat) : List Nat := (List.range n).filter v.testBit
/-- The place of a held command, or of a number in the order of issue, among the team's held commands. -/
def Team.orderOf (t : Team) (id : Nat) : Nat := (t.cmds.filter fun x => decide (x.id < id)).length
/-- The batch whose latest closure holds a command (spec/04 R99). -/
def Team.batchOf (t : Team) (x : Cmd) : Option Nat :=
  (t.closures.cells.find? fun b => decide (b.2.1 ≤ x.id) && decide (x.id < b.2.2)).map (·.1)
/-- A held command's 64-byte entry (spec/15 R340): its words, guard, batch and place in issue order, its tiles, the end of its lines, its
progress and its operands. -/
def Cmd.entry (t : Team) (x : Cmd) : List Byte :=
  let w := wordsOf x.instr
  let b := t.batchOf x
  bytesOfDwords
    ([BitVec.ofNat 64 (w.1 + w.2 * 2 ^ 32),
      packD [((x.guard.map (·.1)).getD 0, 2), (putBool x.guard.isSome, 6), (putBool ((x.guard.map (·.2)).getD false), 7),
             (putBool x.go.isSome, 8), (putBool (x.go.getD false), 9), (putBool x.begun, 10), (putBool x.doomed, 11), (x.ops.length, 12),
             (b.getD 0, 15), (putBool b.isSome, 19), (t.orderOf x.id, 20), (bitsOf x.rdTiles, 32), (bitsOf x.wrTiles, 36),
             (x.lines.foldl (fun a l => max a (l + 1)) 0, 40)],
      BitVec.ofNat 64 x.progress] ++ (List.range 5).map (wordAt x.ops))
/-- What of a held command its entry does not hold: the record that it uses, its park, and the bytes of a row that it has taken and not
yet written. -/
def Cmd.rest (x : Cmd) : List Nat :=
  putOpt (x.record.map fun r => putNats (r.map (·.toNat))) ++ putOpt (x.park.map fun p => [p.1, p.2.toNat]) ++
    [x.buf.length] ++ (dwordsOfBytes ((x.buf.length + 7) / 8) x.buf).map (·.toNat)
/-- A held command read: its batch, and the command, where its words are an instruction's. -/
structure CmdRead where
  batch : Option Nat
  cmd : Option Cmd
/-- A command from its entry and the words that are read. -/
def rdCmd (b : List Byte) : Rd CmdRead := do
  let w := dwordsOfBytes 8 b
  let f := wordAt w 1
  let ops := (w.drop 3).take (min 5 (fld f 12 3))
  let record ← rdOpt (rdList rdDword)
  let park ← rdOpt (do return (← rdWord, ← rdDword))
  let n ← rdWord
  let left ← get
  let bs ← rdMany rdDword (min ((n + 7) / 8) left.length)
  pure
    { batch := if f.getLsbD 19 then some (fld f 15 4) else none
      cmd := match decode (natLe 8 (wordAt w 0).toNat) with
        | .error _ => none
        | .ok (i, _) => some
            { id := fld f 20 12, instr := i, ops := ops, record := record
              guard := if f.getLsbD 6 then some (fld f 2 4, f.getLsbD 7) else none
              go := if f.getLsbD 8 then some (f.getLsbD 9) else none
              lines := (List.range (fld f 40 12)).drop ((wordAt ops 0).toNat / 256)
              rdTiles := bitsUnder 4 (fld f 32 4), wrTiles := bitsUnder 4 (fld f 36 4)
              progress := (wordAt w 2).toNat, begun := f.getLsbD 10, buf := (bytesOfDwords bs).take n, failed := false
              doomed := f.getLsbD 11, park := park } }
/-- The scratchpad lines that a command may write: those that it cleared at issue (spec/02 R53). -/
def Team.cmdLines (t : Team) (x : Cmd) : List Nat :=
  let op (k : Nat) : Nat := (wordAt x.ops k).toNat
  let recv (red : Bool) (y : CollX) : List Nat :=
    if !y.dsp then [] else match x.record with
      | .none => x.lines
      | some r => t.linesOf (op 0) (colRecv red y.q8 r)
  match x.instr with
  | .cpy _ y =>
    if cpyBox y.mode.toNat then (if y.mode == 4 then t.boxLines x.record x.ops else [])
    else if cpyToSp y.mode.toNat && decide (op 2 ≤ 2 ^ 30) then t.linesOf (op 0) (op 2) else []
  | .zfill _ y => if y.sp && decide (op 1 ≤ 2 ^ 30) then t.linesOf (op 0) (op 1) else []
  | .mstore _ y => if y.sp then t.storeLines y (op 0) (op 1) else []
  | .mtopk _ y => t.linesOf (op 0) (8 * (y.km1.toNat + 1) * topkRows (wordAt x.ops 1))
  | .callred _ y => recv true y
  | .cgather _ y => recv false y
  | _ => []
/-- 144 bits as three words. -/
def putPartial (p : Partial) : List Nat :=
  [p.row, p.pos, p.sq.toNat % 2 ^ 64, p.sq.toNat / 2 ^ 64 % 2 ^ 64, p.sq.toNat / 2 ^ 128, p.wcnt.toNat]
/-- A partial read back. -/
def rdPartial : Rd Partial := do
  let row ← rdWord
  let pos ← rdWord
  let a ← rdWord
  let b ← rdWord
  let d ← rdWord
  let w ← rdWord
  pure { row := row, pos := pos, sq := BitVec.ofNat 144 (a + b * 2 ^ 64 + d * 2 ^ 128), wcnt := BitVec.ofNat 16 w }
/-- The team's objects: its queues, barriers with their arrivals by group, guards, rendezvous slots and operand maps; how many held
commands its next BFENCE does not close, its latest error record, its halts; its span; and what the entries of its commands leave. -/
def Team.objects (t : Team) : List Nat :=
  let dw (l : List Dword) : List Nat := putNats (l.map (·.toNat))
  [t.grid] ++ putTab dw t.queues ++
    putTab (fun (b : Barrier) => [b.phase, putBool b.seq] ++ putOpt (b.set.map fun k => [k]) ++
      putList (b.arrived.cells.map fun m => [t.slots.idxOf m.1, m.2.toNat])) t.bars ++
    putTab (fun b => [putBool b]) t.guards ++
    putTab (fun (x : XSlot) => x.mask.toNat :: putTab (fun (v : Dword) => [v.toNat]) x.vals) t.xslots ++
    putTab dw t.oms ++ [t.orderOf t.fenceLo] ++
    putOpt (t.errRec.map dw) ++ putNats t.haltPending ++ [putBool t.seqExited] ++ putList (t.partials.map putPartial) ++
    [t.trunk.pos] ++ putNats t.trunk.members ++ putTab (fun (q : EngQueue) => [putBool q.halted]) t.eng ++
    t.seq.extra ++ t.eng.cells.flatMap fun q => q.2.cmds.flatMap Cmd.rest
/-- A closure of a batch that holds the commands read for it, and no other held command. -/
def closureOf (ids : List Nat) : Nat × Nat :=
  (ids.foldl min (ids.headD 0), ids.foldl (fun a k => max a (k + 1)) 0)
/-- The team with the commands read: each in its queue, and in the closure of its batch. -/
def Team.withCmds (t : Team) (xs : List CmdRead) : Team :=
  let ids (n : Nat) : List Nat := xs.filterMap fun x => if x.batch == some n then x.cmd.map (·.id) else .none
  let t := xs.foldl (fun t x => match x.cmd with
    | some y => t.onEngq (engQueue y.instr) fun e => { e with cmds := e.cmds ++ [y] }
    | .none => t) t
  { t with
    nextCmd := t.cmds.foldl (fun a x => max a (x.id + 1)) t.fenceLo
    closures := (List.range 16).foldl (fun c n => if (ids n).isEmpty then c else c.put n (closureOf (ids n))) .empty }
/-- The team that its objects describe; `seq` is its sequencer as its section gives it, `cmds` the entries of its commands. An operand
map that is none of this team's is not taken: it could reach beyond the team's scratchpad (spec/11 R250, spec/15 R367). -/
def rdTeam (tm : Team) (seq : ThreadExtra → Thread) (cmds : List (List Byte)) : Rd Team := do
  let dw : Rd (List Dword) := rdList rdDword
  let grid ← rdWord
  let queues ← rdTab dw
  let bars ← rdTab (do
    let ph ← rdWord
    let sq ← rdBool
    let set ← rdOpt rdWord
    let arrived ← rdList (do return (← rdWord, ← rdDword))
    pure { phase := ph, seq := sq, set := set
           arrived := arrived.foldl (fun a m => match tm.slots[m.1]? with
             | some g => a.put g m.2
             | none => a) .empty })
  let guards ← rdTab rdBool
  let xslots ← rdTab (do
    let m ← rdDword
    let v ← rdTab rdDword
    pure ({ mask := m, vals := v } : XSlot))
  let oms ← rdTab dw
  let fenceLo ← rdWord
  let errRec ← rdOpt dw
  let haltPending ← rdNats
  let seqExited ← rdBool
  let partials ← rdList rdPartial
  let pos ← rdWord
  let members ← rdNats
  let eng ← rdTab (do return { EngQueue.none with halted := ← rdBool })
  let th ← rdExtra
  let xs ← cmds.mapM rdCmd
  let t : Team :=
    { tm with
      grid := grid, queues := queues, bars := bars, guards := guards, xslots := xslots
      oms := { cells := oms.cells.filter fun (x : Nat × List Dword) => tm.mapOk x.2 }
      fenceLo := fenceLo, errRec := errRec, haltPending := haltPending, seqExited := seqExited
      partials := partials, trunk := { tm.trunk with pos := pos, members := members }, eng := eng, seq := seq th }
  pure (t.withCmds xs)

/-- The team with the lines of its scratchpad that `absent` lists absent, and no other: a held command has those of its lines that
are; one that no held command is to write stays absent (spec/15 R340, R341). -/
def Team.withAbsent (t : Team) (absent : List Nat) : Team :=
  let keep (x : Cmd) : Cmd := { x with lines := (dedup (t.cmdLines x)).filter absent.contains }
  let t : Team := { t with eng := { cells := t.eng.cells.map fun (q : Nat × EngQueue) => (q.1, { q.2 with cmds := q.2.cmds.map keep }) } }
  let held := t.cmds.flatMap fun (x : Cmd) => x.lines
  { t with absent := absent.filter fun l => !held.contains l }

/-- The sequencer's section. -/
def Team.seqSection (t : Team) : List Byte :=
  ((List.range 160).flatMap fun k => natLe 8 (t.seqRegs.get k 0).toNat) ++
    bytesOfDwords ([codeAddr t.seq.pc, codeAddr t.seq.runpc, packD [(t.seq.fmt.toNat, 0), (stateCode t.seq.state, 32)]] ++
      t.seq.frame.words)
/-- The scratchpad's section: its bytes, then a byte for each line. -/
def State.spSection (s : State) (c t : Nat) : List Byte :=
  let tm := s.team c t
  s.spRead c t 0 tm.spSize ++ (List.range (tm.spSize / 256)).map fun l =>
    BitVec.ofNat 8 (putBool (!tm.spAbsent (256 * l) 256) +
      (List.range 4).foldl (fun a q => a + putBool (s.spPoisoned c t (256 * l + 64 * q) 64) * 2 ^ (q + 1)) 0)
/-- The tiles' section: their images, then a word of flags for each: valid, and ready, which follows from the held commands. -/
def State.tileSection (s : State) (c t : Nat) : List Byte :=
  let tm := s.team c t
  let ts := tm.tiles.map fun n => (s.core c).tiles.get n .zero
  ts.flatMap (fun (x : Tile) => x.image) ++
    (List.range ts.length).flatMap fun k => natLe 8 (putBool (ts.getD k .zero).valid + 2 * putBool (tm.tileReady k))
/-- The trunk's section: its rows' images, then the block's L and span. -/
def State.trunkSection (s : State) (c t : Nat) : List Byte :=
  let k := (s.team c t).trunk
  ((List.range k.rows).flatMap fun r => s.rowImage c t r) ++ natLe 8 k.rowLen ++ natLe 8 k.span
/-- The role table's words. -/
def roleWord (k : Kernel) (r : Nat) : Dword :=
  match (kernelRoles k)[r]? with
  | some x => packD [(x.groups, 0), (x.regs, 6), (x.prio, 15)]
  | none => 0
/-- An image's header (spec/15 R367) of `size` bytes. -/
def State.imageHeader (s : State) (c t size : Nat) : List Byte :=
  let tm := s.team c t
  let k := tm.kernel
  let g := s.grid tm.grid
  bytesOfDwords
    [packD [(1, 0), (1, 1), (size, 32)], packD [(tm.ctx, 0), (tm.number, 16)], BitVec.ofNat 64 (g.descAddr % 2 ^ 56),
     packD [(kernelGroups k, 0), (widthCode k.width, 6), ((kernelRoles k).length - 1, 8), (k.energy, 10)],
     packD [(tm.spSize / 4096, 0), (tm.tiles.length, 8), (tm.trunk.size / 2048, 11), (tm.trunk.rowLen, 17), (tm.trunk.span - 1, 32),
            (putBool tm.coop, 36)],
     roleWord k 0, roleWord k 1, roleWord k 2, roleWord k 3] ++ List.replicate 184 0
/-- The groups of a team in ascending slot, with those out on eviction. -/
def State.teamGroups (s : State) (c t : Nat) : List Group :=
  let k := s.core c
  let es := k.evicted.filter fun e => e.group.team == t
  (List.range Config.groupSlots).flatMap fun n =>
    (match k.groups.find n with
      | some g => if g.team = t then [g] else []
      | none => []) ++ (es.filter fun e => e.slot == n).map (·.group)
/-- A team's image (spec/15 R340); every unit of the team stands still. -/
def State.teamImage (s : State) (c t : Nat) : List Byte :=
  let tm := s.team c t
  let gs := s.teamGroups c t
  let groups := (List.range gs.length).flatMap fun i => (gs.getD i .none).image (decide (i + 1 < gs.length)) 4096
  let own := tm.objects
  let cmds := tm.eng.cells.flatMap fun q => q.2.cmds.flatMap (Cmd.entry tm)
  let rest := groups ++ padTo 4096 tm.seqSection ++
    padTo 4096 (natLe 8 own.length ++ natLe 8 (cmds.length / 64) ++ ownBytes own) ++ padTo 4096 (s.spSection c t) ++
    padTo 4096 (s.tileSection c t) ++ padTo 4096 (s.trunkSection c t) ++ cmds
  padTo 4096 (s.imageHeader c t (4096 + rest.length)) ++ rest

end Sys2Proof.Machine
end

