-- ==== Sys2Proof/Machine/Preempt.lean ====
section
/-! DEFINITION. Answers to fault records, invalidations, register growth with its eviction, saving, resuming and tearing down
teams (spec/01 R36 to R43, spec/05 R133, spec/08 R197, spec/14 R318, spec/15 R337 to R342, spec/16 R346, R347). -/
namespace Sys2Proof.Machine

/-! Answers to NOTPRESENT records (spec/01 R36, R37, R40). -/

/-- FAULT_RECORD_WRITE (spec/01 R39). -/
def execFaultRecordWrite (ctx : Nat) (s : State) : Answer := .next (s.writeRecord ctx)
/-- RETRY of a parked unit: it issues again from its PC, or goes back to the spill engine. -/
def State.retryPark (s : State) (u : UnitId) : State :=
  s.onThread u fun t =>
    if t.wait.isSome then { t with state := .spill, park := none } else { t.restart t.pc with park := none }
/-- ABORT of a parked unit: the lanes that faulted take the fault, apart from the others where an entry is free; inside a handler, or
with none, it tears the team down (spec/15 R329). -/
def State.abortPark (s : State) (u : UnitId) (p : Park) : State :=
  let t := s.thread u
  let d (h : UnitId) (all : Bool) : Delivery :=
    { dest := h, lanes := p.mask, cause := 0, detail := 0, addr := p.addr, all := all, rpc := t.runpc, fpc := p.pc }
  match u with
  | .path c g i =>
    if s.canSplit u p.mask && !s.tears u then
      let h := UnitId.path c g (s.group c g).nextPath
      let s := s.onGroup c g fun k => (k.onPath i fun q => q.without p.mask).newPath ((s.pathOf u).splitOff p.mask)
      (s.retryPark u).takeTrap (d h false)
    else s.takeTrap (d u (p.mask != s.maskOf u))
  | _ => s.takeTrap (d u false)
/-- A parked unit has its answer. -/
def State.answerUnit (s : State) (u : UnitId) (seq : Nat) (abort : Bool) : State :=
  match (s.thread u).park with
  | none => s
  | some p =>
    if (s.thread u).state != .parked || !p.seqs.contains seq then s
    else if abort then s.abortPark u p else s.retryPark u
/-- A held command has its answer: it goes on, or ends as ill-formed (spec/01 R37, spec/15 R336). -/
def State.answerEngine (s : State) (c t q seq : Nat) (abort : Bool) : State :=
  match ((s.team c t).engq q).cmds with
  | [] => s
  | x :: _ => match x.park with
    | none => s
    | some (n, a) =>
      if n != seq then s
      else if abort then s.illFormed c t q x 0x09 a else s.onHead c t q fun y => { y with park := none }
/-- A requester has its answer. -/
def State.answer (s : State) (ctx seq : Nat) (r : Requester) (abort : Bool) : State :=
  match r with
  | .unit u => s.answerUnit u seq abort
  | .engine c t q => s.answerEngine c t q seq abort
  | .failing _ _ _ _ => s
  | .deferred n => s.lateAnswer n abort
  | .saved => s.onCtx ctx fun k => { k with answers := (seq, abort) :: k.answers }
/-- A write of FRESUME with RETRY or ABORT in a grove's window. -/
def State.fresume (s : State) (g ctx seq : Nat) (abort : Bool) : State :=
  let k := s.ctx ctx
  if !s.up then s else
  match k.outstanding.find? fun o => o.seq == seq with
  | none => s.windowErr g
  | some o =>
    if k.desc.grove != g then s.windowErr g else
    (s.onCtx ctx fun k => { k with outstanding := k.outstanding.filter fun o => o.seq != seq }).answer ctx seq o.req abort
/-- FRESUME with RETRY. -/
def execFresumeRetry (g : Nat) (ctx : BitVec 12) (seq : Word) (s : State) : Answer := .next (s.fresume g ctx.toNat seq.toNat false)
/-- FRESUME with ABORT. -/
def execFresumeAbort (g : Nat) (ctx : BitVec 12) (seq : Word) (s : State) : Answer := .next (s.fresume g ctx.toNat seq.toNat true)

/-! Invalidations (spec/01 R41 to R43). -/

/-- The registers of a window: a grove's, or those of module scope. -/
def State.window (s : State) (w : Option Nat) : Window :=
  match w with
  | some g => (s.grove g).win
  | none => s.pf.win
/-- A window's registers changed by `f`. -/
def State.onWindow (s : State) (w : Option Nat) (f : Window → Window) : State :=
  match w with
  | some g => s.onGrove g fun k => { k with win := f k.win }
  | none => { s with pf := { s.pf with win := f s.pf.win } }
/-- ERR of TISTAT set. -/
def State.tiRefuse (s : State) (w : Option Nat) : State := s.onWindow w fun k => { k with tiErr := true }
/-- An invalidation command enqueued, or refused: where 16 are outstanding, or it reaches outside a grove's window. -/
def State.tiCommand (s : State) (w : Option Nat) (c : TiCmd) : State :=
  let outside := match w with
    | none => false
    | some g => match c.kind with
      | 0 => (s.ctx c.ctx).desc.grove != g
      | 1 => (s.ctx c.ctx).desc.grove != g
      | 2 => c.grove != g
      | _ => true
  if !s.up then s
  else if outside || decide (16 ≤ (s.window w).tiq.length) then s.tiRefuse w
  else s.onWindow w fun k => { k with tiq := k.tiq ++ [c] }
/-- TICMD, KIND 0. -/
def execTicmdPage (w : Option Nat) (ctx : BitVec 12) (tag : Word) (s : State) : Answer :=
  .next (s.tiCommand w { kind := 0, va := (s.window w).tiva.toNat, ctx := ctx.toNat, grove := 0, tag := tag })
/-- TICMD, KIND 1. -/
def execTicmdContext (w : Option Nat) (ctx : BitVec 12) (tag : Word) (s : State) : Answer :=
  .next (s.tiCommand w { kind := 1, va := 0, ctx := ctx.toNat, grove := 0, tag := tag })
/-- TICMD, KIND 2. -/
def execTicmdGrove (w : Option Nat) (grove : BitVec 6) (tag : Word) (s : State) : Answer :=
  .next (s.tiCommand w { kind := 2, va := 0, ctx := 0, grove := grove.toNat, tag := tag })
/-- TICMD, KIND 3. -/
def execTicmdAll (w : Option Nat) (tag : Word) (s : State) : Answer :=
  .next (s.tiCommand w { kind := 3, va := 0, ctx := 0, grove := 0, tag := tag })
/-- Does a command cover context `c`? -/
def State.tiCovers (s : State) (x : TiCmd) (c : Nat) : Bool :=
  match x.kind with
  | 0 => c == x.ctx
  | 1 => c == x.ctx
  | 2 => (s.ctx c).desc.grove == x.grove
  | _ => true
/-- Does a command remove a TLB entry? -/
def State.tiHits (s : State) (x : TiCmd) (e : TlbEntry) : Bool :=
  s.tiCovers x e.ctx && (x.kind != 0 || e.base == x.va / pageBytes e.level * pageBytes e.level)
/-- Does a command remove a walk-cache entry: one on the path to the page, or any of a context that it covers? -/
def State.tiPath (s : State) (x : TiCmd) (e : WalkEntry) : Bool :=
  s.tiCovers x e.ctx && (x.kind != 0 || e.base == x.va / spanBytes e.level)
/-- One node after a command: what was written through any entry, those that have left the TLB before among them, is at home (spec/01
R42 item 2), the entries that it removes are gone, no read made early is left, and, but for a page command, the descriptors are read again. -/
def State.tiNode (s : State) (x : TiCmd) (n : Nat) : State :=
  (s.drainAll n).onCaches n fun m =>
    { m with
      tlb := m.tlb.filter fun e => !s.tiHits x e
      ahead := []
      descs := if x.kind = 0 then m.descs else m.descs.keep fun c => !s.tiCovers x c }
/-- An invalidation command done everywhere; but for a page command, the layout records of its contexts go (spec/02 R76). -/
def State.invalidate (s : State) (x : TiCmd) : State :=
  let nodes := s.cores.keys ++ s.lanterns.keys.map (512 + ·)
  let s := nodes.foldl (fun s n => s.tiNode x n) s
  let s := { s with walks := { cells := s.walks.cells.map fun d => (d.1, d.2.filter fun e => !s.tiPath x e) } }
  if x.kind = 0 then s else
  { s with cores := { cells := s.cores.cells.map fun c =>
      (c.1, { c.2 with layouts := c.2.layouts.filter fun e => !s.tiCovers x e.ctx }) } }
/-- INVALIDATION_COMPLETE: the oldest command of a window is done, and DONE takes its TAG. -/
def execInvalidationComplete (w : Option Nat) (s : State) : Answer :=
  .next (match (s.window w).tiq with
    | [] => s
    | x :: rest => (s.invalidate x).onWindow w fun k => { k with tiq := rest, tiDone := x.tag })

/-! Units that stand still, and units that come back. -/

/-- A unit stops where it is: one that waits is to repeat its run, and an arrival it has made is taken back
(spec/15 R339, spec/05 R135). -/
def State.quietUnit (s : State) (u : UnitId) : State :=
  let s := s.leave u
  if (s.thread u).state != .waiting then s else
  (s.unarrive u).onThread u fun t => { t.restart t.runpc with state := .waiting }
/-- Every path of a group stops. -/
def State.quietGroup (s : State) (c g : Nat) : State :=
  (s.group c g).paths.keys.foldl (fun s i => s.quietUnit (.path c g i)) s
/-- The records that units or commands `sel` are parked on are from now on records of a team that is out. -/
def State.unlink (s : State) (ctx : Nat) (sel : Requester → Bool) : State :=
  s.onCtx ctx fun k =>
    { k with
      outstanding := k.outstanding.map fun o => if sel o.req then { o with req := .saved } else o
      pend := k.pend.map fun r => match r.out with
        | some q => if sel q then { r with out := some .saved } else r
        | none => r }
/-- A parked unit or command that has come back, with the records it is parked on: an answer given in the meantime applies; a
record still outstanding is its own again; with neither it walks again. -/
def State.relink (s : State) (ctx : Nat) (seqs : List Nat) (r : Requester) : State :=
  if seqs.isEmpty then s else
  let k := s.ctx ctx
  match k.answers.find? fun a => seqs.contains a.1 with
  | some a => (s.onCtx ctx fun k => { k with answers := k.answers.filter fun x => !seqs.contains x.1 }).answer ctx a.1 r a.2
  | none =>
    let mine (n : Nat) : Bool := seqs.contains n
    if (k.outstanding.any fun o => mine o.seq) || k.pend.any fun x => mine x.seq then
      s.onCtx ctx fun k =>
        { k with
          outstanding := k.outstanding.map fun o => if mine o.seq then { o with req := r } else o
          pend := k.pend.map fun x => if mine x.seq && x.out.isSome then { x with out := some r } else x }
    else s.answer ctx (seqs.headD 0) r false
/-- A unit that has come back. -/
def State.relinkUnit (s : State) (ctx : Nat) (u : UnitId) : State :=
  s.relink ctx (((s.thread u).park.map (·.seqs)).getD []) (.unit u)
/-- Is a unit of the list still to take a trap that is held for its record? -/
def State.trapOwed (s : State) (ctx : Nat) (sel : UnitId → Bool) : Bool :=
  (s.ctx ctx).pend.any fun r => r.deliver.any fun d => sel d.dest

/-! Growth and eviction (spec/05 R133, spec/14 R318, spec/16 R346). -/

/-- Does the thread wait in GROW? -/
def Thread.growing (t : Thread) : Bool := match t.waiting with
  | some (.grow _) => true
  | _ => false
/-- Is a group blocked in GROW: does a path of it wait there, and is none ready? -/
def Group.growBlocked (g : Group) : Bool :=
  (g.paths.cells.any fun p => p.2.th.growing) && !(g.paths.cells.any fun p => p.2.th.state == .ready)
/-- Is unit `u` a path of group slot `g` of core `c`? -/
def isPathOf (c g : Nat) (u : UnitId) : Bool := match u with
  | .path c' g' _ => c' == c && g' == g
  | _ => false
/-- Can a group's request be granted now? -/
def Core.growFits (k : Core) (g : Group) : Bool :=
  match g.growReq with
  | some a => decide (k.regsUsed + g.width * (a - g.alloc) ≤ Config.laneRegs)
  | .none => false
/-- Is every resident group of a core blocked in GROW, with no request that can be granted? -/
def State.growStuck (s : State) (c : Nat) : Bool :=
  let k := s.core c
  let gs := k.groups.cells.filter fun g => !g.2.retired && g.2.live != 0
  !gs.isEmpty && (gs.all fun g => g.2.growBlocked && !k.growFits g.2 && !s.trapOwed (k.teams.get g.2.team .none).ctx (isPathOf c g.1))
/-- The order of victims: the most registers, the lowest role priority, the latest admission, the highest slot. -/
def State.victimKey (s : State) (c : Nat) (g : Nat × Group) : List Nat :=
  [g.2.width * (16 + g.2.alloc), 3 - s.priority (.path c g.1 0), g.2.admitted, g.1]
/-- Is a list of numbers greater, first item first? -/
def listGt : List Nat → List Nat → Bool
  | a :: r, b :: q => decide (b < a) || (a == b && listGt r q)
  | _, _ => false
/-- The victim. -/
def State.growVictim (s : State) (c : Nat) : Option (Nat × Group) :=
  ((s.core c).groups.cells.filter fun g => !g.2.retired && g.2.live != 0).foldl (fun b g =>
    if b.all fun x => listGt (s.victimKey c g) (s.victimKey c x) then some g else b) none
/-- The grove of a core. -/
def State.groveOfCore (s : State) (c : Nat) : Nat := fld (s.pf.standgrv.get (c / 8) 0) 0 6
/-- Where a core's evicted groups go, if the area is valid (spec/16 R346). -/
def State.evictArea (s : State) (c : Nat) : Option Nat :=
  let g := s.groveOfCore c
  let cs := s.groveCores g
  let base := (s.grove g).evbase.toNat
  if base = 0 || !rangeInHbm base (2 ^ 20 * cs.length) then none else (cs.findIdx? (· == c)).map fun k => base + 2 ^ 20 * k
/-- The lowest place for `len` bytes in a core's MiB of the eviction area that leaves the images of the groups out, each with its
length, alone: the area's start, or the end of one of them. -/
def evictPlace (area len : Nat) (out : List (Nat × Nat)) : Option Nat :=
  ((area :: out.map fun e => e.1 + e.2).filter fun p =>
    decide (area ≤ p) && decide (p + len ≤ area + 2 ^ 20) && out.all fun e => !overlaps p len e.1 e.2).min?
/-- The victim saved to the eviction area, or its team torn down where the area is not valid, or holds no room for it
(notes/assumptions/28.md). -/
def State.evictOne (s : State) (c : Nat) : State :=
  match s.growVictim c with
  | none => s
  | some (g, k) =>
    let ctx := (s.team c k.team).ctx
    let im := ((s.quietGroup c g).group c g).image false 8
    match (s.evictArea c).bind fun area => evictPlace area im.length ((s.core c).evicted.map fun e => (e.pa, e.len)) with
    | none => s.tearTeam (.seq c k.team) 0x13 0
    | some pa =>
      let s := (s.quietGroup c g).unlink ctx fun r => match r with
        | .unit u => isPathOf c g u
        | _ => false
      let k := s.group c g
      let s := (s.releaseAll c).writeHome pa im 1
      s.onCore c fun q =>
        { q with groups := q.groups.drop g, evicted := q.evicted ++ [{ slot := g, pa := pa, len := im.length, group := k }] }
/-- Every request that fits is granted, in ascending group slot. -/
def State.growAll (s : State) (c : Nat) : State := (List.range Config.groupSlots).foldl (fun s g => s.growGrant c g) s
/-- While the core is stuck, a victim leaves it and requests are granted: `n` times at most. -/
def State.growRelieve (c : Nat) : Nat → State → State
  | 0, s => s
  | n + 1, s => if s.growStuck c then growRelieve c n ((s.evictOne c).growAll c) else s
/-- GROW: a larger stack allocation is asked for, and waited for (spec/05 R133, spec/08 R197). -/
def execGrow (f : GA) (s : State) : Answer :=
  issue (.grow f) s fun u s =>
    let a := (s.srcG u f.a.toNat).toNat
    let s := s.dropOut u none
    if 255 < a then s.faultUnit u illegalOperand
    else if a ≤ (s.groupOf u).alloc then s.doneG u (.grow f)
    else
      let s := (s.waitIn u { instr := .grow f, lo := a }).onGroupOf u fun k =>
        { k with growReq := some (max a (k.growReq.getD 0)) }
      State.growRelieve u.place Config.groupSlots s
/-- GROW_GRANT (spec/05 R133). -/
def execGrowGrant (c g : Nat) (s : State) : Answer := .next (State.growRelieve c Config.groupSlots (s.growGrant c g))
/-- A group whose waiting paths are to repeat their instruction, as one read from an image is. -/
def Group.revived (g : Group) : Group :=
  { g with paths := { cells := g.paths.cells.map fun p =>
      (p.1, if p.2.th.state == .waiting then { p.2 with th := p.2.th.restart p.2.th.runpc } else p.2) } }
/-- The group that comes back to a core: as its image in memory gives it, unless that breaks its layout or has another size, where the
core has its own copy (spec/14 R318, notes/assumptions/28.md). -/
def State.evictedGroup (s : State) (c : Nat) (e : Evicted) : Group :=
  let r := s.readGroup 8 e.pa e.group.team c e.slot
  if r.bad || r.group.width != e.group.width || r.group.alloc != e.group.alloc then e.group.revived else r.group
/-- A group that is out comes back to its slot with the registers it had, if they fit; its waiting paths repeat their instruction. -/
def State.readmitOne (c : Nat) (s : State) (e : Evicted) : State :=
  let k := s.core c
  if Config.laneRegs < k.regsUsed + e.group.width * (16 + e.group.alloc) ∨ k.groups.has e.slot then s else
  let g := s.evictedGroup c e
  let s := s.onCore c fun q => { q with groups := q.groups.put e.slot g, evicted := q.evicted.erase e }
  g.paths.keys.foldl (fun s i => s.relinkUnit (s.team c g.team).ctx (.path c e.slot i)) (s.freshStream c e.slot)
/-- The groups that are out come back, in the order in which they left, each if it fits. -/
def State.readmit (s : State) (c : Nat) : State := (s.core c).evicted.foldl (State.readmitOne c) s
/-- EVICTED_GROUP_READMIT (spec/14 R318). -/
def execEvictedGroupReadmit (c : Nat) (s : State) : Answer := .next (State.growRelieve c Config.groupSlots (s.readmit c))

/-! Saving (spec/15 R338 to R340, spec/04 R113). -/

/-- Is a team resident: on a core, neither torn down nor retiring? -/
def Team.stays (t : Team) : Bool := !t.torn && t.retiring == 0
/-- The resident teams that a command names, in the order in which their grids started: core and slot. -/
def State.psTeams (s : State) (x : PsCmd) : List (Nat × Nat) :=
  s.grids.keys.flatMap fun gid =>
    if (s.grid gid).ctx != x.ctx then [] else
    (s.gridTeams gid).filter fun p =>
      let t := s.team p.1 p.2
      t.stays && (x.all || t.number == x.team)
/-- Does every unit of a team stand at a run start or in a wait, with nothing owed to it? -/
def State.canSave (s : State) (c t : Nat) : Bool :=
  ((s.teamUnits c t).all fun u => (s.thread u).state != .ready || (s.thread u).run.count == 0) &&
    !s.trapOwed (s.team c t).ctx (s.inTeam c t) && !s.teamOwes c t && !(s.team c t).cmds.any fun x => x.failed
/-- Does a requester belong to a team? -/
def State.requesterIn (s : State) (c t : Nat) (r : Requester) : Bool :=
  match r with
  | .unit u => s.inTeam c t u
  | .engine c' t' _ => c' == c && t' == t
  | .failing c' t' _ _ => c' == c && t' == t
  | _ => false
/-- A team stands still: every access of its parties has performed, and its units stop. -/
def State.quietTeam (s : State) (c t : Nat) : State :=
  let s := (s.teamUnits c t).foldl (fun s u => s.quietUnit u) s
  (s.releaseAll c).receivePartials c t
/-- A team that has been saved leaves its core, whose hit predictor forgets what it knew at this context switch (spec/13 R297). -/
def State.detachTeam (s : State) (c t : Nat) : State :=
  let tm := s.team c t
  let s := s.unlink tm.ctx (s.requesterIn c t)
  let g := s.grid tm.grid
  let s := { s with grids := s.grids.put tm.grid { g with away := tm.number :: g.away } }
  s.onCore c fun k =>
    { k with
      groups := { cells := k.groups.cells.filter fun g => g.2.team != t }
      evicted := k.evicted.filter fun e => e.group.team != t
      teams := k.teams.drop t
      tiles := tm.tiles.foldl (fun ts n => ts.drop n) k.tiles
      predictor := [] }
/-- A command of a window has completed: DONE takes its TAG, and a grove's window signals vector 3. -/
def State.psDone (s : State) (w : Option Nat) (tag : Byte) : State :=
  let s := s.onWindow w fun k => { k with psq := k.psq.tail, psDone := tag }
  match w with
  | some g => s.signal g 3
  | none => s
/-- A command of a window is refused when it is taken. -/
def State.psDrop (s : State) (w : Option Nat) : State := s.onWindow w fun k => { k with psq := k.psq.tail, psErr := true }
/-- Teams saved one after another from `pa` up, each at 64 KiB, then a header whose V is 0. -/
def State.saveAll (s : State) (pa : Nat) (ts : List (Nat × Nat)) : State :=
  let r := ts.foldl (fun (a : State × Nat) p =>
    let im := a.1.teamImage p.1 p.2
    ((a.1.writeHome a.2 im 1).detachTeam p.1 p.2, a.2 + alignUp im.length 65536)) (s, pa)
  r.1.writeHome r.2 (List.replicate 256 0) 1
/-- Bytes that a series of images takes. -/
def State.saveSize (s : State) (ts : List (Nat × Nat)) : Nat :=
  ts.foldl (fun a p => a + alignUp (s.teamImage p.1 p.2).length 65536) 256

/-! Resuming (spec/15 R341). -/

/-- A role of an image's header. -/
def headerRole (w : Dword) : Role := { groups := fld w 0 6, regs := fld w 6 9, prio := fld w 15 2 }
/-- The roles of an image's header. -/
def headerRoles (w : List Dword) : List Role := (List.range (fld (wordAt w 3) 8 2 + 1)).map fun r => headerRole (wordAt w (5 + r))
/-- Does an image's header keep spec/15 R367 and spec/05 R117, for a command that names context `ctx`? -/
def headerOk (w : List Dword) (ctx : Nat) : Bool :=
  let x (k : Nat) : Dword := wordAt w k
  let n := fld (x 3) 8 2
  fld (x 0) 0 1 == 1 && fld (x 0) 1 7 == 1 && fld (x 0) 8 24 == 0 && fld (x 1) 0 12 == ctx && fld (x 1) 12 4 == 0 &&
    fld (x 1) 48 16 == 0 && fld (x 2) 56 8 == 0 && fld (x 3) 6 2 != 3 && fld (x 3) 13 51 == 0 && fld (x 4) 37 27 == 0 &&
    decide (fld (x 4) 0 8 ≤ 224) && decide (fld (x 4) 8 3 ≤ 4) && decide (fld (x 4) 11 6 ≤ 32) && decide (128 ≤ fld (x 4) 17 15) &&
    decide (fld (x 4) 17 15 ≤ 16384) && decide (1 ≤ fld (x 3) 0 6) && decide (fld (x 3) 0 6 ≤ 32) &&
    (headerRoles w).foldl (fun a r => a + r.groups) 0 == fld (x 3) 0 6 &&
    (List.range 4).all (fun r => if r ≤ n then
        decide (1 ≤ fld (x (5 + r)) 0 6) && decide (64 ≤ fld (x (5 + r)) 6 9) && decide (fld (x (5 + r)) 6 9 ≤ 271) && fld (x (5 + r)) 17 47 == 0
      else x (5 + r) == 0) && (List.range 23).all fun k => x (9 + k) == 0
/-- The grid that an image names: that of its objects if DESC is its descriptor's address, else one of the context with that
descriptor (spec/15 R341, R367). -/
def State.gridNamed (s : State) (ctx gid desc : Nat) : Option Nat :=
  (gid :: s.grids.keys).find? fun n => s.grids.has n && (s.grid n).ctx == ctx && (s.grid n).descAddr % 2 ^ 56 == desc
/-- The groups of an image from `pa` on, for the slots given: the groups, the place after them, whether one breaks its layout. -/
def State.readGroups (s : State) (c t : Nat) : List Nat → Nat → List GroupRead
  | [], _ => []
  | slot :: rest, pa =>
    let r := s.readGroup 4096 pa t c slot
    if r.more then r :: s.readGroups c t rest r.next else [r]
/-- Does a row image's trailer set a reserved bit of the row flags (spec/11 R259)? -/
def rowFlagsBad (l : Nat) (b : List Byte) : Bool :=
  BitVec.ofNat 32 (leNat ((b.drop (8 * l + 18)).take 4)) &&& 0xFF0000FC != 0
/-- How the taking of a resume ends. -/
inductive ResumeEnd where
  | refused
  | waits
  | placed (s : State)
/-- A team image read for core `c`: refused, placed, or to wait where its resources are not free. -/
def State.resumeOn (s : State) (x : PsCmd) (c : Nat) : ResumeEnd :=
  let pa := x.img
  let w := dwordsOfBytes 32 (s.mem.read pa 256)
  let y (k : Nat) : Dword := wordAt w k
  if !headerOk w x.ctx then .refused else
  let k := s.core c
  match k.teams.free Config.teamSlots, k.trunkBlock (2048 * fld (y 4) 11 6) with
  | some t, some base =>
    let slots := (List.range Config.groupSlots).filter fun n => !k.groups.has n
    let gs := s.readGroups c t slots (pa + 4096)
    let sp := 4096 * fld (y 4) 0 8
    let nt := fld (y 4) 8 3
    let seqAt := (gs.getLast?.map (·.next)).getD 0
    let objAt := seqAt + 4096
    let nw := leNat (s.mem.read objAt 8)
    let nc := leNat (s.mem.read (objAt + 8) 8)
    let own := (dwordsOfBytes nw (s.mem.read (objAt + 16) (8 * nw))).map (·.toNat)
    let spAt := objAt + alignUp (16 + 8 * nw) 4096
    let tileAt := spAt + alignUp (sp + sp / 256) 4096
    let rowAt := tileAt + alignUp (65536 * nt + 8 * nt) 4096
    let cfg : TrunkCfg :=
      { base := base, size := 2048 * fld (y 4) 11 6, rowLen := fld (y 4) 17 15, span := fld (y 4) 32 4 + 1, pos := 0, members := [] }
    let step := 8 * cfg.rowLen + 64
    let cmdAt := rowAt + alignUp (step * cfg.rows + 16) 4096
    let cw := dwordsOfBytes 3 (s.mem.read (seqAt + 1280) 24)
    let fw := dwordsOfBytes 6 (s.mem.read (seqAt + 1304) 48)
    let used := k.teams.cells.flatMap fun x => x.2.tiles
    let tiles := ((List.range 4).filter fun n => !used.contains n).take nt
    let seqTh := threadOf (wordAt cw 0) (wordAt cw 1) (BitVec.ofNat 32 (fld (wordAt cw 2) 0 32)) (stateOfCode (fld (wordAt cw 2) 32 3)) fw (.seq c t)
    let start : Team :=
      { Team.none with
        ctx := x.ctx, number := fld (y 1) 16 32, coop := fld (y 4) 36 1 == 1, slots := slots.take gs.length, spBase := t * 2 ^ 20, spSize := sp, tiles := tiles
        trunk := cfg
        seqRegs := (List.range 160).foldl (fun r i =>
          let v := BitVec.ofNat 64 (leNat (s.mem.read (seqAt + 8 * i) 8))
          if v = 0 then r else r.put i v) Tab.empty }
    let tm := ((rdTeam start seqTh ((List.range nc).map fun i => s.mem.read (cmdAt + 64 * i) 64)).run own).1
    match s.gridNamed x.ctx tm.grid (fld (y 2) 0 56) with
    | none => .refused
    | some gid =>
    let gd := s.grid gid
    let tm := { tm.withAbsent ((List.range (sp / 256)).filter fun l => !(leNat (s.mem.read (spAt + sp + l) 1)).testBit 0) with grid := gid, kernel := { gd.kernel with
      width := widthOfCode (fld (y 3) 6 2), roles := headerRoles w, energy := fld (y 3) 10 3 } }
    let rows := (List.range cfg.rows).map fun r => s.mem.read (rowAt + step * r) step
    let tm := if gd.clashed.contains tm.number then tm.doomTcfg else tm
    if (s.findTeam tm.grid tm.number).isSome || frameBad fw || fld (wordAt cw 2) 5 27 != 0 ||
        (gs.any fun g => g.bad) || (rows.any fun b => !imageOk cfg.rowLen b || rowFlagsBad cfg.rowLen b) then .refused else
    let live := gs.filter fun g => !g.group.retired
    let need : Demand :=
      { regs := live.foldl (fun a g => a + g.group.width * (16 + g.group.alloc)) 0
        lanes := live.foldl (fun a g => a + g.group.width) 0, groups := gs.length, sp := sp, tiles := nt, trunk := cfg.size
        energy := live.length * s.classWeight tm.kernel.energy }
    if !k.evicted.isEmpty || !need.fits (s.freeOn c) then .waits else
    let stamp := 1 + k.groups.cells.foldl (fun a x => max a x.2.admitted) 0
    let s := s.onCore c fun q =>
      { q with
        groups := (List.range gs.length).foldl (fun ts i => match gs[i]?, slots[i]? with
          | some g, some n => ts.put n { g.group with admitted := stamp }
          | _, _ => ts) q.groups
        teams := q.teams.put t tm
        sp := q.sp.filter fun x => !inSpWindow t x.1, spPoison := q.spPoison.filter fun x => !inSpWindow t (x * 64)
        mc := if q.lastCtx = some x.ctx then q.mc else q.mc.noLines
        predictor := [], lastCtx := some x.ctx
        tiles := (List.range tiles.length).foldl (fun ts i =>
          let b := s.mem.read (tileAt + 65536 * i) 65536
          ts.put (tiles.getD i 0)
            { valid := leNat (s.mem.read (tileAt + 65536 * nt + 8 * i) 8) % 2 == 1
              el := (List.range 16384).foldl (fun e n => putReg e n (leNat ((b.drop (4 * n)).take 4))) .empty }) q.tiles }
    let s := { s with grids := s.grids.put tm.grid { gd with
      away := gd.away.filter fun n => n != tm.number, clashed := gd.clashed.filter fun n => n != tm.number } }
    let s := (tm.slots ++ [32 + t]).foldl (fun s k => s.freshStream c k) s
    let s := s.spWrite c t 0 (s.mem.read spAt sp)
    let s := (List.range (sp / 256)).foldl (fun s l =>
      let f := leNat (s.mem.read (spAt + sp + l) 1)
      (List.range 4).foldl (fun s q => if f.testBit (q + 1) then s.spSpoil c t (256 * l + 64 * q) 64 else s) s) s
    let s := (List.range rows.length).foldl (fun s r => s.rowRestore c t r (rows.getD r [])) s
    let s := s.acquire c 6
    let s := (s.teamUnits c t).foldl (fun s u => s.relinkUnit x.ctx u) s
    .placed ([0, 1, 2, 3].foldl (fun s q => match ((s.team c t).engq q).cmds with
      | z :: _ => s.relink x.ctx ((z.park.map fun p => [p.1]).getD []) (.engine c t q)
      | [] => s) s)
  | _, _ => .waits
/-- A resume tried on the core that the admission unit has chosen, then on the others of the grove. -/
def State.resumeTry (s : State) (x : PsCmd) : ResumeEnd :=
  let cs := s.groveCores (s.ctx x.ctx).desc.grove
  (cs.filter (· == x.core) ++ cs.filter (· != x.core)).foldl (fun r c => match r with
    | .waits => s.resumeOn x c
    | r => r) .waits

/-! Commands (spec/15 R338, R342). -/

/-- The commands of a window that can complete do so, oldest first, up to one that waits; `n` at most. -/
def State.psRun (w : Option Nat) : Nat → State → State
  | 0, s => s
  | n + 1, s => match (s.window w).psq with
    | [] => s
    | x :: _ =>
      let ts := s.psTeams x
      if x.act = 1 then match s.resumeTry x with
        | .refused => psRun w n (s.psDrop w)
        | .waits => s
        | .placed s => psRun w n (s.psDone w x.tag)
      else if ts.isEmpty && !x.all then psRun w n (s.psDrop w)
      else if x.act = 2 then
        let s := ts.foldl (fun s p => s.spend.tearTeam (.seq p.1 p.2) 0x21 (s.freeVal % 65536)) s
        psRun w n (s.psDone w x.tag)
      else s
/-- A PSCMD write: refused where eight commands are outstanding, the context is outside the grove, or PSIMG is outside module
HBM5; otherwise it joins the others. -/
def State.psWrite (s : State) (w : Option Nat) (x : PsCmd) : State :=
  let outside := match w with
    | none => false
    | some g => (s.ctx x.ctx).desc.grove != g
  if !s.up then s
  else if outside || decide (8 ≤ (s.window w).psq.length) || !inHbm x.img then
    s.onWindow w fun k => { k with psErr := true }
  else
    let first := (s.window w).psq.isEmpty
    let s := s.onWindow w fun k => { k with psq := k.psq ++ [x] }
    if first then State.psRun w 8 s else s
/-- PA of PSIMG. -/
def State.psImg (s : State) (w : Option Nat) : Nat := fld (s.window w).psimg 16 36 * 65536
/-- PSCMD, ACT 0. -/
def execPscmdSave (w : Option Nat) (ctx : BitVec 12) (all : Bool) (team : Word) (tag : Byte) (s : State) : Answer :=
  .next (s.psWrite w { act := 0, ctx := ctx.toNat, all := all, team := team.toNat, tag := tag, img := s.psImg w, core := 0 })
/-- PSCMD, ACT 1; `core` is the core that the admission unit tries first. -/
def execPscmdResume (w : Option Nat) (ctx : BitVec 12) (team : Word) (tag : Byte) (core : Nat) (s : State) : Answer :=
  .next (s.psWrite w { act := 1, ctx := ctx.toNat, all := false, team := team.toNat, tag := tag, img := s.psImg w, core := core })
/-- PSCMD, ACT 2. -/
def execPscmdTeardown (w : Option Nat) (ctx : BitVec 12) (all : Bool) (team : Word) (tag : Byte) (s : State) : Answer :=
  .next (s.psWrite w { act := 2, ctx := ctx.toNat, all := all, team := team.toNat, tag := tag, img := s.psImg w, core := 0 })
/-- SAVE_COMPLETE: once every team that the oldest command of a window saves stands still, their images are written and it
completes; then the commands behind it, or a resume that waited, are tried. -/
def execSaveComplete (w : Option Nat) (s : State) : Answer :=
  .next (match (s.window w).psq with
    | [] => s
    | x :: _ =>
      if x.act != 0 then State.psRun w 8 s else
      let ts := s.psTeams x
      if !(ts.all fun p => s.canSave p.1 p.2) then s else
      let s := ts.foldl (fun s p => s.quietTeam p.1 p.2) s
      State.psRun w 8 (if rangeInHbm x.img (s.saveSize ts) then (s.saveAll x.img ts).psDone w x.tag else s.psDrop w))

end Sys2Proof.Machine
end

