-- ==== Sys2Proof/Machine/HostPort.lean ====
section
/-! DEFINITION. What the host, peer modules and the supply do to the machine: register windows, apertures, posted writes and
reads, peer links, triggers, debug stops, sags (spec/04 R108; spec/16 R344 to R348, R352, R353, R356 to R360; spec/01 R17, R41). -/
namespace Sys2Proof.Machine

/-! Registers with a rule of their own. -/

/-- The low `n` bits of a word from bit `lo`, in place. -/
def keepBits (v : Dword) (lo n : Nat) : Dword := BitVec.ofNat 64 (fld v lo n * 2 ^ lo)
/-- A stand's on-core stores zeroed (spec/01 R21): every store, cache and prediction of its cores and its lantern core; what they
had written is at home first. -/
def State.zeroStand (s : State) (k : Nat) : State :=
  let s := ((List.range 8).map (8 * k + ·) ++ [512 + k]).foldl (fun s n => s.drainAll n) s
  let s := (List.range 8).foldl (fun s i => s.onCore (8 * k + i) fun q => { Core.none with clock := q.clock }) s
  s.onLantern k fun q => { Lantern.none with clock := q.clock }
/-- A write of STANDGRV (spec/01 R17, spec/16 R353): ignored while a team is resident on the stand, or a lantern program, which runs
only on stands of its grove (spec/01 R18, notes/assumptions/29.md). A stand that changes its
grove is zeroed; a grove that is formed has its event counters at zero (spec/14 R309). -/
def State.writeStand (s : State) (k : Nat) (v : Dword) : State :=
  let n := v.setWidth 7
  if s.standHeld k || !(s.lantern k).progs.cells.isEmpty || n == s.pf.standgrv.get k 0 then s else
  let g := fld n 0 6
  let forms := n.getLsbD 6 && (s.stands g).isEmpty
  let s := s.zeroStand k
  let s := { s with pf := { s.pf with standgrv := s.pf.standgrv.put k n } }
  if forms then s.onGrove g fun x => { x with events := .empty } else s
/-- STANDGRV_WRITE. -/
def execStandgrvWrite (stand : Nat) (v : Dword) (s : State) : Answer := .next (if s.up then s.writeStand (stand % 64) v else s)
/-- Is a value for STALLQ or DBGQ legal (spec/16 R358)? -/
def ringOk (v : Dword) (slot : Nat) : Bool :=
  ringLog v == 0 ||
    (decide (6 ≤ ringLog v) && decide (ringLog v ≤ 16) && decide (4096 ≤ ringBase v) && rangeInHbm (ringBase v) (slot * 2 ^ ringLog v))
/-- A write of STALLQ or DBGQ: an illegal value is ignored, and ERR set. -/
def State.writeRing (s : State) (g : Nat) (debug : Bool) (v : Dword) : State :=
  let v := keepBits v 0 5 ||| keepBits v 12 40
  if !ringOk v (if debug then 32 else 64) then s.windowErr g
  else s.onGrove g fun k => if debug then { k with dbgq := v } else { k with stallq := v }
/-- RING_REGISTER_WRITE. -/
def execRingRegisterWrite (g : Nat) (debug : Bool) (v : Dword) (s : State) : Answer :=
  .next (if s.up then s.writeRing g debug v else s)
/-- A write of GINT: each 1 acknowledges its vector. -/
def State.ack (s : State) (g : Nat) (v : Dword) : State := s.onGrove g fun k => { k with gint := k.gint &&& ~~~(v.setWidth 4) }
/-- GINT_ACK (spec/16 R347). -/
def execGintAck (g : Nat) (v : Dword) (s : State) : Answer := .next (if s.up then s.ack g v else s)

/-- The units held by a debug stop. -/
def State.heldUnits (s : State) (g : Nat) : List UnitId :=
  let cs := (s.cores.cells.flatMap fun c =>
    (c.2.groups.cells.flatMap fun k => k.2.paths.cells.map fun p => UnitId.path c.1 k.1 p.1) ++
      c.2.teams.cells.map fun t => UnitId.seq c.1 t.1)
  let ls := s.lanterns.cells.flatMap fun l => l.2.progs.cells.map fun p => UnitId.lant l.1 p.1
  (cs ++ ls).filter fun u => (s.thread u).state == .held && s.groveOf u == g
/-- GO: held units are released (spec/16 R356), but those whose debug record still waits for room: their hold waits with it
(spec/16 R358). -/
def State.go (s : State) (g : Nat) : State :=
  ((s.heldUnits g).filter fun u => !(s.grove g).dbgPend.any fun r => r.1 == u).foldl (fun s u => s.onThread u fun t => { t with state := .ready, released := true }) s
/-- A write of DBGSTOP. -/
def State.writeDbgstop (s : State) (g : Nat) (v : Dword) : State :=
  let s := s.onGrove g fun k => { k with dbgstop := keepBits v 0 56 }
  if v.getLsbD 56 then s.go g else s
/-- DBGSTOP_ARM. -/
def execDbgstopArm (g : Nat) (v : Dword) (s : State) : Answer := .next (if s.up then s.writeDbgstop g v else s)
/-- DBGSTOP_GO. -/
def execDbgstopGo (g : Nat) (s : State) : Answer := .next (if s.up then s.go g else s)
/-- TRIG (spec/16 R359). -/
def execTrig (_g : Nat) (s : State) : Answer := .next (if s.up then s.sendTrigger else s)
/-- TRIGGER_RECEIVE: TRIGRX holds the origin's timestamp and this module's. -/
def execTriggerReceive (ostamp : Dword) (origin : Byte) (s : State) : Answer :=
  .next (if !s.up then s else
    let s := s.tick
    { s with pf := { s.pf with trigrx := { ostamp := ostamp, lstamp := s.time, origin := origin, fresh := true } } })

/-- Peer link `p`. -/
def State.peer (s : State) (p : Nat) : Peer := s.pf.peers.get p .reset
/-- Peer link `p` changed. -/
def State.onPeer (s : State) (p : Nat) (f : Peer → Peer) : State :=
  { s with pf := { s.pf with peers := s.pf.peers.put p (f (s.peer p)) } }
/-- A write of PEERCFG, with whether the far end has the same DOM: with another, EN stays 0 (spec/16 R348). -/
def State.writePeer (s : State) (p : Nat) (v : Dword) (agrees : Bool) : State :=
  s.onPeer p fun k =>
    let en := v.getLsbD 0 && agrees
    { k with en := en, accept := v.getLsbD 1, lo := fld v 16 20, hi := fld v 36 20, dom := fld v 56 8, agrees := agrees
             up := k.up && en && fld v 56 8 == k.dom }
/-- PEERCFG_WRITE. -/
def execPeercfgWrite (p : Nat) (v : Dword) (agrees : Bool) (s : State) : Answer :=
  .next (if s.up then s.writePeer (p % 16) v agrees else s)
/-- PEER_LINK_TRAINED. -/
def execPeerLinkTrained (p : Nat) (s : State) : Answer :=
  .next (if (s.peer (p % 16)).en then s.onPeer (p % 16) fun k => { k with up := true } else s)

/-! Register windows (spec/16 R345, R352). -/

/-- Does a grove have a group out on eviction (spec/16 R346)? -/
def State.groveEvicting (s : State) (g : Nat) : Bool := (s.groveCores g).any fun c => !(s.core c).evicted.isEmpty
/-- A write of TICMD; KIND 4 to 7 is refused in either window (notes/assumptions/67.md). -/
def State.writeTicmd (s : State) (w : Option Nat) (v : Dword) : State :=
  let kind := fld v 0 3
  let tag : Word := BitVec.ofNat 32 (fld v 32 32)
  if 4 ≤ kind then s.tiRefuse w else
  s.tiCommand w
    { kind := kind, va := if kind = 0 then (s.window w).tiva.toNat else 0, ctx := if kind ≤ 1 then fld v 8 12 else 0
      grove := if kind = 2 then fld v 24 6 else 0, tag := tag }
/-- A write of PSCMD; with ACT 3, or ALL on a resume, it is refused. -/
def State.writePscmd (s : State) (w : Option Nat) (v : Dword) : State :=
  let act := fld v 13 2
  let all := v.getLsbD 12
  if act = 3 || (all && act = 1) then s.onWindow w fun k => { k with psErr := true } else
  s.psWrite w { act := act, ctx := fld v 0 12, all := all, team := fld v 16 32, tag := BitVec.ofNat 8 (fld v 56 8), img := s.psImg w, core := 0 }
/-- A write of FRESUME; a reserved ACT is ignored, and ERR set (spec/01 R40). -/
def State.writeFresume (s : State) (g : Nat) (v : Dword) : State :=
  let act := fld v 44 2
  if 2 ≤ act then s.windowErr g else s.fresume g (fld v 32 12) (fld v 0 32) (act == 1)
/-- A write of a register that a grove's window and the physical function's both have. -/
def State.writeShared (s : State) (w : Option Nat) (off : Nat) (v : Dword) : State :=
  match off with
  | 0x100 => s.onWindow w fun k => { k with tiva := keepBits v 0 56 }
  | 0x108 => s.writeTicmd w v
  | 0x110 => s.onWindow w fun k => { k with tiErr := k.tiErr && !v.getLsbD 1 }
  | 0x140 => s.writePscmd w v
  | 0x148 => s.onWindow w fun k => { k with psimg := keepBits v 16 36 }
  | 0x150 => s.onWindow w fun k => { k with psErr := k.psErr && !v.getLsbD 1 }
  | _ => s
/-- A write of QBASE: ignored while EN = 1 or IDLE = 0 (spec/14 R307). -/
def State.writeQbase (s : State) (g n : Nat) (v : Dword) : State :=
  if (s.queue g n).idle then s.onQueue g n fun q => { q with base := keepBits v 6 46 } else s
/-- A write in a submission queue's block. -/
def State.writeQueue (s : State) (g n off : Nat) (v : Dword) : State :=
  match off with
  | 0x0 => s.writeQbase g n v
  | 0x8 => s.writeQcfg g n v
  | 0x10 => s.kick g n (v.setWidth 32)
  | 0x18 => if v.getLsbD 40 then s.clearHalt g n else s
  | _ => s
/-- A write in a grove's window; other offsets ignore it. -/
def State.writeGrove (s : State) (g off : Nat) (v : Dword) : State :=
  if 0x1000 ≤ off ∧ off < 0x2000 then s.writeQueue g ((off - 0x1000) / 0x40) (off % 0x40) v
  else if 0x10000 ≤ off ∧ off < 0x50000 then
    if off % 0x1000 = 0x10 then s.kick g ((off - 0x10000) / 0x1000) (v.setWidth 32) else s
  else match off with
  | 0x8 => s.ack g v
  | 0x120 => s.writeFresume g v
  | 0x160 => if s.groveEvicting g then s else s.onGrove g fun k => { k with evbase := keepBits v 20 32 }
  | 0x168 => s.writeRing g false v
  | 0x170 => s.writeRing g true v
  | 0x180 => s.onGrove g fun k => { k with apbase := keepBits v 16 40 }
  | 0x188 => s.onGrove g fun k => { k with apctx := keepBits v 0 12 }
  | 0x200 => s.writeDbgstop g v
  | 0x208 => s.onGrove g fun k => { k with dbgctl := keepBits v 0 2 }
  | 0x210 => s.sendTrigger
  | off => s.writeShared (some g) off v
/-- A write of a word of the descriptor of the context that CTXSEL names (spec/01 R19). -/
def State.writeDesc (s : State) (k : Nat) (v : Dword) : State :=
  s.onCtx s.pf.ctxsel.toNat fun c =>
    { c with desc := match k with
      | 0 => { c.desc with w0 := keepBits v 0 1 ||| keepBits v 16 42 }
      | 1 => { c.desc with w1 := v }
      | 2 => { c.desc with w2 := keepBits v 0 5 ||| keepBits v 12 40 }
      | _ => c.desc }
/-- A write of GRVLINK: ignored while a context of the grove has EN = 1 (spec/16 R344). -/
def State.writeLink (s : State) (g : Nat) (v : Dword) : State :=
  if s.ctxs.cells.any fun c => c.2.desc.en && c.2.desc.grove == g then s
  else { s with pf := { s.pf with grvlink := s.pf.grvlink.put g (v.getLsbD 0) } }
/-- A write in one of the arrays of the physical function's window: which array, and which entry; an offset inside a register is not
listed. -/
def State.writeArray (s : State) (off : Nat) (v : Dword) : State :=
  if off % 8 ≠ 0 then s else
  let k := off % 0x200 / 8
  match off / 0x200 with
  | 0 => s.writeSplit k v
  | 1 => { s with pf := { s.pf with ecb := s.pf.ecb.put k (fld v 0 16) } }
  | 2 => s.writeStand k v
  | 3 => s.writeLink k v
  | 4 => if k < 16 then s.spend.writePeer k v (s.freeVal % 2 == 1) else s
  | _ =>
    if 0x1000 ≤ off ∧ off < 0x2000 then
      let n := (off - 0x1000) / 16
      let e := s.pf.coll.get n (0, 0)
      { s with pf := { s.pf with coll := s.pf.coll.put n (if off % 16 = 0 then (v, e.2) else (e.1, v)) } }
    else s
/-- A write of BOOTCMD: SWAP, then WARM, which acts in a running start too and abandons it (spec/16 R350, R351). -/
def State.writeBootcmd (s : State) (v : Dword) : State :=
  let s := if v.getLsbD 1 then s.swapNext else s
  if v.getLsbD 0 then s.startWarm else s
/-- A write in the physical function's window; other offsets ignore it. What the outcome of PEERCFG depends on outside
the machine is free here (notes/assumptions/10.md). -/
def State.writePf (s : State) (off : Nat) (v : Dword) : State :=
  if 0x11000 ≤ off then s.writeArray (off - 0x11000) v else
  match off with
  | 0x10008 =>
    let auth : BitVec 46 := BitVec.ofNat 46 (fld v 6 46)
    s.lifecycle (v.setWidth 2) auth (Config.ownerAt s.mem (64 * auth.toNat))
  | 0x10018 => s.writeBootcmd v
  | 0x10028 => s.flash (v.setWidth 2) (BitVec.ofNat 46 (fld v 6 46))
  | 0x10040 => { s with pf := { s.pf with ctxsel := v.setWidth 12 } }
  | 0x10048 => s.writeDesc 0 v
  | 0x10050 => s.writeDesc 1 v
  | 0x10058 => s.writeDesc 2 v
  | 0x10060 => s.writeDesc 3 v
  | 0x10068 => s.onCtx s.pf.ctxsel.toNat fun c => { c with trapv := keepBits v 2 54 }
  | 0x10080 => { s with pf := { s.pf with ecw := v } }
  | 0x10088 => { s with pf := { s.pf with fabid := v.setWidth 8 } }
  | 0x100A0 =>
    if v.getLsbD 8 then { s with pf := { s.pf with trigrx := { s.pf.trigrx with fresh := false } } } else s
  | off => s.writeShared none off v
/-- Does host link `link` present the function of grove `g` (spec/16 R344)? -/
def State.linkOf (s : State) (g link : Nat) : Bool := link == if s.pf.grvlink.get g false then 1 else 0
/-- Is function `fn` there on host link `link`: 0 is the physical function, on either, and g + 1 that of grove g, on the link the grove
is bound to (spec/16 R344)? -/
def State.presents (s : State) (link fn : Nat) : Bool :=
  decide (link < 2) && (fn == 0 || (decide (fn ≤ 64) && s.linkOf (fn - 1) link))
/-- A write of a register by the host through a link; an absent function's register is none, and in a start only BOOTCMD takes a
write. -/
def State.writeRegister (s : State) (link fn off : Nat) (v : Dword) : State :=
  if !s.presents link fn then s
  else if !s.up then if fn = 0 ∧ off = 0x10018 then s.writeBootcmd v else s
  else if fn = 0 then s.writePf off v else s.writeGrove (fn - 1) off v
/-- REGISTER_WRITE (spec/00 R5). -/
def execRegisterWrite (fn : ViaLink) (off : Nat) (v : Dword) (s : State) : Answer := .next (s.writeRegister fn.link fn.num off v)

/-! What registers read as. -/

/-- A flag at a bit. -/
def flagAt (b : Bool) (lo : Nat) : Nat × Nat := (cond b 1 0, lo)
/-- A register that both windows have, as it reads. -/
def State.readShared (s : State) (w : Option Nat) (off : Nat) : Dword :=
  let k := s.window w
  match off with
  | 0x100 => k.tiva
  | 0x110 => packD [flagAt (!k.tiq.isEmpty) 0, flagAt k.tiErr 1, (k.tiDone.toNat, 32)]
  | 0x148 => k.psimg
  | 0x150 => packD [flagAt (!k.psq.isEmpty) 0, flagAt k.psErr 1, (k.psDone.toNat, 56)]
  | _ => 0
/-- A register of a submission queue's block, as it reads. -/
def SubQueue.read (q : SubQueue) (off : Nat) : Dword :=
  match off with
  | 0x0 => q.base
  | 0x8 => BitVec.ofNat 64 q.cfg
  | 0x18 => packD [(q.done.toNat, 0), (q.err.toNat, 32), flagAt q.halt 40, flagAt q.idle 41]
  | _ => 0
/-- A register of a grove's window, as it reads; write-only registers and offsets not listed read as zero (spec/16 R345). -/
def State.readGrove (s : State) (g off : Nat) : Dword :=
  let k := s.grove g
  if 0x1000 ≤ off ∧ off < 0x2000 then (s.queue g ((off - 0x1000) / 0x40)).read (off % 0x40)
  else match off with
  | 0x0 => packD [(g, 0), ((s.stands g).length, 6), flagAt (s.pf.grvlink.get g false) 13]
  | 0x8 => k.gint.setWidth 64
  | 0x160 => k.evbase
  | 0x168 => k.stallq
  | 0x170 => k.dbgq
  | 0x180 => k.apbase
  | 0x188 => k.apctx
  | 0x200 => k.dbgstop
  | 0x208 => k.dbgctl
  | off => s.readShared (some g) off
/-- A register of an array of the physical function's window, as it reads. -/
def State.readArray (s : State) (off : Nat) : Dword :=
  if off % 8 ≠ 0 then 0 else
  let k := off % 0x200 / 8
  let p := s.pf
  if 0x1000 ≤ off ∧ off < 0x2000 then
    (let e := p.coll.get ((off - 0x1000) / 16) (0, 0); if off % 16 = 0 then e.1 else e.2)
  else match off / 0x200 with
  | 0 => packD [(s.splitOf k, 0), flagAt (s.standHeld k) 32]
  | 1 => BitVec.ofNat 64 (p.ecb.get k 256)
  | 2 => (p.standgrv.get k 0).setWidth 64
  | 3 => packD [flagAt (p.grvlink.get k false) 0]
  | 4 =>
    if k < 16 then
      let x := s.peer k
      packD [flagAt x.en 0, flagAt x.accept 1, (x.lo, 16), (x.hi, 36), (x.dom, 56)]
    else if k < 32 then packD [((s.peer (k - 16)).refused.toNat, 0), flagAt (s.peer (k - 16)).up 32]
    else if k < 40 then packD [((p.sag.get (k - 32) 0).toNat, 0), (p.sagLevel.get (k - 32) 0, 32)] else 0
  | 5 => if k < 16 then packD [((p.hbmCorr.get k 0).toNat, 0), ((p.hbmUncorr.get k 0).toNat, 32)] else 0
  | _ => 0
/-- A register of the physical function's window, as it reads (spec/16 R352); after the recovery image has failed, only LCSTATE
and BOOTSTAT do (spec/16 R350). -/
def State.readPf (s : State) (off : Nat) : Dword :=
  let c := s.ctx s.pf.ctxsel.toNat
  let b := s.boot
  let t := s.pf.trigrx
  let link (l : Nat) : Dword :=
    let x := s.pf.links.get l .reset
    packD [(x.rate.toNat, 0), (x.width.toNat, 2), flagAt x.held 4, flagAt x.ide 5]
  match off with
  | 0x10000 => b.lcstate.setWidth 64
  | 0x10010 => packD [(b.attempt, 0), (b.image.toNat, 3), flagAt b.fail 5, flagAt b.primary 6]
  | off =>
    if b.dead then 0
    else if 0x11000 ≤ off then s.readArray (off - 0x11000)
    else match off with
    | 0x10030 => packD [flagAt b.flashBusy 0, (b.flashResult.toNat, 1)]
    | 0x10040 => s.pf.ctxsel.setWidth 64
    | 0x10048 => c.desc.w0
    | 0x10050 => c.desc.w1
    | 0x10058 => c.desc.w2
    | 0x10060 => c.desc.w3
    | 0x10068 => c.trapv
    | 0x10080 => s.pf.ecw
    | 0x10088 => s.pf.fabid.setWidth 64
    | 0x10090 => t.ostamp
    | 0x10098 => t.lstamp
    | 0x100A0 => packD [(t.origin.toNat, 0), flagAt t.fresh 8]
    | 0x100A8 => link 0
    | 0x100B0 => link 1
    | off => s.readShared none off
/-- What the host's request for a register comes to: an absent function, one that reports "device not ready", or a value. -/
inductive RegRead where
  | absent
  | notReady
  | value (v : Dword)
  deriving DecidableEq, Repr
/-- What the host reads from a register through a link: no function is ready throughout a start, and after the recovery image has
failed the physical function alone is (spec/16 R344, R350). -/
def State.readRegister (s : State) (link fn off : Nat) : RegRead :=
  if !s.presents link fn then .absent
  else if s.boot.start.isSome || (s.boot.dead && fn != 0) then .notReady
  else .value (if fn = 0 then s.readPf off else s.readGrove (fn - 1) off)

/-! Memory reached from outside (spec/04 R108, spec/16 R346, R348). -/

/-- Bytes returned to the host or a peer. -/
def State.returns (s : State) (b : List Byte) (bad : Bool) : State := { s with hostData := b, hostBad := bad }
/-- HOST_POSTED_WRITE (spec/04 R108): one access for each sector, at its home slice; bytes outside module HBM5 go nowhere. -/
def execHostPostedWrite (pa : Nat) (data : List Byte) (s : State) : Answer :=
  .next (if s.up && rangeInHbm pa data.length then s.writeHome pa data 1 else s)
/-- HOST_READ (spec/04 R108): t = p at the home slice; what a poisoned sector gives the host is free (notes/assumptions/9.md). -/
def execHostRead (pa n : Nat) (s : State) : Answer :=
  .next (if !s.up || !rangeInHbm pa n then s
    else if s.poisoned pa n then s.spend.returns (natLe n s.freeVal) true
    else (pieces 64 pa n).foldl (fun s p => s.fillL2 p.1 1 false) (s.returns (s.mem.read pa n) false))

/-- One sector of a host access through the aperture: the state, and the bytes that a read returns. -/
def State.apertureOne (s : State) (ctx : Nat) (va : Dword) (n : Nat) (data : Option (List Byte)) :
    Except Flt (State × List Byte) :=
  match data with
  | some b => (s.translate mgmtNode ctx va .store).map fun x => (s.frontPut ctx va x b, [])
  | none => (s.translate mgmtNode ctx va .load).map fun x =>
      let s' := s.useLeaf mgmtNode ctx va x .load
      let pa := x.at_ mgmtNode
      if s.poisoned pa n then (s'.spend, natLe n s.freeVal)
      else (s'.fillL2 pa (effPol x 1) x.zel, s.seeHome mgmtNode pa n)
/-- A host access at aperture offset `off` of grove `g` (spec/16 R346): a sector that faults reads as all ones, or is dropped,
and has a record with SRC 1 and ENG 15, one for each 64 KiB page; a context outside the grove fails with none. -/
def State.aperture (s : State) (g off n : Nat) (data : Option (List Byte)) : State :=
  let k := s.grove g
  let ctx := k.apctx.toNat
  let len := match data with
    | some b => b.length
    | none => n
  let ones (n : Nat) : List Byte := List.replicate n 0xFF
  if !s.up || decide (2 ^ 38 < off + len) then s
  else if (s.ctx ctx).desc.grove != g then (if data.isSome then s else s.returns (ones len) false)
  else
    let va := k.apbase.toNat + off
    let r := (pieces 64 va len).foldl (fun (a : State × List Byte × List Flt) p =>
      match a.1.apertureOne ctx (BitVec.ofNat 64 p.1) p.2 (data.map fun b => (b.drop (p.1 - va)).take p.2) with
      | .ok (s, b) => (s, a.2.1 ++ b, a.2.2)
      | .error f =>
        (a.1, a.2.1 ++ ones p.2, if a.2.2.any fun e => e.addr.toNat / 65536 == f.addr.toNat / 65536 then a.2.2 else a.2.2 ++ [f]))
      (s, [], [])
    let s := if data.isSome then r.1 else r.1.returns r.2.1 false
    r.2.2.foldl (fun s f => s.report mgmtNode ctx [[f.addr, 0, recWord2 (ctx + g * 2 ^ 12) f 1 15]] none none) s
/-- APERTURE_ACCESS: through a link on which the grove's function is absent it is none (spec/16 R344). -/
def execApertureAccess (grove : ViaLink) (off n : Nat) (data : Option (List Byte)) (s : State) : Answer :=
  .next (if s.presents grove.link (grove.num + 1) then s.aperture grove.num off n data else s)

/-- Is an access of `n` bytes at a window offset refused on a peer link (spec/16 R348)? -/
def Peer.refuses (p : Peer) (off n : Nat) : Bool :=
  !p.accept || !rangeInHbm off n || decide (off / 2 ^ 20 < p.lo) || decide (p.hi < (off + n - 1) / 2 ^ 20)
/-- PEER_ACCESS_ARRIVAL: a window access served, or refused: a read then returns poisoned data, whose bytes are free, as those of a
poisoned sector are (notes/assumptions/9.md); a write is dropped and counted. -/
def execPeerAccessArrival (link off n : Nat) (data : Option (List Byte)) (s : State) : Answer :=
  .next (
    let p := link % 16
    let k := s.peer p
    if !s.up || !k.en || !k.up then s else
    match data with
    | some b =>
      if k.refuses off b.length then s.onPeer p fun k => { k with refused := k.refused + 1 } else s.writeHome off b 1
    | none =>
      if k.refuses off n || s.poisoned off n then s.spend.returns (natLe n s.freeVal) true
      else (pieces 64 off n).foldl (fun s p => s.fillL2 p.1 1 false) (s.returns (s.mem.read off n) false))

/-! Supply sags (spec/16 R360). -/

/-- SUPPLY_SAG: one step down, to 350 MHz at the lowest. -/
def execSupplySag (die : Nat) (s : State) : Answer :=
  .next (
    let d := die % 8
    let l := s.pf.sagLevel.get d 0
    if 4 ≤ l then s else
    { s with pf := { s.pf with sagLevel := s.pf.sagLevel.put d (l + 1), sag := s.pf.sag.put d (s.pf.sag.get d 0 + 1) } })
/-- SAG_RECOVERY_STEP: one step up. -/
def execSagRecoveryStep (die : Nat) (s : State) : Answer :=
  .next (
    let d := die % 8
    { s with pf := { s.pf with sagLevel := s.pf.sagLevel.put d (s.pf.sagLevel.get d 0 - 1) } })

end Sys2Proof.Machine
end

