-- ==== Sys2Proof/Machine/March.lean ====
section
/-! DEFINITION. The volume unit: VMARCH and its steps (spec/13 R300 to R302, R304, R305). -/
namespace Sys2Proof.Machine

/-- A volume record (spec/13 R300). -/
structure Volume where
  wtg : List Word
  n : List Nat
  den : Bool
  maj : Nat
/-- A volume record read and checked. -/
def State.readVolume (s : State) (u : UnitId) (a : Nat) : Except Flt (Volume × State) := do
  if a % 64 != 0 then throw (trvFault 2)
  let (b, s) ← s.sceneLoad u (BitVec.ofNat 64 a) 64
  let w6 := recNat b 48 8
  let w7 := recNat b 56 8
  -- V is 1 and the bits above it are zero
  if w6 / 2 ^ 31 != 1 || decide (2 ^ 56 ≤ w7) || w7 % 4 != 0 then throw (trvFault 2)
  pure ({ wtg := recWords b 0 12, n := [w6 % 1024 + 1, w6 / 2 ^ 10 % 1024 + 1, w6 / 2 ^ 20 % 1024 + 1],
          den := w6.testBit 30, maj := w7 }, s)
/-- σ̄ or σ at an address: negative, NaN or infinite raises VOLUME. -/
def State.readDensity (s : State) (u : UnitId) (a : Nat) : Except Flt (Word × State) := do
  let (b, s) ← s.sceneLoad u (BitVec.ofNat 64 a) 4
  let v : Word := BitVec.ofNat 32 (leNat b)
  if (val32 v).special || ltW v 0 then throw (trvFault 2)
  pure (v, s)

/-- floor of an FP32 value clamped to [0, n − 1]; what a NaN gives, `free`, is not stated (notes/assumptions/25.md). -/
def cellOf (n free : Nat) (x : Word) : Nat :=
  match val32 x with
  | .nan => free % n
  | v => (toInteger 3 0 (n - 1 : Nat) v).1.toNat
/-- A march leaves the grid. -/
def slotLeaves (w : Tab Dword) (t : Nat) : Tab Dword :=
  slotSets w [(fVT, t), (fVACT, 0), (fVEV, 0), (fPHASE, 2)]
/-- An integer as FP32. -/
def intW (n : Int) : Word := rnInt n 0
/-- The start of a march (spec/13 R301): where its ray meets the grid. -/
def State.marchStart (s : State) (u : UnitId) (l : Nat) : Except Flt State := do
  let w := s.slot u l
  let r := rayOf w
  let (v, s) ← s.readVolume u (slotGet w fVOL)
  if slotGet w fDEN = 1 && !v.den then throw (trvFault 2)
  let g := r.through v.wtg
  match boxTest [0, 0, 0] (v.n.map fun (k : Nat) => intW k) g r.tmin r.tmax with
  | none => pure (s.slotPut u l (slotLeaves (slotSet w fVTEND r.tmax.toNat) r.tmax.toNat))
  | some (t0, t1) =>
    let cell (x : Nat) : Nat :=
      cellOf (v.n.getD x 1) (Config.nanCell x (comp g.o x) t0 (comp g.d x)) (add32 (comp g.o x) (mul32 t0 (comp g.d x)))
    let w := slotSets w [(fVT, t0.toNat), (fVTEND, t1.toNat), (fCell 0, cell 0), (fCell 1, cell 1), (fCell 2, cell 2), (fVACT, 1)]
    pure (s.slotPut u l w)
/-- A draw of a march: one DRAW on stream STRM, counted in NDRAW. -/
def State.marchDraw (s : State) (u : UnitId) (l : Nat) (w : Tab Dword) : Except Flt (Nat × Tab Dword × State) := do
  let (s, k) ← s.drawLane u l (slotGet w fSTRM)
  pure (k, slotSet w fNDRAW (slotGet w fNDRAW + 1), s)
/-- x = y as reals. -/
def eqW (x y : Word) : Bool := val32 x != .nan && val32 y != .nan && (val32 x).cmp (val32 y) == 0
/-- The exit of an axis of a cell. -/
def exitOf (g : Ray) (cell x : Nat) : Word :=
  if zeroW (comp g.d x) then infW else
  let bound := intW ((cell : Int) + if ltW 0 (comp g.d x) then 1 else 0)
  div32 (sub32 bound (comp g.o x)) (comp g.d x)
/-- What follows a step with no collision before te: the grid is left, or the next cell is entered. A cell outside the grid
stands in CX, CY and CZ modulo 1024, the width of the fields. -/
def marchOn (g : Ray) (n : List Nat) (w : Tab Dword) (te m : Word) : Tab Dword :=
  let vend := BitVec.ofNat 32 (slotGet w fVTEND)
  if !ltW te vend then slotLeaves w vend.toNat else
  let w := slotSet w fVT te.toNat
  let next (x : Nat) : Int :=
    let c : Int := slotGet w (fCell x)
    if eqW (exitOf g (slotGet w (fCell x)) x) m then (if ltW 0 (comp g.d x) then c + 1 else if ltW (comp g.d x) 0 then c - 1 else c) else c
  let out := (List.range 3).any fun x => decide (next x < 0) || decide ((n.getD x 1 : Int) ≤ next x)
  let w := slotSets w ((List.range 3).map fun x => (fCell x, (next x % 1024).toNat))
  if out then slotLeaves w vend.toNat else w
/-- One pass of the loop of spec/13 R301: the slot after it. -/
def State.marchPass (s : State) (u : UnitId) (l : Nat) : Except Flt (Tab Dword × State) := do
  let w := s.slot u l
  let (v, s) ← s.readVolume u (slotGet w fVOL)
  let g := (rayOf w).through v.wtg
  let c (x : Nat) : Nat := slotGet w (fCell x)
  let nx := v.n.getD 0 1
  let ny := v.n.getD 1 1
  let q := c 0 + nx * (c 1 + ny * c 2)
  let m := minW (minW (exitOf g (c 0) 0) (exitOf g (c 1) 1)) (exitOf g (c 2) 2)
  let vt := BitVec.ofNat 32 (slotGet w fVT)
  let te := maxW vt (minW (BitVec.ofNat 32 (slotGet w fVTEND)) m)
  let (sb, s) ← s.readDensity u (v.maj + 4 * q)
  let w := slotSet w fSBAR sb.toNat
  if !ltW 0 sb then return (marchOn g v.n w te m, s)
  let (k, w, s) ← s.marchDraw u l w
  let tc := add32 vt (div32 (freeFlight k) sb)
  if !ltW tc te then return (marchOn g v.n w te m, s)
  let w := slotSet w fVT tc.toNat
  if slotGet w fDEN = 0 then return (slotSets w [(fVEV, 1), (fPHASE, 2)], s)
  let (k2, w, s) ← s.marchDraw u l w
  let (sig, s) ← s.readDensity u (v.maj + 4 * (nx * ny * v.n.getD 2 1 + q))
  let w := slotSet w fSIG sig.toNat
  if (FloatVal.fin (.ofInt k2 (-24))).cmp (val32 (div32 sig sb)) < 0 then return (slotSets w [(fVEV, 2), (fPHASE, 2)], s)
  pure (slotSet w fNNULL (slotGet w fNNULL + 1), s)
/-- The draws of a step are final: the lane's binding state leaves the run (spec/13 R304). -/
def State.settleBinding (s : State) (u : UnitId) (l : Nat) : State :=
  let b := s.bindOf u l
  (s.onRun u fun r => { r with bOver := r.bOver.drop l }).onGroupOf u fun g => { g with binds := g.binds.put l b }
/-- One step of a march: its start, or one pass of the loop; then DCUR := CUR[STRM]. -/
def State.marchStep (s : State) (u : UnitId) (l : Nat) : Except Flt State := do
  if slotGet (s.slot u l) fVACT = 0 then s.marchStart u l else
  let (w, s) ← s.marchPass u l
  let s := s.settleBinding u l
  pure (s.slotPut u l (slotSet w fDCUR ((s.bindOf u l).cur.get (slotGet w fSTRM) 0)))

/-- The start form begins (spec/13 R302). -/
def marchBegin (f : LA) (x : MarchX) (s : State) (u : UnitId) (l : Nat) : Except Flt State := do
  let b := s.bindOf u l
  let st := x.strm.toNat
  if !b.bound then throw (cvFault 0)
  if b.nstr ≤ st then throw (cvFault 2)
  let w := s.loadRay u l f.a.toNat (s.slot u l)
  let vol := s.srcL u f.b.toNat l 64
  let w := slotSets (((w.put 4 0).put 5 0).put 6 0)
    [(fVOL, vol.toNat), (fSTRM, st), (fDEN, if x.den then 1 else 0), (fOP, 4), (fPHASE, 1), (fIPC, (s.pcOf u).toNat),
     (fCVPTR, b.ptr.toNat), (fDCUR, b.cur.get st 0), (fNNULL, 0), (fNDRAW, 0), (fVACT, 0), (fVEV, 0)]
  let s := s.forgetHit u l
  if (rayOf w).void then
    pure (s.slotPut u l (slotLeaves (slotSet w fVTEND (rayOf w).tmax.toNat) (rayOf w).tmax.toNat))
  else if vol.toNat % 64 != 0 then throw (trvFault 2)
  else if fld vol 56 8 != 0 then throw { cause := 2, detail := 0, addr := vol, kind := 0, level := 3 }
  else pure (s.slotPut u l w)
/-- The next form begins. -/
def marchNextBegin (s : State) (u : UnitId) (l : Nat) : Except Flt State := do
  let w := s.slot u l
  let ev := slotGet w fVEV
  if !(slotGet w fVACT == 1 && (ev == 1 || ev == 2) && slotGet w fPHASE == 2) then throw (trvFault 3)
  let b := s.bindOf u l
  if !(b.bound && b.ptr.toNat == slotGet w fCVPTR) then throw (trvFault 5)
  pure (s.slotPut u l (slotSets w [(fOP, 4), (fPHASE, 1), (fIPC, (s.pcOf u).toNat)]))
/-- The returned status. -/
def marchValue (s : State) (u : UnitId) (l : Nat) : Dword := BitVec.ofNat 64 (slotGet (s.slot u l) fVEV)
/-- VMARCH as an operation. -/
def marchOp (f : LA) (x : MarchX) : RayOp :=
  { begin_ := if x.next then marchNextBegin else marchBegin f x, step := State.marchStep, value := marchValue }
/-- VMARCH (spec/13 R302). -/
def execVmarch (f : LA) (x : MarchX) (s : State) : Answer :=
  issue (.vmarch f x) s fun u s =>
    if !x.next && !rayBlockOk f.a then s.faultUnit u illegalOperand
    else State.rayIssue (.vmarch f x) (marchOp f x) f.d.toNat f.k u s
/-- MARCH_STEP (spec/13 R301): one step of the lane's march, if its path waits in one. -/
def execMarchStep (c g l : Nat) (s : State) : Answer :=
  .next (match s.pathOfLane c g l with
    | none => s
    | some u => match (s.thread u).waiting with
      | some (.vmarch f x) => s.rayStep u (.vmarch f x) (marchOp f x) f.d.toNat f.k l
      | _ => s)

end Sys2Proof.Machine
end

