-- ==== Sys2Proof/Machine/Scalar.lean ====
section
/-! DEFINITION. Scalar and mask arithmetic of the uniform pipe: opcodes 0x18 to 0x29 and NOP (spec/08 R186 to R191). -/
namespace Sys2Proof.Machine

/-- The operands x = src(a) and y = S[b] put through `f` (spec/08 R187). -/
def scalar2 (i : Instr) (f : GA) (op : Dword → Dword → Dword) (s : State) : Answer :=
  scalarOp i f.d.toNat f.k (fun s u => op (s.srcG u f.a.toNat) (s.sget u f.b.toNat)) s
/-- The operand x = src(a) put through `op`. -/
def scalar1 (i : Instr) (f : GA) (op : Dword → Dword) (s : State) : Answer :=
  scalarOp i f.d.toNat f.k (fun s u => op (s.srcG u f.a.toNat)) s

/-- A shift right in which copies of the sign enter, by a natural amount of any size. -/
def sar64 (x y : Dword) : Dword := x.sshiftRight (min y.toNat 64)
/-- The signed minimum. -/
def smin64 (x y : Dword) : Dword := if x.sle y then x else y
/-- The signed maximum. -/
def smax64 (x y : Dword) : Dword := if x.sle y then y else x
/-- The bitwise select under `m`. -/
def select64 (m x y : Dword) : Dword := (x &&& m) ||| (y &&& ~~~m)

/-- NOP: an invalid latch, and nothing else (spec/08 R186). -/
def execNop (f : GA) (s : State) : Answer := issue (.nop f) s fun u s => s.doneG u (.nop f)
/-- GADD: x + y. -/
def execGadd (f : GA) (s : State) : Answer := scalar2 (.gadd f) f (· + ·) s
/-- GSUB: x − y. -/
def execGsub (f : GA) (s : State) : Answer := scalar2 (.gsub f) f (· - ·) s
/-- GMUL: the low 64 bits of x × y. -/
def execGmul (f : GA) (s : State) : Answer := scalar2 (.gmul f) f (· * ·) s
/-- GAND: x and y. -/
def execGand (f : GA) (s : State) : Answer := scalar2 (.gand f) f (· &&& ·) s
/-- GOR: x or y. -/
def execGor (f : GA) (s : State) : Answer := scalar2 (.gor f) f (· ||| ·) s
/-- GXOR: x xor y. -/
def execGxor (f : GA) (s : State) : Answer := scalar2 (.gxor f) f (· ^^^ ·) s
/-- GSHL: x shifted left by y, 0 from 64 on. -/
def execGshl (f : GA) (s : State) : Answer := scalar2 (.gshl f) f (fun x y => if 64 ≤ y.toNat then 0 else x <<< y.toNat) s
/-- GSHR: x shifted right by y, 0 from 64 on. -/
def execGshr (f : GA) (s : State) : Answer := scalar2 (.gshr f) f (fun x y => if 64 ≤ y.toNat then 0 else x >>> y.toNat) s
/-- GSAR: x shifted right by y, the sign entering. -/
def execGsar (f : GA) (s : State) : Answer := scalar2 (.gsar f) f sar64 s
/-- GMIN: the smaller as signed 64-bit. -/
def execGmin (f : GA) (s : State) : Answer := scalar2 (.gmin f) f smin64 s
/-- GMAX: the larger as signed 64-bit. -/
def execGmax (f : GA) (s : State) : Answer := scalar2 (.gmax f) f smax64 s
/-- MPOP: the number of one bits. -/
def execMpop (f : GA) (s : State) : Answer := scalar1 (.mpop f) f (fun x => BitVec.ofNat 64 (popNat 64 x.toNat)) s
/-- MFFS: the index of the lowest one bit, or 64. -/
def execMffs (f : GA) (s : State) : Answer := scalar1 (.mffs f) f (fun x => BitVec.ofNat 64 (ffsNat 64 x.toNat)) s
/-- GSEL: the bitwise select under the old S[d]; K = 1 is an illegal operand at step 7 (spec/08 R188). -/
def execGsel (f : GA) (s : State) : Answer :=
  issue (.gsel f) s fun u s =>
    if f.k then s.faultUnit u illegalOperand else
    s.doneR u (.gsel f) f.d.toNat false
      (select64 (s.sget u f.d.toNat) (s.srcG u f.a.toNat) (s.sget u f.b.toNat))
/-- GADDI: x plus the signed 7-bit immediate (spec/08 R189). -/
def execGaddi (f : GI) (s : State) : Answer :=
  scalarOp (.gaddi f) f.d.toNat f.k (fun s u => s.srcG u f.a.toNat + f.imm.signExtend 64) s
/-- GLI: the literal, sign-extended (spec/08 R190). -/
def execGli (f : GA) (x : Lit) (s : State) : Answer :=
  scalarOp (.gli f x) f.d.toNat f.k (fun _ _ => x.lit.signExtend 64) s
/-- GLIH: the literal over the low half of the source (spec/08 R190). -/
def execGlih (f : GA) (x : Lit) (s : State) : Answer :=
  scalarOp (.glih f x) f.d.toNat f.k (fun s u => (x.lit ++ (s.srcG u f.a.toNat).setWidth 32 : BitVec 64)) s

/-- The conditions of GCMP: signed or natural order for 2 to 5 (spec/08 R191). -/
def condG (cc : Nat) (nat : Bool) (x y : Dword) : Bool :=
  let lt := if nat then x.ult y else x.slt y
  match cc with
  | 0 => x == y
  | 1 => x != y
  | 2 => lt
  | 3 => lt || x == y
  | 4 => !(lt || x == y)
  | 5 => !lt
  | 6 => x &&& y != 0
  | _ => x &&& y == 0
/-- GCMP: a truth value, 1 or all ones (spec/08 R191). -/
def execGcmp (f : GA) (x : GcmpX) (s : State) : Answer :=
  scalarOp (.gcmp f x) f.d.toNat f.k (fun s u =>
    let y := if x.bi then x.imm.signExtend 64 else s.sget u f.b.toNat
    if condG x.cc.toNat x.u (s.srcG u f.a.toNat) y then (if x.all then BitVec.allOnes 64 else 1) else 0) s

end Sys2Proof.Machine
end

