-- ==== Sys2Proof/Machine/Wake.lean ====
section
/-! DEFINITION. The ends of waits: a waiting unit comes to its instruction again, and performs it or waits on (spec/02 R55,
spec/04 R99, R100, R103, spec/05 R119, spec/09 R225, spec/10 R237, spec/11 R258, spec/14 R319, R322). -/
namespace Sys2Proof.Machine

/-- Unit `u` comes again to the instruction it waits in, if `body` knows it. -/
def State.wake (s : State) (u : UnitId) (body : Instr → Option (UnitId → State → State)) : State :=
  if !s.alive u then s else
  match (s.thread u).waiting with
  | some i => match body i with
    | some f => f u s
    | none => s
  | none => s

/-- What waits for a scratchpad line. -/
def spBody (i : Instr) : Option (UnitId → State → State) :=
  match i with
  | .lds f x => some (State.laneLoad i f x true)
  | .sts f x => some (State.laneStore i f x true)
  | .ldq f x => some (State.ldq f x)
  | .stq f x => some (State.stq f x)
  | .atoms f x => some fun u s => State.atomAny i f x true u s
  | .acass f x => some fun u s => State.casAny i f x true u s
  | .gld f x => some (State.gld f x)
  | .gst f x => some (State.gst f x)
  | .gatom f x => some (State.gatom f x)
  | .tnorm f x => some (State.tnorm f x)
  | .tnormq f x => some (State.tnormq f x)
  | _ => none
/-- SCRATCHPAD_WAIT_END (spec/02 R55). -/
def execScratchpadWaitEnd (u : UnitId) (s : State) : Answer := .next (s.wake u spBody)

/-- What waits while a team's trunk is busy. -/
def trunkBody (i : Instr) : Option (UnitId → State → State) :=
  match i with
  | .tadd f x => some (State.tadd f x)
  | .tsync f => some (State.tsync f)
  | .tnorm f x => some (State.tnorm f x)
  | .tnormq f x => some (State.tnormq f x)
  | _ => none
/-- What waits for a tile, or for the trunk. -/
def tileBody (i : Instr) : Option (UnitId → State → State) :=
  match i with
  | .accrd f x => some (State.accrd f x)
  | .accrdc f x => some (State.accrdc f x)
  | i => trunkBody i
/-- TILE_WAIT_END (spec/04 R100): also the end of a wait for a trunk whose TCFG was flushed or discarded (spec/11 R258). -/
def execTileWaitEnd (u : UnitId) (s : State) : Answer := .next (s.wake u tileBody)

/-- What waits for a queue of the team. -/
def queueBody (i : Instr) : Option (UnitId → State → State) :=
  match i with
  | .qput f => some (State.qput f)
  | .qget f => some (State.qget f)
  | _ => none
/-- QUEUE_WAIT_END (spec/05 R119). -/
def execQueueWaitEnd (u : UnitId) (s : State) : Answer := .next (s.wake u queueBody)

/-- What waits for a rendezvous slot. -/
def slotBody (i : Instr) : Option (UnitId → State → State) :=
  match i with
  | .xsend f x => some (State.xsend f x)
  | .xrecv f x => some (State.xrecv f x)
  | _ => none
/-- RENDEZVOUS_WAIT_END (spec/09 R225). -/
def execRendezvousWaitEnd (u : UnitId) (s : State) : Answer := .next (s.wake u slotBody)

/-- What waits for a batch. -/
def batchBody (i : Instr) : Option (UnitId → State → State) :=
  match i with
  | .bwait f => some (State.bwait f)
  | _ => none
/-- BATCH_WAIT_COMPLETE (spec/04 R99). -/
def execBatchWaitComplete (u : UnitId) (s : State) : Answer := .next (s.wake u batchBody)

/-- What waits for a record queue. -/
def recordBody (i : Instr) : Option (UnitId → State → State) :=
  match i with
  | .rqput f => some (State.rqput f)
  | .rqget f => some (State.rqget f)
  | _ => none
/-- RECORD_QUEUE_WAIT_END (spec/14 R322). -/
def execRecordQueueWaitEnd (u : UnitId) (s : State) : Answer := .next (s.wake u recordBody)

/-- What waits for room in an engine queue. -/
def engineBody (i : Instr) : Option (UnitId → State → State) :=
  match i with
  | .cpy f x => some (State.cpy f x)
  | .layout f x => some (State.layout f x)
  | .zfill f x => some (State.zfill f x)
  | .omap f x => some (State.omap f x)
  | .mma _ x => some (State.matrixCmd i x)
  | .msqd _ x => some (State.matrixCmd i x)
  | .mtopk f x => some (State.mtopk f x)
  | .mzero f x => some (State.mzero f x)
  | .mstore f x => some (State.mstore f x)
  | .maddt f x => some (State.maddt f x)
  | .tcfg f x => some (State.tcfg f x)
  | .tevict f x => some (State.imageCmd i f x false)
  | .trestore f x => some (State.imageCmd i f x true)
  | .callred f x => some (State.collCmd i true f x)
  | .cgather f x => some (State.collCmd i false f x)
  | _ => none
/-- ENGINE_QUEUE_ROOM (spec/10 R237). -/
def execEngineQueueRoom (u : UnitId) (s : State) : Answer := .next (s.wake u engineBody)

/-- What waits for room in the device-side launch queue. -/
def launchBody (i : Instr) : Option (UnitId → State → State) :=
  match i with
  | .launchd f x => some (State.launchd f x)
  | .replay f x => some (State.replay f x)
  | _ => none
/-- LAUNCH_QUEUE_ROOM (spec/14 R319): a LAUNCHD or REPLAY repeats. -/
def execLaunchQueueRoom (u : UnitId) (s : State) : Answer := .next (s.wake u launchBody)

/-- Every path of a team that waits for its trunk comes to its instruction again. -/
def State.wakeTrunk (s : State) (c t : Nat) : State := (s.teamUnits c t).foldl (fun s u => s.wake u trunkBody) s
/-- TCFG_PERFORM (spec/11 R258): the block is zeroed and arranged; once the command has completed the team's trunk is no longer
busy, and its paths go on. -/
def execTcfgPerform (c t : Nat) (s : State) : Answer :=
  .next (
    let s := s.tcfgPerform c t
    let s := s.wakeTrunk c t
    (s.spanOthers c t).foldl (fun s m => s.wakeTrunk m.1 m.2) s)
/-- TRUNK_PARTIAL_RECEIVE (spec/04 R103): the partials on their way to the team are received, and TSYNC.span waits of the others
of its span that they complete end. -/
def execTrunkPartialReceive (c t : Nat) (s : State) : Answer :=
  .next (
    let s := s.receivePartials c t
    (s.spanOthers c t).foldl (fun s m => s.wakeTrunk m.1 m.2) s)

end Sys2Proof.Machine
end

