-- ==== Sys2Proof/Machine/Dispatch.lean ====
section
/-! DEFINITION. One arm for each instruction and event of the opcode table: its meaning. -/
namespace Sys2Proof.Machine

def exec (i : Instr) (s : State) : Host.Outcome State Fault Refusal :=
  match i with
  | .vadd f => Sys2Proof.Machine.execVadd f s
  | .vsub f => Sys2Proof.Machine.execVsub f s
  | .vmul f => Sys2Proof.Machine.execVmul f s
  | .vmulh f => Sys2Proof.Machine.execVmulh f s
  | .vmad f => Sys2Proof.Machine.execVmad f s
  | .vmin f => Sys2Proof.Machine.execVmin f s
  | .vmax f => Sys2Proof.Machine.execVmax f s
  | .vand f => Sys2Proof.Machine.execVand f s
  | .vor f => Sys2Proof.Machine.execVor f s
  | .vxor f => Sys2Proof.Machine.execVxor f s
  | .vshl f => Sys2Proof.Machine.execVshl f s
  | .vshr f => Sys2Proof.Machine.execVshr f s
  | .vsar f => Sys2Proof.Machine.execVsar f s
  | .vclz f => Sys2Proof.Machine.execVclz f s
  | .vpopc f => Sys2Proof.Machine.execVpopc f s
  | .vaddi f => Sys2Proof.Machine.execVaddi f s
  | .vshli f => Sys2Proof.Machine.execVshli f s
  | .vshri f => Sys2Proof.Machine.execVshri f s
  | .vsari f => Sys2Proof.Machine.execVsari f s
  | .vsel f => Sys2Proof.Machine.execVsel f s
  | .vli f x => Sys2Proof.Machine.execVli f x s
  | .vcmp f x => Sys2Proof.Machine.execVcmp f x s
  | .fadd f => Sys2Proof.Machine.execFadd f s
  | .fmul f => Sys2Proof.Machine.execFmul f s
  | .ffma f => Sys2Proof.Machine.execFfma f s
  | .fmin f => Sys2Proof.Machine.execFmin f s
  | .fmax f => Sys2Proof.Machine.execFmax f s
  | .fcmp f x => Sys2Proof.Machine.execFcmp f x s
  | .bfma2 f => Sys2Proof.Machine.execBfma2 f s
  | .cvt f => Sys2Proof.Machine.execCvt f s
  | .frcp f => Sys2Proof.Machine.execFrcp f s
  | .frsq f => Sys2Proof.Machine.execFrsq f s
  | .fsqrt f => Sys2Proof.Machine.execFsqrt f s
  | .fexp2 f => Sys2Proof.Machine.execFexp2 f s
  | .flog2 f => Sys2Proof.Machine.execFlog2 f s
  | .sint f => Sys2Proof.Machine.execSint f s
  | .cost f => Sys2Proof.Machine.execCost f s
  | .vperm f => Sys2Proof.Machine.execVperm f s
  | .vshfl f => Sys2Proof.Machine.execVshfl f s
  | .vbcast f => Sys2Proof.Machine.execVbcast f s
  | .vmatch f => Sys2Proof.Machine.execVmatch f s
  | .vvote f x => Sys2Proof.Machine.execVvote f x s
  | .vreduce f => Sys2Proof.Machine.execVreduce f s
  | .vscan f => Sys2Proof.Machine.execVscan f s
  | .xsend f x => Sys2Proof.Machine.execXsend f x s
  | .xrecv f x => Sys2Proof.Machine.execXrecv f x s
  | .ld f x => Sys2Proof.Machine.execLd f x s
  | .st f x => Sys2Proof.Machine.execSt f x s
  | .lds f x => Sys2Proof.Machine.execLds f x s
  | .sts f x => Sys2Proof.Machine.execSts f x s
  | .ldq f x => Sys2Proof.Machine.execLdq f x s
  | .stq f x => Sys2Proof.Machine.execStq f x s
  | .atom f x => Sys2Proof.Machine.execAtom f x s
  | .atoms f x => Sys2Proof.Machine.execAtoms f x s
  | .acas f x => Sys2Proof.Machine.execAcas f x s
  | .acass f x => Sys2Proof.Machine.execAcass f x s
  | .aaddx f x => Sys2Proof.Machine.execAaddx f x s
  | .fence f x => Sys2Proof.Machine.execFence f x s
  | .discard f x => Sys2Proof.Machine.execDiscard f x s
  | .pref f x => Sys2Proof.Machine.execPref f x s
  | .accrd f x => Sys2Proof.Machine.execAccrd f x s
  | .tadd f x => Sys2Proof.Machine.execTadd f x s
  | .tnorm f x => Sys2Proof.Machine.execTnorm f x s
  | .tnormq f x => Sys2Proof.Machine.execTnormq f x s
  | .tsync f => Sys2Proof.Machine.execTsync f s
  | .accrdc f x => Sys2Proof.Machine.execAccrdc f x s
  | .cvbind f => Sys2Proof.Machine.execCvbind f s
  | .draw f => Sys2Proof.Machine.execDraw f s
  | .drawk f => Sys2Proof.Machine.execDrawk f s
  | .cvcur f => Sys2Proof.Machine.execCvcur f s
  | .result f => Sys2Proof.Machine.execResult f s
  | .rcmp f x => Sys2Proof.Machine.execRcmp f x s
  | .trace f x => Sys2Proof.Machine.execTrace f x s
  | .tracea f x => Sys2Proof.Machine.execTracea f x s
  | .traceo f x => Sys2Proof.Machine.execTraceo f x s
  | .hitrd f => Sys2Proof.Machine.execHitrd f s
  | .hituv f => Sys2Proof.Machine.execHituv f s
  | .vmarch f x => Sys2Proof.Machine.execVmarch f x s
  | .vmrd f => Sys2Proof.Machine.execVmrd f s
  | .rsave f => Sys2Proof.Machine.execRsave f s
  | .rload f => Sys2Proof.Machine.execRload f s
  | .rclr f => Sys2Proof.Machine.execRclr f s
  | .nop f => Sys2Proof.Machine.execNop f s
  | .br f => Sys2Proof.Machine.execBr f s
  | .brc f => Sys2Proof.Machine.execBrc f s
  | .brd f => Sys2Proof.Machine.execBrd f s
  | .brx f => Sys2Proof.Machine.execBrx f s
  | .join f => Sys2Proof.Machine.execJoin f s
  | .regang f => Sys2Proof.Machine.execRegang f s
  | .idle f => Sys2Proof.Machine.execIdle f s
  | .exit f => Sys2Proof.Machine.execExit f s
  | .call f x => Sys2Proof.Machine.execCall f x s
  | .ret f => Sys2Proof.Machine.execRet f s
  | .grow f => Sys2Proof.Machine.execGrow f s
  | .setfmt f => Sys2Proof.Machine.execSetfmt f s
  | .getfmt f => Sys2Proof.Machine.execGetfmt f s
  | .qput f => Sys2Proof.Machine.execQput f s
  | .qget f => Sys2Proof.Machine.execQget f s
  | .bar f x => Sys2Proof.Machine.execBar f x s
  | .setg f => Sys2Proof.Machine.execSetg f s
  | .sysrd f => Sys2Proof.Machine.execSysrd f s
  | .syswr f => Sys2Proof.Machine.execSyswr f s
  | .gadd f => Sys2Proof.Machine.execGadd f s
  | .gsub f => Sys2Proof.Machine.execGsub f s
  | .gmul f => Sys2Proof.Machine.execGmul f s
  | .gand f => Sys2Proof.Machine.execGand f s
  | .gor f => Sys2Proof.Machine.execGor f s
  | .gxor f => Sys2Proof.Machine.execGxor f s
  | .gshl f => Sys2Proof.Machine.execGshl f s
  | .gshr f => Sys2Proof.Machine.execGshr f s
  | .gsar f => Sys2Proof.Machine.execGsar f s
  | .gmin f => Sys2Proof.Machine.execGmin f s
  | .gmax f => Sys2Proof.Machine.execGmax f s
  | .gsel f => Sys2Proof.Machine.execGsel f s
  | .gcmp f x => Sys2Proof.Machine.execGcmp f x s
  | .mpop f => Sys2Proof.Machine.execMpop f s
  | .mffs f => Sys2Proof.Machine.execMffs f s
  | .gaddi f => Sys2Proof.Machine.execGaddi f s
  | .gli f x => Sys2Proof.Machine.execGli f x s
  | .glih f x => Sys2Proof.Machine.execGlih f x s
  | .gld f x => Sys2Proof.Machine.execGld f x s
  | .gst f x => Sys2Proof.Machine.execGst f x s
  | .gatom f x => Sys2Proof.Machine.execGatom f x s
  | .cpy f x => Sys2Proof.Machine.execCpy f x s
  | .layout f x => Sys2Proof.Machine.execLayout f x s
  | .zfill f x => Sys2Proof.Machine.execZfill f x s
  | .bfence f => Sys2Proof.Machine.execBfence f s
  | .bwait f => Sys2Proof.Machine.execBwait f s
  | .callred f x => Sys2Proof.Machine.execCallred f x s
  | .cgather f x => Sys2Proof.Machine.execCgather f x s
  | .omap f x => Sys2Proof.Machine.execOmap f x s
  | .mma f x => Sys2Proof.Machine.execMma f x s
  | .msqd f x => Sys2Proof.Machine.execMsqd f x s
  | .mtopk f x => Sys2Proof.Machine.execMtopk f x s
  | .mzero f x => Sys2Proof.Machine.execMzero f x s
  | .mstore f x => Sys2Proof.Machine.execMstore f x s
  | .maddt f x => Sys2Proof.Machine.execMaddt f x s
  | .tcfg f x => Sys2Proof.Machine.execTcfg f x s
  | .tevict f x => Sys2Proof.Machine.execTevict f x s
  | .trestore f x => Sys2Proof.Machine.execTrestore f x s
  | .mutate f x => Sys2Proof.Machine.execMutate f x s
  | .replay f x => Sys2Proof.Machine.execReplay f x s
  | .rrd f => Sys2Proof.Machine.execRrd f s
  | .cvend f => Sys2Proof.Machine.execCvend f s
  | .launchd f x => Sys2Proof.Machine.execLaunchd f x s
  | .gridsync f => Sys2Proof.Machine.execGridsync f s
  | .rqput f => Sys2Proof.Machine.execRqput f s
  | .rqputn f => Sys2Proof.Machine.execRqputn f s
  | .rqget f => Sys2Proof.Machine.execRqget f s
  | .rqgetn f => Sys2Proof.Machine.execRqgetn f s
  | .rqcnt f => Sys2Proof.Machine.execRqcnt f s
  | .yield f => Sys2Proof.Machine.execYield f s
  | .sleep f => Sys2Proof.Machine.execSleep f s
  | .evsig f => Sys2Proof.Machine.execEvsig f s
  | .trap f => Sys2Proof.Machine.execTrap f s
  | .trapc f => Sys2Proof.Machine.execTrapc f s
  | .tret f => Sys2Proof.Machine.execTret f s
  | .tretGoto f => Sys2Proof.Machine.execTretGoto f s
  | .tretKill f => Sys2Proof.Machine.execTretKill f s
  | .bkpt f => Sys2Proof.Machine.execBkpt f s
  | .haltTeam f => Sys2Proof.Machine.execHaltTeam f s
  | .haltFlush f => Sys2Proof.Machine.execHaltFlush f s
  | .errrd f => Sys2Proof.Machine.execErrrd f s
  | .faultRecordWrite ctx => Sys2Proof.Machine.execFaultRecordWrite ctx s
  | .fresumeRetry grove ctx seq => Sys2Proof.Machine.execFresumeRetry grove ctx seq s
  | .fresumeAbort grove ctx seq => Sys2Proof.Machine.execFresumeAbort grove ctx seq s
  | .ticmdPage win ctx tag => Sys2Proof.Machine.execTicmdPage win ctx tag s
  | .ticmdContext win ctx tag => Sys2Proof.Machine.execTicmdContext win ctx tag s
  | .ticmdGrove win grove tag => Sys2Proof.Machine.execTicmdGrove win grove tag s
  | .ticmdAll win tag => Sys2Proof.Machine.execTicmdAll win tag s
  | .invalidationComplete win => Sys2Proof.Machine.execInvalidationComplete win s
  | .splitcfgWrite stand v => Sys2Proof.Machine.execSplitcfgWrite stand v s
  | .l2WriteBack line => Sys2Proof.Machine.execL2WriteBack line s
  | .patrolScrub sector found => Sys2Proof.Machine.execPatrolScrub sector found s
  | .sramUncorrectableError at_ => Sys2Proof.Machine.execSramUncorrectableError at_ s
  | .cacheParityError at_ => Sys2Proof.Machine.execCacheParityError at_ s
  | .mirrorWriteApply die idx => Sys2Proof.Machine.execMirrorWriteApply die idx s
  | .spillFill u => Sys2Proof.Machine.execSpillFill u s
  | .scratchpadWaitEnd u => Sys2Proof.Machine.execScratchpadWaitEnd u s
  | .tileWaitEnd u => Sys2Proof.Machine.execTileWaitEnd u s
  | .queueWaitEnd u => Sys2Proof.Machine.execQueueWaitEnd u s
  | .rendezvousWaitEnd u => Sys2Proof.Machine.execRendezvousWaitEnd u s
  | .barrierPhaseComplete core team bar => Sys2Proof.Machine.execBarrierPhaseComplete core team bar s
  | .gridsyncPhaseComplete grid => Sys2Proof.Machine.execGridsyncPhaseComplete grid s
  | .batchWaitComplete u => Sys2Proof.Machine.execBatchWaitComplete u s
  | .convergentPerform u => Sys2Proof.Machine.execConvergentPerform u s
  | .growGrant core slot => Sys2Proof.Machine.execGrowGrant core slot s
  | .evictedGroupReadmit core => Sys2Proof.Machine.execEvictedGroupReadmit core s
  | .recordQueueWaitEnd u => Sys2Proof.Machine.execRecordQueueWaitEnd u s
  | .sleepExpiry u => Sys2Proof.Machine.execSleepExpiry u s
  | .engineQueueRoom u => Sys2Proof.Machine.execEngineQueueRoom u s
  | .launchQueueRoom u => Sys2Proof.Machine.execLaunchQueueRoom u s
  | .cpyPerform core team => Sys2Proof.Machine.execCpyPerform core team s
  | .layoutPerform core team => Sys2Proof.Machine.execLayoutPerform core team s
  | .zfillPerform core team => Sys2Proof.Machine.execZfillPerform core team s
  | .omapPerform core team => Sys2Proof.Machine.execOmapPerform core team s
  | .mmaChunk core team => Sys2Proof.Machine.execMmaChunk core team s
  | .msqdPerform core team => Sys2Proof.Machine.execMsqdPerform core team s
  | .mtopkPerform core team => Sys2Proof.Machine.execMtopkPerform core team s
  | .mzeroPerform core team => Sys2Proof.Machine.execMzeroPerform core team s
  | .mstorePerform core team => Sys2Proof.Machine.execMstorePerform core team s
  | .maddtPerform core team => Sys2Proof.Machine.execMaddtPerform core team s
  | .tcfgPerform core team => Sys2Proof.Machine.execTcfgPerform core team s
  | .tevictPerform core team q => Sys2Proof.Machine.execTevictPerform core team q s
  | .trestorePerform core team q => Sys2Proof.Machine.execTrestorePerform core team q s
  | .callredPerform core team => Sys2Proof.Machine.execCallredPerform core team s
  | .cgatherPerform core team => Sys2Proof.Machine.execCgatherPerform core team s
  | .trunkPartialReceive core team => Sys2Proof.Machine.execTrunkPartialReceive core team s
  | .traversalStep core slot lane => Sys2Proof.Machine.execTraversalStep core slot lane s
  | .marchStep core slot lane => Sys2Proof.Machine.execMarchStep core slot lane s
  | .issueSelect q => Sys2Proof.Machine.execIssueSelect q s
  | .pathAged u => Sys2Proof.Machine.execPathAged u s
  | .debugRecordWrite grove => Sys2Proof.Machine.execDebugRecordWrite grove s
  | .stallRecordWrite grove => Sys2Proof.Machine.execStallRecordWrite grove s
  | .qkick grove queue tail => Sys2Proof.Machine.execQkick grove queue tail s
  | .qcfgWrite grove queue v => Sys2Proof.Machine.execQcfgWrite grove queue v s
  | .qstatHaltClear grove queue => Sys2Proof.Machine.execQstatHaltClear grove queue s
  | .entryNop grove queue => Sys2Proof.Machine.execEntryNop grove queue s
  | .entryGraph grove queue => Sys2Proof.Machine.execEntryGraph grove queue s
  | .entryInstall grove queue r => Sys2Proof.Machine.execEntryInstall grove queue r s
  | .entrySignal grove queue => Sys2Proof.Machine.execEntrySignal grove queue s
  | .entryWait grove queue => Sys2Proof.Machine.execEntryWait grove queue s
  | .graphNodeStart grove queue node => Sys2Proof.Machine.execGraphNodeStart grove queue node s
  | .teamAdmission grid core => Sys2Proof.Machine.execTeamAdmission grid core s
  | .deviceLaunchStart grove => Sys2Proof.Machine.execDeviceLaunchStart grove s
  | .groupRetire core slot => Sys2Proof.Machine.execGroupRetire core slot s
  | .teamRetire core team => Sys2Proof.Machine.execTeamRetire core team s
  | .gridEnd grid => Sys2Proof.Machine.execGridEnd grid s
  | .pscmdSave win ctx all team tag => Sys2Proof.Machine.execPscmdSave win ctx all team tag s
  | .pscmdResume win ctx team tag core => Sys2Proof.Machine.execPscmdResume win ctx team tag core s
  | .pscmdTeardown win ctx all team tag => Sys2Proof.Machine.execPscmdTeardown win ctx all team tag s
  | .saveComplete win => Sys2Proof.Machine.execSaveComplete win s
  | .powerOn => Sys2Proof.Machine.execPowerOn s
  | .fundamentalReset => Sys2Proof.Machine.execFundamentalReset s
  | .bootAttempt links trained => Sys2Proof.Machine.execBootAttempt links trained s
  | .bootTimeout => Sys2Proof.Machine.execBootTimeout s
  | .bootcmdWarm => Sys2Proof.Machine.execBootcmdWarm s
  | .bootcmdSwap => Sys2Proof.Machine.execBootcmdSwap s
  | .flashcmd slot src => Sys2Proof.Machine.execFlashcmd slot src s
  | .lccmd dest auth owner => Sys2Proof.Machine.execLccmd dest auth owner s
  | .standgrvWrite stand v => Sys2Proof.Machine.execStandgrvWrite stand v s
  | .ringRegisterWrite grove debug v => Sys2Proof.Machine.execRingRegisterWrite grove debug v s
  | .gintAck grove v => Sys2Proof.Machine.execGintAck grove v s
  | .dbgstopArm grove v => Sys2Proof.Machine.execDbgstopArm grove v s
  | .dbgstopGo grove => Sys2Proof.Machine.execDbgstopGo grove s
  | .trig grove => Sys2Proof.Machine.execTrig grove s
  | .triggerReceive ostamp origin => Sys2Proof.Machine.execTriggerReceive ostamp origin s
  | .hostPostedWrite pa data => Sys2Proof.Machine.execHostPostedWrite pa data s
  | .hostRead pa n => Sys2Proof.Machine.execHostRead pa n s
  | .apertureAccess grove off n data => Sys2Proof.Machine.execApertureAccess grove off n data s
  | .peerAccessArrival link off n data => Sys2Proof.Machine.execPeerAccessArrival link off n data s
  | .supplySag die => Sys2Proof.Machine.execSupplySag die s
  | .sagRecoveryStep die => Sys2Proof.Machine.execSagRecoveryStep die s
  | .registerWrite fn off v => Sys2Proof.Machine.execRegisterWrite fn off v s
  | .flashWriteComplete size => Sys2Proof.Machine.execFlashWriteComplete size s
  | .peercfgWrite p v agrees => Sys2Proof.Machine.execPeercfgWrite p v agrees s
  | .peerLinkTrained p => Sys2Proof.Machine.execPeerLinkTrained p s

end Sys2Proof.Machine
end

