-- ==== Sys2Proof/Machine/Reorder.lean ====
section
/-! DEFINITION. Accesses whose instants are not those of their issue: reads that lanes make before they come to the instruction, stores
that become visible after it, and what each instruction has to wait for of them (spec/03 R84 to R95, notes/assumptions/5.md). -/
namespace Sys2Proof.Machine

/-! Group order. -/

/-- Lanes to which those of `m` are joined, where one of them is among them. -/
def grown (l m : Dword) : Dword := if l &&& m = 0 then l else l ||| m
/-- What precedes one lane of an issuing path in group order precedes all of them from this instance on (spec/03 R89). A read made early
by lanes of a path that has been merged with others is not used. -/
def Caches.unite (m : Caches) (w : Who) : Caches :=
  let later (e : PendWrite) : PendWrite := match e.after.find w.grp with
    | .none => e
    | some l => { e with after := e.after.put w.grp (grown l w.lanes) }
  { m with
    wbuf := m.wbuf.map later
    late := m.late.map fun e => if e.grp = w.grp then { e with w := later e.w, own := grown e.own w.lanes } else { e with w := later e.w }
    promises := m.promises.map fun p => if p.grp = w.grp then { p with lanes := grown p.lanes w.lanes } else p
    ahead := m.ahead.filter fun a => a.grp != w.grp || a.own &&& w.lanes == 0 || w.lanes &&& ~~~a.own == 0 }

/-! Plain accesses. -/

/-- A load, store or atomic of an instruction: its space, its size, whether it is a release, and its addresses. -/
structure PlainAccess where
  sp : Bool
  n : Nat
  rel : Bool
  eas : List Dword
/-- The loads, stores and atomics of spec/10 R228 to R236. -/
def State.plainOf (s : State) (u : UnitId) (i : Instr) : Option PlainAccess :=
  let lane (sp : Bool) (n : Nat) (rel : Bool) (f : LA) (b ix scl : Nat) (off : BitVec 16) : Option PlainAccess :=
    some { sp := sp, n := n, rel := rel, eas := (s.maskOf u).lanes.map (s.laneAddr u f.a.toNat b ix scl off) }
  let mem (sp : Bool) (n : Nat) (rel : Bool) (f : LA) (x : MemX) : Option PlainAccess :=
    lane sp n (rel && isRel x.ord.toNat) f f.b.toNat x.ix.toNat x.scl.toNat x.off
  let atom (sp : Bool) (n : Nat) (f : LA) (x : AtomX) : Option PlainAccess :=
    lane sp n (isRel x.ord.toNat) f f.b.toNat x.ix.toNat x.scl.toNat x.off
  match i with
  | .ld f x => mem false (sizeOfM f.m.toNat) false f x
  | .lds f x => mem true (sizeOfM f.m.toNat) false f x
  | .ldq f x => mem x.sp 16 false f x
  | .st f x => mem false (sizeOfM f.m.toNat) true f x
  | .sts f x => mem true (sizeOfM f.m.toNat) true f x
  | .stq f x => mem x.sp 16 true f x
  | .atom f x => atom false (typeW f.m / 8) f x
  | .atoms f x => atom true (typeW f.m / 8) f x
  | .acas f x => atom false (typeW f.m / 8) f x
  | .acass f x => atom true (typeW f.m / 8) f x
  | .aaddx f x => atom false 8 f x
  | .gld f x => some { sp := x.sp, n := sizeOfSZ x.sz.toNat, rel := false, eas := [s.uniAddr u f.a.toNat f.b.toNat x.ixe x.off] }
  | .gst f x =>
    some { sp := x.sp, n := sizeOfSZ x.sz.toNat, rel := isRel x.ord.toNat, eas := [s.uniAddr u f.a.toNat f.b.toNat x.ixe x.off] }
  | .gatom f x =>
    some { sp := x.sp, n := typeW x.ty / 8, rel := isRel x.ord.toNat, eas := [s.uniAddr u f.a.toNat f.b.toNat x.ixe x.off] }
  | _ => none
/-- Where an access at `ea` takes place: an address of the core's SRAM, or a physical one; nowhere if it has no translation. -/
def State.spotOf (s : State) (u : UnitId) (sp : Bool) (ea : Dword) : Option Nat :=
  if sp then some ((s.teamOf u).spBase + ea.toNat)
  else match s.lookup u.node (s.ctxOf u) ea.toNat with
    | .ok x => some (x.at_ u.node)
    | .error _ => none
/-- Does an access touch what a store put off writes? -/
def State.touches (s : State) (u : UnitId) (p : PlainAccess) (e : LateStore) : Bool :=
  p.sp == e.sp.isSome && p.eas.any fun ea => (s.spotOf u p.sp ea).any fun a => overlaps a p.n e.w.pa e.w.bytes.length
/-- Other instructions that access memory, or whose place among accesses something orders: each comes after every store of its lanes and
before every later read of theirs (spec/03 R92, R94; spec/04 R97, R110). -/
def Instr.orders (i : Instr) : Bool :=
  match i with
  | .fence _ _ => true | .discard _ _ => true | .xsend _ _ => true | .xrecv _ _ => true
  | .tadd _ _ => true | .tnorm _ _ => true | .tnormq _ _ => true | .tsync _ => true
  | .cvbind _ => true | .draw _ => true | .result _ => true | .rcmp _ _ => true | .cvend _ => true | .mutate _ _ => true
  | .trace _ _ => true | .tracea _ _ => true | .traceo _ _ => true | .vmarch _ _ => true | .rsave _ => true | .rload _ => true
  | .exit _ => true | .idle _ => true | .call _ _ => true | .ret _ => true | .grow _ => true
  | .qput _ => true | .qget _ => true | .bar _ _ => true | .setg _ => true
  | .cpy _ _ => true | .layout _ _ => true | .zfill _ _ => true | .bfence _ => true | .bwait _ => true
  | .callred _ _ => true | .cgather _ _ => true | .omap _ _ => true | .mma _ _ => true | .msqd _ _ => true | .mtopk _ _ => true
  | .mzero _ _ => true | .mstore _ _ => true | .maddt _ _ => true | .tcfg _ _ => true | .tevict _ _ => true | .trestore _ _ => true
  | .replay _ _ => true | .launchd _ _ => true | .gridsync _ => true
  | .rqput _ => true | .rqputn _ => true | .rqget _ => true | .rqgetn _ => true | .rqcnt _ => true | .evsig _ => true
  | _ => false
/-- Is a command placed in an engine queue: presence bits that it clears come after every store of its core (spec/02 R53, R56)? -/
def Instr.queues (i : Instr) : Bool :=
  match i with
  | .cpy _ _ => true | .zfill _ _ => true | .callred _ _ => true | .cgather _ _ => true | .mstore _ _ => true | .mtopk _ _ => true
  | .trestore _ _ => true
  | _ => false
/-- The unit issues an instruction: its lanes have one past, and of the stores put off those that the instruction comes after are
visible (spec/03 R89, R92). -/
def State.issued (s : State) (u : UnitId) (i : Instr) : State :=
  let s := s.onCaches u.node fun m => m.unite (s.whoOf u)
  if (s.caches u.node).late.isEmpty && (s.caches u.node).ahead.isEmpty then s else
  let w := s.whoOf u
  let mine (e : LateStore) : Bool := e.grp == w.grp && e.own &&& w.lanes != 0
  match s.plainOf u i with
  | some p => s.appearIf u.node fun e => mine e && (p.rel || s.touches u p e)
  | none =>
    if Instr.orders i then (s.appearIf u.node fun e => mine e || Instr.queues i).forget u else s

/-! Reads made early. -/

/-- Lanes of a unit that is about to issue, the lowest `upto` of them, read bytes of one sector before they come to the instruction that
reads them: in scratchpad of a line that is present, in global memory with t = p, or as an L1-view read (spec/03 R86, R87, R90). No such
read finds poison. -/
def State.readAhead (s : State) (u : UnitId) (upto : Nat) (sp : Bool) (place n : Nat) (fresh : Bool) : State :=
  let w := s.whoOf u
  let tm := s.teamOf u
  let line := place / 64
  let here (bs : List Byte) : Ahead :=
    { grp := w.grp, own := w.lanes, lanes := w.lanes &&& Dword.low upto, sp := sp, place := place, bytes := bs, fresh := fresh }
  let keep (s : State) (bs : List Byte) : State := s.onCaches u.node fun m => { m with ahead := m.ahead ++ [here bs] }
  if !s.alive u || (s.thread u).state != .ready || n = 0 || (place + n - 1) / 64 != line then s
  else if sp then
    if !(decide (u.node < 512) && decide (tm.spBase ≤ place)) then s else
    let a := place - tm.spBase
    if !tm.spIn a n || tm.spAbsent a n || s.spPoisoned u.place (s.teamSlot u) a n then s
    else keep s (s.spRead u.place (s.teamSlot u) a n)
  else if s.poisoned place n then s
  else if fresh then keep (s.onCaches u.node Caches.noLines) (s.seeHome u.node place n)
  else
    let bs := ((((s.caches u.node).l1.find line).getD (s.seeHome u.node (64 * line) 64)).drop (place % 64)).take n
    keep (s.onCaches u.node fun m => { m with views := m.views.drop line }) bs

/-! Stores put off. -/

/-- What a store writes: by lane or for the unit, its bytes. -/
structure StoreOf where
  acc : PlainAccess
  req : Nat
  rel : Nat
  bytes : List (List Byte)
/-- The stores of spec/10 R228, R229 and R236. -/
def State.storeOf (s : State) (u : UnitId) (i : Instr) : Option StoreOf :=
  let lanes := (s.maskOf u).lanes
  let mem (f : LA) (x : MemX) : Option StoreOf := (s.plainOf u i).map fun p =>
    { acc := p, req := reqOf x.pol.toNat, rel := relScope x.ord.toNat x.scope.toNat
      bytes := lanes.map fun l => natLe p.n (s.vwide u l f.d.toNat (if f.m.toNat = 5 then 64 else 32)).toNat }
  match i with
  | .st f x => mem f x
  | .sts f x => mem f x
  | .stq f x => if f.d.toNat % 4 != 0 then none else (s.plainOf u i).map fun p =>
    { acc := p, req := reqOf x.pol.toNat, rel := relScope x.ord.toNat x.scope.toNat
      bytes := lanes.map fun l => s.quadOf u l f.d.toNat }
  | .gst f x => if !spOk u x.sp then none else (s.plainOf u i).map fun p =>
    { acc := p, req := reqOf x.pol.toNat, rel := relScope x.ord.toNat x.scope.toNat
      bytes := [natLe p.n (s.sget u f.d.toNat).toNat] }
  | _ => none
/-- One store put off: its leaf is used, and it is among those of its node that are still to become visible. -/
def State.lateOne (s : State) (u : UnitId) (req rel : Nat) (r : Ready) (bs : List Byte) : State :=
  let w := s.whoOf u
  let put (s : State) (x : PendWrite) (sp : Option Nat) : State :=
    ({ s with nextWrite := s.nextWrite + 1 } : State).onCaches u.node fun m =>
      { m with late := m.late ++ [{ w := x, grp := w.grp, own := w.lanes, sp := sp }] }
  match r.xl with
  | none =>
    put (s.touch w true (s.spPlace u r) bs.length)
      { id := s.nextWrite, after := .empty, pa := s.spPlace u r, bytes := bs, pol := 0, mir := false, zel := false, deps := [], rel := 0 }
      (some (s.teamSlot u))
  | some x =>
    let s := (s.useLeaf u.node (s.ctxOf u) r.addr x .store).touch w false (x.at_ u.node) bs.length
    put s (s.pending w x bs req rel) none
/-- The next instruction of a unit, if it is a store that neither waits nor faults, is issued, and becomes visible only later
(spec/03 R85, R88). A release comes after the stores of its lanes that were put off before it. -/
def State.storeLater (s : State) (u : UnitId) (i : Instr) : State :=
  match s.storeOf u i with
  | none => s
  | some st =>
    let p := st.acc
    let chk := p.eas.map (s.accessCheck u p.sp .store p.n 0)
    if (s.preCheck u i).isSome || (p.eas.any fun ea => s.mustWait u p.sp p.n ea) ||
        chk.any (fun c => match c with
          | .ok _ => false
          | .error _ => true) then s
    else
      let s := s.issued u i
      let go (s : State) (c : Except Flt Ready × List Byte) : State := match c.1 with
        | .ok r => s.lateOne u st.req st.rel r c.2
        | .error _ => s
      let s := (chk.zip st.bytes).foldl go s
      match i with
      | .gst _ _ => s.doneG u i
      | _ => s.doneL u i

end Sys2Proof.Machine
end

