-- ==== Sys2Proof/Machine/Fetch.lean ====
section
/-! DEFINITION. Fetching the next instruction, and what the machine may do next by itself (spec/02 R61, spec/07 R162, R163, R175,
spec/01 R36; notes/assumptions/1.md, 4.md). -/
namespace Sys2Proof.Machine

/-! Fetch. -/

/-- What fetching gives: an instruction to perform, or a state in which its unit has faulted. -/
inductive Fetched where
  | run (i : Instr) (s : State)
  | stop (s : State)
/-- A fetch that faults: NOTPRESENT parks the whole unit at the fetched address, anything else is a fault of the unit
(spec/01 R36, spec/07 R175). -/
def State.faultFetch (s : State) (u : UnitId) (f : Flt) : State :=
  match u with
  | .path _ _ _ =>
    if f.cause != 0 then s.faultUnit u f else
    let m := (s.maskOf u).lanes
    let s := ((s.commit u).onThread u fun t => t.restart t.pc).leave u
    s.parkWhole u (m.map fun l => (l, f))
  | u => s.faultUnit u f
/-- The bytes of the unit's next instruction, at most eight and all of one 64-byte line, and what fetching them leaves. -/
def State.fetch (s : State) (u : UnitId) : Except Flt (List Byte × State) :=
  let n := u.node
  let c := s.ctxOf u
  let pc := s.pcOf u
  match s.translate n c pc .fetch with
  | .error f => .error f
  | .ok x =>
    let pa := x.at_ n
    let line := pa / 64
    if !(s.caches n).code.has line && s.poisoned (64 * line) 64 then .error (poisonAt .fetch pc)
    else .ok (((s.codeLine n line).drop (pa % 64)).take 8, (s.useLeaf n c pc x .fetch).keepCode n line x.zel)
/-- The fault of bytes that are no instruction (spec/07 R175 steps 2 and 4). -/
def decodeFault : DecodeError → Flt
  | .reservedMode => fltD 0x22 0
  | _ => fltD 0x20 0
/-- The unit's next instruction. An instruction at offset 60 of its line has no second word to fetch: its checks, which come
before anything is read from it, are made with a second word of zeros (spec/07 R163). -/
def State.fetchNext (s : State) (u : UnitId) : Fetched :=
  if !s.alive u || (s.thread u).state != .ready then .stop (s.leave u) else
  match s.fetch u with
  | .error f => .stop (s.faultFetch u f)
  | .ok (bs, s) => match decode (bs ++ [0, 0, 0, 0]) with
    | .ok (i, _) => .run i s
    | .error e => .stop (s.faultUnit u (decodeFault e))

/-! Turns of the agenda that are no event of the opcode table. -/

/-- May the unit have the turn: ready, and chosen by its quadrant? A program of a lantern core has it in its round only (spec/14
R324). -/
def State.mayIssue (s : State) (u : UnitId) : Bool :=
  s.alive u && (s.thread u).state == .ready && (match u with
    | .lant _ _ => false
    | _ => ((s.core u.place).quads.get u.quad .none).current == some u)
/-- A predictor with an entry put in; it holds 1024 (spec/13 R297). -/
def keepPred (l : List PredEntry) (e : PredEntry) : List PredEntry := (e :: l.filter fun x => x != e).take 1024
/-- One unit of the head command of a team's engine queue: a chunk of MMA or MSQD, 64 bytes of the others that have a range, so that a
save may stop it there (spec/15 R339). -/
def State.unitTurn (s : State) (c t q : Nat) : State :=
  match (s.headOf c t q).map Cmd.instr with
  | some (.cpy _ _) => s.perform c t q (State.cpyWork c t (some 1))
  | some (.zfill _ _) => s.perform c t q (State.zfillWork c t (some 1))
  | some (.mma _ _) => s.perform c t q (State.chunkWork c t)
  | some (.msqd _ _) => s.perform c t q (State.chunkWork c t)
  | some (.mtopk _ _) => s.perform c t q (State.mtopkWork c t (some 1))
  | some (.mstore _ _) => s.perform c t q (State.mstoreWork c t (some 1))
  | some (.tevict _ _) => s.perform c t q (State.tevictWork c t (some 1))
  | some (.trestore _ _) => s.perform c t q (State.trestoreWork c t (some 1))
  | some (.callred _ _) => s.collPerform true (some 1) c t
  | some (.cgather _ _) => s.collPerform false (some 1) c t
  | _ => s
/-- A turn that is no event. -/
def State.otherTurn (s : State) (t : Turn) : State :=
  match t with
  | .event _ => s
  | .issue u => if s.mayIssue u then { s with turn := some u } else s
  | .drain n k => s.drain n k
  | .evictL1 n line => s.onCaches n fun m => { m with l1 := m.l1.drop line }
  | .evictCode n line => s.onCaches n fun m => { m with code := m.code.drop line }
  | .evictTlb n k => s.onCaches n fun m => { m with tlb := m.tlb.eraseIdx k }
  | .evictWalk d k => { s with walks := s.walks.put d ((s.walks.get d []).eraseIdx k) }
  | .glance n line => s.glance n line
  | .readAhead u upto sp place n fresh => s.readAhead u upto sp place n fresh
  | .putOff u => if !s.mayIssue u then s else match s.fetchNext u with
    | .run i s' => s'.storeLater u i
    | .stop s' => s'
  | .appear n k => s.appear n k
  | .between _ _ => s
  | .unit c t q => s.unitTurn c t q
  | .evictLayout c k => s.onCore c fun q => { q with layouts := q.layouts.eraseIdx k }
  | .learn c ctx root leaf => s.onCore c fun q => { q with predictor := keepPred q.predictor { ctx := ctx, root := root, leaf := leaf } }

/-! What may happen next. -/

/-- What may end a wait of a unit, or age it. -/
def unitTurns (u : UnitId) : List Turn :=
  [.issue u, .putOff u, .event (.scratchpadWaitEnd u), .event (.tileWaitEnd u), .event (.queueWaitEnd u), .event (.rendezvousWaitEnd u),
   .event (.batchWaitComplete u), .event (.convergentPerform u), .event (.recordQueueWaitEnd u), .event (.sleepExpiry u),
   .event (.engineQueueRoom u), .event (.launchQueueRoom u), .event (.spillFill u), .event (.pathAged u)]
/-- What a team's engines and the team itself may do. -/
def teamTurns (c t : Nat) : List Turn :=
  let bars : List Turn := (List.range 16).map fun k => .event (.barrierPhaseComplete c t k)
  let units : List Turn := (List.range 4).map fun q => .unit c t q
  List.append [.event (.cpyPerform c t), .event (.layoutPerform c t), .event (.zfillPerform c t), .event (.omapPerform c t),
   .event (.mmaChunk c t), .event (.msqdPerform c t), .event (.mtopkPerform c t), .event (.mzeroPerform c t),
   .event (.mstorePerform c t), .event (.maddtPerform c t), .event (.tcfgPerform c t), .event (.tevictPerform c t 1),
   .event (.tevictPerform c t 2), .event (.trestorePerform c t 1), .event (.trestorePerform c t 2), .event (.callredPerform c t),
   .event (.cgatherPerform c t), .event (.trunkPartialReceive c t), .event (.teamRetire c t)] (units ++ bars)
/-- What a node's caches and accesses may do: a write takes its core-visible or its home instant, an entry leaves its cache, a line is
seen for a later read. -/
def State.cacheTurns (s : State) (n : Nat) : List Turn :=
  let m := s.caches n
  List.flatten [(List.range m.wbuf.length).map (.drain n), (List.range m.late.length).map (.appear n), m.l1.keys.map (.evictL1 n),
    m.code.keys.map (.evictCode n), (List.range m.tlb.length).map (.evictTlb n), [.glance n (s.freeVal % 2 ^ 34)]]
/-- The reads that a unit may make early: any bytes of one sector, for any of its lanes from the lowest up. -/
def State.aheadTurns (s : State) (u : UnitId) : List Turn :=
  let a := s.freeVal / 2 ^ 16 % 2 ^ 46
  let n := 1 + s.freeVal / 2 ^ 8 % 16
  let upto := s.freeVal / 2 ^ 2 % 2 ^ 6 + 1
  [.readAhead u upto true a n false, .readAhead u upto false a n false, .readAhead u upto false a n true]
/-- What may happen on a core. -/
def State.coreTurns (s : State) (c : Nat) : List Turn :=
  let k := s.core c
  let paths : List UnitId := k.groups.cells.flatMap fun g => g.2.paths.cells.map fun p => .path c g.1 p.1
  let seqs : List UnitId := k.teams.cells.map fun t => .seq c t.1
  let select : List Turn := (List.range 4).map fun q => .event (.issueSelect (.quad c q))
  let teams : List Turn := k.teams.cells.flatMap fun t => teamTurns c t.1
  let groups : List Turn := k.groups.cells.flatMap fun g => [.event (.groupRetire c g.1), .event (.growGrant c g.1)]
  let mixed : List Turn := (paths.filter fun u => s.mayIssue u).flatMap fun u => paths.map fun v => .between u [(s.freeVal % 64, v)]
  let rays : List Turn := k.groups.cells.flatMap fun g =>
    g.2.live.lanes.flatMap fun l => [.event (.traversalStep c g.1 l), .event (.marchStep c g.1 l)]
  let layouts : List Turn := (List.range k.layouts.length).map (.evictLayout c)
  List.flatten [select, (paths ++ seqs).flatMap unitTurns, (paths ++ seqs).flatMap s.aheadTurns, mixed, teams, groups, rays, [.event (.evictedGroupReadmit c)], s.cacheTurns c,
    layouts]
/-- What may happen on a lantern core. -/
def State.lanternTurns (s : State) (l : Nat) : List Turn :=
  let k := s.lantern l
  List.flatten [[.event (.issueSelect (.lantern l))], k.progs.cells.flatMap fun p => unitTurns (.lant l p.1) ++ s.aheadTurns (.lant l p.1), s.cacheTurns (512 + l)]
/-- What may happen in a grove's front end and rings. -/
def State.groveTurns (s : State) (g : Nat) : List Turn :=
  let queues : List Turn := (s.grove g).queues.cells.flatMap fun q =>
    let nodes : List Turn := match q.2.graph with
      | some r => (List.range r.descs.length).map fun n => .event (.graphNodeStart g q.1 n)
      | none => []
    List.append [.event (.entryNop g q.1), .event (.entryGraph g q.1), .event (.entrySignal g q.1), .event (.entryWait g q.1)] nodes
  List.append [.event (.debugRecordWrite g), .event (.stallRecordWrite g), .event (.deviceLaunchStart g),
    .event (.saveComplete (some g)), .event (.invalidationComplete (some g))] queues
/-- What may happen to a grid. -/
def State.gridTurns (s : State) (gid : Nat) : List Turn :=
  let g := s.grid gid
  let places : List Turn := (if g.lant then s.stands g.grove else s.groveCores g.grove).map fun c => .event (.teamAdmission gid c)
  List.append [.event (.gridsyncPhaseComplete gid), .event (.gridEnd gid)] places
/-- Everything the machine may do by itself; a turn whose condition does not hold changes nothing. -/
def State.turns (s : State) : List Turn :=
  let records : List Turn := s.ctxs.keys.map fun c => .event (.faultRecordWrite c)
  let lines : List Turn := s.l2.keys.map fun l => .event (.l2WriteBack l)
  let mirror : List Turn := (List.range s.mirror.flight.length).flatMap fun i => (List.range 8).map fun d => .event (.mirrorWriteApply d i)
  let walks : List Turn := s.walks.cells.flatMap fun d => (List.range d.2.length).map (.evictWalk d.1)
  List.flatten [s.cores.keys.flatMap s.coreTurns, s.lanterns.keys.flatMap s.lanternTurns, s.groves.keys.flatMap s.groveTurns,
    s.grids.keys.flatMap s.gridTurns, records, [.event (.saveComplete none), .event (.invalidationComplete none)], lines, mirror, walks]
/-- Every store put off becomes visible, the oldest pending write takes its home instant, and every die applies a mirror write that has
come to it. -/
def State.hasten (s : State) : State :=
  let nodes : List Nat := s.cores.keys ++ s.lanterns.keys.map (512 + ·)
  let s := nodes.foldl (fun s n => s.appearIf n fun _ => true) s
  let heads : List (Nat × Nat) := nodes.filterMap fun n => (s.caches n).wbuf.head?.map fun (w : PendWrite) => (w.id, n)
  let s := match heads with
    | [] => s
    | h :: r => s.drain (r.foldl (fun (a b : Nat × Nat) => if b.1 < a.1 then b else a) h).2 0
  s.mirrorSettle 1
/-- What a free choice of the machine leaves: a new place among the free values; after finitely many, the oldest pending write is at
its home (spec/03 R88, notes/assumptions/60.md). -/
def State.passed (s : State) : State :=
  if Config.patience ≤ s.waited then { s.hasten.spend with waited := 0 } else { s.spend with waited := s.waited + 1 }
/-- The turn that the machine takes when nothing is on the agenda and no unit has its turn: a free choice. -/
def State.freeTurn (s : State) : Option Turn := s.turns[Config.pick s.freeIdx % s.turns.length]?

/-! An instruction placed where it is fetched next (notes/assumptions/4.md). -/

/-- The address, virtual and physical, at which a placed instruction stands. -/
def placedVa : Dword := 0x10000
/-- The 1 GiB frame that holds it. -/
def placedFrame : Nat := 0x40000000
/-- The unit that fetches a placed instruction: a compute path, or the team sequencer where only it may issue it. -/
def placedUnit (i : Option Instr) : UnitId :=
  match i with
  | some i => if i.wrongUnit (.path 0 0 0) then .seq 0 0 else .path 0 0 0
  | none => .path 0 0 0
/-- Memory with page tables that map the frame, readable and executable, at virtual address 0, and with eight bytes of code. -/
def placedMem (m : Mem) (w : Nat) : Mem :=
  ((m.write 0x100000 (natLe 8 0x200001)).write 0x200000 (natLe 8 (placedFrame + 0x457))).write (placedFrame + 0x10000) (natLe 8 w)
/-- A kernel of one group of 32 lanes. -/
def placedKernel : Kernel :=
  { ctx := 0, entry := 0x10000, addrEntry := 0x10000, width := 32, roles := [], energy := 0, replayable := false }
/-- A team with one group and one path of 32 lanes on core 0, whose sequencer and path stand at the placed instruction. -/
def placedCore : Core :=
  { Core.none with
    groups := Tab.empty.put 0 { Group.none with
      width := 32, launched := Dword.low 32, alloc := 112
      paths := Tab.empty.put 0 { Path.none with th := Thread.startAt placedVa 0, mask := Dword.low 32 } }
    teams := Tab.empty.put 0 { Team.none with
      kernel := placedKernel, slots := [0], spSize := 4096, tiles := [0], seq := Thread.startAt placedVa 0
      trunk := { TrunkCfg.none with size := 2048, members := [0] } }
    tiles := Tab.empty.put 0 Tile.zero }
/-- The machine about to fetch word `w`, as unit `u`. -/
def State.placeCode (s : State) (u : UnitId) (w : Nat) : State :=
  { s with
    mem := placedMem s.mem w, walks := s.walks.drop 0
    poison := s.poison.filter fun k => !(k == 0x100000 / 64 || k == 0x200000 / 64 || k == (placedFrame + 0x10000) / 64)
    cores := s.cores.put 0 { placedCore with quads := Tab.empty.put 0 { current := some u, last := 0 } }
    ctxs := s.ctxs.put 0 { Context.reset with desc := { w0 := 0x100001, w1 := 1, w2 := 0x300006, w3 := 0 } }
    grids := s.grids.put 0 { Grid.none with kernel := placedKernel, admitted := 1 }
    kernels := [placedKernel], agenda := [], turn := some u }

end Sys2Proof.Machine
end

