-- ==== Sys2Proof/Machine/Interleave.lean ====
section
/-! DEFINITION. Accesses of other parties between those of the lanes of one atomic instruction (spec/03 R90, notes/assumptions/5.md). -/
namespace Sys2Proof.Machine

/-- The next instruction of unit `v` in the midst of one of unit `u`: an instruction that would change `u` itself, or a unit that may not
issue, does nothing here. -/
def State.otherFirst (s : State) (u v : UnitId) : State :=
  if v = u || !s.mayIssue v then s else
  let done (t : State) : State := if t.alive u && decide (t.pathOf u = s.pathOf u) then { t with turn := some u } else s
  match s.fetchNext v with
  | .stop t => done t
  | .run i t => match exec i { t.issued v i with turn := some v } with
    | .next t => done t
    | .fault _ => s
    | .refused _ => s
/-- The next instruction of a unit, if it is an atomic of its lanes: before lane `k` accesses, the units that `others` pairs with `k`
issue their next instruction. -/
def State.between (s : State) (u : UnitId) (others : List (Nat × UnitId)) : State :=
  if !s.mayIssue u then s else
  match s.fetchNext u with
  | .stop t => t
  | .run i t =>
    let t : State := { t.issued u i with turn := some u }
    let mid (s : State) (l : Nat) : State := (others.filter fun o => o.1 == l).foldl (fun s o => s.otherFirst u o.2) s
    if (t.preCheck u i).isSome then s else
    match i with
    | .atom f x => State.atomAny i f x false u t mid
    | .atoms f x => State.atomAny i f x true u t mid
    | .acas f x => State.casAny i f x false u t mid
    | .acass f x => State.casAny i f x true u t mid
    | .aaddx f x => State.aaddx f x u t mid
    | _ => s

end Sys2Proof.Machine
end

