-- ==== Sys2Proof/Machine/Step.lean ====
section
/-! DEFINITION. One step of the machine: a turn of the agenda, or the next instruction of the unit whose turn it is, or a free
choice of what moves next (notes/assumptions/1.md). -/
namespace Sys2Proof.Machine

/-- A turn is taken. An instruction that has a word is never an event. -/
def runTurn (t : Turn) (s : State) : Host.Outcome State Fault Refusal :=
  match t with
  | .event i => if hasWord i then .next s else exec i s
  | .between u others => .next (s.between u others)
  | t => .next (s.otherTurn t)

/-- One step. -/
def step (s : State) : Host.Outcome State Fault Refusal :=
  match s.agenda with
  | t :: r => runTurn t { s with agenda := r }
  | [] => match s.turn with
    | some u => match s.fetchNext u with
      | .run i s' => exec i (s'.issued u i)
      | .stop s' => .next s'
    | none => match s.freeTurn with
      | some t => runTurn t s.passed
      | none => .next s

/-- `s` with the instruction of bits `w` stored where the next step fetches (notes/assumptions/4.md). -/
def State.withFetchWord (s : State) (nbits w : Nat) : State :=
  s.placeCode (placedUnit (decodeTableWord nbits w)) (w % 2 ^ nbits)

end Sys2Proof.Machine
end

