-- ==== Sys2Proof/Laws/Exec.lean ====
section
/-! SUPPORT. One arm of `exec` each: what an instruction or event comes to. -/
namespace Sys2Proof.Machine

variable (s : State)

theorem exec_vadd (f : LA) : exec (.vadd f) s = execVadd f s := rfl
theorem exec_vsub (f : LA) : exec (.vsub f) s = execVsub f s := rfl
theorem exec_vmul (f : LA) : exec (.vmul f) s = execVmul f s := rfl
theorem exec_vmulh (f : LA) : exec (.vmulh f) s = execVmulh f s := rfl
theorem exec_vmad (f : LA) : exec (.vmad f) s = execVmad f s := rfl
theorem exec_vmin (f : LA) : exec (.vmin f) s = execVmin f s := rfl
theorem exec_vmax (f : LA) : exec (.vmax f) s = execVmax f s := rfl
theorem exec_vand (f : LA) : exec (.vand f) s = execVand f s := rfl
theorem exec_vor (f : LA) : exec (.vor f) s = execVor f s := rfl
theorem exec_vxor (f : LA) : exec (.vxor f) s = execVxor f s := rfl
theorem exec_vshl (f : LA) : exec (.vshl f) s = execVshl f s := rfl
theorem exec_vshr (f : LA) : exec (.vshr f) s = execVshr f s := rfl
theorem exec_vsar (f : LA) : exec (.vsar f) s = execVsar f s := rfl
theorem exec_vclz (f : LA) : exec (.vclz f) s = execVclz f s := rfl
theorem exec_vpopc (f : LA) : exec (.vpopc f) s = execVpopc f s := rfl
theorem exec_vaddi (f : LI) : exec (.vaddi f) s = execVaddi f s := rfl
theorem exec_vshli (f : LI) : exec (.vshli f) s = execVshli f s := rfl
theorem exec_vshri (f : LI) : exec (.vshri f) s = execVshri f s := rfl
theorem exec_vsari (f : LI) : exec (.vsari f) s = execVsari f s := rfl
theorem exec_vsel (f : LA) : exec (.vsel f) s = execVsel f s := rfl
theorem exec_vli (f : LA) (x : Lit) : exec (.vli f x) s = execVli f x s := rfl
theorem exec_vcmp (f : LA) (x : CmpX) : exec (.vcmp f x) s = execVcmp f x s := rfl
theorem exec_fadd (f : LA) : exec (.fadd f) s = execFadd f s := rfl
theorem exec_fmul (f : LA) : exec (.fmul f) s = execFmul f s := rfl
theorem exec_ffma (f : LA) : exec (.ffma f) s = execFfma f s := rfl
theorem exec_fmin (f : LA) : exec (.fmin f) s = execFmin f s := rfl
theorem exec_fmax (f : LA) : exec (.fmax f) s = execFmax f s := rfl
theorem exec_fcmp (f : LA) (x : CmpX) : exec (.fcmp f x) s = execFcmp f x s := rfl
theorem exec_bfma2 (f : LA) : exec (.bfma2 f) s = execBfma2 f s := rfl
theorem exec_cvt (f : LA) : exec (.cvt f) s = execCvt f s := rfl
theorem exec_frcp (f : LA) : exec (.frcp f) s = execFrcp f s := rfl
theorem exec_frsq (f : LA) : exec (.frsq f) s = execFrsq f s := rfl
theorem exec_fsqrt (f : LA) : exec (.fsqrt f) s = execFsqrt f s := rfl
theorem exec_fexp2 (f : LA) : exec (.fexp2 f) s = execFexp2 f s := rfl
theorem exec_flog2 (f : LA) : exec (.flog2 f) s = execFlog2 f s := rfl
theorem exec_sint (f : LA) : exec (.sint f) s = execSint f s := rfl
theorem exec_cost (f : LA) : exec (.cost f) s = execCost f s := rfl
theorem exec_vperm (f : LA) : exec (.vperm f) s = execVperm f s := rfl
theorem exec_vshfl (f : LA) : exec (.vshfl f) s = execVshfl f s := rfl
theorem exec_vbcast (f : LA) : exec (.vbcast f) s = execVbcast f s := rfl
theorem exec_vmatch (f : LA) : exec (.vmatch f) s = execVmatch f s := rfl
theorem exec_vvote (f : LA) (x : VoteX) : exec (.vvote f x) s = execVvote f x s := rfl
theorem exec_vreduce (f : LA) : exec (.vreduce f) s = execVreduce f s := rfl
theorem exec_vscan (f : LA) : exec (.vscan f) s = execVscan f s := rfl
theorem exec_xsend (f : LA) (x : SlotX) : exec (.xsend f x) s = execXsend f x s := rfl
theorem exec_xrecv (f : LA) (x : SlotX) : exec (.xrecv f x) s = execXrecv f x s := rfl
theorem exec_ld (f : LA) (x : MemX) : exec (.ld f x) s = execLd f x s := rfl
theorem exec_st (f : LA) (x : MemX) : exec (.st f x) s = execSt f x s := rfl
theorem exec_lds (f : LA) (x : MemX) : exec (.lds f x) s = execLds f x s := rfl
theorem exec_sts (f : LA) (x : MemX) : exec (.sts f x) s = execSts f x s := rfl
theorem exec_ldq (f : LA) (x : MemX) : exec (.ldq f x) s = execLdq f x s := rfl
theorem exec_stq (f : LA) (x : MemX) : exec (.stq f x) s = execStq f x s := rfl
theorem exec_atom (f : LA) (x : AtomX) : exec (.atom f x) s = execAtom f x s := rfl
theorem exec_atoms (f : LA) (x : AtomX) : exec (.atoms f x) s = execAtoms f x s := rfl
theorem exec_acas (f : LA) (x : AtomX) : exec (.acas f x) s = execAcas f x s := rfl
theorem exec_acass (f : LA) (x : AtomX) : exec (.acass f x) s = execAcass f x s := rfl
theorem exec_aaddx (f : LA) (x : AtomX) : exec (.aaddx f x) s = execAaddx f x s := rfl
theorem exec_fence (f : LA) (x : FenceX) : exec (.fence f x) s = execFence f x s := rfl
theorem exec_discard (f : LA) (x : MemX) : exec (.discard f x) s = execDiscard f x s := rfl
theorem exec_pref (f : LA) (x : MemX) : exec (.pref f x) s = execPref f x s := rfl
theorem exec_accrd (f : LA) (x : TileX) : exec (.accrd f x) s = execAccrd f x s := rfl
theorem exec_tadd (f : LA) (x : TaddX) : exec (.tadd f x) s = execTadd f x s := rfl
theorem exec_tnorm (f : LA) (x : EpsX) : exec (.tnorm f x) s = execTnorm f x s := rfl
theorem exec_tnormq (f : LA) (x : EpsX) : exec (.tnormq f x) s = execTnormq f x s := rfl
theorem exec_tsync (f : LA) : exec (.tsync f) s = execTsync f s := rfl
theorem exec_accrdc (f : LA) (x : TileX) : exec (.accrdc f x) s = execAccrdc f x s := rfl
theorem exec_cvbind (f : LA) : exec (.cvbind f) s = execCvbind f s := rfl
theorem exec_draw (f : LA) : exec (.draw f) s = execDraw f s := rfl
theorem exec_drawk (f : LA) : exec (.drawk f) s = execDrawk f s := rfl
theorem exec_cvcur (f : LA) : exec (.cvcur f) s = execCvcur f s := rfl
theorem exec_result (f : LA) : exec (.result f) s = execResult f s := rfl
theorem exec_rcmp (f : LA) (x : AstrX) : exec (.rcmp f x) s = execRcmp f x s := rfl
theorem exec_trace (f : LA) (x : TraceX) : exec (.trace f x) s = execTrace f x s := rfl
theorem exec_tracea (f : LA) (x : TraceX) : exec (.tracea f x) s = execTracea f x s := rfl
theorem exec_traceo (f : LA) (x : TraceX) : exec (.traceo f x) s = execTraceo f x s := rfl
theorem exec_hitrd (f : LA) : exec (.hitrd f) s = execHitrd f s := rfl
theorem exec_hituv (f : LA) : exec (.hituv f) s = execHituv f s := rfl
theorem exec_vmarch (f : LA) (x : MarchX) : exec (.vmarch f x) s = execVmarch f x s := rfl
theorem exec_vmrd (f : LA) : exec (.vmrd f) s = execVmrd f s := rfl
theorem exec_rsave (f : LA) : exec (.rsave f) s = execRsave f s := rfl
theorem exec_rload (f : LA) : exec (.rload f) s = execRload f s := rfl
theorem exec_rclr (f : LA) : exec (.rclr f) s = execRclr f s := rfl
theorem exec_nop (f : GA) : exec (.nop f) s = execNop f s := rfl
theorem exec_br (f : GB) : exec (.br f) s = execBr f s := rfl
theorem exec_brc (f : GC) : exec (.brc f) s = execBrc f s := rfl
theorem exec_brd (f : GC) : exec (.brd f) s = execBrd f s := rfl
theorem exec_brx (f : GA) : exec (.brx f) s = execBrx f s := rfl
theorem exec_join (f : GA) : exec (.join f) s = execJoin f s := rfl
theorem exec_regang (f : GA) : exec (.regang f) s = execRegang f s := rfl
theorem exec_idle (f : GA) : exec (.idle f) s = execIdle f s := rfl
theorem exec_exit (f : GA) : exec (.exit f) s = execExit f s := rfl
theorem exec_call (f : GA) (x : CallX) : exec (.call f x) s = execCall f x s := rfl
theorem exec_ret (f : GA) : exec (.ret f) s = execRet f s := rfl
theorem exec_grow (f : GA) : exec (.grow f) s = execGrow f s := rfl
theorem exec_setfmt (f : GA) : exec (.setfmt f) s = execSetfmt f s := rfl
theorem exec_getfmt (f : GA) : exec (.getfmt f) s = execGetfmt f s := rfl
theorem exec_qput (f : GA) : exec (.qput f) s = execQput f s := rfl
theorem exec_qget (f : GA) : exec (.qget f) s = execQget f s := rfl
theorem exec_bar (f : GA) (x : BarX) : exec (.bar f x) s = execBar f x s := rfl
theorem exec_setg (f : GI) : exec (.setg f) s = execSetg f s := rfl
theorem exec_sysrd (f : GA) : exec (.sysrd f) s = execSysrd f s := rfl
theorem exec_syswr (f : GA) : exec (.syswr f) s = execSyswr f s := rfl
theorem exec_gadd (f : GA) : exec (.gadd f) s = execGadd f s := rfl
theorem exec_gsub (f : GA) : exec (.gsub f) s = execGsub f s := rfl
theorem exec_gmul (f : GA) : exec (.gmul f) s = execGmul f s := rfl
theorem exec_gand (f : GA) : exec (.gand f) s = execGand f s := rfl
theorem exec_gor (f : GA) : exec (.gor f) s = execGor f s := rfl
theorem exec_gxor (f : GA) : exec (.gxor f) s = execGxor f s := rfl
theorem exec_gshl (f : GA) : exec (.gshl f) s = execGshl f s := rfl
theorem exec_gshr (f : GA) : exec (.gshr f) s = execGshr f s := rfl
theorem exec_gsar (f : GA) : exec (.gsar f) s = execGsar f s := rfl
theorem exec_gmin (f : GA) : exec (.gmin f) s = execGmin f s := rfl
theorem exec_gmax (f : GA) : exec (.gmax f) s = execGmax f s := rfl
theorem exec_gsel (f : GA) : exec (.gsel f) s = execGsel f s := rfl
theorem exec_gcmp (f : GA) (x : GcmpX) : exec (.gcmp f x) s = execGcmp f x s := rfl
theorem exec_mpop (f : GA) : exec (.mpop f) s = execMpop f s := rfl
theorem exec_mffs (f : GA) : exec (.mffs f) s = execMffs f s := rfl
theorem exec_gaddi (f : GI) : exec (.gaddi f) s = execGaddi f s := rfl
theorem exec_gli (f : GA) (x : Lit) : exec (.gli f x) s = execGli f x s := rfl
theorem exec_glih (f : GA) (x : Lit) : exec (.glih f x) s = execGlih f x s := rfl
theorem exec_gld (f : GA) (x : GmemX) : exec (.gld f x) s = execGld f x s := rfl
theorem exec_gst (f : GA) (x : GmemX) : exec (.gst f x) s = execGst f x s := rfl
theorem exec_gatom (f : GA) (x : GatomX) : exec (.gatom f x) s = execGatom f x s := rfl
theorem exec_cpy (f : GA) (x : CpyX) : exec (.cpy f x) s = execCpy f x s := rfl
theorem exec_layout (f : GA) (x : LayoutX) : exec (.layout f x) s = execLayout f x s := rfl
theorem exec_zfill (f : GA) (x : ZfillX) : exec (.zfill f x) s = execZfill f x s := rfl
theorem exec_bfence (f : GI) : exec (.bfence f) s = execBfence f s := rfl
theorem exec_bwait (f : GI) : exec (.bwait f) s = execBwait f s := rfl
theorem exec_callred (f : GA) (x : CollX) : exec (.callred f x) s = execCallred f x s := rfl
theorem exec_cgather (f : GA) (x : CollX) : exec (.cgather f x) s = execCgather f x s := rfl
theorem exec_omap (f : GA) (x : OmapX) : exec (.omap f x) s = execOmap f x s := rfl
theorem exec_mma (f : GA) (x : MmaX) : exec (.mma f x) s = execMma f x s := rfl
theorem exec_msqd (f : GA) (x : MmaX) : exec (.msqd f x) s = execMsqd f x s := rfl
theorem exec_mtopk (f : GA) (x : TopkX) : exec (.mtopk f x) s = execMtopk f x s := rfl
theorem exec_mzero (f : GA) (x : MtileX) : exec (.mzero f x) s = execMzero f x s := rfl
theorem exec_mstore (f : GA) (x : StoreX) : exec (.mstore f x) s = execMstore f x s := rfl
theorem exec_maddt (f : GA) (x : MtileX) : exec (.maddt f x) s = execMaddt f x s := rfl
theorem exec_tcfg (f : GA) (x : TcfgX) : exec (.tcfg f x) s = execTcfg f x s := rfl
theorem exec_tevict (f : GA) (x : ImageX) : exec (.tevict f x) s = execTevict f x s := rfl
theorem exec_trestore (f : GA) (x : ImageX) : exec (.trestore f x) s = execTrestore f x s := rfl
theorem exec_mutate (f : GA) (x : MutX) : exec (.mutate f x) s = execMutate f x s := rfl
theorem exec_replay (f : GA) (x : ReplayX) : exec (.replay f x) s = execReplay f x s := rfl
theorem exec_rrd (f : GA) : exec (.rrd f) s = execRrd f s := rfl
theorem exec_cvend (f : GA) : exec (.cvend f) s = execCvend f s := rfl
theorem exec_launchd (f : GA) (x : LaunchX) : exec (.launchd f x) s = execLaunchd f x s := rfl
theorem exec_gridsync (f : GA) : exec (.gridsync f) s = execGridsync f s := rfl
theorem exec_rqput (f : GA) : exec (.rqput f) s = execRqput f s := rfl
theorem exec_rqputn (f : GA) : exec (.rqputn f) s = execRqputn f s := rfl
theorem exec_rqget (f : GA) : exec (.rqget f) s = execRqget f s := rfl
theorem exec_rqgetn (f : GA) : exec (.rqgetn f) s = execRqgetn f s := rfl
theorem exec_rqcnt (f : GA) : exec (.rqcnt f) s = execRqcnt f s := rfl
theorem exec_yield (f : GA) : exec (.yield f) s = execYield f s := rfl
theorem exec_sleep (f : GI) : exec (.sleep f) s = execSleep f s := rfl
theorem exec_evsig (f : GA) : exec (.evsig f) s = execEvsig f s := rfl
theorem exec_trap (f : GI) : exec (.trap f) s = execTrap f s := rfl
theorem exec_trapc (f : GC) : exec (.trapc f) s = execTrapc f s := rfl
theorem exec_tret (f : GM) : exec (.tret f) s = execTret f s := rfl
theorem exec_tretGoto (f : GM) : exec (.tretGoto f) s = execTretGoto f s := rfl
theorem exec_tretKill (f : GM) : exec (.tretKill f) s = execTretKill f s := rfl
theorem exec_bkpt (f : GI) : exec (.bkpt f) s = execBkpt f s := rfl
theorem exec_haltTeam (f : GM) : exec (.haltTeam f) s = execHaltTeam f s := rfl
theorem exec_haltFlush (f : GM) : exec (.haltFlush f) s = execHaltFlush f s := rfl
theorem exec_errrd (f : GA) : exec (.errrd f) s = execErrrd f s := rfl
theorem exec_faultRecordWrite (ctx : Nat) : exec (.faultRecordWrite ctx) s = execFaultRecordWrite ctx s := rfl
theorem exec_fresumeRetry (grove : Nat) (ctx : BitVec 12) (seq : Word) : exec (.fresumeRetry grove ctx seq) s = execFresumeRetry grove ctx seq s := rfl
theorem exec_fresumeAbort (grove : Nat) (ctx : BitVec 12) (seq : Word) : exec (.fresumeAbort grove ctx seq) s = execFresumeAbort grove ctx seq s := rfl
theorem exec_ticmdPage (win : Option Nat) (ctx : BitVec 12) (tag : Word) : exec (.ticmdPage win ctx tag) s = execTicmdPage win ctx tag s := rfl
theorem exec_ticmdContext (win : Option Nat) (ctx : BitVec 12) (tag : Word) : exec (.ticmdContext win ctx tag) s = execTicmdContext win ctx tag s := rfl
theorem exec_ticmdGrove (win : Option Nat) (grove : BitVec 6) (tag : Word) : exec (.ticmdGrove win grove tag) s = execTicmdGrove win grove tag s := rfl
theorem exec_ticmdAll (win : Option Nat) (tag : Word) : exec (.ticmdAll win tag) s = execTicmdAll win tag s := rfl
theorem exec_invalidationComplete (win : Option Nat) : exec (.invalidationComplete win) s = execInvalidationComplete win s := rfl
theorem exec_splitcfgWrite (stand : Nat) (v : Dword) : exec (.splitcfgWrite stand v) s = execSplitcfgWrite stand v s := rfl
theorem exec_l2WriteBack (line : Nat) : exec (.l2WriteBack line) s = execL2WriteBack line s := rfl
theorem exec_patrolScrub (sector : Nat) (found : ScrubFinding) : exec (.patrolScrub sector found) s = execPatrolScrub sector found s := rfl
theorem exec_sramUncorrectableError (at_ : SramPlace) : exec (.sramUncorrectableError at_) s = execSramUncorrectableError at_ s := rfl
theorem exec_cacheParityError (at_ : CachePlace) : exec (.cacheParityError at_) s = execCacheParityError at_ s := rfl
theorem exec_mirrorWriteApply (die idx : Nat) : exec (.mirrorWriteApply die idx) s = execMirrorWriteApply die idx s := rfl
theorem exec_spillFill (u : UnitId) : exec (.spillFill u) s = execSpillFill u s := rfl
theorem exec_scratchpadWaitEnd (u : UnitId) : exec (.scratchpadWaitEnd u) s = execScratchpadWaitEnd u s := rfl
theorem exec_tileWaitEnd (u : UnitId) : exec (.tileWaitEnd u) s = execTileWaitEnd u s := rfl
theorem exec_queueWaitEnd (u : UnitId) : exec (.queueWaitEnd u) s = execQueueWaitEnd u s := rfl
theorem exec_rendezvousWaitEnd (u : UnitId) : exec (.rendezvousWaitEnd u) s = execRendezvousWaitEnd u s := rfl
theorem exec_barrierPhaseComplete (core team bar : Nat) : exec (.barrierPhaseComplete core team bar) s = execBarrierPhaseComplete core team bar s := rfl
theorem exec_gridsyncPhaseComplete (grid : Nat) : exec (.gridsyncPhaseComplete grid) s = execGridsyncPhaseComplete grid s := rfl
theorem exec_batchWaitComplete (u : UnitId) : exec (.batchWaitComplete u) s = execBatchWaitComplete u s := rfl
theorem exec_convergentPerform (u : UnitId) : exec (.convergentPerform u) s = execConvergentPerform u s := rfl
theorem exec_growGrant (core slot : Nat) : exec (.growGrant core slot) s = execGrowGrant core slot s := rfl
theorem exec_evictedGroupReadmit (core : Nat) : exec (.evictedGroupReadmit core) s = execEvictedGroupReadmit core s := rfl
theorem exec_recordQueueWaitEnd (u : UnitId) : exec (.recordQueueWaitEnd u) s = execRecordQueueWaitEnd u s := rfl
theorem exec_sleepExpiry (u : UnitId) : exec (.sleepExpiry u) s = execSleepExpiry u s := rfl
theorem exec_engineQueueRoom (u : UnitId) : exec (.engineQueueRoom u) s = execEngineQueueRoom u s := rfl
theorem exec_launchQueueRoom (u : UnitId) : exec (.launchQueueRoom u) s = execLaunchQueueRoom u s := rfl
theorem exec_cpyPerform (core team : Nat) : exec (.cpyPerform core team) s = execCpyPerform core team s := rfl
theorem exec_layoutPerform (core team : Nat) : exec (.layoutPerform core team) s = execLayoutPerform core team s := rfl
theorem exec_zfillPerform (core team : Nat) : exec (.zfillPerform core team) s = execZfillPerform core team s := rfl
theorem exec_omapPerform (core team : Nat) : exec (.omapPerform core team) s = execOmapPerform core team s := rfl
theorem exec_mmaChunk (core team : Nat) : exec (.mmaChunk core team) s = execMmaChunk core team s := rfl
theorem exec_msqdPerform (core team : Nat) : exec (.msqdPerform core team) s = execMsqdPerform core team s := rfl
theorem exec_mtopkPerform (core team : Nat) : exec (.mtopkPerform core team) s = execMtopkPerform core team s := rfl
theorem exec_mzeroPerform (core team : Nat) : exec (.mzeroPerform core team) s = execMzeroPerform core team s := rfl
theorem exec_mstorePerform (core team : Nat) : exec (.mstorePerform core team) s = execMstorePerform core team s := rfl
theorem exec_maddtPerform (core team : Nat) : exec (.maddtPerform core team) s = execMaddtPerform core team s := rfl
theorem exec_tcfgPerform (core team : Nat) : exec (.tcfgPerform core team) s = execTcfgPerform core team s := rfl
theorem exec_tevictPerform (core team q : Nat) : exec (.tevictPerform core team q) s = execTevictPerform core team q s := rfl
theorem exec_trestorePerform (core team q : Nat) : exec (.trestorePerform core team q) s = execTrestorePerform core team q s := rfl
theorem exec_callredPerform (core team : Nat) : exec (.callredPerform core team) s = execCallredPerform core team s := rfl
theorem exec_cgatherPerform (core team : Nat) : exec (.cgatherPerform core team) s = execCgatherPerform core team s := rfl
theorem exec_trunkPartialReceive (core team : Nat) : exec (.trunkPartialReceive core team) s = execTrunkPartialReceive core team s := rfl
theorem exec_traversalStep (core slot lane : Nat) : exec (.traversalStep core slot lane) s = execTraversalStep core slot lane s := rfl
theorem exec_marchStep (core slot lane : Nat) : exec (.marchStep core slot lane) s = execMarchStep core slot lane s := rfl
theorem exec_issueSelect (q : Issuer) : exec (.issueSelect q) s = execIssueSelect q s := rfl
theorem exec_pathAged (u : UnitId) : exec (.pathAged u) s = execPathAged u s := rfl
theorem exec_debugRecordWrite (grove : Nat) : exec (.debugRecordWrite grove) s = execDebugRecordWrite grove s := rfl
theorem exec_stallRecordWrite (grove : Nat) : exec (.stallRecordWrite grove) s = execStallRecordWrite grove s := rfl
theorem exec_qkick (grove queue : Nat) (tail : Word) : exec (.qkick grove queue tail) s = execQkick grove queue tail s := rfl
theorem exec_qcfgWrite (grove queue : Nat) (v : Dword) : exec (.qcfgWrite grove queue v) s = execQcfgWrite grove queue v s := rfl
theorem exec_qstatHaltClear (grove queue : Nat) : exec (.qstatHaltClear grove queue) s = execQstatHaltClear grove queue s := rfl
theorem exec_entryNop (grove queue : Nat) : exec (.entryNop grove queue) s = execEntryNop grove queue s := rfl
theorem exec_entryGraph (grove queue : Nat) : exec (.entryGraph grove queue) s = execEntryGraph grove queue s := rfl
theorem exec_entryInstall (grove queue size : Nat) : exec (.entryInstall grove queue size) s = execEntryInstall grove queue size s := rfl
theorem exec_entrySignal (grove queue : Nat) : exec (.entrySignal grove queue) s = execEntrySignal grove queue s := rfl
theorem exec_entryWait (grove queue : Nat) : exec (.entryWait grove queue) s = execEntryWait grove queue s := rfl
theorem exec_graphNodeStart (grove queue node : Nat) : exec (.graphNodeStart grove queue node) s = execGraphNodeStart grove queue node s := rfl
theorem exec_teamAdmission (grid core : Nat) : exec (.teamAdmission grid core) s = execTeamAdmission grid core s := rfl
theorem exec_deviceLaunchStart (grove : Nat) : exec (.deviceLaunchStart grove) s = execDeviceLaunchStart grove s := rfl
theorem exec_groupRetire (core slot : Nat) : exec (.groupRetire core slot) s = execGroupRetire core slot s := rfl
theorem exec_teamRetire (core team : Nat) : exec (.teamRetire core team) s = execTeamRetire core team s := rfl
theorem exec_gridEnd (grid : Nat) : exec (.gridEnd grid) s = execGridEnd grid s := rfl
theorem exec_pscmdSave (win : Option Nat) (ctx : BitVec 12) (all : Bool) (team : Word) (tag : Byte) : exec (.pscmdSave win ctx all team tag) s = execPscmdSave win ctx all team tag s := rfl
theorem exec_pscmdResume (win : Option Nat) (ctx : BitVec 12) (team : Word) (tag : Byte) (core : Nat) : exec (.pscmdResume win ctx team tag core) s = execPscmdResume win ctx team tag core s := rfl
theorem exec_pscmdTeardown (win : Option Nat) (ctx : BitVec 12) (all : Bool) (team : Word) (tag : Byte) : exec (.pscmdTeardown win ctx all team tag) s = execPscmdTeardown win ctx all team tag s := rfl
theorem exec_saveComplete (win : Option Nat) : exec (.saveComplete win) s = execSaveComplete win s := rfl
theorem exec_powerOn : exec .powerOn s = execPowerOn s := rfl
theorem exec_fundamentalReset : exec .fundamentalReset s = execFundamentalReset s := rfl
theorem exec_bootAttempt (links : Nat) (trained : Bool) : exec (.bootAttempt links trained) s = execBootAttempt links trained s := rfl
theorem exec_bootTimeout : exec .bootTimeout s = execBootTimeout s := rfl
theorem exec_bootcmdWarm : exec .bootcmdWarm s = execBootcmdWarm s := rfl
theorem exec_bootcmdSwap : exec .bootcmdSwap s = execBootcmdSwap s := rfl
theorem exec_flashcmd (slot : BitVec 2) (src : BitVec 46) : exec (.flashcmd slot src) s = execFlashcmd slot src s := rfl
theorem exec_lccmd (dest : BitVec 2) (auth : BitVec 46) (owner : BitVec 256) : exec (.lccmd dest auth owner) s = execLccmd dest auth owner s := rfl
theorem exec_standgrvWrite (stand : Nat) (v : Dword) : exec (.standgrvWrite stand v) s = execStandgrvWrite stand v s := rfl
theorem exec_ringRegisterWrite (grove : Nat) (debug : Bool) (v : Dword) : exec (.ringRegisterWrite grove debug v) s = execRingRegisterWrite grove debug v s := rfl
theorem exec_gintAck (grove : Nat) (v : Dword) : exec (.gintAck grove v) s = execGintAck grove v s := rfl
theorem exec_dbgstopArm (grove : Nat) (v : Dword) : exec (.dbgstopArm grove v) s = execDbgstopArm grove v s := rfl
theorem exec_dbgstopGo (grove : Nat) : exec (.dbgstopGo grove) s = execDbgstopGo grove s := rfl
theorem exec_trig (grove : Nat) : exec (.trig grove) s = execTrig grove s := rfl
theorem exec_triggerReceive (ostamp : Dword) (origin : Byte) : exec (.triggerReceive ostamp origin) s = execTriggerReceive ostamp origin s := rfl
theorem exec_hostPostedWrite (pa : Nat) (data : List Byte) : exec (.hostPostedWrite pa data) s = execHostPostedWrite pa data s := rfl
theorem exec_hostRead (pa n : Nat) : exec (.hostRead pa n) s = execHostRead pa n s := rfl
theorem exec_apertureAccess (grove : ViaLink) (off n : Nat) (data : Option (List Byte)) : exec (.apertureAccess grove off n data) s = execApertureAccess grove off n data s := rfl
theorem exec_peerAccessArrival (link off n : Nat) (data : Option (List Byte)) : exec (.peerAccessArrival link off n data) s = execPeerAccessArrival link off n data s := rfl
theorem exec_supplySag (die : Nat) : exec (.supplySag die) s = execSupplySag die s := rfl
theorem exec_sagRecoveryStep (die : Nat) : exec (.sagRecoveryStep die) s = execSagRecoveryStep die s := rfl
theorem exec_registerWrite (fn : ViaLink) (off : Nat) (v : Dword) : exec (.registerWrite fn off v) s = execRegisterWrite fn off v s := rfl
theorem exec_flashWriteComplete (size : Nat) : exec (.flashWriteComplete size) s = execFlashWriteComplete size s := rfl
theorem exec_peercfgWrite (p : Nat) (v : Dword) (agrees : Bool) : exec (.peercfgWrite p v agrees) s = execPeercfgWrite p v agrees s := rfl
theorem exec_peerLinkTrained (p : Nat) : exec (.peerLinkTrained p) s = execPeerLinkTrained p s := rfl

end Sys2Proof.Machine
end

