-- ==== Sys2Proof/Laws/Tab.lean ====
section
/-! SUPPORT. Reading a table after an update. -/
namespace Sys2Proof.Machine

theorem findCell_put_same {α : Type} (k : Nat) (a : α) (l : List (Nat × α)) : findCell k (putCell k a l) = some a := by
  induction l with
  | nil => simp [putCell, findCell]
  | cons c r ih =>
    simp only [putCell]
    split
    · simp [findCell]
    · split
      · simp [findCell]
      · simp [findCell, *]

theorem findCell_put_other {α : Type} {j k : Nat} (h : j ≠ k) (a : α) (l : List (Nat × α)) :
    findCell j (putCell k a l) = findCell j l := by
  induction l with
  | nil => simp [putCell, findCell, Ne.symm h]
  | cons c r ih =>
    simp only [putCell]
    split
    · simp [findCell, Ne.symm h]
    · split
      · rename_i hk
        subst hk
        simp [findCell, Ne.symm h]
      · simp [findCell, ih]

theorem findCell_drop_same {α : Type} (k : Nat) (l : List (Nat × α)) : findCell k (dropCell k l) = none := by
  induction l with
  | nil => rfl
  | cons c r ih => by_cases h : c.1 = k <;> simp_all [dropCell, findCell]

theorem findCell_drop_other {α : Type} {j k : Nat} (h : j ≠ k) (l : List (Nat × α)) :
    findCell j (dropCell k l) = findCell j l := by
  induction l with
  | nil => rfl
  | cons c r ih =>
    by_cases hc : c.1 = k
    · have : c.1 ≠ j := by omega
      simp_all [dropCell, findCell]
    · simp_all [dropCell, findCell]

variable {α : Type}

@[simp] theorem Tab.find_empty (k : Nat) : (Tab.empty : Tab α).find k = none := rfl
@[simp] theorem Tab.find_put_same (t : Tab α) (k : Nat) (a : α) : (t.put k a).find k = some a := findCell_put_same k a t.cells
theorem Tab.find_put_other (t : Tab α) {j k : Nat} (a : α) (h : j ≠ k) : (t.put k a).find j = t.find j :=
  findCell_put_other h a t.cells
@[simp] theorem Tab.find_drop_same (t : Tab α) (k : Nat) : (t.drop k).find k = none := findCell_drop_same k t.cells
theorem Tab.find_drop_other (t : Tab α) {j k : Nat} (h : j ≠ k) : (t.drop k).find j = t.find j := findCell_drop_other h t.cells
theorem Tab.find_put (t : Tab α) (j k : Nat) (a : α) : (t.put k a).find j = if j = k then some a else t.find j := by
  split
  · subst j; simp
  · exact t.find_put_other a ‹_›
theorem Tab.find_drop (t : Tab α) (j k : Nat) : (t.drop k).find j = if j = k then none else t.find j := by
  split
  · subst j; simp
  · exact t.find_drop_other ‹_›

@[simp] theorem Tab.get_put_same (t : Tab α) (k : Nat) (a d : α) : (t.put k a).get k d = a := by simp [Tab.get]
theorem Tab.get_put_other (t : Tab α) {j k : Nat} (a d : α) (h : j ≠ k) : (t.put k a).get j d = t.get j d := by
  simp [Tab.get, t.find_put_other a h]
theorem Tab.get_put (t : Tab α) (j k : Nat) (a d : α) : (t.put k a).get j d = if j = k then a else t.get j d := by
  simp only [Tab.get, Tab.find_put]; split <;> rfl
@[simp] theorem Tab.has_put_same (t : Tab α) (k : Nat) (a : α) : (t.put k a).has k = true := by simp [Tab.has]
theorem Tab.has_put (t : Tab α) (j k : Nat) (a : α) : (t.put k a).has j = (decide (j = k) || t.has j) := by
  simp only [Tab.has, Tab.find_put]; split <;> simp_all

/-- Are the keys of a list of cells in strict ascending order? -/
def ascending (l : List (Nat × α)) : Prop := l.Pairwise fun a b => a.1 < b.1

/-- A table laid over by another reads as the upper one where that holds an entry. -/
theorem Tab.find_over (t u : Tab α) (k : Nat) : (t.over u).find k = (u.find k).or (t.find k) := by
  simp only [Tab.over, Tab.find]
  generalize u.cells = l
  induction l with
  | nil => simp [findCell]
  | cons c r ih =>
    have hf (t : Tab α) (j : Nat) : findCell j t.cells = t.find j := rfl
    simp only [List.foldr_cons, findCell, hf] at *
    rw [Tab.find_put, ih]
    by_cases h : k = c.1
    · simp [h]
    · simp [h, Ne.symm h]

theorem ascending_put {l : List (Nat × α)} (h : ascending l) (k : Nat) (a : α) : ascending (putCell k a l) := by
  induction l with
  | nil => simp [putCell, ascending]
  | cons c r ih =>
    obtain ⟨hc, hr⟩ := List.pairwise_cons.mp h
    simp only [putCell]
    split
    · refine List.pairwise_cons.mpr ⟨fun d hd => ?_, h⟩
      rcases List.mem_cons.mp hd with rfl | hd
      · assumption
      · exact Nat.lt_trans ‹_› (hc d hd)
    · split
      · rename_i hk
        subst hk
        exact List.pairwise_cons.mpr ⟨hc, hr⟩
      · rename_i h1 h2
        refine List.pairwise_cons.mpr ⟨fun d hd => ?_, ih hr⟩
        clear ih
        induction r with
        | nil =>
          simp only [putCell, List.mem_singleton] at hd
          subst hd
          show c.1 < k
          omega
        | cons e r ih' =>
          simp only [putCell] at hd
          split at hd
          · rcases List.mem_cons.mp hd with rfl | hd
            · show c.1 < k
              omega
            · exact hc d hd
          · split at hd
            · rcases List.mem_cons.mp hd with rfl | hd
              · show c.1 < k
                omega
              · exact hc d (List.mem_cons_of_mem _ hd)
            · rcases List.mem_cons.mp hd with rfl | hd
              · exact hc _ (by simp)
              · have h' : ascending (c :: r) := by
                  refine List.pairwise_cons.mpr ⟨fun x hx => hc x (List.mem_cons_of_mem _ hx), ?_⟩
                  exact (List.pairwise_cons.mp hr).2
                exact ih' h' (fun x hx => hc x (List.mem_cons_of_mem _ hx)) (List.pairwise_cons.mp hr).2 hd

theorem ascending_filter {l : List (Nat × α)} (h : ascending l) (p : Nat × α → Bool) : ascending (l.filter p) :=
  List.Pairwise.filter p h

end Sys2Proof.Machine
end

