-- ==== Sys2Proof/Laws/Mem.lean ====
section
/-! SUPPORT. Memory: reading after writing, and the canonical form kept by every memory operation. -/
namespace Sys2Proof.Machine

theorem Mem.wf_cons_cons (c d : Host.Cell) (r : Mem) :
    Mem.wf (c :: d :: r) = true ↔ c.2 ≠ 0 ∧ c.1 < d.1 ∧ Mem.wf (d :: r) = true := by
  simp [Mem.wf, and_assoc]

/-- The canonical form: addresses strictly rising, no byte zero. -/
theorem Mem.wf_iff (m : Mem) : m.wf = true ↔ ascending m ∧ ∀ c ∈ m, c.2 ≠ 0 := by
  induction m with
  | nil => simp [Mem.wf, ascending]
  | cons c r ih =>
    cases r with
    | nil => simp [Mem.wf, ascending]
    | cons d r =>
      rw [Mem.wf_cons_cons, ih]
      constructor
      · rintro ⟨hc, hcd, ha, hz⟩
        refine ⟨List.pairwise_cons.mpr ⟨fun e he => ?_, ha⟩, ?_⟩
        · rcases List.mem_cons.mp he with rfl | he
          · exact hcd
          · exact Nat.lt_trans hcd ((List.pairwise_cons.mp ha).1 e he)
        · intro e he
          rcases List.mem_cons.mp he with rfl | he
          · exact hc
          · exact hz e he
      · rintro ⟨ha, hz⟩
        obtain ⟨h1, h2⟩ := List.pairwise_cons.mp ha
        exact ⟨hz c (by simp), h1 d (by simp), h2, fun e he => hz e (List.mem_cons_of_mem _ he)⟩

theorem putCell_mem {k : Nat} {a : Byte} {m : Mem} {c : Host.Cell} (h : c ∈ putCell k a m) : c = (k, a) ∨ c ∈ m := by
  induction m with
  | nil => exact .inl (by simpa [putCell] using h)
  | cons d r ih =>
    simp only [putCell] at h
    split at h
    · rcases List.mem_cons.mp h with h | h
      · exact .inl h
      · exact .inr h
    · split at h
      · rcases List.mem_cons.mp h with h | h
        · exact .inl h
        · exact .inr (List.mem_cons_of_mem _ h)
      · rcases List.mem_cons.mp h with h | h
        · exact .inr (by simp [h])
        · rcases ih h with h | h
          · exact .inl h
          · exact .inr (List.mem_cons_of_mem _ h)

/-- Setting a byte keeps the canonical form. -/
theorem Mem.wf_set {m : Mem} (h : m.wf = true) (a : Nat) (b : Byte) : (m.set a b).wf = true := by
  rw [Mem.wf_iff] at *
  simp only [Mem.set]
  split
  · exact ⟨ascending_filter h.1 _, fun c hc => h.2 c ((List.mem_filter.mp hc).1)⟩
  · rename_i hb
    refine ⟨ascending_put h.1 a b, fun c hc => ?_⟩
    rcases putCell_mem hc with rfl | hc
    · exact hb
    · exact h.2 c hc

/-- Writing bytes keeps the canonical form. -/
theorem Mem.wf_write {m : Mem} (h : m.wf = true) (a : Nat) (bs : List Byte) : (m.write a bs).wf = true := by
  induction bs generalizing m a with
  | nil => exact h
  | cons b r ih => exact ih (Mem.wf_set h a b) (a + 1)

@[simp] theorem Mem.get_set_same (m : Mem) (a : Nat) (b : Byte) : (m.set a b).get a = b := by
  simp only [Mem.set, Mem.get]
  split
  · rename_i h
    simp [findCell_drop_same, h]
  · simp [findCell_put_same]

theorem Mem.get_set_other (m : Mem) {a c : Nat} (b : Byte) (h : c ≠ a) : (m.set a b).get c = m.get c := by
  simp only [Mem.set, Mem.get]
  split
  · rw [findCell_drop_other h]
  · rw [findCell_put_other h]

/-- A write leaves every other byte alone. -/
theorem Mem.get_write_other (m : Mem) (a : Nat) (bs : List Byte) {c : Nat} (h : c < a ∨ a + bs.length ≤ c) :
    (m.write a bs).get c = m.get c := by
  induction bs generalizing m a with
  | nil => rfl
  | cons b r ih =>
    simp only [List.length_cons] at h
    simp only [Mem.write]
    rw [ih (m.set a b) (a + 1) (by omega), Mem.get_set_other _ _ (by omega)]

/-- A byte of what was written reads back. -/
theorem Mem.get_write_same (m : Mem) (a : Nat) (bs : List Byte) {i : Nat} (h : i < bs.length) :
    (m.write a bs).get (a + i) = bs[i] := by
  induction bs generalizing m a i with
  | nil => simp at h
  | cons b r ih =>
    simp only [Mem.write]
    cases i with
    | zero => rw [Nat.add_zero, Mem.get_write_other _ _ _ (by omega)]; simp
    | succ i =>
      have h' : i < r.length := by simpa using h
      have := ih (m.set a b) (a + 1) h'
      rw [show a + 1 + i = a + (i + 1) from by omega] at this
      simpa using this

@[simp] theorem Mem.read_length (m : Mem) (a n : Nat) : (m.read a n).length = n := by simp [Mem.read]

/-- Reading back all of what was written. -/
theorem Mem.read_write (m : Mem) (a : Nat) (bs : List Byte) : (m.write a bs).read a bs.length = bs := by
  apply List.ext_getElem
  · simp
  · intro i h1 h2
    simp [Mem.read, Mem.get_write_same m a bs h2]

/-- Reading bytes that a write does not touch. -/
theorem Mem.read_write_other (m : Mem) (a : Nat) (bs : List Byte) {c n : Nat} (h : c + n ≤ a ∨ a + bs.length ≤ c) :
    (m.write a bs).read c n = m.read c n := by
  apply List.ext_getElem
  · simp
  · intro i h1 h2
    have hi : i < n := by simpa using h1
    simp only [Mem.read, List.getElem_map, List.getElem_range]
    exact Mem.get_write_other m a bs (by omega)

theorem foldl_keeps {α β : Type} (P : α → Prop) (f : α → β → α) (l : List β) (a : α) (h : P a)
    (hf : ∀ a b, P a → P (f a b)) : P (l.foldl f a) := by
  induction l generalizing a with
  | nil => exact h
  | cons b r ih => exact ih (f a b) (hf a b h)

/-- Memory at home and HBM below it are in canonical form. -/
def State.homeOk (s : State) : Prop := s.mem.wf = true ∧ s.hbm.wf = true

theorem State.homeOk_reset : State.reset.homeOk := ⟨rfl, rfl⟩
theorem State.homeOk_congr {s t : State} (h : s.homeOk) (hm : t.mem = s.mem) (hh : t.hbm = s.hbm) : t.homeOk := by
  simpa [State.homeOk, hm, hh] using h
theorem State.homeOk_writeBack {s : State} (h : s.homeOk) (line : Nat) : (s.writeBack line).homeOk := by
  simp only [State.writeBack]
  split
  · exact h
  · refine foldl_keeps State.homeOk _ _ _ h fun _ _ hs => ?_
    split
    · exact ⟨hs.1, Mem.wf_write hs.2 _ _⟩
    · exact hs
theorem State.homeOk_l2Room {s : State} (h : s.homeOk) (line : Nat) (way : Bool) : (s.l2Room line way).homeOk := by
  simp only [State.l2Room]
  repeat' split
  all_goals first | exact h | exact State.homeOk_writeBack h _
theorem State.homeOk_l2Hold {s : State} (h : s.homeOk) (line : Nat) (l : L2Line) : (s.l2Hold line l).homeOk := by
  simp only [State.l2Hold]
  repeat' split
  all_goals first | exact h | exact State.homeOk_l2Room h _ _
theorem State.homeOk_writeSector {s : State} (h : s.homeOk) (pa : Nat) (bs : List Byte) (pol : Nat) :
    (s.writeSector pa bs pol).homeOk := by
  have hm := Mem.wf_write h.1 pa bs
  have hh := Mem.wf_write h.2 pa bs
  simp only [State.writeSector]
  repeat' split
  all_goals first | exact ⟨hm, h.2⟩ | exact ⟨hm, hh⟩ | (refine State.homeOk_l2Hold ?_ _ _; exact ⟨hm, h.2⟩)
theorem State.homeOk_writeHome {s : State} (h : s.homeOk) (pa : Nat) (bs : List Byte) (pol : Nat) :
    (s.writeHome pa bs pol).homeOk :=
  foldl_keeps State.homeOk _ _ s h fun _ _ hs => State.homeOk_writeSector hs _ _ _
theorem State.homeOk_fillL2 {s : State} (h : s.homeOk) (pa pol : Nat) (zel : Bool) : (s.fillL2 pa pol zel).homeOk := by
  simp only [State.fillL2]
  repeat' split
  all_goals first | exact h | exact State.homeOk_l2Hold h _ _
theorem State.homeOk_zeroLine {s : State} (h : s.homeOk) (pa n : Nat) (zel : Bool) : (s.zeroLine pa n zel).homeOk := by
  simp only [State.zeroLine]
  generalize List.replicate 256 (0 : Byte) = z
  split
  · refine State.homeOk_l2Hold ?_ _ _
    exact ⟨Mem.wf_write h.1 pa z, h.2⟩
  · exact State.homeOk_writeHome h pa (List.replicate n 0) 2
theorem State.homeOk_discardSector {s : State} (h : s.homeOk) (sec : Nat) : (s.discardSector sec).homeOk := by
  have hm (bs : List Byte) := Mem.wf_write h.1 (sec * 64) bs
  simp only [State.discardSector]
  repeat' split
  all_goals first | exact h | exact ⟨hm _, h.2⟩ | (refine State.homeOk_l2Hold ?_ _ _; exact ⟨hm _, h.2⟩)
theorem State.homeOk_discardHome {s : State} (h : s.homeOk) (pa n : Nat) : (s.discardHome pa n).homeOk := by
  simp only [State.discardHome]
  split
  · exact h
  · refine foldl_keeps State.homeOk _ _ _ h fun _ _ hs => ?_
    split
    · exact State.homeOk_discardSector hs _
    · exact hs
theorem State.homeOk_poisonHome {s : State} (h : s.homeOk) (sec : Nat) : (s.poisonHome sec).homeOk := h
theorem State.homeOk_spoilHome {s : State} (h : s.homeOk) (sec : Nat) : (s.spoilHome sec).homeOk := h
theorem State.homeOk_mirrorPut {s : State} (h : s.homeOk) (pa : Nat) (w : MirrorWrite) (won : List Nat) :
    (s.mirrorPut pa w won).homeOk := by
  unfold State.mirrorPut
  split
  · split
    · exact State.homeOk_zeroLine h _ _ _
    · exact State.homeOk_writeHome h _ _ _
  · exact foldl_keeps State.homeOk _ _ _ h fun _ _ hs => State.homeOk_writeHome hs _ _ _
theorem State.homeOk_mirrorApply {s : State} (h : s.homeOk) (e : Nat) (w : MirrorWrite) : (s.mirrorApply e w).homeOk := by
  have hp (won : List Nat) := State.homeOk_mirrorPut h (replica w.off e) w won
  simp only [State.mirrorApply]
  split
  · exact State.homeOk_spoilHome (hp _) (replica w.off e / 64)
  · exact hp _
theorem State.homeOk_mirrorWrite {s : State} (h : s.homeOk) (d pa : Nat) (bs : List Byte) (pol : Nat) (bad : Bool)
    (zero : Option Bool) : (s.mirrorWrite d pa bs pol bad zero).homeOk := by
  unfold State.mirrorWrite
  apply State.homeOk_mirrorApply
  exact h
theorem State.homeOk_mirrorArrive {s : State} (h : s.homeOk) (e idx : Nat) : (s.mirrorArrive e idx).homeOk := by
  simp only [State.mirrorArrive]
  repeat' split
  all_goals first | exact h | exact State.homeOk_mirrorApply h _ _
theorem State.homeOk_mirrorSettle (n : Nat) {s : State} (h : s.homeOk) : (State.mirrorSettle n s).homeOk := by
  induction n generalizing s with
  | zero => exact h
  | succ n ih =>
    simp only [State.mirrorSettle]
    split
    · exact h
    · refine ih (foldl_keeps State.homeOk _ _ _ h fun _ _ hs => ?_)
      split
      · exact State.homeOk_mirrorArrive hs _ _
      · exact hs

end Sys2Proof.Machine
end

