-- ==== Sys2Proof/Laws/State.lean ====
section
/-! SUPPORT. The fields of State after each update of one part of it: one lemma for each field that the update leaves alone. -/
namespace Sys2Proof.Machine

variable (s : State)

@[simp] theorem State.onCore_mem (c : Nat) (f : Core → Core) : (s.onCore c f).mem = s.mem := rfl
@[simp] theorem State.onCore_hbm (c : Nat) (f : Core → Core) : (s.onCore c f).hbm = s.hbm := rfl
@[simp] theorem State.onCore_l2 (c : Nat) (f : Core → Core) : (s.onCore c f).l2 = s.l2 := rfl
@[simp] theorem State.onCore_poison (c : Nat) (f : Core → Core) : (s.onCore c f).poison = s.poison := rfl
@[simp] theorem State.onCore_hbmPoison (c : Nat) (f : Core → Core) : (s.onCore c f).hbmPoison = s.hbmPoison := rfl
@[simp] theorem State.onCore_walks (c : Nat) (f : Core → Core) : (s.onCore c f).walks = s.walks := rfl
@[simp] theorem State.onCore_nextWrite (c : Nat) (f : Core → Core) : (s.onCore c f).nextWrite = s.nextWrite := rfl
@[simp] theorem State.onCore_mirror (c : Nat) (f : Core → Core) : (s.onCore c f).mirror = s.mirror := rfl
@[simp] theorem State.onCore_lanterns (c : Nat) (f : Core → Core) : (s.onCore c f).lanterns = s.lanterns := rfl
@[simp] theorem State.onCore_ctxs (c : Nat) (f : Core → Core) : (s.onCore c f).ctxs = s.ctxs := rfl
@[simp] theorem State.onCore_groves (c : Nat) (f : Core → Core) : (s.onCore c f).groves = s.groves := rfl
@[simp] theorem State.onCore_grids (c : Nat) (f : Core → Core) : (s.onCore c f).grids = s.grids := rfl
@[simp] theorem State.onCore_nextGrid (c : Nat) (f : Core → Core) : (s.onCore c f).nextGrid = s.nextGrid := rfl
@[simp] theorem State.onCore_kernels (c : Nat) (f : Core → Core) : (s.onCore c f).kernels = s.kernels := rfl
@[simp] theorem State.onCore_deferred (c : Nat) (f : Core → Core) : (s.onCore c f).deferred = s.deferred := rfl
@[simp] theorem State.onCore_contribs (c : Nat) (f : Core → Core) : (s.onCore c f).contribs = s.contribs := rfl
@[simp] theorem State.onCore_pf (c : Nat) (f : Core → Core) : (s.onCore c f).pf = s.pf := rfl
@[simp] theorem State.onCore_boot (c : Nat) (f : Core → Core) : (s.onCore c f).boot = s.boot := rfl
@[simp] theorem State.onCore_time (c : Nat) (f : Core → Core) : (s.onCore c f).time = s.time := rfl
@[simp] theorem State.onCore_trigOut (c : Nat) (f : Core → Core) : (s.onCore c f).trigOut = s.trigOut := rfl
@[simp] theorem State.onCore_hostData (c : Nat) (f : Core → Core) : (s.onCore c f).hostData = s.hostData := rfl
@[simp] theorem State.onCore_hostBad (c : Nat) (f : Core → Core) : (s.onCore c f).hostBad = s.hostBad := rfl
@[simp] theorem State.onCore_agenda (c : Nat) (f : Core → Core) : (s.onCore c f).agenda = s.agenda := rfl
@[simp] theorem State.onCore_turn (c : Nat) (f : Core → Core) : (s.onCore c f).turn = s.turn := rfl
@[simp] theorem State.onCore_freeIdx (c : Nat) (f : Core → Core) : (s.onCore c f).freeIdx = s.freeIdx := rfl
@[simp] theorem State.onCore_waited (c : Nat) (f : Core → Core) : (s.onCore c f).waited = s.waited := rfl

@[simp] theorem State.onLantern_mem (l : Nat) (f : Lantern → Lantern) : (s.onLantern l f).mem = s.mem := rfl
@[simp] theorem State.onLantern_hbm (l : Nat) (f : Lantern → Lantern) : (s.onLantern l f).hbm = s.hbm := rfl
@[simp] theorem State.onLantern_l2 (l : Nat) (f : Lantern → Lantern) : (s.onLantern l f).l2 = s.l2 := rfl
@[simp] theorem State.onLantern_poison (l : Nat) (f : Lantern → Lantern) : (s.onLantern l f).poison = s.poison := rfl
@[simp] theorem State.onLantern_hbmPoison (l : Nat) (f : Lantern → Lantern) : (s.onLantern l f).hbmPoison = s.hbmPoison := rfl
@[simp] theorem State.onLantern_walks (l : Nat) (f : Lantern → Lantern) : (s.onLantern l f).walks = s.walks := rfl
@[simp] theorem State.onLantern_nextWrite (l : Nat) (f : Lantern → Lantern) : (s.onLantern l f).nextWrite = s.nextWrite := rfl
@[simp] theorem State.onLantern_mirror (l : Nat) (f : Lantern → Lantern) : (s.onLantern l f).mirror = s.mirror := rfl
@[simp] theorem State.onLantern_cores (l : Nat) (f : Lantern → Lantern) : (s.onLantern l f).cores = s.cores := rfl
@[simp] theorem State.onLantern_ctxs (l : Nat) (f : Lantern → Lantern) : (s.onLantern l f).ctxs = s.ctxs := rfl
@[simp] theorem State.onLantern_groves (l : Nat) (f : Lantern → Lantern) : (s.onLantern l f).groves = s.groves := rfl
@[simp] theorem State.onLantern_grids (l : Nat) (f : Lantern → Lantern) : (s.onLantern l f).grids = s.grids := rfl
@[simp] theorem State.onLantern_nextGrid (l : Nat) (f : Lantern → Lantern) : (s.onLantern l f).nextGrid = s.nextGrid := rfl
@[simp] theorem State.onLantern_kernels (l : Nat) (f : Lantern → Lantern) : (s.onLantern l f).kernels = s.kernels := rfl
@[simp] theorem State.onLantern_deferred (l : Nat) (f : Lantern → Lantern) : (s.onLantern l f).deferred = s.deferred := rfl
@[simp] theorem State.onLantern_contribs (l : Nat) (f : Lantern → Lantern) : (s.onLantern l f).contribs = s.contribs := rfl
@[simp] theorem State.onLantern_pf (l : Nat) (f : Lantern → Lantern) : (s.onLantern l f).pf = s.pf := rfl
@[simp] theorem State.onLantern_boot (l : Nat) (f : Lantern → Lantern) : (s.onLantern l f).boot = s.boot := rfl
@[simp] theorem State.onLantern_time (l : Nat) (f : Lantern → Lantern) : (s.onLantern l f).time = s.time := rfl
@[simp] theorem State.onLantern_trigOut (l : Nat) (f : Lantern → Lantern) : (s.onLantern l f).trigOut = s.trigOut := rfl
@[simp] theorem State.onLantern_hostData (l : Nat) (f : Lantern → Lantern) : (s.onLantern l f).hostData = s.hostData := rfl
@[simp] theorem State.onLantern_hostBad (l : Nat) (f : Lantern → Lantern) : (s.onLantern l f).hostBad = s.hostBad := rfl
@[simp] theorem State.onLantern_agenda (l : Nat) (f : Lantern → Lantern) : (s.onLantern l f).agenda = s.agenda := rfl
@[simp] theorem State.onLantern_turn (l : Nat) (f : Lantern → Lantern) : (s.onLantern l f).turn = s.turn := rfl
@[simp] theorem State.onLantern_freeIdx (l : Nat) (f : Lantern → Lantern) : (s.onLantern l f).freeIdx = s.freeIdx := rfl
@[simp] theorem State.onLantern_waited (l : Nat) (f : Lantern → Lantern) : (s.onLantern l f).waited = s.waited := rfl

@[simp] theorem State.onCtx_mem (c : Nat) (f : Context → Context) : (s.onCtx c f).mem = s.mem := rfl
@[simp] theorem State.onCtx_hbm (c : Nat) (f : Context → Context) : (s.onCtx c f).hbm = s.hbm := rfl
@[simp] theorem State.onCtx_l2 (c : Nat) (f : Context → Context) : (s.onCtx c f).l2 = s.l2 := rfl
@[simp] theorem State.onCtx_poison (c : Nat) (f : Context → Context) : (s.onCtx c f).poison = s.poison := rfl
@[simp] theorem State.onCtx_hbmPoison (c : Nat) (f : Context → Context) : (s.onCtx c f).hbmPoison = s.hbmPoison := rfl
@[simp] theorem State.onCtx_walks (c : Nat) (f : Context → Context) : (s.onCtx c f).walks = s.walks := rfl
@[simp] theorem State.onCtx_nextWrite (c : Nat) (f : Context → Context) : (s.onCtx c f).nextWrite = s.nextWrite := rfl
@[simp] theorem State.onCtx_mirror (c : Nat) (f : Context → Context) : (s.onCtx c f).mirror = s.mirror := rfl
@[simp] theorem State.onCtx_cores (c : Nat) (f : Context → Context) : (s.onCtx c f).cores = s.cores := rfl
@[simp] theorem State.onCtx_lanterns (c : Nat) (f : Context → Context) : (s.onCtx c f).lanterns = s.lanterns := rfl
@[simp] theorem State.onCtx_groves (c : Nat) (f : Context → Context) : (s.onCtx c f).groves = s.groves := rfl
@[simp] theorem State.onCtx_grids (c : Nat) (f : Context → Context) : (s.onCtx c f).grids = s.grids := rfl
@[simp] theorem State.onCtx_nextGrid (c : Nat) (f : Context → Context) : (s.onCtx c f).nextGrid = s.nextGrid := rfl
@[simp] theorem State.onCtx_kernels (c : Nat) (f : Context → Context) : (s.onCtx c f).kernels = s.kernels := rfl
@[simp] theorem State.onCtx_deferred (c : Nat) (f : Context → Context) : (s.onCtx c f).deferred = s.deferred := rfl
@[simp] theorem State.onCtx_contribs (c : Nat) (f : Context → Context) : (s.onCtx c f).contribs = s.contribs := rfl
@[simp] theorem State.onCtx_pf (c : Nat) (f : Context → Context) : (s.onCtx c f).pf = s.pf := rfl
@[simp] theorem State.onCtx_boot (c : Nat) (f : Context → Context) : (s.onCtx c f).boot = s.boot := rfl
@[simp] theorem State.onCtx_time (c : Nat) (f : Context → Context) : (s.onCtx c f).time = s.time := rfl
@[simp] theorem State.onCtx_trigOut (c : Nat) (f : Context → Context) : (s.onCtx c f).trigOut = s.trigOut := rfl
@[simp] theorem State.onCtx_hostData (c : Nat) (f : Context → Context) : (s.onCtx c f).hostData = s.hostData := rfl
@[simp] theorem State.onCtx_hostBad (c : Nat) (f : Context → Context) : (s.onCtx c f).hostBad = s.hostBad := rfl
@[simp] theorem State.onCtx_agenda (c : Nat) (f : Context → Context) : (s.onCtx c f).agenda = s.agenda := rfl
@[simp] theorem State.onCtx_turn (c : Nat) (f : Context → Context) : (s.onCtx c f).turn = s.turn := rfl
@[simp] theorem State.onCtx_freeIdx (c : Nat) (f : Context → Context) : (s.onCtx c f).freeIdx = s.freeIdx := rfl
@[simp] theorem State.onCtx_waited (c : Nat) (f : Context → Context) : (s.onCtx c f).waited = s.waited := rfl

@[simp] theorem State.onGrove_mem (g : Nat) (f : Grove → Grove) : (s.onGrove g f).mem = s.mem := rfl
@[simp] theorem State.onGrove_hbm (g : Nat) (f : Grove → Grove) : (s.onGrove g f).hbm = s.hbm := rfl
@[simp] theorem State.onGrove_l2 (g : Nat) (f : Grove → Grove) : (s.onGrove g f).l2 = s.l2 := rfl
@[simp] theorem State.onGrove_poison (g : Nat) (f : Grove → Grove) : (s.onGrove g f).poison = s.poison := rfl
@[simp] theorem State.onGrove_hbmPoison (g : Nat) (f : Grove → Grove) : (s.onGrove g f).hbmPoison = s.hbmPoison := rfl
@[simp] theorem State.onGrove_walks (g : Nat) (f : Grove → Grove) : (s.onGrove g f).walks = s.walks := rfl
@[simp] theorem State.onGrove_nextWrite (g : Nat) (f : Grove → Grove) : (s.onGrove g f).nextWrite = s.nextWrite := rfl
@[simp] theorem State.onGrove_mirror (g : Nat) (f : Grove → Grove) : (s.onGrove g f).mirror = s.mirror := rfl
@[simp] theorem State.onGrove_cores (g : Nat) (f : Grove → Grove) : (s.onGrove g f).cores = s.cores := rfl
@[simp] theorem State.onGrove_lanterns (g : Nat) (f : Grove → Grove) : (s.onGrove g f).lanterns = s.lanterns := rfl
@[simp] theorem State.onGrove_ctxs (g : Nat) (f : Grove → Grove) : (s.onGrove g f).ctxs = s.ctxs := rfl
@[simp] theorem State.onGrove_grids (g : Nat) (f : Grove → Grove) : (s.onGrove g f).grids = s.grids := rfl
@[simp] theorem State.onGrove_nextGrid (g : Nat) (f : Grove → Grove) : (s.onGrove g f).nextGrid = s.nextGrid := rfl
@[simp] theorem State.onGrove_kernels (g : Nat) (f : Grove → Grove) : (s.onGrove g f).kernels = s.kernels := rfl
@[simp] theorem State.onGrove_deferred (g : Nat) (f : Grove → Grove) : (s.onGrove g f).deferred = s.deferred := rfl
@[simp] theorem State.onGrove_contribs (g : Nat) (f : Grove → Grove) : (s.onGrove g f).contribs = s.contribs := rfl
@[simp] theorem State.onGrove_pf (g : Nat) (f : Grove → Grove) : (s.onGrove g f).pf = s.pf := rfl
@[simp] theorem State.onGrove_boot (g : Nat) (f : Grove → Grove) : (s.onGrove g f).boot = s.boot := rfl
@[simp] theorem State.onGrove_time (g : Nat) (f : Grove → Grove) : (s.onGrove g f).time = s.time := rfl
@[simp] theorem State.onGrove_trigOut (g : Nat) (f : Grove → Grove) : (s.onGrove g f).trigOut = s.trigOut := rfl
@[simp] theorem State.onGrove_hostData (g : Nat) (f : Grove → Grove) : (s.onGrove g f).hostData = s.hostData := rfl
@[simp] theorem State.onGrove_hostBad (g : Nat) (f : Grove → Grove) : (s.onGrove g f).hostBad = s.hostBad := rfl
@[simp] theorem State.onGrove_agenda (g : Nat) (f : Grove → Grove) : (s.onGrove g f).agenda = s.agenda := rfl
@[simp] theorem State.onGrove_turn (g : Nat) (f : Grove → Grove) : (s.onGrove g f).turn = s.turn := rfl
@[simp] theorem State.onGrove_freeIdx (g : Nat) (f : Grove → Grove) : (s.onGrove g f).freeIdx = s.freeIdx := rfl
@[simp] theorem State.onGrove_waited (g : Nat) (f : Grove → Grove) : (s.onGrove g f).waited = s.waited := rfl

@[simp] theorem State.onGroup_mem (c g : Nat) (f : Group → Group) : (s.onGroup c g f).mem = s.mem := rfl
@[simp] theorem State.onGroup_hbm (c g : Nat) (f : Group → Group) : (s.onGroup c g f).hbm = s.hbm := rfl
@[simp] theorem State.onGroup_l2 (c g : Nat) (f : Group → Group) : (s.onGroup c g f).l2 = s.l2 := rfl
@[simp] theorem State.onGroup_poison (c g : Nat) (f : Group → Group) : (s.onGroup c g f).poison = s.poison := rfl
@[simp] theorem State.onGroup_hbmPoison (c g : Nat) (f : Group → Group) : (s.onGroup c g f).hbmPoison = s.hbmPoison := rfl
@[simp] theorem State.onGroup_walks (c g : Nat) (f : Group → Group) : (s.onGroup c g f).walks = s.walks := rfl
@[simp] theorem State.onGroup_nextWrite (c g : Nat) (f : Group → Group) : (s.onGroup c g f).nextWrite = s.nextWrite := rfl
@[simp] theorem State.onGroup_mirror (c g : Nat) (f : Group → Group) : (s.onGroup c g f).mirror = s.mirror := rfl
@[simp] theorem State.onGroup_lanterns (c g : Nat) (f : Group → Group) : (s.onGroup c g f).lanterns = s.lanterns := rfl
@[simp] theorem State.onGroup_ctxs (c g : Nat) (f : Group → Group) : (s.onGroup c g f).ctxs = s.ctxs := rfl
@[simp] theorem State.onGroup_groves (c g : Nat) (f : Group → Group) : (s.onGroup c g f).groves = s.groves := rfl
@[simp] theorem State.onGroup_grids (c g : Nat) (f : Group → Group) : (s.onGroup c g f).grids = s.grids := rfl
@[simp] theorem State.onGroup_nextGrid (c g : Nat) (f : Group → Group) : (s.onGroup c g f).nextGrid = s.nextGrid := rfl
@[simp] theorem State.onGroup_kernels (c g : Nat) (f : Group → Group) : (s.onGroup c g f).kernels = s.kernels := rfl
@[simp] theorem State.onGroup_deferred (c g : Nat) (f : Group → Group) : (s.onGroup c g f).deferred = s.deferred := rfl
@[simp] theorem State.onGroup_contribs (c g : Nat) (f : Group → Group) : (s.onGroup c g f).contribs = s.contribs := rfl
@[simp] theorem State.onGroup_pf (c g : Nat) (f : Group → Group) : (s.onGroup c g f).pf = s.pf := rfl
@[simp] theorem State.onGroup_boot (c g : Nat) (f : Group → Group) : (s.onGroup c g f).boot = s.boot := rfl
@[simp] theorem State.onGroup_time (c g : Nat) (f : Group → Group) : (s.onGroup c g f).time = s.time := rfl
@[simp] theorem State.onGroup_trigOut (c g : Nat) (f : Group → Group) : (s.onGroup c g f).trigOut = s.trigOut := rfl
@[simp] theorem State.onGroup_hostData (c g : Nat) (f : Group → Group) : (s.onGroup c g f).hostData = s.hostData := rfl
@[simp] theorem State.onGroup_hostBad (c g : Nat) (f : Group → Group) : (s.onGroup c g f).hostBad = s.hostBad := rfl
@[simp] theorem State.onGroup_agenda (c g : Nat) (f : Group → Group) : (s.onGroup c g f).agenda = s.agenda := rfl
@[simp] theorem State.onGroup_turn (c g : Nat) (f : Group → Group) : (s.onGroup c g f).turn = s.turn := rfl
@[simp] theorem State.onGroup_freeIdx (c g : Nat) (f : Group → Group) : (s.onGroup c g f).freeIdx = s.freeIdx := rfl
@[simp] theorem State.onGroup_waited (c g : Nat) (f : Group → Group) : (s.onGroup c g f).waited = s.waited := rfl

@[simp] theorem State.onTeam_mem (c t : Nat) (f : Team → Team) : (s.onTeam c t f).mem = s.mem := rfl
@[simp] theorem State.onTeam_hbm (c t : Nat) (f : Team → Team) : (s.onTeam c t f).hbm = s.hbm := rfl
@[simp] theorem State.onTeam_l2 (c t : Nat) (f : Team → Team) : (s.onTeam c t f).l2 = s.l2 := rfl
@[simp] theorem State.onTeam_poison (c t : Nat) (f : Team → Team) : (s.onTeam c t f).poison = s.poison := rfl
@[simp] theorem State.onTeam_hbmPoison (c t : Nat) (f : Team → Team) : (s.onTeam c t f).hbmPoison = s.hbmPoison := rfl
@[simp] theorem State.onTeam_walks (c t : Nat) (f : Team → Team) : (s.onTeam c t f).walks = s.walks := rfl
@[simp] theorem State.onTeam_nextWrite (c t : Nat) (f : Team → Team) : (s.onTeam c t f).nextWrite = s.nextWrite := rfl
@[simp] theorem State.onTeam_mirror (c t : Nat) (f : Team → Team) : (s.onTeam c t f).mirror = s.mirror := rfl
@[simp] theorem State.onTeam_lanterns (c t : Nat) (f : Team → Team) : (s.onTeam c t f).lanterns = s.lanterns := rfl
@[simp] theorem State.onTeam_ctxs (c t : Nat) (f : Team → Team) : (s.onTeam c t f).ctxs = s.ctxs := rfl
@[simp] theorem State.onTeam_groves (c t : Nat) (f : Team → Team) : (s.onTeam c t f).groves = s.groves := rfl
@[simp] theorem State.onTeam_grids (c t : Nat) (f : Team → Team) : (s.onTeam c t f).grids = s.grids := rfl
@[simp] theorem State.onTeam_nextGrid (c t : Nat) (f : Team → Team) : (s.onTeam c t f).nextGrid = s.nextGrid := rfl
@[simp] theorem State.onTeam_kernels (c t : Nat) (f : Team → Team) : (s.onTeam c t f).kernels = s.kernels := rfl
@[simp] theorem State.onTeam_deferred (c t : Nat) (f : Team → Team) : (s.onTeam c t f).deferred = s.deferred := rfl
@[simp] theorem State.onTeam_contribs (c t : Nat) (f : Team → Team) : (s.onTeam c t f).contribs = s.contribs := rfl
@[simp] theorem State.onTeam_pf (c t : Nat) (f : Team → Team) : (s.onTeam c t f).pf = s.pf := rfl
@[simp] theorem State.onTeam_boot (c t : Nat) (f : Team → Team) : (s.onTeam c t f).boot = s.boot := rfl
@[simp] theorem State.onTeam_time (c t : Nat) (f : Team → Team) : (s.onTeam c t f).time = s.time := rfl
@[simp] theorem State.onTeam_trigOut (c t : Nat) (f : Team → Team) : (s.onTeam c t f).trigOut = s.trigOut := rfl
@[simp] theorem State.onTeam_hostData (c t : Nat) (f : Team → Team) : (s.onTeam c t f).hostData = s.hostData := rfl
@[simp] theorem State.onTeam_hostBad (c t : Nat) (f : Team → Team) : (s.onTeam c t f).hostBad = s.hostBad := rfl
@[simp] theorem State.onTeam_agenda (c t : Nat) (f : Team → Team) : (s.onTeam c t f).agenda = s.agenda := rfl
@[simp] theorem State.onTeam_turn (c t : Nat) (f : Team → Team) : (s.onTeam c t f).turn = s.turn := rfl
@[simp] theorem State.onTeam_freeIdx (c t : Nat) (f : Team → Team) : (s.onTeam c t f).freeIdx = s.freeIdx := rfl
@[simp] theorem State.onTeam_waited (c t : Nat) (f : Team → Team) : (s.onTeam c t f).waited = s.waited := rfl

@[simp] theorem State.onProg_mem (l p : Nat) (f : Prog → Prog) : (s.onProg l p f).mem = s.mem := rfl
@[simp] theorem State.onProg_hbm (l p : Nat) (f : Prog → Prog) : (s.onProg l p f).hbm = s.hbm := rfl
@[simp] theorem State.onProg_l2 (l p : Nat) (f : Prog → Prog) : (s.onProg l p f).l2 = s.l2 := rfl
@[simp] theorem State.onProg_poison (l p : Nat) (f : Prog → Prog) : (s.onProg l p f).poison = s.poison := rfl
@[simp] theorem State.onProg_hbmPoison (l p : Nat) (f : Prog → Prog) : (s.onProg l p f).hbmPoison = s.hbmPoison := rfl
@[simp] theorem State.onProg_walks (l p : Nat) (f : Prog → Prog) : (s.onProg l p f).walks = s.walks := rfl
@[simp] theorem State.onProg_nextWrite (l p : Nat) (f : Prog → Prog) : (s.onProg l p f).nextWrite = s.nextWrite := rfl
@[simp] theorem State.onProg_mirror (l p : Nat) (f : Prog → Prog) : (s.onProg l p f).mirror = s.mirror := rfl
@[simp] theorem State.onProg_cores (l p : Nat) (f : Prog → Prog) : (s.onProg l p f).cores = s.cores := rfl
@[simp] theorem State.onProg_ctxs (l p : Nat) (f : Prog → Prog) : (s.onProg l p f).ctxs = s.ctxs := rfl
@[simp] theorem State.onProg_groves (l p : Nat) (f : Prog → Prog) : (s.onProg l p f).groves = s.groves := rfl
@[simp] theorem State.onProg_grids (l p : Nat) (f : Prog → Prog) : (s.onProg l p f).grids = s.grids := rfl
@[simp] theorem State.onProg_nextGrid (l p : Nat) (f : Prog → Prog) : (s.onProg l p f).nextGrid = s.nextGrid := rfl
@[simp] theorem State.onProg_kernels (l p : Nat) (f : Prog → Prog) : (s.onProg l p f).kernels = s.kernels := rfl
@[simp] theorem State.onProg_deferred (l p : Nat) (f : Prog → Prog) : (s.onProg l p f).deferred = s.deferred := rfl
@[simp] theorem State.onProg_contribs (l p : Nat) (f : Prog → Prog) : (s.onProg l p f).contribs = s.contribs := rfl
@[simp] theorem State.onProg_pf (l p : Nat) (f : Prog → Prog) : (s.onProg l p f).pf = s.pf := rfl
@[simp] theorem State.onProg_boot (l p : Nat) (f : Prog → Prog) : (s.onProg l p f).boot = s.boot := rfl
@[simp] theorem State.onProg_time (l p : Nat) (f : Prog → Prog) : (s.onProg l p f).time = s.time := rfl
@[simp] theorem State.onProg_trigOut (l p : Nat) (f : Prog → Prog) : (s.onProg l p f).trigOut = s.trigOut := rfl
@[simp] theorem State.onProg_hostData (l p : Nat) (f : Prog → Prog) : (s.onProg l p f).hostData = s.hostData := rfl
@[simp] theorem State.onProg_hostBad (l p : Nat) (f : Prog → Prog) : (s.onProg l p f).hostBad = s.hostBad := rfl
@[simp] theorem State.onProg_agenda (l p : Nat) (f : Prog → Prog) : (s.onProg l p f).agenda = s.agenda := rfl
@[simp] theorem State.onProg_turn (l p : Nat) (f : Prog → Prog) : (s.onProg l p f).turn = s.turn := rfl
@[simp] theorem State.onProg_freeIdx (l p : Nat) (f : Prog → Prog) : (s.onProg l p f).freeIdx = s.freeIdx := rfl
@[simp] theorem State.onProg_waited (l p : Nat) (f : Prog → Prog) : (s.onProg l p f).waited = s.waited := rfl

@[simp] theorem State.spend_mem : (s.spend).mem = s.mem := rfl
@[simp] theorem State.spend_hbm : (s.spend).hbm = s.hbm := rfl
@[simp] theorem State.spend_l2 : (s.spend).l2 = s.l2 := rfl
@[simp] theorem State.spend_poison : (s.spend).poison = s.poison := rfl
@[simp] theorem State.spend_hbmPoison : (s.spend).hbmPoison = s.hbmPoison := rfl
@[simp] theorem State.spend_walks : (s.spend).walks = s.walks := rfl
@[simp] theorem State.spend_nextWrite : (s.spend).nextWrite = s.nextWrite := rfl
@[simp] theorem State.spend_mirror : (s.spend).mirror = s.mirror := rfl
@[simp] theorem State.spend_cores : (s.spend).cores = s.cores := rfl
@[simp] theorem State.spend_lanterns : (s.spend).lanterns = s.lanterns := rfl
@[simp] theorem State.spend_ctxs : (s.spend).ctxs = s.ctxs := rfl
@[simp] theorem State.spend_groves : (s.spend).groves = s.groves := rfl
@[simp] theorem State.spend_grids : (s.spend).grids = s.grids := rfl
@[simp] theorem State.spend_nextGrid : (s.spend).nextGrid = s.nextGrid := rfl
@[simp] theorem State.spend_kernels : (s.spend).kernels = s.kernels := rfl
@[simp] theorem State.spend_deferred : (s.spend).deferred = s.deferred := rfl
@[simp] theorem State.spend_contribs : (s.spend).contribs = s.contribs := rfl
@[simp] theorem State.spend_pf : (s.spend).pf = s.pf := rfl
@[simp] theorem State.spend_boot : (s.spend).boot = s.boot := rfl
@[simp] theorem State.spend_time : (s.spend).time = s.time := rfl
@[simp] theorem State.spend_trigOut : (s.spend).trigOut = s.trigOut := rfl
@[simp] theorem State.spend_hostData : (s.spend).hostData = s.hostData := rfl
@[simp] theorem State.spend_hostBad : (s.spend).hostBad = s.hostBad := rfl
@[simp] theorem State.spend_agenda : (s.spend).agenda = s.agenda := rfl
@[simp] theorem State.spend_turn : (s.spend).turn = s.turn := rfl
@[simp] theorem State.spend_waited : (s.spend).waited = s.waited := rfl

@[simp] theorem State.tick_mem : (s.tick).mem = s.mem := rfl
@[simp] theorem State.tick_hbm : (s.tick).hbm = s.hbm := rfl
@[simp] theorem State.tick_l2 : (s.tick).l2 = s.l2 := rfl
@[simp] theorem State.tick_poison : (s.tick).poison = s.poison := rfl
@[simp] theorem State.tick_hbmPoison : (s.tick).hbmPoison = s.hbmPoison := rfl
@[simp] theorem State.tick_walks : (s.tick).walks = s.walks := rfl
@[simp] theorem State.tick_nextWrite : (s.tick).nextWrite = s.nextWrite := rfl
@[simp] theorem State.tick_mirror : (s.tick).mirror = s.mirror := rfl
@[simp] theorem State.tick_cores : (s.tick).cores = s.cores := rfl
@[simp] theorem State.tick_lanterns : (s.tick).lanterns = s.lanterns := rfl
@[simp] theorem State.tick_ctxs : (s.tick).ctxs = s.ctxs := rfl
@[simp] theorem State.tick_groves : (s.tick).groves = s.groves := rfl
@[simp] theorem State.tick_grids : (s.tick).grids = s.grids := rfl
@[simp] theorem State.tick_nextGrid : (s.tick).nextGrid = s.nextGrid := rfl
@[simp] theorem State.tick_kernels : (s.tick).kernels = s.kernels := rfl
@[simp] theorem State.tick_deferred : (s.tick).deferred = s.deferred := rfl
@[simp] theorem State.tick_contribs : (s.tick).contribs = s.contribs := rfl
@[simp] theorem State.tick_pf : (s.tick).pf = s.pf := rfl
@[simp] theorem State.tick_boot : (s.tick).boot = s.boot := rfl
@[simp] theorem State.tick_trigOut : (s.tick).trigOut = s.trigOut := rfl
@[simp] theorem State.tick_hostData : (s.tick).hostData = s.hostData := rfl
@[simp] theorem State.tick_hostBad : (s.tick).hostBad = s.hostBad := rfl
@[simp] theorem State.tick_agenda : (s.tick).agenda = s.agenda := rfl
@[simp] theorem State.tick_turn : (s.tick).turn = s.turn := rfl
@[simp] theorem State.tick_waited : (s.tick).waited = s.waited := rfl

end Sys2Proof.Machine
end

