-- ==== Sys2Proof/Safety.lean ====
section
/-! DEFINITION. What claims about a step speak of: a machine that goes on, the canonical form of memory, what a unit sees, and
what an instruction leaves alone. -/
namespace Sys2Proof.Machine

/-- The machine goes on. -/
def Goes (a : Answer) : Prop := ∃ t, a = .next t

/-- Every memory of the machine is in canonical form: the home slices, HBM below them, the cores' scratchpads. -/
def State.memOk (s : State) : Prop := s.mem.wf = true ∧ s.hbm.wf = true ∧ ∀ c, (s.core c).sp.wf = true

/-- It is `u`'s turn, and instruction `i` passes the checks of issue (spec/07 R175 steps 3 to 6). -/
structure State.Issues (s : State) (u : UnitId) (i : Instr) : Prop where
  turn : s.turn = some u
  checks : s.preCheck u i = none

/-- The run of `u` ends with instruction `i` (spec/05 R134). -/
def State.endsWith (s : State) (u : UnitId) (i : Instr) : Bool :=
  i.endsRun || decide (Config.runLimit ≤ (s.thread u).run.count + 1)

/-- The flags of a path's group as the path's run has set them (spec/06 R140); another unit has none. -/
def State.flagsSeen (s : State) (u : UnitId) : BitVec 7 :=
  if u.isPath then (s.groupOf u).xflags ||| (s.thread u).run.xOver else 0

/-- Unit `u` comes to instruction `i` and `a` is the answer: it issues it, or it has waited in it and event `ev` ends the wait
(spec/05 R122, spec/02 R55). -/
def State.ComesTo (s : State) (u : UnitId) (i ev : Instr) (a : Answer) : Prop :=
  (s.Issues u i ∧ a = exec i s) ∨
    (s.alive u = true ∧ (s.thread u).waiting = some i ∧ s.preCheck u i = none ∧ a = exec ev s)

/-- Unit `u` comes to memory instruction `i` and `a` is the answer: it issues it, or, where it may have waited in it for scratchpad
lines, as `sp` says, SCRATCHPAD_WAIT_END brings it there again (spec/02 R55). -/
def State.Reaches (s : State) (u : UnitId) (i : Instr) (sp : Bool) (a : Answer) : Prop :=
  (s.Issues u i ∧ a = exec i s) ∨ (sp = true ∧ s.ComesTo u i (.scratchpadWaitEnd u) a)

/-- Nothing but state of units has changed: memory, caches, scratchpads, tiles, trunk, contexts, groves, grids and registers of
the functions are as before. -/
structure State.UnitsOnly (s t : State) : Prop where
  rest : t = { s with cores := t.cores, lanterns := t.lanterns, turn := t.turn }
  cores : ∀ c, t.core c = { s.core c with groups := (t.core c).groups, teams := (t.core c).teams, quads := (t.core c).quads }
  lanterns : ∀ l, t.lantern l = { s.lantern l with progs := (t.lantern l).progs }

/-- The lane operand of a source code at width `w`, as a number of that width (spec/07 R165, spec/09 R207). -/
def State.lane (s : State) (u : UnitId) (code l w : Nat) : BitVec w := (s.srcL u code l w).setWidth w

/-- No other unit's state has changed: what may differ of groups, teams and programs is unit `u`'s thread, the registers,
bindings and flags of its group, team or program. -/
structure State.Apart (s t : State) (u : UnitId) : Prop where
  groups : ∀ c g, (∀ i, u ≠ .path c g i) → t.group c g = s.group c g
  teams : ∀ c k, u ≠ .seq c k → t.team c k = s.team c k
  progs : ∀ l p, u ≠ .lant l p → t.prog l p = s.prog l p
  group : ∀ c g i, u = .path c g i → t.group c g =
    { s.group c g with
      paths := (t.group c g).paths, vregs := (t.group c g).vregs, sregs := (t.group c g).sregs
      binds := (t.group c g).binds, xflags := (t.group c g).xflags, lwb := (t.group c g).lwb }
  paths : ∀ c g i, u = .path c g i → ∀ j, j ≠ i → (t.group c g).path j = (s.group c g).path j
  path : ∀ c g i, u = .path c g i → (t.group c g).path i = { (s.group c g).path i with th := ((t.group c g).path i).th }
  team : ∀ c k, u = .seq c k → t.team c k = { s.team c k with seq := (t.team c k).seq, seqRegs := (t.team c k).seqRegs }
  prog : ∀ l p, u = .lant l p → t.prog l p = { s.prog l p with th := (t.prog l p).th, sregs := (t.prog l p).sregs }

/-- Nothing but unit `u`'s own state has changed: its thread, the registers, bindings and flags of its group, team or program,
its turn and its quadrant. -/
structure State.Own (s t : State) (u : UnitId) : Prop where
  units : s.UnitsOnly t
  apart : s.Apart t u

/-- Nothing but memory has changed: the home slices, HBM, poison, the mirror pages' state, the caches, TLBs, walk caches, pending
writes and scratchpads of the nodes. -/
structure State.MemoryOnly (s t : State) : Prop where
  rest : t = { s with
    mem := t.mem, hbm := t.hbm, l2 := t.l2, poison := t.poison, hbmPoison := t.hbmPoison, mirror := t.mirror, walks := t.walks
    nextWrite := t.nextWrite, cores := t.cores, lanterns := t.lanterns }
  cores : ∀ c, t.core c = { s.core c with mc := (t.core c).mc, sp := (t.core c).sp, spPoison := (t.core c).spPoison }
  lanterns : ∀ l, t.lantern l = { s.lantern l with mc := (t.lantern l).mc }

/-- The thread of `u` stands after an instruction of `len` bytes: PC past it; where the run has ended, a new one begins
there with every latch invalid. -/
structure State.Passed (s t : State) (u : UnitId) (i : Instr) : Prop where
  pc : (t.thread u).pc = (s.thread u).pc + BitVec.ofNat 64 i.len
  ready : (t.thread u).state = .ready
  runpc : (t.thread u).runpc = if s.endsWith u i then (t.thread u).pc else (s.thread u).runpc
  count : (t.thread u).run.count = if s.endsWith u i then 0 else (s.thread u).run.count + 1
  latches : s.endsWith u i = true → (t.thread u).run.lat = Run.fresh.lat ∧ (t.thread u).run.ulat = Run.fresh.ulat
  fmt : (t.thread u).fmt = (s.thread u).fmt
  frame : (t.thread u).frame = (s.thread u).frame

/-- What the unit sees after a lane instruction that has written `val l` of width `w` to vd in each lane of the path unless
K = 1 and has OR-ed `fl` into the flags: nothing else is different (spec/09 R206, spec/05 R136). -/
structure State.LaneSees (s t : State) (u : UnitId) (i : Instr) (d : Nat) (k : Bool) (w : Nat) (val : Nat → Dword)
    (fl : BitVec 7) : Prop where
  passed : s.Passed t u i
  flags : t.flagsSeen u = s.flagsSeen u ||| fl
  low : k = false → ∀ l, l < 64 → (s.maskOf u).getLsbD l = true → t.vget u l d = (val l).setWidth 32
  high : k = false → w = 64 → ∀ l, l < 64 → (s.maskOf u).getLsbD l = true → t.vget u l (d + 1) = (val l).extractLsb' 32 32
  others : ∀ l r, l < 64 → (k = true ∨ (s.maskOf u).getLsbD l = false ∨ (r ≠ d ∧ (w = 64 → r ≠ d + 1))) → t.vget u l r = s.vget u l r
  scalars : ∀ r, t.sget u r = s.sget u r
  binds : ∀ l, t.bindOf u l = s.bindOf u l
  lat : s.endsWith u i = false → ∃ v : Tab Dword, (t.thread u).run.lat = some v :: (s.thread u).run.lat.take 3 ∧
    ∀ l, l < 64 → (s.maskOf u).getLsbD l = true → v.find l = some (val l)
  ulat : s.endsWith u i = false → (t.thread u).run.ulat = (s.thread u).run.ulat

/-- What the unit sees after a uniform instruction that has written `v` to S[d] unless K = 1: nothing else is different
(spec/08 R183, spec/05 R136). -/
structure State.ScalarSees (s t : State) (u : UnitId) (i : Instr) (d : Nat) (k : Bool) (v : Dword) : Prop where
  passed : s.Passed t u i
  flags : t.flagsSeen u = s.flagsSeen u
  result : k = false → t.sget u d = v
  others : ∀ r, k = true ∨ r ≠ d → t.sget u r = s.sget u r
  lanes : ∀ l r, l < 64 → t.vget u l r = s.vget u l r
  binds : u.isPath = true → ∀ l, t.bindOf u l = s.bindOf u l
  ulat : s.endsWith u i = false → (t.thread u).run.ulat = some v :: (s.thread u).run.ulat.take 3
  lat : s.endsWith u i = false → (t.thread u).run.lat = (s.thread u).run.lat

/-- What the unit sees after an instruction with no result: an invalid latch has entered its pipe, the L-form pipe or the
uniform one, and no register, flag or binding is different (spec/05 R136). -/
structure State.PlainSees (s t : State) (u : UnitId) (i : Instr) (lform : Bool) : Prop where
  passed : s.Passed t u i
  flags : t.flagsSeen u = s.flagsSeen u
  scalars : ∀ r, t.sget u r = s.sget u r
  lanes : ∀ l r, l < 64 → t.vget u l r = s.vget u l r
  binds : u.isPath = true → ∀ l, t.bindOf u l = s.bindOf u l
  lat : s.endsWith u i = false → (t.thread u).run.lat = if lform then none :: (s.thread u).run.lat.take 3 else (s.thread u).run.lat
  ulat : s.endsWith u i = false → (t.thread u).run.ulat = if lform then (s.thread u).run.ulat else none :: (s.thread u).run.ulat.take 3

/-- What the unit sees after a transfer of control to `target`: the run has ended, its writes are committed, a new run starts
there with every latch invalid, and no register, flag, binding or format is different (spec/05 R134, R135, spec/08 R185). -/
structure State.JumpSees (s t : State) (u : UnitId) (target : Dword) : Prop where
  pc : (t.thread u).pc = target
  runpc : (t.thread u).runpc = target
  ready : (t.thread u).state = .ready
  run : (t.thread u).run = Run.fresh
  fmt : (t.thread u).fmt = (s.thread u).fmt
  frame : (t.thread u).frame = (s.thread u).frame
  flags : t.flagsSeen u = s.flagsSeen u
  scalars : ∀ r, t.sget u r = s.sget u r
  lanes : ∀ l r, l < 64 → t.vget u l r = s.vget u l r
  binds : u.isPath = true → ∀ l, t.bindOf u l = s.bindOf u l

/-- The state after lanes `ls` have performed in order. -/
def State.afterLanes (act : State → Nat → Ready → List Byte × State) (r : Nat → Ready) (s : State) (ls : List Nat) : State :=
  ls.foldl (fun q l => (act q l (r l)).2) s

/-- No lane of the path waits for an absent line or faults in an access of `n` bytes of kind `k` and request `req`: lane `l` is ready to
access `r l` (spec/10 R227, spec/02 R55). -/
def State.LanesReady (s : State) (u : UnitId) (sp : Bool) (k : Kind) (n req : Nat) (ea : Nat → Dword) (r : Nat → Ready) : Prop :=
  ∀ l ∈ (s.maskOf u).lanes, s.mustWait u sp n (ea l) = false ∧ s.accessCheck u sp k n req (ea l) = .ok (r l)

/-- Where an access of `u` lies: the offset in the core's scratchpad SRAM, or the address at the home slices that the node
reaches. -/
def State.placeOf (s : State) (u : UnitId) (r : Ready) : Nat :=
  match r.xl with
  | none => (s.teamOf u).spBase + r.addr.toNat
  | some x => x.at_ u.node

/-- Is `a` a byte of the leaf entry of an access? -/
def Ready.inLeaf (r : Ready) (a : Nat) : Prop := ∃ x, r.xl = some x ∧ x.pte ≤ a ∧ a < x.pte + 8

/-- What an atomic writes: f(AOP, old, operand) at width `w`, signed order for the even types (spec/10 R231, R233). -/
def rmwBits (fmt : Word) (ty aop w : Nat) (old op : BitVec w) : BitVec w :=
  let before (x y : BitVec w) : Bool := if ty % 2 = 0 then x.slt y else x.ult y
  match aop with
  | 0 => old + op
  | 1 => old &&& op
  | 2 => old ||| op
  | 3 => old ^^^ op
  | 4 => if before op old then op else old
  | 5 => if before old op then op else old
  | 6 => op
  | _ => BitVec.ofNat w (rnd fp32 (fmtRM fmt) (fmtFTZ fmt)
      ((fp32.read (fmtDAZ fmt) old.toNat).add (fmtRM fmt) (fp32.read (fmtDAZ fmt) op.toNat)).1).1

/-- `x` rounded under mode `rm` to whole units of 2^e is `k` of them, and `ix` says whether that differs from `x`: to nearest with ties to
even, toward zero, toward +∞ or toward −∞ (spec/06 R139, R143). -/
def RoundsTo (rm : Nat) (x : Exact) (e : Int) (k : Nat) (ix : Bool) : Prop :=
  let m := x.mag * 2 ^ (x.exp - min x.exp e).toNat
  let u := 2 ^ (e - min x.exp e).toNat
  let up : Prop := match rm with
    | 0 => u < 2 * (m % u) ∨ (u = 2 * (m % u) ∧ (x.more = true ∨ m / u % 2 = 1))
    | 1 => False
    | 2 => ix = true ∧ x.neg = false
    | _ => ix = true ∧ x.neg = true
  (ix = true ↔ m % u ≠ 0 ∨ x.more = true) ∧ (up → k = m / u + 1) ∧ (¬ up → k = m / u)
/-- `x` rounded under mode `rm` into a format of `p` bits whose least unit is 2^low and whose exponent has no upper bound is `k` units of
2^e (spec/06 R142, R143). -/
def RoundsIn (p : Nat) (low : Int) (rm : Nat) (x : Exact) (e : Int) (k : Nat) (ix : Bool) : Prop :=
  let m := x.mag * 2 ^ (x.exp - min x.exp e).toNat
  let u := 2 ^ (e - min x.exp e).toNat
  low ≤ e ∧ m < 2 ^ p * u ∧ (e = low ∨ 2 ^ (p - 1) * u ≤ m) ∧ RoundsTo rm x e k ix

/-- A lane instruction has given its results and changed nothing else. -/
def State.LaneDone (s t : State) (u : UnitId) (i : Instr) (d : Nat) (k : Bool) (w : Nat) (val : Nat → Dword)
    (fl : BitVec 7) : Prop := s.Own t u ∧ s.LaneSees t u i d k w val fl
/-- A uniform instruction has given its result and changed nothing else. -/
def State.ScalarDone (s t : State) (u : UnitId) (i : Instr) (d : Nat) (k : Bool) (v : Dword) : Prop :=
  s.Own t u ∧ s.ScalarSees t u i d k v
/-- An instruction with no result is over and has changed nothing else. -/
def State.PlainDone (s t : State) (u : UnitId) (i : Instr) (lform : Bool) : Prop := s.Own t u ∧ s.PlainSees t u i lform
/-- Unit `u` has taken a trap: the frame is filled, fmt is 0, and a new run starts at the handler of its context with every latch
invalid; its lanes are as before (spec/15 R329). -/
structure State.TrapSees (s t : State) (u : UnitId) (cause detail : Nat) (addr lanes rpc fpc : Dword) : Prop where
  pc : (t.thread u).pc = (s.ctx (s.ctxOf u)).trapv
  runpc : (t.thread u).runpc = (s.ctx (s.ctxOf u)).trapv
  ready : (t.thread u).state = .ready
  run : (t.thread u).run = Run.fresh
  fmt : (t.thread u).fmt = 0
  mask : t.maskOf u = s.maskOf u
  frame : (t.thread u).frame =
    { active := true, all := false, cause := BitVec.ofNat 8 cause, detail := BitVec.ofNat 16 detail, fmt := (s.thread u).fmt
      rpc := rpc, fpc := fpc, addr := addr, lanes := lanes, held := s.maskOf u }
/-- The team of `u` stands torn down with word 1 and word 2 of its error record (spec/15 R336, R337). -/
def State.TeamTorn (s t : State) (u : UnitId) (ecode : Nat) (w1 : Dword) : Prop :=
  (t.teamOf u).torn = true ∧ (t.teamOf u).seqExited = true ∧ t.alive u = false ∧
    (t.teamOf u).errRec.map (fun r => r.take 3) =
      some [0, w1, BitVec.ofNat 64 (s.place u + ecode * 2 ^ 40 + 2 ^ 63)]

/-- A transfer of control to `pc` is over and has changed nothing else. -/
def State.JumpDone (s t : State) (u : UnitId) (pc : Dword) : Prop := s.Own t u ∧ s.JumpSees t u pc
/-- The unit waits in instruction `i`, and another may issue. It stands at its address, its run goes on there, and nothing that it sees
is different (spec/02 R55, notes/assumptions/66.md). -/
structure State.WaitsIn (s t : State) (u : UnitId) (i : Instr) : Prop where
  own : s.Own t u
  state : (t.thread u).state = .waiting
  waiting : (t.thread u).waiting = some i
  pc : (t.thread u).pc = (s.thread u).pc
  run : (t.thread u).run = (s.thread u).run
  lanes : (t.groupOf u).vregs = (s.groupOf u).vregs
  scalars : t.sregs u = s.sregs u
  seen : (∀ r, t.sget u r = s.sget u r) ∧ ∀ l r, t.vget u l r = s.vget u l r

/-- Command `x` stands at the head of queue `q` of team slot `k` of core `c`, decided and held by nothing; `rest` stands behind it
(spec/10 R237, R238, spec/11 R248). -/
structure State.Heads (s : State) (c k q : Nat) (x : Cmd) (rest : List Cmd) : Prop where
  live : (s.team c k).torn = false
  queue : (s.team c k).eng.get q .none = { cmds := x :: rest, halted := false }
  go : x.go = some true
  park : x.park = none
  tiles : (s.team c k).tileHeld x = false
/-- A queue of a team holds `l`. -/
def State.withQueue (s : State) (c k q : Nat) (l : List Cmd) : State :=
  s.onTeam c k fun m => { m with eng := m.eng.put q { m.eng.get q .none with cmds := l } }
/-- The scratchpad of team slot `k` of core `c` holds what `f` gives for offsets below 2^20, and nothing else of the machine has changed
but poison of the core's scratchpad. -/
def State.ScratchIs (s t : State) (c k : Nat) (f : Nat → Byte) : Prop :=
  t = { s with cores := t.cores } ∧ (∀ m, m ≠ c → t.core m = s.core m) ∧
    t.core c = { s.core c with sp := (t.core c).sp, spPoison := (t.core c).spPoison } ∧
    ∀ a, (t.core c).sp.get a = if (s.team c k).spBase ≤ a then f (a - (s.team c k).spBase) else (s.core c).sp.get a

end Sys2Proof.Machine
end

