-- ==== Sys2Proof/Laws/Units.lean ====
section
/-! SUPPORT. What a unit's own operations change: accessors after updates, runs, latches, commits, results. -/
namespace Sys2Proof.Machine

variable {s t : State}

/-! Accessors after an update. -/

theorem State.core_onCore (s : State) (c c' : Nat) (f : Core → Core) :
    (s.onCore c f).core c' = if c' = c then f (s.core c) else s.core c' := by
  simp [State.onCore, State.core, Tab.get_put]
@[simp] theorem State.core_onCore_same (s : State) (c : Nat) (f : Core → Core) : (s.onCore c f).core c = f (s.core c) := by
  simp [State.core_onCore]
theorem State.lantern_onLantern (s : State) (l l' : Nat) (f : Lantern → Lantern) :
    (s.onLantern l f).lantern l' = if l' = l then f (s.lantern l) else s.lantern l' := by
  simp [State.onLantern, State.lantern, Tab.get_put]
@[simp] theorem State.lantern_onCore (s : State) (c l : Nat) (f : Core → Core) : (s.onCore c f).lantern l = s.lantern l := rfl
@[simp] theorem State.core_onLantern (s : State) (c l : Nat) (f : Lantern → Lantern) : (s.onLantern l f).core c = s.core c := rfl

theorem State.group_onGroup (s : State) (c g c' g' : Nat) (f : Group → Group) :
    (s.onGroup c g f).group c' g' = if c' = c ∧ g' = g then f (s.group c g) else s.group c' g' := by
  by_cases h : c' = c
  · subst h
    simp [State.onGroup, State.group, Tab.get_put]
  · simp [State.onGroup, State.group, State.core_onCore, h]
@[simp] theorem State.group_onGroup_same (s : State) (c g : Nat) (f : Group → Group) :
    (s.onGroup c g f).group c g = f (s.group c g) := by simp [State.group_onGroup]
@[simp] theorem State.team_onGroup (s : State) (c g c' k : Nat) (f : Group → Group) :
    (s.onGroup c g f).team c' k = s.team c' k := by
  simp only [State.onGroup, State.team, State.core_onCore]
  split <;> simp_all
@[simp] theorem State.prog_onGroup (s : State) (c g l p : Nat) (f : Group → Group) :
    (s.onGroup c g f).prog l p = s.prog l p := rfl
theorem State.team_onTeam (s : State) (c k c' k' : Nat) (f : Team → Team) :
    (s.onTeam c k f).team c' k' = if c' = c ∧ k' = k then f (s.team c k) else s.team c' k' := by
  by_cases h : c' = c
  · subst h
    simp [State.onTeam, State.team, Tab.get_put]
  · simp [State.onTeam, State.team, State.core_onCore, h]
@[simp] theorem State.team_onTeam_same (s : State) (c k : Nat) (f : Team → Team) :
    (s.onTeam c k f).team c k = f (s.team c k) := by simp [State.team_onTeam]
@[simp] theorem State.group_onTeam (s : State) (c g c' k : Nat) (f : Team → Team) :
    (s.onTeam c k f).group c' g = s.group c' g := by
  simp only [State.onTeam, State.group, State.core_onCore]
  split <;> simp_all
@[simp] theorem State.prog_onTeam (s : State) (c k l p : Nat) (f : Team → Team) : (s.onTeam c k f).prog l p = s.prog l p := rfl
theorem State.prog_onProg (s : State) (l p l' p' : Nat) (f : Prog → Prog) :
    (s.onProg l p f).prog l' p' = if l' = l ∧ p' = p then f (s.prog l p) else s.prog l' p' := by
  by_cases h : l' = l
  · subst h
    simp [State.onProg, State.prog, State.lantern_onLantern, Tab.get_put]
  · simp [State.onProg, State.prog, State.lantern_onLantern, h]
@[simp] theorem State.prog_onProg_same (s : State) (l p : Nat) (f : Prog → Prog) :
    (s.onProg l p f).prog l p = f (s.prog l p) := by simp [State.prog_onProg]
@[simp] theorem State.group_onProg (s : State) (l p c g : Nat) (f : Prog → Prog) : (s.onProg l p f).group c g = s.group c g := rfl
@[simp] theorem State.team_onProg (s : State) (l p c k : Nat) (f : Prog → Prog) : (s.onProg l p f).team c k = s.team c k := rfl

theorem Group.path_onPath (g : Group) (i j : Nat) (f : Path → Path) :
    (g.onPath i f).path j = if j = i then f (g.path i) else g.path j := by
  simp [Group.onPath, Group.path, Tab.get_put]
@[simp] theorem Group.path_onPath_same (g : Group) (i : Nat) (f : Path → Path) : (g.onPath i f).path i = f (g.path i) := by
  simp [Group.path_onPath]
theorem Group.onPath_eq (g : Group) (i : Nat) (f : Path → Path) : g.onPath i f = { g with paths := (g.onPath i f).paths } := rfl

/-! A unit's thread, registers and mask after an update of its thread. -/

@[simp] theorem State.thread_onThread (s : State) (u : UnitId) (f : Thread → Thread) :
    (s.onThread u f).thread u = f (s.thread u) := by
  cases u <;> simp [State.onThread, State.thread]
@[simp] theorem State.sregs_onThread (s : State) (u : UnitId) (f : Thread → Thread) :
    (s.onThread u f).sregs u = s.sregs u := by
  cases u <;> simp [State.onThread, State.sregs, Group.onPath]
theorem State.pathOf_onThread (s : State) (u : UnitId) (f : Thread → Thread) :
    (s.onThread u f).pathOf u = (if u.isPath then { s.pathOf u with th := f (s.pathOf u).th } else Path.none) := by
  cases u <;> simp [State.onThread, State.pathOf, UnitId.isPath]
theorem State.pathOf_th (s : State) (u : UnitId) (h : u.isPath = true) : (s.pathOf u).th = s.thread u := by
  cases u <;> simp_all [State.pathOf, State.thread, UnitId.isPath]
theorem State.pathOf_other (s : State) (u : UnitId) (h : u.isPath = false) : s.pathOf u = Path.none := by
  cases u <;> simp_all [State.pathOf, UnitId.isPath]
@[simp] theorem State.mask_onThread (s : State) (u : UnitId) (f : Thread → Thread) :
    (s.onThread u f).maskOf u = s.maskOf u := by
  cases u <;> simp [State.maskOf, State.onThread, State.pathOf]
theorem State.groupOf_onThread (s : State) (u : UnitId) (f : Thread → Thread) :
    (s.onThread u f).groupOf u = { s.groupOf u with paths := ((s.onThread u f).groupOf u).paths } := by
  cases u <;> simp [State.onThread, State.groupOf, Group.onPath]

/-- What unit `u` sees of its registers depends on its thread, its registers, its window and its group's. -/
theorem State.vget_congr {u : UnitId} (hr : (t.thread u).run.vOver = (s.thread u).run.vOver)
    (hw : (t.pathOf u).wb = (s.pathOf u).wb) (hg : (t.groupOf u).vregs = (s.groupOf u).vregs) (l r : Nat) :
    t.vget u l r = s.vget u l r := by
  cases u <;> simp_all [State.vget, State.pathOf, State.groupOf, State.thread, Group.vreg]
theorem State.sget_congr {u : UnitId} (hr : (t.thread u).run.sOver = (s.thread u).run.sOver)
    (hg : t.sregs u = s.sregs u) (r : Nat) : t.sget u r = s.sget u r := by
  simp [State.sget, hr, hg]

@[simp] theorem State.wb_onThread (s : State) (u : UnitId) (f : Thread → Thread) :
    ((s.onThread u f).pathOf u).wb = (s.pathOf u).wb := by
  cases u <;> simp [State.onThread, State.pathOf]
@[simp] theorem State.vregs_onThread (s : State) (u : UnitId) (f : Thread → Thread) :
    ((s.onThread u f).groupOf u).vregs = (s.groupOf u).vregs := by rw [State.groupOf_onThread]
@[simp] theorem State.xflags_onThread (s : State) (u : UnitId) (f : Thread → Thread) :
    ((s.onThread u f).groupOf u).xflags = (s.groupOf u).xflags := by rw [State.groupOf_onThread]

/-! Own state only. -/

theorem State.UnitsOnly.refl (s : State) : s.UnitsOnly s := ⟨rfl, fun _ => rfl, fun _ => rfl⟩
theorem State.UnitsOnly.trans {r : State} (h : s.UnitsOnly t) (k : t.UnitsOnly r) : s.UnitsOnly r := by
  refine ⟨?_, fun c => ?_, fun l => ?_⟩
  · rw [k.rest, h.rest]
  · rw [k.cores c, h.cores c]
  · rw [k.lanterns l, h.lanterns l]
theorem State.Own.refl (s : State) (u : UnitId) : s.Own s u :=
  ⟨.refl s, fun _ _ _ => rfl, fun _ _ _ => rfl, fun _ _ _ => rfl, fun _ _ _ _ => rfl, fun _ _ _ _ _ _ => rfl,
    fun _ _ _ _ => rfl, fun _ _ _ => rfl, fun _ _ _ => rfl⟩
theorem State.Own.trans {r : State} {u : UnitId} (h : s.Own t u) (k : t.Own r u) : s.Own r u := by
  refine ⟨h.units.trans k.units, fun c g hu => ?_, fun c i hu => ?_, fun l p hu => ?_, fun c g i hu => ?_,
    fun c g i hu j hj => ?_, fun c g i hu => ?_, fun c i hu => ?_, fun l p hu => ?_⟩
  · rw [k.apart.groups c g hu, h.apart.groups c g hu]
  · rw [k.apart.teams c i hu, h.apart.teams c i hu]
  · rw [k.apart.progs l p hu, h.apart.progs l p hu]
  · rw [k.apart.group c g i hu, h.apart.group c g i hu]
  · rw [k.apart.paths c g i hu j hj, h.apart.paths c g i hu j hj]
  · rw [k.apart.path c g i hu, h.apart.path c g i hu]
  · rw [k.apart.team c i hu, h.apart.team c i hu]
  · rw [k.apart.prog l p hu, h.apart.prog l p hu]

theorem State.unitsOnly_onGroup (s : State) (c g : Nat) (f : Group → Group) : s.UnitsOnly (s.onGroup c g f) := by
  refine ⟨rfl, fun c' => ?_, fun l => rfl⟩
  simp only [State.onGroup, State.core_onCore]
  split <;> simp_all
theorem State.unitsOnly_onTeam (s : State) (c k : Nat) (f : Team → Team) : s.UnitsOnly (s.onTeam c k f) := by
  refine ⟨rfl, fun c' => ?_, fun l => rfl⟩
  simp only [State.onTeam, State.core_onCore]
  split <;> simp_all
theorem State.unitsOnly_onProg (s : State) (l p : Nat) (f : Prog → Prog) : s.UnitsOnly (s.onProg l p f) := by
  refine ⟨rfl, fun c' => rfl, fun l' => ?_⟩
  simp only [State.onProg, State.lantern_onLantern]
  split <;> simp_all

/-- An update of a group that changes only one path's thread and what the path commits to is the path's own. -/
theorem State.own_onGroup (s : State) (c g i : Nat) (f : Group → Group)
    (hf : f (s.group c g) = { s.group c g with
      paths := (f (s.group c g)).paths, vregs := (f (s.group c g)).vregs, sregs := (f (s.group c g)).sregs
      binds := (f (s.group c g)).binds, xflags := (f (s.group c g)).xflags, lwb := (f (s.group c g)).lwb })
    (hp : ∀ j, j ≠ i → (f (s.group c g)).path j = (s.group c g).path j)
    (hi : (f (s.group c g)).path i = { (s.group c g).path i with th := ((f (s.group c g)).path i).th }) :
    s.Own (s.onGroup c g f) (.path c g i) := by
  refine ⟨State.unitsOnly_onGroup s c g f, fun c' g' hu => ?_, fun _ _ _ => by simp, fun _ _ _ => rfl, ?_, ?_, ?_, ?_, ?_⟩
  · have : ¬ (c' = c ∧ g' = g) := by
      rintro ⟨rfl, rfl⟩
      exact hu i rfl
    simp [State.group_onGroup, this]
  · rintro c' g' i' ⟨⟩
    simpa using hf
  · rintro c' g' i' ⟨⟩ j hj
    simpa using hp j hj
  · rintro c' g' i' ⟨⟩
    simpa using hi
  · rintro c' k ⟨⟩
  · rintro l p ⟨⟩
theorem State.own_onTeam (s : State) (c k : Nat) (f : Team → Team)
    (hf : f (s.team c k) = { s.team c k with seq := (f (s.team c k)).seq, seqRegs := (f (s.team c k)).seqRegs }) :
    s.Own (s.onTeam c k f) (.seq c k) := by
  refine ⟨State.unitsOnly_onTeam s c k f, fun _ _ _ => by simp, fun c' k' hu => ?_, fun _ _ _ => rfl, ?_, ?_, ?_, ?_, ?_⟩
  · have : ¬ (c' = c ∧ k' = k) := by
      rintro ⟨rfl, rfl⟩
      exact hu rfl
    simp [State.team_onTeam, this]
  · rintro _ _ _ ⟨⟩
  · rintro _ _ _ ⟨⟩
  · rintro _ _ _ ⟨⟩
  · rintro c' k' ⟨⟩
    simpa using hf
  · rintro l p ⟨⟩
theorem State.own_onProg (s : State) (l p : Nat) (f : Prog → Prog)
    (hf : f (s.prog l p) = { s.prog l p with th := (f (s.prog l p)).th, sregs := (f (s.prog l p)).sregs }) :
    s.Own (s.onProg l p f) (.lant l p) := by
  refine ⟨State.unitsOnly_onProg s l p f, fun _ _ _ => rfl, fun _ _ _ => rfl, fun l' p' hu => ?_, ?_, ?_, ?_, ?_, ?_⟩
  · have : ¬ (l' = l ∧ p' = p) := by
      rintro ⟨rfl, rfl⟩
      exact hu rfl
    simp [State.prog_onProg, this]
  · rintro _ _ _ ⟨⟩
  · rintro _ _ _ ⟨⟩
  · rintro _ _ _ ⟨⟩
  · rintro c' k' ⟨⟩
  · rintro l' p' ⟨⟩
    simpa using hf

theorem State.own_onThread (s : State) (u : UnitId) (f : Thread → Thread) : s.Own (s.onThread u f) u := by
  cases u with
  | path c g i =>
    simp only [State.onThread]
    apply State.own_onGroup
    · rfl
    · exact fun j hj => by simp [Group.path_onPath, hj]
    · simp
  | seq c k => simp only [State.onThread]; apply State.own_onTeam; rfl
  | lant l p => simp only [State.onThread]; apply State.own_onProg; rfl
theorem State.own_commit (s : State) (u : UnitId) : s.Own (s.commit u) u := by
  cases u with
  | path c g i =>
    simp only [State.commit]
    apply State.own_onGroup
    · rfl
    · exact fun _ _ => rfl
    · rfl
  | seq c k => simp only [State.commit]; apply State.own_onTeam; rfl
  | lant l p => simp only [State.commit]; apply State.own_onProg; rfl

/-- A change of the turn or of a quadrant is no unit's state. -/
theorem State.own_turn (s : State) (u : UnitId) (o : Option UnitId) : s.Own { s with turn := o } u :=
  ⟨⟨rfl, fun _ => rfl, fun _ => rfl⟩, fun _ _ _ => rfl, fun _ _ _ => rfl, fun _ _ _ => rfl, fun _ _ _ _ => rfl,
    fun _ _ _ _ _ _ => rfl, fun _ _ _ _ => rfl, fun _ _ _ => rfl, fun _ _ _ => rfl⟩
theorem State.own_quads (s : State) (u : UnitId) (c : Nat) (f : Tab Quad → Tab Quad) :
    s.Own (s.onCore c fun k => { k with quads := f k.quads }) u := by
  have hg : ∀ c' g, (s.onCore c fun k => { k with quads := f k.quads }).group c' g = s.group c' g := by
    intro c' g
    simp only [State.group, State.core_onCore]
    split <;> simp_all
  have ht : ∀ c' g, (s.onCore c fun k => { k with quads := f k.quads }).team c' g = s.team c' g := by
    intro c' g
    simp only [State.team, State.core_onCore]
    split <;> simp_all
  refine ⟨⟨rfl, fun c' => ?_, fun _ => rfl⟩, fun c' g _ => hg c' g, fun c' g _ => ht c' g, fun _ _ _ => rfl, ?_, ?_, ?_, ?_, ?_⟩
  · simp only [State.core_onCore]
    split <;> simp_all
  all_goals intros
  all_goals simp [hg, ht]
  rfl

theorem State.own_dropTurn (s : State) (u v : UnitId) : s.Own (s.dropTurn u) v := by
  unfold State.dropTurn
  split
  · exact State.own_turn s v none
  · exact .refl s v
theorem State.own_freeQuad (s : State) (u v : UnitId) : s.Own (s.freeQuad u) v := by
  unfold State.freeQuad
  split
  · exact .refl s v
  · split
    · exact State.own_quads s v u.place fun q => q.put u.quad (q.get u.quad .none).idle
    · exact .refl s v
/-- Leaving changes no thread and no register. -/
theorem State.own_leave (s : State) (u v : UnitId) : s.Own (s.leave u) v :=
  (State.own_dropTurn s u v).trans (State.own_freeQuad _ u v)
theorem State.group_leave (s : State) (u : UnitId) (c g : Nat) : (s.leave u).group c g = s.group c g :=
  (State.own_leave s u (.seq 0 0)).apart.groups c g fun _ h => by cases h
theorem State.team_leave (s : State) (u : UnitId) (c k : Nat) : (s.leave u).team c k = s.team c k :=
  (State.own_leave s u (.path 0 0 0)).apart.teams c k fun h => by cases h
theorem State.prog_leave (s : State) (u : UnitId) (l p : Nat) : (s.leave u).prog l p = s.prog l p :=
  (State.own_leave s u (.path 0 0 0)).apart.progs l p fun h => by cases h
@[simp] theorem State.thread_leave (s : State) (u v : UnitId) : (s.leave u).thread v = s.thread v := by
  cases v <;> simp [State.thread, State.group_leave, State.team_leave, State.prog_leave]
@[simp] theorem State.sregs_leave (s : State) (u v : UnitId) : (s.leave u).sregs v = s.sregs v := by
  cases v <;> simp [State.sregs, State.group_leave, State.team_leave, State.prog_leave]
@[simp] theorem State.groupOf_leave (s : State) (u v : UnitId) : (s.leave u).groupOf v = s.groupOf v := by
  cases v <;> simp [State.groupOf, State.group_leave]
@[simp] theorem State.pathOf_leave (s : State) (u v : UnitId) : (s.leave u).pathOf v = s.pathOf v := by
  cases v <;> simp [State.pathOf, State.group_leave]
@[simp] theorem State.mask_leave (s : State) (u v : UnitId) : (s.leave u).maskOf v = s.maskOf v := by simp [State.maskOf]
@[simp] theorem State.vget_leave (s : State) (u v : UnitId) (l r : Nat) : (s.leave u).vget v l r = s.vget v l r := by
  simp [State.vget]
@[simp] theorem State.sget_leave (s : State) (u v : UnitId) (r : Nat) : (s.leave u).sget v r = s.sget v r := by simp [State.sget]

/-- The end of a program's turn changes no thread and no register. -/
theorem State.nextSlot_eq (s : State) (u : UnitId) : s.nextSlot u = { s with turn := (s.nextSlot u).turn } := by
  unfold State.nextSlot State.dropTurn
  split
  · split <;> rfl
  · rfl
theorem State.own_nextSlot (s : State) (u v : UnitId) : s.Own (s.nextSlot u) v := by
  rw [State.nextSlot_eq]
  exact State.own_turn s v _
@[simp] theorem State.thread_nextSlot (s : State) (u v : UnitId) : (s.nextSlot u).thread v = s.thread v := by
  rw [State.nextSlot_eq]; rfl
@[simp] theorem State.vget_nextSlot (s : State) (u v : UnitId) (l r : Nat) : (s.nextSlot u).vget v l r = s.vget v l r := by
  rw [State.nextSlot_eq]; rfl
@[simp] theorem State.sget_nextSlot (s : State) (u v : UnitId) (r : Nat) : (s.nextSlot u).sget v r = s.sget v r := by
  rw [State.nextSlot_eq]; rfl
@[simp] theorem State.flagsSeen_nextSlot (s : State) (u v : UnitId) : (s.nextSlot u).flagsSeen v = s.flagsSeen v := by
  rw [State.nextSlot_eq]; rfl
@[simp] theorem State.bindOf_nextSlot (s : State) (u v : UnitId) (l : Nat) : (s.nextSlot u).bindOf v l = s.bindOf v l := by
  rw [State.nextSlot_eq]; rfl

/-! Ending a run changes nothing that the unit sees. -/

theorem State.thread_commit (s : State) (u : UnitId) : (s.commit u).thread u = s.thread u := by
  cases u <;> simp [State.commit, State.thread, Group.path]
theorem State.vget_endRun (s : State) (u : UnitId) (l r : Nat) : (s.endRun u).vget u l r = s.vget u l r := by
  cases u with
  | path c g i =>
    simp [State.endRun, State.vget, State.pathOf, State.groupOf, State.onThread, State.commit, State.group_leave, Thread.restart,
      Run.fresh, Group.vreg, Tab.get, Tab.find_over, State.thread, Group.onPath, Group.path]
  | seq c k => simp [State.vget, State.pathOf, State.groupOf]
  | lant l p => simp [State.vget, State.pathOf, State.groupOf]
theorem State.sget_endRun (s : State) (u : UnitId) (r : Nat) : (s.endRun u).sget u r = s.sget u r := by
  cases u with
  | path c g i =>
    simp [State.endRun, State.sget, State.thread, State.sregs, State.onThread, State.commit, State.group_leave, Thread.restart,
      Run.fresh, Tab.get, Tab.find_over, Group.onPath, Group.path]
  | seq c k =>
    simp [State.endRun, State.sget, State.thread, State.sregs, State.onThread, State.commit, State.team_leave, Thread.restart,
      Run.fresh, Tab.get, Tab.find_over]
  | lant l p =>
    simp [State.endRun, State.sget, State.thread, State.sregs, State.onThread, State.commit, State.prog_leave, Thread.restart,
      Run.fresh, Tab.get, Tab.find_over]
theorem State.own_endRun (s : State) (u : UnitId) : s.Own (s.endRun u) u :=
  ((State.own_commit s u).trans (State.own_onThread _ u _)).trans (State.own_leave _ u u)
theorem State.thread_endRun (s : State) (u : UnitId) : (s.endRun u).thread u = (s.thread u).restart (s.thread u).pc := by
  simp [State.endRun, State.thread_commit]
theorem State.flagsSeen_endRun (s : State) (u : UnitId) (hu : u.isPath = true) : (s.endRun u).flagsSeen u = s.flagsSeen u := by
  cases u with
  | path c g i =>
    simp [State.flagsSeen, State.endRun, State.groupOf, State.group_leave, State.commit, State.onThread, State.thread,
      Thread.restart, Run.fresh, Group.onPath, Group.path]
  | seq c k => simp [UnitId.isPath] at hu
  | lant l p => simp [UnitId.isPath] at hu

/-! Instructions done. -/

theorem State.endRun_done (s : State) (u : UnitId) (len : Nat) (ends : Bool) :
    s.done u len ends =
      (let s' := s.onThread u fun t =>
          { t with pc := t.pc + BitVec.ofNat 64 len, state := .ready, wait := none, run := { t.run with count := t.run.count + 1 } }
       if ends || decide (Config.runLimit ≤ (s.thread u).run.count + 1) then s'.endRun u else s'.nextSlot u) := by
  simp [State.done]
theorem State.own_done (s : State) (u : UnitId) (len : Nat) (ends : Bool) : s.Own (s.done u len ends) u := by
  rw [State.endRun_done]
  dsimp only
  split
  · exact (State.own_onThread s u _).trans (State.own_endRun _ u)
  · exact (State.own_onThread s u _).trans (State.own_nextSlot _ u u)
/-- An instruction's being done changes nothing that the unit sees. -/
theorem State.vget_done (s : State) (u : UnitId) (len : Nat) (ends : Bool) (l r : Nat) :
    (s.done u len ends).vget u l r = s.vget u l r := by
  rw [State.endRun_done]
  dsimp only
  split
  · rw [State.vget_endRun]
    exact State.vget_congr (by simp) (by simp) (by simp) l r
  · rw [State.vget_nextSlot]
    exact State.vget_congr (by simp) (by simp) (by simp) l r
theorem State.sget_done (s : State) (u : UnitId) (len : Nat) (ends : Bool) (r : Nat) :
    (s.done u len ends).sget u r = s.sget u r := by
  rw [State.endRun_done]
  dsimp only
  split
  · rw [State.sget_endRun]
    exact State.sget_congr (by simp) (by simp) r
  · rw [State.sget_nextSlot]
    exact State.sget_congr (by simp) (by simp) r
theorem State.flagsSeen_onThread (s : State) (u : UnitId) (f : Thread → Thread)
    (h : (f (s.thread u)).run.xOver = (s.thread u).run.xOver) : (s.onThread u f).flagsSeen u = s.flagsSeen u := by
  simp [State.flagsSeen, h]
theorem State.flagsSeen_other (s : State) (u : UnitId) (hu : u.isPath = false) : s.flagsSeen u = 0 := by
  simp [State.flagsSeen, hu]
theorem State.flagsSeen_done (s : State) (u : UnitId) (len : Nat) (ends : Bool) (hu : u.isPath = true) :
    (s.done u len ends).flagsSeen u = s.flagsSeen u := by
  rw [State.endRun_done]
  dsimp only
  split
  · rw [State.flagsSeen_endRun _ u hu]
    exact State.flagsSeen_onThread s u _ rfl
  · rw [State.flagsSeen_nextSlot]
    exact State.flagsSeen_onThread s u _ rfl
theorem State.thread_done (s : State) (u : UnitId) (len : Nat) (ends : Bool) :
    (s.done u len ends).thread u =
      (let t := s.thread u
       let t' : Thread :=
          { t with pc := t.pc + BitVec.ofNat 64 len, state := .ready, wait := none, run := { t.run with count := t.run.count + 1 } }
       if ends || decide (Config.runLimit ≤ t.run.count + 1) then t'.restart t'.pc else t') := by
  rw [State.endRun_done]
  dsimp only
  split <;> simp [State.thread_endRun]
theorem State.passed_done (s : State) (u : UnitId) (i : Instr) : s.Passed (s.done u i.len i.endsRun) u i := by
  have h := State.thread_done s u i.len i.endsRun
  dsimp only at h
  by_cases he : (i.endsRun || decide (Config.runLimit ≤ (s.thread u).run.count + 1)) = true
  · rw [if_pos he] at h
    refine ⟨?_, ?_, ?_, ?_, ?_, ?_, ?_⟩ <;> rw [h] <;> simp [Thread.restart, State.endsWith, he, Run.fresh]
  · rw [if_neg he] at h
    refine ⟨?_, ?_, ?_, ?_, ?_, ?_, ?_⟩ <;> rw [h] <;> simp [State.endsWith, he]
/-- An instruction that does not end its run leaves the latches as they are. -/
theorem State.run_done (s : State) (u : UnitId) (i : Instr) (he : s.endsWith u i = false) :
    ((s.done u i.len i.endsRun).thread u).run = { (s.thread u).run with count := (s.thread u).run.count + 1 } := by
  have h := State.thread_done s u i.len i.endsRun
  dsimp only at h
  rw [if_neg (by simpa [State.endsWith] using he)] at h
  rw [h]
theorem State.bindOf_congr {u : UnitId} (hr : (t.thread u).run.bOver = (s.thread u).run.bOver)
    (hg : (t.groupOf u).binds = (s.groupOf u).binds) (l : Nat) : t.bindOf u l = s.bindOf u l := by
  simp [State.bindOf, hr, hg]
@[simp] theorem State.binds_onThread (s : State) (u : UnitId) (f : Thread → Thread) :
    ((s.onThread u f).groupOf u).binds = (s.groupOf u).binds := by rw [State.groupOf_onThread]
theorem State.bindOf_onThread (s : State) (u : UnitId) (f : Thread → Thread) (hf : (f (s.thread u)).run.bOver = (s.thread u).run.bOver)
    (l : Nat) : (s.onThread u f).bindOf u l = s.bindOf u l := State.bindOf_congr (by simp [hf]) (by simp) l
theorem State.bindOf_onRun (s : State) (u : UnitId) (f : Run → Run) (hf : (f (s.thread u).run).bOver = (s.thread u).run.bOver)
    (l : Nat) : (s.onRun u f).bindOf u l = s.bindOf u l := State.bindOf_onThread s u _ hf l
theorem State.bindOf_endRun (s : State) (u : UnitId) (l : Nat) (hu : u.isPath = true) : (s.endRun u).bindOf u l = s.bindOf u l := by
  cases u with
  | path c g i =>
    simp [State.endRun, State.bindOf, State.groupOf, State.onThread, State.commit, State.group_leave, Thread.restart,
      Run.fresh, Tab.get, Tab.find_over, State.thread, Group.onPath, Group.path]
  | seq c k => simp [UnitId.isPath] at hu
  | lant l p => simp [UnitId.isPath] at hu
theorem State.bindOf_done (s : State) (u : UnitId) (len : Nat) (ends : Bool) (hu : u.isPath = true) (l : Nat) :
    (s.done u len ends).bindOf u l = s.bindOf u l := by
  rw [State.endRun_done]
  dsimp only
  split
  · rw [State.bindOf_endRun _ _ _ hu]
    exact State.bindOf_onThread s u _ rfl l
  · rw [State.bindOf_nextSlot]
    exact State.bindOf_onThread s u _ rfl l

/-! Waits. -/

theorem State.thread_waitIn (s : State) (u : UnitId) (w : Wait) :
    (s.waitIn u w).thread u = { s.thread u with state := .waiting, wait := some w } := by
  simp [State.waitIn]
/-- THE LAW OF WAITS: what a unit that waits in an instruction is. -/
theorem State.waitsIn (s : State) (u : UnitId) (w : Wait) : s.WaitsIn (s.waitIn u w) u w.instr := by
  have hv : ((s.waitIn u w).groupOf u).vregs = (s.groupOf u).vregs := by simp [State.waitIn]
  have hs : (s.waitIn u w).sregs u = s.sregs u := by simp [State.waitIn]
  have ht := State.thread_waitIn s u w
  refine ⟨(State.own_onThread s u _).trans (State.own_leave _ u u), ?_, ?_, ?_, ?_, hv, hs, fun r => ?_, fun l r => ?_⟩
  iterate 4 simp [ht, Thread.waiting]
  · exact State.sget_congr (by rw [ht]) hs r
  · exact State.vget_congr (by rw [ht]) (by simp [State.waitIn]) hv l r

/-! Results of lane and uniform instructions. -/

theorem vSlot_inj {l l' x x' : Nat} (hl : l < 64) (hl' : l' < 64) : vSlot l x = vSlot l' x' ↔ l = l' ∧ x = x' := by
  simp only [vSlot]
  constructor
  · intro h
    omega
  · rintro ⟨rfl, rfl⟩
    rfl
theorem vIndex_inj (wb k k' : Nat) : vIndex wb k = vIndex wb k' ↔ k = k' := by
  simp only [vIndex]
  split <;> split <;> omega

theorem State.vget_vput (s : State) {u : UnitId} (hu : u.isPath = true) {l l' : Nat} (hl : l < 64) (hl' : l' < 64) (k r : Nat) (v : Word) :
    (s.vput u l k v).vget u l' r = if l' = l ∧ r = k then v else s.vget u l' r := by
  have hp := State.pathOf_th s u hu
  simp only [State.vget, State.vput, State.onRun, State.pathOf_onThread, hu, if_true, State.vregs_onThread, Group.vreg, Tab.find_put,
    vKey, vSlot_inj hl' hl, vIndex_inj]
  split
  · simp
  · rfl
theorem State.sget_vput (s : State) (u : UnitId) (l k r : Nat) (v : Word) : (s.vput u l k v).sget u r = s.sget u r :=
  State.sget_congr (by simp [State.vput, State.onRun]) (by simp [State.vput, State.onRun]) r
theorem State.sget_sput (s : State) (u : UnitId) (k r : Nat) (v : Dword) :
    (s.sput u k v).sget u r = if r = k then v else s.sget u r := by
  simp only [State.sget, State.sput, State.onRun, State.thread_onThread, State.sregs_onThread, Tab.find_put]
  split <;> rfl
theorem State.vget_onRun (s : State) (u : UnitId) (f : Run → Run) (hf : (f (s.thread u).run).vOver = (s.thread u).run.vOver)
    (l r : Nat) : (s.onRun u f).vget u l r = s.vget u l r :=
  State.vget_congr (by simp [State.onRun, hf]) (by simp [State.onRun]) (by simp [State.onRun]) l r
theorem State.sget_onRun (s : State) (u : UnitId) (f : Run → Run) (hf : (f (s.thread u).run).sOver = (s.thread u).run.sOver)
    (r : Nat) : (s.onRun u f).sget u r = s.sget u r :=
  State.sget_congr (by simp [State.onRun, hf]) (by simp [State.onRun]) r
theorem State.vget_sput (s : State) (u : UnitId) (k : Nat) (v : Dword) (l r : Nat) : (s.sput u k v).vget u l r = s.vget u l r :=
  State.vget_onRun s u _ rfl l r

/-- A state that differs from another only in a unit's thread, by what its run has written. -/
structure State.SameRun (s t : State) (u : UnitId) : Prop where
  own : s.Own t u
  mask : t.maskOf u = s.maskOf u
  thread : t.thread u = { s.thread u with run := (t.thread u).run }
  count : (t.thread u).run.count = (s.thread u).run.count
  xflags : (t.groupOf u).xflags = (s.groupOf u).xflags
  binds : ∀ l, t.bindOf u l = s.bindOf u l
/-- The latches of both pipes are the same. -/
def State.SameLatches (s t : State) (u : UnitId) : Prop :=
  (t.thread u).run.lat = (s.thread u).run.lat ∧ (t.thread u).run.ulat = (s.thread u).run.ulat

theorem State.SameRun.refl (s : State) (u : UnitId) : s.SameRun s u := ⟨.refl s u, rfl, rfl, rfl, rfl, fun _ => rfl⟩
theorem State.SameRun.trans {r : State} {u : UnitId} (h : s.SameRun t u) (k : t.SameRun r u) : s.SameRun r u := by
  refine ⟨h.own.trans k.own, k.mask.trans h.mask, ?_, k.count.trans h.count, k.xflags.trans h.xflags, fun l => (k.binds l).trans (h.binds l)⟩
  rw [k.thread, h.thread]
theorem State.SameLatches.trans {r : State} {u : UnitId} (h : s.SameLatches t u) (k : t.SameLatches r u) : s.SameLatches r u :=
  ⟨k.1.trans h.1, k.2.trans h.2⟩
theorem State.sameRun_onRun (s : State) (u : UnitId) (f : Run → Run) (hc : (f (s.thread u).run).count = (s.thread u).run.count)
    (hb : (f (s.thread u).run).bOver = (s.thread u).run.bOver) : s.SameRun (s.onRun u f) u :=
  ⟨State.own_onThread s u _, by simp [State.onRun], by simp [State.onRun], by simp [State.onRun, hc], by simp [State.onRun],
    State.bindOf_onRun s u f hb⟩
theorem State.sameLatches_onRun (s : State) (u : UnitId) (f : Run → Run) (h : (f (s.thread u).run).lat = (s.thread u).run.lat)
    (k : (f (s.thread u).run).ulat = (s.thread u).run.ulat) : s.SameLatches (s.onRun u f) u := by
  simp [State.SameLatches, State.onRun, h, k]
theorem State.SameRun.ends {u : UnitId} (h : s.SameRun t u) (i : Instr) : t.endsWith u i = s.endsWith u i := by
  simp [State.endsWith, h.count]
/-- What follows a run's own change when the instruction is done. -/
theorem State.SameRun.passed {u : UnitId} (h : s.SameRun t u) (i : Instr) : s.Passed (t.done u i.len i.endsRun) u i := by
  have p := State.passed_done t u i
  have he := h.ends i
  refine ⟨?_, p.ready, ?_, ?_, fun hs => p.latches (he.trans hs), ?_, ?_⟩
  · rw [p.pc, h.thread]
  · rw [p.runpc, he]
    split
    · rfl
    · rw [h.thread]
  · rw [p.count, he, h.count]
  · rw [p.fmt, h.thread]
  · rw [p.frame, h.thread]

/-- One lane's result put into the run. -/
def State.putLane (s : State) (u : UnitId) (d w : Nat) (c : Nat × Dword) : State :=
  let s := s.vput u c.1 d (c.2.setWidth 32)
  if w = 64 then s.vput u c.1 (d + 1) (c.2.extractLsb' 32 32) else s
theorem State.sameRun_vput (s : State) (u : UnitId) (l k : Nat) (v : Word) : s.SameRun (s.vput u l k v) u := by
  unfold State.vput
  exact State.sameRun_onRun s u _ rfl rfl
theorem State.sameLatches_vput (s : State) (u : UnitId) (l k : Nat) (v : Word) : s.SameLatches (s.vput u l k v) u := by
  unfold State.vput
  exact State.sameLatches_onRun s u _ rfl rfl
theorem State.sameLatches_putLane (s : State) (u : UnitId) (d w : Nat) (c : Nat × Dword) : s.SameLatches (s.putLane u d w c) u := by
  unfold State.putLane
  dsimp only
  split
  · exact (State.sameLatches_vput s u _ _ _).trans (State.sameLatches_vput _ u _ _ _)
  · exact State.sameLatches_vput s u _ _ _
theorem State.sameRun_putLane (s : State) (u : UnitId) (d w : Nat) (c : Nat × Dword) : s.SameRun (s.putLane u d w c) u := by
  unfold State.putLane
  dsimp only
  split
  · exact (State.sameRun_vput s u _ _ _).trans (State.sameRun_vput _ u _ _ _)
  · exact State.sameRun_vput s u _ _ _
theorem State.xOver_putLane (s : State) (u : UnitId) (d w : Nat) (c : Nat × Dword) :
    ((s.putLane u d w c).thread u).run.xOver = (s.thread u).run.xOver := by
  unfold State.putLane
  dsimp only
  split <;> simp [State.vput, State.onRun]
theorem State.sget_putLane (s : State) (u : UnitId) (d w : Nat) (c : Nat × Dword) (r : Nat) :
    (s.putLane u d w c).sget u r = s.sget u r := by
  unfold State.putLane
  dsimp only
  split <;> simp [State.sget_vput]
theorem State.vget_putLane (s : State) {u : UnitId} (hu : u.isPath = true) (d w : Nat) {c : Nat × Dword} (hc : c.1 < 64) {l : Nat}
    (hl : l < 64) (r : Nat) :
    (s.putLane u d w c).vget u l r =
      if l = c.1 ∧ w = 64 ∧ r = d + 1 then c.2.extractLsb' 32 32
      else if l = c.1 ∧ r = d then c.2.setWidth 32 else s.vget u l r := by
  unfold State.putLane
  dsimp only
  by_cases hw : w = 64
  · simp only [hw, if_true, State.vget_vput _ hu hc hl]
    simp
  · simp only [hw, if_false, State.vget_vput _ hu hc hl]
    simp

/-- The lanes' results put into the run one after the other: what the unit then sees of its lane registers. -/
theorem State.foldLanes (u : UnitId) (hu : u.isPath = true) (d w : Nat) (g : Nat → Dword) (ls : List Nat) (hls : ∀ l ∈ ls, l < 64) (s : State) :
    let t := (ls.map fun l => (l, g l)).foldl (fun s c => s.putLane u d w c) s
    s.SameRun t u ∧ s.SameLatches t u ∧ (t.thread u).run.xOver = (s.thread u).run.xOver ∧ (∀ r, t.sget u r = s.sget u r) ∧
      (∀ l r, l < 64 → t.vget u l r =
        if l ∈ ls ∧ w = 64 ∧ r = d + 1 then (g l).extractLsb' 32 32
        else if l ∈ ls ∧ r = d then (g l).setWidth 32 else s.vget u l r) := by
  induction ls generalizing s with
  | nil => exact ⟨.refl s u, ⟨rfl, rfl⟩, rfl, fun _ => rfl, fun _ _ _ => by simp⟩
  | cons a r ih =>
    have ha := hls a (by simp)
    obtain ⟨h1, h0, h2, h3, h4⟩ := ih (fun l hl => hls l (List.mem_cons_of_mem _ hl)) (s.putLane u d w (a, g a))
    refine ⟨(State.sameRun_putLane s u d w _).trans h1, (State.sameLatches_putLane s u d w _).trans h0, h2.trans (State.xOver_putLane s u d w _),
      fun k => (h3 k).trans (State.sget_putLane s u d w _ k), fun l k hl => ?_⟩
    rw [List.map_cons, List.foldl_cons, h4 l k hl, State.vget_putLane s hu d w (c := (a, g a)) ha hl]
    by_cases hla : l = a
    · subst hla
      by_cases hm : l ∈ r <;> by_cases hw : w = 64 <;> by_cases hk : k = d + 1 <;> by_cases hk' : k = d <;> simp_all
    · simp [hla]

theorem Dword.mem_lanes (m : Dword) (l : Nat) : l ∈ m.lanes ↔ l < 64 ∧ m.getLsbD l = true := by
  simp [Dword.lanes]

theorem findCell_map {α : Type} (g : Nat → α) (l : Nat) (ls : List Nat) :
    findCell l (ls.map fun i => (i, g i)) = if l ∈ ls then some (g l) else none := by
  induction ls with
  | nil => rfl
  | cons a r ih =>
    by_cases h : a = l
    · subst h
      simp [findCell]
    · simp only [List.map_cons, findCell, h, if_false, ih, List.mem_cons]
      have : ¬ l = a := fun e => h e.symm
      simp [this]
theorem laneTab_find (m : Dword) (g : Nat → Dword) (l : Nat) :
    (laneTab m g).find l = if l < 64 ∧ m.getLsbD l = true then some (g l) else none := by
  simp [laneTab, Tab.find, findCell_map, Dword.mem_lanes]

/-- A state in which an instruction is done sees what its run had come to. -/
theorem State.SameRun.done {u : UnitId} (h : s.SameRun t u) (i : Instr) :
    s.Own (t.done u i.len i.endsRun) u ∧ s.Passed (t.done u i.len i.endsRun) u i ∧
      (u.isPath = true → ∀ l, (t.done u i.len i.endsRun).bindOf u l = s.bindOf u l) ∧
      (s.endsWith u i = false → ((t.done u i.len i.endsRun).thread u).run.lat = (t.thread u).run.lat ∧
        ((t.done u i.len i.endsRun).thread u).run.ulat = (t.thread u).run.ulat) := by
  refine ⟨h.own.trans (State.own_done _ u _ _), h.passed i, fun hu l => ?_, fun he => ?_⟩
  · rw [State.bindOf_done _ _ _ _ hu, h.binds]
  · rw [State.run_done t u i ((h.ends i).trans he)]
    exact ⟨rfl, rfl⟩

/-- THE LAW OF LANE RESULTS: an instruction that puts a value into each lane of its path, ORs flags and is done. -/
theorem State.laneDone (s : State) (u : UnitId) (hu : u.isPath = true) (i : Instr) (d : Nat) (k : Bool) (w : Nat) (g : Nat → Dword)
    (fl : BitVec 7) :
    s.LaneDone ((s.orFlags u fl).doneV u i d k w (laneTab (s.maskOf u) g)) u i d k w g fl := by
  have hls : ∀ l ∈ (s.maskOf u).lanes, l < 64 := fun l hl => ((Dword.mem_lanes _ l).mp hl).1
  have h0 : s.SameRun (s.orFlags u fl) u := State.sameRun_onRun s u _ rfl rfl
  have l0 : s.SameLatches (s.orFlags u fl) u := State.sameLatches_onRun s u _ rfl rfl
  have f0 : ((s.orFlags u fl).thread u).run.xOver = (s.thread u).run.xOver ||| fl := by simp [State.orFlags, State.onRun]
  have g0 : ∀ r, (s.orFlags u fl).sget u r = s.sget u r := fun r => State.sget_onRun s u _ rfl r
  have v0 : ∀ l r, (s.orFlags u fl).vget u l r = s.vget u l r := fun l r => State.vget_onRun s u _ rfl l r
  obtain ⟨h1, l1, f1, g1, v1⟩ := State.foldLanes u hu d w g (s.maskOf u).lanes hls (s.orFlags u fl)
  generalize hq : ((s.maskOf u).lanes.map fun l => (l, g l)).foldl (fun s c => s.putLane u d w c) (s.orFlags u fl) = q at h1 l1 f1 g1 v1
  have hr : (s.orFlags u fl).laneResult u d k w (laneTab (s.maskOf u) g) =
      (if k then s.orFlags u fl else q).shiftL u (some (laneTab (s.maskOf u) g)) := by
    subst hq
    rfl
  unfold State.doneV
  rw [hr]
  generalize hp : (if k then s.orFlags u fl else q) = p
  have hsp : s.SameRun p u := by
    subst hp
    split
    · exact h0
    · exact h0.trans h1
  have lsp : s.SameLatches p u := by
    subst hp
    split
    · exact l0
    · exact l0.trans l1
  have fp : (p.thread u).run.xOver = (s.thread u).run.xOver ||| fl := by
    subst hp
    split
    · exact f0
    · exact f1.trans f0
  have gp : ∀ r, p.sget u r = s.sget u r := by
    intro r
    subst hp
    split
    · exact g0 r
    · exact (g1 r).trans (g0 r)
  have hs : p.SameRun (p.shiftL u (some (laneTab (s.maskOf u) g))) u := State.sameRun_onRun p u _ rfl rfl
  obtain ⟨hown, hpass, hbind, hlat⟩ := (hsp.trans hs).done i
  refine ⟨hown, hpass, ?_, ?_, ?_, ?_, ?_, hbind hu, fun he => ⟨laneTab (s.maskOf u) g, ?_, fun l hl hm => ?_⟩, fun he => ?_⟩
  · rw [State.flagsSeen_done _ u _ _ hu]
    simp only [State.flagsSeen, State.shiftL, State.onRun, State.xflags_onThread, State.thread_onThread, fp, hsp.xflags]
    simp only [hu, if_true, BitVec.or_assoc]
  · intro hk l hl hm
    rw [State.vget_done, State.shiftL, State.vget_onRun _ u _ rfl]
    subst hp
    have hml : l ∈ (s.maskOf u).lanes := (Dword.mem_lanes _ l).mpr ⟨hl, hm⟩
    simp [hk, v1 l d hl, hml]
  · intro hk hw l hl hm
    rw [State.vget_done, State.shiftL, State.vget_onRun _ u _ rfl]
    subst hp
    have hml : l ∈ (s.maskOf u).lanes := (Dword.mem_lanes _ l).mpr ⟨hl, hm⟩
    simp [hk, v1 l (d + 1) hl, hml, hw]
  · intro l r hl hc
    rw [State.vget_done, State.shiftL, State.vget_onRun _ u _ rfl]
    subst hp
    split
    · exact v0 l r
    · rename_i hk
      rw [v1 l r hl, v0]
      rcases hc with hc | hc | ⟨hc, hd⟩
      · exact absurd hc hk
      · have : l ∉ (s.maskOf u).lanes := by simp [Dword.mem_lanes, hc]
        simp [this]
      · have hd' : ¬ (l ∈ (s.maskOf u).lanes ∧ w = 64 ∧ r = d + 1) := fun h => hd h.2.1 h.2.2
        simp [hc, hd']
  · intro r
    rw [State.sget_done, State.shiftL, State.sget_onRun _ u _ rfl, gp]
  · rw [(hlat he).1]
    simp [State.shiftL, State.onRun, lsp.1]
  · simp [laneTab_find, hl, hm]
  · rw [(hlat he).2]
    simp [State.shiftL, State.onRun, lsp.2]

/-- THE LAW OF UNIFORM RESULTS: an instruction that puts a value into S[d] and is done. -/
theorem State.scalarDone (s : State) (u : UnitId) (i : Instr) (d : Nat) (k : Bool) (v : Dword) :
    s.ScalarDone (s.doneR u i d k v) u i d k v := by
  unfold State.doneR State.uniResult
  generalize hp : (if k then s else s.sput u d v) = p
  have hsp : s.SameRun p u := by
    subst hp
    split
    · exact .refl s u
    · exact State.sameRun_onRun s u _ rfl rfl
  have lsp : s.SameLatches p u := by
    subst hp
    split
    · exact ⟨rfl, rfl⟩
    · exact State.sameLatches_onRun s u _ rfl rfl
  have hs : p.SameRun (p.shiftG u (some v)) u := State.sameRun_onRun p u _ rfl rfl
  have fp : (p.thread u).run.xOver = (s.thread u).run.xOver := by
    subst hp
    split <;> simp [State.sput, State.onRun]
  obtain ⟨hown, hpass, hbind, hlat⟩ := (hsp.trans hs).done i
  refine ⟨hown, hpass, ?_, ?_, ?_, ?_, hbind, fun he => ?_, fun he => ?_⟩
  · cases hu : u.isPath
    · simp [State.flagsSeen_other, hu]
    · rw [State.flagsSeen_done _ u _ _ hu]
      simp only [State.flagsSeen, State.shiftG, State.onRun, State.xflags_onThread, State.thread_onThread, fp, hsp.xflags]
  · intro hk
    rw [State.sget_done, State.shiftG, State.sget_onRun _ u _ rfl]
    subst hp
    simp [hk, State.sget_sput]
  · intro r hr
    rw [State.sget_done, State.shiftG, State.sget_onRun _ u _ rfl]
    subst hp
    split
    · rfl
    · rename_i hk
      rcases hr with hr | hr
      · exact absurd hr hk
      · simp [State.sget_sput, hr]
  · intro l r hl
    rw [State.vget_done, State.shiftG, State.vget_onRun _ u _ rfl]
    subst hp
    split
    · rfl
    · exact State.vget_sput s u d v l r
  · rw [(hlat he).2]
    simp [State.shiftG, State.onRun, lsp.2]
  · rw [(hlat he).1]
    simp [State.shiftG, State.onRun, lsp.1]

theorem State.plain_of_sameRun {u : UnitId} (hsp : s.SameRun t u) (lf : Bool)
    (fp : (t.thread u).run.xOver = (s.thread u).run.xOver) (hg : ∀ r, t.sget u r = s.sget u r)
    (hv : ∀ l r, l < 64 → t.vget u l r = s.vget u l r)
    (hl : (t.thread u).run.lat = if lf then none :: (s.thread u).run.lat.take 3 else (s.thread u).run.lat)
    (hul : (t.thread u).run.ulat = if lf then (s.thread u).run.ulat else none :: (s.thread u).run.ulat.take 3) (i : Instr) :
    s.PlainDone (t.done u i.len i.endsRun) u i lf := by
  obtain ⟨hown, hpass, hbind, hlat⟩ := hsp.done i
  refine ⟨hown, hpass, ?_, fun r => ?_, fun l r h => ?_, hbind, fun he => ?_, fun he => ?_⟩
  · cases hu : u.isPath
    · simp [State.flagsSeen_other, hu]
    · rw [State.flagsSeen_done _ u _ _ hu]
      simp only [State.flagsSeen, fp, hsp.xflags]
  · rw [State.sget_done, hg]
  · rw [State.vget_done, hv l r h]
  · rw [(hlat he).1, hl]
  · rw [(hlat he).2, hul]
/-- THE LAW OF NO RESULT in the L-form pipe. -/
theorem State.plainDoneL (s : State) (u : UnitId) (i : Instr) : s.PlainDone (s.doneL u i) u i true := by
  have hs : s.SameRun (s.shiftL u none) u := State.sameRun_onRun s u _ rfl rfl
  exact State.plain_of_sameRun hs true (by simp [State.shiftL, State.onRun]) (fun r => State.sget_onRun s u _ rfl r)
    (fun l r _ => State.vget_onRun s u _ rfl l r) (by simp [State.shiftL, State.onRun]) (by simp [State.shiftL, State.onRun]) i
/-- THE LAW OF NO RESULT in the uniform pipe. -/
theorem State.plainDoneG (s : State) (u : UnitId) (i : Instr) : s.PlainDone (s.doneG u i) u i false := by
  have hs : s.SameRun (s.shiftG u none) u := State.sameRun_onRun s u _ rfl rfl
  exact State.plain_of_sameRun hs false (by simp [State.shiftG, State.onRun]) (fun r => State.sget_onRun s u _ rfl r)
    (fun l r _ => State.vget_onRun s u _ rfl l r) (by simp [State.shiftG, State.onRun]) (by simp [State.shiftG, State.onRun]) i

end Sys2Proof.Machine
end

