-- ==== Sys2Proof/Laws/Access.lean ====
section
/-! SUPPORT. What accesses to memory change: home slices and caches only; which bytes; what a node then sees. -/
namespace Sys2Proof.Machine

variable {s t : State}

/-! Home slices only. -/

/-- Only the home slices, what lies below them, poison and the mirror pages' state have changed. -/
def State.HomeOnly (s t : State) : Prop :=
  t = { s with mem := t.mem, hbm := t.hbm, l2 := t.l2, poison := t.poison, hbmPoison := t.hbmPoison, mirror := t.mirror }

theorem State.HomeOnly.refl (s : State) : s.HomeOnly s := rfl
theorem State.HomeOnly.trans {r : State} (h : s.HomeOnly t) (k : t.HomeOnly r) : s.HomeOnly r := by
  unfold State.HomeOnly at *
  rw [k, h]
theorem homeOnly_foldl {β : Type} (f : State → β → State) (l : List β) (s : State) (hf : ∀ (s : State) b, s.HomeOnly (f s b)) :
    s.HomeOnly (l.foldl f s) := by
  induction l generalizing s with
  | nil => exact .refl s
  | cons b r ih => exact (hf s b).trans (ih (f s b))
theorem State.homeOnly_writeBack (s : State) (line : Nat) : s.HomeOnly (s.writeBack line) := by
  simp only [State.writeBack]
  split
  · rfl
  · refine .trans (t := { s with l2 := _ }) rfl (homeOnly_foldl _ _ _ fun s k => ?_)
    split <;> rfl
theorem State.homeOnly_l2Room (s : State) (line : Nat) (way : Bool) : s.HomeOnly (s.l2Room line way) := by
  simp only [State.l2Room]
  repeat' split
  all_goals first | rfl | exact State.homeOnly_writeBack s _
theorem State.homeOnly_l2Hold (s : State) (line : Nat) (l : L2Line) : s.HomeOnly (s.l2Hold line l) := by
  simp only [State.l2Hold]
  repeat' split
  all_goals first | rfl | exact (State.homeOnly_l2Room s _ _).trans rfl
theorem State.homeOnly_writeSector (s : State) (pa : Nat) (bs : List Byte) (pol : Nat) : s.HomeOnly (s.writeSector pa bs pol) := by
  simp only [State.writeSector]
  repeat' split
  all_goals first | rfl | exact .trans (t := { s with mem := _, poison := _ }) rfl (State.homeOnly_l2Hold _ _ _)
theorem State.homeOnly_writeHome (s : State) (pa : Nat) (bs : List Byte) (pol : Nat) : s.HomeOnly (s.writeHome pa bs pol) :=
  homeOnly_foldl _ _ s fun s _ => State.homeOnly_writeSector s _ _ _
theorem State.homeOnly_fillL2 (s : State) (pa pol : Nat) (zel : Bool) : s.HomeOnly (s.fillL2 pa pol zel) := by
  simp only [State.fillL2]
  repeat' split
  all_goals first | rfl | exact State.homeOnly_l2Hold s _ _
theorem State.homeOnly_zeroLine (s : State) (pa n : Nat) (zel : Bool) : s.HomeOnly (s.zeroLine pa n zel) := by
  simp only [State.zeroLine]
  generalize List.replicate 256 (0 : Byte) = z
  split
  · exact .trans (t := { s with mem := _, poison := _ }) rfl (State.homeOnly_l2Hold _ _ _)
  · exact State.homeOnly_writeHome s _ _ _
theorem State.homeOnly_discardSector (s : State) (sec : Nat) : s.HomeOnly (s.discardSector sec) := by
  simp only [State.discardSector]
  repeat' split
  all_goals first | rfl | exact .trans (t := { s with mem := _, poison := _ }) rfl (State.homeOnly_l2Hold _ _ _)
theorem State.homeOnly_discardHome (s : State) (pa n : Nat) : s.HomeOnly (s.discardHome pa n) := by
  simp only [State.discardHome]
  split
  · rfl
  · refine homeOnly_foldl _ _ s fun s _ => ?_
    split
    · exact State.homeOnly_discardSector s _
    · rfl
theorem State.homeOnly_spoilHome (s : State) (sec : Nat) : s.HomeOnly (s.spoilHome sec) := rfl
theorem State.homeOnly_mirrorPut (s : State) (pa : Nat) (w : MirrorWrite) (won : List Nat) : s.HomeOnly (s.mirrorPut pa w won) := by
  unfold State.mirrorPut
  split
  · split
    · exact State.homeOnly_zeroLine s _ _ _
    · exact State.homeOnly_writeHome s _ _ _
  · exact homeOnly_foldl _ _ s fun s _ => State.homeOnly_writeHome s _ _ _
theorem State.homeOnly_mirrorApply (s : State) (e : Nat) (w : MirrorWrite) : s.HomeOnly (s.mirrorApply e w) := by
  have h (won : List Nat) := State.homeOnly_mirrorPut s (replica w.off e) w won
  simp only [State.mirrorApply]
  split
  · exact ((h _).trans (State.homeOnly_spoilHome _ (replica w.off e / 64))).trans rfl
  · exact (h _).trans rfl
theorem State.homeOnly_mirrorWrite (s : State) (d pa : Nat) (bs : List Byte) (pol : Nat) (bad : Bool) (zero : Option Bool) :
    s.HomeOnly (s.mirrorWrite d pa bs pol bad zero) := by
  unfold State.mirrorWrite
  exact State.HomeOnly.trans (s := s) (t := { s with mirror := _ }) rfl (State.homeOnly_mirrorApply _ _ _)
theorem State.homeOnly_mirrorArrive (s : State) (e idx : Nat) : s.HomeOnly (s.mirrorArrive e idx) := by
  simp only [State.mirrorArrive]
  repeat' split
  all_goals first | rfl | exact (State.homeOnly_mirrorApply s _ _).trans rfl
theorem State.homeOnly_mirrorSettle (n : Nat) (s : State) : s.HomeOnly (State.mirrorSettle n s) := by
  induction n generalizing s with
  | zero => rfl
  | succ n ih =>
    simp only [State.mirrorSettle]
    split
    · rfl
    · refine .trans (homeOnly_foldl _ _ s fun s e => ?_) (ih _)
      split
      · exact State.homeOnly_mirrorArrive s _ _
      · rfl
theorem State.homeOnly_settleMirror (s : State) : s.HomeOnly s.settleMirror := State.homeOnly_mirrorSettle _ s
theorem State.homeOnly_performWrite (s : State) (die : Nat) (w : PendWrite) : s.HomeOnly (s.performWrite die w) := by
  have h : s.HomeOnly (if 4 ≤ w.rel then s.settleMirror else s) := by
    split
    · exact State.homeOnly_settleMirror s
    · exact .refl s
  unfold State.performWrite
  dsimp only
  generalize (if 4 ≤ w.rel then s.settleMirror else s) = q at h
  split
  · exact h.trans (State.homeOnly_mirrorWrite q _ _ _ _ _ _)
  · exact h.trans (State.homeOnly_writeHome q _ _ _)

/-! Memory only. -/

theorem State.MemoryOnly.refl (s : State) : s.MemoryOnly s := ⟨rfl, fun _ => rfl, fun _ => rfl⟩
theorem State.MemoryOnly.trans {r : State} (h : s.MemoryOnly t) (k : t.MemoryOnly r) : s.MemoryOnly r := by
  refine ⟨?_, fun c => ?_, fun l => ?_⟩
  · rw [k.rest, h.rest]
  · rw [k.cores c, h.cores c]
  · rw [k.lanterns l, h.lanterns l]
theorem State.HomeOnly.memory (h : s.HomeOnly t) : s.MemoryOnly t := by
  refine ⟨?_, fun c => ?_, fun l => ?_⟩ <;> rw [h] <;> rfl
theorem memoryOnly_foldl {β : Type} (f : State → β → State) (l : List β) (s : State) (hf : ∀ (s : State) b, s.MemoryOnly (f s b)) :
    s.MemoryOnly (l.foldl f s) := by
  induction l generalizing s with
  | nil => exact .refl s
  | cons b r ih => exact (hf s b).trans (ih (f s b))
theorem State.memoryOnly_onCore (s : State) (c : Nat) (f : Core → Core)
    (hf : f (s.core c) = { s.core c with mc := (f (s.core c)).mc, sp := (f (s.core c)).sp, spPoison := (f (s.core c)).spPoison }) :
    s.MemoryOnly (s.onCore c f) := by
  refine ⟨rfl, fun c' => ?_, fun l => rfl⟩
  simp only [State.core_onCore]
  split
  · rename_i h
    rw [h]
    exact hf
  · rfl
theorem State.memoryOnly_onCaches (s : State) (n : Nat) (f : Caches → Caches) : s.MemoryOnly (s.onCaches n f) := by
  unfold State.onCaches
  split
  · exact State.memoryOnly_onCore s n _ rfl
  · split
    · refine ⟨rfl, fun c => rfl, fun l => ?_⟩
      simp only [State.lantern_onLantern]
      split
      · rename_i h
        rw [h]
      · rfl
    · exact .refl s
theorem State.memoryOnly_keepDesc (s : State) (n c : Nat) : s.MemoryOnly (s.keepDesc n c) := State.memoryOnly_onCaches s n _
theorem State.memoryOnly_keepWalk (s : State) (n c va : Nat) : s.MemoryOnly (s.keepWalk n c va) := by
  unfold State.keepWalk
  split
  · exact ⟨rfl, fun _ => rfl, fun _ => rfl⟩
  · exact .refl s
theorem State.memoryOnly_useCtx (s : State) (n c : Nat) (va : Dword) : s.MemoryOnly (s.useCtx n c va) := by
  unfold State.useCtx
  refine .trans ?_ (State.memoryOnly_keepDesc _ n c)
  split
  · exact .refl s
  · exact State.memoryOnly_keepWalk s n c _
theorem State.memoryOnly_useLeaf (s : State) (n c : Nat) (va : Dword) (x : Xlat) (k : Kind) : s.MemoryOnly (s.useLeaf n c va x k) := by
  have hw := State.memoryOnly_useCtx s n c va
  unfold State.useLeaf
  dsimp only
  generalize s.useCtx n c va = q at hw
  refine hw.trans (.trans ?_ (State.memoryOnly_onCaches _ n _))
  split
  · exact .refl _
  · exact (State.homeOnly_writeSector _ _ _ _).memory
theorem State.memoryOnly_met (s : State) (n c : Nat) (f : Flt) : s.MemoryOnly (s.met n c f) := by
  unfold State.met
  repeat' split
  all_goals first | exact .refl s | exact State.memoryOnly_useLeaf s _ _ _ _ _ | exact State.memoryOnly_useCtx s _ _ _
theorem State.memoryOnly_fillPiece (s : State) (n pa pol : Nat) (zel fresh : Bool) : s.MemoryOnly (s.fillPiece n pa pol zel fresh) := by
  unfold State.fillPiece
  dsimp only
  split
  · exact (State.homeOnly_fillL2 s _ _ _).memory.trans (State.memoryOnly_onCaches _ _ _)
  · exact (State.homeOnly_fillL2 s _ _ _).memory
theorem State.memoryOnly_fillAt (s : State) (n : Nat) (x : Xlat) (len req : Nat) (fresh : Bool) : s.MemoryOnly (s.fillAt n x len req fresh) :=
  memoryOnly_foldl _ _ s fun s _ => State.memoryOnly_fillPiece s _ _ _ _ _
theorem State.memoryOnly_touch (s : State) (w : Who) (sp : Bool) (place n : Nat) : s.MemoryOnly (s.touch w sp place n) := by
  unfold State.touch
  dsimp only
  split
  · exact .refl s
  · exact State.memoryOnly_onCaches s w.node _
theorem State.memoryOnly_forget (s : State) (u : UnitId) : s.MemoryOnly (s.forget u) := by
  unfold State.forget
  dsimp only
  split
  · exact .refl s
  · exact State.memoryOnly_onCaches s _ _
theorem State.memoryOnly_pend (s : State) (n : Nat) (e : PendWrite) : s.MemoryOnly (s.pend n e) := State.memoryOnly_onCaches s n _
theorem State.memoryOnly_storeAt (s : State) (w : Who) (x : Xlat) (bs : List Byte) (req rel : Nat) :
    s.MemoryOnly (s.storeAt w x bs req rel) := by
  unfold State.storeAt
  refine .trans (t := { s with nextWrite := s.nextWrite + 1 }) ⟨rfl, fun _ => rfl, fun _ => rfl⟩ ?_
  exact (State.memoryOnly_touch _ _ _ _ _).trans (State.memoryOnly_pend _ w.node _)
theorem State.memoryOnly_noteRead (s : State) (w : Who) (pa len : Nat) : s.MemoryOnly (s.noteRead w pa len) := by
  unfold State.noteRead
  dsimp only
  split
  · exact .refl s
  · exact State.memoryOnly_onCaches s w.node _
theorem State.memoryOnly_appear (s : State) (n k : Nat) : s.MemoryOnly (s.appear n k) := by
  unfold State.appear
  split
  · exact .refl s
  · split
    · exact .refl s
    · rename_i e _ _
      have h : s.MemoryOnly ((s.onCaches n fun m => { m with late := m.late.eraseIdx k }).touch
          { node := n, grp := e.grp, lanes := e.own } e.sp.isSome e.w.pa e.w.bytes.length) :=
        (State.memoryOnly_onCaches s n _).trans (State.memoryOnly_touch _ _ _ _ _)
      dsimp only
      split
      · exact h.trans (State.memoryOnly_onCore _ n _ rfl)
      · exact h.trans (State.memoryOnly_pend _ n _)
theorem State.memoryOnly_appearIf (s : State) (n : Nat) (p : LateStore → Bool) : s.MemoryOnly (s.appearIf n p) := by
  unfold State.appearIf
  refine memoryOnly_foldl _ _ s fun s e => ?_
  split
  · exact State.memoryOnly_appear s n _
  · exact .refl s
theorem State.memoryOnly_freshStream (s : State) (n grp : Nat) : s.MemoryOnly (s.freshStream n grp) :=
  (State.memoryOnly_appearIf s n _).trans (State.memoryOnly_onCaches _ n _)
theorem State.memoryOnly_drainAll (s : State) (n : Nat) : s.MemoryOnly (s.drainAll n) :=
  ((State.memoryOnly_appearIf s n _).trans (State.memoryOnly_onCaches _ n _)).trans
    (memoryOnly_foldl _ _ _ fun s w => (State.homeOnly_performWrite s _ w).memory)
theorem State.memoryOnly_drainIds (s : State) (n : Nat) (ids : List Nat) : s.MemoryOnly (s.drainIds n ids) := by
  unfold State.drainIds
  dsimp only
  split
  · exact .refl s
  · exact (State.memoryOnly_onCaches s n _).trans (memoryOnly_foldl _ _ _ fun s w => (State.homeOnly_performWrite s _ w).memory)
theorem State.memoryOnly_drainOver (s : State) (n pa len : Nat) : s.MemoryOnly (s.drainOver n pa len) :=
  State.memoryOnly_drainIds s n _
theorem State.memoryOnly_atomicAt (s : State) (n : Nat) (x : Xlat) (len req : Nat) (f : List Byte → Option (List Byte)) :
    s.MemoryOnly (s.atomicAt n x len req f) := by
  unfold State.atomicAt
  dsimp only
  refine (State.memoryOnly_drainOver s n x.pa len).trans ?_
  split
  · exact (State.homeOnly_fillL2 _ _ _ _).memory
  · exact (State.homeOnly_writeHome _ _ _ _).memory.trans (State.memoryOnly_onCaches _ _ _)
theorem State.memoryOnly_acquire (s : State) (n scope : Nat) : s.MemoryOnly (s.acquire n scope) := by
  unfold State.acquire
  split
  · exact .refl s
  · exact State.memoryOnly_onCaches s n _
theorem State.memoryOnly_fenced (s : State) (u : UnitId) : s.MemoryOnly (s.fenced u) := by
  unfold State.fenced
  dsimp only
  split
  · exact .refl s
  · split
    · exact ((State.memoryOnly_drainIds s _ _).trans (State.memoryOnly_onCaches _ _ _)).trans (State.homeOnly_settleMirror _).memory
    · exact (State.memoryOnly_drainIds s _ _).trans (State.memoryOnly_onCaches _ _ _)
theorem State.memoryOnly_release (s : State) (u : UnitId) (scope : Nat) : s.MemoryOnly (s.release u scope) := by
  unfold State.release
  split
  · exact .refl s
  · dsimp only
    have h := (State.memoryOnly_fenced s u).trans
      (State.memoryOnly_drainIds (s.fenced u) u.node (((s.fenced u).caches u.node).owed ((s.fenced u).whoOf u) scope))
    split
    · exact h
    · exact h.trans (State.homeOnly_settleMirror _).memory
theorem State.memoryOnly_promise (s : State) (u : UnitId) (scope : Nat) : s.MemoryOnly (s.promise u scope) := by
  unfold State.promise
  split
  · exact .refl s
  · exact State.memoryOnly_onCaches s _ _
theorem State.memoryOnly_before (s : State) (u : UnitId) (ord scope : Nat) : s.MemoryOnly (s.before u ord scope) := by
  unfold State.before
  split
  · exact State.memoryOnly_release s _ _
  · exact State.memoryOnly_fenced s u
theorem State.memoryOnly_beforeStore (s : State) (u : UnitId) (sp : Bool) (ord scope : Nat) :
    s.MemoryOnly (s.beforeStore u sp ord scope) := by
  unfold State.beforeStore
  split
  · exact State.memoryOnly_before s u ord scope
  · exact .refl s
theorem State.memoryOnly_after (s : State) (u : UnitId) (ord scope : Nat) : s.MemoryOnly (s.after u ord scope) := by
  unfold State.after
  split
  · exact (State.memoryOnly_acquire s _ _).trans (State.memoryOnly_forget _ _)
  · exact .refl s
theorem State.memoryOnly_fence (s : State) (u : UnitId) (kind scope : Nat) : s.MemoryOnly (s.fence u kind scope) := by
  unfold State.fence
  split
  · exact State.memoryOnly_acquire s _ _
  · exact State.memoryOnly_promise s _ _
  · exact (State.memoryOnly_release s _ _).trans (State.memoryOnly_acquire _ _ _)
theorem State.memoryOnly_spWrite (s : State) (c t a : Nat) (bs : List Byte) : s.MemoryOnly (s.spWrite c t a bs) := by
  unfold State.spWrite
  exact State.memoryOnly_onCore s c _ rfl
theorem State.memoryOnly_readBy (s : State) (w : Who) (x : Xlat) (n req : Nat) (fresh : Bool) :
    s.MemoryOnly (s.readBy w x n req fresh).2 := by
  unfold State.readBy
  dsimp only
  split
  · exact State.memoryOnly_noteRead s w _ _
  · exact ((State.memoryOnly_fillAt s _ _ _ _ _).trans (State.memoryOnly_noteRead _ _ _ _)).trans (State.memoryOnly_touch _ _ _ _ _)
theorem State.memoryOnly_readAt (s : State) (u : UnitId) (w : Who) (r : Ready) (n req : Nat) (fresh : Bool) :
    s.MemoryOnly (s.readAt u w r n req fresh).2 := by
  unfold State.readAt
  split
  · split
    · exact .refl s
    · exact State.memoryOnly_touch s _ _ _ _
  · exact (State.memoryOnly_useLeaf s _ _ _ _ _).trans (State.memoryOnly_readBy _ _ _ _ _ _)
theorem State.memoryOnly_writeAt (s : State) (u : UnitId) (w : Who) (r : Ready) (bs : List Byte) (req rel : Nat) :
    s.MemoryOnly (s.writeAt u w r bs req rel) := by
  unfold State.writeAt
  split
  · exact (State.memoryOnly_touch s _ _ _ _).trans (State.memoryOnly_spWrite _ _ _ _ _)
  · exact (State.memoryOnly_useLeaf s _ _ _ _ _).trans (State.memoryOnly_storeAt _ _ _ _ _ _)
theorem State.memoryOnly_rmwAt (s : State) (u : UnitId) (w : Who) (r : Ready) (n : Nat) (f : List Byte → Option (List Byte)) :
    s.MemoryOnly (s.rmwAt u w r n f).2 := by
  unfold State.rmwAt
  split
  · dsimp only
    refine (State.memoryOnly_touch s w true (s.spPlace u r) n).trans ?_
    split
    · exact .refl _
    · exact State.memoryOnly_spWrite _ _ _ _ _
  · exact ((State.memoryOnly_useLeaf s _ _ _ _ _).trans (State.memoryOnly_touch _ _ _ _ _)).trans
      (State.memoryOnly_atomicAt _ _ _ _ _ _)

/-! What does not see memory is the same. -/

theorem State.MemoryOnly.group (h : s.MemoryOnly t) (c g : Nat) : t.group c g = s.group c g := by
  simp only [State.group]
  rw [h.cores c]
theorem State.MemoryOnly.team (h : s.MemoryOnly t) (c k : Nat) : t.team c k = s.team c k := by
  simp only [State.team]
  rw [h.cores c]
theorem State.MemoryOnly.prog (h : s.MemoryOnly t) (l p : Nat) : t.prog l p = s.prog l p := by
  simp only [State.prog]
  rw [h.lanterns l]
theorem State.MemoryOnly.thread (h : s.MemoryOnly t) (u : UnitId) : t.thread u = s.thread u := by
  cases u <;> simp [State.thread, h.group, h.team, h.prog]
theorem State.MemoryOnly.mask (h : s.MemoryOnly t) (u : UnitId) : t.maskOf u = s.maskOf u := by
  cases u <;> simp [State.maskOf, State.pathOf, h.group]
theorem State.MemoryOnly.vget (h : s.MemoryOnly t) (u : UnitId) (l r : Nat) : t.vget u l r = s.vget u l r := by
  cases u <;> simp [State.vget, State.pathOf, State.groupOf, h.group]
theorem State.MemoryOnly.sget (h : s.MemoryOnly t) (u : UnitId) (r : Nat) : t.sget u r = s.sget u r := by
  cases u <;> simp [State.sget, State.thread, State.sregs, h.group, h.team, h.prog]
theorem State.MemoryOnly.teamSlot (h : s.MemoryOnly t) (u : UnitId) : t.teamSlot u = s.teamSlot u := by
  cases u <;> simp [State.teamSlot, h.group]
theorem State.MemoryOnly.teamOf (h : s.MemoryOnly t) (u : UnitId) : t.teamOf u = s.teamOf u := by
  simp [State.teamOf, h.teamSlot, h.team]
theorem State.MemoryOnly.ctxOf (h : s.MemoryOnly t) (u : UnitId) : t.ctxOf u = s.ctxOf u := by
  cases u <;> simp [State.ctxOf, h.teamOf, h.prog]

/-! Bytes of the home slices. -/

@[simp] theorem State.mem_writeBack (s : State) (line : Nat) : (s.writeBack line).mem = s.mem := by
  simp only [State.writeBack]
  split
  · rfl
  · generalize List.range 4 = ks
    rename_i l _
    suffices ∀ q : State, (ks.foldl (fun s k => if l.dirty k then s.writeDown (line * 4 + k) else s.refetch (line * 4 + k)) q).mem = q.mem from this _
    induction ks with
    | nil => exact fun _ => rfl
    | cons k r ih =>
      intro q
      rw [List.foldl_cons, ih]
      split <;> rfl
@[simp] theorem State.mem_l2Room (s : State) (line : Nat) (way : Bool) : (s.l2Room line way).mem = s.mem := by
  simp only [State.l2Room]
  repeat' split
  all_goals first | rfl | exact State.mem_writeBack s _
@[simp] theorem State.mem_l2Hold (s : State) (line : Nat) (l : L2Line) : (s.l2Hold line l).mem = s.mem := by
  simp only [State.l2Hold]
  repeat' split
  all_goals first | rfl | exact State.mem_l2Room s _ _
/-- A write of one sector changes only the bytes it writes. -/
theorem State.get_writeSector (s : State) (pa : Nat) (bs : List Byte) (pol : Nat) {a : Nat} (h : a < pa ∨ pa + bs.length ≤ a) :
    (s.writeSector pa bs pol).mem.get a = s.mem.get a := by
  have : (s.writeSector pa bs pol).mem = s.mem.write pa bs := by
    simp only [State.writeSector]
    repeat' split
    all_goals first | rfl | rw [State.mem_l2Hold]
  rw [this, Mem.get_write_other _ _ _ h]
@[simp] theorem State.mem_fillL2 (s : State) (pa pol : Nat) (zel : Bool) : (s.fillL2 pa pol zel).mem = s.mem := by
  simp only [State.fillL2]
  repeat' split
  all_goals first | rfl | rw [State.mem_l2Hold]
@[simp] theorem State.mem_onCaches (s : State) (n : Nat) (f : Caches → Caches) : (s.onCaches n f).mem = s.mem := by
  unfold State.onCaches
  repeat' split
  all_goals rfl
@[simp] theorem State.mem_fillAt (s : State) (n : Nat) (x : Xlat) (len req : Nat) (fresh : Bool) :
    (s.fillAt n x len req fresh).mem = s.mem := by
  unfold State.fillAt
  generalize pieces 64 (x.at_ n) len = ps
  induction ps generalizing s with
  | nil => rfl
  | cons p r ih =>
    rw [List.foldl_cons, ih]
    unfold State.fillPiece State.keepL1
    dsimp only
    split <;> simp
@[simp] theorem State.mem_touch (s : State) (w : Who) (sp : Bool) (place n : Nat) : (s.touch w sp place n).mem = s.mem := by
  unfold State.touch
  dsimp only
  split <;> simp
@[simp] theorem State.mem_pend (s : State) (n : Nat) (e : PendWrite) : (s.pend n e).mem = s.mem := State.mem_onCaches s n _
@[simp] theorem State.mem_storeAt (s : State) (w : Who) (x : Xlat) (bs : List Byte) (req rel : Nat) :
    (s.storeAt w x bs req rel).mem = s.mem := by
  simp [State.storeAt]
@[simp] theorem State.mem_noteRead (s : State) (w : Who) (pa len : Nat) : (s.noteRead w pa len).mem = s.mem := by
  unfold State.noteRead
  dsimp only
  split <;> simp
@[simp] theorem State.mem_keepWalk (s : State) (n c va : Nat) : (s.keepWalk n c va).mem = s.mem := by
  unfold State.keepWalk
  split <;> rfl
@[simp] theorem State.mem_readBy (s : State) (w : Who) (x : Xlat) (n req : Nat) (fresh : Bool) :
    (s.readBy w x n req fresh).2.mem = s.mem := by
  unfold State.readBy
  dsimp only
  split <;> simp
@[simp] theorem State.mem_useCtx (s : State) (n c : Nat) (va : Dword) : (s.useCtx n c va).mem = s.mem := by
  unfold State.useCtx State.keepDesc
  split <;> simp
/-- Using a leaf changes at most the eight bytes of the entry (spec/01 R33). -/
theorem State.get_useLeaf (s : State) (n c : Nat) (va : Dword) (x : Xlat) (k : Kind) {a : Nat} (h : a < x.pte ∨ x.pte + 8 ≤ a) :
    (s.useLeaf n c va x k).mem.get a = s.mem.get a := by
  unfold State.useLeaf
  dsimp only
  rw [State.mem_onCaches]
  split
  · rw [State.mem_useCtx]
  · rw [State.get_writeSector _ _ _ _ (by simpa [natLe] using h), State.mem_useCtx]
/-- A load changes at most the entry of its leaf. -/
theorem State.get_readAt (s : State) (u : UnitId) (w : Who) (r : Ready) (n req : Nat) (fresh : Bool) {a : Nat}
    (h : ∀ x, r.xl = some x → a < x.pte ∨ x.pte + 8 ≤ a) : (s.readAt u w r n req fresh).2.mem.get a = s.mem.get a := by
  unfold State.readAt
  split
  · split <;> simp
  · rename_i x hx
    dsimp only
    rw [State.mem_readBy]
    exact State.get_useLeaf s _ _ _ _ _ (h x hx)
/-- A store changes no byte of a home slice at once, but for the entry of its leaf (spec/03 R85). -/
theorem State.get_writeAt (s : State) (u : UnitId) (w : Who) (r : Ready) (bs : List Byte) (req rel : Nat) {a : Nat}
    (h : ∀ x, r.xl = some x → a < x.pte ∨ x.pte + 8 ≤ a) : (s.writeAt u w r bs req rel).mem.get a = s.mem.get a := by
  unfold State.writeAt
  split
  · exact congrArg (fun m => Mem.get m a) (State.mem_touch s w true _ _)
  · rename_i x hx
    rw [State.mem_storeAt]
    exact State.get_useLeaf s _ _ _ _ _ (h x hx)

/-! What a node sees of its own pending writes. -/
theorem overlay_one (ws : List PendWrite) (b : Nat) (y : Byte) : ∃ z, overlay ws b [y] = [z] := by
  induction ws generalizing y with
  | nil => exact ⟨y, rfl⟩
  | cons w r ih =>
    simp only [overlay, List.foldl_cons]
    split
    · exact ih y
    · exact ih _

theorem overlay_step (w : PendWrite) (b : Nat) (y : Byte) : overlay [w] b [y] = if w.pa ≤ b ∧ b < w.pa + w.bytes.length then [w.bytes.getD (b - w.pa) 0] else [y] := by
  simp only [overlay, List.foldl_cons, List.foldl_nil, List.length_singleton]
  by_cases h : w.pa ≤ b ∧ b < w.pa + w.bytes.length
  · have : ¬ ((decide (w.pa + w.bytes.length ≤ b) || decide (b + 1 ≤ w.pa)) = true) := by simp; omega
    rw [if_neg this, if_pos h]
    simp [h.1, h.2]
  · rw [if_neg h]
    split
    · rfl
    · rename_i hh
      simp at hh; omega

theorem overlay_append (a c : List PendWrite) (b : Nat) (ys : List Byte) : overlay (a ++ c) b ys = overlay c b (overlay a b ys) := by
  simp [overlay, List.foldl_append]

theorem pieces_cover (k a n b : Nat) (hk : 0 < k) (h : a ≤ b ∧ b < a + n) : ∃ p ∈ pieces k a n, p.1 ≤ b ∧ b < p.1 + p.2 := by
  have hn : n ≠ 0 := by omega
  simp only [pieces, hn, if_false, List.mem_map, List.mem_range]
  have h1 : a / k ≤ b / k := Nat.div_le_div_right h.1
  have h2 : b / k ≤ (a + n - 1) / k := Nat.div_le_div_right (by omega)
  refine ⟨_, ⟨b / k - a / k, by omega, rfl⟩, ?_⟩
  have e : a / k + (b / k - a / k) = b / k := by omega
  simp only [e]
  have h3 : b / k * k ≤ b := Nat.div_mul_le_self b k
  have h4 : b < (b / k + 1) * k := by rw [Nat.add_mul, Nat.one_mul]; exact Nat.lt_div_mul_add hk
  omega
theorem pieces_within (k a n : Nat) (hk : 0 < k) : ∀ p ∈ pieces k a n, a ≤ p.1 ∧ p.1 + p.2 ≤ a + n := by
  intro p hp
  simp only [pieces] at hp
  split at hp
  · simp at hp
  · simp only [List.mem_map, List.mem_range] at hp
    obtain ⟨i, hi, rfl⟩ := hp
    have h0 : a / k ≤ (a + n - 1) / k := Nat.div_le_div_right (by omega)
    have h1 : (a / k + i) ≤ (a + n - 1) / k := by omega
    have h2 : (a / k + i) * k ≤ a + n - 1 := Nat.le_trans (Nat.mul_le_mul_right k h1) (Nat.div_mul_le_self _ _)
    have h3 : a < (a / k + 1) * k := by rw [Nat.add_mul, Nat.one_mul]; exact Nat.lt_div_mul_add hk
    have h4 : (a / k + 1) * k ≤ (a / k + i + 1) * k := Nat.mul_le_mul_right k (by omega)
    dsimp only
    omega

theorem caches_onCaches (s : State) (n : Nat) (hn : n < 576) (f : Caches → Caches) : (s.onCaches n f).caches n = f (s.caches n) := by
  unfold State.onCaches State.caches
  by_cases h : n < 512
  · simp [h]
  · simp [h, hn, State.lantern_onLantern]

theorem storeFold (pa : Nat) (bs : List Byte) (f : Nat × Nat → PendWrite) (hpa : ∀ p, (f p).pa = p.1)
    (hbs : ∀ p, (f p).bytes = (bs.drop (p.1 - pa)).take p.2) (b : Nat) (ps : List (Nat × Nat))
    (hp : ∀ p ∈ ps, pa ≤ p.1 ∧ p.1 + p.2 ≤ pa + bs.length) (m : Caches) (y : Byte) :
    overlay (ps.foldl (fun (m : Caches) (p : Nat × Nat) =>
      { m.patch p.1 ((bs.drop (p.1 - pa)).take p.2) with wbuf := m.wbuf ++ [f p] }) m).wbuf b [y] =
      if ∃ p ∈ ps, p.1 ≤ b ∧ b < p.1 + p.2 then [bs.getD (b - pa) 0] else overlay m.wbuf b [y] := by
  induction ps generalizing m with
  | nil => simp
  | cons p r ih =>
    rw [List.foldl_cons, ih (fun q hq => hp q (List.mem_cons_of_mem _ hq))]
    have hpp := hp p (by simp)
    by_cases hr : ∃ q ∈ r, q.1 ≤ b ∧ b < q.1 + q.2
    · rw [if_pos hr, if_pos]
      obtain ⟨q, hq, hb⟩ := hr
      exact ⟨q, List.mem_cons_of_mem _ hq, hb⟩
    · rw [if_neg hr]
      simp only [overlay_append]
      obtain ⟨z, hz⟩ := overlay_one m.wbuf b y
      rw [hz, overlay_step, hpa, hbs]
      have hlen : ((bs.drop (p.1 - pa)).take p.2).length = p.2 := by
        simp; omega
      simp only [hlen]
      by_cases hb : p.1 ≤ b ∧ b < p.1 + p.2
      · rw [if_pos hb, if_pos ⟨p, by simp, hb⟩]
        congr 1
        have : b - pa = (p.1 - pa) + (b - p.1) := by omega
        simp [List.getD, List.getElem?_take, List.getElem?_drop, this]
        have : b - p.1 < p.2 := by omega
        simp [this]
      · rw [if_neg hb, if_neg]
        rintro ⟨q, hq, hqb⟩
        rcases List.mem_cons.mp hq with rfl | hq
        · exact hb hqb
        · exact hr ⟨q, hq, hqb⟩

theorem seeHome_storeAt (s : State) (w : Who) (hn : w.node < 576) (x : Xlat) (bs : List Byte) (req rel b : Nat) :
    (s.storeAt w x bs req rel).seeHome w.node b 1 =
      if x.at_ w.node ≤ b ∧ b < x.at_ w.node + bs.length then [bs.getD (b - x.at_ w.node) 0] else s.seeHome w.node b 1 := by
  simp only [State.seeHome, State.mem_storeAt]
  have hr : s.mem.read b 1 = [s.mem.get b] := by simp [Mem.read]
  rw [hr]
  have ht (q : State) (sp : Bool) (a n : Nat) : ((q.touch w sp a n).caches w.node).wbuf = (q.caches w.node).wbuf := by
    unfold State.touch
    dsimp only
    split
    · rfl
    · rw [caches_onCaches _ _ hn]
  unfold State.storeAt State.pend
  rw [caches_onCaches _ _ hn]
  refine (storeFold (x.at_ w.node) bs _ (fun _ => rfl) (fun _ => rfl) b _ (pieces_within 64 _ _ (by decide)) _ _).trans ?_
  by_cases h : x.at_ w.node ≤ b ∧ b < x.at_ w.node + bs.length
  · rw [if_pos h, if_pos (pieces_cover 64 _ _ b (by decide) h)]
  · rw [if_neg h, if_neg]
    · rw [ht]
      rfl
    rintro ⟨p, hp, hb⟩
    have := pieces_within 64 _ _ (by decide) p hp
    omega

end Sys2Proof.Machine
end

