-- ==== Sys2Proof/Laws/Issue.lean ====
section
/-! SUPPORT. What issuing an instruction comes to once its checks are passed: lane, uniform and plain results. -/
namespace Sys2Proof.Machine

variable {s : State} {u : UnitId} {i : Instr}

theorem State.Issues.next (h : s.Issues u i) (k : UnitId → State → State) : issue i s k = .next (k u s) := by
  simp [issue, h.turn, h.checks]
theorem issue_fails {f : Flt} (ht : s.turn = some u) (hf : s.preCheck u i = some f) (k : UnitId → State → State) :
    issue i s k = .next (s.faultUnit u f) := by
  simp [issue, ht, hf]
/-- A unit that passes the checks may issue the instruction. -/
theorem State.Issues.right (h : s.Issues u i) : i.wrongUnit u = false := by
  have := h.checks
  simp only [State.preCheck] at this
  cases hw : i.wrongUnit u
  · rfl
  · simp [hw] at this
/-- An L-form instruction is a compute path's. -/
theorem State.Issues.path (h : s.Issues u i) (hl : i.units = .lform) : u.isPath = true := by
  have := h.right
  cases u <;> simp_all [Instr.wrongUnit, UnitId.isPath]

theorem foldl_or_zero (ls : List Nat) (a : BitVec 7) : ls.foldl (fun a _ => a ||| (0 : BitVec 7)) a = a := by
  induction ls generalizing a with
  | nil => rfl
  | cons x r ih => simp
@[simp] theorem gather_zero (m : Dword) : gather m (fun _ => 0) = 0 := foldl_or_zero _ 0

theorem laneOp_done (h : s.Issues u i) (hu : u.isPath = true) (d : Nat) (k : Bool) (w : Nat)
    (f : State → UnitId → Nat → Dword × BitVec 7) :
    ∃ t, laneOp i d k w f s = .next t ∧
      s.LaneDone t u i d k w (fun l => (f s u l).1) (gather (s.maskOf u) fun l => (f s u l).2) :=
  ⟨_, h.next _, State.laneDone s u hu i d k w _ _⟩
theorem laneAcc_done (h : s.Issues u i) (hu : u.isPath = true) (d : Nat) (w : Nat) (f : State → UnitId → Nat → Dword × BitVec 7) :
    ∃ t, laneAcc i d false w f s = .next t ∧
      s.LaneDone t u i d false w (fun l => (f s u l).1) (gather (s.maskOf u) fun l => (f s u l).2) :=
  ⟨_, h.next _, State.laneDone s u hu i d false w _ _⟩
theorem laneAcc_illegal (h : s.Issues u i) (d : Nat) (w : Nat) (f : State → UnitId → Nat → Dword × BitVec 7) :
    laneAcc i d true w f s = .next (s.faultUnit u illegalOperand) := h.next _
theorem scalarOp_done (h : s.Issues u i) (d : Nat) (k : Bool) (f : State → UnitId → Dword) :
    ∃ t, scalarOp i d k f s = .next t ∧ s.ScalarDone t u i d k (f s u) := ⟨_, h.next _, State.scalarDone s u i d k _⟩

end Sys2Proof.Machine
end

