-- ==== Sys2Proof/Laws/Lanes.lean ====
section
/-! SUPPORT. The lanes of a path performing one after the other: states, values, the case in which no lane faults or waits. -/
namespace Sys2Proof.Machine

variable {s t : State}

theorem Dword.lanes_nodup (m : Dword) : m.lanes.Nodup := List.Pairwise.filter _ List.nodup_range

theorem eachLane_from (act : State → Nat → Ready → List Byte × State) (r : Nat → Ready) (ls : List Nat) (hn : ls.Nodup)
    (acc : List (Nat × List Byte)) (s : State) :
    ∃ v : Nat → List Byte,
      (ls.map fun l => (l, r l)).foldl (fun a x => let q := act a.2 x.1 x.2; (a.1 ++ [(x.1, q.1)], q.2)) (acc, s) =
        (acc ++ ls.map (fun l => (l, v l)), s.afterLanes act r ls) ∧
      ∀ A l B, ls = A ++ l :: B → v l = (act (s.afterLanes act r A) l (r l)).1 := by
  induction ls generalizing acc s with
  | nil => exact ⟨fun _ => [], by simp [State.afterLanes], by simp⟩
  | cons a rest ih =>
    obtain ⟨ha, hr⟩ := List.nodup_cons.mp hn
    obtain ⟨v, h1, h2⟩ := ih hr (acc ++ [(a, (act s a (r a)).1)]) (act s a (r a)).2
    refine ⟨fun l => if l = a then (act s a (r a)).1 else v l, ?_, ?_⟩
    · rw [List.map_cons, List.foldl_cons, h1]
      have : (rest.map fun l => (l, v l)) = rest.map fun l => (l, if l = a then (act s a (r a)).1 else v l) := by
        apply List.map_congr_left
        intro l hl
        have : l ≠ a := fun e => ha (e ▸ hl)
        simp [this]
      rw [this]
      simp [State.afterLanes]
    · intro A l B h
      cases A with
      | nil =>
        simp only [List.nil_append, List.cons.injEq] at h
        obtain ⟨rfl, rfl⟩ := h
        simp [State.afterLanes]
      | cons x A =>
        simp only [List.cons_append, List.cons.injEq] at h
        obtain ⟨rfl, h⟩ := h
        have hla : l ≠ a := by
          rintro rfl
          exact ha (by rw [h]; simp)
        simp only [hla, if_false]
        rw [h2 A l B h]
        rfl
/-- Lanes perform in ascending order, each after the ones before it (spec/03 R90). -/
theorem eachLane_spec (act : State → Nat → Ready → List Byte × State) (r : Nat → Ready) (m : Dword) (s : State) :
    ∃ v : Nat → List Byte, eachLane act s (m.lanes.map fun l => (l, r l)) =
        (m.lanes.map (fun l => (l, v l)), s.afterLanes act r m.lanes) ∧
      ∀ A l B, m.lanes = A ++ l :: B → v l = (act (s.afterLanes act r A) l (r l)).1 := by
  obtain ⟨v, h1, h2⟩ := eachLane_from act r m.lanes (Dword.lanes_nodup m) [] s
  exact ⟨v, by simpa [eachLane] using h1, h2⟩

theorem faultsOf_ok (r : Nat → Ready) (ls : List Nat) : faultsOf (ls.map fun l => (l, Except.ok (r l))) = [] := by
  simp [faultsOf]
theorem readyOf_ok (r : Nat → Ready) (ls : List Nat) : readyOf (ls.map fun l => (l, Except.ok (r l))) = ls.map fun l => (l, r l) := by
  simp [readyOf, List.filterMap_map]

/-- A memory instruction of a path of which no lane waits or faults. -/
theorem State.laneMem_ready (s : State) (u : UnitId) (i : Instr) (sp : Bool) (k : Kind) (n req : Nat) (ea : Nat → Dword)
    (act : State → Nat → Ready → List Byte × State) (before : State → State) (fin : State → List (Nat × List Byte) → State)
    (r : Nat → Ready) (hw : ∀ l ∈ (s.maskOf u).lanes, s.mustWait u sp n (ea l) = false)
    (hr : ∀ l ∈ (s.maskOf u).lanes, s.accessCheck u sp k n req (ea l) = .ok (r l)) :
    ∃ v : Nat → List Byte,
      s.laneMem u i sp k n req ea act before fin =
        fin ((before s).afterLanes act r (s.maskOf u).lanes) ((s.maskOf u).lanes.map fun l => (l, v l)) ∧
      ∀ A l B, (s.maskOf u).lanes = A ++ l :: B → v l = (act ((before s).afterLanes act r A) l (r l)).1 := by
  obtain ⟨v, h1, h2⟩ := eachLane_spec act r (s.maskOf u) (before s)
  refine ⟨v, ?_, h2⟩
  have hw' : ((s.maskOf u).lanes.any fun l => s.mustWait u sp n (ea l)) = false := by
    rw [List.any_eq_false]
    intro l hl
    simp [hw l hl]
  have hc : ((s.maskOf u).lanes.map fun l => (l, s.accessCheck u sp k n req (ea l))) = (s.maskOf u).lanes.map fun l => (l, .ok (r l)) :=
    List.map_congr_left fun l hl => by rw [hr l hl]
  have hf : ((s.maskOf u).lanes.map fun l => (l, r l)).filter (fun x => (s.maskOf u).getLsbD x.1) = (s.maskOf u).lanes.map fun l => (l, r l) := by
    rw [List.filter_eq_self]
    intro x hx
    obtain ⟨l, hl, rfl⟩ := List.mem_map.mp hx
    exact ((Dword.mem_lanes _ l).mp hl).2
  simp only [State.laneMem, hw', hc, faultsOf_ok, readyOf_ok, State.withFaults, List.isEmpty_nil, if_true, hf, h1]
  rfl

theorem State.memoryOnly_afterLanes (act : State → Nat → Ready → List Byte × State) (r : Nat → Ready) (s : State) (ls : List Nat)
    (hact : ∀ q l, State.MemoryOnly q (act q l (r l)).2) : s.MemoryOnly (s.afterLanes act r ls) :=
  memoryOnly_foldl _ _ s fun q l => hact q l

end Sys2Proof.Machine
end

