-- ==== Sys2Proof/Certificates/Slice0/Obligations.lean ====
section
/-! DEFINITION. The statements for the provers. -/
open Sys2Proof Sys2Proof.Machine

/-! Lanes. -/

/-- spec/09 R207: the integer and bitwise operations, at 32 or 64 bits by type, for each lane of the path: VCLZ counts the leading zero
bits, VPOPC the one bits. Any other m, and a b that is not 0 in VCLZ and VPOPC, raise reserved-modifier. -/
def Obligations.LaneIntegers : Prop :=
  (∀ (s : State) (u : UnitId) (f : LA) (i : Instr) (op : (w : Nat) → BitVec w → BitVec w → BitVec w),
    ((i, op) ∈ ([(.vadd f, fun _ x y => x + y), (.vsub f, fun _ x y => x - y), (.vmul f, fun _ x y => x * y),
      (.vmulh f, fun w x y => if f.m.getLsbD 0 then BitVec.ofNat w (x.toNat * y.toNat / 2 ^ w)
        else BitVec.ofInt w (x.toInt * y.toInt / (2 ^ w : Nat))),
      (.vmin f, fun _ x y => if (if f.m.getLsbD 0 then y.ult x else y.slt x) then y else x),
      (.vmax f, fun _ x y => if (if f.m.getLsbD 0 then x.ult y else x.slt y) then y else x),
      (.vand f, fun _ x y => x &&& y), (.vor f, fun _ x y => x ||| y), (.vxor f, fun _ x y => x ^^^ y),
      (.vshl f, fun _ x y => x <<< y.toNat), (.vshr f, fun _ x y => x >>> y.toNat),
      (.vsar f, fun _ x y => x.sshiftRight y.toNat)] :
        List (Instr × ((w : Nat) → BitVec w → BitVec w → BitVec w)))) →
    s.Issues u i →
    ∃ t, exec i s = .next t ∧ s.LaneDone t u i f.d.toNat f.k (typeW f.m)
      (fun l => (op (typeW f.m) (s.lane u f.a.toNat l _) (s.lane u f.b.toNat l _)).setWidth 64) 0) ∧
  (∀ (s : State) (u : UnitId) (f : LA),
    (s.Issues u (.vclz f) → ∃ (t : State) (n : Nat → Nat), exec (.vclz f) s = .next t ∧
      s.LaneDone t u (.vclz f) f.d.toNat f.k (typeW f.m) (fun l => BitVec.ofNat 64 (n l)) 0 ∧
      ∀ l, n l ≤ typeW f.m ∧ (s.lane u f.a.toNat l (typeW f.m)).toNat < 2 ^ (typeW f.m - n l) ∧
        (n l < typeW f.m → 2 ^ (typeW f.m - n l - 1) ≤ (s.lane u f.a.toNat l (typeW f.m)).toNat)) ∧
    (s.Issues u (.vpopc f) → ∃ t, exec (.vpopc f) s = .next t ∧
      s.LaneDone t u (.vpopc f) f.d.toNat f.k (typeW f.m) (fun l =>
        BitVec.ofNat 64 ((List.range (typeW f.m)).countP fun b => (s.lane u f.a.toNat l (typeW f.m)).getLsbD b)) 0)) ∧
  (∀ (s : State) (u : UnitId) (f : LA) (i : Instr), i ∈ [Instr.vadd f, .vsub f, .vmul f, .vmulh f, .vmin f, .vmax f, .vand f, .vor f,
      .vxor f, .vshl f, .vshr f, .vsar f, .vclz f, .vpopc f] → s.turn = some u → u.isPath = true →
    3 < f.m.toNat ∨ (i ∈ [Instr.vclz f, .vpopc f] ∧ f.b ≠ 0) → exec i s = .next (s.faultUnit u (fltD 0x22 0)))

/-- spec/09 R209 to R211: the 32-bit operations with an immediate, VLI, and VSEL under the mask register that m names. A shift by more
than 31, or by a negative immediate, is an illegal operand; an a, b or m that is not 0 in VLI raises reserved-modifier. -/
def Obligations.LaneImmediates : Prop :=
  (∀ (s : State) (u : UnitId),
    (∀ (f : LI) (i : Instr) (op : Word → Word), ((i, op) ∈ ([(.vaddi f, fun x => x + f.imm.signExtend 32),
        (.vshli f, fun x => x <<< f.imm.toNat), (.vshri f, fun x => x >>> f.imm.toNat),
        (.vsari f, fun x => x.sshiftRight f.imm.toNat)] : List (Instr × (Word → Word)))) →
      s.Issues u i → ∃ t, exec i s = .next t ∧
        s.LaneDone t u i f.d.toNat f.k 32 (fun l => (op (s.lane u f.a.toNat l 32)).setWidth 64) 0) ∧
    (∀ (f : LI) (i : Instr), i ∈ [Instr.vshli f, .vshri f, .vsari f] → s.turn = some u → u.isPath = true →
      f.imm.toInt < 0 ∨ 31 < f.imm.toInt → exec i s = .next (s.faultUnit u (fltD 0x23 0))) ∧
    (∀ (f : LA) (x : Lit), s.turn = some u → u.isPath = true → f.a ≠ 0 ∨ f.b ≠ 0 ∨ f.m ≠ 0 →
      exec (.vli f x) s = .next (s.faultUnit u (fltD 0x22 0))) ∧
    (∀ (f : LA) (x : Lit), s.Issues u (.vli f x) → ∃ t, exec (.vli f x) s = .next t ∧
      s.LaneDone t u (.vli f x) f.d.toNat f.k 32 (fun _ => x.lit.setWidth 64) 0) ∧
    (∀ f : LA, s.Issues u (.vsel f) → ∃ t, exec (.vsel f) s = .next t ∧
      s.LaneDone t u (.vsel f) f.d.toNat f.k 32
        (fun l => ((if (s.sget u f.m.toNat).getLsbD l then s.lane u f.a.toNat l 32 else s.lane u f.b.toNat l 32)).setWidth 64) 0))

/-- spec/09 R206, R208, R213, R215: the instructions that also read V[d]. With K = 1 they raise illegal-operand. -/
def Obligations.LaneAccumulates : Prop :=
  ∀ (s : State) (u : UnitId) (f : LA),
    (s.Issues u (.vmad f) → f.k = false → ∃ t, exec (.vmad f) s = .next t ∧
      s.LaneDone t u (.vmad f) f.d.toNat false (typeW f.m) (fun l =>
        (s.lane u f.a.toNat l (typeW f.m) * s.lane u f.b.toNat l (typeW f.m) +
          (s.vwide u l f.d.toNat (typeW f.m)).setWidth (typeW f.m)).setWidth 64) 0) ∧
    (s.Issues u (.ffma f) → f.k = false →
      let r (l : Nat) := finish (s.thread u).fmt f.m.toNat (FloatVal.fma (fmtRM (s.thread u).fmt)
        (readFloat (s.thread u).fmt f.m.toNat (s.srcL u f.a.toNat l 32)) (readFloat (s.thread u).fmt f.m.toNat (s.srcL u f.b.toNat l 32))
        (readFloat (s.thread u).fmt f.m.toNat (s.vwide u l f.d.toNat 32)))
      ∃ t, exec (.ffma f) s = .next t ∧
        s.LaneDone t u (.ffma f) f.d.toNat false 32 (fun l => (r l).1) (gather (s.maskOf u) fun l => (r l).2)) ∧
    (s.Issues u (.bfma2 f) → f.k = false →
      let half (h : Nat) (x : Dword) : FloatVal := bf16.read (fmtDAZ (s.thread u).fmt) (x.toNat / 2 ^ (16 * h) % 65536)
      let r (h l : Nat) := finish (s.thread u).fmt 5 (FloatVal.fma (fmtRM (s.thread u).fmt) (half h (s.srcL u f.a.toNat l 32))
        (half h (s.srcL u f.b.toNat l 32)) (half h (s.vwide u l f.d.toNat 32)))
      ∃ t, exec (.bfma2 f) s = .next t ∧
        s.LaneDone t u (.bfma2 f) f.d.toNat false 32 (fun l => BitVec.ofNat 64 ((r 0 l).1.toNat + 65536 * (r 1 l).1.toNat))
          (gather (s.maskOf u) fun l => (r 0 l).2 ||| (r 1 l).2)) ∧
    (∀ i ∈ [Instr.vmad f, .ffma f, .bfma2 f], s.Issues u i → f.k = true → exec i s = .next (s.faultUnit u (fltD 0x23 0)))

/-- spec/09 R212: VCMP and FCMP write a mask to S[SD]: the condition in the path's lanes; elsewhere 0, or with MERGE the old
bit; 0 from the group's width on. They have no lane result. Another type, a d that is not 0 and reserved bits of the extension word
raise reserved-modifier; K = 1 and an SD from 160 on are illegal operands. -/
def Obligations.LaneCompares : Prop :=
  ∀ (s : State) (u : UnitId) (f : LA) (x : CmpX),
    (s.Issues u (.vcmp f x) → ∃ (t : State) (r : Dword), exec (.vcmp f x) s = .next t ∧
      (s.sput u x.sd.toNat r).PlainDone t u (.vcmp f x) true ∧
      ∀ l, l < 64 → r.getLsbD l = (decide (l < (s.groupOf u).width) &&
        (if (s.maskOf u).getLsbD l then
          let a := s.lane u f.a.toNat l (typeW f.m)
          let b := s.lane u f.b.toNat l (typeW f.m)
          let lt := if f.m.getLsbD 0 then a.ult b else a.slt b
          (match x.cc.toNat with
            | 0 => a == b | 1 => a != b | 2 => lt | 3 => lt || a == b | 4 => !(lt || a == b) | 5 => !lt
            | 6 => a &&& b != 0 | _ => a &&& b == 0)
        else x.mrg && (s.sget u x.sd.toNat).getLsbD l))) ∧
    (s.Issues u (.fcmp f x) → ∃ (t : State) (r : Dword), exec (.fcmp f x) s = .next t ∧
      (s.sput u x.sd.toNat r).PlainDone t u (.fcmp f x) true ∧
      ∀ l, l < 64 → r.getLsbD l = (decide (l < (s.groupOf u).width) &&
        (if (s.maskOf u).getLsbD l then
          let a := readFloat (s.thread u).fmt f.m.toNat (s.srcL u f.a.toNat l 32)
          let b := readFloat (s.thread u).fmt f.m.toNat (s.srcL u f.b.toNat l 32)
          if a = .nan ∨ b = .nan then decide (x.cc.toNat = 1 ∨ x.cc.toNat = 6)
          else (match x.cc.toNat with
            | 0 => a.cmp b == 0 | 1 => a.cmp b != 0 | 2 => decide (a.cmp b < 0) | 3 => decide (a.cmp b ≤ 0)
            | 4 => decide (0 < a.cmp b) | 5 => decide (0 ≤ a.cmp b) | 6 => false | _ => true)
        else x.mrg && (s.sget u x.sd.toNat).getLsbD l))) ∧
    (∀ (i : Instr) (typed : Bool), ((i, typed) ∈ [(Instr.vcmp f x, decide (f.m.toNat ≤ 3)), (.fcmp f x, decide (f.m = 4 ∨ f.m = 5))]) →
      s.turn = some u → u.isPath = true →
      (typed = false ∨ f.d ≠ 0 ∨ (x.res ≠ 0 ∧ (s.thread u).pc.toNat % 64 ≠ 60) → exec i s = .next (s.faultUnit u (fltD 0x22 0))) ∧
      (typed = true → f.d = 0 → x.res = 0 → f.k = true ∨ 160 ≤ x.sd.toNat → exec i s = .next (s.faultUnit u (fltD 0x23 0))))

/-- spec/09 R213, R214, R217, spec/06 R160: the floating-point operations of one and two operands round a value once under the path's
fmt, and OR their flags; FMIN and FMAX give an operand back. The value that FRCP, FSQRT and FRSQ round is the exact one to at least 32
bits, with a mark for the rest; FEXP2, FLOG2, SINT and COST round the model's fixed point of 512 bits, in place of the real function
(notes/assumptions/14.md): their special operands, exact results and some rounded ones are stated. spec/06 R143, R144: sums, products and
fused sums of values are exact, with the signs of zeros, the invalid operations and the NaN rule; the order of two values; the quotient
that engines round keeps 32 bits at least, with a mark for the rest. spec/06 R141: the engines' own arithmetic rounds each to nearest. -/
def Obligations.LaneFloats : Prop :=
  (∀ (rm : Nat) (x y : Exact), x.more = false → y.more = false →
    let at_ (v : Exact) (e : Int) : Int := (if v.neg then -1 else 1) * ((v.mag * 2 ^ (v.exp - e).toNat : Nat) : Int)
    (∃ z, (FloatVal.fin x).add rm (.fin y) = (.fin z, 0) ∧ z.more = false ∧
      (∀ e, e ≤ x.exp → e ≤ y.exp → e ≤ z.exp → at_ z e = at_ x e + at_ y e) ∧
      (z.mag = 0 → z.neg = if x.mag = 0 ∧ y.mag = 0 ∧ x.neg = y.neg then x.neg else decide (rm = 3))) ∧
    (∃ z, (FloatVal.fin x).mul (.fin y) = (.fin z, 0) ∧ z.more = false ∧ z.neg = (x.neg != y.neg) ∧
      z.mag = x.mag * y.mag ∧ z.exp = x.exp + y.exp) ∧
    (∀ e, e ≤ x.exp → e ≤ y.exp → (FloatVal.fin x).cmp (.fin y) = (at_ x e - at_ y e).sign) ∧
    (y.mag ≠ 0 → ∃ z, (FloatVal.fin x).div (.fin y) = .fin z ∧ z.neg = (x.neg != y.neg) ∧ (x.mag ≠ 0 → 2 ^ 32 ≤ z.mag) ∧
      z.exp ≤ x.exp - y.exp ∧
      let n := x.mag * 2 ^ (x.exp - y.exp - z.exp).toNat
      z.mag * y.mag ≤ n ∧ n < (z.mag + 1) * y.mag ∧ (z.more = true ↔ z.mag * y.mag ≠ n)) ∧
    (y.mag = 0 → (FloatVal.fin x).div (.fin y) = if x.mag = 0 then .nan else .inf (x.neg != y.neg)) ∧
    ∀ a b : Bool,
      (FloatVal.fin x).add rm (.inf b) = (.inf b, 0) ∧ (FloatVal.inf a).add rm (.fin y) = (.inf a, 0) ∧
      (FloatVal.inf a).add rm (.inf b) = (if a = b then (.inf a, 0) else (.nan, flagNV)) ∧
      (FloatVal.inf a).mul (.inf b) = (.inf (a != b), 0) ∧
      (FloatVal.fin x).mul (.inf b) = (if x.mag = 0 then (.nan, flagNV) else (.inf (x.neg != b), 0)) ∧
      (FloatVal.inf a).mul (.fin y) = (if y.mag = 0 then (.nan, flagNV) else (.inf (a != y.neg), 0)) ∧
      (FloatVal.inf a).cmp (.fin y) = (if a then -1 else 1) ∧ (FloatVal.fin x).cmp (.inf b) = (if b then 1 else -1) ∧
      (FloatVal.inf a).cmp (.inf b) = (if a = b then 0 else if a then -1 else 1) ∧
      (FloatVal.inf a).div (.inf b) = .nan ∧ (FloatVal.inf a).div (.fin y) = .inf (a != y.neg) ∧
      ∃ z, (FloatVal.fin x).div (.inf b) = .fin z ∧ z.mag = 0 ∧ z.more = false ∧ z.neg = (x.neg != b)) ∧
  (∀ (rm : Nat) (x y z : FloatVal),
    FloatVal.nan.add rm x = (.nan, 0) ∧ x.add rm .nan = (.nan, 0) ∧ FloatVal.nan.mul x = (.nan, 0) ∧ x.mul .nan = (.nan, 0) ∧
    FloatVal.nan.div x = .nan ∧ x.div .nan = .nan ∧
    (x = .nan ∨ y = .nan ∨ z = .nan → FloatVal.fma rm x y z = (.nan, 0)) ∧
    (z ≠ .nan → (x.mul y).1 = .nan → FloatVal.fma rm x y z = x.mul y) ∧
    (z ≠ .nan → (x.mul y).1 ≠ .nan → FloatVal.fma rm x y z = (x.mul y).1.add rm z)) ∧
  (∀ a b : Word,
    let v (w : Word) : FloatVal := fp32.read false w.toNat
    let rn (r : FloatVal) : Word := BitVec.ofNat 32 (rnd fp32 0 false r).1
    val32 a = v a ∧ add32 a b = rn ((v a).add 0 (v b)).1 ∧ mul32 a b = rn ((v a).mul (v b)).1 ∧ div32 a b = rn ((v a).div (v b)) ∧
    sub32 a b = rn ((v a).add 0 (match v b with | .fin y => .fin { y with neg := !y.neg } | .inf n => .inf (!n) | .nan => .nan)).1 ∧
    (∀ (i e : Int), rnInt i e = rn (.fin { neg := decide (i < 0), mag := i.natAbs, exp := e, more := false })) ∧
    (∀ n, n < 65536 → widen n = BitVec.ofNat 32 (n * 65536)) ∧ toBf16 a = (rnd bf16 0 false (v a)).1 ∧
    ∀ q, dequant q b = rn ((readE4m3 q).mul (v b)).1) ∧
  (∀ x : Exact, x.mag ≠ 0 →
    (∃ y, fnRcp (.fin x) = (.fin y, 0) ∧ y.neg = x.neg ∧ 2 ^ 32 ≤ y.mag ∧
      let one := 2 ^ (-x.exp - y.exp).toNat
      y.mag * x.mag ≤ one ∧ one < (y.mag + 1) * x.mag ∧ (y.more = true ↔ y.mag * x.mag ≠ one)) ∧
    (x.neg = false →
      (∃ y, fnSqrt (.fin x) = (.fin y, 0) ∧ y.neg = false ∧ 2 ^ 32 ≤ y.mag ∧ 2 * y.exp ≤ x.exp ∧
        let sq := x.mag * 2 ^ (x.exp - 2 * y.exp).toNat
        y.mag * y.mag ≤ sq ∧ sq < (y.mag + 1) * (y.mag + 1) ∧ (y.more = true ↔ y.mag * y.mag ≠ sq)) ∧
      (∃ y, fnRsq (.fin x) = (.fin y, 0) ∧ y.neg = false ∧ 2 ^ 32 ≤ y.mag ∧
        let one := 2 ^ (-(2 * y.exp + x.exp)).toNat
        y.mag * y.mag * x.mag ≤ one ∧ one < (y.mag + 1) * (y.mag + 1) * x.mag ∧ (y.more = true ↔ y.mag * y.mag * x.mag ≠ one))) ∧
    (x.neg = true → ∀ g ∈ [fnSqrt, fnRsq, fnLog2], g (.fin x) = (.nan, flagNV))) ∧
  (∀ (a : Bool) (e n : Int) (m : Nat),
    let zero (a : Bool) : FloatVal := .fin { neg := a, mag := 0, exp := e, more := false }
    let power (n : Int) : FloatVal := .fin { neg := false, mag := 1, exp := n, more := false }
    let part (m : Nat) (e : Int) : FloatVal := .fin { neg := a, mag := m, exp := e, more := false }
    (∀ g ∈ [fnRcp, fnRsq, fnSqrt, fnExp2, fnLog2, fnSin, fnCos], g .nan = (.nan, 0)) ∧
    (∀ g ∈ [fnSqrt, fnRsq, fnLog2], g (.inf true) = (.nan, flagNV)) ∧ (∀ g ∈ [fnSin, fnCos], g (.inf a) = (.nan, flagNV)) ∧
    fnRcp (zero a) = (.inf a, flagDZ) ∧ fnRcp (.inf a) = (.fin (.zero a), 0) ∧
    fnRsq (zero a) = (.inf a, flagDZ) ∧ fnRsq (.inf false) = (.fin (.zero false), 0) ∧
    fnSqrt (zero a) = (zero a, 0) ∧ fnSqrt (.inf false) = (.inf false, 0) ∧
    fnExp2 (.inf true) = (.fin (.zero false), 0) ∧ fnExp2 (.inf false) = (.inf false, 0) ∧
    fnLog2 (zero a) = (.inf true, flagDZ) ∧ fnLog2 (.inf false) = (.inf false, 0) ∧
    (-900 ≤ n → n ≤ 900 → fnExp2 (.fin (.ofInt n 0)) = (power n, 0)) ∧
    fnLog2 (power n) = (.fin (if n = 0 then .zero false else .ofInt n 0), 0) ∧
    (-1 ≤ e → fnSin (part m e) = (.fin (.zero a), 0)) ∧ (m % 2 = 1 → fnCos (part m (-2)) = (.fin (.zero false), 0)) ∧
    (m % 4 = 1 → fnSin (part m (-2)) = (.fin (.ofInt (if a then -1 else 1) 0), 0)) ∧
    (m % 4 = 3 → fnSin (part m (-2)) = (.fin (.ofInt (if a then 1 else -1) 0), 0)) ∧
    (fnCos (part m (-1)) = (.fin (.ofInt (if m % 2 = 0 then 1 else -1) 0), 0))) ∧
  (∀ p ∈ [(fnExp2, 0x3F000000, 0x3FB504F3), (fnExp2, 0x3E800000, 0x3F9837F0), (fnLog2, 0x40400000, 0x3FCAE00D),
      (fnLog2, 0x41200000, 0x40549A78), (fnSin, 0x3E000000, 0x3F3504F3), (fnCos, 0x3D800000, 0x3F6C835E)],
    rnd fp32 0 false (p.1 (fp32.read false p.2.1)).1 = (p.2.2, flagNX)) ∧
  ∀ (s : State) (u : UnitId) (f : LA),
    let fmt := (s.thread u).fmt
    let x (l : Nat) := readFloat fmt f.m.toNat (s.srcL u f.a.toNat l 32)
    let y (l : Nat) := readFloat fmt f.m.toNat (s.srcL u f.b.toNat l 32)
    (∀ (i : Instr) (op : Nat → FloatVal × BitVec 7), ((i, op) ∈ ([(.fadd f, fun l => (x l).add (fmtRM fmt) (y l)),
        (.fmul f, fun l => (x l).mul (y l)), (.frcp f, fun l => fnRcp (x l)), (.frsq f, fun l => fnRsq (x l)),
        (.fsqrt f, fun l => fnSqrt (x l)), (.fexp2 f, fun l => fnExp2 (x l)), (.flog2 f, fun l => fnLog2 (x l)),
        (.sint f, fun l => fnSin (x l)), (.cost f, fun l => fnCos (x l))] : List (Instr × (Nat → FloatVal × BitVec 7)))) →
      s.Issues u i → ∃ t, exec i s = .next t ∧
        s.LaneDone t u i f.d.toNat f.k 32
          (fun l => BitVec.ofNat 64 (rnd (floatOf f.m.toNat) (fmtRM fmt) (fmtFTZ fmt) (op l).1).1)
          (gather (s.maskOf u) fun l => (op l).2 ||| (rnd (floatOf f.m.toNat) (fmtRM fmt) (fmtFTZ fmt) (op l).1).2)) ∧
    (∀ (i : Instr) (less : Bool), ((i, less) ∈ [(Instr.fmin f, true), (.fmax f, false)]) → s.Issues u i →
      ∃ (t : State) (v : Nat → Nat), exec i s = .next t ∧
        s.LaneDone t u i f.d.toNat f.k 32 (fun l => BitVec.ofNat 64 (v l)) 0 ∧
        ∀ l, (x l = .nan → y l = .nan → v l = (floatOf f.m.toNat).nanCode) ∧
          ((x l = .nan ∧ y l ≠ .nan) ∨ (y l ≠ .nan ∧ (if less then (y l).below (x l) else (x l).below (y l))) →
            v l = afterDaz (floatOf f.m.toNat) (fmtDAZ fmt) (s.srcL u f.b.toNat l 32).toNat) ∧
          (x l ≠ .nan → (y l = .nan ∨ ¬ (if less then (y l).below (x l) else (x l).below (y l))) →
            v l = afterDaz (floatOf f.m.toNat) (fmtDAZ fmt) (s.srcL u f.a.toNat l 32).toNat))

/-- spec/06 R142, R143, R145, R146, R149: what a pattern of FP32, BF16 and E4M3 stands for; rounding a value into FP32 and BF16, with
overflow, tiny results and FTZ, into E4M3 and into TX64, and to whole units; the value of a lane operand of each type.
spec/09 R216: CVT converts the value of a lane operand of type src into type dst. A NaN gives 0 and NV in every integer type,
the canonical NaN in .f32 and .bf16, 0x7F in .e4m3, 0 and NV in .tx. -/
def Obligations.LaneConversions : Prop :=
  (∀ (F : FloatFmt) (p : Nat) (low : Int), (F, p, low) ∈ [(fp32, 24, -149), (bf16, 8, -133)] →
    (∀ (v : Nat) (daz : Bool), v < 2 ^ (p + 8) →
      let e : Nat := v / 2 ^ (p - 1) % 256
      let m : Nat := v % 2 ^ (p - 1)
      let neg := decide (2 ^ (p + 7) ≤ v)
      F.read daz v = if e = 255 then (if m = 0 then .inf neg else .nan)
        else if e = 0 then .fin { neg := neg, mag := if daz then 0 else m, exp := low, more := false }
        else .fin { neg := neg, mag := 2 ^ (p - 1) + m, exp := low + (e : Int) - 1, more := false }) ∧
    ∀ (rm : Nat) (ftz : Bool), rm ≤ 3 →
      rnd F rm ftz .nan = (255 * 2 ^ (p - 1) + 2 ^ (p - 2), 0) ∧
      (∀ n : Bool, rnd F rm ftz (.inf n) = ((if n then 2 ^ (p + 7) else 0) + 255 * 2 ^ (p - 1), 0)) ∧
      ∀ x : Exact, (x.more = true → 2 ^ 32 ≤ x.mag) →
        let sg := if x.neg then 2 ^ (p + 7) else 0
        (x.mag = 0 → rnd F rm ftz (.fin x) = (sg, 0)) ∧
        (x.mag ≠ 0 → ∃ e k ix, RoundsIn p low rm x e k ix ∧
          let out : Prop := low + 253 < e ∨ (e = low + 253 ∧ k = 2 ^ p)
          let tiny : Prop := e = low ∧ k < 2 ^ (p - 1)
          (out → rnd F rm ftz (.fin x) = (sg + (if rm = 0 ∨ (rm = 2 ∧ x.neg = false) ∨ (rm = 3 ∧ x.neg = true)
            then 255 * 2 ^ (p - 1) else 255 * 2 ^ (p - 1) - 1), flagOF ||| flagNX)) ∧
          (¬ out → tiny → ftz = true → rnd F rm ftz (.fin x) = (sg, flagUF ||| flagNX)) ∧
          (¬ out → tiny → ftz = false → rnd F rm ftz (.fin x) = (sg + k, if ix then flagUF ||| flagNX else 0)) ∧
          (¬ out → ¬ tiny → rnd F rm ftz (.fin x) = (sg + (e - low).toNat * 2 ^ (p - 1) + k, if ix then flagNX else 0)))) ∧
  (∀ v, v < 256 →
    let e : Nat := v / 8 % 16
    let m : Nat := v % 8
    readE4m3 v = if e = 15 ∧ m = 7 then .nan
      else if e = 0 then .fin { neg := decide (128 ≤ v), mag := m, exp := -9, more := false }
      else .fin { neg := decide (128 ≤ v), mag := 8 + m, exp := (e : Int) - 10, more := false }) ∧
  (∀ (rm : Nat) (nan : Bool), rm ≤ 3 →
    e4m3q rm nan .nan = (0x7F, 0) ∧
    (∀ n : Bool, e4m3q rm nan (.inf n) = (if nan then 0x7F else if n then 0xFE else 0x7E, flagF8S ||| flagNX)) ∧
    ∀ x : Exact, (x.more = true → 2 ^ 32 ≤ x.mag) →
      let sg := if x.neg then 0x80 else 0
      (x.mag = 0 → e4m3q rm nan (.fin x) = (sg, 0)) ∧
      (x.mag ≠ 0 → ∃ e k ix, RoundsIn 4 (-9) rm x e k ix ∧
        e4m3q rm nan (.fin x) = if 448 * 2 ^ 9 < k * 2 ^ (e + 9).toNat then (if nan then 0x7F else sg + 0x7E, flagF8S ||| flagNX)
          else (sg + (e + 9).toNat * 8 + k, if ix then flagNX else 0))) ∧
  (satTx .nan = (0, flagNV) ∧ satTx (.inf false) = (2 ^ 63 - 1, flagTXS) ∧ satTx (.inf true) = (-(2 ^ 63), flagTXS) ∧
    ∀ x : Exact, x.more = false →
      (∀ rm e, rm ≤ 3 → ∃ k ix, RoundsTo rm x e k ix ∧ x.toUnits rm e = (if x.neg then -(k : Int) else k, ix)) ∧
      ∃ k ix, RoundsTo 0 x (-32) k ix ∧
        let n : Int := if x.neg then -(k : Int) else k
        satTx (.fin x) = if 2 ^ 63 ≤ n then (2 ^ 63 - 1, flagTXS) else if n ≤ -(2 ^ 63) then (-(2 ^ 63), flagTXS) else (n, 0)) ∧
  (∀ (daz : Bool) (v : Dword),
    let num (i e : Int) : FloatVal := .fin { neg := decide (i < 0), mag := i.natAbs, exp := e, more := false }
    valueOf 0 daz v = num (v.setWidth 32).toInt 0 ∧ valueOf 1 daz v = num (Int.ofNat (v.setWidth 32).toNat) 0 ∧ valueOf 2 daz v = num v.toInt 0 ∧
    valueOf 3 daz v = num (Int.ofNat v.toNat) 0 ∧ valueOf 4 daz v = fp32.read daz (v.setWidth 32).toNat ∧
    valueOf 5 daz v = bf16.read daz (v.setWidth 16).toNat ∧ valueOf 6 daz v = readE4m3 (v.setWidth 8).toNat ∧
    valueOf 7 daz v = num v.toInt (-32)) ∧
  ∀ (s : State) (u : UnitId) (f : LA), s.Issues u (.cvt f) →
    let fmt := (s.thread u).fmt
    let v (l : Nat) := valueOf f.b.toNat (fmtDAZ fmt && decide (f.m = 4 ∨ f.m = 5)) (s.srcL u f.a.toNat l (typeW (f.b.setWidth 3)))
    ∃ (t : State) (r : Nat → Dword × BitVec 7), exec (.cvt f) s = .next t ∧
      s.LaneDone t u (.cvt f) f.d.toNat f.k (typeW f.m) (fun l => (r l).1) (gather (s.maskOf u) fun l => (r l).2) ∧
      ∀ l,
        (f.m = 4 → r l = (BitVec.ofNat 64 (rnd fp32 (fmtRM fmt) (fmtFTZ fmt) (v l)).1, (rnd fp32 (fmtRM fmt) (fmtFTZ fmt) (v l)).2)) ∧
        (f.m = 5 → r l = (BitVec.ofNat 64 (rnd bf16 (fmtRM fmt) (fmtFTZ fmt) (v l)).1, (rnd bf16 (fmtRM fmt) (fmtFTZ fmt) (v l)).2)) ∧
        (f.m = 6 → r l = (BitVec.ofNat 64 (e4m3q (fmtRM fmt) (fmtF8NAN fmt) (v l)).1, (e4m3q (fmtRM fmt) (fmtF8NAN fmt) (v l)).2)) ∧
        (f.m = 7 → r l = (BitVec.ofInt 64 (satTx (v l)).1, (satTx (v l)).2)) ∧
        (f.m.toNat < 4 → v l = .nan → r l = (0, flagNV)) ∧
        (f.m.toNat < 4 → ∀ x, v l = .fin x →
          let w := typeW f.m
          let lo : Int := if f.m.getLsbD 0 then 0 else -(2 ^ (w - 1))
          let hi : Int := if f.m.getLsbD 0 then 2 ^ w - 1 else 2 ^ (w - 1) - 1
          let q := x.toUnits (fmtRM fmt) 0
          let out : Int × BitVec 7 :=
            if q.1 < lo then (lo, flagNV) else if hi < q.1 then (hi, flagNV) else (q.1, if q.2 then flagNX else 0)
          (r l).1.setWidth w = BitVec.ofInt w out.1 ∧ (r l).2 = out.2)

/-- spec/09 R218 to R220: moves between lanes, and VMATCH; a lane that is not in the path gives its committed register, v16 and above
under the window that it last committed in (notes/assumptions/15.md). A latch code as the source of other lanes' values, or a b of VBCAST
that is no broadcast, is an illegal operand. -/
def Obligations.CrossLaneMoves : Prop :=
  ∀ (s : State) (u : UnitId) (f : LA),
    (∀ (i : Instr) (src : Nat → Nat), ((i, src) ∈ ([(.vperm f, fun l => (s.lane u f.b.toNat l 32).toNat % s.widthOf u),
        (.vshfl f, fun l =>
          let c := (s.lane u f.b.toNat l 32).toNat
          match f.m.toNat with
          | 0 => if c ≤ l ∧ l - c < s.widthOf u then l - c else l
          | 1 => if l + c < s.widthOf u then l + c else l
          | 2 => if l ^^^ c < s.widthOf u then l ^^^ c else l
          | _ => (l + c) % s.widthOf u),
        (.vbcast f, fun _ => (s.sget u (f.b.toNat - 72)).toNat % s.widthOf u)] : List (Instr × (Nat → Nat)))) →
      s.Issues u i →
      ((f.a.toNat < 64 ∨ 68 ≤ f.a.toNat) → (i = .vbcast f → 72 ≤ f.b.toNat) → ∃ t, exec i s = .next t ∧
        s.LaneDone t u i f.d.toNat f.k 32 (fun l =>
          if f.a.toNat < 64 then
            (if ¬ (s.groupOf u).launched.getLsbD (src l) then 0
              else if (s.maskOf u).getLsbD (src l) then s.vget u (src l) f.a.toNat
              else (s.groupOf u).vreg ((s.groupOf u).laneWb (src l)) (src l) f.a.toNat).setWidth 64
          else s.srcL u f.a.toNat (src l) 32) 0) ∧
      ((64 ≤ f.a.toNat ∧ f.a.toNat ≤ 67 ∨ (i = .vbcast f ∧ f.b.toNat < 72)) → exec i s = .next (s.faultUnit u (fltD 0x23 0)))) ∧
    (s.Issues u (.vmatch f) → ∃ (t : State) (r : Nat → Dword), exec (.vmatch f) s = .next t ∧
      s.LaneDone t u (.vmatch f) f.d.toNat f.k 64 r 0 ∧
      ∀ l j, l < 64 → j < 64 → (r l).getLsbD j = ((s.maskOf u).getLsbD j &&
        (s.lane u f.a.toNat j (typeW f.m) == s.lane u f.a.toNat l (typeW f.m))))

/-! Convergent instructions and messages. -/

/-- spec/09 R221 to R223: a path that is its family's only member performs a convergent instruction at once: VVOTE gives its
mask or truth value, VREDUCE one value to every lane, VSCAN each lane its own. Where its family has one other member, which waits in the
same instruction, both perform, over the lanes of both in ascending order; each rounds under its own fmt, writes its own lanes and goes on.
spec/09 R221: a path whose family has not gathered waits in its convergent instruction, and its registers stay. -/
def Obligations.Convergents : Prop :=
  (∀ (s : State) (u : UnitId) (f : LA), s.family u = [] →
    let w := typeW f.m
    let ls := (s.maskOf u).lanes
    let vals := ls.map fun l => (l, s.srcL u f.a.toNat l w)
    let red (scan : Bool) := reduceValues (s.thread u).fmt f.m.toNat (f.b.toNat % 8) scan (f.b.toNat / 8 % 2 == 1 && scan) vals
    let s' := s.dropOut u (some (s.thread u).pc)
    (∀ x : VoteX, s.Issues u (.vvote f x) → ∃ (t : State) (v : Dword), exec (.vvote f x) s = .next t ∧
      (s'.sput u x.sd.toNat v).PlainDone t u (.vvote f x) true ∧
      (x.mode = 0 → ∀ l, l < 64 → v.getLsbD l = (decide (l < (s.groupOf u).width) && (s.maskOf u).getLsbD l &&
        s.srcL u f.a.toNat l w != 0)) ∧
      (x.mode = 1 → v = if ls.any fun l => s.srcL u f.a.toNat l w != 0 then 1 else 0) ∧
      (x.mode = 2 → v = if ls.all fun l => s.srcL u f.a.toNat l w != 0 then 1 else 0) ∧
      (x.mode = 3 → v = if ls.all fun l => ls.all fun k => s.srcL u f.a.toNat l w == s.srcL u f.a.toNat k w then 1 else 0)) ∧
    (s.Issues u (.vreduce f) → ∃ t, exec (.vreduce f) s = .next t ∧
      s'.LaneDone t u (.vreduce f) f.d.toNat f.k w (fun l => ((red false).1.find? (·.1 == l)).elim 0 (·.2)) (red false).2) ∧
    (s.Issues u (.vscan f) → ∃ t, exec (.vscan f) s = .next t ∧
      s'.LaneDone t u (.vscan f) f.d.toNat f.k w (fun l => ((red true).1.find? (·.1 == l)).elim 0 (·.2)) (red true).2)) ∧
  (∀ (s : State) (c g n j : Nat) (f : LA),
    let u := UnitId.path c g n
    let v := UnitId.path c g j
    s.family u = [(j, s.pathOf v)] → (s.thread v).pc = (s.thread u).pc →
    let w := typeW f.m
    let ls := (s.maskOf u ||| s.maskOf v).lanes
    let val (l : Nat) : Dword := if (s.maskOf u).getLsbD l then s.srcL u f.a.toNat l w else s.srcL v f.a.toNat l w
    let red (z : UnitId) (scan : Bool) := reduceValues (s.thread z).fmt f.m.toNat (f.b.toNat % 8) scan (f.b.toNat / 8 % 2 == 1 && scan)
      (ls.map fun l => (l, val l))
    let s' := s.dropOut u (some (s.thread u).pc)
    (∀ x : VoteX, s.Issues u (.vvote f x) → (s.thread v).waiting = some (.vvote f x) →
      ∃ (t m : State) (y : Dword), exec (.vvote f x) s = .next t ∧
        (s'.sput u x.sd.toNat y).PlainDone m u (.vvote f x) true ∧ (m.sput v x.sd.toNat y).PlainDone t v (.vvote f x) true ∧
        (x.mode = 0 → ∀ l, l < 64 → y.getLsbD l = (decide (l < (s.groupOf u).width) && decide (l ∈ ls) && val l != 0)) ∧
        (x.mode = 1 → y = if ls.any fun l => val l != 0 then 1 else 0) ∧
        (x.mode = 2 → y = if ls.all fun l => val l != 0 then 1 else 0) ∧
        (x.mode = 3 → y = if ls.all fun l => ls.all fun k => val l == val k then 1 else 0)) ∧
    (∀ (i : Instr) (scan : Bool), (i, scan) ∈ [(Instr.vreduce f, false), (.vscan f, true)] → s.Issues u i → (s.thread v).waiting = some i →
      ∃ t m : State, exec i s = .next t ∧
        s'.LaneDone m u i f.d.toNat f.k w (fun l => ((red u scan).1.find? (·.1 == l)).elim 0 (·.2)) (red u scan).2 ∧
        m.LaneDone t v i f.d.toNat f.k w (fun l => ((red v scan).1.find? (·.1 == l)).elim 0 (·.2)) (red v scan).2)) ∧
  (∀ (s : State) (u : UnitId) (i : Instr), convergent i = true → s.Issues u i →
    let s' := s.dropOut u (some (s.thread u).pc)
    (∃ k ∈ s'.family u, k.2.th.gathers = false ∧ ∀ j ∈ s'.family u, j.1 = k.1 → j.2.th.out (s.thread u).pc = false) →
    ∃ t, exec i s = .next t ∧ s'.WaitsIn t u i) ∧
  (∀ (s : State) (u : UnitId) (f : LA) (w : Wait), (s.thread u).wait = some w → s.preCheck u w.instr = none →
    let vals := (s.maskOf u).lanes.map fun l => (l, s.srcL u f.a.toNat l (typeW f.m))
    let red := reduceValues (s.thread u).fmt f.m.toNat (f.b.toNat % 8) false false vals
    ((s.thread u).state ≠ .waiting → exec (.convergentPerform u) s = .next s) ∧
    (w.instr = .vreduce f → (s.thread u).state = .waiting → s.family u = [] → ∃ t, exec (.convergentPerform u) s = .next t ∧
      s.LaneDone t u (.vreduce f) f.d.toNat f.k (typeW f.m) (fun l => (red.1.find? (·.1 == l)).elim 0 (·.2)) red.2))

/-- spec/09 R223: what VREDUCE and VSCAN, with EXCL or without, give each lane taking part, for every type and operation: the values are
combined in ascending lane order, each combination rounded under fmt; a .bf16 sum is accumulated in FP32 and rounded into BF16 as it is
written. The flags are those of every combination and of every result written, of other members' lanes too (the model's reading:
notes/assumptions/79.md). -/
def Obligations.Reductions : Prop :=
  ∀ (fmt : Word) (m : BitVec 3) (op : Nat) (scan excl : Bool) (l : Nat) (x : Dword) (rest : List (Nat × Dword)),
    (m.toNat < 4 ∧ op < 6) ∨ (m ∈ [4, 5, 7] ∧ op < 3) → (∀ v ∈ (l, x) :: rest, v.2.toNat < 2 ^ typeW m) →
    let w := typeW m
    let rm := fmtRM fmt
    let daz := fmtDAZ fmt
    let F : FloatFmt := if m = 5 then bf16 else fp32
    let num : Bool := decide (m = 4 ∨ m = 5)
    let whole (a b : BitVec w) : BitVec w :=
      let natural := m = 1 ∨ m = 3
      match op with
      | 0 => a + b
      | 1 => if (if natural then b.ult a else b.slt a) then b else a
      | 2 => if (if natural then a.ult b else a.slt b) then b else a
      | 3 => a &&& b
      | 4 => a ||| b
      | _ => a ^^^ b
    let pick (a b : Dword) : Nat :=
      let p := F.read daz a.toNat
      let q := F.read daz b.toNat
      if p = .nan ∧ q = .nan then F.nanCode
      else if p = .nan ∨ (q ≠ .nan ∧ (if op = 1 then q.below p else p.below q) = true) then afterDaz F daz b.toNat
      else afterDaz F daz a.toNat
    let sum (a b : FloatVal) : Dword × BitVec 7 :=
      let v := a.add rm b
      let q := rnd fp32 rm (fmtFTZ fmt) v.1
      (BitVec.ofNat 64 q.1, v.2 ||| q.2)
    let comb (a b : Dword) : Dword × BitVec 7 :=
      if num = false then ((whole (a.setWidth w) (b.setWidth w)).setWidth 64, 0)
      else if op ≠ 0 then (BitVec.ofNat 64 (pick a b), 0)
      else if m = 4 then sum (fp32.read daz a.toNat) (fp32.read daz b.toNat)
      else sum (fp32.read false a.toNat) (bf16.read daz (b.toNat % 65536))
    let start : Dword :=
      if m ≠ 5 then x
      else if op ≠ 0 then BitVec.ofNat 64 (x.toNat % 65536)
      else if bf16.read false (x.toNat % 65536) = .nan then 0x7FC00000
      else BitVec.ofNat 64 (65536 * afterDaz bf16 daz (x.toNat % 65536))
    let acc (k : Nat) : Dword × BitVec 7 :=
      (rest.take k).foldl (fun a v => ((comb a.1 v.2).1, a.2 ||| (comb a.1 v.2).2)) (start, 0)
    let out (a : Dword) : Dword × BitVec 7 :=
      if m = 5 ∧ op = 0 then
        let q := rnd bf16 rm (fmtFTZ fmt) (fp32.read false a.toNat)
        (BitVec.ofNat 64 q.1, q.2)
      else (a, 0)
    let identity : Dword := match op, m.toNat with
      | 1, 0 => 0x7FFFFFFF | 1, 1 => 0xFFFFFFFF | 1, 2 => 0x7FFFFFFFFFFFFFFF | 1, 3 => 0xFFFFFFFFFFFFFFFF
      | 1, 4 => 0x7F800000 | 1, 5 => 0x7F80 | 1, _ => 0x7FFFFFFFFFFFFFFF
      | 2, 0 => 0x80000000 | 2, 1 => 0 | 2, 2 => 0x8000000000000000 | 2, 3 => 0
      | 2, 4 => 0xFF800000 | 2, 5 => 0xFF80 | 2, _ => 0x8000000000000000
      | 3, 0 => 0xFFFFFFFF | 3, 1 => 0xFFFFFFFF | 3, _ => 0xFFFFFFFFFFFFFFFF
      | _, _ => 0
    let n := rest.length
    let give (k : Nat) : Dword × BitVec 7 :=
      if scan = false then out (acc n).1
      else if excl = false then out (acc k).1
      else if k = 0 then (identity, 0)
      else out (acc (k - 1)).1
    reduceValues fmt m.toNat op scan excl ((l, x) :: rest) =
      ((List.range (n + 1)).map fun k => (((l :: rest.map (·.1)).getD k 0), (give k).1),
        (List.range (n + 1)).foldl (fun a k => a ||| (give k).2) (acc n).2)

/-- spec/09 R225: XSEND fills an empty slot with its lanes' values and is done, and waits while the slot is FULL; XRECV empties a FULL
slot, each lane taking its value or 0, and waits while the slot is empty. -/
def Obligations.Rendezvous : Prop :=
  ∀ (s : State) (u : UnitId) (f : LA) (x : SlotX),
    let s' := s.dropOut u none
    (∀ a, s.ComesTo u (.xsend f x) (.rendezvousWaitEnd u) a →
      ((s.teamOf u).xslots.find x.slot.toNat = none → ∃ (t : State) (r : XSlot), a = .next t ∧
        (s'.onTeamOf u fun k => { k with xslots := k.xslots.put x.slot.toNat r }).PlainDone t u (.xsend f x) true ∧
        r.mask = s.maskOf u ∧ ∀ l, l < 64 → (s.maskOf u).getLsbD l = true →
          r.vals.find l = some (s.srcL u f.a.toNat l (typeW f.m))) ∧
      (∀ r, (s.teamOf u).xslots.find x.slot.toNat = some r → ∃ t, a = .next t ∧ s'.WaitsIn t u (.xsend f x))) ∧
    (∀ a, s.ComesTo u (.xrecv f x) (.rendezvousWaitEnd u) a →
      (∀ r, (s.teamOf u).xslots.find x.slot.toNat = some r → ∃ t, a = .next t ∧
        (s'.onTeamOf u fun k => { k with xslots := k.xslots.drop x.slot.toNat }).LaneDone t u (.xrecv f x) f.d.toNat f.k (typeW f.m)
          (fun l => if r.mask.getLsbD l then ((r.vals.get l 0).setWidth (typeW f.m)).setWidth 64 else 0) 0) ∧
      ((s.teamOf u).xslots.find x.slot.toNat = none → ∃ t, a = .next t ∧ s'.WaitsIn t u (.xrecv f x)))

/-! Memory. -/

/-- spec/10 R226, R229, spec/02 R55, spec/01 R33: a lane load reads each lane's bytes, in ascending lane order, sets ACC of the leaves it
uses, and changes no other byte of memory. LDS waits while a line it touches is absent, and at SCRATCHPAD_WAIT_END comes to its accesses
again (that its run goes on there is notes/assumptions/66.md); it reads the scratchpad's bytes, as they stand where none was read before
(notes/assumptions/5.md). -/
def Obligations.LaneLoads : Prop :=
  ∀ (s : State) (u : UnitId) (f : LA) (x : MemX) (i : Instr) (sp : Bool) (ans : Answer),
    ((i, sp) ∈ [(Instr.ld f x, false), (.lds f x, true)]) → s.Reaches u i sp ans →
    let m := f.m.toNat
    let n := sizeOfM m
    let ls := (s.maskOf u).lanes
    let ea := s.laneAddr u f.a.toNat f.b.toNat x.ix.toNat x.scl.toNat x.off
    let act (q : State) (l : Nat) (z : Ready) := q.readAt u (q.laneWho u l) z n (reqOf x.pol.toNat) (freshLoad x.ord.toNat x.scope.toNat)
    let val (bs : List Byte) : Dword := match m with
      | 1 => ((BitVec.ofNat 8 (leNat bs)).signExtend 32).setWidth 64
      | 3 => ((BitVec.ofNat 16 (leNat bs)).signExtend 32).setWidth 64
      | _ => BitVec.ofNat 64 (leNat bs)
    ((∃ l ∈ ls, s.mustWait u sp n (ea l) = true) → ∃ t, ans = .next t ∧ s.WaitsIn t u i) ∧
    ∀ r, s.LanesReady u sp .load n (viewReq (reqOf x.pol.toNat) x.ord.toNat x.scope.toNat) ea r →
      let p := (s.afterLanes act r ls).after u x.ord.toNat x.scope.toNat
      ∃ (t : State) (v : Nat → List Byte), ans = .next t ∧
        s.MemoryOnly p ∧ p.LaneDone t u i f.d.toNat f.k (if m = 5 then 64 else 32) (fun l => val (v l)) 0 ∧
        (∀ l ∈ ls, ∀ z, (r l).xl = some z → (z.leaf ||| p.home64 z.pte).getLsbD 10 = true) ∧
        (∀ A l B, ls = A ++ l :: B → v l = (act (s.afterLanes act r A) l (r l)).1) ∧
        (∀ a, (∀ l ∈ ls, ¬ (r l).inLeaf a) → p.mem.get a = s.mem.get a) ∧
        (∀ c, (p.core c).sp = (s.core c).sp) ∧
        (sp = true → (s.caches u.node).ahead = [] → ∀ l ∈ ls, v l = s.spRead u.place (s.teamSlot u) (ea l).toNat n)

/-- spec/10 R226, R229, spec/03 R85, spec/02 R55, spec/01 R33: STS, and STQ with SP, wait while a line they touch is absent, and at
SCRATCHPAD_WAIT_END come to their accesses again; they write the scratchpad's bytes. ST and STQ make the bytes visible to their node at
once and leave the home slices as they are, but for ACC and DTY of a leaf, which they set (when a write reaches its home is left to the
agenda: notes/assumptions/5.md). -/
def Obligations.LaneStores : Prop :=
  ∀ (s : State) (u : UnitId) (f : LA) (x : MemX) (i : Instr) (sp : Bool) (n : Nat) (bytes : Nat → List Byte)
      (ans : Answer),
    let one (l : Nat) : List Byte := natLe (sizeOfM f.m.toNat) (s.vwide u l f.d.toNat (if f.m = 5 then 64 else 32)).toNat
    let four (l : Nat) : List Byte := (List.range 4).flatMap fun j => natLe 4 (s.vget u l (f.d.toNat + j)).toNat
    ((i, sp, n, bytes) ∈ ([(Instr.st f x, false, sizeOfM f.m.toNat, one), (.sts f x, true, sizeOfM f.m.toNat, one),
      (.stq f x, x.sp, 16, four)] : List (Instr × Bool × Nat × (Nat → List Byte)))) →
    s.Reaches u i sp ans → u.place < 512 → (i = .stq f x → f.d.toNat % 4 = 0) →
    let ls := (s.maskOf u).lanes
    let ea := s.laneAddr u f.a.toNat f.b.toNat x.ix.toNat x.scl.toNat x.off
    ((∃ l ∈ ls, s.mustWait u sp n (ea l) = true) → ∃ t, ans = .next t ∧ s.WaitsIn t u i) ∧
    ∀ r, s.LanesReady u sp .store n 0 ea r →
      let stores (l b : Nat) : Prop := s.placeOf u (r l) ≤ b ∧ b < s.placeOf u (r l) + n
      let q := s.beforeStore u sp x.ord.toNat x.scope.toNat
      ∃ t p, ans = .next t ∧ s.MemoryOnly p ∧ p.PlainDone t u i true ∧
        (∀ l ∈ ls, ∀ z, (r l).xl = some z → (z.leaf ||| p.home64 z.pte) &&& 0xC00 = 0xC00) ∧
        (sp = true → ∀ b,
          ((∀ l ∈ ls, ¬ stores l b) → (p.core u.place).sp.get b = (s.core u.place).sp.get b) ∧
          ∀ A l B, ls = A ++ l :: B → stores l b → (∀ k ∈ B, ¬ stores k b) →
            some ((p.core u.place).sp.get b) = (bytes l)[b - s.placeOf u (r l)]?) ∧
        (∀ c, sp = false ∨ c ≠ u.place → (p.core c).sp = (s.core c).sp) ∧
        (∀ a, (∀ l ∈ ls, ¬ (r l).inLeaf a) → p.mem.get a = q.mem.get a) ∧
        (sp = false → ∀ b,
          ((∀ l ∈ ls, ¬ stores l b ∧ ¬ (r l).inLeaf b) → p.seeHome u.node b 1 = q.seeHome u.node b 1) ∧
          ∀ A l B, ls = A ++ l :: B → stores l b → (∀ k ∈ B, ¬ stores k b) →
            p.seeHome u.node b 1 = ((bytes l)[b - s.placeOf u (r l)]?).toList)

/-- spec/10 R228, R229, spec/02 R55: LDQ writes vd to vd + 3 from the 16 bytes each lane reads, and with SP waits while a line it touches is
absent; a d that is no multiple of 4 is an illegal operand, for STQ too. -/
def Obligations.LaneQuads : Prop :=
  ∀ (s : State) (u : UnitId) (f : LA) (x : MemX),
    (s.Issues u (.stq f x) → f.d.toNat % 4 ≠ 0 → exec (.stq f x) s = .next (s.faultUnit u (fltD 0x23 0))) ∧
    (∀ ans, s.Reaches u (.ldq f x) x.sp ans →
      let ls := (s.maskOf u).lanes
      let ea := s.laneAddr u f.a.toNat f.b.toNat x.ix.toNat x.scl.toNat x.off
      let act (q : State) (l : Nat) (z : Ready) := q.readAt u (q.laneWho u l) z 16 (reqOf x.pol.toNat)
        (freshLoad x.ord.toNat x.scope.toNat)
      (f.k = true ∨ f.d.toNat % 4 = 0 → (∃ l ∈ ls, s.mustWait u x.sp 16 (ea l) = true) → ∃ t, ans = .next t ∧
        s.WaitsIn t u (.ldq f x)) ∧
      (∀ r, (f.k = true ∨ f.d.toNat % 4 = 0) →
        s.LanesReady u x.sp .load 16 (viewReq (reqOf x.pol.toNat) x.ord.toNat x.scope.toNat) ea r →
        let p := (s.afterLanes act r ls).after u x.ord.toNat x.scope.toNat
        ∃ (t : State) (v : Nat → List Byte), ans = .next t ∧ s.MemoryOnly p ∧ p.Own t u ∧ s.Passed t u (.ldq f x) ∧
          t.flagsSeen u = s.flagsSeen u ∧ (∀ r, t.sget u r = s.sget u r) ∧ (∀ l, t.bindOf u l = s.bindOf u l) ∧
          (∀ A l B, ls = A ++ l :: B → v l = (act (s.afterLanes act r A) l (r l)).1) ∧
          (∀ a, (∀ l ∈ ls, ¬ (r l).inLeaf a) → p.mem.get a = s.mem.get a) ∧ (∀ c, (p.core c).sp = (s.core c).sp) ∧
          (x.sp = true → (s.caches u.node).ahead = [] → ∀ l ∈ ls, v l = s.spRead u.place (s.teamSlot u) (ea l).toNat 16) ∧
          (f.k = false → ∀ l ∈ ls, ∀ j, j < 4 →
            t.vget u l (f.d.toNat + j) = BitVec.ofNat 32 (leNat (((v l).drop (4 * j)).take 4))) ∧
          (∀ l k, l < 64 → (f.k = true ∨ l ∉ ls ∨ k < f.d.toNat ∨ f.d.toNat + 4 ≤ k) → t.vget u l k = s.vget u l k)) ∧
      (f.k = false → f.d.toNat % 4 ≠ 0 → ans = .next (s.faultUnit u (fltD 0x23 0))))

/-- spec/10 R231 to R233, spec/03 R85, spec/02 R55, spec/01 R33: the lane atomics, lane by lane in ascending order: each finds a value,
writes what its operation gives, and returns the value found unless NR is set. ATOMS and ACASS wait while a line they touch is absent, and
at SCRATCHPAD_WAIT_END come to their accesses again. -/
def Obligations.LaneAtomics : Prop :=
  ∀ (s : State) (u : UnitId) (f : LA) (x : AtomX) (i : Instr) (sp : Bool) (n : Nat)
      (new : Nat → List Byte → Option (List Byte)) (ans : Answer),
    let w := typeW f.m
    let v (l d : Nat) : Nat := (s.vwide u l d w).toNat
    let rmw (l : Nat) (old : List Byte) : Option (List Byte) :=
      some (natLe (w / 8) (rmwBits (s.thread u).fmt f.m.toNat x.aop.toNat w (BitVec.ofNat w (leNat old)) (BitVec.ofNat w (v l f.d.toNat))).toNat)
    let cas (l : Nat) (old : List Byte) : Option (List Byte) :=
      if leNat old = v l f.d.toNat then some (natLe (w / 8) (v l (f.d.toNat + w / 32))) else none
    ((i, sp, n, new) ∈ ([(.atom f x, false, w / 8, rmw), (.atoms f x, true, w / 8, rmw), (.acas f x, false, w / 8, cas),
      (.acass f x, true, w / 8, cas),
      (.aaddx f x, false, 8, fun l old => some (natLe 8 (BitVec.ofNat 64 (leNat old) + s.vwide u l f.d.toNat 64).toNat))] :
        List (Instr × Bool × Nat × (Nat → List Byte → Option (List Byte))))) →
    s.Reaches u i sp ans →
    let ls := (s.maskOf u).lanes
    let ea := s.laneAddr u f.a.toNat f.b.toNat x.ix.toNat x.scl.toNat x.off
    let q := s.before u x.ord.toNat x.scope.toNat
    let act (y : State) (l : Nat) (z : Ready) := y.rmwAt u (y.laneWho u l) z n (new l)
    ((∃ l ∈ ls, s.mustWait u sp n (ea l) = true) → ∃ t, ans = .next t ∧ s.WaitsIn t u i) ∧
    ∀ r, s.LanesReady u sp .atomic n 0 ea r →
      let p := q.afterLanes act r ls
      ∃ (t : State) (old : Nat → List Byte), ans = .next t ∧ s.MemoryOnly p ∧
        (if x.nr then (p.after u x.ord.toNat x.scope.toNat).PlainDone t u i true
          else (p.after u x.ord.toNat x.scope.toNat).LaneDone t u i f.d.toNat false (8 * n) (fun l => BitVec.ofNat 64 (leNat (old l))) 0) ∧
        (∀ A l B, ls = A ++ l :: B → old l = (act (q.afterLanes act r A) l (r l)).1) ∧
        (∀ c b, (sp = true → c = u.place → ∀ l ∈ ls, b < s.placeOf u (r l) ∨ s.placeOf u (r l) + n ≤ b) →
          (p.core c).sp.get b = (s.core c).sp.get b) ∧
        (sp = true → ∀ l, ls = [l] → old l = s.spRead u.place (s.teamSlot u) (ea l).toNat n ∧
          p.spRead u.place (s.teamSlot u) (ea l).toNat n = (new l (old l)).getD (old l)) ∧
        (sp = false → (q.caches u.node).wbuf = [] → u.place < 512 →
          (∀ a, (∀ l ∈ ls, ¬ (r l).inLeaf a ∧ ∀ z, (r l).xl = some z → a < z.pa ∨ z.pa + n ≤ a) → p.mem.get a = q.mem.get a) ∧
          ∀ l z, ls = [l] → (r l).xl = some z → (z.pte + 8 ≤ z.pa ∨ z.pa + n ≤ z.pte) →
            old l = q.mem.read z.pa n ∧ p.mem.read z.pa n = (new l (old l)).getD (old l) ∧
              (z.leaf ||| p.home64 z.pte) &&& 0xC00 = 0xC00)

/-- spec/10 R234, R230, spec/03 R87, R92, spec/04 R107: FENCE and PREF give no result. An acquiring fence at core scope or wider empties
the node's L1. A fence that acquires and releases at die scope or wider leaves no write of its unit pending that its scope waits for, and
where all that pends is the unit's, what the node saw is at the home slices; one that only releases changes no byte, and holds the unit's
later writes back behind those that pend (which writes are the unit's, by the lanes whose they are: notes/assumptions/6.md). PREF changes no byte. -/
def Obligations.FencesAndPrefetch : Prop :=
  ∀ (s : State) (u : UnitId) (f : LA), u.place < 512 →
    (∀ x : FenceX, s.Issues u (.fence f x) → ∃ t p, exec (.fence f x) s = .next t ∧ s.MemoryOnly p ∧
      p.PlainDone t u (.fence f x) true ∧ (∀ c, (p.core c).sp = (s.core c).sp) ∧
      (x.kind.toNat % 2 = 1 → 2 ≤ x.scope.toNat → (p.caches u.node).l1 = .empty ∧ (p.caches u.node).views = .empty) ∧
      let mine (w : PendWrite) : Prop := w.after.get u.party 0 &&& s.maskOf u ≠ 0
      (x.kind = 3 → 3 ≤ x.scope.toNat →
        (∀ w ∈ (p.caches u.node).wbuf, mine w → relWaits x.scope.toNat w.pa = false) ∧
        ((∀ w ∈ (s.caches u.node).wbuf, w.mir = false ∧ mine w ∧ relWaits x.scope.toNat w.pa = true) →
          (s.caches u.node).promises = [] → s.mirror.flight = [] → ∀ b, [p.mem.get b] = s.seeHome u.node b 1)) ∧
      (x.kind = 2 → 3 ≤ x.scope.toNat → (p.caches u.node).wbuf = (s.caches u.node).wbuf ∧
        ∀ w ∈ (s.caches u.node).wbuf, mine w → relWaits x.scope.toNat w.pa = true →
          ∀ z bs req rel, w.id ∈ (p.pending (p.whoOf u) z bs req rel).deps ∧ x.scope.toNat ≤ (p.pending (p.whoOf u) z bs req rel).rel) ∧
      (x.kind.toNat < 3 ∨ x.scope.toNat < 3 → p.mem = s.mem)) ∧
    (∀ x : MemX, s.Issues u (.pref f x) → ∃ t p, exec (.pref f x) s = .next t ∧ s.MemoryOnly p ∧
      p.PlainDone t u (.pref f x) true ∧ p.mem = s.mem ∧ ∀ c, (p.core c).sp = (s.core c).sp)

/-- spec/10 R235, spec/02 R71, R72: DISCARD of a lane's range of one whole sector of module HBM5 that its L2 slice holds makes it
read as HBM holds it, and no other byte changes; within the scratchpad nothing happens. -/
def Obligations.Discards : Prop :=
  ∀ (s : State) (u : UnitId) (f : LA) (x : MemX), s.Issues u (.discard f x) → u.place < 512 →
    let ea := s.laneAddr u f.a.toNat 0 0 0 x.off
    let n (l : Nat) := (s.srcL u f.b.toNat l 32).toNat
    (x.sp = true → (∀ l ∈ (s.maskOf u).lanes, n l = 0 ∨ (s.teamOf u).spIn (ea l).toNat (n l) = true) →
      ∃ t, exec (.discard f x) s = .next t ∧ s.PlainDone t u (.discard f x) true) ∧
    (∀ l y k, x.sp = false → (s.maskOf u).lanes = [l] → n l = 64 → (ea l).toNat % 64 = 0 → (ea l).toNat + 64 ≤ 2 ^ 64 →
      s.translate u.node (s.ctxOf u) (ea l) .discard = .ok y →
      y.mir = false → inHbm y.pa = true → y.pa % 64 = 0 → (s.caches u.node).wbuf = [] → (s.caches u.node).promises = [] → s.line y.pa = some k →
      k.vs.getLsbD (y.pa / 64 % 4) = true →
      ∃ t p, exec (.discard f x) s = .next t ∧ s.MemoryOnly p ∧ p.PlainDone t u (.discard f x) true ∧
        p.mem.read y.pa 64 = s.hbm.read y.pa 64 ∧ (∀ a, a < y.pa ∨ y.pa + 64 ≤ a → p.mem.get a = s.mem.get a) ∧
        (p.caches u.node).l1.find (y.pa / 64) = none)

/-- spec/10 R236, spec/02 R55: the uniform accesses of any unit: GLD extends what it reads into S[d]; GST writes the low bytes of S[d];
GATOM finds a value, writes what its operation gives, and returns the value found unless K = 1 (that a sequencer's or lantern program's
.fadd rounds under its own fmt is the model's reading: notes/assumptions/72.md). Each waits for an absent line; that a GLD which waits
loses nothing of its run and goes on there is the model's reading too (notes/assumptions/66.md), as is that a GST to global memory is
visible to its node at once (notes/assumptions/5.md). A scratchpad GLD reads the bytes as they stand where none was read before. A lantern
core has no scratchpad. -/
def Obligations.UniformAccesses : Prop :=
  ∀ (s : State) (u : UnitId) (f : GA),
    (∀ (x : GmemX) (i : Instr) (a : Answer), i ∈ [Instr.gld f x, .gst f x] → s.ComesTo u i (.scratchpadWaitEnd u) a →
      let ea := s.srcG u f.a.toNat + (if x.ixe then s.sget u f.b.toNat else 0) + x.off.signExtend 64
      spOk u x.sp = true → s.mustWait u x.sp (sizeOfSZ x.sz.toNat) ea = true → ∃ t, a = .next t ∧ s.WaitsIn t u i) ∧
    (∀ (x : GatomX) (a : Answer), s.ComesTo u (.gatom f x) (.scratchpadWaitEnd u) a →
      let ea := s.srcG u f.a.toNat + (if x.ixe then s.sget u f.b.toNat else 0) + x.off.signExtend 64
      spOk u x.sp = true → s.mustWait u x.sp (typeW x.ty / 8) ea = true → ∃ t, a = .next t ∧ s.WaitsIn t u (.gatom f x)) ∧
    (∀ (x : GmemX) (r : Ready),
      let n := sizeOfSZ x.sz.toNat
      let ea := s.srcG u f.a.toNat + (if x.ixe then s.sget u f.b.toNat else 0) + x.off.signExtend 64
      let view := viewReq (reqOf x.pol.toNat) x.ord.toNat x.scope.toNat
      spOk u x.sp = true → s.mustWait u x.sp n ea = false →
      (∀ a, s.ComesTo u (.gld f x) (.scratchpadWaitEnd u) a → s.accessCheck u x.sp .load n view ea = .ok r →
        let q := s.readAt u (s.whoOf u) r n (reqOf x.pol.toNat) (freshLoad x.ord.toNat x.scope.toNat)
        let val : Dword := match x.sz.toNat with
          | 1 => (BitVec.ofNat 8 (leNat q.1)).signExtend 64
          | 3 => (BitVec.ofNat 16 (leNat q.1)).signExtend 64
          | 5 => (BitVec.ofNat 32 (leNat q.1)).signExtend 64
          | _ => BitVec.ofNat 64 (leNat q.1)
        ∃ t, a = .next t ∧ s.MemoryOnly (q.2.after u x.ord.toNat x.scope.toNat) ∧
          (q.2.after u x.ord.toNat x.scope.toNat).ScalarDone t u (.gld f x) f.d.toNat f.k val ∧
          (∀ a, ¬ r.inLeaf a → q.2.mem.get a = s.mem.get a) ∧ (∀ c, (q.2.core c).sp = (s.core c).sp) ∧
          (x.sp = true → (s.caches u.node).ahead = [] → q.1 = s.spRead u.place (s.teamSlot u) ea.toNat n)) ∧
      (∀ a, s.ComesTo u (.gst f x) (.scratchpadWaitEnd u) a → s.accessCheck u x.sp .store n 0 ea = .ok r →
        let q := s.beforeStore u x.sp x.ord.toNat x.scope.toNat
        let bytes := natLe n (s.sget u f.d.toNat).toNat
        ∃ t p, a = .next t ∧ s.MemoryOnly p ∧ p.PlainDone t u (.gst f x) false ∧
          (∀ a, ¬ r.inLeaf a → p.mem.get a = q.mem.get a) ∧
          (∀ c b, (x.sp = true → c = u.place → b < s.placeOf u r ∨ s.placeOf u r + n ≤ b) → (p.core c).sp.get b = (s.core c).sp.get b) ∧
          (x.sp = true → p.spRead u.place (s.teamSlot u) ea.toNat n = bytes) ∧
          (x.sp = false → u.node < 576 → ∀ b,
            (s.placeOf u r ≤ b → b < s.placeOf u r + n → p.seeHome u.node b 1 = (bytes[b - s.placeOf u r]?).toList) ∧
            (¬ (s.placeOf u r ≤ b ∧ b < s.placeOf u r + n) → ¬ r.inLeaf b → p.seeHome u.node b 1 = q.seeHome u.node b 1)))) ∧
    (∀ (x : GatomX) (r : Ready) (a : Answer), s.ComesTo u (.gatom f x) (.scratchpadWaitEnd u) a → spOk u x.sp = true →
      let w := typeW x.ty
      let ea := s.srcG u f.a.toNat + (if x.ixe then s.sget u f.b.toNat else 0) + x.off.signExtend 64
      s.mustWait u x.sp (w / 8) ea = false → s.accessCheck u x.sp .atomic (w / 8) 0 ea = .ok r →
      let op : BitVec w := (s.sget u f.d.toNat).setWidth w
      let new (old : List Byte) : Option (List Byte) :=
        if x.aop = 8 then (if leNat old = op.toNat then some (natLe (w / 8) ((s.sget u (f.d.toNat + 1)).setWidth w).toNat) else none)
        else some (natLe (w / 8) (rmwBits (s.thread u).fmt x.ty.toNat x.aop.toNat w (BitVec.ofNat w (leNat old)) op).toNat)
      let p := s.before u x.ord.toNat x.scope.toNat
      let q := p.rmwAt u (p.whoOf u) r (w / 8) new
      ∃ t, a = .next t ∧ s.MemoryOnly q.2 ∧
        (if f.k then (q.2.after u x.ord.toNat x.scope.toNat).PlainDone t u (.gatom f x) false
          else (q.2.after u x.ord.toNat x.scope.toNat).ScalarDone t u (.gatom f x) f.d.toNat false (BitVec.ofNat 64 (leNat q.1))) ∧
        (x.sp = true → q.1 = s.spRead u.place (s.teamSlot u) ea.toNat (w / 8) ∧
          q.2.spRead u.place (s.teamSlot u) ea.toNat (w / 8) = (new q.1).getD q.1) ∧
        (∀ z, r.xl = some z → (p.caches u.node).wbuf = [] →
          (∀ a, ¬ r.inLeaf a → a < z.pa ∨ z.pa + w / 8 ≤ a → q.2.mem.get a = p.mem.get a) ∧ (∀ c, (q.2.core c).sp = (s.core c).sp) ∧
          ((z.pte + 8 ≤ z.pa ∨ z.pa + w / 8 ≤ z.pte) →
            q.1 = p.mem.read z.pa (w / 8) ∧ q.2.mem.read z.pa (w / 8) = (new q.1).getD q.1))) ∧
    (∀ x, s.Issues u (.gld f x) → spOk u x.sp = false → exec (.gld f x) s = .next (s.faultUnit u (fltD 0x23 0)))

/-- spec/10 R226, R227, spec/01 R12, R13, spec/02 R80: the checks of an access in their order: alignment, the scratchpad's bounds,
the canonical form of a global address and its translation, poison. A read meets the poison of a sector where neither its L1 line, nor one
that its node has seen before (notes/assumptions/59.md), nor a pending write of the node over the whole sector stands in for it
(spec/02 R80). spec/01 R22 to R25, R32, R33: the walk from a table, level by level, with the form of pointers and leaves (an entry's poison
is not looked at: notes/assumptions/69.md); where a node's walk begins, what its TLB stands in for, the order of the leaf's checks, and the
bits that a use of the leaf sets at its home. -/
def Obligations.AccessChecks : Prop :=
  (∀ (s : State) (va lvl table : Nat), lvl ≤ 3 →
    let here := table + 8 * (match lvl with
      | 0 => va / 2 ^ 16 % 32 | 1 => va / 2 ^ 21 % 512 | 2 => va / 2 ^ 30 % 8192 | _ => va / 2 ^ 43 % 8192)
    let e := s.home64 here
    let fd (lo n : Nat) : Nat := e.toNat / 2 ^ lo % 2 ^ n
    let next := fd 8 44 * 256
    let frame := fd 16 36 * 65536
    let page : Nat := match lvl with | 0 => 2 ^ 16 | 1 => 2 ^ 21 | _ => 2 ^ 30
    let pointer : Bool := fd 2 6 == 0 && fd 52 12 == 0 && decide (next < 2 ^ 40) &&
      next % (match lvl with | 0 => 256 | 1 => 256 | 2 => 4096 | _ => 65536) == 0
    let leaf : Bool := fd 12 4 == 0 && fd 58 6 == 0 && fd 5 2 != 3 && !(fd 3 1 == 1 && fd 4 1 == 1) && frame % page == 0 &&
      (decide (frame < 2 ^ 40) || frame / 2 ^ 48 == 1 || frame / 2 ^ 48 == 2) && (decide (frame < 2 ^ 40) || (fd 7 1 == 0 && fd 9 1 == 0))
    s.walk va lvl table =
      if fd 0 1 = 0 then .error (0, lvl)
      else if fd 1 1 = 0 then if lvl = 0 ∨ pointer = false then .error (1, lvl) else s.walk va (lvl - 1) next
      else if lvl = 3 ∨ leaf = false then .error (1, lvl)
      else .ok { pa := frame + va % page, leaf := e, level := lvl, pte := here }) ∧
  (∀ (s : State) (n c : Nat) (va : Dword) (k : Kind),
    let err (code lvl : Nat) : Flt := { cause := code, detail := 0, addr := va, kind := k.code, level := lvl }
    (∀ z, s.tlbFind n c va.toNat = some z → z ∈ (s.caches n).tlb ∧ z.ctx = c ∧
      let page : Nat := match z.level with | 0 => 2 ^ 16 | 1 => 2 ^ 21 | _ => 2 ^ 30
      z.base = va.toNat / page * page ∧ s.lookup n c va.toNat =
        .ok { pa := z.leaf.toNat / 2 ^ 16 % 2 ^ 36 * 65536 + va.toNat % page, leaf := z.leaf, level := z.level, pte := z.pte }) ∧
    (s.tlbFind n c va.toNat = none → (∀ w ∈ s.walkCache n, w.ctx ≠ c) →
      s.lookup n c va.toNat = s.walk va.toNat 3 ((s.descOf n c).w0.toNat / 2 ^ 16 % 2 ^ 36 * 65536)) ∧
    (2 ^ 56 ≤ va.toNat → s.translate n c va k = .error (err 2 3)) ∧
    (va.toNat < 2 ^ 56 → (∀ e, s.lookup n c va.toNat = .error e → s.translate n c va k = .error (err e.1 e.2)) ∧
      ∀ x, s.lookup n c va.toNat = .ok x →
        let has (b : Nat) : Bool := x.leaf.getLsbD b
        let key : Bool := (s.descOf n c).w1.getLsbD (x.leaf.toNat / 2 ^ 52 % 64)
        let host : Bool := x.leaf.toNat / 2 ^ 48 % 16 == 1
        let code : Nat :=
          if (k = .load ∨ k = .engRead) ∧ has 2 = false then 3
          else if (k = .store ∨ k = .engWrite ∨ k = .discard) ∧ has 3 = false then 4
          else if k = .atomic ∧ (has 2 = false ∨ has 3 = false) then 4
          else if k = .fetch ∧ has 4 = false then 5
          else if key = false then 6
          else if k = .atomic ∧ has 7 = true then 7
          else if k = .atomic ∧ host = true then 9
          else if k = .discard ∧ has 8 = false then 8
          else 0
        s.translate n c va k = if code = 0 then .ok x else .error (err code x.level)) ∧
    ∀ x, let t := s.useLeaf n c va x k
      let bits : Dword := match k with | .discard => 0 | .store => 0xC00 | .atomic => 0xC00 | .engWrite => 0xC00 | _ => 0x400
      (x.leaf &&& bits = bits → t.mem = s.mem) ∧
      (x.leaf &&& bits ≠ bits → t.home64 x.pte = s.home64 x.pte ||| bits ∧
        ∀ a, a < x.pte ∨ x.pte + 8 ≤ a → t.mem.get a = s.mem.get a)) ∧
  ∀ (s : State) (u : UnitId) (sp : Bool) (k : Kind) (n req : Nat) (ea : Dword),
    (ea.toNat % n ≠ 0 → s.accessCheck u sp k n req ea = .error (fltAt 0x10 ea)) ∧
    (ea.toNat % n = 0 → sp = true → ¬ (ea.toNat < 2 ^ 20 ∧ ea.toNat + n ≤ (s.teamOf u).spSize) →
      s.accessCheck u sp k n req ea = .error (fltAt 0x11 ea)) ∧
    (ea.toNat % n = 0 → sp = true → ea.toNat < 2 ^ 20 → ea.toNat + n ≤ (s.teamOf u).spSize →
      (k ≠ .load ∧ k ≠ .atomic) ∨ s.spPoisoned u.place (s.teamSlot u) ea.toNat n = false →
      s.accessCheck u sp k n req ea = .ok { addr := ea, xl := none }) ∧
    (ea.toNat % n = 0 → sp = true → ea.toNat < 2 ^ 20 → ea.toNat + n ≤ (s.teamOf u).spSize → k = .load ∨ k = .atomic →
      s.spPoisoned u.place (s.teamSlot u) ea.toNat n = true → s.accessCheck u sp k n req ea = .error (fltAt 0x12 ea)) ∧
    (ea.toNat % n = 0 → sp = false → 2 ^ 56 ≤ ea.toNat →
      s.accessCheck u sp k n req ea = .error { cause := 2, detail := 0, addr := ea, kind := k.code, level := 3 }) ∧
    (ea.toNat % n = 0 → sp = false → ∀ e, s.translate u.node (s.ctxOf u) ea k = .error e → s.accessCheck u sp k n req ea = .error e) ∧
    (ea.toNat % n = 0 → sp = false → ∀ x, s.translate u.node (s.ctxOf u) ea k = .ok x →
      let a := x.at_ u.node
      let hidden (sec : Nat) : Prop := (effPol x req = 2 ∧ ((s.caches u.node).line sec).isSome = true) ∨
        ∃ w ∈ (s.caches u.node).wbuf, w.pa = 64 * sec ∧ 64 ≤ w.bytes.length
      let meets : Prop := ∃ b, a ≤ b ∧ b < a + n ∧ s.poison.contains (b / 64) = true ∧ ¬ hidden (b / 64)
      (¬ ((k = .load ∨ k = .atomic) ∧ meets) → s.accessCheck u sp k n req ea = .ok { addr := ea, xl := some x }) ∧
      ((k = .load ∨ k = .atomic) → meets → s.accessCheck u sp k n req ea =
        .error { cause := 0x12, detail := 0, addr := ea, kind := k.code, level := 0, used := some k }))

/-! Scalar arithmetic. -/

/-- spec/08 R183, R186 to R191, R198: the uniform operations with one result: S[d] and the uniform latch take it. NOP changes nothing
but the PC and a latch, and neither it nor GETFMT ends the run; SETFMT, which does, sets fmt to bits 4 to 0 of its source. Fields that must be 0 and are not, and the
modifiers of GCMP that R191 reserves, raise reserved-modifier. -/
def Obligations.ScalarResults : Prop :=
  ∀ (s : State) (u : UnitId) (f : GA),
    let x := s.srcG u f.a.toNat
    let y := s.sget u f.b.toNat
    (∀ (i : Instr) (v : Dword), ((i, v) ∈ ([(.gadd f, x + y), (.gsub f, x - y), (.gmul f, x * y), (.gand f, x &&& y),
        (.gor f, x ||| y), (.gxor f, x ^^^ y), (.gshl f, x <<< y.toNat), (.gshr f, x >>> y.toNat),
        (.gsar f, x.sshiftRight y.toNat), (.gmin f, BitVec.ofInt 64 (min x.toInt y.toInt)),
        (.gmax f, BitVec.ofInt 64 (max x.toInt y.toInt)),
        (.mpop f, BitVec.ofNat 64 ((List.range 64).countP fun b => x.getLsbD b)),
        (.mffs f, BitVec.ofNat 64 ((List.range 64).findIdx fun b => x.getLsbD b)),
        (.getfmt f, (s.thread u).fmt.setWidth 64)] : List (Instr × Dword))) →
      s.Issues u i → ∃ t, exec i s = .next t ∧ s.ScalarDone t u i f.d.toNat f.k v) ∧
    (∀ g : GI, s.Issues u (.gaddi g) → ∃ t, exec (.gaddi g) s = .next t ∧
      s.ScalarDone t u (.gaddi g) g.d.toNat g.k (s.srcG u g.a.toNat + g.imm.signExtend 64)) ∧
    (∀ l : Lit, (s.Issues u (.gli f l) → ∃ t, exec (.gli f l) s = .next t ∧
        s.ScalarDone t u (.gli f l) f.d.toNat f.k (l.lit.signExtend 64)) ∧
      (s.Issues u (.glih f l) → ∃ t, exec (.glih f l) s = .next t ∧
        s.ScalarDone t u (.glih f l) f.d.toNat f.k (BitVec.ofNat 64 (l.lit.toNat * 2 ^ 32 + x.toNat % 2 ^ 32)))) ∧
    (s.Issues u (.gsel f) →
      (f.k = false → ∃ t, exec (.gsel f) s = .next t ∧ s.ScalarDone t u (.gsel f) f.d.toNat false
        (s.sget u f.d.toNat &&& x ||| ~~~(s.sget u f.d.toNat) &&& y)) ∧
      (f.k = true → exec (.gsel f) s = .next (s.faultUnit u (fltD 0x23 0)))) ∧
    (∀ q : GcmpX, s.Issues u (.gcmp f q) → ∃ t, exec (.gcmp f q) s = .next t ∧
      let z : Dword := if q.bi then q.imm.signExtend 64 else y
      let lt := if q.u then decide (x.toNat < z.toNat) else decide (x.toInt < z.toInt)
      let holds := match q.cc.toNat with
        | 0 => x == z | 1 => x != z | 2 => lt | 3 => lt || x == z | 4 => !(lt || x == z) | 5 => !lt
        | 6 => x &&& z != 0 | _ => x &&& z == 0
      s.ScalarDone t u (.gcmp f q) f.d.toNat f.k (if holds then (if q.all then BitVec.allOnes 64 else 1) else 0)) ∧
    (s.Issues u (.nop f) → ∃ t, exec (.nop f) s = .next t ∧ s.PlainDone t u (.nop f) false) ∧
    ((Instr.nop f).endsRun = false ∧ (Instr.getfmt f).endsRun = false ∧ (Instr.setfmt f).endsRun = true) ∧
    (s.Issues u (.setfmt f) → ∃ t, exec (.setfmt f) s = .next t ∧
      (s.onThread u fun t => { t with fmt := BitVec.ofNat 32 ((s.srcG u f.a.toNat).toNat % 32) }).PlainDone t u (.setfmt f) false) ∧
    (∀ (i : Instr) (bad : Bool), ((i, bad) ∈ ([(.nop f, f.k || f.d != 0 || f.a != 0 || f.b != 0), (.mpop f, f.b != 0), (.mffs f, f.b != 0)] :
        List (Instr × Bool))) → s.turn = some u → bad = true → exec i s = .next (s.faultUnit u (fltD 0x22 0))) ∧
    (∀ l : Lit, s.turn = some u →
      (f.a ≠ 0 ∨ f.b ≠ 0 → exec (.gli f l) s = .next (s.faultUnit u (fltD 0x22 0))) ∧
      (f.b ≠ 0 → exec (.glih f l) s = .next (s.faultUnit u (fltD 0x22 0)))) ∧
    (∀ q : GcmpX, s.turn = some u → (s.thread u).pc.toNat % 64 ≠ 60 →
      (q.u = true ∧ q.cc.toNat ∈ [0, 1, 6, 7]) ∨ (q.bi = false ∧ q.imm ≠ 0) ∨ (q.bi = true ∧ f.b ≠ 0) ∨ q.res ≠ 0 →
      exec (.gcmp f q) s = .next (s.faultUnit u (fltD 0x22 0)))

/-! Control. -/

/-- spec/08 R185, R192, spec/07 R167: BR, BRC and BRX end the run and start the next at their target: displacements count words
from the instruction's own address, an address operand has bits 55 to 2. BRD whose mask does not divide the path goes one way,
with no new path (spec/08 R193, spec/05 R124). -/
def Obligations.Branches : Prop :=
  ∀ (s : State) (u : UnitId),
    (∀ f : GB, s.Issues u (.br f) → ∃ t, exec (.br f) s = .next t ∧
      s.JumpDone t u ((s.thread u).pc + BitVec.ofInt 64 (4 * f.disp.toInt))) ∧
    (∀ f : GC, s.Issues u (.brc f) → ∃ t, exec (.brc f) s = .next t ∧
      s.JumpDone t u ((s.thread u).pc + if s.srcG u f.c.toNat = 0 then 4 else BitVec.ofInt 64 (4 * f.disp.toInt))) ∧
    (∀ f : GA, s.Issues u (.brx f) → ∃ t, exec (.brx f) s = .next t ∧
      s.JumpDone t u (s.srcG u f.a.toNat &&& 0xFFFFFFFFFFFFFC)) ∧
    (∀ f : GC, s.Issues u (.brd f) → u.isPath = true →
      let m := s.srcG u f.c.toNat
      (s.maskOf u &&& ~~~m = 0 → ∃ t, exec (.brd f) s = .next t ∧
        s.JumpDone t u ((s.thread u).pc + BitVec.ofInt 64 (4 * f.disp.toInt))) ∧
      (s.maskOf u &&& ~~~m ≠ 0 → s.maskOf u &&& m = 0 → ∃ t, exec (.brd f) s = .next t ∧ s.JumpDone t u ((s.thread u).pc + 4)))

/-- spec/05 R124: BRD whose mask divides the path. At top level, with every slice of four lanes going one way and an entry free,
the taken lanes are a new path at the target; where slices divide, each kind of whole slice is a new path, the divided ones are a pair
of arms over one stack entry, the path itself the arm that falls through; under a stack, inside an arm, or with too few entries free, the
taken lanes go first and an entry holds the others, or the path takes the divergence fault where the stack is full. -/
def Obligations.BrdDivides : Prop :=
  ∀ (s : State) (c g i : Nat) (f : GC),
    let u := UnitId.path c g i
    let k := s.group c g
    let p := k.path i
    let m := s.srcG u f.c.toNat
    let target := p.th.pc + BitVec.ofInt 64 (4 * f.disp.toInt)
    let taken := p.mask &&& m
    let others := p.mask &&& ~~~m
    let fall := p.th.pc + 4
    let whole (x : Dword) (l : Nat) : Prop := p.mask.getLsbD l = true ∧ ∀ b, b < 64 → b / 4 = l / 4 → p.mask.getLsbD b = true → x.getLsbD b = true
    let slots := (List.range 32).filter fun n => !k.paths.has n
    let some1 (x : Dword) : Nat := if x = 0 then 0 else 1
    s.Issues u (.brd f) → taken ≠ 0 → others ≠ 0 → ∀ ts ns x : Dword,
    (∀ l, l < 64 → (ts.getLsbD l = true ↔ whole taken l)) → (∀ l, l < 64 → (ns.getLsbD l = true ↔ whole others l)) →
    x = p.mask &&& ~~~(ts ||| ns) →
    let need := some1 ts + some1 ns + 2 * some1 x - 1
    let short : Prop := p.arm = true ∨ p.stkv = true ∨ slots.length < need
    let starts (q : Path) (lanes pc : Dword) : Prop := q.mask = lanes ∧ q.th.pc = pc ∧ q.th.runpc = pc ∧ q.th.state = .ready ∧
      q.th.run = Run.fresh ∧ q.wb = p.wb ∧ q.th.fmt = p.th.fmt ∧ q.fam = p.fam
    (∀ e, p.arm = false → p.stkv = false → x ≠ 0 → need ≤ slots.length → k.stack.free 64 = some e →
      let news : List (Dword × Dword) := (if ts = 0 then [] else [(ts, target)]) ++ (if ns = 0 then [] else [(ns, fall)])
      let a := slots.getD news.length 0
      ∃ t, exec (.brd f) s = .next t ∧ s.UnitsOnly t ∧
        (t.group c g).stack = k.stack.put e { StackEntry.none with rmask := x, fmt := p.th.fmt, kind := true } ∧
        (∀ n y, news[n]? = some y → let q := (t.group c g).path (slots.getD n 0)
          starts q y.1 y.2 ∧ q.arm = false ∧ q.stkv = false) ∧
        (let q := (t.group c g).path a
         starts q (x &&& m) target ∧ q.arm = true ∧ q.partner = i ∧ q.stk = e ∧ q.stkv = true) ∧
        (let q := (t.group c g).path i
         starts q (x &&& ~~~m) fall ∧ q.arm = true ∧ q.partner = a ∧ q.stk = e ∧ q.stkv = true) ∧
        (∀ r, t.sget u r = s.sget u r) ∧ (∀ l r, l < 64 → t.vget u l r = s.vget u l r) ∧
        ∀ n, n ≠ i → n ∉ slots.take need → ((t.group c g).path n).mask = (k.path n).mask ∧ ((t.group c g).path n).th.pc = (k.path n).th.pc) ∧
    (∀ j, p.arm = false → p.stkv = false → k.paths.free 32 = some j →
      (∀ a b, a < 64 → b < 64 → a / 4 = b / 4 → p.mask.getLsbD a = true → p.mask.getLsbD b = true → m.getLsbD a = m.getLsbD b) →
      ∃ t, exec (.brd f) s = .next t ∧ s.UnitsOnly t ∧ j ≠ i ∧ (t.group c g).stack = k.stack ∧
        (let q := (t.group c g).path i
         q.mask = others ∧ q.th.pc = p.th.pc + 4 ∧ q.th.runpc = p.th.pc + 4 ∧ q.th.state = .ready ∧ q.th.run = Run.fresh ∧
         q.wb = p.wb ∧ q.arm = false ∧ q.stkv = false ∧ q.th.fmt = p.th.fmt ∧ q.fam = p.fam) ∧
        (let q := (t.group c g).path j
         q.mask = taken ∧ q.th.pc = target ∧ q.th.runpc = target ∧ q.th.state = .ready ∧ q.th.run = Run.fresh ∧
         q.wb = p.wb ∧ q.arm = false ∧ q.stkv = false ∧ q.th.fmt = p.th.fmt ∧ q.fam = p.fam) ∧
        (∀ r, t.sget u r = s.sget u r) ∧ (∀ l r, l < 64 → t.vget u l r = s.vget u l r) ∧
        ∀ n, n ≠ i → n ≠ j → ((t.group c g).path n).mask = (k.path n).mask ∧ ((t.group c g).path n).th.pc = (k.path n).th.pc) ∧
    (∀ e, short → k.stack.free 64 = some e →
      ∃ t, exec (.brd f) s = .next t ∧ s.UnitsOnly t ∧
        (t.group c g).stack.find e = some { StackEntry.none with
          rmask := p.mask, pmask := others, ppc := p.th.pc + 4, fmt := p.th.fmt, next := p.stk, nextv := p.stkv } ∧
        (∀ n, n ≠ e → (t.group c g).stack.find n = k.stack.find n) ∧
        (let q := (t.group c g).path i
         q.mask = taken ∧ q.th.pc = target ∧ q.th.runpc = target ∧ q.th.state = .ready ∧ q.th.run = Run.fresh ∧
         q.wb = p.wb ∧ q.arm = p.arm ∧ q.stk = e ∧ q.stkv = true ∧ q.th.fmt = p.th.fmt) ∧
        (∀ r, t.sget u r = s.sget u r) ∧ (∀ l r, l < 64 → t.vget u l r = s.vget u l r) ∧
        ∀ n, n ≠ i → (t.group c g).path n = k.path n) ∧
    (short ∨ x ≠ 0 → k.stack.free 64 = none → exec (.brd f) s = .next (s.faultUnit u (fltD 0x28 0)))

/-- spec/05 R125: JOIN with no divergence open goes on; with a serial entry on top the path takes the waiting lanes at their
address, then, at the same address again, all the lanes; an arm waits for its partner, and the two merge into the lower entry, or both
both take the fault where they stand at different addresses or windows (that a path commits its run as it arrives to wait, at a JOIN or a
REGANG, is the model's reading: notes/assumptions/12.md); an arm whose partner's entry was freed merges alone, into its own
entry (the model's reading: notes/assumptions/70.md).
spec/05 R127: REGANG of a path that holds every live lane goes on; while a live lane is elsewhere the path waits; the one that completes
the live lanes merges all that wait into the lowest entry, or each takes the fault where they disagree; inside an arm or under a stack it
is a fault at once. -/
def Obligations.JoinsAndRegangs : Prop :=
  (∀ (s : State) (c g i : Nat) (f : GA),
    let u := UnitId.path c g i
    let s' := s.dropOut u none
    let k := s'.group c g
    let p := k.path i
    let e := k.stack.get p.stk StackEntry.none
    let j := p.th.pc
    s.Issues u (.join f) →
    (p.stkv = false → p.arm = false → ∃ t, exec (.join f) s = .next t ∧ s'.JumpDone t u (j + 4)) ∧
    (p.stkv = true → e.kind = false → e.half = false → ∃ t, exec (.join f) s = .next t ∧ s'.UnitsOnly t ∧
      (t.group c g).stack = k.stack.put p.stk { e with half := true, ppc := j, pmask := 0 } ∧
      (t.group c g).path i = { p with mask := e.pmask, th := { (p.th.restart e.ppc) with fmt := e.fmt } } ∧
      (∀ r, t.sget u r = s.sget u r) ∧ ∀ n, n ≠ i → (t.group c g).path n = k.path n) ∧
    (p.stkv = true → e.kind = false → e.half = true → (e.nochk = true ∨ j = e.ppc) →
      ∃ t, exec (.join f) s = .next t ∧ s'.UnitsOnly t ∧ (t.group c g).stack = k.stack.drop p.stk ∧
      (t.group c g).path i = { p with
        mask := e.rmask, stk := if e.nextv then e.next else 0, stkv := e.nextv, th := { (p.th.restart (j + 4)) with fmt := e.fmt } } ∧
      (∀ r, t.sget u r = s.sget u r) ∧ ∀ n, n ≠ i → (t.group c g).path n = k.path n) ∧
    (p.stkv = true → e.kind = false → e.half = true → e.nochk = false → j ≠ e.ppc →
      exec (.join f) s = .next (s'.faultUnit u (fltD 0x28 1))) ∧
    (∀ q, p.stkv = true → e.kind = true → p.arm = true → p.partner ≠ i → k.paths.find p.partner = some q → q.arm = true →
      q.partner = i →
      (q.th.state ≠ .atJoin → ∃ t, exec (.join f) s = .next t ∧ s'.Own t u ∧ (t.thread u).state = .atJoin ∧
        (t.thread u).pc = j ∧ (∀ r, t.sget u r = s.sget u r)) ∧
      (q.th.state = .atJoin → q.th.pc = j → q.wb = p.wb → i < p.partner → ∃ t, exec (.join f) s = .next t ∧ s'.UnitsOnly t ∧
        (t.group c g).stack = k.stack.drop p.stk ∧ (t.group c g).paths.find p.partner = none ∧
        (t.group c g).path i = { p with
          mask := p.mask ||| q.mask, arm := false, partner := 0, stk := if e.nextv then e.next else 0, stkv := e.nextv
          th := { (p.th.restart (j + 4)) with fmt := e.fmt } } ∧
        ∀ r, t.sget u r = s.sget u r) ∧
      (q.th.state = .atJoin → q.th.pc = j → q.wb = p.wb → p.partner < i → q.stk = p.stk → ∃ t, exec (.join f) s = .next t ∧ s'.UnitsOnly t ∧
        (t.group c g).stack = k.stack.drop p.stk ∧ (t.group c g).paths.find i = none ∧
        (t.group c g).path p.partner = { q with
          mask := p.mask ||| q.mask, arm := false, partner := 0, stk := if e.nextv then e.next else 0, stkv := e.nextv
          th := { (q.th.restart (j + 4)) with fmt := e.fmt } } ∧
        (∀ n, n ≠ i → n ≠ p.partner → (t.group c g).path n = k.path n) ∧ ∀ r, (t.group c g).sregs.get r 0 = s.sget u r) ∧
      (q.th.state = .atJoin → q.th.pc ≠ j ∨ q.wb ≠ p.wb →
        exec (.join f) s = .next ((s'.faultUnit u (fltD 0x28 1)).faultUnit (.path c g p.partner) (fltD 0x28 1)))) ∧
    (p.stkv = true → e.kind = true → p.arm = true → (∀ q, k.paths.find p.partner = some q → q.arm = false ∨ q.partner ≠ i) →
      ∃ t, exec (.join f) s = .next t ∧ s'.UnitsOnly t ∧ (t.group c g).stack = k.stack.drop p.stk ∧
        (t.group c g).path i = { p with
          arm := false, partner := 0, stk := if e.nextv then e.next else 0, stkv := e.nextv
          th := { (p.th.restart (j + 4)) with fmt := e.fmt } } ∧
        (∀ n, n ≠ i → (t.group c g).path n = k.path n) ∧ ∀ r, t.sget u r = s.sget u r)) ∧
  (∀ (s : State) (c g i : Nat) (f : GA),
    let u := UnitId.path c g i
    let s' := s.dropOut u none
    let k := s'.group c g
    let p := k.path i
    s.Issues u (.regang f) →
    (p.arm = false → p.stkv = false → (∀ q ∈ k.paths.cells, q.2.th.state ≠ .atRegang) →
      ((∀ l, l < 64 → k.live.getLsbD l = true → p.mask.getLsbD l = true) → ∃ t, exec (.regang f) s = .next t ∧ s'.JumpDone t u (p.th.pc + 4)) ∧
      (∀ l, l < 64 → k.live.getLsbD l = true → p.mask.getLsbD l = false → ∃ t, exec (.regang f) s = .next t ∧ s'.Own t u ∧
        (t.thread u).state = .atRegang ∧ (t.thread u).pc = p.th.pc ∧ ∀ r, t.sget u r = s.sget u r)) ∧
    (p.arm = false → p.stkv = false → k.paths.keys.Pairwise (· < ·) → k.paths.has i = true →
      let waits (n : Nat) : Prop := n = i ∨ (k.paths.has n = true ∧ (k.path n).th.state = .atRegang)
      let held (l : Nat) : Prop := ∃ n, waits n ∧ (k.path n).mask.getLsbD l = true
      let stands (n : Nat) : Prop := (k.path n).th.pc = p.th.pc ∧ (k.path n).wb = p.wb
      let came := ((s'.commit u).leave u).onThread u fun t => { (t.restart t.pc) with state := .atRegang }
      (∀ l, l < 64 → k.live.getLsbD l = true → ¬ held l → exec (.regang f) s = .next came) ∧
      ((∀ l, l < 64 → k.live.getLsbD l = true → held l) →
        (∀ m, waits m → (∀ n, waits n → m ≤ n) → (∀ n, waits n → stands n) → ∃ t, exec (.regang f) s = .next t ∧ s'.UnitsOnly t ∧
          (t.group c g).stack = k.stack ∧
          (let z := (t.group c g).path m
           z.th.pc = p.th.pc + 4 ∧ z.th.runpc = p.th.pc + 4 ∧ z.th.state = .ready ∧ z.th.run = Run.fresh ∧ z.wb = p.wb ∧
            z.th.fmt = (k.path m).th.fmt ∧ ∀ l, l < 64 → (z.mask.getLsbD l = true ↔ held l)) ∧
          (∀ n, waits n → n ≠ m → (t.group c g).paths.find n = none) ∧ (∀ n, ¬ waits n → (t.group c g).path n = k.path n) ∧
          ∀ r, (t.group c g).sregs.get r 0 = s.sget u r) ∧
        ((∃ n, waits n ∧ ¬ stands n) → exec (.regang f) s =
          .next ((k.paths.keys.filter fun n => n == i || (k.path n).th.state == .atRegang).foldl
            (fun y n => y.faultUnit (.path c g n) (fltD 0x28 2)) came)))) ∧
    ((p.arm = true ∨ p.stkv = true) → exec (.regang f) s = .next (s'.faultUnit u (fltD 0x28 3))))

/-- spec/05 R126: IDLE takes lanes out of the path and the group's live lanes; the path goes on with the others, or, with none
left and no divergence open, its entry is freed.
spec/05 R128, spec/08 R194: EXIT of the only path, with every live lane and no divergence open, ends its group's lanes;
otherwise it is a fault. EXIT of a sequencer ends its stream, of a lantern program the program. -/
def Obligations.IdlesAndExits : Prop :=
  (∀ (s : State) (c g i : Nat) (f : GA),
    let u := UnitId.path c g i
    let k := s.group c g
    let p := k.path i
    let x := p.mask &&& s.srcG u f.a.toNat
    s.Issues u (.idle f) → p.stkv = false → (∀ q ∈ k.paths.cells, q.2.th.state ≠ .atRegang) →
    (p.mask &&& ~~~x ≠ 0 → ∃ t, exec (.idle f) s = .next t ∧ s.UnitsOnly t ∧ (t.group c g).idle = k.idle ||| x ∧
      (t.group c g).stack = k.stack ∧ (t.group c g).path i = { p with mask := p.mask &&& ~~~x, th := p.th.restart (p.th.pc + 4) } ∧
      (∀ r, t.sget u r = s.sget u r) ∧ (∀ l r, l < 64 → t.vget u l r = s.vget u l r) ∧
      ∀ n, n ≠ i → (t.group c g).path n = k.path n) ∧
    (p.mask &&& ~~~x = 0 → p.arm = false → ∃ t, exec (.idle f) s = .next t ∧ s.UnitsOnly t ∧
      (t.group c g).idle = k.idle ||| x ∧ (t.group c g).stack = k.stack ∧ (t.group c g).paths.find i = none ∧
      ∀ n, n ≠ i → ((t.group c g).path n).mask = (k.path n).mask ∧ ((t.group c g).path n).th.pc = (k.path n).th.pc)) ∧
  (∀ (s : State) (f : GA),
    (∀ c g i, let u := UnitId.path c g i
      let s' := s.dropOut u none
      let k := s'.group c g
      let p := k.path i
      let legal := k.paths.cells.length = 1 ∧ p.arm = false ∧ p.stkv = false ∧ k.live &&& ~~~p.mask = 0
      s.Issues u (.exit f) →
      (legal → ∃ t, exec (.exit f) s = .next t ∧ s'.UnitsOnly t ∧ t.turn = none ∧ (t.group c g).exited = k.exited ||| k.live ∧
        (t.group c g).live = 0 ∧ (t.group c g).paths.find i = none ∧ (t.group c g).sregs = k.sregs.over p.th.run.sOver ∧
        (t.group c g).vregs = k.vregs.over p.th.run.vOver ∧ ∀ c' g', (c' ≠ c ∨ g' ≠ g) → t.group c' g' = s'.group c' g') ∧
      (¬ legal → exec (.exit f) s = .next (s'.faultUnit u (fltD 0x29 0)))) ∧
    (∀ c k, let u := UnitId.seq c k
      s.Issues u (.exit f) → (s.team c k).haltPending = [] → ∃ t, exec (.exit f) s = .next t ∧ s.UnitsOnly t ∧
        (t.team c k).seqExited = true ∧ t.alive u = false ∧ ∀ c' g', t.group c' g' = s.group c' g') ∧
    (∀ l p gr, let u := UnitId.lant l p
      s.Issues u (.exit f) → s.grids.find (s.prog l p).grid = some gr → ∃ t, exec (.exit f) s = .next t ∧ t.alive u = false ∧
        t.grids.find (s.prog l p).grid = some { gr with retired := gr.retired + 1 } ∧ t.mem = s.mem ∧ t.cores = s.cores ∧
        ∀ l' p', (l' ≠ l ∨ p' ≠ p) → t.prog l' p' = s.prog l' p'))

/-- spec/05 R131, spec/08 R195, R196: CALL writes the link and moves a path's window up by n, RET moves it down; v0 to v15 stay and
v16 on are renumbered. Beyond the ends of the stack they fault. A window that is not resident waits for the spill engine. -/
def Obligations.CallsAndReturns : Prop :=
  ∀ (s : State) (u : UnitId) (f : GA),
    (∀ x : CallX, s.Issues u (.call f x) →
      let pc := (s.thread u).pc
      let wb := (s.pathOf u).wb
      let n := f.b.toNat
      let target := pc + BitVec.ofInt 64 (4 * x.disp.toInt)
      let link : Dword := BitVec.ofNat 64 (n * 2 ^ 56 + (pc.toNat + 8) % 2 ^ 64 / 4 % 2 ^ 54 * 4)
      let go := x.cen = false ∨ (x.csense = true ↔ s.srcG u x.c.toNat ≠ 0)
      (¬ go → ∃ t, exec (.call f x) s = .next t ∧ s.JumpDone t u (pc + 8)) ∧
      (go → u.isPath = false → ∃ t, exec (.call f x) s = .next t ∧ (s.sput u f.d.toNat link).JumpDone t u target) ∧
      (go → u.isPath = true → (n = 0 ∨ wb + n + 48 ≤ 1024) →
        (s.spillBase (s.teamOf u) ≠ 0 ∨ (s.groupOf u).needsSpill (s.maskOf u) (wb + n) = false) →
        ∃ t, exec (.call f x) s = .next t ∧ ((s.sput u f.d.toNat link).onPathOf u fun p => { p with wb := wb + n }).Own t u ∧
          (t.pathOf u).wb = wb + n ∧ (t.thread u).pc = target ∧ (t.thread u).runpc = target ∧ t.sget u f.d.toNat = link ∧
          (∀ r, r ≠ f.d.toNat → t.sget u r = s.sget u r) ∧
          (∀ l k, l < 64 → (k < 16 → t.vget u l k = s.vget u l k) ∧ (16 ≤ k → t.vget u l k = s.vget u l (k + n))) ∧
          (t.thread u).state = (if ((s.groupOf u).unresident (s.maskOf u) (wb + n)).isEmpty then .ready else .spill)) ∧
      (go → u.isPath = true → 1 ≤ n → 1024 < wb + n + 48 → exec (.call f x) s = .next (s.faultUnit u (fltD 0x2A 0)))) ∧
    (s.Issues u (.ret f) →
      let link := s.srcG u f.a.toNat
      let n := link.toNat / 2 ^ 56
      let wb := (s.pathOf u).wb
      let target := link &&& 0xFFFFFFFFFFFFFC
      (u.isPath = false → n = 0 → ∃ t, exec (.ret f) s = .next t ∧ s.JumpDone t u target) ∧
      (u.isPath = true → 1 ≤ n → n ≤ 48 → n ≤ wb → ∃ t, exec (.ret f) s = .next t ∧
        (s.onPathOf u fun p => { p with wb := wb - n }).Own t u ∧ (t.pathOf u).wb = wb - n ∧ (t.thread u).pc = target ∧
        (∀ r, t.sget u r = s.sget u r) ∧
        (∀ l k, l < 64 → (k < 16 → t.vget u l k = s.vget u l k) ∧ (16 + n ≤ k → t.vget u l k = s.vget u l (k - n))) ∧
        (t.thread u).state = (if ((s.groupOf u).unresident (s.maskOf u) (wb - n)).isEmpty then .ready else .spill)) ∧
      ((u.isPath = false ∧ n ≠ 0) ∨ (u.isPath = true ∧ (n = 0 ∨ 48 < n ∨ wb < n)) →
        exec (.ret f) s = .next (s.faultUnit u (fltD 0x2B 0))))

/-! What a team shares. -/

/-- spec/08 R199, spec/05 R119: QPUT appends to a queue of fewer than 16 entries, QGET takes the oldest; otherwise they wait. -/
def Obligations.Queues : Prop :=
  ∀ (s : State) (u : UnitId) (f : GA),
    let s' := s.dropOut u none
    let q := f.b.toNat
    let l := (s.teamOf u).queues.get q []
    (∀ a, s.ComesTo u (.qput f) (.queueWaitEnd u) a →
      (l.length < 16 → ∃ t, a = .next t ∧
        (s'.onTeamOf u fun k => { k with queues := k.queues.put q (l ++ [s.srcG u f.a.toNat]) }).PlainDone t u (.qput f) false) ∧
      (16 ≤ l.length → ∃ t, a = .next t ∧ s'.WaitsIn t u (.qput f))) ∧
    (∀ a, s.ComesTo u (.qget f) (.queueWaitEnd u) a →
      (∀ v r, l = v :: r → ∃ t, a = .next t ∧
        (s'.onTeamOf u fun k => { k with queues := k.queues.put q r }).ScalarDone t u (.qget f) f.d.toNat f.k v) ∧
      (l = [] → ∃ t, a = .next t ∧ s'.WaitsIn t u (.qget f)))

/-- spec/08 R200, spec/05 R120: BAR of a participant counts its arrival and waits; the arrival that completes the set advances
the phase and the unit goes on. A role that is not declared, or a party outside the set, or another set, is a fault.
spec/14 R320: GRIDSYNC, a release at device scope, arrives for the path's lanes and waits while a lane of the grid has not arrived;
GRIDSYNC_PHASE_COMPLETE lets nobody depart before all have arrived. A grid of one resident team whose one path issues GRIDSYNC for
all its live lanes completes the phase at once, and the path departs as from an acquire. In a grid that is not cooperative it is an
illegal operand. -/
def Obligations.Barriers : Prop :=
  (∀ (s : State) (u : UnitId) (f : GA) (x : BarX), s.Issues u (.bar f x) → s.alive u = true →
    let s' := s.dropOut u none
    let c := u.place
    let k := s.teamSlot u
    let n := f.b.toNat
    let b := (s'.team c k).bar n
    let part := x.roles.toNat + (if x.seq then 16 else 0)
    let roles := max 1 (s.team c k).kernel.roles.length
    let inside := if u.isPath then x.roles.getLsbD (s.groupOf u).role else x.seq
    let arrived (z : Barrier) : Barrier := { z with
      set := some part
      arrived := match u with
        | .path _ g _ => z.arrived.put g (z.arrived.get g 0 ||| s.maskOf u)
        | _ => z.arrived
      seq := z.seq || !u.isPath }
    let a := s'.onTeam c k fun t => { t with bars := t.bars.put n (arrived b) }
    (x.roles.toNat < 2 ^ roles → inside = true → (b.set = none ∨ b.set = some part) →
      (match u with | .path _ g _ => b.arrived.get g 0 &&& s.maskOf u = 0 | _ => b.seq = false) →
      (a.barFull c k n = false → ∃ t, exec (.bar f x) s = .next t ∧ a.WaitsIn t u (.bar f x)) ∧
      (a.barFull c k n = true → ∃ t, exec (.bar f x) s = .next t ∧ ((t.team c k).bar n).phase = b.phase + 1 ∧
        (t.thread u).state = .ready ∧ (t.thread u).pc = (s.thread u).pc + 8)) ∧
    (2 ^ roles ≤ x.roles.toNat → exec (.bar f x) s = .next (s'.faultUnit u (fltD 0x23 0))) ∧
    (x.roles.toNat < 2 ^ roles → (inside = false ∨ ∃ p, b.set = some p ∧ p ≠ part) →
      exec (.bar f x) s = .next (s'.faultUnit u (fltD 0x2C n)))) ∧
  (∀ (s : State) (c k n : Nat),
    let b := (s.team c k).bar n
    (s.barFull c k n = false → exec (.barrierPhaseComplete c k n) s = .next s) ∧
    (s.barFull c k n = true → ∃ t, exec (.barrierPhaseComplete c k n) s = .next t ∧ ((t.team c k).bar n).phase = b.phase + 1 ∧
      ∀ u ∈ s.teamUnits c k, ∀ f x, (s.thread u).waiting = some (.bar f x) → f.b.toNat = n → ((s.thread u).wait.map (·.lo)) = some b.phase →
        (t.thread u).state = .ready ∧ (t.thread u).pc = (s.thread u).pc + 8 ∧
          ((∀ v ∈ s.teamUnits c k, v ≠ u → (s.thread v).run.sOver = .empty) → ∀ r, t.sget u r = s.sget u r))) ∧
  (∀ (s : State) (c g i gid : Nat) (f : GA),
    let u := UnitId.path c g i
    let r := s.release u 4
    let k := s.teamSlot u
    let came : State := r.onTeamOf u fun t => { t with gridArrived := t.gridArrived.put g (t.gridArrived.get g 0 ||| s.maskOf u) }
    let alone (z : State) : Prop := z.gridSynced gid = true ∧ s.gridTeams gid = [(c, k)] ∧ s.teamUnits c k = [.seq c k, u] ∧
      (s.thread (.seq c k)).waiting = none
    let all (z : State) : State :=
      let q : State := z.onTeam c k fun t => { t with gridArrived := .empty }
      ({ q with grids := z.grids.put gid { z.grid gid with syncPhase := (z.grid gid).syncPhase + 1 } } : State).acquire c 4
    s.gridOf u = gid →
    (s.Issues u (.gridsync f) → (s.grid gid).coop = false → exec (.gridsync f) s = .next (s.faultUnit u (fltD 0x23 0))) ∧
    (s.Issues u (.gridsync f) → (s.grid gid).coop = true → came.gridSynced gid = false → ∃ t, exec (.gridsync f) s = .next t ∧
      came.WaitsIn t u (.gridsync f)) ∧
    (s.Issues u (.gridsync f) → (s.grid gid).coop = true → alone came → ∃ t, exec (.gridsync f) s = .next t ∧
      (all came).PlainDone t u (.gridsync f) false) ∧
    (s.gridSynced gid = false → exec (.gridsyncPhaseComplete gid) s = .next s) ∧
    (alone s → (s.thread u).waiting = some (.gridsync f) → ∃ t, exec (.gridsyncPhaseComplete gid) s = .next t ∧
      (all s).PlainDone t u (.gridsync f) false) ∧
    (s.gridSynced gid = true → (s.gridTeams gid).length + (s.grid gid).retired = (s.grid gid).total ∧
      ∀ x ∈ s.gridTeams gid, ∀ n ∈ (s.core x.1).groups.cells, n.2.team = x.2 → ∀ l, l < 64 → n.2.live.getLsbD l = true →
        ((s.team x.1 x.2).gridArrived.get n.1 0).getLsbD l = true))

/-- spec/08 R201, spec/05 R121: SETG resolves an OPEN guard slot, deciding the commands it holds, or reopens one; resolving a
resolved slot is a fault. It ends its run; what it is ordered after as a release at team scope is no clause of this statement. What each kind of
unit may not set, and the fields that R201 shuts out, raise their faults. -/
def Obligations.Guards : Prop :=
  ∀ (s : State) (u : UnitId) (f : GI),
    let n := f.imm.toNat
    let wrong := (u.isPath = true ∧ n = 2) ∨ (u.isSeq = true ∧ n ∈ [0, 1, 3]) ∨ (u.isPath = false ∧ u.isSeq = false)
    (s.turn = some u → wrong → exec (.setg f) s = .next (s.faultUnit u (fltD 0x21 0))) ∧
    (s.turn = some u → ¬ wrong → n < 3 → f.a ≠ 0 → exec (.setg f) s = .next (s.faultUnit u (fltD 0x22 0))) ∧
    (s.turn = some u → ¬ wrong → 3 ≤ n ∨ f.a = 0 → f.k = true ∨ 16 ≤ f.d.toNat ∨ f.imm.toInt < 0 ∨ 4 ≤ n →
      exec (.setg f) s = .next (s.faultUnit u (fltD 0x23 0))) ∧
    (Instr.setg f).endsRun = true ∧
    (s.Issues u (.setg f) →
      let k := f.d.toNat
      let v := if f.imm = 3 then s.srcG u f.a.toNat != 0 else f.imm == 1
      let decide' (x : Cmd) : Option Cmd := match x.guard, x.go with
        | some (n, sense), none => if n = k then (if v = sense then some { x with go := some true } else none) else some x
        | _, go => if go = some false then none else some x
      (f.imm = 2 → ∃ t, exec (.setg f) s = .next t ∧
        (s.onTeamOf u fun m => { m with guards := m.guards.drop k }).PlainDone t u (.setg f) false) ∧
      (f.imm ≠ 2 → (s.teamOf u).guards.find k = none → ∃ t, exec (.setg f) s = .next t ∧
        (s.onTeamOf u fun m => { m with
          guards := m.guards.put k v
          eng := { cells := m.eng.cells.map fun q => (q.1, { q.2 with cmds := q.2.cmds.filterMap decide' }) } }).PlainDone t u (.setg f) false) ∧
      (f.imm ≠ 2 → ∀ w, (s.teamOf u).guards.find k = some w → exec (.setg f) s = .next (s.faultUnit u (fltD 0x2D k))))

/-- spec/08 R202, R203: SYSRD reads the named values of a unit, and SYSWR of sys.xflags clears the flags whose bits are
1; any other code is an illegal operand. That a code of 252 to 255 is one whatever its latch holds (notes/assumptions/73.md), that SYSWR clears at
once, what its own run has raised among them (notes/assumptions/71.md), and that a lantern program reads 0 in sys.spillbase
(notes/assumptions/77.md), are the model's readings. -/
def Obligations.SystemNames : Prop :=
  ∀ (s : State) (u : UnitId) (f : GA),
    (s.Issues u (.sysrd f) →
    let gr := s.grids.get (s.gridOf u) Grid.none
    let g := s.groupOf u
    let tm := s.teamOf u
    let common : List (Nat × Nat) := [(169, gr.nteams), (170, gr.args), (176, s.ctxOf u), (177, gr.grove), (178, u.place),
      (181, gr.kernel.energy)]
    let names : List (Nat × Nat) := match u with
      | .path _ _ i => [(160, 0), (161, g.number), (162, g.role), (163, g.width), (164, g.launched.toNat),
          (165, (g.launched &&& ~~~(g.idle ||| g.exited)).toNat), (166, (s.maskOf u).toNat), (167, i), (168, tm.number),
          (171, g.number * g.width), (173, g.alloc), (174, (s.pathOf u).wb), (175, (s.flagsSeen u).toNat)]
      | .seq _ _ => [(160, 1), (161, 0), (162, 0), (163, 0), (164, 0), (165, 0), (166, 0), (167, 0), (168, tm.number), (171, 0), (173, 0),
          (174, 0), (175, 0)]
      | .lant l p => [(160, 2), (161, 0), (162, 0), (163, 0), (164, 0), (165, 0), (166, 0), (167, 0), (168, (s.prog l p).number), (171, 0),
          (172, 0), (173, 0), (174, 0), (175, 0)]
    (∀ v, (f.a.toNat, v) ∈ common ++ names → ∃ t, exec (.sysrd f) s = .next t ∧
      s.ScalarDone t u (.sysrd f) f.d.toNat f.k (BitVec.ofNat 64 v)) ∧
    (f.a.toNat = 180 → ∃ t d, exec (.sysrd f) s = .next t ∧ t.time = s.time + d ∧ t.freeIdx = s.freeIdx + 1 ∧
      ({ s with time := t.time, freeIdx := t.freeIdx }).ScalarDone t u (.sysrd f) f.d.toNat f.k t.time) ∧
    (f.a.toNat = 179 → ∃ t d, exec (.sysrd f) s = .next t ∧
      (match u with
        | .lant l _ => ({ s with freeIdx := t.freeIdx }.onLantern l fun k => { k with clock := k.clock + d }).ScalarDone t u (.sysrd f)
            f.d.toNat f.k ((s.lantern l).clock + d)
        | _ => ({ s with freeIdx := t.freeIdx }.onCore u.place fun k => { k with clock := k.clock + d }).ScalarDone t u (.sysrd f)
            f.d.toNat f.k ((s.core u.place).clock + d))) ∧
    (f.a.toNat = 172 → u.isPath = true ∨ u.isSeq = true → ∃ t, exec (.sysrd f) s = .next t ∧
      s.ScalarDone t u (.sysrd f) f.d.toNat f.k (BitVec.ofNat 64 (if gr.spill = 0 then 0 else
        gr.spill + 4096 * (if gr.kernel.roles = [] then 1 else (gr.kernel.roles.map (·.groups)).sum) * gr.kernel.width * tm.number))) ∧
    (f.a.toNat < 160 ∨ 181 < f.a.toNat → exec (.sysrd f) s = .next (s.faultUnit u (fltD 0x23 0)))) ∧
    (s.Issues u (.syswr f) →
      (f.d.toNat = 175 → ∃ t, exec (.syswr f) s = .next t ∧ s.Own t u ∧ s.Passed t u (.syswr f) ∧
        t.flagsSeen u = s.flagsSeen u &&& ~~~((s.srcG u f.a.toNat).setWidth 7) ∧ (∀ r, t.sget u r = s.sget u r) ∧
        (∀ l r, l < 64 → t.vget u l r = s.vget u l r) ∧ (u.isPath = true → ∀ l, t.bindOf u l = s.bindOf u l)) ∧
      (f.d.toNat ≠ 175 → exec (.syswr f) s = .next (s.faultUnit u (fltD 0x23 0))))

/-! Traps. -/

/-- spec/07 R175: the checks of issue in their order, for every instruction that has a word: the unit (spec/05 R118, R137, spec/07
R179), the modifiers and unused fields (R174, R178), an extension word across a line, the operands (R165 to R168, spec/06 R148), the latches.
The instructions that end a run (spec/05 R134). The model's readings: d of an opcode with no lane result is examined under K = 1 too
(notes/assumptions/74.md), of several invalid latches the first gives DETAIL (notes/assumptions/75.md), C of CALL may be a latch
(notes/assumptions/76.md).
spec/01 R36, R37, spec/15 R326, R327: lanes of a path that fault trap or are parked, apart from the others where an entry is free.
spec/15 R326, R329: a fault of a whole unit with a handler and no trap active: the run's writes are lost, the frame names the
run's start and the instruction, and the handler starts. Causes 16 and above make no record. -/
def Obligations.ChecksAndFaults : Prop :=
  -- an extension word, and which instructions end a run
  (∀ i, hasWord i = true → i.len = 4 * (encode i).length ∧ i.endsRun = (match i with
      | .xsend _ _ | .xrecv _ _ | .st _ _ | .sts _ _ | .stq _ _ | .atom _ _ | .atoms _ _ | .acas _ _ | .acass _ _ | .aaddx _ _ | .fence _ _
      | .discard _ _ | .tadd _ _ | .rcmp _ _ | .trace _ _ | .tracea _ _ | .traceo _ _ | .vmarch _ _ | .call _ _ | .bar _ _ | .gst _ _ | .gatom _ _
      | .cpy _ _ | .layout _ _ | .zfill _ _ | .callred _ _ | .cgather _ _ | .omap _ _ | .mma _ _ | .msqd _ _ | .mtopk _ _ | .mzero _ _ | .mstore _ _
      | .maddt _ _ | .tcfg _ _ | .tevict _ _ | .trestore _ _ | .mutate _ _ | .replay _ _ | .launchd _ _ => true
      | .tsync _ | .cvbind _ | .draw _ | .result _ | .rsave _ | .rload _ | .rclr _ | .br _ | .brc _ | .brd _ | .brx _ | .join _ | .regang _ | .idle _
      | .exit _ | .ret _ | .grow _ | .setfmt _ | .qput _ | .qget _ | .setg _ | .sysrd _ | .syswr _ | .bfence _ | .bwait _ | .cvend _ | .gridsync _
      | .rqput _ | .rqputn _ | .rqget _ | .rqgetn _ | .yield _ | .sleep _ | .evsig _ | .trap _ | .trapc _ | .tret _ | .tretGoto _ | .tretKill _
      | .bkpt _ | .haltTeam _ | .haltFlush _ => true
      | _ => false)) ∧
  -- the units: step 3
  (∀ i, hasWord i = true → ∀ c g p,
    let lform := decide ((encode i).getD 0 0 < 2 ^ 31)
    let windows := match i with
      | .brd _ | .join _ | .regang _ | .idle _ | .grow _ | .gridsync _ => true
      | .call f _ => f.b != 0
      | _ => false
    let engine := match i with
      | .cpy _ _ | .layout _ _ | .zfill _ _ | .callred _ _ | .cgather _ _ | .omap _ _ | .mma _ _ | .msqd _ _ | .mtopk _ _ | .mzero _ _ | .mstore _ _
      | .maddt _ _ | .tcfg _ _ | .tevict _ _ | .trestore _ _ => true
      | .bfence _ | .haltFlush _ => true
      | _ => false
    i.wrongUnit (.path c g p) = (engine || match i with
      | .setg f => f.imm.toNat == 2
      | _ => false) ∧
    i.wrongUnit (.seq c g) = (lform || windows || match i with
      | .setg f => f.imm.toNat == 0 || f.imm.toNat == 1 || f.imm.toNat == 3
      | _ => false) ∧
    i.wrongUnit (.lant c p) = (lform || windows || engine || match i with
      | .qput _ | .qget _ | .setg _ | .bwait _ => true
      | .bar _ _ => true
      | _ => false)) ∧
  -- modifiers, reserved bits and unused fields: step 4
  (∀ i, hasWord i = true → i.firstOk = (match i with
      | .vadd f | .vsub f | .vmul f | .vmulh f | .vmad f | .vmin f | .vmax f | .vand f | .vor f | .vxor f | .vshl f | .vshr f | .vsar f | .vshfl f =>
        decide (f.m.toNat ≤ 3)
      | .vclz f | .vpopc f => decide (f.m.toNat ≤ 3) && f.b == 0
      | .vli f _ => f.a == 0 && f.b == 0 && f.m == 0
      | .vcmp f _ => decide (f.m.toNat ≤ 3) && f.d == 0
      | .fadd f | .fmul f | .ffma f | .fmin f | .fmax f => (f.m == 4 || f.m == 5)
      | .fcmp f _ => (f.m == 4 || f.m == 5) && f.d == 0
      | .bfma2 f => f.m == 5
      | .cvt f => decide (f.b.toNat ≤ 7) && f.b.toNat != f.m.toNat
      | .frcp f | .frsq f | .fsqrt f | .fexp2 f | .flog2 f | .sint f | .cost f => (f.m == 4 || f.m == 5) && f.b == 0
      | .vperm f | .vbcast f => f.m == 0
      | .vmatch f => (f.m == 1 || f.m == 3) && f.b == 0
      | .vvote f _ | .xsend f _ => (f.m == 1 || f.m == 3) && f.b == 0 && f.d == 0
      | .vreduce f => f.m != 6 && decide (f.b.toNat % 8 ≤ 5) && (decide (f.m.toNat ≤ 3) || decide (f.b.toNat % 8 ≤ 2)) && decide (f.b.toNat < 8)
      | .vscan f => f.m != 6 && decide (f.b.toNat % 8 ≤ 5) && (decide (f.m.toNat ≤ 3) || decide (f.b.toNat % 8 ≤ 2)) && decide (f.b.toNat < 16)
      | .xrecv f _ => (f.m == 1 || f.m == 3) && f.b == 0 && f.a == 0
      | .ld f _ | .lds f _ => decide (f.m.toNat ≤ 5)
      | .st f _ | .sts f _ => (f.m == 0 || f.m == 2 || f.m == 4 || f.m == 5)
      | .ldq f _ | .stq f _ | .trace f _ | .tracea f _ | .vmarch f _ => f.m == 0
      | .atom f _ | .atoms f _ => decide (f.m.toNat ≤ 4)
      | .acas f _ | .acass f _ => decide (f.m.toNat ≤ 3)
      | .aaddx f _ => f.m == 7
      | .fence f _ => f.d == 0 && f.a == 0 && f.b == 0 && f.m == 0
      | .discard f _ => f.m == 0 && f.d == 0
      | .pref f _ => decide (f.m.toNat ≤ 1) && f.d == 0
      | .accrd f _ => f.m == 4 && f.b == 0
      | .tadd f _ => (f.m == 4 || f.m == 5 || f.m == 7) && f.d == 0
      | .tnorm f _ => (f.m == 4 || f.m == 5)
      | .tnormq f _ => f.m == 6
      | .tsync f => decide (f.m.toNat ≤ 3) && f.d == 0 && f.b == 0
      | .accrdc f _ => (f.m == 5 || f.m == 6) && f.b == 0
      | .cvbind f => f.m == 0 && f.d == 0
      | .draw f => (f.m == 1 || f.m == 4) && f.a == 0
      | .drawk f => (f.m == 1 || f.m == 4)
      | .cvcur f => f.m == 1 && f.a == 0
      | .result f => f.m == 4 && f.d == 0 && f.b == 0
      | .rcmp f _ => f.m == 1 && f.b == 0
      | .traceo f _ => f.m == 0 && f.a == 0 && f.b == 0
      | .hitrd f | .vmrd f => f.m == 0 && f.a == 0
      | .hituv f => f.m == 0 && f.a == 0 && f.b == 0
      | .rsave f | .rload f => f.m == 0 && f.d == 0 && f.b == 0
      | .rclr f => f.m == 0 && f.d == 0 && f.a == 0 && f.b == 0
      | .nop f => f.d == 0 && f.a == 0 && f.b == 0 && !f.k
      | .brx f | .idle f | .ret f | .grow f | .setfmt f => f.d == 0 && f.b == 0
      | .join f | .regang f | .exit f | .cvend f | .gridsync f | .yield f => f.d == 0 && f.a == 0 && f.b == 0
      | .call f _ | .mstore f _ => f.a == 0
      | .getfmt f => f.a == 0 && f.b == 0
      | .qput f | .rqput f | .evsig f | .tretGoto f | .haltTeam f | .haltFlush f => f.d == 0
      | .qget f | .errrd f => f.a == 0
      | .bar f _ => f.d == 0 && f.a == 0
      | .setg f => (decide (3 ≤ f.imm.toNat) || f.a == 0)
      | .sysrd f | .syswr f | .mpop f | .mffs f | .rrd f | .rqget f | .rqcnt f => f.b == 0
      | .gli f _ => f.a == 0 && f.b == 0
      | .glih f _ | .mtopk f _ => f.b == 0
      | .layout f _ | .omap f _ | .maddt f _ => f.d == 0 && f.b == 0
      | .zfill f _ | .tcfg f _ | .tevict f _ | .trestore f _ => f.d == 0
      | .bfence f | .bwait f | .sleep f | .trap f | .tret f | .tretKill f | .bkpt f => f.d == 0 && f.a == 0
      | .mma f _ | .msqd f _ | .mzero f _ => f.d == 0 && f.a == 0 && f.b == 0
      | _ => true)) ∧
  (∀ i, hasWord i = true →
    let order (ord : BitVec 2) (scope : BitVec 3) : Bool := scope != 7 && (ord != 0 || scope == 0)
    let mem (b : BitVec 7) (x : MemX) : Bool := x.ix != 3 && (x.ix != 0 || b == 0) && x.res == 0 && order x.ord x.scope && x.pol != 3
    let atomic (b : BitVec 7) (x : AtomX) : Bool := x.ix != 3 && (x.ix != 0 || b == 0) && x.res == 0 && order x.ord x.scope
    let pair (ty aop : Nat) : Bool := decide ((aop ≤ 5 ∧ ty ≤ 3) ∨ (aop = 0 ∧ ty = 7) ∨ (aop = 6 ∧ ty ≤ 4) ∨ (aop = 7 ∧ ty = 4) ∨ (aop = 8 ∧ ty ≤ 3))
    let guard (gen : Bool) (slot : BitVec 4) (sense : Bool) : Bool := gen || (slot == 0 && !sense)
    i.extOk = (match i with
      | .vcmp _ x | .fcmp _ x | .vvote _ x | .xsend _ x | .xrecv _ x | .accrd _ x | .tadd _ x | .tnorm _ x | .tnormq _ x | .accrdc _ x | .rcmp _ x
      | .trace _ x | .tracea _ x | .replay _ x | .launchd _ x => x.res == 0
      | .ld f x | .pref f x => mem f.b x && decide (x.ord.toNat ≤ 1) && !x.sp
      | .st f x => mem f.b x && (x.ord == 0 || x.ord == 2) && !x.sp
      | .lds f x => mem f.b x && decide (x.ord.toNat ≤ 1) && !x.sp && x.pol == 0
      | .sts f x => mem f.b x && (x.ord == 0 || x.ord == 2) && !x.sp && x.pol == 0
      | .ldq f x => mem f.b x && decide (x.ord.toNat ≤ 1) && (!x.sp || x.pol == 0)
      | .stq f x => mem f.b x && (x.ord == 0 || x.ord == 2) && (!x.sp || x.pol == 0)
      | .atom f x | .atoms f x => atomic f.b x && pair f.m.toNat x.aop.toNat && decide (x.aop.toNat ≤ 7)
      | .acas f x | .acass f x => atomic f.b x && !x.nr && x.aop == 0
      | .aaddx f x => atomic f.b x && x.aop == 0
      | .fence _ x => x.kind != 0 && x.scope != 7 && x.res == 0
      | .discard _ x => x.ix == 0 && x.scl == 0 && x.ord == 0 && x.scope == 0 && x.pol == 0 && x.res == 0
      | .traceo _ x => x.vmask == 0 && !x.cullb && x.res == 0
      | .vmarch f x => x.res == 0 && (!x.next || (x.strm == 0 && !x.den && f.a == 0 && f.b == 0))
      | .call _ x => (x.cen || (x.c == 0 && !x.csense))
      | .bar _ x => x.res == 0 && (x.seq || x.roles != 0)
      | .gcmp f x => x.res == 0 && (x.bi || x.imm == 0) && (!x.bi || f.b == 0) && (!x.u || (x.cc != 0 && x.cc != 1 && x.cc != 6 && x.cc != 7))
      | .gld f x =>
        x.res == 0 && order x.ord x.scope && x.pol != 3 && (!x.sp || x.pol == 0) && (x.ixe || f.b == 0) && x.sz != 7 && decide (x.ord.toNat ≤ 1)
      | .gst f x =>
        x.res == 0 && order x.ord x.scope && x.pol != 3 && (!x.sp || x.pol == 0) && (x.ixe || f.b == 0) && (x.sz == 0 || x.sz == 2 || x.sz == 4 || x.sz == 6) && (x.ord == 0 || x.ord == 2)
      | .gatom f x => x.res == 0 && order x.ord x.scope && (x.ixe || f.b == 0) && (decide (x.ty.toNat ≤ 4) || x.ty == 7) && pair x.ty.toNat x.aop.toNat
      | .cpy _ x =>
        guard x.gen x.gslot x.gsense && x.res == false && x.res2 == 0 && x.pol != 3 && decide (x.mode.toNat ≤ 5) && (decide (x.mode.toNat ≤ 3) || x.soff == 0)
      | .layout _ x | .zfill _ x | .omap _ x | .mma _ x | .msqd _ x | .mtopk _ x | .mzero _ x | .maddt _ x | .tcfg _ x | .tevict _ x =>
        guard x.gen x.gslot x.gsense && x.res == 0
      | .callred _ x => guard x.gen x.gslot x.gsense && x.res == 0 && x.op != 3
      | .cgather _ x => guard x.gen x.gslot x.gsense && x.res == 0 && x.op == 0
      | .mstore _ x => guard x.gen x.gslot x.gsense && x.res == 0 && x.pol != 3 && (!x.sp || x.pol == 0)
      | .trestore _ x => guard x.gen x.gslot x.gsense && x.res == 0 && !x.clr
      | .mutate _ x => x.kind != 3 && x.res == 0
      | _ => true)) ∧
  -- operands: step 5
  (∀ i, hasWord i = true → i.opnds = (match i with
      | .vadd f | .vsub f | .vmul f | .vmulh f | .vmin f | .vmax f | .vand f | .vor f | .vxor f | .vshl f | .vshr f | .vsar f =>
        [.srcL f.a (typeW f.m), .srcL f.b (typeW f.m), .dstL f.d f.k (typeW f.m)]
      | .vmad f => [.srcL f.a (typeW f.m), .srcL f.b (typeW f.m), .regL f.d (typeW f.m)]
      | .vclz f | .vpopc f | .vreduce f | .vscan f => [.srcL f.a (typeW f.m), .dstL f.d f.k (typeW f.m)]
      | .vaddi f | .frcp f | .frsq f | .fsqrt f | .fexp2 f | .flog2 f | .sint f | .cost f => [.srcL f.a 32, .dstL f.d f.k 32]
      | .vshli f | .vshri f | .vsari f => [.srcL f.a 32, .dstL f.d f.k 32, .lim (decide (f.imm.toNat ≤ 31))]
      | .vsel f | .fadd f | .fmul f | .fmin f | .fmax f | .vperm f | .vshfl f | .vbcast f => [.srcL f.a 32, .srcL f.b 32, .dstL f.d f.k 32]
      | .vli f _ | .traceo f _ => [.dstL f.d f.k 32]
      | .vcmp f x => [.noK f.k, .srcL f.a (typeW f.m), .srcL f.b (typeW f.m), .regG x.sd]
      | .ffma f | .bfma2 f => [.srcL f.a 32, .srcL f.b 32, .regL f.d 32]
      | .fcmp f x => [.noK f.k, .srcL f.a 32, .srcL f.b 32, .regG x.sd]
      | .cvt f => [.srcL f.a (typeW (f.b.setWidth 3)), .dstL f.d f.k (typeW f.m)]
      | .vmatch f => [.srcL f.a (typeW f.m), .dstL f.d f.k 64]
      | .vvote f x => [.noK f.k, .srcL f.a (typeW f.m), .regG x.sd]
      | .xsend f _ => [.noK f.k, .srcL f.a (typeW f.m)]
      | .xrecv f _ => [.dstL f.d f.k (typeW f.m)]
      | .ld f x | .lds f x => [.srcL f.a 64, .srcLIf (x.ix != 0) f.b 32, .dstL f.d f.k (if f.m == 5 then 64 else 32)]
      | .st f x | .sts f x => [.noK f.k, .srcL f.a 64, .srcLIf (x.ix != 0) f.b 32, .regL f.d (if f.m == 5 then 64 else 32)]
      | .ldq f x => [.srcL f.a 64, .srcLIf (x.ix != 0) f.b 32, .dstL f.d f.k 32]
      | .stq f x => [.noK f.k, .srcL f.a 64, .srcLIf (x.ix != 0) f.b 32, .regL f.d 32]
      | .atom f x | .atoms f x => [.noK f.k, .srcL f.a 64, .srcLIf (x.ix != 0) f.b 32, .regL f.d (typeW f.m)]
      | .acas f x | .acass f x =>
        [.noK f.k, .srcL f.a 64, .srcLIf (x.ix != 0) f.b 32, .regL f.d 32, .lim (decide (f.d.toNat % (if decide (2 ≤ f.m.toNat) then 4 else 2) = 0))]
      | .aaddx f x => [.noK f.k, .srcL f.a 64, .srcLIf (x.ix != 0) f.b 32, .regL f.d 64]
      | .fence f _ | .mma f _ | .msqd f _ | .mzero f _ => [.noK f.k]
      | .discard f _ => [.noK f.k, .srcL f.a 64, .srcL f.b 32]
      | .pref f x => [.noK f.k, .srcL f.a 64, .srcLIf (x.ix != 0) f.b 32]
      | .accrd f _ | .accrdc f _ => [.srcL f.a 32, .dstL f.d f.k 32]
      | .tadd f _ => [.noK f.k, .srcL f.a (typeW f.m), .srcL f.b 32]
      | .tnorm f x => [.srcL f.a 32, .srcL f.b 32, .dstL f.d f.k 32, .regG x.se]
      | .tnormq f x => [.srcL f.a 32, .srcL f.b 32, .dstL f.d f.k 64, .regG x.se]
      | .tsync f | .result f => [.noK f.k, .srcL f.a 32]
      | .cvbind f => [.noK f.k, .srcL f.a 64, .srcL f.b 64]
      | .draw f => [.dstL f.d f.k 32, .lim (decide (f.b.toNat ≤ 15))]
      | .drawk f => [.srcL f.a 64, .srcL f.b 32, .dstL f.d f.k 32]
      | .cvcur f => [.dstL f.d f.k 32, .lim (decide (f.b.toNat ≤ 16))]
      | .rcmp f _ => [.srcL f.a 64, .dstL f.d f.k 32]
      | .trace f _ | .tracea f _ => [.srcL f.a 32, .srcL f.b 64, .dstL f.d f.k 32]
      | .hitrd f | .hituv f | .vmrd f => [.dstL f.d f.k 32]
      | .vmarch f x => [.srcLIf (!x.next) f.a 32, .srcLIf (!x.next) f.b 64, .dstL f.d f.k 32]
      | .rsave f | .rload f => [.noK f.k, .srcL f.a 64]
      | .rclr f | .br f | .join f | .regang f | .exit f | .cvend f | .gridsync f | .yield f | .tret f | .tretKill f => [.noK f.k]
      | .brc f | .brd f | .trapc f => [.noK f.k, .srcG f.c]
      | .brx f | .idle f | .ret f | .grow f | .setfmt f | .syswr f | .evsig f | .tretGoto f | .haltTeam f | .haltFlush f => [.noK f.k, .srcG f.a]
      | .call f x => [.noK f.k, .regG f.d, .lim (decide (f.b.toNat ≤ 48)), .srcGIf x.cen x.c]
      | .getfmt f | .errrd f => [.dstG f.d f.k]
      | .qput f => [.noK f.k, .srcG f.a, .lim (decide (f.b.toNat ≤ 7))]
      | .qget f => [.dstG f.d f.k, .lim (decide (f.b.toNat ≤ 7))]
      | .bar f _ => [.noK f.k, .lim (decide (f.b.toNat ≤ 15))]
      | .setg f => [.noK f.k, .lim (decide (f.d.toNat ≤ 15)), .lim (decide (f.imm.toNat ≤ 3)), .srcGIf (f.imm == 3) f.a]
      | .sysrd f => [.dstG f.d f.k, .lim (decide (f.a.toNat ≤ 191 ∨ 252 ≤ f.a.toNat))]
      | .gadd f | .gsub f | .gmul f | .gand f | .gor f | .gxor f | .gshl f | .gshr f | .gsar f | .gmin f | .gmax f | .mpop f | .mffs f | .gaddi f
      | .rrd f | .rqputn f | .rqcnt f => [.dstG f.d f.k, .srcG f.a]
      | .gsel f | .rqget f | .rqgetn f => [.regG f.d, .srcG f.a]
      | .gcmp f _ | .glih f _ | .gld f _ | .launchd f _ => [.dstG f.d f.k, .srcG f.a]
      | .gli f _ => [.dstG f.d f.k]
      | .gst f _ | .callred f _ | .cgather f _ | .mtopk f _ | .mutate f _ | .replay f _ => [.noK f.k, .regG f.d, .srcG f.a]
      | .gatom f x => [.regG f.d, .srcG f.a, .lim (decide (x.aop != 8 ∨ f.d.toNat ≤ 158))]
      | .cpy f x => [.noK f.k, .regG f.d, .srcG f.a, .lim (decide (x.mode.toNat ≤ 3 ∨ f.b.toNat ≤ 125))]
      | .layout f _ | .zfill f _ | .omap f _ | .maddt f _ | .tcfg f _ | .tevict f _ | .trestore f _ => [.noK f.k, .srcG f.a]
      | .bfence f | .bwait f => [.noK f.k, .lim (decide (f.imm.toNat ≤ 15))]
      | .mstore f _ => [.noK f.k, .regG f.d]
      | .rqput f => [.srcG f.a]
      | .sleep f | .trap f | .bkpt f => [.noK f.k, .lim (decide (f.imm.toNat ≤ 63))]
      | _ => [])) ∧
  (∀ m : BitVec 3, typeW m = if m = 2 ∨ m = 3 ∨ m = 7 then 64 else 32) ∧
  (∀ (i : Instr) (b k : Bool) (c : BitVec 7) (d : BitVec 6) (n : BitVec 8) (w : Nat),
    let src : Bool := (decide (c.toNat < 68) || decide (71 < c.toNat)) && !(decide (c.toNat < 64) && w == 64 && c.getLsbD 0)
    let even : Bool := w != 64 || !d.getLsbD 0
    let uni : Bool := decide (n.toNat < 160) || decide (251 < n.toNat)
    let lat : Option (Bool × Nat) := if 64 ≤ c.toNat ∧ c.toNat < 68 then some (true, c.toNat - 64) else none
    let ulat : Option (Bool × Nat) := if 252 ≤ n.toNat then some (false, n.toNat - 252) else none
    i.opndsOk = i.opnds.all Opnd.ok ∧ (Opnd.srcL c w).ok = src ∧ (Opnd.srcLIf b c w).ok = (!b || src) ∧ (Opnd.regL d w).ok = even ∧
      (Opnd.dstL d k w).ok = (k || even) ∧ (Opnd.srcG n).ok = uni ∧ (Opnd.srcGIf b n).ok = (!b || uni) ∧
      (Opnd.regG n).ok = decide (n.toNat < 160) ∧ (Opnd.dstG n k).ok = (k || decide (n.toNat < 160)) ∧ (Opnd.noK k).ok = !k ∧ (Opnd.lim b).ok = b ∧
      (Opnd.srcL c w).latch = lat ∧ (Opnd.srcLIf b c w).latch = (if b then lat else none) ∧ (Opnd.srcG n).latch = ulat ∧
      (Opnd.srcGIf b n).latch = (if b then ulat else none) ∧ (Opnd.regL d w).latch = none ∧ (Opnd.dstL d k w).latch = none ∧
      (Opnd.regG n).latch = none ∧ (Opnd.dstG n k).latch = none ∧ (Opnd.noK k).latch = none ∧ (Opnd.lim b).latch = none) ∧
  (∀ (s : State) (u : UnitId) (i : Instr), hasWord i = true → s.turn = some u →
    let cut := i.len = 8 ∧ (s.thread u).pc.toNat % 64 = 60
    let bad (p : Bool × Nat) : Bool := !(s.thread u).run.latchValid p.1 p.2
    let latches := i.opnds.filterMap Opnd.latch
    (i.wrongUnit u = true → exec i s = .next (s.faultUnit u (fltD 0x21 0))) ∧
    (i.wrongUnit u = false → (i.firstOk = false ∨ (¬ cut ∧ i.extOk = false)) → exec i s = .next (s.faultUnit u (fltD 0x22 0))) ∧
    (i.wrongUnit u = false → i.firstOk = true → (cut ∨ (i.extOk = true ∧ i.opndsOk = false)) →
      exec i s = .next (s.faultUnit u (fltD 0x23 0))) ∧
    (∀ p, i.wrongUnit u = false → i.firstOk = true → ¬ cut → i.extOk = true → i.opndsOk = true → latches.find? bad = some p →
      exec i s = .next (s.faultUnit u (fltD 0x24 p.2)))) ∧
  (∀ (s : State) (u : UnitId) (cause detail : Nat), 16 ≤ cause → (u.isPath = true → s.maskOf u ≠ 0) →
    (s.ctx (s.ctxOf u)).trapv ≠ 0 → (s.thread u).frame.active = false →
    let t := s.faultUnit u (fltD cause detail)
    s.Own t u ∧ s.TrapSees t u cause detail 0 (s.maskOf u) (s.thread u).runpc (s.thread u).pc ∧
      (∀ r, t.sget u r = (s.sregs u).get r 0) ∧
      ∀ l r, l < 64 → t.vget u l r = (s.groupOf u).vreg (s.pathOf u).wb l r) ∧
  -- some lanes of a path
  (∀ (s : State) (c g i l0 : Nat) (f0 : Flt) (fs : List (Nat × Flt)) (x : Dword),
    let u := UnitId.path c g i
    let p := (s.group c g).path i
    let vec := (s.ctx (s.ctxOf u)).trapv
    let free := (s.group c g).paths.free 32
    let t := s.faultLanes c g i fs
    let frame (f : Flt) (all : Bool) (lanes held : Dword) : Frame :=
      { active := true, all := all, cause := BitVec.ofNat 8 f.cause, detail := BitVec.ofNat 16 f.detail, fmt := p.th.fmt, rpc := p.th.runpc
        fpc := p.th.pc, addr := f.addr, lanes := lanes, held := held }
    let rest : Prop := ((t.group c g).path i).mask = p.mask &&& ~~~x ∧ ((t.group c g).path i).th.pc = p.th.pc ∧
      ((t.group c g).path i).th.runpc = p.th.runpc ∧ ((t.group c g).path i).th.state = p.th.state ∧ s.performers u x = p.mask &&& ~~~x
    let trapped (j : Nat) (fr : Frame) : Prop :=
      let q := (t.group c g).path j
      q.th.frame = fr ∧ q.th.pc = vec ∧ q.th.runpc = vec ∧ q.th.state = .ready ∧ q.th.fmt = 0 ∧ q.th.run = Run.fresh
    let parked (j : Nat) : Prop :=
      let q := (t.group c g).path j
      q.th.state = .parked ∧ q.th.pc = p.th.runpc ∧ q.th.runpc = p.th.runpc ∧ q.th.run = Run.fresh ∧
        q.th.park.map (fun k => (k.mask, k.pc, k.addr)) = some (x, p.th.pc, f0.addr)
    let split (j : Nat) : Prop := free = some j ∧ x ≠ p.mask
    let apart (j : Nat) : Prop := rest ∧ ((t.group c g).path j).mask = x ∧ ((t.group c g).path j).stkv = false ∧ ((t.group c g).path j).wb = p.wb
    let whole : Prop := ((t.group c g).path i).mask = p.mask ∧ s.performers u x = 0
    fs.head? = some (l0, f0) → (∀ y ∈ fs, y.1 < 64 ∧ y.2.used = none) → (∀ l, l < 64 → (x.getLsbD l = true ↔ ∃ f, (l, f) ∈ fs)) →
      x &&& ~~~p.mask = 0 → vec ≠ 0 → p.th.frame.active = false → (s.ctx (s.ctxOf u)).pend = [] →
      -- traps: lanes that can leave take it apart from the others; where the table is full the path takes it whole, with ALL
      ((∀ y ∈ fs, 16 ≤ y.2.cause) → (∀ j, split j → apart j ∧ trapped j (frame f0 false x x)) ∧
        (free = none ∨ x = p.mask → whole ∧ trapped i (frame f0 (decide (x ≠ p.mask)) x p.mask))) ∧
      -- NOTPRESENT: they are parked until they are answered
      ((∀ y ∈ fs, y.2.cause = 0) → (∀ j, split j → apart j ∧ parked j) ∧ (free = none ∨ x = p.mask → whole ∧ parked i)) ∧
      -- both: one trap for all of them, with ALL, once the records of the NOTPRESENT faults are written
      (∀ (l1 : Nat) (f1 : Flt) (y : Dword), (∀ z ∈ fs, z.2.cause = 0 ∨ 16 ≤ z.2.cause) → (∃ z ∈ fs, z.2.cause = 0) →
        (fs.filter fun z => z.2.cause != 0).head? = some (l1, f1) →
        (∀ l, l < 64 → (y.getLsbD l = true ↔ ∃ f, (l, f) ∈ fs ∧ f.cause ≠ 0)) →
        let owed (j : Nat) (held : Dword) : Prop := trapped j (frame f1 true y held) ∨ ((t.group c g).path j).th.state = .parked
        (∀ j, split j → apart j ∧ owed j x) ∧ (free = none ∨ x = p.mask → whole ∧ owed i p.mask)))

/-- spec/15 R330: TRAP, TRAPC with a condition that is not 0, and BKPT where it is not armed, commit the run and take their trap,
from which the handler resumes after the instruction; TRAPC of 0 only ends the run; an armed BKPT holds its unit after the instruction
and sends one trigger message whatever DBGCTL[1] says (spec/16 R356, R359; the model's reading: notes/assumptions/38.md), as a BKPT that
is not armed does with DBGCTL[1]. K = 1 and a negative immediate are illegal operands. -/
def Obligations.TrapOpcodes : Prop :=
  (∀ (s : State) (u : UnitId), (s.ctx (s.ctxOf u)).trapv ≠ 0 → (s.thread u).frame.active = false →
    let pc := (s.thread u).pc
    let taken (t : State) (cause detail : Nat) : Prop := s.Own t u ∧ s.TrapSees t u cause detail 0 (s.maskOf u) (pc + 4) pc ∧
      (∀ r, t.sget u r = s.sget u r) ∧ (∀ l r, l < 64 → t.vget u l r = s.vget u l r)
    (∀ f : GI, s.Issues u (.trap f) → ∃ t, exec (.trap f) s = .next t ∧ taken t 0x30 f.imm.toNat) ∧
    (∀ f : GC, s.Issues u (.trapc f) → s.srcG u f.c.toNat ≠ 0 →
      ∃ t, exec (.trapc f) s = .next t ∧ taken t 0x30 f.disp.toNat) ∧
    (∀ f : GI, s.Issues u (.bkpt f) → ((s.grove (s.groveOf u)).dbgctl.getLsbD 0 = false ∨ s.pf.ctxsel.toNat ≠ s.ctxOf u) →
      ∃ t p, exec (.bkpt f) s = .next t ∧
        s.TrapSees t u 0x31 f.imm.toNat 0 (s.maskOf u) (pc + 4) pc ∧ (∀ r, t.sget u r = s.sget u r) ∧
        (∀ l r, l < 64 → t.vget u l r = s.vget u l r) ∧ p.Own t u ∧
        (if (s.grove (s.groveOf u)).dbgctl.getLsbD 1 then
          p = { s with time := p.time, freeIdx := p.freeIdx, trigOut := s.trigOut ++ [(s.pf.fabid, p.time)] } else p = s))) ∧
  (∀ (s : State) (u : UnitId),
    (∀ f : GC, s.Issues u (.trapc f) → s.srcG u f.c.toNat = 0 → ∃ t, exec (.trapc f) s = .next t ∧ s.PlainDone t u (.trapc f) false) ∧
    (∀ f : GI, s.Issues u (.bkpt f) → (s.grove (s.groveOf u)).dbgctl.getLsbD 0 = true → s.pf.ctxsel.toNat = s.ctxOf u →
      ∃ t, exec (.bkpt f) s = .next t ∧ (t.thread u).state = .held ∧ (t.thread u).pc = (s.thread u).pc + 4 ∧ (t.thread u).run = Run.fresh ∧
        t.trigOut = s.trigOut ++ [(s.pf.fabid, t.time)] ∧ (∀ n, t.sget u n = s.sget u n) ∧ ∀ l n, l < 64 → t.vget u l n = s.vget u l n) ∧
    (∀ (f : GI) (i : Instr), i ∈ [Instr.trap f, .bkpt f] → s.turn = some u → f.d = 0 → f.a = 0 → f.k = true ∨ f.imm.toInt < 0 →
      exec i s = .next (s.faultUnit u (fltD 0x23 0))) ∧
    (∀ f : GC, s.turn = some u → f.k = true → exec (.trapc f) s = .next (s.faultUnit u (fltD 0x23 0))) ∧
    (∀ (f : GI) (h : GC) (i : Instr), i ∈ [Instr.trap f, .bkpt f, .trapc h] → i.endsRun = true ∧ i.wrongUnit u = false)) ∧
  (decodeTableWord 32 0xE8000005 = some (.trap { k := false, d := 0, a := 0, imm := 5 }) ∧
    decodeTableWord 32 0xE9018101 = some (.trapc { k := false, c := 3, disp := 0x101 }) ∧
    decodeTableWord 32 0xEB000001 = some (.bkpt { k := false, d := 0, a := 0, imm := 1 }))

/-- spec/15 R329, R336, R337: a trap raised while one is being handled, or with no handler, tears the unit's team down: ECODE 0x11
with the low half of the frame, or 0x10 with that of the trap. HALT.team tears it down with its code. -/
def Obligations.TearsDown : Prop :=
  ∀ (s : State) (u : UnitId), u.isPath = true ∨ u.isSeq = true →
    let fr := (s.thread u).frame
    let low : Dword := BitVec.ofNat 64 (1 + (if fr.all then 2 else 0) + fr.cause.toNat * 256 + fr.detail.toNat * 65536)
    (∀ f : GI, s.Issues u (.trap f) →
      (fr.active = true → ∃ t, exec (.trap f) s = .next t ∧ s.TeamTorn t u 0x11 low) ∧
      (fr.active = false → (s.ctx (s.ctxOf u)).trapv = 0 → ∃ t, exec (.trap f) s = .next t ∧
        s.TeamTorn t u 0x10 (BitVec.ofNat 64 (1 + 0x30 * 256 + f.imm.toNat * 65536)))) ∧
    (∀ f : GM, s.Issues u (.haltTeam f) → ∃ t, exec (.haltTeam f) s = .next t ∧
      s.TeamTorn t u 0x20 (BitVec.ofNat 64 ((s.srcG u f.a.toNat).toNat % 65536)))

/-- spec/15 R331: TRET and TRET.goto restore fmt and leave the trap: the next run starts at the frame's RPC or at the operand;
TRET.kill makes the path's lanes idle. With no trap active all three are illegal. -/
def Obligations.TrapReturns : Prop :=
  ∀ (s : State) (u : UnitId) (f : GM),
    let fr := (s.thread u).frame
    let back (t : State) (pc : Dword) : Prop := (t.thread u).pc = pc &&& 0xFFFFFFFFFFFFFC ∧ (t.thread u).runpc = (t.thread u).pc ∧
      (t.thread u).fmt = fr.fmt ∧ (t.thread u).frame = { fr with active := false } ∧ (t.thread u).run = Run.fresh ∧
      (∀ r, t.sget u r = s.sget u r) ∧ (∀ l r, l < 64 → t.vget u l r = s.vget u l r) ∧
      (t.thread u).state = if u.isPath = true ∧ (s.groupOf u).unresident (t.maskOf u) (s.pathOf u).wb ≠ [] then .spill else .ready
    (fr.active = true →
      (s.Issues u (.tret f) → ∃ t, exec (.tret f) s = .next t ∧ back t fr.rpc ∧
        (fr.all = false → s.Own t u) ∧
        (u.isPath = true → fr.all = true → t.maskOf u = fr.held)) ∧
      (s.Issues u (.tretGoto f) → ∃ t, exec (.tretGoto f) s = .next t ∧ back t (s.srcG u f.a.toNat) ∧ s.Own t u) ∧
      (s.Issues u (.tretKill f) →
        (∀ c g i, u = .path c g i → (s.pathOf u).arm = false → (s.pathOf u).stkv = false →
          (∀ q ∈ (s.groupOf u).paths.cells, q.2.th.state ≠ .atRegang) →
          ∃ t, exec (.tretKill f) s = .next t ∧ s.UnitsOnly t ∧ t.alive u = false ∧
            (t.group c g).idle = (s.group c g).idle ||| s.maskOf u) ∧
        (∀ c k, u = .seq c k → (s.team c k).haltPending = [] → ∃ t, exec (.tretKill f) s = .next t ∧ s.UnitsOnly t ∧
          t.alive u = false) ∧
        (∀ l p, u = .lant l p → ∃ t, exec (.tretKill f) s = .next t ∧ t.alive u = false))) ∧
    (fr.active = false → ∀ i ∈ [Instr.tret f, .tretGoto f, .tretKill f], s.Issues u i →
      exec i s = .next (s.faultUnit u (fltD 0x23 0)))

/-- spec/15 R332, R333, R335: ERRRD reads the trap frame's words and the team's error record; HALT.flush frees a halted queue. -/
def Obligations.ErrorReads : Prop :=
  ∀ (s : State) (u : UnitId),
    (∀ f : GA, s.Issues u (.errrd f) →
      let fr := (s.thread u).frame
      let w0 : Dword := BitVec.ofNat 64 ((if fr.active then 1 else 0) + (if fr.all then 2 else 0) + fr.cause.toNat * 256 +
        fr.detail.toNat * 65536 + fr.fmt.toNat * 2 ^ 32)
      (∀ n v, f.b.toNat = n → [w0, fr.rpc &&& 0xFFFFFFFFFFFFFC, fr.fpc &&& 0xFFFFFFFFFFFFFC, fr.addr, fr.lanes][n]? = some v →
        ∃ t, exec (.errrd f) s = .next t ∧ s.ScalarDone t u (.errrd f) f.d.toNat f.k v) ∧
      (5 ≤ f.b.toNat → f.b.toNat ≤ 8 → ∃ t, exec (.errrd f) s = .next t ∧ s.ScalarDone t u (.errrd f) f.d.toNat f.k
        (if u.isPath ∨ u.isSeq then ((s.teamOf u).errRec.getD []).getD (f.b.toNat - 5) 0 else 0)) ∧
      (8 < f.b.toNat → exec (.errrd f) s = .next (s.faultUnit u (fltD 0x23 0)))) ∧
    (∀ f : GA, (Instr.errrd f).endsRun = false ∧
      (s.turn = some u → f.a ≠ 0 → exec (.errrd f) s = .next (s.faultUnit u (fltD 0x22 0)))) ∧
    decodeTableWord 32 0xED020002 = some (.errrd { k := false, d := 4, a := 0, b := 2 }) ∧
    (∀ f : GM, s.Issues u (.haltFlush f) →
      let q := (s.srcG u f.a.toNat).toNat
      (q ≤ 3 → ∃ t, exec (.haltFlush f) s = .next t ∧
        (s.onTeamOf u fun m => { m with eng := m.eng.put q (let e := m.eng.get q EngQueue.none
          if e.halted then EngQueue.none else e) }).PlainDone t u (.haltFlush f) false) ∧
      (3 < q → exec (.haltFlush f) s = .next (s.faultUnit u (fltD 0x23 0))))

/-! The trunk and the tiles. -/

/-- spec/11 R256, spec/04 R100: ACCRD gives each lane an element of a tile, ACCRDC the element converted; they wait while a command
that writes the tile is incomplete (that the run goes on where it waits is the model's reading: notes/assumptions/66.md). A tile that is not granted is an illegal operand, an invalid one a fault. -/
def Obligations.TileReads : Prop :=
  ∀ (s : State) (u : UnitId) (f : LA) (x : TileX) (i : Instr) (g : Word → Dword × BitVec 7),
    ((i, g) ∈ ([(.accrd f x, fun v => (v.setWidth 64, 0)),
      (.accrdc f x, fun v => convert (s.thread u).fmt f.m.toNat 4 (v.setWidth 64))] : List (Instr × (Word → Dword × BitVec 7)))) →
    ∀ a, s.ComesTo u i (.tileWaitEnd u) a →
    let k := x.tile.toNat
    let tm := s.teamOf u
    let tl := s.tile u.place (s.teamSlot u) k
    let el (l : Nat) : Word :=
      let p := (s.srcL u f.a.toNat l 32).toNat
      tl.el.get (128 * (p / 128 % 128) + p % 128) 0
    (tm.hasTile k = true → tm.tileReady k = true → tl.valid = true → ∃ t, a = .next t ∧
      s.LaneDone t u i f.d.toNat f.k 32 (fun l => (g (el l)).1) (gather (s.maskOf u) fun l => (g (el l)).2)) ∧
    (tm.hasTile k = true → tm.tileReady k = false → ∃ t, a = .next t ∧ s.WaitsIn t u i) ∧
    (tm.hasTile k = true → tm.tileReady k = true → tl.valid = false → a = .next (s.faultUnit u (fltD 0x16 k))) ∧
    (tm.hasTile k = false → a = .next (s.faultUnit u (fltD 0x23 0)))

/-- spec/11 R260, R261, R263, spec/04 R103: one add to a trunk row: the element wraps in 64 bits, WCNT counts the wraps, SQ144 follows by the
difference of the squares, CSAT and CINV are set, nothing else of the core changes. TADD adds each lane's contribution in
ascending lane order; TSYNC without a span, or of a row that exists, only passes; TSYNC.span sends the rows' partials to the others of
the span, once they are on cores, and waits until each has received them. -/
def Obligations.TrunkAdds : Prop :=
  ∀ (s : State) (u : UnitId),
    (∀ (c k row col : Nat) (v : Int) (csat cinv : Bool), -(2 ^ 63) ≤ v → v < 2 ^ 63 →
      let g := (s.team c k).trunk
      let t := s.trunkAdd c k row col v csat cinv
      let x := s.trunkEl c k row col
      let x' := t.trunkEl c k row col
      let w : Int := if 2 ^ 63 ≤ x + v then 1 else if x + v < -(2 ^ 63) then -1 else 0
      x' = x + v - w * 2 ^ 64 ∧
      (t.trunkWcnt c k row).toNat = (((s.trunkWcnt c k row).toNat : Int) + w) % 2 ^ 16 ∧
      (t.trunkSq c k row).toNat = (((s.trunkSq c k row).toNat : Int) - x * x + x' * x') % 2 ^ 144 ∧
      (t.trunkFlags c k row).getLsbD 0 = ((s.trunkFlags c k row).getLsbD 0 || csat) ∧
      (t.trunkFlags c k row).getLsbD 1 = ((s.trunkFlags c k row).getLsbD 1 || cinv) ∧
      (∀ n, n ≠ g.el row col → (t.core c).trunk.get n 0 = (s.core c).trunk.get n 0) ∧
      (∀ n, n ≠ g.reg row → (t.core c).sq.get n 0 = (s.core c).sq.get n 0 ∧ (t.core c).rowFlags.get n 0 = (s.core c).rowFlags.get n 0) ∧
      t = s.onCore c fun q => { q with trunk := (t.core c).trunk, sq := (t.core c).sq, rowFlags := (t.core c).rowFlags }) ∧
    (∀ (f : LA) (x : TaddX), s.Issues u (.tadd f x) → (s.teamOf u).trunkBusy = false →
      let c := u.place
      let k := s.teamSlot u
      let row (l : Nat) : Nat := (s.srcL u f.b.toNat l 32).toNat / 2 ^ 16 % 2 ^ 16 + x.roff.toNat
      let col (l : Nat) : Nat := (s.srcL u f.b.toNat l 32).toNat % 2 ^ 16 + x.coff.toNat
      let num (l : Nat) : FloatVal := (floatOf f.m.toNat).read false ((s.srcL u f.a.toNat l 32).toNat % 2 ^ 32)
      let val (l : Nat) : Int × Bool × Bool :=
        if f.m = 7 then ((s.srcL u f.a.toNat l 64).toInt, false, false)
        else if num l = .nan then (0, false, true) else ((satTx (num l)).1, (satTx (num l)).2 != 0, false)
      (∀ l ∈ (s.maskOf u).lanes, row l < (s.teamOf u).trunk.rows ∧ col l < (s.teamOf u).trunk.rowLen) →
      ∃ t, exec (.tadd f x) s = .next t ∧
        ((s.maskOf u).lanes.foldl (fun q l => q.trunkAdd c k (row l) (col l) (val l).1 (val l).2.1 (val l).2.2) s).PlainDone t u (.tadd f x) true) ∧
    (∀ (f : LA), s.Issues u (.tsync f) →
      let v := s.sget u (f.a.toNat - 72)
      let rows := (s.teamOf u).trunk.rows
      let n := v.toNat / 2 ^ 16 % 2 ^ 16
      let within := n = 0 ∨ v.toNat % 2 ^ 16 + n ≤ rows
      (72 ≤ f.a.toNat → (s.teamOf u).trunkBusy = false → within → (f.m ≠ 3 ∨ (s.teamOf u).trunk.span ≤ 1) →
        ∃ t, exec (.tsync f) s = .next t ∧ s.PlainDone t u (.tsync f) true) ∧
      (72 ≤ f.a.toNat → (s.teamOf u).trunkBusy = false → ¬ within → exec (.tsync f) s = .next (s.faultUnit u (fltD 0x13 0))) ∧
      (72 ≤ f.a.toNat → (s.teamOf u).trunkBusy = true → ∃ t, exec (.tsync f) s = .next t ∧ s.WaitsIn t u (.tsync f)) ∧
      (72 ≤ f.a.toNat → (s.teamOf u).trunkBusy = false → within → f.m = 3 → 1 < (s.teamOf u).trunk.span → (s.thread u).wait = none →
        let others := s.spanOthers u.place (s.teamSlot u)
        let named := if n = 0 then List.range rows else (List.range n).map (v.toNat % 2 ^ 16 + ·)
        let parts : List Partial := named.map fun r =>
          { row := r, pos := (s.teamOf u).trunk.pos, sq := s.trunkSq u.place (s.teamSlot u) r, wcnt := s.trunkWcnt u.place (s.teamSlot u) r }
        let sent := others.foldl (fun z m => z.onTeam m.1 m.2 fun k => { k with inbox := k.inbox ++ parts }) s
        (s.spanAway u.place (s.teamSlot u) = true → ∃ t, exec (.tsync f) s = .next t ∧ s.WaitsIn t u (.tsync f)) ∧
        (s.spanAway u.place (s.teamSlot u) = false → others = [] → ∃ t, exec (.tsync f) s = .next t ∧ s.PlainDone t u (.tsync f) true) ∧
        (s.spanAway u.place (s.teamSlot u) = false → others ≠ [] → named ≠ [] → ∃ t, exec (.tsync f) s = .next t ∧ sent.WaitsIn t u (.tsync f))) ∧
      (f.a.toNat < 72 → exec (.tsync f) s = .next (s.faultUnit u (fltD 0x23 0)))) ∧
    (∀ (f : LA) (n : Nat), s.alive u = true → (s.thread u).state = .waiting → (s.thread u).wait = some { instr := .tsync f, lo := 1 } →
      72 ≤ f.a.toNat → (s.teamOf u).trunkBusy = false → f.m = 3 → 1 < (s.teamOf u).trunk.span →
      (s.sget u (f.a.toNat - 72)).toNat = n → n / 2 ^ 16 % 2 ^ 16 = 0 →
      let travels : Prop := ∃ m ∈ s.spanOthers u.place (s.teamSlot u), ∃ p ∈ (s.team m.1 m.2).inbox,
        p.pos = (s.teamOf u).trunk.pos ∧ p.row < (s.teamOf u).trunk.rows
      (¬ travels → ∃ t, exec (.tileWaitEnd u) s = .next t ∧ s.PlainDone t u (.tsync f) true) ∧
      (travels → ∃ t, exec (.tileWaitEnd u) s = .next t ∧ s.WaitsIn t u (.tsync f)))

/-- spec/11 R264, R265: TNORM of elements in range, with their gains in the scratchpad, gives RN(RN(x × inv) × γ) in its type, or
the canonical NaN for a wrapped row; TNORMQ gives the FP8 code of y / s and the scale s of the element's block of 128. -/
def Obligations.TrunkReads : Prop :=
  ∀ (s : State) (u : UnitId) (f : LA) (x : EpsX),
    let c := u.place
    let k := s.teamSlot u
    let tm := s.teamOf u
    let g := (s.sget u (f.b.toNat - 72)).toNat % 2 ^ 20
    let eps : Word := (s.sget u x.se.toNat).setWidth 32
    let row (l : Nat) : Nat := (s.srcL u f.a.toNat l 32).toNat / 2 ^ 16 % 2 ^ 16
    let col (l : Nat) : Nat := (s.srcL u f.a.toNat l 32).toNat % 2 ^ 16
    let gain (n : Nat) : Word := BitVec.ofNat 32 (leNat (s.spRead c k (g + 4 * n) 4))
    let total (r : Nat) : Nat := ((tm.partials.filter fun p => p.row == r && p.pos != tm.trunk.pos).map fun p => p.sq.toNat).sum +
      (s.trunkSq c k r).toNat
    let wrapped (r : Nat) : Bool := s.trunkWcnt c k r != 0 ||
      tm.partials.any fun p => p.row == r && p.pos != tm.trunk.pos && p.wcnt != 0
    let ms (r : Nat) : Word := rn32 ((FloatVal.fin (.ofInt (total r) (-64))).div (.fin (.ofInt ((tm.trunk.rowLen * tm.trunk.span : Nat) : Int) 0)))
    let inv (r : Nat) : Word := rn32 (fnRsq (val32 (add32 (ms r) eps))).1
    let y (m r n : Nat) : Nat := if wrapped r then (floatOf m).nanCode else
      (rnd (floatOf m) 0 false ((val32 (mul32 (rnInt (s.trunkEl c k r n) (-32)) (inv r))).mul (val32 (gain n))).1).1
    let ready (l first n : Nat) : Prop := row l < tm.trunk.rows ∧ col l < tm.trunk.rowLen ∧ tm.spIn (g + 4 * first) (4 * n) = true ∧
      tm.spAbsent (g + 4 * first) (4 * n) = false ∧ s.spPoisoned c k (g + 4 * first) (4 * n) = false
    (s.Issues u (.tnorm f x) → 72 ≤ f.b.toNat → tm.trunkBusy = false → (∀ l ∈ (s.maskOf u).lanes, ready l (col l) 1) →
      ∃ t, exec (.tnorm f x) s = .next t ∧
        s.LaneDone t u (.tnorm f x) f.d.toNat f.k 32 (fun l => BitVec.ofNat 64 (y f.m.toNat (row l) (col l))) 0) ∧
    (s.Issues u (.tnormq f x) → 72 ≤ f.b.toNat → tm.trunkBusy = false → (∀ l ∈ (s.maskOf u).lanes, ready l (col l / 128 * 128) 128) →
      let block (l : Nat) : List Word := (List.range 128).map fun j => BitVec.ofNat 32 (y 4 (row l) (col l / 128 * 128 + j))
      ∃ t, exec (.tnormq f x) s = .next t ∧ s.LaneDone t u (.tnormq f x) f.d.toNat f.k 64
        (fun l => BitVec.ofNat 64 ((e4m3q 0 false (val32 (div32 ((block l).getD (col l % 128) 0) (blockScale (block l))))).1 +
          (blockScale (block l)).toNat * 2 ^ 32)) 0) ∧
    (∀ i ∈ [Instr.tnorm f x, .tnormq f x], s.Issues u i → f.b.toNat < 72 → exec i s = .next (s.faultUnit u (fltD 0x23 0)))

/-! Choice vectors. -/

/-- spec/12 R271 to R276, R278 to R280, R283, spec/06 R152, R153: the draws, cursors, results, decisions and ends of lanes that all perform, in
ascending lane order, each after the ones before it (that the lanes do so is the model's reading, but for RCMP: notes/assumptions/57.md);
the draw function; what a draw finds and stores; the acceptance ratio, the compare record and the swap of RCMP; the checks of MUTATE and the vector that it
writes. -/
def Obligations.ChoiceLanes : Prop :=
  (∀ (key : Dword) (stream index : Nat), stream < 16 → index < 65536 →
    let k (j i : Nat) : Word := if j % 2 = 0 then key.setWidth 32 + 0x6F4A2D93 * BitVec.ofNat 32 (i / 2)
      else (key >>> 32).setWidth 32 + 0x3B1C7E65 * BitVec.ofNat 32 (i / 2)
    let round (z : Word × Word) (i : Nat) : Word × Word :=
      let p : Dword := z.1.setWidth 64 * 0xC8A13E5B
      ((p >>> 32).setWidth 32 ^^^ z.2 ^^^ k i i, p.setWidth 32)
    let z := (List.range 10).foldl round (BitVec.ofNat 32 (stream * 65536 + index), 0x51D70C29)
    drawOf key stream index = (z.1 ^^^ z.2).toNat / 256) ∧
  ∀ (s : State) (u : UnitId) (f : LA),
    let ls := (s.maskOf u).lanes
    let pick (vs : List (Nat × Dword)) (l : Nat) : Dword := ((vs.find? fun x => x.1 == l).map (·.2)).getD 0
    (∀ q vs, s.laneRun ls (fun y l => (y.drawLane u l f.b.toNat).map fun r => (r.1, drawResult r.2 f.m.toNat)) = (q, vs, []) →
      s.Issues u (.draw f) → f.k = false → ∃ t, exec (.draw f) s = .next t ∧ q.LaneDone t u (.draw f) f.d.toNat false 32 (pick vs) 0) ∧
    (∀ l st, let b := s.bindOf u l
      let n := b.cur.get st 0
      let at_ : Dword := b.ptr + BitVec.ofNat 64 (128 + 4 * (b.cap * st + n))
      let stored (q : State) (k org : Nat) : Except Flt (State × Nat) :=
        (q.plainStore (s.laneWho u l) (s.ctxOf u) at_ (natLe 4 (k % 2 ^ 24 + 2 ^ 24 + org % 4 * 2 ^ 25))).map fun z =>
          (z.bindPut u l { b with cur := b.cur.put st (n + 1) }, k)
      (b.bound = false → s.drawLane u l st = .error (fltD 0x14 0)) ∧
      (b.bound = true → b.nstr ≤ st → s.drawLane u l st = .error (fltD 0x14 2)) ∧
      (b.bound = true → st < b.nstr → n = b.cap → s.drawLane u l st = .error (fltD 0x14 3)) ∧
      (b.bound = true → st < b.nstr → n ≠ b.cap → b.mode = false → s.drawLane u l st = stored s (drawOf b.key st n) 0) ∧
      (∀ lb q, b.bound = true → st < b.nstr → n ≠ b.cap → b.mode = true →
        s.plainLoad (s.laneWho u l) (s.ctxOf u) (b.ptr + BitVec.ofNat 64 (32 + 4 * st)) 4 = .ok (lb, q) →
        (leNat lb % 2 ^ 17 ≤ n → s.drawLane u l st = stored q (drawOf (b.key ^^^ b.ser.setWidth 64) st n) 2) ∧
        (∀ e z, n < leNat lb % 2 ^ 17 → q.plainLoad (s.laneWho u l) (s.ctxOf u) at_ 4 = .ok (e, z) →
          s.drawLane u l st = stored z (leNat e % 2 ^ 24) (leNat e / 2 ^ 25 % 4)))) ∧
    (s.Issues u (.drawk f) → ∃ t, exec (.drawk f) s = .next t ∧ s.LaneDone t u (.drawk f) f.d.toNat f.k 32 (fun l =>
      let w := (s.srcL u f.b.toNat l 32).toNat
      let k := drawOf (s.srcL u f.a.toNat l 64) (w / 2 ^ 16 % 16) (w % 2 ^ 16)
      if f.m = 4 then (rn32 (.fin (.ofInt k (-24)))).setWidth 64 else BitVec.ofNat 64 k) 0) ∧
    (s.Issues u (.cvcur f) →
      (f.b.toNat = 16 → ∃ t, exec (.cvcur f) s = .next t ∧ s.LaneDone t u (.cvcur f) f.d.toNat f.k 32 (fun l =>
        let b := s.bindOf u l
        BitVec.ofNat 64 ((if b.bound then 1 else 0) + (if b.mode then 2 else 0) + b.nstr * 4)) 0) ∧
      (f.b.toNat ≠ 16 → (∀ l ∈ ls, (s.bindOf u l).bound = true) → ∃ t, exec (.cvcur f) s = .next t ∧
        s.LaneDone t u (.cvcur f) f.d.toNat f.k 32 (fun l => BitVec.ofNat 64 ((s.bindOf u l).cur.get f.b.toNat 0)) 0)) ∧
    (∀ q vs, s.laneRun ls (fun y l => let b := y.bindOf u l
        if b.bound then (y.plainStore (y.laneWho u l) (y.ctxOf u) (b.ptr + 16) (natLe 8 ((y.srcL u f.a.toNat l 32).toNat % 2 ^ 32 + 2 ^ 32))).map
          fun z => (z.bindPut u l { b with result := (y.srcL u f.a.toNat l 32).setWidth 32, rv := true }, (0 : Dword))
        else .error (fltD 0x14 0)) = (q, vs, []) →
      s.Issues u (.result f) → ∃ t, exec (.result f) s = .next t ∧ q.PlainDone t u (.result f) true) ∧
    (∀ q vs, s.laneRun ls (State.bindLane f u) = (q, vs, []) → s.Issues u (.cvbind f) → ∃ t, exec (.cvbind f) s = .next t ∧
      q.PlainDone t u (.cvbind f) true) ∧
    (∀ q vs x, s.laneRun ls (State.rcmpLane f x u) = (q, vs, []) → s.Issues u (.rcmp f x) → f.k = false →
      ∃ t, exec (.rcmp f x) s = .next t ∧ q.LaneDone t u (.rcmp f x) f.d.toNat false 32 (pick vs) 0) ∧
    (∀ (l : Nat) (x : AstrX) (c : List Dword) (hx hy : CvHeader) (es es' : List (List Nat)) (q0 q1 q2 q3 q4 q5 q6 q7 q8 : State) (k : Nat),
      let nd := s.laneWho u l
      let ctx := s.ctxOf u
      let a := s.srcL u f.a.toNat l 64
      let b := s.bindOf u l
      let yp := wordAt c 1 &&& 0xFFFFFFFFFFFFFF
      (b.bound = false → s.rcmpLane f x u l = .error (fltD 0x14 0)) ∧
      (b.bound = true → s.plainWords nd ctx a 4 = .ok (c, q0) → q0.cvHeader nd ctx (wordAt c 0 &&& 0xFFFFFFFFFFFFFF) = .ok (hx, q1) →
        q1.cvHeader nd ctx yp = .ok (hy, q2) →
        (hx.rv = false ∨ hy.rv = false → s.rcmpLane f x u l = .error (fltD 0x14 5)) ∧
        (hx.rv = true → hy.rv = true → b.nstr ≤ x.astr.toNat → s.rcmpLane f x u l = .error (fltD 0x14 2)) ∧
        (hx.rv = true → hy.rv = true → x.astr.toNat < b.nstr → q2.readStreams nd ctx yp hy = .ok (es, q3) →
          q3.readStreams nd ctx yp hy = .ok (es', q4) → q4.drawLane u l x.astr.toNat = .ok (q5, k) →
          let fx := val32 hx.result
          let fy := val32 hy.result
          let zero : FloatVal := .fin (.ofInt 0 0)
          let one : FloatVal := .fin (.ofInt 1 0)
          let r := rn32 (fy.div fx)
          let ratio : Word := if fy = .nan ∨ fy.cmp zero ≤ 0 then 0 else if fx = .nan ∨ fx.cmp zero ≤ 0 then 0x3F800000
            else if fx = .inf false then (if fy = .inf false then 0x3F800000 else 0)
            else if (val32 r).cmp one < 0 then r else 0x3F800000
          let takes : Prop := (FloatVal.fin (.ofInt k (-24))).cmp (val32 ratio) < 0
          let n := (wordAt c 3).toNat % 2 ^ 32
          let count (es : List (List Nat)) (p : Nat → Bool) : Nat := (es.map fun row => row.countP p).sum % 2 ^ 32
          let record (acc : Nat) : List Byte := natLe 4 hx.result.toNat ++ natLe 4 hy.result.toNat ++ natLe 4 ratio.toNat ++ natLe 3 k ++ natLe 1 acc ++
            natLe 4 (count es fun e => !e.testBit 24) ++ natLe 4 (count es' fun e => e / 2 ^ 25 % 4 == 2) ++ natLe 8 hy.serial.toNat
          let at_ := (wordAt c 2 &&& 0xFFFFFFFFFFFFFF) + BitVec.ofNat 64 (32 * n)
          (takes → q5.plainStore nd ctx at_ (record 1) = .ok q6 → q6.plainStore nd ctx (a + 24) (natLe 4 (n + 1)) = .ok q7 →
            q7.plainStore nd ctx a (natLe 8 (wordAt c 1).toNat ++ natLe 8 (wordAt c 0).toNat) = .ok q8 → s.rcmpLane f x u l = .ok (q8, 1)) ∧
          (¬ takes → q5.plainStore nd ctx at_ (record 0) = .ok q6 → q6.plainStore nd ctx (a + 24) (natLe 4 (n + 1)) = .ok q7 →
            s.rcmpLane f x u l = .ok (q7, 0))))) ∧
    (∀ (dst src desc : Dword) (kind : Nat) (d list : List Dword) (h h2 : CvHeader) (es fs : List (List Nat)) (q0 q1 q2 q3 q4 q5 : State),
      let nd := s.whoOf u
      let ctx := s.ctxOf u
      let st := (wordAt d 1).toNat % 16
      let amt := (wordAt d 1).toNat / 16 % 2 ^ 17
      let p2 := (wordAt d 2).toNat % 2 ^ 56
      let nl := if kind = 0 then (wordAt d 3).toNat % 2 ^ 16 else 0
      let size := 128 + 4 * h.cap * h.nstr
      let meets (a n : Nat) : Prop := dst.toNat < a + n ∧ a < dst.toNat + size
      let badDesc : Prop := 2 ^ 32 ≤ (wordAt d 0).toNat ∨ 2 ^ 21 ≤ (wordAt d 1).toNat ∨ 2 ^ 56 ≤ (wordAt d 2).toNat ∨ 2 ^ 16 ≤ (wordAt d 3).toNat ∨
        (kind ≠ 0 ∧ h.nstr ≤ st) ∨ (kind = 1 ∧ 65535 < amt) ∨ (kind = 2 ∧ 65536 < amt) ∨ (kind = 0 ∧ p2 % 8 ≠ 0) ∨ dst.toNat % 128 ≠ 0 ∨
        meets src.toNat size ∨ (kind = 2 ∧ meets p2 size) ∨ (nl ≠ 0 ∧ meets p2 (8 * nl))
      let lstr (e : Dword) : Nat := e.toNat / 2 ^ 24 % 16
      let lord (e : Dword) : Nat := e.toNat / 2 ^ 32 % 2 ^ 16
      let badEntry (e : Dword) : Prop := e.toNat / 2 ^ 28 % 16 ≠ 0 ∨ 2 ^ 48 ≤ e.toNat ∨ h.nstr ≤ lstr e ∨ h.len (lstr e) ≤ lord e
      let old (k n : Nat) : Nat := (es.getD k []).getD n 0
      let other (k n : Nat) : Nat := (fs.getD k []).getD n 0
      let here (k n : Nat) : List Dword := list.filter fun e => lstr e == k && lord e == n
      let cut := min amt (h.len st)
      let val (k n : Nat) : Nat := match kind with
        | 0 => (old k n % 2 ^ 24 + ((here k n).map fun e => e.toNat % 2 ^ 24).sum) % 2 ^ 24
        | 1 => old k (if k = st then (n + amt) % h.len st else n) % 2 ^ 24
        | _ => (if k < st ∨ (k = st ∧ n < cut) then old k n else other k n) % 2 ^ 24
      let org (k n : Nat) : Nat := match kind with
        | 0 => if here k n = [] then old k n / 2 ^ 25 % 4 else 1
        | 1 => if k = st then 1 else old k n / 2 ^ 25 % 4
        | _ => (if k < st ∨ (k = st ∧ n < cut) then old k n else other k n) / 2 ^ 25 % 4
      let len (k : Nat) : Nat := if kind ≤ 1 ∨ k < st then h.len k else if k = st then max cut (h2.len k) else h2.len k
      let header : List Byte := natLe 8 (wordAt h.words 0).toNat ++ natLe 4 ((wordAt h.words 1).toNat % 2 ^ 32 ||| 2) ++
        natLe 4 ((wordAt d 0).toNat % 2 ^ 32) ++ List.replicate 16 0 ++
        ((List.range 16).flatMap fun k => natLe 4 (if k < h.nstr then len k else 0)) ++ List.replicate 32 0
      let stores (q : State) : Except Flt State := (List.range h.nstr).foldlM (fun q k =>
        q.plainStore nd ctx (dst + BitVec.ofNat 64 (128 + 4 * (h.cap * k)))
          ((List.range (len k)).flatMap fun n => natLe 4 (val k n + org k n * 2 ^ 25))) q
      kind ≤ 2 → s.plainWords nd ctx desc 4 = .ok (d, q0) → q0.cvHeader nd ctx src = .ok (h, q1) →
      (badDesc → s.mutate u dst src desc kind = .error (fltD 0x14 4)) ∧
      (¬ badDesc → q1.plainWords nd ctx (BitVec.ofNat 64 p2) nl = .ok (list, q2) →
        ((∃ e ∈ list, badEntry e) → s.mutate u dst src desc kind = .error (fltD 0x14 4)) ∧
        ((∀ e ∈ list, ¬ badEntry e) → q2.readStreams nd ctx src h = .ok (es, q3) →
          (kind ≤ 1 → ∀ z, q3.plainStore nd ctx dst header = .ok z → s.mutate u dst src desc kind = stores z) ∧
          (kind = 2 → q3.cvHeader nd ctx (BitVec.ofNat 64 p2) = .ok (h2, q4) →
            (h2.nstr ≠ h.nstr ∨ h2.cap ≠ h.cap → s.mutate u dst src desc kind = .error (fltD 0x14 4)) ∧
            (h2.nstr = h.nstr → h2.cap = h.cap → q4.readStreams nd ctx (BitVec.ofNat 64 p2) h2 = .ok (fs, q5) →
              ∀ z, q5.plainStore nd ctx dst header = .ok z → s.mutate u dst src desc kind = stores z))))) ∧
    (∀ q vs g, s.laneRun ls (fun y l => (y.cvend u l).map fun z => (z, (0 : Dword))) = (q, vs, []) → s.Issues u (.cvend g) →
      u.isPath = true → ∃ t, exec (.cvend g) s = .next t ∧ q.PlainDone t u (.cvend g) false) ∧
    (∀ g, s.Issues u (.cvend g) → u.isPath = false → ∃ t, exec (.cvend g) s = .next t ∧ s.PlainDone t u (.cvend g) false) ∧
    (∀ (g : GA) (x : MutX), s.Issues u (.mutate g x) →
      (∀ q, s.mutate u (s.sget u g.d.toNat) (s.srcG u g.a.toNat) (s.sget u g.b.toNat) x.kind.toNat = .ok q →
        ∃ t, exec (.mutate g x) s = .next t ∧ q.PlainDone t u (.mutate g x) false) ∧
      (∀ e, s.mutate u (s.sget u g.d.toNat) (s.srcG u g.a.toNat) (s.sget u g.b.toNat) x.kind.toNat = .error e →
        exec (.mutate g x) s = .next (s.faultUnit u e))) ∧
    (∀ x, f.k = true → ∀ i ∈ [Instr.draw f, .rcmp f x], s.Issues u i → exec i s = .next (s.faultUnit u (fltD 0x23 0)))

/-- spec/12 R273, R276: CVBIND of a lane that is not bound to a record-mode vector writes KEY, SERIAL, RESULT and RV of its header and no
other byte of it, and binds the lane with its cursors at 0; CVEND of a bound lane in record mode stores its cursors
in the LEN words and unbinds it. -/
def Obligations.BindingLanes : Prop :=
  ∀ (s : State) (u : UnitId) (f : LA) (l : Nat),
    let b := s.bindOf u l
    let p := s.bindAddr u f.a.toNat l
    let ctx := s.ctxOf u
    (∀ ws q z1 z, b.bound = false → p.toNat % 128 = 0 → s.plainWords (s.laneWho u l) ctx p 16 = .ok (ws, q) →
      let h := cvHeaderOf ws
      let w1 := wordAt ws 1
      h.ok = true → w1.getLsbD 1 = false →
      q.plainStore (s.laneWho u l) ctx p (natLe 8 (s.srcL u f.b.toNat l 64).toNat) = .ok z1 →
      z1.plainStore (s.laneWho u l) ctx (p + 12) (List.replicate 12 0) = .ok z →
      s.bindLane f u l = .ok (z.bindPut u l
        { bound := true, ptr := p, mode := false, key := s.srcL u f.b.toNat l 64, ser := 0, nstr := h.nstr, cap := h.cap, cur := .empty
          result := 0, rv := false, ever := true }, 0)) ∧
    (b.bound = false → p.toNat % 128 ≠ 0 → s.bindLane f u l = .error (fltD 0x14 1)) ∧
    (∀ z, b.bound = true → b.mode = false →
      s.plainStore (s.laneWho u l) ctx (b.ptr + 32) ((List.range b.nstr).flatMap fun n => natLe 4 (b.cur.get n 0)) = .ok z →
      s.cvend u l = .ok (z.bindPut u l { b with bound := false })) ∧
    (b.bound = false → s.cvend u l = .ok s)

/-! Rays. -/

/-- spec/13 R285, R299, R303: HITRD, HITUV and VMRD read fields of the lane's slot, or zeros while its PHASE is empty; RCLR empties
the slots; RSAVE and RLOAD, for lanes that all perform, store and load them in ascending lane order (the model's reading:
notes/assumptions/57.md); what one lane's RLOAD checks and loads. -/
def Obligations.RaySlots : Prop :=
  ∀ (s : State) (u : UnitId) (f : LA),
    let ls := (s.maskOf u).lanes
    let word (l n : Nat) : Nat := if ((s.slot u l).get 17 0).toNat / 2 ^ 14 % 4 = 0 then 0 else ((s.slot u l).get n 0).toNat
    let lo (l n : Nat) : Nat := word l n % 2 ^ 32
    let hi (l n : Nat) : Nat := word l n / 2 ^ 32
    (∀ i (v : Nat → Nat), (i, f.b.toNat, v) ∈ ([(.hitrd f, 0, fun l => lo l 4), (.hitrd f, 1, fun l => hi l 5), (.hitrd f, 2, fun l => lo l 6),
        (.hitrd f, 3, fun l => hi l 6), (.vmrd f, 0, fun l => lo l 21), (.vmrd f, 1, fun l => lo l 22), (.vmrd f, 2, fun l => hi l 22),
        (.vmrd f, 3, fun l => lo l 23), (.vmrd f, 4, fun l => hi l 23), (.vmrd f, 5, fun l => word l 20 % 2 ^ 30),
        (.vmrd f, 6, fun l => word l 20 / 2 ^ 36 % 4 + word l 20 / 2 ^ 30 % 2 * 4), (.vmrd f, 7, fun l => hi l 21)] :
          List (Instr × Nat × (Nat → Nat))) →
      s.Issues u i → ∃ t, exec i s = .next t ∧ s.LaneDone t u i f.d.toNat f.k 32 (fun l => BitVec.ofNat 64 (v l)) 0) ∧
    (∀ i n, ((i, n) ∈ [(Instr.hitrd f, 3), (.vmrd f, 7)]) → n < f.b.toNat → s.Issues u i →
      exec i s = .next (s.faultUnit u (fltD 0x23 0))) ∧
    (s.Issues u (.hituv f) → f.d.toNat % 2 = 0 → ∃ t, exec (.hituv f) s = .next t ∧
      s.LaneDone t u (.hituv f) f.d.toNat f.k 64 (fun l => BitVec.ofNat 64 (hi l 4 + lo l 5 * 2 ^ 32)) 0) ∧
    (s.Issues u (.rclr f) → ∃ t sl tr, exec (.rclr f) s = .next t ∧
      (s.onGroupOf u fun g => { g with slots := sl, traced := tr }).PlainDone t u (.rclr f) true ∧
      (∀ l ∈ ls, sl.get l .empty = .empty) ∧ ∀ l, l ∉ ls → sl.get l .empty = s.slot u l) ∧
    (∀ q vs, s.laneRun ls (fun y l =>
        let a := y.srcL u f.a.toNat l 64
        if a.toNat % 64 = 0 then (y.plainStore (y.laneWho u l) (y.ctxOf u) a ((List.range 32).flatMap fun n => natLe 8 ((y.slot u l).get n 0).toNat)).map
          fun z => (z, (0 : Dword)) else .error (fltAt 0x10 a)) = (q, vs, []) →
      s.Issues u (.rsave f) → ∃ t, exec (.rsave f) s = .next t ∧ q.PlainDone t u (.rsave f) true) ∧
    (∀ q vs, s.laneRun ls (State.rloadLane f u) = (q, vs, []) → s.Issues u (.rload f) → ∃ t, exec (.rload f) s = .next t ∧
      q.PlainDone t u (.rload f) true) ∧
    (∀ (l : Nat) (bs : List Byte) (z : State),
      let a := s.srcL u f.a.toNat l 64
      let b := s.bindOf u l
      let w (n : Nat) : Nat := (wordAt (dwordsOfBytes 32 bs) n).toNat
      let part (n lo len : Nat) : Nat := w n / 2 ^ lo % 2 ^ len
      let tidy : Prop := w 7 < 2 ^ 56 ∧ w 17 < 2 ^ 32 ∧ w 18 < 2 ^ 56 ∧ w 19 < 2 ^ 56 ∧ w 20 < 2 ^ 38 ∧ w 24 < 2 ^ 56 ∧ w 25 < 2 ^ 17 ∧
        w 26 < 2 ^ 56 ∧ (∀ n, n < 5 → w (27 + n) = 0) ∧ (∀ n, n < 8 → w (8 + n) < 2 ^ 58) ∧ part 6 32 32 < 2 ^ 18
      let formed : Prop := part 6 34 2 ≠ 3 ∧ part 17 11 3 ≤ 4 ∧ part 17 14 2 ≠ 3 ∧ part 20 36 2 ≠ 3 ∧ part 17 6 4 ≤ 8 ∧ part 17 0 6 ≤ 32
      let marches : Prop := part 20 30 1 = 1
      let mine : Prop := b.bound = true ∧ b.ptr.toNat = part 24 0 56
      let loads (y : State) : Prop := ∃ (sl : Tab Dword) (hr : Tab Dword) (nx : Tab (List Hit)) (tr : Dword),
        s.rloadLane f u l = .ok (y.onGroupOf u fun g => { g with slots := g.slots.put l sl, hitRec := hr, nexts := nx, traced := tr }, 0) ∧
        ∀ n, n < 32 → (sl.get n 0).toNat = w n
      (a.toNat % 64 ≠ 0 → s.rloadLane f u l = .error (fltAt 0x10 a)) ∧
      (∀ e, a.toNat % 64 = 0 → s.sceneLoad u a 256 = .error e → s.rloadLane f u l = .error e) ∧
      (a.toNat % 64 = 0 → s.sceneLoad u a 256 = .ok (bs, z) →
        (¬ (tidy ∧ formed) → s.rloadLane f u l = .error (fltD 0x15 4)) ∧
        (tidy → formed → marches → ¬ mine → s.rloadLane f u l = .error (fltD 0x15 5)) ∧
        (tidy → formed → ¬ marches → loads z) ∧
        (tidy → formed → marches → mine → loads (z.bindPut u l { b with cur := b.cur.put (part 20 32 4) (part 25 0 17) }))))

/-- spec/13 R287 to R292, R294 to R296: the box test, the way of a ray into an instance, the triangle test (one with a sheared value that is
not finite is missed: notes/assumptions/24.md); nodes and instances as they are read; the steps of a walk at a node, at a leaf, up and at its
end. spec/13 R300, R301: volume records, the start of a march and its step in one cell (a coordinate that is not a number is left open:
notes/assumptions/25.md). R287, R298, R302, R304, R305: TRACE, TRACEA, TRACEO and VMARCH that begin load each lane's slot, or the lane faults with NODE,
NOSTATE, UNBOUND, STREAM, VOLUME or CVMISMATCH; a ray that can hit nothing ends at once. Those that find the operation of every lane finished at their address, as
after a restart of their run, or whose last lane has just finished, give the lanes' results; an issue that leaves a lane's step
to come waits, and each event takes one step of one lane. What one step of TRACEO is, and that the start of a march is a step,
is the model's reading (notes/assumptions/23.md, 30.md). -/
def Obligations.RayOperations : Prop :=
  (∀ (r : Ray) (lo hi m : List Word) (tlo thi : Word),
    let v (w : Word) : FloatVal := fp32.read false w.toNat
    let lt (x y : Word) : Bool := v x != .nan && v y != .nan && decide ((v x).cmp (v y) < 0)
    let o (x : Nat) : Word := r.o.getD x 0
    let d (x : Nat) : Word := r.d.getD x 0
    (∀ x y : Word,
      minW x y = (if v x = .nan ∧ v y = .nan then 0x7FC00000 else if v x = .nan then y else if v y = .nan then x
        else if (v y).cmp (v x) < 0 ∨ ((v y).cmp (v x) = 0 ∧ (v y).neg = true ∧ (v x).neg = false) then y else x) ∧
      maxW x y = (if v x = .nan ∧ v y = .nan then 0x7FC00000 else if v x = .nan then y else if v y = .nan then x
        else if (v x).cmp (v y) < 0 ∨ ((v x).cmp (v y) = 0 ∧ (v x).neg = true ∧ (v y).neg = false) then y else x)) ∧
    (let axis (x : Nat) (a : Option (Word × Word)) : Option (Word × Word) := a.bind fun z =>
       let l := lo.getD x 0
       let h := hi.getD x 0
       let ta := div32 (sub32 l (o x)) (d x)
       let tb := div32 (sub32 h (o x)) (d x)
       if v l = .nan ∨ v h = .nan then none
       else if (d x).toNat % 2 ^ 31 = 0 then (if lt (o x) l = true ∨ lt h (o x) = true then none else some z)
       else some (maxW z.1 (minW ta tb), minW z.2 (maxW ta tb))
     boxTest lo hi r tlo thi = (axis 2 (axis 1 (axis 0 (some (tlo, thi))))).bind fun z => if lt z.2 z.1 = true then none else some z) ∧
    (let e (i j : Nat) : Word := m.getD (4 * i + j) 0
     let dot (i : Nat) (p : Nat → Word) : Word := add32 (add32 (mul32 (e i 0) (p 0)) (mul32 (e i 1) (p 1))) (mul32 (e i 2) (p 2))
     r.through m = { r with
       o := [add32 (dot 0 o) (e 0 3), add32 (dot 1 o) (e 1 3), add32 (dot 2 o) (e 2 3)], d := [dot 0 d, dot 1 d, dot 2 d] }) ∧
    let big (x : Nat) : FloatVal := v (d x &&& 0x7FFFFFFF)
    ∀ (cull : Bool) (a b c : List Word),
      ((∃ x, x < 3 ∧ v (d x) = .nan) → triTest r cull a b c = none) ∧
      ∀ kz, kz < 3 → (∀ x, x < 3 → v (d x) ≠ .nan ∧ (big x).cmp (big kz) ≤ 0 ∧ (x < kz → (big x).cmp (big kz) < 0)) →
        let neg := lt (d kz) 0
        let kx := if neg then (kz + 2) % 3 else (kz + 1) % 3
        let ky := if neg then (kz + 1) % 3 else (kz + 2) % 3
        let sx := div32 (d kx) (d kz)
        let sy := div32 (d ky) (d kz)
        let sz := div32 0x3F800000 (d kz)
        let p (q : List Word) (x : Nat) : Word := sub32 (q.getD x 0) (o x)
        let sheared (q : List Word) (n : Nat) : Word := match n with
          | 0 => sub32 (p q kx) (mul32 sx (p q kz)) | 1 => sub32 (p q ky) (mul32 sy (p q kz)) | _ => mul32 sz (p q kz)
        let finite (w : Word) : Bool := match v w with | .fin _ => true | _ => false
        let n (q : List Word) (x : Nat) : Int := match v (sheared q x) with
          | .fin y => (if y.neg then -1 else 1) * ((y.mag * 2 ^ (y.exp + 149).toNat : Nat) : Int) | _ => 0
        let eu := n c 0 * n b 1 - n c 1 * n b 0
        let ev := n a 0 * n c 1 - n a 1 * n c 0
        let ew := n b 0 * n a 1 - n b 1 * n a 0
        let det := eu + ev + ew
        let quot (i e : Int) : Word := rn32 ((FloatVal.fin { neg := decide (i < 0), mag := i.natAbs, exp := e, more := false }).div
          (.fin { neg := decide (det < 0), mag := det.natAbs, exp := 0, more := false }))
        let t := quot (eu * n a 2 + ev * n b 2 + ew * n c 2) (-149)
        ((∃ q ∈ [a, b, c], ∃ x, x < 3 ∧ finite (sheared q x) = false) → triTest r cull a b c = none) ∧
        ((∀ q ∈ [a, b, c], ∀ x, x < 3 → finite (sheared q x) = true) → triTest r cull a b c =
          if (eu < 0 ∨ ev < 0 ∨ ew < 0) ∧ (0 < eu ∨ 0 < ev ∨ 0 < ew) then none
          else if det = 0 ∨ (cull = true ∧ det < 0) then none
          else if lt t r.tmin = true ∨ lt r.tmax t = true then none
          else some { t := t, u := quot ev 0, v := quot ew 0, front := decide (0 < det) })) ∧
  (∀ (s : State) (u : UnitId) (a : Nat) (z : State) (b : List Byte) (inside : Bool),
    let num (at_ n : Nat) : Nat := leNat ((b.drop at_).take n)
    let words (at_ n : Nat) : List Word := (List.range n).map fun i => BitVec.ofNat 32 (num (at_ + 4 * i) 4)
    let load := s.sceneLoad u (BitVec.ofNat 64 a) 128
    (a % 128 ≠ 0 → s.readNode u a inside = .error (fltD 0x15 0) ∧ s.readInst u a = .error (fltD 0x15 0)) ∧
    (∀ e, a % 128 = 0 → load = .error e → s.readNode u a inside = .error e ∧ s.readInst u a = .error e) ∧
    (a % 128 = 0 → load = .ok (b, z) →
      (let ty (c : Nat) : Nat := num (96 + 6 * c) 6 % 8
       let goal (c : Nat) : Int := a + (BitVec.ofNat 45 (num (96 + 6 * c) 6 / 8)).toInt * 128
       let cnt (c : Nat) : Nat := num (120 + c) 1
       let formed : Prop := num 124 4 = 0 ∧ ∀ c, c < 4 → ty c ≤ 5 ∧ (3 ≤ ty c ↔ cnt c ≠ 0) ∧ (ty c ≠ 0 → 0 ≤ goal c ∧ goal c < 2 ^ 56) ∧
         (3 ≤ ty c → inside = true) ∧ (ty c = 2 → inside = false)
       (¬ formed → s.readNode u a inside = .error (fltD 0x15 0)) ∧
       (formed → ∃ cs, s.readNode u a inside = .ok (cs, z) ∧ cs.map (·.slot) = (List.range 4).filter (fun c => ty c != 0) ∧
         ∀ c ∈ cs, c.ty = ty c.slot ∧ (c.target : Int) = goal c.slot ∧ c.cnt = cnt c.slot ∧ c.lo = words (24 * c.slot) 3 ∧
           c.hi = words (24 * c.slot + 12) 3)) ∧
      (let formed : Prop := num 103 1 = 0 ∧ num 109 1 ≤ 5 ∧ num 110 18 = 0
       (¬ formed → s.readInst u a = .error (fltD 0x15 0)) ∧
       (formed → s.readInst u a = .ok
         ({ node := a, root := num 96 7, index := num 104 4, mask := num 108 1, dice := num 109 1, wto := words 48 12 }, z))))) ∧
  (∀ (s : State) (u : UnitId) (r : Ray) (bound : Word) (vm : Nat) (cs l : List Child) (c : Child) (p : Pos) (z : State),
    let lt (x y : Word) : Bool := val32 x != .nan && val32 y != .nan && decide ((val32 x).cmp (val32 y) < 0)
    let tn (c : Child) : Word := ((boxTest c.lo c.hi r r.tmin 0x7F800000).map (·.1)).getD 0
    (val32 r.tmin ≠ .nan → cs.Pairwise (fun x y => x.slot < y.slot) →
      (∀ x, x ∈ ordered r cs ↔ x ∈ cs ∧ boxTest x.lo x.hi r r.tmin 0x7F800000 ≠ none) ∧
      (ordered r cs).Pairwise fun x y => lt (tn x) (tn y) = true ∨ (lt (tn y) (tn x) = false ∧ x.slot < y.slot)) ∧
    s.keepUnculled u r bound vm [] = .ok ([], s) ∧
    (s.keepUnculled u r bound vm cs = .ok (l, z) →
      (boxTest c.lo c.hi r r.tmin bound = none → s.keepUnculled u r bound vm (cs ++ [c]) = .ok (l, z)) ∧
      (boxTest c.lo c.hi r r.tmin bound ≠ none → c.ty ≠ 2 → s.keepUnculled u r bound vm (cs ++ [c]) = .ok (l ++ [c], z)) ∧
      (∀ i y, boxTest c.lo c.hi r r.tmin bound ≠ none → c.ty = 2 → z.readInst u c.target = .ok (i, y) →
        s.keepUnculled u r bound vm (cs ++ [c]) = .ok (if i.mask &&& vm = 0 then l else l ++ [c], y))) ∧
    (c.ty ≤ 2 → 32 ≤ p.level + 1 → s.enterChild u p c = .error (fltD 0x15 1)) ∧
    (c.ty ≠ 2 → (c.ty ≤ 2 → p.level + 1 < 32) →
      s.enterChild u p c = .ok ({ p with addr := c.target, ty := c.ty, cnt := c.cnt, level := p.level + 1 }, s)) ∧
    (∀ i y, c.ty = 2 → p.level + 1 < 32 → s.readInst u c.target = .ok (i, y) → s.enterChild u p c =
      .ok ({ addr := i.root, ty := 1, cnt := 0, level := p.level + 1, inst := some i, ilevel := p.level + 1 }, y))) ∧
  (∀ (u : UnitId) (k : Walk) (p q : Pos) (cs : List Child) (s1 s2 s3 s4 : State) (c : Child) (rest : List Child),
    let field (w : Tab Dword) (n lo len : Nat) : Nat := (w.get n 0).toNat / 2 ^ lo % 2 ^ len
    let r := match p.inst with
      | some i => (rayOf k.w).through i.wto
      | none => rayOf k.w
    let enters (w : Tab Dword) (x : Pos) : Prop := field w 17 0 6 = x.level % 64 ∧ field w 17 25 1 = (if x.inst.isSome then 1 else 0) ∧
      field w 17 26 6 = (if x.inst.isSome then x.ilevel % 64 else 0) ∧ field w 18 0 56 = ((x.inst.map (·.node)).getD 0) % 2 ^ 56
    -- a step at a node
    (State.follow u k.w (field k.w 17 0 6) k.s (rootPos k.w) = .ok (p, s1) → p.ty = 1 → s1.readNode u p.addr p.inst.isSome = .ok (cs, s2) →
      (s2.keepUnculled u r k.bound (field k.w 17 16 8) (ordered r cs) = .ok ([], s3) → Walk.step u k = Walk.up u { k with s := s3 }) ∧
      (s2.keepUnculled u r k.bound (field k.w 17 16 8) (ordered r cs) = .ok (c :: rest, s3) → s3.enterChild u p c = .ok (q, s4) →
        ∃ W, Walk.step u k = .ok { k with s := s4, w := W } ∧ enters W q ∧
          let w := rest.reverse.foldl (fun w x => slotPush w x (p.level + 1)) k.w
          W.get 16 0 = BitVec.ofNat 64 (field w 16 0 64 % 4 ^ p.level + c.slot * 4 ^ p.level) ∧ field W 17 6 19 = field w 17 6 19 ∧
          ∀ n, n ∉ [16, 17, 18] → W.get n 0 = w.get n 0)) ∧
    -- a child put on the stack
    (∀ (w : Tab Dword) (lvl : Nat), field w 17 6 4 ≤ 8 → lvl < 64 → c.slot < 4 →
      let W := slotPush w c lvl
      let sp := field w 17 6 4
      let e : Dword := BitVec.ofNat 64 (lvl + (if c.ty = 2 then 64 else 0) + c.target / 128 % 2 ^ 49 * 128 + c.slot * 2 ^ 56)
      (sp < 8 → W.get (8 + sp) 0 = e ∧ field W 17 6 5 = sp + 1 + 16 * field w 17 10 1 ∧ ∀ n, n ≠ 17 → n ≠ 8 + sp → W.get n 0 = w.get n 0) ∧
      (sp = 8 → W.get 15 0 = e ∧ field W 17 6 5 = 8 + 16 ∧ (∀ n, n < 7 → W.get (8 + n) 0 = w.get (9 + n) 0) ∧
        ∀ n, n < 8 ∨ n = 16 ∨ 18 ≤ n → W.get n 0 = w.get n 0) ∧
      ∀ b, b < 64 → b < 6 ∨ 11 ≤ b → (W.get 17 0).getLsbD b = (w.get 17 0).getLsbD b) ∧
    -- up, and the end
    (let sp := field k.w 17 6 4
     let e := (k.w.get (8 + (sp - 1)) 0).toNat
     let lvl := e % 64
     (sp ≠ 0 → sp ≤ 8 → ∀ w : Tab Dword, (∀ n, n ∉ [16, 17, 8 + (sp - 1)] → w.get n 0 = k.w.get n 0) → w.get (8 + (sp - 1)) 0 = 0 →
       w.get 16 0 = BitVec.ofNat 64 (field k.w 16 0 64 % 4 ^ (lvl - 1) + e / 2 ^ 56 % 4 * 4 ^ (lvl - 1)) →
       field w 17 0 10 = lvl + 64 * (sp - 1) → (w.get 17 0).toNat / 2 ^ 10 = (k.w.get 17 0).toNat / 2 ^ 10 →
       State.follow u w lvl k.s (rootPos w) = .ok (q, s1) →
       ∃ W, Walk.up u k = .ok { k with s := s1, w := W } ∧ enters W q ∧ W.get 16 0 = w.get 16 0 ∧ field W 17 6 19 = field w 17 6 19 ∧
         ∀ n, n ∉ [16, 17, 18] → W.get n 0 = w.get n 0) ∧
     (sp = 0 → field k.w 17 10 1 = 0 → Walk.up u k = .ok k.finish) ∧
     (k.best = none → ∃ W, k.finish = { k with w := W } ∧ field W 17 0 11 = 0 ∧ field W 17 14 2 = 2 ∧ (∀ n, n < 9 → W.get (8 + n) 0 = 0) ∧
       (∀ n, n < 8 ∨ 18 ≤ n → W.get n 0 = k.w.get n 0) ∧ (W.get 17 0).toNat / 2 ^ 16 = (k.w.get 17 0).toNat / 2 ^ 16 ∧
       field W 17 11 3 = field k.w 17 11 3)) ∧
    -- a step at a leaf
    (∀ (hs : List Hit) (x : Hit), State.follow u k.w (field k.w 17 0 6) k.s (rootPos k.w) = .ok (p, s1) → p.ty ≠ 1 →
      s1.leafHits u p r (field k.w 17 24 1 == 1) = .ok (hs, s2) → k.best = none →
      (field k.w 17 11 3 = 2 → hs = [] → Walk.step u k = Walk.up u { k with s := s2 }) ∧
      (field k.w 17 11 3 = 2 → hs ≠ [] → ∃ W, Walk.step u k = .ok { k with s := s2, w := W } ∧ field W 17 14 2 = 2 ∧
        W.get 4 0 = (rayOf k.w).tmax.setWidth 64 ∧ W.get 5 0 = 0 ∧ W.get 6 0 = BitVec.ofNat 64 (2 ^ 32)) ∧
      (field k.w 17 11 3 = 1 → (k.addr ≠ none ∨ k.held = none) → hs = [] → k.held = none → Walk.step u k = Walk.up u { k with s := s2 }) ∧
      (field k.w 17 11 3 = 1 → (k.addr ≠ none ∨ k.held = none) → x ∈ hs → (∀ h, k.held = some h → x.before h = true) →
        (∀ A B, hs = A ++ x :: B → (∀ y ∈ A, x.before y = true) → (∀ y ∈ B, y.before x = false) →
          ∃ W, Walk.step u k = Walk.up u { k with s := s2, w := W, addr := some x.addr } ∧
            W.get 4 0 = BitVec.ofNat 64 (x.t.toNat + x.u.toNat * 2 ^ 32) ∧
            W.get 5 0 = BitVec.ofNat 64 (x.v.toNat + x.inst % 2 ^ 32 * 2 ^ 32) ∧ field W 6 0 32 = x.prim % 2 ^ 32 ∧
            field W 6 32 32 = (1 + (if x.front then 2 else 0) + x.kind * 4 + x.sub * 16 + x.ca * 128 + x.cb * 4096 + x.half * 2 ^ 17) % 2 ^ 32 ∧
            ∀ n, n ∉ [4, 5, 6] → W.get n 0 = k.w.get n 0))) ∧
    -- the records of a triangle leaf, and the order of hits
    (∀ (i : Inst) (n : Nat) (hs : List Hit) (b : List Byte) (cull : Bool), p.ty = 3 → p.inst = some i →
      s1.leafHits u { p with cnt := 0 } r cull = .ok ([], s1) ∧
      (s1.leafHits u { p with cnt := n } r cull = .ok (hs, s2) → s2.sceneLoad u (BitVec.ofNat 64 (p.addr + 48 * n)) 48 = .ok (b, s3) →
        let at_ (j : Nat) : Word := BitVec.ofNat 32 (leNat ((b.drop (4 * j)).take 4))
        let new : List Hit := if (List.range 9).any (fun j => match val32 (at_ j) with | .fin _ => false | _ => true) then [] else
          match triTest r cull [at_ 0, at_ 1, at_ 2] [at_ 3, at_ 4, at_ 5] [at_ 6, at_ 7, at_ 8] with
          | some h => [{ t := h.t, u := h.u, v := h.v, inst := i.index, prim := (at_ 9).toNat, addr := p.addr + 48 * n, kind := 0, sub := 0,
                         ca := 0, cb := 0, half := 0, front := h.front }]
          | none => []
        s1.leafHits u { p with cnt := n + 1 } r cull = .ok (hs ++ new, s3))) ∧
    (∀ x y : Hit, val32 x.t ≠ .nan → val32 y.t ≠ .nan →
      let key (h : Hit) : List Nat := [h.inst, h.prim, h.addr, if h.kind = 1 then h.sub else 32 * h.ca + h.cb, h.half]
      (x.before y = true ↔ (val32 x.t).cmp (val32 y.t) < 0 ∨ ((val32 x.t).cmp (val32 y.t) = 0 ∧ key x < key y)))) ∧
  (∀ (s : State) (u : UnitId) (l : Nat),
    let w := s.slot u l
    let field (n lo len : Nat) : Nat := (w.get n 0).toNat / 2 ^ lo % 2 ^ len
    let word (n lo : Nat) : Word := BitVec.ofNat 32 (field n lo 32)
    let sets (W : Tab Dword) (fs : List (Nat × Nat × Nat × Nat)) : Prop :=
      (∀ f ∈ fs, (W.get f.1 0).toNat / 2 ^ f.2.1 % 2 ^ f.2.2.1 = f.2.2.2 % 2 ^ f.2.2.1) ∧
      ∀ n b, b < 64 → (∀ f ∈ fs, ¬ (f.1 = n ∧ f.2.1 ≤ b ∧ b < f.2.1 + f.2.2.1)) → (W.get n 0).getLsbD b = (w.get n 0).getLsbD b
    let r := rayOf w
    let lt (x y : Word) : Bool := val32 x != .nan && val32 y != .nan && decide ((val32 x).cmp (val32 y) < 0)
    -- a step of a traversal in flight
    (∀ k, field 17 11 3 ≠ 3 →
      Walk.step u { s := s, w := w, addr := ((s.groupOf u).hitRec.find l).map (·.toNat), best := (s.groupOf u).nexts.find l } = .ok k →
      s.traceStep u l = .ok ((k.s.slotPut u l k.w).onGroupOf u fun g => { g with
        hitRec := g.hitRec.place l (k.addr.map fun a => BitVec.ofNat 64 a), nexts := g.nexts.place l k.best })) ∧
    -- a volume record, and a density
    (∀ (a : Nat) (b : List Byte) (z : State), s.sceneLoad u (BitVec.ofNat 64 a) 64 = .ok (b, z) → a % 64 = 0 →
      let num (at_ n : Nat) : Nat := leNat ((b.drop at_).take n)
      let w6 := num 48 8
      let w7 := num 56 8
      let formed : Prop := w6 / 2 ^ 31 = 1 ∧ w7 < 2 ^ 56 ∧ w7 % 4 = 0
      (¬ formed → s.readVolume u a = .error (fltD 0x15 2)) ∧
      (formed → s.readVolume u a = .ok ({ wtg := (List.range 12).map fun n => BitVec.ofNat 32 (num (4 * n) 4)
                                          n := [w6 % 1024 + 1, w6 / 2 ^ 10 % 1024 + 1, w6 / 2 ^ 20 % 1024 + 1]
                                          den := decide (w6 / 2 ^ 30 % 2 = 1), maj := w7 }, z))) ∧
    (∀ a, a % 64 ≠ 0 → s.readVolume u a = .error (fltD 0x15 2)) ∧
    (∀ (a : Nat) (b : List Byte) (z : State), s.sceneLoad u (BitVec.ofNat 64 a) 4 = .ok (b, z) →
      let v : Word := BitVec.ofNat 32 (leNat b)
      s.readDensity u a = if val32 v = .nan ∨ val32 v = .inf false ∨ val32 v = .inf true ∨ lt v 0 = true then .error (fltD 0x15 2) else .ok (v, z)) ∧
    ∀ (v : Volume) (s1 : State), s.readVolume u (field 19 0 56) = .ok (v, s1) →
      let g := r.through v.wtg
      let o (x : Nat) : Word := g.o.getD x 0
      let d (x : Nat) : Word := g.d.getD x 0
      let size (x : Nat) : Nat := v.n.getD x 1
      -- the start of a march
      (field 20 31 1 = 1 → v.den = false → s.marchStart u l = .error (fltD 0x15 2)) ∧
      (field 20 31 1 = 0 ∨ v.den = true →
        (boxTest [0, 0, 0] (v.n.map fun n => rnInt n 0) g r.tmin r.tmax = none → ∃ W, s.marchStart u l = .ok (s1.slotPut u l W) ∧
          sets W [(21, 0, 32, r.tmax.toNat), (21, 32, 32, r.tmax.toNat), (20, 30, 1, 0), (20, 36, 2, 0), (17, 14, 2, 2)]) ∧
        (∀ t0 t1, boxTest [0, 0, 0] (v.n.map fun n => rnInt n 0) g r.tmin r.tmax = some (t0, t1) →
          ∃ (W : Tab Dword) (cell : Nat → Nat), s.marchStart u l = .ok (s1.slotPut u l W) ∧
            sets W [(21, 0, 32, t0.toNat), (21, 32, 32, t1.toNat), (20, 0, 10, cell 0), (20, 10, 10, cell 1), (20, 20, 10, cell 2), (20, 30, 1, 1)] ∧
            ∀ x, x < 3 → 1 ≤ size x →
              let at_ := val32 (add32 (o x) (mul32 t0 (d x)))
              cell x < size x ∧ (at_ = .inf false → cell x = size x - 1) ∧ (at_ = .inf true → cell x = 0) ∧
              ∀ y, at_ = .fin y → ∃ k ix, RoundsTo 3 y 0 k ix ∧ cell x = if y.neg then 0 else min (size x - 1) k)) ∧
      -- one step in a cell
      (let cell (x : Nat) : Nat := field 20 (10 * x) 10
       let q := cell 0 + size 0 * (cell 1 + size 1 * cell 2)
       let exit_ (x : Nat) : Word := if (d x).toNat % 2 ^ 31 = 0 then 0x7F800000 else
         div32 (sub32 (rnInt (cell x + (if lt 0 (d x) then 1 else 0)) 0) (o x)) (d x)
       let m := minW (minW (exit_ 0) (exit_ 1)) (exit_ 2)
       let vt := word 21 0
       let vend := word 21 32
       let te := maxW vt (minW vend m)
       let drawn (n : Nat) : Nat × Nat × Nat × Nat := (23, 32, 32, field 23 32 32 + n)
       let same (x y : Word) : Bool := val32 x != .nan && val32 y != .nan && (val32 x).cmp (val32 y) == 0
       let next (x : Nat) : Int := if same (exit_ x) m then
         (if lt 0 (d x) then (cell x : Int) + 1 else if lt (d x) 0 then (cell x : Int) - 1 else cell x) else cell x
       let off : Prop := ∃ x, x < 3 ∧ (next x < 0 ∨ (size x : Int) ≤ next x)
       let goesOn (z : State) (fs : List (Nat × Nat × Nat × Nat)) : Prop := ∃ W, s.marchPass u l = .ok (W, z) ∧
         (lt te vend = false → sets W (fs ++ [(21, 0, 32, vend.toNat), (20, 30, 1, 0), (20, 36, 2, 0), (17, 14, 2, 2)])) ∧
         (lt te vend = true → ¬ off →
           sets W (fs ++ [(21, 0, 32, te.toNat), (20, 0, 10, (next 0).toNat), (20, 10, 10, (next 1).toNat), (20, 20, 10, (next 2).toNat)])) ∧
         (lt te vend = true → off → sets W (fs ++ [(21, 0, 32, vend.toNat), (20, 0, 10, (next 0 % 1024).toNat), (20, 10, 10, (next 1 % 1024).toNat),
           (20, 20, 10, (next 2 % 1024).toNat), (20, 30, 1, 0), (20, 36, 2, 0), (17, 14, 2, 2)]))
       ∀ sb s2, s1.readDensity u (v.maj + 4 * q) = .ok (sb, s2) →
         let bar : Nat × Nat × Nat × Nat := (22, 0, 32, sb.toNat)
         (lt 0 sb = false → goesOn s2 [bar]) ∧
         (∀ s3 k, lt 0 sb = true → s2.drawLane u l (field 20 32 4) = .ok (s3, k) →
           let tc := add32 vt (div32 (freeFlight k) sb)
           (lt tc te = false → goesOn s3 [bar, drawn 1]) ∧
           (lt tc te = true → field 20 31 1 = 0 → ∃ W, s.marchPass u l = .ok (W, s3) ∧
             sets W [bar, drawn 1, (21, 0, 32, tc.toNat), (20, 36, 2, 1), (17, 14, 2, 2)]) ∧
           (∀ s4 k2 sg s5, lt tc te = true → field 20 31 1 = 1 → s3.drawLane u l (field 20 32 4) = .ok (s4, k2) →
             s4.readDensity u (v.maj + 4 * (size 0 * size 1 * size 2 + q)) = .ok (sg, s5) →
             let takes : Prop := (FloatVal.fin { neg := false, mag := k2, exp := -24, more := false }).cmp (val32 (div32 sg sb)) < 0
             let now := [bar, drawn 2, (21, 0, 32, tc.toNat), (22, 32, 32, sg.toNat)]
             (takes → ∃ W, s.marchPass u l = .ok (W, s5) ∧ sets W (now ++ [(20, 36, 2, 2), (17, 14, 2, 2)])) ∧
             (¬ takes → ∃ W, s.marchPass u l = .ok (W, s5) ∧ sets W (now ++ [(23, 0, 32, field 23 0 32 + 1)]))))) ∧
      (∀ W z, field 20 30 1 = 1 → s.marchPass u l = .ok (W, z) → ∃ (y : State) (V : Tab Dword), s.marchStep u l = .ok (y.slotPut u l V) ∧
        (∀ n, n ≠ 25 → V.get n 0 = W.get n 0) ∧ (V.get 25 0).toNat % 2 ^ 17 = (z.bindOf u l).cur.get ((W.get 20 0).toNat / 2 ^ 32 % 16) 0 % 2 ^ 17 ∧
        (∀ n, y.bindOf u n = z.bindOf u n) ∧ y.mem = z.mem) ∧
      (field 20 30 1 = 0 → s.marchStep u l = s.marchStart u l)) ∧
  ∀ (s : State) (c g i : Nat) (f : LA) (x : TraceX) (m : MarchX),
    let u := UnitId.path c g i
    let ls := (s.maskOf u).lanes
    let k := s.group c g
    let field (l n lo w : Nat) : Nat := ((s.slot u l).get n 0).toNat / 2 ^ lo % 2 ^ w
    let finished (j : Instr) (t : State) (v : Nat → Nat) : Prop :=
      (s.onGroup c g fun k => { k with traced := (k.traced ||| s.maskOf u) &&& ~~~(s.maskOf u) }).LaneDone t u j f.d.toNat f.k 32
        (fun l => BitVec.ofNat 64 (v l)) 0
    let block : Bool := decide (f.a.toNat % 8 = 0 ∧ f.a.toNat ≤ 56)
    (∀ l : Nat,
      let at_ (n : Nat) : Word := s.vget u l (f.a.toNat + n)
      let pair (n : Nat) : Dword := at_ (2 * n + 1) ++ at_ (2 * n)
      let ray : Ray := { o := [at_ 0, at_ 1, at_ 2], tmin := at_ 3, d := [at_ 4, at_ 5, at_ 6], tmax := at_ 7 }
      let there := s.srcL u f.b.toNat l 64
      let b := s.bindOf u l
      let pc := (s.thread u).pc.toNat % 2 ^ 56
      let part (w : Tab Dword) (n lo len : Nat) : Nat := (w.get n 0).toNat / 2 ^ lo % 2 ^ len
      let began (a : Except Flt State) (p : Tab Dword → Prop) : Prop := ∃ sl hr nx, p sl ∧
        a = .ok (s.onGroup c g fun k => { k with slots := k.slots.put l sl, hitRec := hr, nexts := nx })
      (∀ op ∈ [1, 2],
        let loaded (phase : Nat) (sl : Tab Dword) : Prop := ∀ n, n < 32 → sl.get n 0 = match n with
          | 0 => pair 0 | 1 => pair 1 | 2 => pair 2 | 3 => pair 3 | 4 => (at_ 7).setWidth 64
          | 7 => BitVec.ofNat 64 (there.toNat % 2 ^ 56)
          | 17 => BitVec.ofNat 64 (op * 2 ^ 11 + phase * 2 ^ 14 + x.vmask.toNat * 2 ^ 16 + (if x.cullb then 2 ^ 24 else 0))
          | 26 => BitVec.ofNat 64 pc
          | _ => 0
        let a := (traceOp f x op).begin_ s u l
        (ray.void = true → began a (loaded 2)) ∧
        (ray.void = false → there.toNat % 128 = 0 → there.toNat < 2 ^ 56 → began a (loaded 1)) ∧
        (ray.void = false → there.toNat % 128 ≠ 0 ∨ 2 ^ 56 ≤ there.toNat → a = .error (fltD 0x15 0))) ∧
      (let needs : Prop := field l 17 14 2 = 2 ∧ (field l 17 11 3 = 1 ∨ field l 17 11 3 = 3)
       let a := traceoOp.begin_ s u l
       let afresh (phase : Nat) (sl : Tab Dword) : Prop := (∀ n, n < 4 → sl.get n 0 = (s.slot u l).get n 0) ∧
         sl.get 7 0 = (s.slot u l).get 7 0 ∧ part sl 17 0 11 = 0 ∧ sl.get 16 0 = 0 ∧ part sl 17 11 3 = 3 ∧ part sl 17 14 2 = phase ∧
         part sl 17 16 9 = field l 17 16 9 ∧ part sl 26 0 56 = pc
       (¬ needs → a = .error (fltD 0x15 3)) ∧
       (needs → (rayOf (s.slot u l)).void = false → began a (afresh 1)) ∧
       (needs → (rayOf (s.slot u l)).void = true → began a fun sl => afresh 2 sl ∧ part sl 6 32 32 = 0)) ∧
      (let starts (phase : Nat) (sl : Tab Dword) : Prop := (∀ n, n < 4 → sl.get n 0 = pair n) ∧ (∀ n, n < 3 → sl.get (4 + n) 0 = 0) ∧
         part sl 19 0 56 = there.toNat % 2 ^ 56 ∧ part sl 20 30 2 = (if m.den then 2 else 0) ∧ part sl 20 32 6 = m.strm.toNat ∧
         part sl 23 0 64 = 0 ∧ part sl 24 0 56 = b.ptr.toNat % 2 ^ 56 ∧ part sl 25 0 17 = b.cur.get m.strm.toNat 0 % 2 ^ 17 ∧
         part sl 17 11 3 = 4 ∧ part sl 17 14 2 = phase ∧ part sl 26 0 56 = pc
       let a := (marchOp f m).begin_ s u l
       m.next = false →
        (b.bound = false → a = .error (fltD 0x14 0)) ∧ (b.bound = true → b.nstr ≤ m.strm.toNat → a = .error (fltD 0x14 2)) ∧
        (b.bound = true → m.strm.toNat < b.nstr →
          (ray.void = true → began a fun sl => starts 2 sl ∧ sl.get 21 0 = at_ 7 ++ at_ 7) ∧
          (ray.void = false → there.toNat % 64 ≠ 0 → a = .error (fltD 0x15 2)) ∧
          (ray.void = false → there.toNat % 64 = 0 → 2 ^ 56 ≤ there.toNat →
            a = .error { cause := 2, detail := 0, addr := there, kind := 0, level := 3 }) ∧
          (ray.void = false → there.toNat % 64 = 0 → there.toNat < 2 ^ 56 → began a (starts 1)))) ∧
      (let needs : Prop := field l 20 30 1 = 1 ∧ (field l 20 36 2 = 1 ∨ field l 20 36 2 = 2) ∧ field l 17 14 2 = 2
       let a := (marchOp f m).begin_ s u l
       m.next = true →
        (¬ needs → a = .error (fltD 0x15 3)) ∧
        (needs → ¬ (b.bound = true ∧ b.ptr.toNat = field l 24 0 56) → a = .error (fltD 0x15 5)) ∧
        (needs → b.bound = true → b.ptr.toNat = field l 24 0 56 → ∃ sl,
          a = .ok (s.onGroup c g fun k => { k with slots := k.slots.put l sl }) ∧ part sl 17 11 3 = 4 ∧ part sl 17 14 2 = 1 ∧
          part sl 26 0 56 = pc ∧ ∀ n, n < 32 → n ≠ 17 → n ≠ 26 → sl.get n 0 = (s.slot u l).get n 0))) ∧
    (∀ (j : Instr) (op : RayOp) (v : State → Nat → Nat),
      (j, op, v, true) ∈ [(Instr.trace f x, traceOp f x 1, fun q l => ((q.slot u l).get 6 0).toNat / 2 ^ 32, block),
        (.tracea f x, traceOp f x 2, fun q l => ((q.slot u l).get 6 0).toNat / 2 ^ 32, block),
        (.traceo f x, traceoOp, fun q l => ((q.slot u l).get 6 0).toNat / 2 ^ 32, true),
        (.vmarch f m, marchOp f m, fun q l => ((q.slot u l).get 20 0).toNat / 2 ^ 36 % 4, m.next || block)] →
      s.Issues u j → (∀ n ∈ ls, ¬ (field n 26 0 56 = (s.thread u).pc.toNat % 2 ^ 56 ∧
        (field n 17 14 2 = 1 ∨ (field n 17 14 2 = 2 ∧ k.traced.getLsbD n = true)))) →
      (∀ q, ls.foldlM (fun y l => op.begin_ (y.onGroup c g fun k => { k with traced := k.traced &&& ~~~(Dword.bit l) }) u l) s = .ok q →
        let phase (n : Nat) : Nat := ((q.slot u n).get 17 0).toNat / 2 ^ 14 % 4
        ((∃ n ∈ ls, phase n = 1 ∧ ∃ z, op.step (q.waitIn u { instr := j, lo := 0 }) u n = .ok z) → ∃ t tr, exec j s = .next t ∧
          (q.onGroup c g fun k => { k with traced := tr }).WaitsIn t u j ∧
          ∀ n, n < 64 → (tr.getLsbD n = true ↔ (q.group c g).traced.getLsbD n = true ∨ (n ∈ ls ∧ phase n ≠ 1))) ∧
        ((∀ n ∈ ls, phase n ≠ 1) → ∃ t tr, exec j s = .next t ∧ (q.onGroup c g fun k => { k with traced := tr }).LaneDone t u j f.d.toNat f.k 32
          (fun l => BitVec.ofNat 64 (v q l)) 0)) ∧
      (∀ l e, ls = [l] → op.begin_ (s.onGroup c g fun k => { k with traced := k.traced &&& ~~~(Dword.bit l) }) u l = .error e →
        ∃ sl tr, exec j s = .next (((s.waitIn u { instr := j, lo := 2 ^ l }).onGroup c g fun k => { k with slots := sl, traced := tr }).faultUnit u e) ∧
          (e.cause = 0x14 ∨ (e.cause = 0x15 ∧ 4 ≤ e.detail) → sl = k.slots) ∧
          (e.cause = 0x15 → e.detail < 4 → ((sl.get l .empty).get 17 0).toNat / 2 ^ 14 % 4 = 0))) ∧
    ∀ (l : Nat) (j ev : Instr) (op : RayOp) (v : Nat → Nat),
      (j, ev, op, v, true) ∈ [(Instr.trace f x, Instr.traversalStep c g l, traceOp f x 1, fun l => field l 6 32 32, block),
        (.tracea f x, .traversalStep c g l, traceOp f x 2, fun l => field l 6 32 32, block),
        (.traceo f x, .traversalStep c g l, traceoOp, fun l => field l 6 32 32, true),
        (.vmarch f m, .marchStep c g l, marchOp f m, fun l => field l 20 36 2, m.next || block)] →
      (s.Issues u j → (∀ n ∈ ls, field n 26 0 56 = (s.thread u).pc.toNat % 2 ^ 56 ∧ field n 17 14 2 = 2 ∧ k.traced.getLsbD n = true) →
        ∃ t, exec j s = .next t ∧ finished j t v) ∧
      (s.Issues u j → (∀ n ∈ ls, field n 26 0 56 = (s.thread u).pc.toNat % 2 ^ 56 ∧ field n 17 14 2 = 1) →
        (∃ n ∈ ls, ∃ q, op.step (s.waitIn u { instr := j, lo := 0 }) u n = .ok q) →
        ∃ t, exec j s = .next t ∧ s.WaitsIn t u j) ∧
      ((s.thread u).waiting = some j → (s.thread u).wait = some { instr := j, lo := 0 } → s.pathOfLane c g l = some u →
        ((∀ n ∈ ls, field n 17 14 2 = 2) → ∃ t, exec ev s = .next t ∧ finished j t v) ∧
        (∀ q, field l 17 14 2 = 1 → op.step s u l = .ok q → (q.thread u).wait = (s.thread u).wait →
          let phase (n : Nat) : Nat := ((q.slot u n).get 17 0).toNat / 2 ^ 14 % 4
          (∃ n ∈ (q.maskOf u).lanes, phase n = 1 ∧ ∃ z, op.step q u n = .ok z) →
          ∃ tr, exec ev s = .next (q.onGroup c g fun k => { k with traced := tr }) ∧
            ∀ n, n < 64 → (tr.getLsbD n = true ↔ (q.group c g).traced.getLsbD n = true ∨ (n ∈ (q.maskOf u).lanes ∧ phase n ≠ 1))))

/-! The engines' commands, and batches. -/

/-- spec/10 R237, R239 to R242, R244, spec/11 R250, R251, R254, R255, R258, R262, R267, spec/02 R53, spec/07 R170: an engine command
that is not empty and whose guard is not resolved against it is placed last in its queue with its operands, the tiles it reads
and writes, its guard and, where it writes scratchpad of the team, the lines that hold what it will write; it takes the team's
next number. One that its guard discards, or that has nothing to do, is complete at once; one that finds no room waits. spec/04
R99, spec/10 R243: BFENCE closes the commands issued since the last BFENCE into batch n; BWAIT departs, as an acquire at core
scope, once none of the commands of the batch's latest closure is incomplete, and waits until then; BATCH_WAIT_COMPLETE lets it depart
later. A box copy's record, and the lines whose number stands in it, are fixed at issue unless a LAYOUT is queued before it: the model's
reading (notes/assumptions/21.md). -/
def Obligations.EngineCommands : Prop :=
  (∀ (s : State) (u : UnitId) (f : GA) (cp : CpyX) (la : LayoutX) (zf : ZfillX) (om : OmapX) (mm : MmaX) (tk : TopkX) (mt : MtileX)
    (st : StoreX) (tc : TcfgX) (im : ImageX) (co : CollX) (i : Instr) (q : Nat) (gen : Bool) (slot : BitVec 4) (sense : Bool)
    (ops : List Dword) (rd wr : List Nat) (spans : Option (List (Nat × Nat))) (void : Bool),
    let tm := s.teamOf u
    let r := fun n : Nat => s.sget u n
    let d := r f.d.toNat
    let a := s.srcG u f.a.toNat
    let b := r f.b.toNat
    let k := fun x : BitVec 2 => [x.toNat]
    let queue := (tm.eng.get q .none).cmds
    let rows := topkRows a
    let room : Prop := if q = 0 ∨ q = 3 then
        (((s.core u.place).teams.cells.map fun x => (x.2.eng.get 0 .none).cmds.length + (x.2.eng.get 3 .none).cmds.length).sum) < 1024
      else queue.length < 64
    let go : Option Bool := if gen then (tm.guards.find slot.toNat).map (· == sense) else some true
    let ahead : State := s.onTeamOf u fun m => { m with nextCmd := tm.nextCmd + 1 }
    (i, q, gen, slot, sense, ops, rd, wr, spans, void) ∈
      [(Instr.cpy f cp, 0, cp.gen, cp.gslot, cp.gsense,
          if 4 ≤ cp.mode.toNat ∧ cp.mode.toNat ≤ 5 then [d, a, b, r (f.b.toNat + 1), r (f.b.toNat + 2)] else [d, a + cp.soff.signExtend 64, b],
          [], [], if cp.mode = 0 ∨ cp.mode = 3 then some [(d.toNat, b.toNat)] else if cp.mode = 4 then none else some [],
          if 4 ≤ cp.mode.toNat ∧ cp.mode.toNat ≤ 5 then false else b == 0),
        (.layout f la, 0, la.gen, la.gslot, la.gsense, [a], [], [], some [], false),
        (.zfill f zf, 0, zf.gen, zf.gslot, zf.gsense, [a + zf.off.signExtend 64, b], [], [],
          some (if zf.sp then [((a + zf.off.signExtend 64).toNat, b.toNat)] else []), b == 0),
        (.omap f om, 1, om.gen, om.gslot, om.gsense, [a], [], [], some [], false),
        (.mma f mm, 1, mm.gen, mm.gslot, mm.gsense, [], if mm.acc then k mm.tile else [], k mm.tile, some [], false),
        (.msqd f mm, 1, mm.gen, mm.gslot, mm.gsense, [], if mm.acc then k mm.tile else [], k mm.tile, some [], false),
        (.mtopk f tk, 1, tk.gen, tk.gslot, tk.gsense, [d, a], k tk.tile, [], some [(d.toNat, 8 * (tk.km1.toNat + 1) * rows)], false),
        (.mzero f mt, 1, mt.gen, mt.gslot, mt.gsense, [], [], k mt.tile, some [], false),
        (.mstore f st, 1, st.gen, st.gslot, st.gsense, [d, b], k st.tile, [],
          some (if st.sp then (List.range 128).map fun n => (d.toNat + n * b.toNat, if st.ty then 256 else 512) else []), false),
        (.maddt f mt, 2, mt.gen, mt.gslot, mt.gsense, [a], k mt.tile, [], some [], false),
        (.tcfg f tc, 2, tc.gen, tc.gslot, tc.gsense, [a, b], [], [], some [], false),
        (.tevict f im, if im.obj then 1 else 2, im.gen, im.gslot, im.gsense, [a, b], if im.obj then k im.tile else [], [], some [], false),
        (.trestore f im, if im.obj then 1 else 2, im.gen, im.gslot, im.gsense, [a, b], [], if im.obj then k im.tile else [], some [], false),
        (.callred f co, 3, co.gen, co.gslot, co.gsense, [d, a, b], [], [], if co.dsp then none else some [], false),
        (.cgather f co, 3, co.gen, co.gslot, co.gsense, [d, a, b], [], [], if co.dsp then none else some [], false)] →
    ∀ x, s.ComesTo u i (.engineQueueRoom u) x →
    (room → void = false → go ≠ some false → ∃ t c, x = .next t ∧ c.id = tm.nextCmd ∧ c.instr = i ∧ c.ops = ops ∧
      c.guard = (if gen then some (slot.toNat, sense) else none) ∧ c.go = go ∧ c.rdTiles = rd ∧ c.wrTiles = wr ∧ c.progress = 0 ∧
      c.begun = false ∧ c.park = none ∧
      (∀ rs, spans = some rs → (∀ x ∈ rs, x.1 < 2 ^ 20 ∧ x.2 ≤ 2 ^ 30 ∧ x.1 + x.2 ≤ tm.spSize) →
        ∀ l, l ∈ c.lines ↔ ∃ x ∈ rs, ∃ n, x.1 ≤ n ∧ n < x.1 + x.2 ∧ l = n / 256) ∧
      ((∀ g y, i = .cpy g y → ¬ (4 ≤ y.mode.toNat ∧ y.mode.toNat ≤ 5)) → c.record = none) ∧
      -- a box copy is placed with the record of its handle, unless a LAYOUT stands before it
      (∀ g y, i = .cpy g y → 4 ≤ y.mode.toNat ∧ y.mode.toNat ≤ 5 →
        let behind : Prop := ∃ z ∈ (tm.eng.get 0 .none).cmds, ∃ g y, z.instr = .layout g y
        (behind → c.record = none) ∧
        (∀ e, ¬ behind → ((s.core u.place).layouts.find? fun e => e.ctx == s.ctxOf u && e.handle == a.toNat) = some e →
          let n := boxCount ops * layoutElem (recType e.words)
          c.record = some e.words ∧ (y.mode = 4 → 1 ≤ n → n ≤ 2 ^ 30 → d.toNat < 2 ^ 20 → d.toNat + n ≤ tm.spSize →
            ∀ l, l ∈ c.lines ↔ ∃ b, d.toNat ≤ b ∧ b < d.toNat + n ∧ l = b / 256))) ∧
      (ahead.onTeamOf u fun m => { m with eng := m.eng.put q { m.eng.get q .none with cmds := queue ++ [c] } }).PlainDone t u i false) ∧
    (room → void = true ∨ go = some false → ∃ t, x = .next t ∧ ahead.PlainDone t u i false) ∧
    (¬ room → ∃ t, x = .next t ∧ s.WaitsIn t u i)) ∧
  (∀ (s : State) (u : UnitId) (f : GI) (lo hi : Nat),
    let tm := s.teamOf u
    let open_ := fun c : Cmd => lo ≤ c.id ∧ c.id < hi
    (s.Issues u (.bfence f) → ∃ t, exec (.bfence f) s = .next t ∧
      (s.onTeamOf u fun m => { m with closures := m.closures.put f.imm.toNat (tm.fenceLo, tm.nextCmd), fenceLo := tm.nextCmd }).PlainDone
        t u (.bfence f) false) ∧
    ∀ x, tm.closures.get f.imm.toNat (0, 0) = (lo, hi) → s.ComesTo u (.bwait f) (.batchWaitComplete u) x →
      ((∀ c ∈ tm.cmds, ¬ open_ c) → ∃ t, x = .next t ∧ (s.acquire u.node 2).PlainDone t u (.bwait f) false) ∧
      ((∃ c ∈ tm.cmds, open_ c) → ∃ t, x = .next t ∧ s.WaitsIn t u (.bwait f)))

/-! Launches from the device, cooperative barriers, record queues, giving way. -/

/-- spec/14 R319, R312, spec/12 R281, R282: LAUNCHD and REPLAY are releases at device scope; LAUNCHD reads the descriptor and the count,
queues one launch of ⌈count / per⌉ teams and writes their number, or 0 where there are none; both wait while the grove's launch
queue holds 256 entries, and LAUNCH_QUEUE_ROOM lets a LAUNCHD go on. RRD reads the list index of a lane. -/
def Obligations.Launching : Prop :=
  ∀ (s : State) (u : UnitId) (f : GA),
    let r := s.release u 4
    let ctx := s.ctxOf u
    let g := (s.ctx ctx).desc.grove
    let queued (z : State) (e : DevLaunch) : State := z.onGrove g fun k => { k with devq := k.devq ++ [e] }
    let launch (d : List Dword) (n : Nat) (a : Dword) (pri : Nat) (l : Option ReplayList) : DevLaunch :=
      { ctx := ctx, desc := d, addr := a.toNat % 2 ^ 56, nteams := n, pri := pri, replay := l }
    let full : Prop := 256 ≤ (s.grove g).devq.length
    (∀ (x : LaunchX) (a : Answer) (db cb : List Byte) (s2 s3 : State),
      s.ComesTo u (.launchd f x) (.launchQueueRoom u) a →
      r.sceneLoad u (s.srcG u f.a.toNat) 64 = .ok (db, s2) → s2.sceneLoad u (s.sget u f.b.toNat) 8 = .ok (cb, s3) →
      let n := (leNat cb + x.pm1.toNat) / (x.pm1.toNat + 1)
      let w := dwordsOfBytes 8 db
      let d := w.set 1 (BitVec.ofNat 64 ((wordAt w 1).toNat / 2 ^ 32 * 2 ^ 32 + n % 2 ^ 32))
      (n = 0 → ∃ t, a = .next t ∧ s3.ScalarDone t u (.launchd f x) f.d.toNat f.k 0) ∧
      (n ≠ 0 → n ≤ 2 ^ 32 → s.descOk ctx w = true → ¬ full → ∃ t, a = .next t ∧
        (queued s3 (launch d n (s.srcG u f.a.toNat) x.qpri.toNat none)).ScalarDone t u (.launchd f x) f.d.toNat f.k (BitVec.ofNat 64 n)) ∧
      (n ≠ 0 → n ≤ 2 ^ 32 → s.descOk ctx w = true → full → ∃ t, a = .next t ∧ r.WaitsIn t u (.launchd f x)) ∧
      ((2 ^ 32 < n ∨ (n ≠ 0 ∧ s.descOk ctx w = false)) → a = .next (r.faultUnit u (fltD 0x23 0)))) ∧
    (∀ d : List Dword, s.descOk ctx d = true → (wordAt d 4).toNat / 2 ^ 32 % 2 ^ 8 ≤ 224 ∧ (wordAt d 4).toNat / 2 ^ 40 % 2 ^ 3 ≤ 4 ∧
      (wordAt d 4).toNat / 2 ^ 43 % 2 ^ 6 ≤ 32 ∧ (wordAt d 4).toNat / 2 ^ 5 % 2 ^ 27 = 0 ∧ (wordAt d 4).toNat < 2 ^ 51 ∧
      (wordAt d 3).toNat % 64 = 0 ∧ (wordAt d 5).toNat % 4096 = 0 ∧ wordAt d 6 = 0 ∧ wordAt d 7 = 0 ∧
      (∀ n ∈ [0, 2, 3, 5], (wordAt d n).toNat < 2 ^ 56) ∧
      ∀ j, s.kernelAt ctx (wordAt d 0).toNat = some j → wordAt d 5 ≠ 0 →
        let teams := (wordAt d 1).toNat % 2 ^ 32
        (wordAt d 5).toNat + 4096 * kernelGroups j * j.width * (if teams = 0 then 2 ^ 32 else teams) < 2 ^ 56) ∧
    (∀ (x : ReplayX) (ws : List Dword) (s2 : State),
      let n := (s.sget u f.b.toNat).toNat
      let a := s.srcG u f.a.toNat
      let dst := s.sget u f.d.toNat
      let recs := (List.range n).map fun k => (ws.drop (8 * k)).take 8
      s.Issues u (.replay f x) → 1 ≤ n → n ≤ 65536 → a.toNat % 64 = 0 → dst.toNat % 8 = 0 →
      r.plainWords (r.whoOf u) ctx a (8 * n) = .ok (ws, s2) → s.replayOk ctx recs = true →
      (¬ full → ∃ t, exec (.replay f x) s = .next t ∧
        (queued s2 (launch (replayDesc (recs.getD 0 [])) (dTeams (replayDesc (recs.getD 0 []))) a x.qpri.toNat
          (some { recs := recs, list := a, dest := dst }))).PlainDone t u (.replay f x) false) ∧
      (full → ∃ t, exec (.replay f x) s = .next t ∧ r.WaitsIn t u (.replay f x))) ∧
    (s.Issues u (.rrd f) → ∃ t, exec (.rrd f) s = .next t ∧ s.ScalarDone t u (.rrd f) f.d.toNat f.k
      (match u with
        | .path c k _ =>
          let n := (s.srcG u f.a.toNat).toNat
          if (s.grid (s.gridOf u)).replay.isSome = true ∧ n < (s.group c k).width then
            (((s.group c k).replayIdx.find n).map (BitVec.ofNat 64)).getD (BitVec.allOnes 64)
          else BitVec.allOnes 64
        | _ => BitVec.allOnes 64))

/-- spec/14 R321, R322: RQPUT and RQPUTN put the record at TAIL and advance it, as a release at device scope; RQGET and RQGETN take
the record at HEAD and advance it, as an acquire; the ones that do not wait give their status, and with a full or an empty queue they
access the header alone; RQPUT and RQGET wait, and RECORD_QUEUE_WAIT_END lets them go on; RQCNT gives TAIL − HEAD. The header must keep R321. -/
def Obligations.RecordQueues : Prop :=
  ∀ (s : State) (u : UnitId) (f : GA) (q : RecordQueue),
    let a := s.srcG u f.a.toNat
    let d := f.d.toNat
    let b := f.b.toNat
    let full : Prop := q.tail - q.head = BitVec.ofNat 64 q.size
    let slot (n : Dword) : Dword := BitVec.ofNat 64 (q.base + 64 * (n.toNat % q.size))
    let put (y : Xlat) : State :=
      ((s.release u 4).rqWrite u (slot q.tail) y 0 ((List.range q.words).flatMap fun n => natLe 8 (s.sget u (b + n)).toNat)).rqWrite u
        a q.hx 24 (natLe 8 (q.tail + 1).toNat)
    let take (y : Xlat) : State :=
      ((((s.fenced u).useLeaf u.node (s.ctxOf u) (slot q.head) y .atomic).atomicAt u.node y (8 * q.words) 2 fun _ => none).rqWrite u a q.hx 16
        (natLe 8 (q.head + 1).toNat)).acquire u.node 4
    let touch : State := s.useLeaf u.node (s.ctxOf u) a q.hx .atomic
    let loaded (t : State) (ws : List Dword) : Prop := ∀ n, n < q.words → t.sget u (d + n) = wordAt ws n
    (s.rqHeader u a = .ok q → a.toNat % 64 = 0 ∧ q.addr = a ∧ q.base % 64 = 0 ∧ 1 ≤ q.words ∧ q.words ≤ 8 ∧
      ∃ n, n ≤ 16 ∧ q.size = 2 ^ n) ∧
    (a.toNat % 64 ≠ 0 → ∀ i ∈ [Instr.rqput f, .rqputn f, .rqget f, .rqgetn f, .rqcnt f], s.Issues u i →
      (f.k = false ∨ i = .rqputn f ∨ i = .rqcnt f) → exec i s = .next (s.faultUnit u (fltAt 0x10 a))) ∧
    (s.rqHeader u a = .ok q →
      (∀ x y bs, f.k = false → b + q.words ≤ 128 → ¬ full → s.rqAccess u (slot q.tail) (8 * q.words) = .ok (y, bs) → s.ComesTo u (.rqput f) (.recordQueueWaitEnd u) x →
        ∃ t, x = .next t ∧ (put y).PlainDone t u (.rqput f) false) ∧
      (∀ x, f.k = false → b + q.words ≤ 128 → full → s.ComesTo u (.rqput f) (.recordQueueWaitEnd u) x → ∃ t, x = .next t ∧ s.WaitsIn t u (.rqput f)) ∧
      (s.Issues u (.rqputn f) → b + q.words ≤ 128 → (f.k = true ∨ d < b ∨ b + q.words ≤ d) →
        (∀ y bs, ¬ full → s.rqAccess u (slot q.tail) (8 * q.words) = .ok (y, bs) → ∃ t, exec (.rqputn f) s = .next t ∧
          (put y).ScalarDone t u (.rqputn f) d f.k 1) ∧
        (full → ∃ t, exec (.rqputn f) s = .next t ∧ (touch.release u 4).ScalarDone t u (.rqputn f) d f.k 0)) ∧
      (∀ x, f.k = false → d + q.words ≤ 160 → s.ComesTo u (.rqget f) (.recordQueueWaitEnd u) x →
        (∀ y bs, q.tail ≠ q.head → s.rqAccess u (slot q.head) (8 * q.words) = .ok (y, bs) → ∃ t, x = .next t ∧ (take y).Own t u ∧
          s.Passed t u (.rqget f) ∧ loaded t (dwordsOfBytes q.words bs) ∧
          (∀ n, n < d ∨ d + q.words ≤ n → t.sget u n = s.sget u n) ∧ ∀ l n, l < 64 → t.vget u l n = s.vget u l n) ∧
        (q.tail = q.head → ∃ t, x = .next t ∧ s.WaitsIn t u (.rqget f))) ∧
      (s.Issues u (.rqgetn f) → f.k = false → d + q.words ≤ 160 → (b < d ∨ d + q.words ≤ b) →
        (∀ y bs, q.tail ≠ q.head → s.rqAccess u (slot q.head) (8 * q.words) = .ok (y, bs) → ∃ t, exec (.rqgetn f) s = .next t ∧
          (take y).Own t u ∧ s.Passed t u (.rqgetn f) ∧ loaded t (dwordsOfBytes q.words bs) ∧ t.sget u b = 1 ∧
          (∀ n, n ≠ b → (n < d ∨ d + q.words ≤ n) → t.sget u n = s.sget u n) ∧ ∀ l n, l < 64 → t.vget u l n = s.vget u l n) ∧
        (q.tail = q.head → ∃ t, exec (.rqgetn f) s = .next t ∧ (touch.acquire u.node 4).ScalarDone t u (.rqgetn f) b false 0))) ∧
    (∀ bs z, s.Issues u (.rqcnt f) → a.toNat % 64 = 0 → s.sceneLoad u (a + 16) 16 = .ok (bs, z) → ∃ t, exec (.rqcnt f) s = .next t ∧
      z.ScalarDone t u (.rqcnt f) d f.k (BitVec.ofNat 64 (leNat (bs.drop 8)) - BitVec.ofNat 64 (leNat (bs.take 8))))

/-- spec/14 R323, R317, spec/16 R356, R359: YIELD loses its path's age and makes it last in its round; SLEEP 0 does nothing, and SLEEP n waits until
SLEEP_EXPIRY, at least 16n cycles later: that the unit's clock then stands exactly 16n higher is the model's choice
(notes/assumptions/8.md, 55.md); EVSIG raises the grove's event to at least its value, as a release at system scope. -/
def Obligations.GivingWay : Prop :=
  ∀ (s : State) (u : UnitId) (f : GA) (h : GI),
    let g := (s.ctx (s.ctxOf u)).desc.grove
    let e := (s.srcG u f.a.toNat).toNat
    let clock (t : State) : Dword := match u with
      | .lant l _ => (t.lantern l).clock
      | _ => (t.core u.place).clock
    (∀ c k i, u = .path c k i → s.Issues u (.yield f) → ∃ t, exec (.yield f) s = .next t ∧ s.PlainDone t u (.yield f) false ∧
      (t.thread u).age = none ∧ ((t.core c).quads.get (k % 4) .none).last = k * 32 + i) ∧
    (∀ c k, u = .seq c k → s.Issues u (.yield f) → ∃ t, exec (.yield f) s = .next t ∧ s.PlainDone t u (.yield f) false ∧
      (t.thread u).age = none ∧ ((t.core c).quads.get (k % 4) .none).last = 1024 + k) ∧
    (∀ l p, u = .lant l p → s.Issues u (.yield f) → ∃ t, exec (.yield f) s = .next t ∧
      (s.onLantern l fun k => { k with last := p }).PlainDone t u (.yield f) false ∧ (t.thread u).age = none) ∧
    (s.Issues u (.sleep h) → (h.imm = 0 → ∃ t, exec (.sleep h) s = .next t ∧ s.PlainDone t u (.sleep h) false) ∧
      (h.imm ≠ 0 → ∃ t, exec (.sleep h) s = .next t ∧ s.WaitsIn t u (.sleep h))) ∧
    ((s.thread u).waiting = some (.sleep h) → ∃ t, exec (.sleepExpiry u) s = .next t ∧
      clock t = clock s + BitVec.ofNat 64 (16 * h.imm.toNat) ∧ s.PlainSees t u (.sleep h) false ∧ t.mem = s.mem) ∧
    (s.Issues u (.evsig f) → 256 ≤ e → exec (.evsig f) s = .next (s.faultUnit u (fltD 0x23 0))) ∧
    (s.Issues u (.evsig f) → e < 256 → ∃ t, exec (.evsig f) s = .next t ∧
      ((s.release u 6).onGrove g fun k => { k with
        events := k.events.put e (BitVec.ofNat 64 (max (k.events.get e 0).toNat (s.sget u f.b.toNat).toNat)) }).PlainDone t u (.evsig f) false)

/-! What the hardware and its host do between instructions: fault records, invalidations, memory. -/

/-- spec/01 R39 to R43, spec/04 R99, spec/15 R335: FAULT_RECORD_WRITE writes the oldest record of a context where the ring that its node knows has
room, moves the producer index and signals vector 0, and a command that has failed with it completes; FRESUME in the grove of the context lets a parked unit issue again (RETRY) or take its fault (ABORT), and
is an error otherwise; the lanes of a path that it aborts take the fault, apart from the others where an entry is free, and a held command
goes on (RETRY) or ends ill-formed with ECODE 0x09 (ABORT); TICMD queues a command of its window, 16 at most, a grove's window for its own contexts only; when the
command completes no node keeps a TLB entry that it covers, no walk cache an entry on its path, no write is pending, and, but for a page, no
descriptor or layout record of its contexts is kept; DONE takes its tag. That the first answer decides for a park (notes/assumptions/18.md), and that with an invalidation no write of any node is pending, covered
by it or not, and which layout records go (notes/assumptions/35.md), are the model's readings. -/
def Obligations.TranslationEvents : Prop :=
  ∀ s : State,
    (∀ c : Nat,
      let k := s.ctx c
      (k.pend = [] → exec (.faultRecordWrite c) s = .next s) ∧
      (∀ r rest, k.pend = r :: rest →
        let base := r.desc.fqbase
        let n := 2 ^ r.desc.fqlog2
        let full : Prop := n < (s.home64 (base - 4096) - s.home64 (base - 4088)).toNat + 1
        let slot := base + 32 * ((s.home64 (base - 4096)).toNat % n)
        let ends (j m q id : Nat) : Prop := r.out = some (.failing j m q id)
        (full → exec (.faultRecordWrite c) s = .next s) ∧
        (r.words.length = 4 → 4096 ≤ base → ¬ full → r.deliver = none →
          (∀ j m q id, ends j m q id → (s.team j m).seqExited = false ∧ (s.thread (.seq j m)).state ≠ .waiting) →
          ∃ t, exec (.faultRecordWrite c) s = .next t ∧ (t.ctx c).pend = rest ∧
          (∀ o, o ∈ (t.ctx c).outstanding ↔ o ∈ k.outstanding ∨ ∃ q, r.out = some q ∧ (∀ j m i id, q ≠ .failing j m i id) ∧ o = ⟨r.seq, q⟩) ∧
          (∀ j m q id x, ends j m q id → (((s.team j m).eng.get q .none).cmds.find? fun y => y.id == id) = some x →
            (t.team j m).errRec = some r.words ∧ (t.team j m).eng.get q .none =
              { cmds := ((s.team j m).eng.get q .none).cmds.filter fun y => y.id != id, halted := true }) ∧
          (t.grove r.desc.grove).gint = (s.grove r.desc.grove).gint ||| 1 ∧ t.home64 (base - 4096) = s.home64 (base - 4096) + 1 ∧
          t.mem.read slot 32 = bytesOfDwords r.words ∧
          ∀ a, ¬ (slot ≤ a ∧ a < slot + 32) → ¬ (base - 4096 ≤ a ∧ a < base - 4088) → t.mem.get a = s.mem.get a))) ∧
    (∀ (g : Nat) (c : BitVec 12) (seq : Word) (ev : Instr), ev ∈ [Instr.fresumeRetry g c seq, .fresumeAbort g c seq] →
      let k := s.ctx c.toNat
      (s.up = false → exec ev s = .next s) ∧
      (s.up = true → (k.outstanding.find? fun o => o.seq == seq.toNat) = none ∨ k.desc.grove ≠ g → exec ev s = .next (s.windowErr g)) ∧
      (∀ o u p, s.up = true → k.desc.grove = g → (k.outstanding.find? fun o => o.seq == seq.toNat) = some o → o.req = .unit u →
        (s.thread u).park = some p → (s.thread u).state = .parked → p.seqs.contains seq.toNat = true →
        let q : State := s.onCtx c.toNat fun k => { k with outstanding := k.outstanding.filter fun o => o.seq != seq.toNat }
        (ev = .fresumeRetry g c seq → (s.thread u).wait = none → ∃ t, exec ev s = .next t ∧ q.Own t u ∧ (t.thread u).state = .ready ∧
          (t.thread u).park = none ∧ (t.thread u).run = Run.fresh ∧ (t.thread u).pc = (s.thread u).pc ∧
          (t.thread u).runpc = (s.thread u).pc) ∧
        (ev = .fresumeAbort g c seq → u.isPath = false → s.ctxOf u = c.toNat → k.trapv ≠ 0 → (s.thread u).frame.active = false →
          ∃ t, exec ev s = .next t ∧ q.Own t u ∧ q.TrapSees t u 0 0 p.addr p.mask (s.thread u).runpc p.pc) ∧
        (∀ n g' i, ev = .fresumeAbort g c seq → u = .path n g' i → s.ctxOf u = c.toNat → k.trapv ≠ 0 → (s.thread u).frame.active = false →
          let free := (s.group n g').paths.free 32
          let frame (all : Bool) (held : Dword) : Frame :=
            { active := true, all := all, cause := 0, detail := 0, fmt := (s.thread u).fmt, rpc := (s.thread u).runpc, fpc := p.pc
              addr := p.addr, lanes := p.mask, held := held }
          let trapped (t : State) (j : Nat) (m : Dword) (fr : Frame) : Prop :=
            let v := (t.group n g').path j
            v.mask = m ∧ v.th.frame = fr ∧ v.th.pc = k.trapv ∧ v.th.runpc = k.trapv ∧ v.th.state = .ready ∧ v.th.fmt = 0 ∧
              v.th.run = Run.fresh ∧ v.th.park = none
          ∃ t, exec ev s = .next t ∧
            (free = none ∨ p.mask = s.maskOf u → trapped t i (s.maskOf u) (frame (decide (p.mask ≠ s.maskOf u)) (s.maskOf u))) ∧
            (∀ j, free = some j → p.mask ≠ s.maskOf u → trapped t j p.mask (frame false p.mask) ∧
              t.maskOf u = s.maskOf u &&& ~~~p.mask ∧ (t.thread u).pc = (s.thread u).pc ∧ (t.thread u).park = none ∧
              (t.thread u).state = if (s.thread u).wait.isSome then .spill else .ready))) ∧
      (∀ o n m e x rest a, s.up = true → k.desc.grove = g → (k.outstanding.find? fun o => o.seq == seq.toNat) = some o →
        o.req = .engine n m e → ((s.team n m).eng.get e .none).cmds = x :: rest → x.park = some (seq.toNat, a) →
        let q : State := s.onCtx c.toNat fun k => { k with outstanding := k.outstanding.filter fun o => o.seq != seq.toNat }
        let old := (s.team n m).eng.get e .none
        (ev = .fresumeRetry g c seq → exec ev s = .next (q.onTeam n m fun tm =>
          { tm with eng := tm.eng.put e { old with cmds := { x with park := none } :: rest } })) ∧
        (ev = .fresumeAbort g c seq → (s.team n m).ctx = c.toNat → k.pend = [] → (s.team n m).seqExited = false →
          (s.thread (.seq n m)).state ≠ .waiting → ∃ t r, exec ev s = .next t ∧
          r.take 3 = [a &&& 0xFFFFFFFFFFFFFF, BitVec.ofNat 64 ((wordsOf x.instr).1 + (wordsOf x.instr).2 * 2 ^ 32),
            BitVec.ofNat 64 (s.place (.seq n m) + 0x09 * 2 ^ 40 + e * 2 ^ 48 + 2 ^ 63)] ∧
          (((t.ctx c.toNat).pend.map (fun w => (w.words, w.out)) = [(r, some (.failing n m e x.id))] ∧
              (t.team n m).eng.get e .none = { old with cmds := { x with failed := true, park := none } :: rest }) ∨
            ((t.ctx c.toNat).pend = [] ∧ (t.team n m).errRec = some r ∧
              (t.team n m).eng.get e .none = { cmds := (x :: rest).filter fun y => y.id != x.id, halted := true }))))) ∧
    (∀ (w : Option Nat) (c : BitVec 12) (v : BitVec 6) (tag : Word) (ev : Instr) (x : TiCmd),
      let win (t : State) : Window := match w with
        | some g => (t.grove g).win
        | none => t.pf.win
      let mine (c : Nat) : Prop := match w with
        | some g => (s.ctx c).desc.grove = g
        | none => True
      (ev, x) ∈ [(Instr.ticmdPage w c tag, { kind := 0, va := (win s).tiva.toNat, ctx := c.toNat, grove := 0, tag := tag }),
        (.ticmdContext w c tag, { kind := 1, va := 0, ctx := c.toNat, grove := 0, tag := tag }),
        (.ticmdGrove w v tag, { kind := 2, va := 0, ctx := 0, grove := v.toNat, tag := tag }),
        (.ticmdAll w tag, { kind := 3, va := 0, ctx := 0, grove := 0, tag := tag })] →
      let allowed : Prop := w = none ∨ (x.kind ≤ 1 ∧ mine x.ctx) ∨ (x.kind = 2 ∧ w = some x.grove)
      (s.up = false → exec ev s = .next s) ∧
      (s.up = true → allowed → (win s).tiq.length < 16 → ∃ t, exec ev s = .next t ∧ win t = { win s with tiq := (win s).tiq ++ [x] } ∧
        t = { s with pf := t.pf, groves := t.groves }) ∧
      (s.up = true → ¬ allowed ∨ 16 ≤ (win s).tiq.length → ∃ t, exec ev s = .next t ∧ win t = { win s with tiErr := true } ∧
        t = { s with pf := t.pf, groves := t.groves })) ∧
    (∀ w : Option Nat,
      let win (t : State) : Window := match w with
        | some g => (t.grove g).win
        | none => t.pf.win
      ((win s).tiq = [] → exec (.invalidationComplete w) s = .next s) ∧
      ∀ x rest, (win s).tiq = x :: rest →
        let covers (c : Nat) : Bool := if x.kind ≤ 1 then c == x.ctx else if x.kind = 2 then (s.ctx c).desc.grove == x.grove else true
        let hits (e : TlbEntry) : Bool := covers e.ctx && (x.kind != 0 || e.base == x.va / pageBytes e.level * pageBytes e.level)
        let onPath (e : WalkEntry) : Bool := covers e.ctx &&
          (x.kind != 0 || e.base == x.va / (if e.level = 1 then 2 ^ 21 else if e.level = 2 then 2 ^ 30 else 2 ^ 43))
        ∃ t, exec (.invalidationComplete w) s = .next t ∧ win t = { win s with tiq := rest, tiDone := x.tag } ∧
          (∀ n, (t.caches n).tlb = (s.caches n).tlb.filter fun e => !hits e) ∧
          (∀ d, t.walks.get d [] = (s.walks.get d []).filter fun e => !onPath e) ∧ (∀ n, (t.caches n).wbuf = []) ∧
          (x.kind ≠ 0 → ∀ n c, covers c = true → (t.caches n).descs.find c = none) ∧
          (x.kind ≠ 0 → ∀ c, (t.core c).layouts = (s.core c).layouts.filter fun e => !covers e.ctx))

/-- spec/02 R49, R50, R60, R66 to R68, R78 to R80, spec/04 R104: a line that leaves its slice writes its dirty sectors to HBM, its clean ones read as HBM holds
them, poison with them, and no byte that is read changes; a scrub and an error of on-die storage mark sectors poisoned and count; a parity error drops a line of a read cache; a mirror
write that comes to a die in causal order is applied in each byte where it beats the current writer, and its poison with it; SPLITCFG of a stand with no team
empties the L1 and zeroes the scratchpad of its cores. -/
def Obligations.MemoryEvents : Prop :=
  ∀ s : State,
    (∀ line,
      (s.l2.find line = none → exec (.l2WriteBack line) s = .next s) ∧
      ∀ l, s.l2.find line = some l →
        let dirty (k : Nat) : Bool := l.ds.getLsbD k || (l.z && l.ds != 0)
        ∃ t, exec (.l2WriteBack line) s = .next t ∧
          t = { s with l2 := s.l2.drop line, hbm := t.hbm, hbmPoison := t.hbmPoison, poison := t.poison } ∧
          (∀ sec, t.poison.contains sec =
            if sec / 4 = line ∧ ¬ dirty (sec % 4) then s.hbmPoison.contains sec else s.poison.contains sec) ∧
          ∀ sec, (sec / 4 = line ∧ dirty (sec % 4) →
              t.hbm.read (64 * sec) 64 = s.mem.read (64 * sec) 64 ∧ (t.hbmPoison.contains sec = s.poison.contains sec)) ∧
            (¬ (sec / 4 = line ∧ dirty (sec % 4)) →
              t.hbm.read (64 * sec) 64 = s.hbm.read (64 * sec) 64 ∧ (t.hbmPoison.contains sec = s.hbmPoison.contains sec))) ∧
    (∀ sec, inHbm (64 * sec) = true →
      let st := stackOf (64 * sec)
      let held : Prop := ∃ l, s.l2.find (sec / 4) = some l ∧ (l.z = true ∨ l.vs.getLsbD (sec % 4) = true)
      exec (.patrolScrub sec .clean) s = .next s ∧
      (∃ t, exec (.patrolScrub sec .corrected) s = .next t ∧ t = { s with pf := { s.pf with hbmCorr := t.pf.hbmCorr } } ∧
        t.pf.hbmCorr.get st 0 = s.pf.hbmCorr.get st 0 + 1 ∧ ∀ n, n ≠ st → t.pf.hbmCorr.get n 0 = s.pf.hbmCorr.get n 0) ∧
      ∃ t, exec (.patrolScrub sec .uncorrectable) s = .next t ∧
        t = { s with pf := { s.pf with hbmUncorr := t.pf.hbmUncorr }, hbmPoison := t.hbmPoison, poison := t.poison } ∧
        t.pf.hbmUncorr.get st 0 = s.pf.hbmUncorr.get st 0 + 1 ∧ t.hbmPoison.contains sec = true ∧
        (held → t.poison = s.poison) ∧ (¬ held → t.poison.contains sec = true ∧ ∀ n, n ≠ sec → t.poison.contains n = s.poison.contains n)) ∧
    (∀ (c off tm sec : Nat) (l : L2Line),
      (s.l2.find (sec / 4) = some l → l.ds.getLsbD (sec % 4) = true → ∃ t, exec (.sramUncorrectableError (.l2Sector sec)) s = .next t ∧
        t = { s with poison := t.poison } ∧ t.poison.contains sec = true) ∧
      (s.l2.find (sec / 4) = some l → l.ds = 0 → ∃ t, exec (.sramUncorrectableError (.l2Sector sec)) s = .next t ∧
        t = { s with poison := t.poison } ∧ t.poison.contains sec = s.hbmPoison.contains sec) ∧
      (s.l2.find (sec / 4) = none → exec (.sramUncorrectableError (.l2Sector sec)) s = .next s) ∧
      (s.l2.find (sec / 4) = some l → ∃ t, exec (.sramUncorrectableError (.l2Tag (sec / 4))) s = .next t ∧ t.l2.find (sec / 4) = none ∧ t.mem = s.mem ∧
        (l.ds.getLsbD (sec % 4) = true → t.poison.contains sec = true ∧ t.hbmPoison.contains sec = true)) ∧
      (∃ t, exec (.sramUncorrectableError (.scratchpad c off)) s = .next t ∧ t = { s with cores := t.cores } ∧
        t.core c = { s.core c with spPoison := (t.core c).spPoison } ∧ (t.core c).spPoison.contains (off / 64) = true) ∧
      ((s.core c).teams.has tm = true → (s.team c tm).torn = false →
        ∃ t, exec (.sramUncorrectableError (.teamStore c tm)) s = .next t ∧ s.TeamTorn t (.seq c tm) 0x12 (BitVec.ofNat 64 (1 + 0x3F * 256)))) ∧
    (∀ (n line : Nat) (ev : Instr) (code : Bool), (ev, code) ∈
        (if n < 512 then [(Instr.cacheParityError (.l1 n line), false), (.cacheParityError (.code n line), true)]
         else [(.cacheParityError (.lanternData (n - 512) line), false), (.cacheParityError (.lanternCode (n - 512) line), true)]) → n < 576 →
      ∃ t, exec ev s = .next t ∧ s.MemoryOnly t ∧ t.mem = s.mem ∧ (∀ m, m ≠ n → t.caches m = s.caches m) ∧
        t.caches n = (if code then { s.caches n with code := (s.caches n).code.drop line } else { s.caches n with l1 := (s.caches n).l1.drop line })) ∧
    (∀ (d idx : Nat) (w : MirrorWrite), d < 8 → s.mirror.flight[idx]? = some w → w.off + w.bytes.length ≤ 2 ^ 37 →
      (w.zero ≠ none → ∀ b ∈ w.bytes, b = 0) →
      let comes : Prop := d ∉ w.applied ∧ w.die < 8 ∧ s.mirror.count d w.die + 1 = w.vc.getD w.die 0 ∧
        ∀ k, k < 8 → k ≠ w.die → w.vc.getD k 0 ≤ s.mirror.count d k
      let sum := w.vc.foldl (· + ·) 0
      (¬ comes → w.die < 8 → exec (.mirrorWriteApply d idx) s = .next s) ∧
      (comes → ∃ t, exec (.mirrorWriteApply d idx) s = .next t ∧ s.MemoryOnly t ∧ t.mirror.count d w.die = w.vc.getD w.die 0 ∧
        (∀ i, i < w.bytes.length →
          let a := w.off + i + d * 2 ^ 37
          let wins : Prop := ∀ c, s.mirror.cur.find a = some c → c.1 < sum ∨ (c.1 = sum ∧ c.2 < w.die)
          (wins → t.mem.get a = w.bytes.getD i 0) ∧ (¬ wins → t.mem.get a = s.mem.get a) ∧
            (wins → w.bad = true → t.poison.contains ((w.off + d * 2 ^ 37) / 64) = true)) ∧
        ∀ a, ¬ (w.off + d * 2 ^ 37 ≤ a ∧ a < w.off + w.bytes.length + d * 2 ^ 37) → t.mem.get a = s.mem.get a)) ∧
    (∀ (k : Nat) (v : Dword), k < 64 → s.up = true →
      let held : Prop := ∃ i, i < 8 ∧ (s.core (8 * k + i)).teams.cells ≠ []
      let n := v.toNat % 8
      (n = 0 ∨ held ∨ n = s.pf.split.get k 4 → exec (.splitcfgWrite k v) s = .next s) ∧
      (n ≠ 0 → ¬ held → n ≠ s.pf.split.get k 4 → ∃ t, exec (.splitcfgWrite k v) s = .next t ∧
        t = { s with pf := { s.pf with split := s.pf.split.put k n }, cores := t.cores } ∧
        (∀ i, i < 8 → t.core (8 * k + i) =
          { s.core (8 * k + i) with sp := [], spPoison := [], mc := { (s.core (8 * k + i)).mc with l1 := .empty, views := .empty } }) ∧
        ∀ c, ¬ (8 * k ≤ c ∧ c < 8 * k + 8) → t.core c = s.core c))

/-- spec/05 R130 to R133, spec/08 R197, spec/14 R318: GROW of no more than the group has goes on, above 255 is an illegal operand,
and otherwise waits with the group's request the larger of those made; GROW_GRANT gives a request that fits the core's free
registers, and the paths that it serves go on. SPILL_FILL moves each lane's ring the least way that makes the window resident,
with the accesses this takes, and the path is ready; EVICTED_GROUP_READMIT brings back the groups that are out, each to its slot, from its image in memory, if its
registers fit, in the order in which they left (that order, and where an image is put, are the model's reading:
notes/assumptions/28.md; the words of an image beyond the given sections are its own: notes/assumptions/11.md). -/
def Obligations.GrowAndSpill : Prop :=
  ∀ (s : State) (c g i : Nat) (f : GA),
    let u := UnitId.path c g i
    let k := s.group c g
    let a := (s.srcG u f.a.toNat).toNat
    let s' := s.dropOut u none
    let fits (n : Nat) : Prop := (s.core c).regsUsed + k.width * (n - k.alloc) ≤ 131072
    (s.Issues u (.grow f) →
      (255 < a → exec (.grow f) s = .next (s'.faultUnit u (fltD 0x23 0))) ∧
      (a ≤ k.alloc → a ≤ 255 → ∃ t, exec (.grow f) s = .next t ∧ s'.PlainDone t u (.grow f) false) ∧
      (let q := s'.onGroup c g fun k => { k with growReq := some (max a (k.growReq.getD 0)) }
      let w := (s'.waitIn u { instr := .grow f, lo := a }).onGroup c g fun k => { k with growReq := some (max a (k.growReq.getD 0)) }
      k.alloc < a → a ≤ 255 → w.growStuck c = false →
        ∃ t, exec (.grow f) s = .next t ∧ q.WaitsIn t u (.grow f))) ∧
    (∀ n p w, k.paths.keys.Nodup → k.growReq = some n → k.alloc < n → fits n → (s.core c).groups.find g = some k → k.retired = false → k.live ≠ 0 →
      (∀ l ∈ k.live.lanes, k.spilled.get l 0 ≤ k.los.get l 0 + k.alloc) →
      k.paths.find i = some p → p.th.waiting = some (.grow f) → p.th.wait = some w → w.lo ≤ n →
      ∃ t, exec (.growGrant c g) s = .next t ∧ (t.group c g).alloc = n ∧ (t.group c g).growReq = none ∧ (t.thread u).state = .ready ∧
        (t.thread u).pc = p.th.pc + 4 ∧ (t.group c g).los = k.los ∧ t.mem = s.mem) ∧
    (k.growReq = none → s.growStuck c = false → exec (.growGrant c g) s = .next s) ∧
    ((s.thread u).state ≠ .spill → exec (.spillFill u) s = .next s) ∧
    (let wb := (s.pathOf u).wb
    let lanes := k.unresident (s.maskOf u) wb
    let dest (l : Nat) : Nat := if k.los.get l 0 + k.alloc < wb + 48 then wb + 48 - k.alloc else if wb < k.los.get l 0 then wb else k.los.get l 0
    let plan := lanes.flatMap fun l => spillPlan l k.alloc (k.los.get l 0) (dest l) (k.spilled.get l 0)
    (s.thread u).state = .spill → s.spillFaults c g plan = [] →
      (∃ t, exec (.spillFill u) s = .next t ∧ (t.thread u).state = .ready ∧ (t.thread u).pc = (s.thread u).pc ∧
        ∀ l ∈ (s.maskOf u).lanes, (t.group c g).los.get l 0 = dest l) ∧
      ∀ x z, plan = [x] → s.spillXlat c g x = .ok z →
        let ctx := s.ctxOf u
        let va := s.spillAddr c g x
        let key := 64 * (16 + x.reg) + x.lane
        let q : State := if x.write then (s.useLeaf c ctx va z .store).storeAt (hardware c) z (natLe 4 (k.vregs.get key 0).toNat) 2 0
          else ((s.useLeaf c ctx va z .load).fillAt c z 4 2 false).onGroup c g fun k =>
            { k with vregs := k.vregs.put key (BitVec.ofNat 32 (leNat (s.seeAt c z 4 2 false))) }
        ∃ t los spilled, exec (.spillFill u) s = .next t ∧
          t = (q.onGroup c g fun k => { k with los := los, spilled := spilled }).onThread u fun h => { h with state := .ready, wait := none }) ∧
    (∀ (l : List Evicted) (e : Evicted) (k' : Group), (s.core c).evicted = l ++ [e] →
      -- those that left before it do not fit, or their slots are taken
      (∀ q ∈ l, 131072 < (s.core c).regsUsed + q.group.width * (16 + q.group.alloc) ∨ (s.core c).groups.has q.slot = true) →
      let fits : Prop := (s.core c).groups.has e.slot = false ∧ (s.core c).regsUsed + e.group.width * (16 + e.group.alloc) ≤ 131072
      let r := s.readGroup 8 e.pa e.group.team c e.slot
      (¬ fits → s.growStuck c = false → exec (.evictedGroupReadmit c) s = .next s) ∧
      (fits → e ∉ l → r.bad = false → r.group = k' → k'.width = e.group.width → k'.alloc = e.group.alloc → (∀ p ∈ k'.paths.cells, p.2.th.park = none) →
        let t := (s.onCore c fun q => { q with groups := q.groups.put e.slot k', evicted := l }).freshStream c e.slot
        t.growStuck c = false → exec (.evictedGroupReadmit c) s = .next t)) ∧
    (∀ area len out,
      -- a group that leaves is written where no image of one that is out stands, as low as can be
      (∀ pa, evictPlace area len out = some pa → area ≤ pa ∧ pa + len ≤ area + 2 ^ 20 ∧ (∀ e ∈ out, pa + len ≤ e.1 ∨ e.1 + e.2 ≤ pa) ∧
        ∀ q, area ≤ q → q < pa → ∃ e ∈ out, q < e.1 + e.2 ∧ e.1 < q + len) ∧
      (evictPlace area len out = none → ∀ q, area ≤ q → q + len ≤ area + 2 ^ 20 → ∃ e ∈ out, q < e.1 + e.2 ∧ e.1 < q + len)) ∧
    ((s.core c).evicted = [] → s.growStuck c = false → exec (.evictedGroupReadmit c) s = .next s)

/-! The engines at work. -/

/-- spec/10 R240 to R242, R245, R246, spec/02 R76, spec/04 R109: a command at the head of queue 0 or 3 that meets no fault does its
work whole and leaves the queue: a copy within the scratchpad, LAYOUT, ZFILL of scratchpad, a collective of one rank. A
collective whose ranks have all begun and agree is performed in rank order. An ill-formed ZFILL halts its queue and fills the
team's error record (spec/15 R335). Which absent lines a command waits for is the model's reading
(notes/assumptions/20.md), and that it works whole in one step its choice (notes/assumptions/42.md, 44.md). -/
def Obligations.CopyEngineWork : Prop :=
  ∀ (s : State) (c k : Nat) (x : Cmd) (rest : List Cmd) (f : GA),
    let tm := s.team c k
    let op (n : Nat) : Dword := wordAt x.ops n
    let old (a : Nat) : Byte := (s.core c).sp.get (tm.spBase + a)
    -- the part of [a, a + n) in its i-th block of 64 bytes, by its offset and length, and how many blocks there are
    let piece (a n i : Nat) : Nat × Nat := (max a ((a / 64 + i) * 64) - a, min (a + n) ((a / 64 + i + 1) * 64) - max a ((a / 64 + i) * 64))
    let units (a n : Nat) : Nat := (a + n - 1) / 64 - a / 64 + 1
    let upTo (unit : State → Nat → State) (n : Nat) : State := (List.range n).foldl unit s
    let failed (t : State) (ecode : Nat) : Prop :=
      (t.team c k).eng.get 0 .none = { cmds := rest, halted := true } ∧ (t.team c k).haltPending = tm.haltPending ++ [0] ∧
        (t.team c k).errRec.map (fun r => r.take 3) = some [0,
          BitVec.ofNat 64 ((encode x.instr).getD 0 0 + (encode x.instr).getD 1 0 * 2 ^ 32),
          BitVec.ofNat 64 (s.place (.seq c k) + ecode * 2 ^ 40 + 2 ^ 63)]
    let reports : Prop := tm.seqExited = false ∧ (s.thread (.seq c k)).state ≠ .waiting ∧ (s.ctx tm.ctx).pend = []
    -- one access of an engine to global memory: at its home, with the core's own pending writes, past the L1
    (∀ (a : Dword) (n req : Nat) (bs : List Byte) (spoil : Bool) (e : Flt) (y : Xlat),
      (0 < n → a.toNat % 64 + n ≤ 64 → let g := s.engRead c tm.ctx a n req
        (s.translate c tm.ctx a .engRead = .error e → g.flt = some e ∧ g.s = s) ∧
        (s.translate c tm.ctx a .engRead = .ok y → g.flt = none ∧ g.bytes = s.seeHome c (y.at_ c) n ∧
          g.s.mem = (s.useLeaf c tm.ctx a y .engRead).mem ∧ (g.s.caches c).l1 = (s.caches c).l1 ∧
          ((s.caches c).wbuf = [] → g.bad = List.replicate n (s.poison.contains (y.at_ c / 64))))) ∧
      (0 < bs.length → a.toNat % 64 + bs.length ≤ 64 → let p := s.engWrite c tm.ctx a bs req spoil
        (s.translate c tm.ctx a .engWrite = .error e → p.flt = some e ∧ p.s = s) ∧
        (s.translate c tm.ctx a .engWrite = .ok y → y.mir = false → (s.caches c).wbuf = [] → c < 512 → p.flt = none ∧
          (∀ b, p.s.mem.get b = if y.pa ≤ b ∧ b < y.pa + bs.length then bs.getD (b - y.pa) 0 else (s.useLeaf c tm.ctx a y .engWrite).mem.get b) ∧
          (p.s.caches c).l1.find (y.pa / 64) = none ∧ (spoil = true → p.s.poison.contains (y.pa / 64) = true)))) ∧
    -- CPY
    (∀ cp : CpyX, s.Heads c k 0 x rest → x.instr = .cpy f cp → cp.mode.toNat < 4 → x.progress = 0 →
      let d := op 0
      let a := op 1
      let n := (op 2).toNat
      let toSp := decide (cp.mode = 0 ∨ cp.mode = 3)
      let fromSp := decide (cp.mode = 1 ∨ cp.mode = 3)
      let okay : Prop := n ≤ 2 ^ 30 ∧ (toSp = true → tm.spIn d.toNat n = true) ∧ (fromSp = true → tm.spIn a.toNat n = true) ∧
        (toSp = fromSp → d.toNat + n ≤ a.toNat ∨ a.toNat + n ≤ d.toNat)
      let p (i : Nat) : Nat × Nat := piece d.toNat n i
      let got (z : State) (i : Nat) : Got := z.engSrc c k fromSp (a + BitVec.ofNat 64 (p i).1) (p i).2 (2 - cp.pol.toNat)
      let put (z : State) (i : Nat) : Put := (got z i).s.engDst c k toSp (d + BitVec.ofNat 64 (p i).1) (got z i).bytes (2 - cp.pol.toNat)
        ((got z i).bad.any id)
      let after (m : Nat) : State := upTo (fun z i => (put z i).s) m
      (1 ≤ n → okay → (fromSp = true → tm.spAbsent a.toNat n = false) →
        (∀ i, i < units d.toNat n → (got (after i) i).flt = none ∧ (put (after i) i).flt = none) →
        exec (.cpyPerform c k) s = .next ((after (units d.toNat n)).withQueue c k 0 rest)) ∧
      (okay → fromSp = true → tm.spAbsent a.toNat n = true → exec (.cpyPerform c k) s =
        .next (s.withQueue c k 0 ({ x with begun := true } :: rest))) ∧
      (¬ okay → reports → ∃ t, exec (.cpyPerform c k) s = .next t ∧ failed t 3)) ∧
    (∀ (cp : CpyX) (le : LayoutEntry), s.Heads c k 0 x rest → x.instr = .cpy f cp → x.progress = 0 →
      (s.core c).layouts.find? (fun e => e.ctx == tm.ctx && e.handle == (op 1).toNat) = some le →
      let r := x.record.getD le.words
      let w (j : Nat) : Nat := (wordAt r j).toNat
      let rank := w 0 / 2 ^ 60 % 8
      let e := match w 0 / 2 ^ 56 % 16 with
        | 0 => 1 | 1 => 2 | 2 => 4 | 3 => 4 | 4 => 4 | _ => 8
      let dim (j : Nat) : Nat := w (1 + j / 2) / 2 ^ (32 * (j % 2)) % 2 ^ 32
      let stride (j : Nat) : Nat := if j = 0 then e else w (2 + j) % 2 ^ 48
      let n (j : Nat) : Nat := (op 4).toNat / 2 ^ (16 * j) % 2 ^ 16
      let o (j : Nat) : Int := (BitVec.ofNat 32 ((op (2 + j / 2)).toNat / 2 ^ (32 * (j % 2)))).toInt
      let total := n 0 * n 1 * n 2 * n 3
      let co (i j : Nat) : Int := o j + ((i / (match j with | 0 => 1 | 1 => n 0 | 2 => n 0 * n 1 | _ => n 0 * n 1 * n 2) % n j : Nat) : Int)
      let inside (i : Nat) : Bool := (List.range rank).all fun j => decide (0 ≤ co i j) && decide (co i j < dim j)
      let there (i : Nat) : Dword := BitVec.ofNat 64 (w 0 % 2 ^ 56 + ((List.range rank).map fun j => (co i j).toNat * stride j).sum)
      let d := (op 0).toNat
      let req := 2 - cp.pol.toNat
      let okay : Prop := total * e ≤ 2 ^ 30 ∧ (∀ j, j < 4 → rank ≤ j → n j = 1 ∧ o j = 0) ∧ tm.spIn d (total * e) = true
      rank ≤ 4 → cp.mode = 4 ∨ cp.mode = 5 →
      (¬ okay → reports → ∃ t, exec (.cpyPerform c k) s = .next t ∧ failed t 3) ∧
      (okay → 1 ≤ total → (∀ i, i < total → inside i = false → (wordAt r 6).getLsbD 32 = false) →
        (cp.mode = 4 →
          let el (z : State) (i : Nat) : Got := if inside i then z.engRead c tm.ctx (there i) e req
            else { s := z, bytes := natLe e (w 6 % 2 ^ 32), bad := [], flt := none }
          let some_ (z : State) (i m : Nat) : State × List Byte × Bool := (List.range m).foldl (fun q j =>
            ((el q.1 (i + j)).s, q.2.1 ++ (el q.1 (i + j)).bytes, q.2.2 || (el q.1 (i + j)).bad.any id)) (z, [], false)
          let p (u : Nat) : Nat × Nat := piece d (total * e) u
          let m (u : Nat) : Nat := ((p u).1 + (p u).2 - 1) / e + 1 - (p u).1 / e
          let unit (z : State) (u : Nat) : State :=
            let g := some_ z ((p u).1 / e) (m u)
            (g.1.engDst c k true (BitVec.ofNat 64 (d + (p u).1)) ((g.2.1.drop ((p u).1 % e)).take (p u).2) req g.2.2).s
          (∀ u j, u < units d (total * e) → j < m u →
            (el (some_ (upTo unit u) ((p u).1 / e) j).1 ((p u).1 / e + j)).flt = none) →
          exec (.cpyPerform c k) s = .next ((upTo unit (units d (total * e))).withQueue c k 0 rest)) ∧
        (cp.mode = 5 → tm.spAbsent d (total * e) = false →
          let put (z : State) (i : Nat) : Put := if inside i then
              let g := z.engSrc c k true (op 0 + BitVec.ofNat 64 (e * i)) e req
              g.s.engDst c k false (there i) g.bytes req (g.bad.any id)
            else { s := z, flt := none }
          let after (m : Nat) : State := upTo (fun z i => (put z i).s) m
          (∀ i, i < total → (put (after i) i).flt = none) →
          exec (.cpyPerform c k) s = .next ((after total).withQueue c k 0 rest)))) ∧
    (∀ cp : CpyX, s.Heads c k 0 x rest → x.instr = .cpy f cp → cp.mode = 3 → x.progress = 0 →
      let d := (op 0).toNat
      let a := (op 1).toNat
      let n := (op 2).toNat
      1 ≤ n → n ≤ 2 ^ 30 → tm.spIn d n = true → tm.spIn a n = true → (d + n ≤ a ∨ a + n ≤ d) → tm.spAbsent a n = false → tm.spSize ≤ 2 ^ 20 →
      ∃ z, exec (.cpyPerform c k) s = .next (z.withQueue c k 0 rest) ∧
        s.ScratchIs z c k fun b => if d ≤ b ∧ b < d + n then old (a + (b - d)) else old b) ∧
    (∀ cp : CpyX, s.Heads c k 0 x rest → x.instr = .cpy f cp →
      let w := if cpyBox cp.mode.toNat then s.boxCopy c k cp none x else s.linearCopy c k cp none x
      (w.s.team c k).eng = tm.eng →
      (w.stop = none → exec (.cpyPerform c k) s = .next (w.s.withQueue c k 0 rest)) ∧
      (w.stop = some .wait → exec (.cpyPerform c k) s = .next (w.s.withQueue c k 0
        ({ x with progress := w.progress, begun := true, lines := w.left.getD x.lines, record := w.record.or x.record } :: rest)))) ∧
    (∀ la : LayoutX, s.Heads c k 0 x rest → x.instr = .layout f la →
      (la.op = true → exec (.layoutPerform c k) s = .next ((s.onCore c fun n =>
        { n with layouts := n.layouts.filter fun e => !(e.ctx == tm.ctx && e.handle == (op 0).toNat) }).withQueue c k 0 rest)) ∧
      (la.op = false → (op 0).toNat % 64 = 0 → (s.engRead c tm.ctx (op 0) 64 2).flt = none →
        let g := s.engRead c tm.ctx (op 0) 64 2
        let r := dwordsOfBytes 8 g.bytes
        layoutOk r = true → ∃ t, exec (.layoutPerform c k) s = .next t ∧
          (t.core c).layouts.head? = some { ctx := tm.ctx, handle := (op 0).toNat, words := r } ∧
          ((t.team c k).eng.get 0 .none).cmds = rest)) ∧
    (∀ zf : ZfillX, s.Heads c k 0 x rest → x.instr = .zfill f zf → zf.sp = true →
      let a := (op 0).toNat
      let n := (op 1).toNat
      (n ≤ 2 ^ 30 → tm.spIn a n = true → x.progress = 0 → ∃ z, exec (.zfillPerform c k) s = .next (z.withQueue c k 0 rest) ∧
        s.ScratchIs z c k fun b => if a ≤ b ∧ b < a + n then 0 else old b) ∧
      (tm.spIn a n = false → reports → ∃ t, exec (.zfillPerform c k) s = .next t ∧ failed t 3)) ∧
    (∀ zf : ZfillX, s.Heads c k 0 x rest → x.instr = .zfill f zf → zf.sp = false → x.progress = 0 →
      let a := (op 0).toNat
      let n := (op 1).toNat
      let lo (i : Nat) : Nat := max a ((a / 256 + i) * 256)
      let len (i : Nat) : Nat := min (a + n) ((a / 256 + i + 1) * 256) - lo i
      let after (m : Nat) : State := upTo (fun z i => (z.zeroUnit c k (lo i, len i) i).s) m
      let m := (a + n - 1) / 256 - a / 256 + 1
      (2 ^ 30 < n → reports → ∃ t, exec (.zfillPerform c k) s = .next t ∧ failed t 3) ∧
      (1 ≤ n → n ≤ 2 ^ 30 → (∀ i, i < m → ((after i).zeroUnit c k (lo i, len i) i).stop = none) →
        exec (.zfillPerform c k) s = .next ((after m).withQueue c k 0 rest))) ∧
    -- a line, or part of a line, that ZFILL fills
    (∀ (a n i : Nat) (e : Flt) (y : Xlat), 0 < n → a % 256 + n ≤ 256 → a + n ≤ 2 ^ 64 →
      let va : Dword := BitVec.ofNat 64 a
      let w := s.zeroUnit c k (a, n) i
      (s.translate c tm.ctx va .engWrite = .error e → w.stop = some (.fault e) ∧ w.s = s) ∧
      (s.translate c tm.ctx va .engWrite = .ok y →
        (n < 256 ∨ inHbm y.pa = false → w.s = (s.engDst c k false va (List.replicate n 0) 2 false).s) ∧
        (n = 256 → inHbm y.pa = true → y.mir = false → (s.caches c).wbuf = [] → (s.caches c).promises = [] → c < 512 → w.stop = none ∧
          (∀ b, w.s.mem.get b = if y.pa ≤ b ∧ b < y.pa + 256 then 0 else (s.useLeaf c tm.ctx va y .engWrite).mem.get b) ∧
          w.s.l2.find (y.pa / 256) = some { z := y.zel, vs := 15, ds := 15 } ∧
          ∀ j, j < 4 → (w.s.caches c).l1.find (y.pa / 64 + j) = none ∧ w.s.poison.contains (y.pa / 64 + j) = false))) ∧
    (∀ (co : CollX) (ev : Instr) (red : Bool) (r : List Dword), s.Heads c k 3 x rest →
      (x.instr, ev, red) ∈ [(Instr.callred f co, Instr.callredPerform c k, true), (.cgather f co, .cgatherPerform c k, false)] →
      x.record = some r → x.begun = true →
      let me : Party := { core := c, slot := k, cmd := x }
      let all := s.parties (colKey r)
      ((all.all fun q => q.terms == me.terms) = true → (dedup (all.map fun q => colRank q.rec_)).length = all.length →
        (all.length ≠ colRanks r → exec ev s = .next s) ∧
        (all.length = colRanks r → (all.all fun q => (s.headOf q.core q.slot 3).isSome) = true → exec ev s = .next (s.collective none (rankOrder all)))) ∧
      -- the sums and the bytes of several ranks
      ((all.all fun q => q.terms == me.terms) = true → all.length = colRanks r → (all.all fun q => (s.headOf q.core q.slot 3).isSome) = true →
        all.Pairwise (fun p q => p.core ≠ q.core ∨ (s.team p.core p.slot).spBase + (s.team p.core p.slot).spSize ≤ (s.team q.core q.slot).spBase ∨
          (s.team q.core q.slot).spBase + (s.team q.core q.slot).spSize ≤ (s.team p.core p.slot).spBase) →
        let n := colCount r
        let ty := colType r
        let e := match ty with
          | 0 => 4 | 1 => 2 | 2 => 4 | 3 => 4 | _ => 8
        let send (p : Party) : Nat := (wordAt p.cmd.ops 1).toNat
        let recv (p : Party) : Nat := (wordAt p.cmd.ops 0).toNat
        let el (p : Party) (i : Nat) : Nat := leNat (s.spRead p.core p.slot (send p + e * i) e)
        1 ≤ n → s.contribs = [] → s.mirror.flight = [] → co.q8 = false →
        (∀ p ∈ all, p.cmd.progress = 0 ∧ (∃ f' co', p.cmd.instr = (if red then .callred f' co' else .cgather f' co') ∧ co'.ssp = true ∧ co'.dsp = true) ∧
          (s.team p.core p.slot).spIn (send p) (n * e) = true ∧ (s.team p.core p.slot).absentFor p.cmd.id (send p) (n * e) = false ∧
          s.spPoisoned p.core p.slot (send p) (n * e) = false ∧ (s.team p.core p.slot).spSize ≤ 2 ^ 20 ∧
          (s.team p.core p.slot).spIn (recv p) (if red then n * e else n * e * colRanks r) = true) →
        ∀ l : List Party, l.Perm all → l.Pairwise (fun p q => colRank p.rec_ < colRank q.rec_) →
          ∃ t, exec ev s = .next t ∧ ∀ p ∈ all,
            ((t.team p.core p.slot).eng.get 3 .none).cmds = ((s.team p.core p.slot).eng.get 3 .none).cmds.tail ∧
            (red = true → ∀ i, i < n → t.spRead p.core p.slot (recv p + e * i) e = natLe e (colElement co.op.toNat ty (l.map fun q => el q i))) ∧
            (red = false → ∀ j i q, l[j]? = some q → i < n → t.spRead p.core p.slot (recv p + e * (n * j + i)) e = natLe e (el q i))) ∧
      (all = [me] → colRanks r = 1 → co.ssp = true → co.dsp = true → co.q8 = false → (red = true → co.op ≠ 0 ∨ colType r ≠ 1) →
        let d := (op 0).toNat
        let a := (op 1).toNat
        let n := colCount r * colBytes (colType r)
        tm.absentFor x.id a n = false → tm.spIn d n = true → tm.spIn a n = true → tm.spSize ≤ 2 ^ 20 → s.spPoisoned c k a n = false → x.progress = 0 →
        s.contribs = [] → s.mirror.flight = [] →
        ∃ z, exec ev s = .next (z.withQueue c k 3 rest) ∧
          s.ScratchIs z c k fun b => if d ≤ b ∧ b < d + n then old (a + (b - d)) else old b)) ∧
    -- an element of a reduction: contributions in ascending rank order, a BF16 sum rounded once
    (∀ (op' ty v y : Nat) (vs : List Nat), op' ≤ 2 → ty ≤ 6 → (∀ u ∈ y :: vs, u < 2 ^ (if ty ≤ 3 then 32 else 64)) →
      (ty ≠ 1 ∨ op' ≠ 0 → colElement op' ty [v] = v ∧ (vs ≠ [] → colElement op' ty (vs ++ [y]) =
        let u := colElement op' ty vs
        let F := if ty = 0 then fp32 else bf16
        let w := if ty ≤ 3 then 32 else 64
        let below (p q : Nat) : Bool := if ty % 2 = 0 then decide ((BitVec.ofNat w p).toInt < (BitVec.ofNat w q).toInt) else decide (p < q)
        if 2 ≤ ty then
          (match op' with
           | 0 => (u + y) % 2 ^ w
           | 1 => if below y u then y else u
           | _ => if below u y then y else u)
        else if op' = 0 then (add32 (BitVec.ofNat 32 u) (BitVec.ofNat 32 y)).toNat
        else if F.read false u = .nan ∧ F.read false y = .nan then F.nanCode
        else if F.read false u = .nan then y % 2 ^ (F.prec + 8)
        else if F.read false y = .nan then u % 2 ^ (F.prec + 8)
        else if (if op' = 1 then (F.read false y).below (F.read false u) else (F.read false u).below (F.read false y)) then y % 2 ^ (F.prec + 8)
        else u % 2 ^ (F.prec + 8))) ∧
      colElement 0 1 (v :: vs) = (rnd bf16 0 false (val32 (vs.foldl (fun z y => add32 z (BitVec.ofNat 32 (y % 2 ^ 16 * 2 ^ 16)))
        (BitVec.ofNat 32 (v % 2 ^ 16 * 2 ^ 16))))).1) ∧
    -- an FP8 contribution: the block's scale, its bytes, the values that the receivers use, the new carries
    (∀ (X C : List Word) (i : Nat), i < X.length →
      let y (j : Nat) : Word := add32 (X.getD j 0) (C.getD j 0)
      let sc := blockScale ((List.range X.length).map y)
      let q := (e4m3q 0 false (val32 (rn32 ((val32 (y i)).div (val32 sc))))).1
      let value := rn32 ((readE4m3 q).mul (val32 sc)).1
      (carryBlock X C).2.getD i 0 = value ∧ (carryBlock X C).1.getD i 0 = sub32 (y i) value) ∧
    (∀ l : List Word,
      ((∃ w ∈ l, ∀ v, val32 w ≠ .fin v) → blockScale l = 0x3F800000) ∧
      ((∀ w ∈ l, w.toNat % 2 ^ 31 = 0) → blockScale l = 0x3F800000) ∧
      ∀ w ∈ l, (∀ v ∈ l, v.toNat % 2 ^ 31 ≤ w.toNat % 2 ^ 31) → w.toNat % 2 ^ 31 ≠ 0 → w.toNat % 2 ^ 31 < 0x7F800000 →
        blockScale l = rn32 ((val32 (w &&& 0x7FFFFFFF)).div (.fin { neg := false, mag := 448, exp := 0, more := false })))

/-- spec/11 R250, R252 to R255, R258, R262, R266 to R268, spec/04 R103: OMAP, MMA, MSQD, MZERO, MSTORE and MTOPK in queue 1, MADDT,
TCFG and the row images in queue 2, each at the head of its queue and meeting no fault: what they write, after which they leave
the queue; an MMA or MSQD with chunks left stays. A row image is moved in units of 64 bytes, the row taken with the first and replaced
with the last. A team receives partials: the latest of each row and position counts. Which absent lines a command waits for is the
model's reading (notes/assumptions/20.md), and that it works whole in one step its choice (notes/assumptions/42.md). -/
def Obligations.MatrixAndTrunkWork : Prop :=
  ∀ (s : State) (c k : Nat) (x : Cmd) (rest : List Cmd) (f : GA),
    let tm := s.team c k
    let op (n : Nat) : Dword := wordAt x.ops n
    let el (z : State) (n e : Nat) : Word := (z.tile c k n).el.get e 0
    let tk := tm.trunk
    (∀ om : OmapX, s.Heads c k 1 x rest → x.instr = .omap f om → (s.engRead c tm.ctx (op 0) 64 2).flt = none →
      let g := s.engRead c tm.ctx (op 0) 64 2
      let r := dwordsOfBytes 8 g.bytes
      tm.mapOk r = true → ∃ t, exec (.omapPerform c k) s = .next t ∧ (t.team c k).oms.find om.map.toNat = some r ∧
        ((t.team c k).eng.get 1 .none).cmds = rest) ∧
    (∀ (m : MmaX) (map : List Dword) (i : Instr) (ev : Instr) (mul : Bool), s.Heads c k 1 x rest → x.instr = i →
      (i, ev, mul) ∈ [(Instr.mma f m, Instr.mmaChunk c k, true), (.msqd f m, .msqdPerform c k, false)] →
      (∀ y ∈ rest, y.id ≠ x.id) → tm.hasTile m.tile.toNat = true → tm.oms.find m.map.toNat = some map →
      (m.acc = true → (s.tile c k m.tile.toNat).valid = true) → tm.chunkWaits map x.progress (mul && !mapBf map) = false →
      let ch := s.readChunk c k map x.progress (mul && !mapBf map)
      let last : Prop := mapChunks map ≤ x.progress + 1
      ch.flt = none → ch.bad = false → (mul = true ∨ last) → ∃ t, exec ev s = .next t ∧
        (∀ a b, a < 128 → b < 128 → el t m.tile.toNat (128 * a + b) =
          (if mul then Chunk.mma else Chunk.msqd) ch (mapBf map) a b
            (if x.progress = 0 ∧ m.acc = false then 0 else el s m.tile.toNat (128 * a + b))) ∧
        (last → (t.tile c k m.tile.toNat).valid = true ∧ ((t.team c k).eng.get 1 .none).cmds = rest) ∧
        (¬ last → ((t.team c k).eng.get 1 .none).cmds = { x with progress := x.progress + 1, begun := true } :: rest)) ∧
    (∀ mt : MtileX, s.Heads c k 1 x rest → x.instr = .mzero f mt → tm.hasTile mt.tile.toNat = true →
      ∃ t, exec (.mzeroPerform c k) s = .next t ∧ t.tile c k mt.tile.toNat = Tile.zero ∧ ((t.team c k).eng.get 1 .none).cmds = rest ∧
        t.mem = s.mem ∧ (t.core c).sp = (s.core c).sp) ∧
    (∀ st : StoreX, s.Heads c k 1 x rest → x.instr = .mstore f st → st.sp = true → x.progress = 0 →
      let n := if st.ty then 2 else 4
      let d := (op 0).toNat
      let b := (op 1).toNat
      tm.hasTile st.tile.toNat = true → (s.tile c k st.tile.toNat).valid = true → b % n = 0 → 128 * n ≤ b → b ≤ 2 ^ 20 → tm.spSize ≤ 2 ^ 20 → tm.spIn d (127 * b + 128 * n) = true →
      ∃ t, exec (.mstorePerform c k) s = .next t ∧ ((t.team c k).eng.get 1 .none).cmds = rest ∧
        ∀ i j, i < 128 → j < 128 → t.spRead c k (d + i * b + n * j) n =
          if st.ty then natLe 2 (toBf16 (el s st.tile.toNat (128 * i + j))) else natLe 4 (el s st.tile.toNat (128 * i + j)).toNat) ∧
    (∀ st : StoreX, s.Heads c k 1 x rest → x.instr = .mstore f st → st.sp = false → x.progress = 0 →
      let n := if st.ty then 2 else 4
      let w (e : Nat) : Word := el s st.tile.toNat e
      let put (z : State) (e : Nat) : Put := z.engDst c k false (op 0 + BitVec.ofNat 64 (e / 128) * op 1 + BitVec.ofNat 64 (n * (e % 128)))
        (if st.ty then natLe 2 (toBf16 (w e)) else natLe 4 (w e).toNat) (2 - st.pol.toNat) false
      let upTo (m : Nat) : State := (List.range m).foldl (fun z e => (put z e).s) s
      tm.hasTile st.tile.toNat = true → (s.tile c k st.tile.toNat).valid = true → (op 1).toNat % n = 0 →
      (∀ e, e < 16384 → (put (upTo e) e).flt = none) → exec (.mstorePerform c k) s = .next ((upTo 16384).withQueue c k 1 rest)) ∧
    -- the sums of a chunk: FP8 exact and rounded once, then scaled; BF16 over the fixed binary tree
    (∀ (ch : Chunk) (i j : Nat) (acc : Word),
      let qa (n : Nat) : FloatVal := readE4m3 ((ch.a.getD i []).getD n 0).toNat
      let qb (n : Nat) : FloatVal := readE4m3 ((ch.b.getD n []).getD j 0).toNat
      let wa (n : Nat) : Word := BitVec.ofNat 32 (((((ch.a.getD i []).getD (2 * n) 0).toNat + 256 * ((ch.a.getD i []).getD (2 * n + 1) 0).toNat)) * 2 ^ 16)
      let wb (n : Nat) : Word := BitVec.ofNat 32 (((((ch.b.getD n []).getD (2 * j) 0).toNat + 256 * ((ch.b.getD n []).getD (2 * j + 1) 0).toNat)) * 2 ^ 16)
      let whole (v : Int) : Word := rn32 (.fin { neg := decide (v < 0), mag := v.natAbs, exp := -18, more := false })
      let sub (n : Nat) : Word := rn32 ((val32 (wa n)).add 0 (val32 (wb n)).negate).1
      ((∃ n, n < 128 ∧ (qa n = .nan ∨ qb n = .nan)) → ch.mma false i j acc = 0x7FC00000 ∧ ch.msqd false i j acc = 0x7FC00000) ∧
      (∀ X Y : Nat → Exact, (∀ n, n < 128 → qa n = .fin (X n) ∧ qb n = .fin (Y n)) →
        let x (n : Nat) : Int := (if (X n).neg then -1 else 1) * (((X n).mag * 2 ^ ((X n).exp + 9).toNat : Nat) : Int)
        let y (n : Nat) : Int := (if (Y n).neg then -1 else 1) * (((Y n).mag * 2 ^ ((Y n).exp + 9).toNat : Nat) : Int)
        ch.mma false i j acc = add32 acc (mul32 (whole (((List.range 128).map fun n => x n * y n).sum)) (mul32 (ch.sa.getD i 0) ch.sb)) ∧
        ch.msqd false i j acc = add32 acc (whole (((List.range 128).map fun n => (x n - y n) * (x n - y n)).sum))) ∧
      (∀ p : Nat → Nat → Word, (∀ l n, p (l + 1) n = add32 (p l (2 * n)) (p l (2 * n + 1))) →
        ((∀ n, p 0 n = mul32 (wa n) (wb n)) → ch.mma true i j acc = add32 acc (p 7 0)) ∧
        ((∀ n, p 0 n = mul32 (sub n) (sub n)) → ch.msqd true i j acc = add32 acc (p 7 0)))) ∧
    (∀ tp : TopkX, s.Heads c k 1 x rest → x.instr = .mtopk f tp → x.progress = 0 →
      let d := (op 0).toNat
      let a := (op 1).toNat
      let row0 := a % 2 ^ 16
      let rows := if a / 2 ^ 16 % 256 = 0 then 128 else a / 2 ^ 16 % 256
      let n := tp.km1.toNat + 1
      let tl := s.tile c k tp.tile.toNat
      tm.hasTile tp.tile.toNat = true → tl.valid = true → row0 + rows ≤ 128 → a < 2 ^ 24 → tm.spIn d (8 * n * rows) = true →
      ∃ t, exec (.mtopkPerform c k) s = .next t ∧ ((t.team c k).eng.get 1 .none).cmds = rest ∧
        ∀ i, i < rows → ∃ cols : List Nat, cols.Perm (List.range 128) ∧
          cols.Pairwise (fun p q => rankKey (tl.at_ (row0 + i) q) < rankKey (tl.at_ (row0 + i) p) ∨
            (rankKey (tl.at_ (row0 + i) q) = rankKey (tl.at_ (row0 + i) p) ∧ p < q)) ∧
          ∀ r, r < n → r < 128 → t.spRead c k (d + 8 * (n * i + r)) 8 =
            natLe 4 (tl.at_ (row0 + i) (cols.getD r 0)).toNat ++ natLe 4 (cols.getD r 0)) ∧
    (∀ mt : MtileX, s.Heads c k 2 x rest → x.instr = .maddt f mt →
      let a := (op 0).toNat
      let n := if a / 2 ^ 32 % 256 = 0 then 128 else a / 2 ^ 32 % 256
      let r0 := a % 2 ^ 16
      let c0 := a / 2 ^ 16 % 2 ^ 16
      tm.hasTile mt.tile.toNat = true → (s.tile c k mt.tile.toNat).valid = true → n ≤ 128 → a < 2 ^ 40 → r0 + n ≤ tk.rows →
      c0 + 128 ≤ tk.rowLen → ∃ t, exec (.maddtPerform c k) s = .next t ∧ ((t.team c k).eng.get 2 .none).cmds = rest ∧
        (∀ i j, i < n → j < 128 → (t.core c).trunk.get (tk.el (r0 + i) (c0 + j)) 0 =
          (s.core c).trunk.get (tk.el (r0 + i) (c0 + j)) 0 + BitVec.ofInt 64 (contribution (val32 (el s mt.tile.toNat (128 * i + j)))).1) ∧
        ∀ e, (∀ i j, i < n → j < 128 → e ≠ tk.el (r0 + i) (c0 + j)) → (t.core c).trunk.get e 0 = (s.core c).trunk.get e 0) ∧
    (∀ tc : TcfgX, s.Heads c k 2 x rest → x.instr = .tcfg f tc → x.record = none → tc.sm1 = 0 → x.doomed = false → s.spanMeets c k x = [] →
      let l := (op 0).toNat
      l % 128 = 0 → 128 ≤ l → l ≤ 16384 → l ≤ tk.size → op 1 = 0 → (∀ y ∈ rest, y.record = none) → (∀ u ∈ s.teamUnits c k, (s.thread u).waiting = none) →
      ∃ t, exec (.tcfgPerform c k) s = .next t ∧ ((t.team c k).eng.get 2 .none).cmds = rest ∧
        (t.team c k).trunk = { tk with rowLen := l, span := 1, pos := 0, members := [tm.number] } ∧
        ∀ e, (tk.base ≤ e ∧ e < tk.base + tk.size → (t.core c).trunk.get e 0 = 0) ∧
          (¬ (tk.base ≤ e ∧ e < tk.base + tk.size) → (t.core c).trunk.get e 0 = (s.core c).trunk.get e 0)) ∧
    (∀ (im : ImageX) (row : Nat), x.progress = 0 → im.obj = false → s.Heads c k 2 x rest → (op 0).toNat % 64 = 0 →
      (op 1).toNat % 2 ^ 16 = row → (op 1).toNat / 2 ^ 16 % 2 ^ 16 ≤ 1 → row + 1 ≤ tk.rows →
      let units := tk.rowLen / 8 + 1
      let there (n : Nat) : Dword := op 0 + BitVec.ofNat 64 (64 * n)
      let holds (z : State) (b : List Byte) : State := z.onHead c k 2 fun y => { y with buf := b }
      (x.instr = .tevict f im →
        let image := s.rowImage c k row
        let taken := if im.clr then (holds s image).rowZero c k row else holds s image
        let put (z : State) (n : Nat) : Put := z.engDst c k false (there n) ((image.drop (64 * n)).take 64) 2 false
        let upTo (n : Nat) : State := (List.range n).foldl (fun z m => (put z m).s) taken
        (∀ n, n < units → (∃ y, (if n = 0 then s else upTo n).translate c tm.ctx (there n) .engWrite = .ok y) ∧ (put (upTo n) n).flt = none) →
          exec (.tevictPerform c k 2) s = .next ((upTo units).withQueue c k 2 rest) ∧
          ∀ j, j < tk.rowLen → ((upTo units).core c).trunk.get (tk.el row j) 0 =
            if im.clr then 0 else (s.core c).trunk.get (tk.el row j) 0) ∧
      (x.instr = .trestore f im →
        let got (z : State) (n : Nat) : Got := z.engRead c tm.ctx (there n) 64 2
        let upTo (n : Nat) : State × List Byte :=
          (List.range n).foldl (fun z m => (holds (got z.1 m).s (z.2 ++ (got z.1 m).bytes), z.2 ++ (got z.1 m).bytes)) (s, [])
        (∀ n, n < units → (got (upTo n).1 n).flt = none ∧ (got (upTo n).1 n).bad.any id = false) → imageOk tk.rowLen (upTo units).2 = true →
          ∃ t, exec (.trestorePerform c k 2) s = .next t ∧ ((t.team c k).eng.get 2 .none).cmds = rest ∧ t.mem = (upTo units).1.mem ∧
          ∀ j, j < tk.rowLen → (t.core c).trunk.get (tk.el row j) 0 = BitVec.ofNat 64 (leNat (((upTo units).2.drop (8 * j)).take 8)))) ∧
    -- the image of a tile: 16384 elements in row order
    (∀ im : ImageX, x.progress = 0 → im.obj = true → im.clr = false → s.Heads c k 1 x rest → (op 0).toNat % 64 = 0 → op 1 = 0 →
      tm.hasTile im.tile.toNat = true →
      let there (n : Nat) : Dword := op 0 + BitVec.ofNat 64 (64 * n)
      (x.instr = .tevict f im → (s.tile c k im.tile.toNat).valid = true →
        let put (z : State) (n : Nat) : Put := z.engDst c k false (there n)
          ((List.range 16).flatMap fun e => natLe 4 (el s im.tile.toNat (16 * n + e)).toNat) 2 false
        let upTo (n : Nat) : State := (List.range n).foldl (fun z m => (put z m).s) s
        (∀ n, n < 1024 → (put (upTo n) n).flt = none) → exec (.tevictPerform c k 1) s = .next ((upTo 1024).withQueue c k 1 rest)) ∧
      (x.instr = .trestore f im →
        let got (z : State) (n : Nat) : Got := z.engRead c tm.ctx (there n) 64 2
        let upTo (n : Nat) : State × List Byte := (List.range n).foldl (fun z m => ((got z.1 m).s, z.2 ++ (got z.1 m).bytes)) (s, [])
        (∀ n, n < 1024 → (got (upTo n).1 n).flt = none ∧ (got (upTo n).1 n).bad.any id = false) →
          ∃ t, exec (.trestorePerform c k 1) s = .next t ∧ ((t.team c k).eng.get 1 .none).cmds = rest ∧ t.mem = (upTo 1024).1.mem ∧
            (t.tile c k im.tile.toNat).valid = true ∧
            ∀ e, e < 16384 → el t im.tile.toNat e = BitVec.ofNat 32 (leNat (((upTo 1024).2.drop (4 * e)).take 4)))) ∧
    (∃ t, exec (.trunkPartialReceive c k) s = .next t ∧ ((∀ m ∈ s.spanOthers c k, ∀ u ∈ s.teamUnits m.1 m.2, (s.thread u).waiting = none) →
      t = { s with cores := t.cores } ∧ (t.team c k).inbox = [] ∧
        ∀ p ∈ (t.team c k).partials, p ∈ tm.inbox ∨ (p ∈ tm.partials ∧ ∀ q ∈ tm.inbox, q.row ≠ p.row ∨ q.pos ≠ p.pos)) ∧
      ∀ p l, tm.inbox = l ++ [p] → (∀ m ∈ s.spanOthers c k, ∀ u ∈ s.teamUnits m.1 m.2, (s.thread u).waiting = none) → p ∈ (t.team c k).partials)

/-! From a kick to a running team. -/

/-- spec/14 R307 to R316, R319, spec/16 R354: QKICK, QCFG and the clearing of HALT; the next entry of an enabled queue that is not
halted: NOP ends, SIGNAL raises its event, WAIT waits for one, GRAPH makes its nodes ready or is refused with the code of the
first failing check, INSTALL reports what the translator makes of its object; a node of a graph starts its grid once its predecessors have
ended, unless a team of the graph was torn down; the device's own launches, taken in their order (notes/assumptions/50.md), start or are
refused; a team that fits is placed on a core: cleared scratchpad, streams at the kernel's entries, the launched lanes in one path. What
bytes of memory say as an object, and who has signed it, is a free function of Config, and its size an operand of the event
(notes/assumptions/10.md); an object that cannot be read counts as malformed. -/
def Obligations.FrontEnd : Prop :=
  ∀ (s : State) (g n : Nat),
    let q := (s.grove g).queues.get n .reset
    let set (z : State) (p : SubQueue) : State := z.onGrove g fun k => { k with queues := k.queues.put n p }
    let err : State := s.onGrove g fun k => { k with win := { k.win with tiErr := true } }
    let w := dwordsOfBytes 8 (s.mem.read (q.base.toNat + 64 * (q.done.toNat % 2 ^ q.log2n)) 64)
    let kind (k : Nat) : Prop := q.en = true ∧ q.halt = false ∧ q.graph = none ∧ q.wait = none ∧ q.tail ≠ q.done ∧
      (wordAt w 0).toNat % 16 = k ∧ entryOk w = true
    (∀ tail : Word,
      let bad : Prop := 2 ^ q.log2n < (tail - q.done).toNat ∨ (q.en = true ∧ (tail - q.done).toNat < (q.tail - q.done).toNat)
      (s.up = false → exec (.qkick g n tail) s = .next s) ∧
      (s.up = true → ¬ bad → exec (.qkick g n tail) s = .next (set s { q with tail := tail })) ∧
      (s.up = true → bad → exec (.qkick g n tail) s = .next err)) ∧
    (∀ v : Dword, s.up = true →
      let ctx := v.toNat / 2 ^ 8 % 2 ^ 12
      let lg := v.toNat / 2 ^ 4 % 2 ^ 4
      let good : Prop := (s.ctx ctx).desc.grove = g ∧ lg ≠ 0 ∧ (inHbm q.base.toNat = true ∨ inHost q.base.toNat = true)
      (q.en = true → v.getLsbD 0 = false → exec (.qcfgWrite g n v) s = .next (set s { q with en := false })) ∧
      (q.en = true → v.getLsbD 0 = true → exec (.qcfgWrite g n v) s = .next s) ∧
      (q.en = false → q.graph = none → q.wait = none →
        let taken := set s { q with en := v.getLsbD 0, pri := v.toNat / 2 % 8, log2n := lg, ctx := ctx }
        (v.getLsbD 0 = false ∨ good → exec (.qcfgWrite g n v) s = .next taken) ∧
        (v.getLsbD 0 = true → ¬ good → exec (.qcfgWrite g n v) s = .next err)) ∧
      (q.en = false → (q.graph ≠ none ∨ q.wait ≠ none) → q.pri < 8 → q.log2n < 16 → q.ctx < 4096 →
        let same : Prop := v.getLsbD 0 = true ∧ v.toNat / 2 % 8 = q.pri ∧ lg = q.log2n ∧ ctx = q.ctx
        (same → good → exec (.qcfgWrite g n v) s = .next (set s { q with en := true })) ∧
        (same → ¬ good → exec (.qcfgWrite g n v) s = .next err) ∧ (¬ same → exec (.qcfgWrite g n v) s = .next s))) ∧
    (s.up = true → exec (.qstatHaltClear g n) s = .next (set s { q with halt := false, err := 0 })) ∧
    (kind 0 → exec (.entryNop g n) s = .next (set s { q with done := q.done + 1 })) ∧
    (kind 3 →
      let e := (wordAt w 0).toNat / 2 ^ 4 % 2 ^ 8
      ∃ t, exec (.entrySignal g n) s = .next t ∧ t = { s.releaseAll mgmtNode with groves := t.groves } ∧ (t.grove g).queues.get n .reset = { q with done := q.done + 1 } ∧
        ((t.grove g).events.get e 0).toNat = max ((s.grove g).events.get e 0).toNat (wordAt w 1).toNat ∧
        ∀ m, m ≠ e → (t.grove g).events.get m 0 = (s.grove g).events.get m 0) ∧
    (kind 4 →
      let e := (wordAt w 0).toNat / 2 ^ 4 % 2 ^ 8
      ((wordAt w 1).toNat ≤ ((s.grove g).events.get e 0).toNat → ∃ t, exec (.entryWait g n) s = .next t ∧ t = { s with groves := t.groves } ∧
        (t.grove g).queues.get n .reset = { q with done := q.done + 1 }) ∧
      (((s.grove g).events.get e 0).toNat < (wordAt w 1).toNat →
        exec (.entryWait g n) s = .next (set s { q with wait := some (e, wordAt w 1) }))) ∧
    (kind 1 → s.boot.attempt ≠ 4 →
      (s.ctxOk q.ctx = false → ∃ t, exec (.entryGraph g n) s = .next t ∧ t = { s with groves := t.groves } ∧
        (t.grove g).queues.get n .reset = { q with done := q.done + 1, halt := true, err := 1 } ∧ (t.grove g).gint = (s.grove g).gint ||| 2) ∧
      (∀ ds es z, s.ctxOk q.ctx = true → s.readGraph q.ctx (BitVec.ofNat 64 ((wordAt w 2).toNat % 2 ^ 56)) = .ok (some (ds, es), z) →
        (wordAt w 4).toNat % 2 ^ 16 = 0 → (∀ d ∈ ds, z.refusal q.ctx d true (dTeams d) = 0) → z.groves = s.groves → exec (.entryGraph g n) s = .next (set z { q with
          graph := some { base := (wordAt w 2).toNat % 2 ^ 56, descs := ds, edges := es, grids := .empty, ended := [], torn := false } }))) ∧
    (kind 2 →
      let ad (k : Nat) : Nat := (wordAt w k).toNat % 2 ^ 56
      let reports (y t : State) (ws : List Dword) : Prop := ∀ z, y.frontStore q.ctx (BitVec.ofNat 64 (ad 7)) (bytesOfDwords ws) = .ok z →
        z.groves = s.groves → t = set z { q with done := q.done + 1 }
      (∀ (key : BitVec 256) (o : CodeObject),
        (o.signer ≠ some key → translateObject key q.ctx (ad 6) o = .rejected 1 0 0) ∧
        (o.signer = some key → o.version = 0 ∨ 5 < o.version → translateObject key q.ctx (ad 6) o = .rejected 2 0 0)) ∧
      ∀ size : Nat,
        (∀ e, s.frontLoad q.ctx (BitVec.ofNat 64 (ad 5)) size = .error e → ∃ t, exec (.entryInstall g n size) s = .next t ∧ reports s t [4, 0, 0, 0]) ∧
        ∀ bs y, s.frontLoad q.ctx (BitVec.ofNat 64 (ad 5)) size = .ok (bs, y) →
          let made := translateObject (y.grove (y.ctx q.ctx).desc.grove).codeKey q.ctx (ad 6) (Config.objectOf bs)
          (∀ status reloc value, made = .rejected status reloc value → ∃ t, exec (.entryInstall g n size) s = .next t ∧
            reports y t [BitVec.ofNat 64 (status + reloc % 2 ^ 32 * 2 ^ 32), 0, value, 0]) ∧
          (∀ code ks, made = .code code ks →
            (y.codeLeaves q.ctx (ad 6) code.length = none → ∃ t, exec (.entryInstall g n size) s = .next t ∧ reports y t [6, 0, 0, 0]) ∧
            (∀ ls, y.codeLeaves q.ctx (ad 6) code.length = some ls → ∃ t, exec (.entryInstall g n size) s = .next t ∧
              (∀ k ∈ ks, k.ctx = q.ctx ∧ k ∈ t.kernels) ∧ (∀ k ∈ s.kernels, (∀ x ∈ ks, ¬ (k.ctx = q.ctx ∧ x.entry = k.entry)) → k ∈ t.kernels) ∧
              ((t.grove g).queues.get n .reset).done = q.done + 1))) ∧
    (∀ r node, q.graph = some r → r.torn = false → (∀ x ∈ r.grids.cells, (s.grid x.2).torn = false) → r.grids.has node = false → node < r.descs.length →
      (∀ e ∈ r.edges, e.2 = node → e.1 ∈ r.ended) → ∃ t x, exec (.graphNodeStart g n node) s = .next t ∧ t.grids.find s.nextGrid = some x ∧
        t.nextGrid = s.nextGrid + 1 ∧ x.ctx = q.ctx ∧ x.pri = q.pri ∧ x.src = .node g n node ∧ x.nteams = dTeams (r.descs.getD node []) ∧
        x.admitted = 0 ∧ x.retired = 0 ∧ x.torn = false ∧ ((t.grove g).queues.get n .reset).graph = some { r with grids := r.grids.put node s.nextGrid }) ∧
    (∀ r node, q.graph = some r → ((∃ e ∈ r.edges, e.2 = node ∧ e.1 ∉ r.ended) ∨ r.torn = true ∨ ∃ x ∈ r.grids.cells, (s.grid x.2).torn = true) →
      exec (.graphNodeStart g n node) s = .next s) ∧
    (∀ e rest, (s.grove g).devq = e :: rest →
      let z := s.onGrove g fun k => { k with devq := rest }
      let code := z.refusal e.ctx e.desc false (match e.replay with
        | none => e.nteams
        | some l => (dedup (l.recs.map fun x => (wordAt x 1).toNat % 2 ^ 32)).length)
      (code = 0 → ∃ t x, exec (.deviceLaunchStart g) s = .next t ∧ (t.grove g).devq = rest ∧ t.grids.find s.nextGrid = some x ∧
        t.nextGrid = s.nextGrid + 1 ∧ x.ctx = e.ctx ∧ x.pri = e.pri ∧ x.nteams = e.nteams ∧ x.src = .device g ∧ x.replay = e.replay) ∧
      (code ≠ 0 → e.replay = none → ∃ t, exec (.deviceLaunchStart g) s = .next t ∧ t = z.report mgmtNode e.ctx [[0,
        BitVec.ofNat 64 code, BitVec.ofNat 64 (e.ctx + g * 2 ^ 12 + 0x14 * 2 ^ 40 + 2 ^ 63)]] none none)) ∧
    (∀ (gid c : Nat) (x : Grid), s.grids.find gid = some x → x.torn = false → x.admitted < x.total → x.lant = false → x.coop = false →
      (c ∈ s.groveCores x.grove) → s.heldBack gid c = false → s.teamFits x c = true →
      let num := x.teamNumber x.admitted
      ∃ t k, exec (.teamAdmission gid c) s = .next t ∧ (s.core c).teams.free 8 = some k ∧ (t.grid gid).admitted = x.admitted + 1 ∧
        (t.team c k).grid = gid ∧ (t.team c k).ctx = x.ctx ∧ (t.team c k).number = num ∧ (t.team c k).spSize = 4096 * x.spk ∧
        (t.team c k).seq.pc = BitVec.ofNat 64 x.kernel.addrEntry ∧ (t.team c k).seq.fmt = x.fmt ∧ (t.team c k).seqExited = false ∧
        (t.team c k).tiles.length = x.tiles ∧ (t.team c k).trunk.size = 2048 * x.trk ∧
        (∀ a, a < 2 ^ 20 → (t.core c).sp.get ((t.team c k).spBase + a) = 0) ∧
        (∀ m ∈ (t.team c k).slots, (s.core c).groups.has m = false ∧ ∃ y, (t.core c).groups.find m = some y ∧ y.team = k ∧ y.width = x.kernel.width ∧
          y.launched = x.lanesOf num y.number ∧ y.launched ≠ 0 ∧ y.idle = 0 ∧ y.exited = 0 ∧ y.vregs = .empty ∧ y.sregs = .empty ∧
          (∀ i, i ≠ 0 → y.paths.find i = none) ∧ (y.path 0).mask = y.launched ∧ (y.path 0).th.pc = BitVec.ofNat 64 x.kernel.entry ∧
          (y.path 0).th.fmt = x.fmt ∧ (y.path 0).th.state = .ready))

/-- spec/14 R317, R324, spec/05 R118, R135, spec/04 R110, spec/12 R276, spec/16 R358: a unit whose wait ends does
what it does when it issues its instruction, in the run in which it waited (the model's reading: notes/assumptions/66.md); a quadrant with no run in progress takes the
longest-waiting aged unit, else one of the highest role priority; a lantern core takes its next program; a ready unit ages. A
group with no live lane and no path retires once no write of its lanes is held; a team whose streams, commands and groups have ended, or that is torn down, leaves
its core; a grid ends when all its teams have retired, and with its last node the entry. Debug and stall records are written
where their rings have room. The stages of a retirement are the model's (notes/assumptions/31.md). -/
def Obligations.Scheduling : Prop :=
  ∀ (s : State) (c q : Nat),
    let quad := (s.core c).quads.get q .none
    let ready := s.readyUnits c q
    (∀ u i ev body f, (ev, body) ∈ [(Instr.scratchpadWaitEnd u, spBody), (.tileWaitEnd u, tileBody), (.queueWaitEnd u, queueBody),
        (.rendezvousWaitEnd u, slotBody), (.batchWaitComplete u, batchBody), (.recordQueueWaitEnd u, recordBody),
        (.engineQueueRoom u, engineBody), (.launchQueueRoom u, launchBody)] → body i = some f →
      (s.Issues u i → exec i s = .next (f u s)) ∧ (s.alive u = true → (s.thread u).waiting = some i → exec ev s = .next (f u s)) ∧
      (s.alive u = false ∨ (s.thread u).waiting = none → exec ev s = .next s)) ∧
    (quad.current ≠ none → exec (.issueSelect (.quad c q)) s = .next s) ∧
    (quad.current = none → ready = [] → ∃ t, exec (.issueSelect (.quad c q)) s = .next t ∧ t.turn = s.turn ∧ t.mem = s.mem) ∧
    (quad.current = none → (∃ u ∈ ready, u.isPath = true) → (∀ u ∈ ready, s.stopHere u = false ∧ u.isPath = true) → ∃ t u, u ∈ ready ∧
      exec (.issueSelect (.quad c q)) s = .next t ∧ t.turn = some u ∧ (t.core c).quads.get q .none = { current := some u, last := placeInRound u } ∧
      (t.thread u).age = none ∧ (t.thread u).pc = (s.thread u).pc ∧ (∀ r, t.sget u r = s.sget u r) ∧ t.mem = s.mem ∧
      ((∀ v ∈ ready, (s.thread v).age = none) → ∀ v ∈ ready, s.priority v ≤ s.priority u) ∧
      ∀ v ∈ ready, ∀ a, (s.thread v).age = some a → ∃ b, (s.thread u).age = some b ∧ b ≤ a) ∧
    (∀ l p, (s.lantern l).progs.cells.length = 1 → (s.lantern l).progs.find p = some (s.prog l p) → (s.prog l p).th.state = .ready → s.stopHere (.lant l p) = false →
      ∃ t, exec (.issueSelect (.lantern l)) s = .next t ∧ t.turn = some (.lant l p) ∧ (t.lantern l).last = p ∧ (t.prog l p).th.pc = (s.prog l p).th.pc) ∧
    (∀ u : UnitId, u.isPath = true ∨ u.isSeq = true → s.alive u = true → (s.thread u).state = .ready → (s.thread u).age = none →
      ((s.core u.place).quads.get u.quad .none).current ≠ some u → ∃ t n, exec (.pathAged u) s = .next t ∧ s.Own t u ∧ (t.thread u).age = some n ∧
        ∀ v ∈ s.readyUnits u.place u.quad, ∀ m, (s.thread v).age = some m → m < n) ∧
    (∀ g k, (s.core c).groups.find g = some k → k.retired = false →
      (k.live = 0 → k.paths.cells = [] → (∀ l, l < 64 → (k.binds.get l .none).bound = false) →
        let owes : Prop := ∃ d ∈ s.deferred, d.lanes ≠ 0 ∧ d.core = c ∧ d.slot = g
        (¬ owes → exec (.groupRetire c g) s = .next (s.onGroup c g fun k => { k with retired := true, growReq := none })) ∧
        (owes → exec (.groupRetire c g) s = .next s)) ∧
      (k.live ≠ 0 → exec (.groupRetire c g) s = .next s)) ∧
    (∀ k tm gr, (s.core c).teams.find k = some tm → s.grids.find tm.grid = some gr →
      let gone (t : State) : Prop := (t.core c).teams.has k = false ∧ (∀ g ∈ (t.core c).groups.cells, g.2.team ≠ k) ∧
        (∀ m, m ≠ k → (t.core c).teams.find m = (s.core c).teams.find m) ∧
        ∃ x, t.grids.find tm.grid = some x ∧ x.retired = gr.retired + 1
      let ended : Prop := tm.seqExited = true ∧ tm.cmds = [] ∧ (s.core c).evicted = [] ∧
        (∀ g ∈ (s.core c).groups.cells, g.2.team = k → g.2.retired = true) ∧ gr.replay = none ∧ (gr.kernel.replayable = false ∨ gr.rra = 0)
      (tm.torn = false → tm.seqExited = false → exec (.teamRetire c k) s = .next s) ∧
      (tm.torn = true ∨ ended → tm.retiring = 0 → s.deferred = [] → (s.grove gr.grove).stallPend = [] → (s.grove gr.grove).stallq.toNat % 32 = 0 → ∃ t, exec (.teamRetire c k) s = .next t ∧ gone t)) ∧
    (∀ gid gr, s.grids.find gid = some gr → gr.lant = false → gr.replay = none → s.deferred = [] →
      (gr.retired ≠ gr.admitted ∨ (gr.torn = false ∧ gr.admitted ≠ gr.total) → exec (.gridEnd gid) s = .next s) ∧
      (gr.retired = gr.admitted → gr.admitted = gr.total →
        (∀ g, gr.src = .device g → exec (.gridEnd gid) s = .next { s with grids := s.grids.drop gid }) ∧
        ∀ g n node r, gr.src = .node g n node → ((s.grove g).queues.get n .reset).graph = some r → r.torn = false → gr.torn = false →
          ∃ t, exec (.gridEnd gid) s = .next t ∧ t.grids = s.grids.drop gid ∧
            ((∀ m ∈ r.grids.keys, m = node ∨ m ∈ r.ended) → r.grids.keys.length = r.descs.length →
              (t.grove g).queues.get n .reset = { (s.grove g).queues.get n .reset with
                done := ((s.grove g).queues.get n .reset).done + 1, graph := none, wait := none }) ∧
            (r.grids.keys.length ≠ r.descs.length →
              (t.grove g).queues.get n .reset = { (s.grove g).queues.get n .reset with graph := some { r with ended := node :: r.ended } }))) ∧
    (∀ (g : Nat) (reg : Dword) (lg base : Nat), reg.toNat % 32 = lg → reg.toNat / 2 ^ 12 % 2 ^ 40 * 4096 = base →
      let used := (s.home64 (base - 4096) - s.home64 (base - 4088)).toNat
      (∀ us r rest, (s.grove g).dbgq = reg → (s.grove g).dbgPend = (us, r) :: rest → r.length = 4 →
        (lg = 0 → exec (.debugRecordWrite g) s = .next (s.onGrove g fun k => { k with dbgPend := rest })) ∧
        (lg ≠ 0 → 2 ^ lg < used + 1 → exec (.debugRecordWrite g) s = .next s) ∧
        (lg ≠ 0 → used + 1 ≤ 2 ^ lg → 4096 ≤ base → ∃ t, exec (.debugRecordWrite g) s = .next t ∧ (t.grove g).dbgPend = rest ∧
          (t.grove g).gint = (s.grove g).gint ||| 4 ∧ t.home64 (base - 4096) = s.home64 (base - 4096) + 1 ∧
          t.mem.read (base + 32 * ((s.home64 (base - 4096)).toNat % 2 ^ lg)) 32 = bytesOfDwords r)) ∧
      (∀ k rest, (s.grove g).stallq = reg → (s.grove g).stallPend = (c, k) :: rest →
        let slots := 1 + ((s.core c).groups.cells.filter fun n => n.2.team == k).length
        (lg ≠ 0 → 2 ^ lg < used + slots → exec (.stallRecordWrite g) s = .next s) ∧
        (lg = 0 ∨ used + slots ≤ 2 ^ lg → ∃ t, exec (.stallRecordWrite g) s = .next t ∧ (t.grove g).stallPend = rest ∧ (t.team c k).retiring = 3 ∧
          (lg ≠ 0 → 4096 ≤ base → t.home64 (base - 4096) = s.home64 (base - 4096) + BitVec.ofNat 64 slots))))

/-- spec/15 R338, R339, R341, R342: PSCMD joins the commands of its window, eight at most, or is refused; a teardown tears its teams
down at once with ECODE 0x21, a resume places the team of its image or is refused or waits, a save waits; SAVE_COMPLETE writes
the images once every unit of the teams stands still, the teams leave their cores, and DONE takes the tag. What is refused
beyond R338 and R341, and what a save waits for, are the model's readings (notes/assumptions/11.md, 22.md, 26.md, 27.md). -/
def Obligations.Preemption : Prop :=
  ∀ (s : State) (w : Option Nat) (ctx : BitVec 12) (all : Bool) (team : Word) (tag : Byte) (core : Nat),
    let win (t : State) : Window := match w with
      | some g => (t.grove g).win
      | none => t.pf.win
    let img := (win s).psimg.toNat / 2 ^ 16 % 2 ^ 36 * 65536
    let cmd (act : Nat) (all : Bool) (core : Nat) : PsCmd :=
      { act := act, ctx := ctx.toNat, all := all, team := team.toNat, tag := tag, img := img, core := core }
    let outside : Prop := ∃ g, w = some g ∧ (s.ctx ctx.toNat).desc.grove ≠ g
    let done (t : State) : Prop := (win t).psq = [] ∧ (win t).psDone = tag ∧ (win t).psErr = (win s).psErr
    (∀ (ev : Instr) (x : PsCmd), (ev, x) ∈ [(Instr.pscmdSave w ctx all team tag, cmd 0 all 0), (.pscmdResume w ctx team tag core, cmd 1 false core),
        (.pscmdTeardown w ctx all team tag, cmd 2 all 0)] →
      (s.up = false → exec ev s = .next s) ∧
      (s.up = true → outside ∨ 8 ≤ (win s).psq.length ∨ inHbm img = false → ∃ t, exec ev s = .next t ∧
        t = { s with pf := t.pf, groves := t.groves } ∧ win t = { win s with psErr := true }) ∧
      (s.up = true → ¬ outside → (win s).psq.length < 8 → inHbm img = true →
        ((win s).psq ≠ [] → ∃ t, exec ev s = .next t ∧ t = { s with pf := t.pf, groves := t.groves } ∧
          win t = { win s with psq := (win s).psq ++ [x] }) ∧
        ((win s).psq = [] →
          (x.act ≠ 1 → x.all = false → s.psTeams x = [] → ∃ t, exec ev s = .next t ∧ win t = { win s with psErr := true }) ∧
          (x.act = 0 → (x.all = true ∨ s.psTeams x ≠ []) → ∃ t, exec ev s = .next t ∧ win t = { win s with psq := [x] }) ∧
          (x.act = 2 → ∀ c k, s.psTeams x = [(c, k)] → ∃ t v, exec ev s = .next t ∧ done t ∧ s.TeamTorn t (.seq c k) 0x21 v ∧
            v.toNat < 65536 ∧ t.mem = s.mem) ∧
          (x.act = 1 →
            let q : State := s.onWindow w fun k => { k with psq := [x] }
            (q.resumeTry x = .refused → ∃ t, exec ev s = .next t ∧ win t = { win s with psErr := true }) ∧
            (q.resumeTry x = .waits → exec ev s = .next q) ∧
            ∀ z, q.resumeTry x = .placed z → win z = win q → ∃ t, exec ev s = .next t ∧ done t ∧ t = { z with pf := t.pf, groves := t.groves })))) ∧
    (∀ x c k, (win s).psq = [x] → x.act = 0 → x.tag = tag → s.psTeams x = [(c, k)] →
      (s.canSave c k = false → exec (.saveComplete w) s = .next s) ∧
      (s.canSave c k = true →
        let im := (s.quietTeam c k).teamImage c k
        x.img + (im.length + 65535) / 65536 * 65536 + 256 ≤ Config.hbmBytes → ∃ t, exec (.saveComplete w) s = .next t ∧ done t ∧
          (t.core c).teams.has k = false ∧ (∀ g ∈ (t.core c).groups.cells, g.2.team ≠ k) ∧ t.mem.read x.img im.length = im ∧
          t.mem.read (x.img + (im.length + 65535) / 65536 * 65536) 256 = List.replicate 256 0)) ∧
    ((win s).psq = [] → exec (.saveComplete w) s = .next s)

/-- spec/16 R350, R351, R353, spec/02 R81: power-on and a fundamental reset start cold and clear the counters of HBMERR and
PEERSTAT, BOOTCMD.WARM starts warm; a start counts in ATTEMPT and selects PRIMARY, the other slot with a pending SWAP, or
recovery after three attempts; an attempt that fails or takes too long is followed by a cold start, or, under recovery, by FAIL;
one that ends wipes the module, and an A or B image becomes primary; FLASHCMD, the end of its write, and LCCMD, each with what is verified
against the fuses. What an image or an object in memory holds is a free value or an operand (notes/assumptions/10.md). What registers without a reset value
hold after a start is the model's choice (notes/assumptions/2.md); which registers a start brings back, and that a WARM during a recovery
start begins again at step 1, are its readings (notes/assumptions/36.md, 37.md). -/
def Obligations.Booting : Prop :=
  ∀ s : State,
    let b := s.boot
    let began (q t : State) (warm hard : Bool) : Prop :=
      let b := q.boot
      t = { State.reset with
        mem := q.mem, hbm := q.hbm, l2 := q.l2, poison := q.poison, hbmPoison := q.hbmPoison, pf := t.pf, boot := t.boot
        trigOut := q.trigOut, hostData := q.hostData, hostBad := q.hostBad, agenda := q.agenda, freeIdx := q.freeIdx } ∧
      t.pf = { State.reset.pf with hbmCorr := t.pf.hbmCorr, hbmUncorr := t.pf.hbmUncorr, peers := t.pf.peers, links := t.pf.links } ∧
      (t.boot.lcstate = b.lcstate ∧ t.boot.primary = b.primary ∧ t.boot.fail = b.fail ∧ t.boot.swap = false ∧ t.boot.dead = false ∧
        t.boot.attempt = (if b.attempt < 3 then b.attempt + 1 else 4) ∧
        t.boot.image = (if b.attempt < 3 then (if b.primary = b.swap then 0 else 1) else 2) ∧
        t.boot.start = some { warm := warm, image := some t.boot.image } ∧ t.boot.flashBusy = false ∧ t.boot.flashResult = 0 ∧
        t.boot.mfgKey = b.mfgKey ∧ t.boot.ownerKey = b.ownerKey ∧ t.boot.minVersion = b.minVersion ∧ t.boot.slots = b.slots) ∧
      (hard = true → ∀ k, t.pf.hbmCorr.get k 0 = 0 ∧ t.pf.hbmUncorr.get k 0 = 0 ∧ (t.pf.peers.get k Peer.reset).refused = 0) ∧
      (hard = false → t.pf.hbmCorr = q.pf.hbmCorr ∧ t.pf.hbmUncorr = q.pf.hbmUncorr ∧
        ∀ k, (t.pf.peers.get k Peer.reset).refused = (q.pf.peers.get k Peer.reset).refused) ∧
      (∀ k, let p := q.pf.peers.get k Peer.reset
        t.pf.peers.get k Peer.reset =
          { (if warm ∧ p.up = true then p else Peer.reset) with refused := (t.pf.peers.get k Peer.reset).refused }) ∧
      t.pf.links = (if warm then q.pf.links else .empty)
    let wiped (q t : State) : Prop := t.hbm = [] ∧ t.hbmPoison = [] ∧ t.l2 = .empty ∧ t.walks = .empty ∧ t.cores = .empty ∧ t.lanterns = .empty ∧
      (∀ a, a < Config.hbmBytes → t.mem.get a = 0 ∧ t.poison.contains (a / 64) = false) ∧ ∀ a, Config.hbmBytes ≤ a → t.mem.get a = q.mem.get a
    let key : BitVec 256 := if b.lcstate = 0 then b.mfgKey else b.ownerKey
    let verdict (i : FlashImage) : BitVec 2 := if i.intact = false ∨ i.key ≠ key then 1 else if i.version < b.minVersion then 2 else 0
    let running := b.slots.get b.image.toNat shippedImage
    let fails (t : State) : Prop :=
      (b.image ≠ 2 → began s t false false) ∧
      (b.image = 2 → t = { s with boot := { b with fail := true, dead := true, start := none } })
    (∃ t, exec .powerOn s = .next t ∧ began s t false true) ∧
    (∃ t, exec .fundamentalReset s = .next t ∧ began s t false true) ∧
    (b.dead = false → ∃ t, exec .bootcmdWarm s = .next t ∧ began s t true false) ∧
    (b.dead = true → exec .bootcmdWarm s = .next s) ∧
    (b.start = none → exec .bootTimeout s = .next s ∧ ∀ l x, exec (.bootAttempt l x) s = .next s) ∧
    (b.start ≠ none → (∃ t, exec .bootTimeout s = .next t ∧ fails t) ∧
      (∀ l x, x = false ∨ verdict running ≠ 0 → ∃ t, exec (.bootAttempt l x) s = .next t ∧ fails t) ∧
      (verdict running = 0 → ∀ l, ∃ t, exec (.bootAttempt l true) s = .next t ∧ wiped s t ∧
        t.boot = { b with
          start := none, primary := if b.image = 2 then b.primary else b.image == 1, attempt := if b.image = 2 then b.attempt else 0 } ∧
        t.pf = { s.pf with links := t.pf.links } ∧ t.ctxs = s.ctxs ∧ t.groves = s.groves ∧
        ∀ l, (s.pf.links.get l LinkStat.reset).rate ≠ 0 → t.pf.links.get l LinkStat.reset = s.pf.links.get l LinkStat.reset)) ∧
    (b.dead = false → exec .bootcmdSwap s = .next { s with boot := { b with swap := true } }) ∧
    (b.dead = true → exec .bootcmdSwap s = .next s) ∧
    (∀ (link : Nat) (v : Dword), link < 2 → v.getLsbD 1 = false →
      exec (.registerWrite ⟨link, 0⟩ 0x10018 v) s = if v.getLsbD 0 then exec .bootcmdWarm s else .next s) ∧
    (∀ slot src,
      (s.up = false → exec (.flashcmd slot src) s = .next s) ∧
      (s.up = true → b.flashBusy = true ∨ slot = b.image ∨ 2 ≤ slot.toNat →
        exec (.flashcmd slot src) s = .next { s with boot := { b with flashResult := 3 } }) ∧
      (s.up = true → b.flashBusy = false → slot ≠ b.image → slot.toNat < 2 →
        exec (.flashcmd slot src) s = .next { s with boot := { b with flashBusy := true, flashSlot := slot, flashSrc := src } })) ∧
    (b.flashBusy = false → ∀ n, exec (.flashWriteComplete n) s = .next s) ∧
    (b.flashBusy = true → ∀ n,
      let new := Config.imageOf (s.mem.read (64 * b.flashSrc.toNat) n)
      let q : Boot := { b with
        flashBusy := false, flashResult := verdict new, slots := if verdict new = 0 then b.slots.put b.flashSlot.toNat new else b.slots }
      (b.image ≠ 2 ∨ verdict new ≠ 0 → exec (.flashWriteComplete n) s = .next { s with boot := q }) ∧
      (b.image = 2 → verdict new = 0 → ∃ t, exec (.flashWriteComplete n) s = .next t ∧
        began { s with boot := { q with primary := b.flashSlot == 1, attempt := 0, fail := false } } t false false)) ∧
    (∀ (dest : BitVec 2) (auth : BitVec 46) (owner : BitVec 256),
      let obj := 64 * auth.toNat
      let good : Prop := s.up = true ∧ Config.signerAt s.mem obj = some key ∧ obj < Config.hbmBytes ∧
        (b.lcstate, dest) ∈ [((0 : BitVec 2), (1 : BitVec 2)), (1, 2), (2, 3), (3, 1)]
      (¬ good → exec (.lccmd dest auth owner) s = .next s) ∧
      (good → ∃ t q, exec (.lccmd dest auth owner) s = .next t ∧ wiped s t ∧ began q t true false ∧ q.pf = s.pf ∧
        q.boot = { b with lcstate := dest, ownerKey := if b.lcstate = 0 then owner else b.ownerKey }))

/-- spec/00 R5, spec/01 R17, R19, R21, spec/14 R309, R314, spec/16 R344 to R348, R351 to R353, R356, R358, R359: writes of registers
of the windows: STANDGRV moves a stand that holds nothing, zeroed, to its new grove (that a lantern program holds it too is the model's
reading: notes/assumptions/29.md); STALLQ and DBGQ take legal values only; a 1
in GINT acknowledges its vector; DBGSTOP keeps its fields, and GO frees what is held and has had its record written (for one run each:
notes/assumptions/38.md); TRIG sends this module's number and timestamp and an arriving message fills TRIGRX; PEERCFG, whose EN stays 0
where the far end has another DOM; and the registers that only keep what is written, without their reserved bits; the function of a grove is there on the link it is bound to.
While the module starts every write is ignored. The far end's DOM is an operand of the event (notes/assumptions/10.md). -/
def Obligations.HostRegisters : Prop :=
  ∀ (s : State) (g : Nat) (v : Dword),
    let x := v.toNat
    let keep (lo n : Nat) : Dword := BitVec.ofNat 64 (x / 2 ^ lo % 2 ^ n * 2 ^ lo)
    let put (f : Grove → Grove) : State := s.onGrove g f
    let err : State := put fun k => { k with win := { k.win with tiErr := true } }
    (∀ (i : Instr) (n : Nat) (b : Bool) (d : Dword) (o : Byte),
      i ∈ [Instr.standgrvWrite n v, .ringRegisterWrite g b v, .gintAck g v, .dbgstopArm g v, .dbgstopGo g, .trig g, .triggerReceive d o,
        .peercfgWrite n v b, .registerWrite ⟨g, n⟩ (n + g) v] → s.up = false → exec i s = .next s) ∧
    (∀ k, k < 64 → s.up = true →
      let n : BitVec 7 := v.setWidth 7
      let g := x % 64
      let held : Prop := (∃ i, i < 8 ∧ (s.core (8 * k + i)).teams.cells ≠ []) ∨ (s.lantern k).progs.cells ≠ []
      (held ∨ n = s.pf.standgrv.get k 0 → exec (.standgrvWrite k v) s = .next s) ∧
      (¬ held → n ≠ s.pf.standgrv.get k 0 → ∃ t, exec (.standgrvWrite k v) s = .next t ∧
        t.pf = { s.pf with standgrv := s.pf.standgrv.put k n } ∧ t.ctxs = s.ctxs ∧ t.grids = s.grids ∧
        (∀ i, i < 8 → ∃ n, t.core (8 * k + i) = { Core.none with clock := n }) ∧ (∃ n, t.lantern k = { Lantern.none with clock := n }) ∧
        (∀ c, ¬ (8 * k ≤ c ∧ c < 8 * k + 8) → t.core c = s.core c) ∧ (∀ l, l ≠ k → t.lantern l = s.lantern l) ∧
        ((∀ i, i < 8 → (s.core (8 * k + i)).mc.wbuf = []) → (s.lantern k).mc.wbuf = [] → 8 * k + 7 < 512 → t.mem = s.mem) ∧
        (n.getLsbD 6 = true → s.stands g = [] → ∀ e, (t.grove g).events.get e 0 = 0) ∧
        (n.getLsbD 6 = false ∨ s.stands g ≠ [] → t.groves = s.groves))) ∧
    (s.up = true →
      let lg := x % 32
      let base := x / 2 ^ 12 % 2 ^ 40 * 4096
      let legal (slot : Nat) : Prop := lg = 0 ∨ (6 ≤ lg ∧ lg ≤ 16 ∧ 4096 ≤ base ∧ base + slot * 2 ^ lg ≤ Config.hbmBytes)
      let reg := v &&& 0x000FFFFFFFFFF01F
      (legal 64 → exec (.ringRegisterWrite g false v) s = .next (put fun k => { k with stallq := reg })) ∧
      (¬ legal 64 → exec (.ringRegisterWrite g false v) s = .next err) ∧
      (legal 32 → exec (.ringRegisterWrite g true v) s = .next (put fun k => { k with dbgq := reg })) ∧
      (¬ legal 32 → exec (.ringRegisterWrite g true v) s = .next err)) ∧
    (s.up = true → exec (.gintAck g v) s = .next (put fun k => { k with gint := k.gint &&& ~~~ v.setWidth 4 })) ∧
    (s.up = true →
      let z := put fun k => { k with dbgstop := keep 0 56 }
      (v.getLsbD 56 = false → exec (.dbgstopArm g v) s = .next z) ∧ (v.getLsbD 56 = true → exec (.dbgstopArm g v) s = exec (.dbgstopGo g) z)) ∧
    (s.up = true → ∃ t, exec (.dbgstopGo g) s = .next t ∧ s.UnitsOnly t ∧ t.turn = s.turn ∧ ∀ u,
      let mine : Prop := (s.thread u).state = .held ∧ (s.ctx (s.ctxOf u)).desc.grove = g ∧ ∀ r ∈ (s.grove g).dbgPend, r.1 ≠ u
      (mine → s.alive u = true → t.thread u = { s.thread u with state := .ready, released := true }) ∧ (¬ mine → t.thread u = s.thread u)) ∧
    (s.up = true → ∃ t, exec (.trig g) s = .next t ∧ t = { s with time := t.time, trigOut := s.trigOut ++ [(s.pf.fabid, t.time)], freeIdx := t.freeIdx }) ∧
    (∀ (stamp : Dword) (origin : Byte), s.up = true → ∃ t, exec (.triggerReceive stamp origin) s = .next t ∧ t = { s with
      time := t.time, freeIdx := t.freeIdx
      pf := { s.pf with trigrx := { ostamp := stamp, lstamp := t.time, origin := origin, fresh := true } } }) ∧
    (∀ p, p < 16 →
      let k := s.pf.peers.get p .reset
      (∀ agrees : Bool, s.up = true → ∃ t y, exec (.peercfgWrite p v agrees) s = .next t ∧ t = { s with pf := { s.pf with peers := s.pf.peers.put p y } } ∧
        y.en = (v.getLsbD 0 && agrees) ∧ y.accept = v.getLsbD 1 ∧ y.lo = x / 2 ^ 16 % 2 ^ 20 ∧ y.hi = x / 2 ^ 36 % 2 ^ 20 ∧ y.dom = x / 2 ^ 56 ∧
        y.refused = k.refused ∧ (y.en = false → y.up = false) ∧ (k.up = false → y.up = false)) ∧
      (k.en = true → exec (.peerLinkTrained p) s = .next { s with pf := { s.pf with peers := s.pf.peers.put p { k with up := true } } }) ∧
      (k.en = false → exec (.peerLinkTrained p) s = .next s)) ∧
    (∀ link fn off, ∃ t, exec (.registerWrite ⟨link, fn⟩ off v) s = .next t) ∧
    (∀ link fn off, (2 ≤ link ∨ 64 < fn ∨ (0 < fn ∧ link ≠ if s.pf.grvlink.get (fn - 1) false then 1 else 0)) →
      exec (.registerWrite ⟨link, fn⟩ off v) s = .next s ∧ s.readRegister link fn off = .absent) ∧
    (∀ link fn off, link < 2 → (fn = 0 ∨ (fn ≤ 64 ∧ link = if s.pf.grvlink.get (fn - 1) false then 1 else 0)) →
      (s.boot.start ≠ none → s.readRegister link fn off = .notReady) ∧
      (s.boot.start = none → s.boot.dead = true → fn ≠ 0 → s.readRegister link fn off = .notReady) ∧
      (s.boot.start = none → s.boot.dead = false ∨ fn = 0 → ∃ x, s.readRegister link fn off = .value x) ∧
      (s.up = false → fn ≠ 0 ∨ off ≠ 0x10018 → exec (.registerWrite ⟨link, fn⟩ off v) s = .next s)) ∧
    (g < 64 → s.up = true → ∀ n, n < 64 →
      let own (off : Nat) : Answer := exec (.registerWrite ⟨if s.pf.grvlink.get g false then 1 else 0, g + 1⟩ off v) s
      own 0x8 = exec (.gintAck g v) s ∧ own 0x168 = exec (.ringRegisterWrite g false v) s ∧ own 0x170 = exec (.ringRegisterWrite g true v) s ∧
      own 0x200 = exec (.dbgstopArm g v) s ∧ own 0x210 = exec (.trig g) s ∧
      own (0x1008 + 0x40 * n) = exec (.qcfgWrite g n v) s ∧ own (0x1010 + 0x40 * n) = exec (.qkick g n (v.setWidth 32)) s ∧
      own (0x10010 + 0x1000 * n) = exec (.qkick g n (v.setWidth 32)) s ∧
      own 0x100 = .next (put fun k => { k with win := { k.win with tiva := keep 0 56 } }) ∧
      own 0x148 = .next (put fun k => { k with win := { k.win with psimg := keep 16 36 } }) ∧
      ((∀ c ∈ s.groveCores g, (s.core c).evicted = []) → own 0x160 = .next (put fun k => { k with evbase := keep 20 32 })) ∧
      ((∃ c ∈ s.groveCores g, (s.core c).evicted ≠ []) → own 0x160 = .next s) ∧
      own 0x180 = .next (put fun k => { k with apbase := keep 16 40 }) ∧ own 0x188 = .next (put fun k => { k with apctx := keep 0 12 }) ∧
      own 0x208 = .next (put fun k => { k with dbgctl := keep 0 2 }) ∧ own 0x0 = .next s) ∧
    (s.up = true → ∀ link n, link < 2 → n < 64 →
      let own (off : Nat) : Answer := exec (.registerWrite ⟨link, 0⟩ off v) s
      let pf (f : PfRegs → PfRegs) : Answer := .next { s with pf := f s.pf }
      let ctx (f : Context → Context) : Answer := .next (s.onCtx s.pf.ctxsel.toNat f)
      own 0x10028 = exec (.flashcmd (v.setWidth 2) (BitVec.ofNat 46 (x / 2 ^ 6 % 2 ^ 46))) s ∧
      own 0x10008 = exec (.lccmd (v.setWidth 2) (BitVec.ofNat 46 (x / 2 ^ 6 % 2 ^ 46)) (Config.ownerAt s.mem (64 * (x / 2 ^ 6 % 2 ^ 46)))) s ∧
      own 0x10040 = pf (fun k => { k with ctxsel := v.setWidth 12 }) ∧
      own 0x10048 = ctx (fun c => { c with desc := { c.desc with w0 := keep 0 1 ||| keep 16 42 } }) ∧
      own 0x10050 = ctx (fun c => { c with desc := { c.desc with w1 := v } }) ∧
      own 0x10058 = ctx (fun c => { c with desc := { c.desc with w2 := keep 0 5 ||| keep 12 40 } }) ∧
      own 0x10068 = ctx (fun c => { c with trapv := keep 2 54 }) ∧
      own 0x10080 = pf (fun k => { k with ecw := v }) ∧ own 0x10088 = pf (fun k => { k with fabid := v.setWidth 8 }) ∧
      own (0x11000 + 8 * n) = exec (.splitcfgWrite n v) s ∧ own (0x11200 + 8 * n) = pf (fun k => { k with ecb := k.ecb.put n (x % 2 ^ 16) }) ∧
      own (0x11400 + 8 * n) = exec (.standgrvWrite n v) s ∧
      ((∀ c ∈ s.ctxs.cells, c.2.desc.en = false ∨ c.2.desc.grove ≠ n) →
        own (0x11600 + 8 * n) = pf (fun k => { k with grvlink := k.grvlink.put n (v.getLsbD 0) })) ∧
      own (0x12000 + 16 * n) = pf (fun k => { k with coll := k.coll.put n (v, (k.coll.get n (0, 0)).2) }) ∧
      own (0x12008 + 16 * n) = pf (fun k => { k with coll := k.coll.put n ((k.coll.get n (0, 0)).1, v) }) ∧
      own 0x10000 = .next s ∧ own 0x10010 = .next s ∧ own 0x10020 = .next s ∧ own 0x10030 = .next s ∧
      ∀ off, 0x11000 ≤ off → off % 8 ≠ 0 → own off = .next s)

/-- spec/04 R108, spec/16 R346, R348, R360, spec/01 R15, R38: a posted write of the host or a peer reaches module HBM5 byte for byte
and nothing else; a read gives what is at home; that a host access beyond HBM5 changes nothing is the model's choice
(notes/assumptions/41.md); a peer's access outside LO to HI, or where ACCEPT is 0, is dropped and counted,
or returns poisoned data; the aperture translates with kind load or store, and a sector that faults reads as all ones, or is
dropped, and has a record with SRC 1 and ENG 15; one record for each page, and which replica of a mirror page is read, are the model's
readings (notes/assumptions/39.md, 40.md); a
sag takes a die's clock one step down, four at most. -/
def Obligations.HostAccesses : Prop :=
  ∀ (s : State) (g off n : Nat) (data : List Byte),
    let stored (t : State) (a : Nat) : Prop := s.MemoryOnly t ∧ t.cores = s.cores ∧ t.lanterns = s.lanterns ∧ t.mem.read a data.length = data ∧
      ∀ b, ¬ (a ≤ b ∧ b < a + data.length) → t.mem.get b = s.mem.get b
    let returned (t : State) (a : Nat) : Prop := t = { s with
      l2 := t.l2, hbm := t.hbm, hbmPoison := t.hbmPoison, poison := t.poison, hostData := s.mem.read a n, hostBad := false }
    let bad (t : State) : Prop := t = { s with hostData := t.hostData, hostBad := true, freeIdx := t.freeIdx } ∧ t.hostData.length = n
    (s.up = false → exec (.hostPostedWrite off data) s = .next s ∧ exec (.hostRead off n) s = .next s) ∧
    (s.up = true →
      (off + data.length ≤ Config.hbmBytes → ∃ t, exec (.hostPostedWrite off data) s = .next t ∧ stored t off) ∧
      (Config.hbmBytes < off + data.length → exec (.hostPostedWrite off data) s = .next s) ∧
      (Config.hbmBytes < off + n → exec (.hostRead off n) s = .next s) ∧
      (off + n ≤ Config.hbmBytes → s.poisoned off n = false → ∃ t, exec (.hostRead off n) s = .next t ∧ returned t off) ∧
      (off + n ≤ Config.hbmBytes → s.poisoned off n = true → ∃ t, exec (.hostRead off n) s = .next t ∧ bad t)) ∧
    (∀ p, p < 16 →
      let k := s.pf.peers.get p .reset
      let refused (n : Nat) : Prop := k.accept = false ∨ Config.hbmBytes < off + n ∨ off / 2 ^ 20 < k.lo ∨ k.hi < (off + n - 1) / 2 ^ 20
      let arrives (d : Option (List Byte)) : Answer := exec (.peerAccessArrival p off n d) s
      (∀ d, s.up = false ∨ k.en = false ∨ k.up = false → arrives d = .next s) ∧
      (s.up = true → k.en = true → k.up = true →
        (refused data.length → arrives (some data) = .next { s with pf := { s.pf with peers := s.pf.peers.put p { k with refused := k.refused + 1 } } }) ∧
        (¬ refused data.length → ∃ t, arrives (some data) = .next t ∧ stored t off) ∧
        (refused n ∨ s.poisoned off n = true → ∃ t, arrives none = .next t ∧ bad t) ∧
        (¬ refused n → s.poisoned off n = false → ∃ t, arrives none = .next t ∧ returned t off))) ∧
    (g < 64 →
     let link := if s.pf.grvlink.get g false then 1 else 0
     let through (d : Option (List Byte)) : Answer := exec (.apertureAccess ⟨link, g⟩ off n d) s
     let c := (s.grove g).apctx.toNat
     let a := (s.grove g).apbase.toNat + off
     let va : Dword := BitVec.ofNat 64 a
     let record (f : Flt) : List Dword := [f.addr, 0,
       BitVec.ofNat 64 (c + g * 2 ^ 12 + f.kind * 2 ^ 37 + f.cause * 2 ^ 40 + f.level * 2 ^ 44 + 2 ^ 46 + 15 * 2 ^ 48)]
     (∀ m d, m ≠ link → exec (.apertureAccess ⟨m, g⟩ off n d) s = .next s) ∧ (s.up = false → ∀ d, through d = .next s) ∧
     (s.up = true → (s.ctx c).desc.grove ≠ g →
       (off + data.length ≤ 2 ^ 38 → through (some data) = .next s) ∧
       (off + n ≤ 2 ^ 38 → through none = .next { s with hostData := List.replicate n 0xFF, hostBad := false })) ∧
     (s.up = true → (s.ctx c).desc.grove = g → 0 < n → a % 64 + n ≤ 64 → off + n ≤ 2 ^ 38 →
       (∀ f, s.translate mgmtNode c va .load = .error f → through none =
         .next (State.report { s with hostData := List.replicate n 0xFF, hostBad := false } mgmtNode c [record f] none none)) ∧
       (∀ x, s.translate mgmtNode c va .load = .ok x → ∃ t, through none = .next t ∧
         t.hostData.length = n ∧ (s.poisoned (x.at_ mgmtNode) n = false → t.hostData = s.mem.read (x.at_ mgmtNode) n) ∧
         ∀ b, ¬ (x.pte ≤ b ∧ b < x.pte + 8) → t.mem.get b = s.mem.get b)) ∧
     (s.up = true → (s.ctx c).desc.grove = g → 0 < data.length → a % 64 + data.length ≤ 64 → off + data.length ≤ 2 ^ 38 →
       (∀ f, s.translate mgmtNode c va .store = .error f → through (some data) =
         .next (s.report mgmtNode c [record f] none none)) ∧
       ∀ x, s.translate mgmtNode c va .store = .ok x → x.mir = false → ∃ t, through (some data) = .next t ∧
         t.mem.read (x.at_ mgmtNode) data.length = data ∧
         ∀ b, ¬ (x.at_ mgmtNode ≤ b ∧ b < x.at_ mgmtNode + data.length) → ¬ (x.pte ≤ b ∧ b < x.pte + 8) → t.mem.get b = s.mem.get b)) ∧
    (∀ d, d < 8 →
      let l := s.pf.sagLevel.get d 0
      (l < 4 → exec (.supplySag d) s = .next { s with
        pf := { s.pf with sagLevel := s.pf.sagLevel.put d (l + 1), sag := s.pf.sag.put d (s.pf.sag.get d 0 + 1) } }) ∧
      (4 ≤ l → exec (.supplySag d) s = .next s) ∧
      exec (.sagRecoveryStep d) s = .next { s with pf := { s.pf with sagLevel := s.pf.sagLevel.put d (l - 1) } })

/-! The machine as a whole. -/

/-- spec/07 R162, R164, R167, R169 to R173, R177: decoding the bytes that encode an instruction gives it back with the bytes behind it, for every instruction and every
value of its fields; and what decodes is the encoding of what it decodes to, so that no two encodings mean the same and no bit is dropped. -/
def Obligations.DecodeEncode : Prop :=
  (∀ (i : Instr) (rest : List Byte), hasWord i = true → decode (encodeBytes i ++ rest) = .ok (i, rest)) ∧
    (∀ (i : Instr), hasWord i = true → (encodeBytes i).length = i.len ∧ (i.len = 4 ∨ i.len = 8)) ∧
    ∀ (bs rest : List Byte) (i : Instr), decode bs = .ok (i, rest) → hasWord i = true ∧ bs = encodeBytes i ++ rest

/-- spec/09 R212, R225, spec/13 R298, spec/14 R319, R322, R323, spec/15 R331, R333, spec/07 R177: words that the spec writes out decode to the instructions it gives them for; an opcode that
no table assigns, and a reserved mode of TRET and HALT, are refused by name. -/
def Obligations.DecodeWords : Prop :=
  (decodeTableWord 64 0x0000009216000C20 =
    some (.vcmp { k := false, d := 0, a := 3, b := 4, m := 0 } { cc := 2, mrg := false, sd := 9, res := 0 })) ∧
  (decodeTableWord 32 0x29060A49 = some (.vshfl { k := false, d := 3, a := 2, b := 73, m := 1 })) ∧
  (decodeTableWord 32 0x2D0A1004 = some (.vreduce { k := false, d := 5, a := 4, b := 0, m := 4 })) ∧
  (decodeTableWord 64 0x000000FF58042260 =
    some (.trace { k := false, d := 2, a := 8, b := 76, m := 0 } { vmask := 0xFF, cullb := false, res := 0 })) ∧
  (decodeTableWord 64 0x00000002D8000103 =
    some (.launchd { k := false, d := 0, a := 2, b := 3 } { qpri := 2, pm1 := 0, res := 0 })) ∧
  (decodeTableWord 32 0xDA000210 = some (.rqput { k := false, d := 0, a := 4, b := 16 })) ∧
  (decodeTableWord 32 0xDC0A0200 = some (.rqget { k := false, d := 20, a := 4, b := 0 })) ∧
  (decodeTableWord 32 0xE0000004 = some (.sleep { k := false, d := 0, a := 0, imm := 4 })) ∧
  (decode (bytesOfWord 0x00000000) = .error .reservedOpcode) ∧ (decode (bytesOfWord 0x7F000000) = .error .reservedOpcode) ∧
  (decode (bytesOfWord 0xEA000003) = .error .reservedMode) ∧ (decode (bytesOfWord 0xEC000002) = .error .reservedMode)

/-- spec/07 R162, R163, R175, spec/02 R61, spec/01 R36: a step with nothing on the agenda performs the instruction that the bytes at the PC of the unit whose turn it is decode to, fetched
through its instruction cache, the stores put off that come before it being visible first (notes/assumptions/5.md); bytes that decode to nothing raise reserved opcode or reserved modifier; a unit that may not issue loses its turn; an event on the agenda is
performed first (the agenda is the model's own, notes/assumptions/1.md), and an instruction placed by withFetchWord is the one that the next step runs. -/
def Obligations.StepRunsDecoded : Prop :=
  ∀ (s : State) (u : UnitId),
    let pc := (s.thread u).pc
    let c := s.ctxOf u
    (s.agenda = [] → s.turn = some u → s.alive u = true → (s.thread u).state = .ready → ∀ x, s.translate u.node c pc .fetch = .ok x →
      let line := x.at_ u.node / 64
      let off := x.at_ u.node % 64
      ((s.caches u.node).code.has line = true ∨ s.poisoned (64 * line) 64 = false) →
      ∃ z, s.MemoryOnly z ∧ (∀ a, ¬ (x.pte ≤ a ∧ a < x.pte + 8) → z.mem.get a = s.mem.get a) ∧
        ∀ bytes, (((s.caches u.node).code.find line).getD (s.mem.read (64 * line) 64)).drop off = bytes →
          (∀ i rest, decode (bytes.take 8 ++ [0, 0, 0, 0]) = .ok (i, rest) → step s = exec i z) ∧
          (∀ e, decode (bytes.take 8 ++ [0, 0, 0, 0]) = .error e →
            step s = .next (z.faultUnit u (fltD (if e = .reservedMode then 0x22 else 0x20) 0)))) ∧
    (s.agenda = [] → s.turn = some u → (s.alive u = false ∨ (s.thread u).state ≠ .ready) → step s = .next (s.leave u)) ∧
    (∀ i r, s.agenda = .event i :: r → hasWord i = false → step s = exec i { s with agenda := r }) ∧
    ∀ nbits w i, nbits ≤ 64 → decodeTableWord nbits w = some i →
      ∃ z, step (s.withFetchWord nbits w) = exec i z ∧ (s.withFetchWord nbits w).MemoryOnly z ∧
        z.turn = some (if i.wrongUnit (.path 0 0 0) then .seq 0 0 else .path 0 0 0)

/-- The canonical form of the machine's memories (the model's own representation, notes/assumptions/3.md: addresses rising, no byte listed that reads as an unlisted one does)
is kept by every step from every state: the home slices, HBM below them, and the scratchpads of all cores. -/
def Obligations.KeepsMemory : Prop := ∀ s t : State, s.memOk → step s = .next t → t.memOk

/-- spec/01 R19, R41, spec/02 R49, R81, spec/14 R307, R309, R314, spec/15 R338, spec/16 R346, R348, R351, R353, R356, R358: after reset memory is zero and in canonical form, nothing is
resident or queued, and the registers hold the Reset column: SPLIT 4, ECW and ECB as R314 gives them, everything else that has a value there 0. That GINT and DBGCTL, which have none there, are 0
(notes/assumptions/2.md), and that a byte which nothing has written reads as zero in host and peer frames too (notes/assumptions/3.md), are
the model's choices. -/
def Obligations.ResetState : Prop :=
  let s := State.reset
  s.memOk ∧ (∀ a, s.mem.get a = 0) ∧ (∀ c a, (s.core c).sp.get a = 0) ∧ s.poison = [] ∧
    (∀ u, s.alive u = false) ∧ s.grids = .empty ∧ s.turn = none ∧ s.agenda = [] ∧
    (∀ k, s.splitOf k = 4 ∧ s.pf.ecb.get k 256 = 256 ∧ s.pf.standgrv.get k 0 = 0 ∧ s.pf.grvlink.get k false = false ∧
      s.pf.hbmCorr.get k 0 = 0 ∧ s.pf.hbmUncorr.get k 0 = 0 ∧ s.pf.sag.get k 0 = 0 ∧ s.pf.sagLevel.get k 0 = 0 ∧ s.pf.coll.get k (0, 0) = (0, 0) ∧
      s.pf.peers.get k .reset = { en := false, accept := false, lo := 0, hi := 0, dom := 0, refused := 0, up := false, agrees := false }) ∧
    s.pf.ecw = 0x100C080604030201 ∧ s.pf.ctxsel = 0 ∧ s.pf.fabid = 0 ∧ s.pf.trigrx.fresh = false ∧ s.boot.attempt = 0 ∧ s.boot.fail = false ∧
    s.boot.flashBusy = false ∧ s.boot.flashResult = 0 ∧ s.pf.win = Window.reset ∧
    (∀ c, (s.ctx c).desc.en = false ∧ (s.ctx c).trapv = 0 ∧ (s.ctx c).seq = 0 ∧ (s.ctx c).outstanding = []) ∧
    ∀ g, let k := s.grove g
      k.evbase = 0 ∧ k.stallq = 0 ∧ k.dbgq = 0 ∧ k.dbgstop = 0 ∧ k.dbgctl = 0 ∧ k.gint = 0 ∧ (∀ e, k.events.get e 0 = 0) ∧ k.win.tiq = [] ∧
        k.win.tiErr = false ∧ k.win.tiDone = 0 ∧ k.win.psq = [] ∧ k.win.psErr = false ∧ k.win.psDone = 0 ∧
        ∀ n, let q := k.queues.get n .reset
          q.en = false ∧ q.tail = 0 ∧ q.done = 0 ∧ q.err = 0 ∧ q.halt = false
end

