-- ==== Sys2Proof/Laws/Decode.lean ====
section
/-! SUPPORT. What the encoder writes the decoder reads back: one lemma per field bundle, one per word form. -/
namespace Sys2Proof

theorem bitNat_lt (b : Bool) : bitNat b < 2 := by cases b <;> decide

theorem bitNat_beq (b : Bool) : (bitNat b == 1) = b := by cases b <;> rfl

theorem ofNat_congr {n a : Nat} (x : BitVec n) (h : a % 2 ^ n = x.toNat) : BitVec.ofNat n a = x := by
  apply BitVec.eq_of_toNat_eq
  simpa using h

theorem bitAt_congr {w p : Nat} (b : Bool) (h : w / p % 2 = bitNat b) : bitAt w p = b := by
  simp only [bitAt, h, bitNat_beq]

theorem LA.enc_lt (f : LA) : f.enc < 16777216 := by
  have h0 := f.m.isLt
  have h1 := f.b.isLt
  have h2 := f.a.isLt
  have h3 := f.d.isLt
  have h4 := bitNat_lt f.k
  simp only [LA.enc]; omega

theorem LA.dec_enc (f : LA) : LA.dec f.enc = f := by
  have h0 := f.m.isLt
  have h1 := f.b.isLt
  have h2 := f.a.isLt
  have h3 := f.d.isLt
  have h4 := bitNat_lt f.k
  cases f; simp only [LA.dec, LA.enc] at *; congr 1
  all_goals first | (apply ofNat_congr; omega) | (apply bitAt_congr; omega)

theorem LI.enc_lt (f : LI) : f.enc < 16777216 := by
  have h0 := f.imm.isLt
  have h1 := f.a.isLt
  have h2 := f.d.isLt
  have h3 := bitNat_lt f.k
  simp only [LI.enc]; omega

theorem LI.dec_enc (f : LI) : LI.dec f.enc = f := by
  have h0 := f.imm.isLt
  have h1 := f.a.isLt
  have h2 := f.d.isLt
  have h3 := bitNat_lt f.k
  cases f; simp only [LI.dec, LI.enc] at *; congr 1
  all_goals first | (apply ofNat_congr; omega) | (apply bitAt_congr; omega)

theorem GA.enc_lt (f : GA) : f.enc < 16777216 := by
  have h0 := f.b.isLt
  have h1 := f.a.isLt
  have h2 := f.d.isLt
  have h3 := bitNat_lt f.k
  simp only [GA.enc]; omega

theorem GA.dec_enc (f : GA) : GA.dec f.enc = f := by
  have h0 := f.b.isLt
  have h1 := f.a.isLt
  have h2 := f.d.isLt
  have h3 := bitNat_lt f.k
  cases f; simp only [GA.dec, GA.enc] at *; congr 1
  all_goals first | (apply ofNat_congr; omega) | (apply bitAt_congr; omega)

theorem GI.enc_lt (f : GI) : f.enc < 16777216 := by
  have h0 := f.imm.isLt
  have h1 := f.a.isLt
  have h2 := f.d.isLt
  have h3 := bitNat_lt f.k
  simp only [GI.enc]; omega

theorem GI.dec_enc (f : GI) : GI.dec f.enc = f := by
  have h0 := f.imm.isLt
  have h1 := f.a.isLt
  have h2 := f.d.isLt
  have h3 := bitNat_lt f.k
  cases f; simp only [GI.dec, GI.enc] at *; congr 1
  all_goals first | (apply ofNat_congr; omega) | (apply bitAt_congr; omega)

theorem GB.enc_lt (f : GB) : f.enc < 16777216 := by
  have h0 := f.disp.isLt
  have h1 := bitNat_lt f.k
  simp only [GB.enc]; omega

theorem GB.dec_enc (f : GB) : GB.dec f.enc = f := by
  have h0 := f.disp.isLt
  have h1 := bitNat_lt f.k
  cases f; simp only [GB.dec, GB.enc] at *; congr 1
  all_goals first | (apply ofNat_congr; omega) | (apply bitAt_congr; omega)

theorem GC.enc_lt (f : GC) : f.enc < 16777216 := by
  have h0 := f.disp.isLt
  have h1 := f.c.isLt
  have h2 := bitNat_lt f.k
  simp only [GC.enc]; omega

theorem GC.dec_enc (f : GC) : GC.dec f.enc = f := by
  have h0 := f.disp.isLt
  have h1 := f.c.isLt
  have h2 := bitNat_lt f.k
  cases f; simp only [GC.dec, GC.enc] at *; congr 1
  all_goals first | (apply ofNat_congr; omega) | (apply bitAt_congr; omega)

theorem GM.enc_lt (b : Nat) (hb : b < 128) (f : GM) : GM.enc b f < 16777216 := by
  have h0 := f.a.isLt
  have h1 := f.d.isLt
  have h2 := bitNat_lt f.k
  simp only [GM.enc]; omega

theorem GM.dec_enc (b : Nat) (hb : b < 128) (f : GM) : GM.dec (GM.enc b f) = f := by
  have h0 := f.a.isLt
  have h1 := f.d.isLt
  have h2 := bitNat_lt f.k
  cases f; simp only [GM.dec, GM.enc] at *; congr 1
  all_goals first | (apply ofNat_congr; omega) | (apply bitAt_congr; omega)

/-- The low seven bits of a word that has a mode are the mode. -/
theorem GM.mode (b : Nat) (hb : b < 128) (f : GM) : GM.enc b f % 128 = b := by
  simp only [GM.enc]; omega

theorem CmpX.enc_lt (f : CmpX) : f.enc < 4294967296 := by
  have h0 := f.cc.isLt
  have h1 := bitNat_lt f.mrg
  have h2 := f.sd.isLt
  have h3 := f.res.isLt
  simp only [CmpX.enc]; omega

theorem CmpX.dec_enc (f : CmpX) : CmpX.dec f.enc = f := by
  have h0 := f.cc.isLt
  have h1 := bitNat_lt f.mrg
  have h2 := f.sd.isLt
  have h3 := f.res.isLt
  cases f; simp only [CmpX.dec, CmpX.enc] at *; congr 1
  all_goals first | (apply ofNat_congr; omega) | (apply bitAt_congr; omega)

theorem VoteX.enc_lt (f : VoteX) : f.enc < 4294967296 := by
  have h0 := f.mode.isLt
  have h1 := f.sd.isLt
  have h2 := f.res.isLt
  simp only [VoteX.enc]; omega

theorem VoteX.dec_enc (f : VoteX) : VoteX.dec f.enc = f := by
  have h0 := f.mode.isLt
  have h1 := f.sd.isLt
  have h2 := f.res.isLt
  cases f; simp only [VoteX.dec, VoteX.enc] at *; congr 1
  all_goals (apply ofNat_congr; omega)

theorem SlotX.enc_lt (f : SlotX) : f.enc < 4294967296 := by
  have h0 := f.slot.isLt
  have h1 := f.res.isLt
  simp only [SlotX.enc]; omega

theorem SlotX.dec_enc (f : SlotX) : SlotX.dec f.enc = f := by
  have h0 := f.slot.isLt
  have h1 := f.res.isLt
  cases f; simp only [SlotX.dec, SlotX.enc] at *; congr 1
  all_goals (apply ofNat_congr; omega)

theorem MemX.enc_lt (f : MemX) : f.enc < 4294967296 := by
  have h0 := f.ix.isLt
  have h1 := f.scl.isLt
  have h2 := f.ord.isLt
  have h3 := f.scope.isLt
  have h4 := f.pol.isLt
  have h5 := bitNat_lt f.sp
  have h6 := f.res.isLt
  have h7 := f.off.isLt
  simp only [MemX.enc]; omega

theorem MemX.dec_enc (f : MemX) : MemX.dec f.enc = f := by
  have h0 := f.ix.isLt
  have h1 := f.scl.isLt
  have h2 := f.ord.isLt
  have h3 := f.scope.isLt
  have h4 := f.pol.isLt
  have h5 := bitNat_lt f.sp
  have h6 := f.res.isLt
  have h7 := f.off.isLt
  cases f; simp only [MemX.dec, MemX.enc] at *; congr 1
  all_goals first | (apply ofNat_congr; omega) | (apply bitAt_congr; omega)

theorem AtomX.enc_lt (f : AtomX) : f.enc < 4294967296 := by
  have h0 := f.ix.isLt
  have h1 := f.scl.isLt
  have h2 := f.ord.isLt
  have h3 := f.scope.isLt
  have h4 := f.res.isLt
  have h5 := bitNat_lt f.nr
  have h6 := f.aop.isLt
  have h7 := f.off.isLt
  simp only [AtomX.enc]; omega

theorem AtomX.dec_enc (f : AtomX) : AtomX.dec f.enc = f := by
  have h0 := f.ix.isLt
  have h1 := f.scl.isLt
  have h2 := f.ord.isLt
  have h3 := f.scope.isLt
  have h4 := f.res.isLt
  have h5 := bitNat_lt f.nr
  have h6 := f.aop.isLt
  have h7 := f.off.isLt
  cases f; simp only [AtomX.dec, AtomX.enc] at *; congr 1
  all_goals first | (apply ofNat_congr; omega) | (apply bitAt_congr; omega)

theorem FenceX.enc_lt (f : FenceX) : f.enc < 4294967296 := by
  have h0 := f.kind.isLt
  have h1 := f.scope.isLt
  have h2 := f.res.isLt
  simp only [FenceX.enc]; omega

theorem FenceX.dec_enc (f : FenceX) : FenceX.dec f.enc = f := by
  have h0 := f.kind.isLt
  have h1 := f.scope.isLt
  have h2 := f.res.isLt
  cases f; simp only [FenceX.dec, FenceX.enc] at *; congr 1
  all_goals (apply ofNat_congr; omega)

theorem TileX.enc_lt (f : TileX) : f.enc < 4294967296 := by
  have h0 := f.tile.isLt
  have h1 := f.res.isLt
  simp only [TileX.enc]; omega

theorem TileX.dec_enc (f : TileX) : TileX.dec f.enc = f := by
  have h0 := f.tile.isLt
  have h1 := f.res.isLt
  cases f; simp only [TileX.dec, TileX.enc] at *; congr 1
  all_goals (apply ofNat_congr; omega)

theorem TaddX.enc_lt (f : TaddX) : f.enc < 4294967296 := by
  have h0 := f.coff.isLt
  have h1 := f.roff.isLt
  have h2 := f.res.isLt
  simp only [TaddX.enc]; omega

theorem TaddX.dec_enc (f : TaddX) : TaddX.dec f.enc = f := by
  have h0 := f.coff.isLt
  have h1 := f.roff.isLt
  have h2 := f.res.isLt
  cases f; simp only [TaddX.dec, TaddX.enc] at *; congr 1
  all_goals (apply ofNat_congr; omega)

theorem EpsX.enc_lt (f : EpsX) : f.enc < 4294967296 := by
  have h0 := f.se.isLt
  have h1 := f.res.isLt
  simp only [EpsX.enc]; omega

theorem EpsX.dec_enc (f : EpsX) : EpsX.dec f.enc = f := by
  have h0 := f.se.isLt
  have h1 := f.res.isLt
  cases f; simp only [EpsX.dec, EpsX.enc] at *; congr 1
  all_goals (apply ofNat_congr; omega)

theorem AstrX.enc_lt (f : AstrX) : f.enc < 4294967296 := by
  have h0 := f.astr.isLt
  have h1 := f.res.isLt
  simp only [AstrX.enc]; omega

theorem AstrX.dec_enc (f : AstrX) : AstrX.dec f.enc = f := by
  have h0 := f.astr.isLt
  have h1 := f.res.isLt
  cases f; simp only [AstrX.dec, AstrX.enc] at *; congr 1
  all_goals (apply ofNat_congr; omega)

theorem TraceX.enc_lt (f : TraceX) : f.enc < 4294967296 := by
  have h0 := f.vmask.isLt
  have h1 := bitNat_lt f.cullb
  have h2 := f.res.isLt
  simp only [TraceX.enc]; omega

theorem TraceX.dec_enc (f : TraceX) : TraceX.dec f.enc = f := by
  have h0 := f.vmask.isLt
  have h1 := bitNat_lt f.cullb
  have h2 := f.res.isLt
  cases f; simp only [TraceX.dec, TraceX.enc] at *; congr 1
  all_goals first | (apply ofNat_congr; omega) | (apply bitAt_congr; omega)

theorem MarchX.enc_lt (f : MarchX) : f.enc < 4294967296 := by
  have h0 := f.strm.isLt
  have h1 := bitNat_lt f.den
  have h2 := bitNat_lt f.next
  have h3 := f.res.isLt
  simp only [MarchX.enc]; omega

theorem MarchX.dec_enc (f : MarchX) : MarchX.dec f.enc = f := by
  have h0 := f.strm.isLt
  have h1 := bitNat_lt f.den
  have h2 := bitNat_lt f.next
  have h3 := f.res.isLt
  cases f; simp only [MarchX.dec, MarchX.enc] at *; congr 1
  all_goals first | (apply ofNat_congr; omega) | (apply bitAt_congr; omega)

theorem CallX.enc_lt (f : CallX) : f.enc < 4294967296 := by
  have h0 := f.disp.isLt
  have h1 := f.c.isLt
  have h2 := bitNat_lt f.csense
  have h3 := bitNat_lt f.cen
  simp only [CallX.enc]; omega

theorem CallX.dec_enc (f : CallX) : CallX.dec f.enc = f := by
  have h0 := f.disp.isLt
  have h1 := f.c.isLt
  have h2 := bitNat_lt f.csense
  have h3 := bitNat_lt f.cen
  cases f; simp only [CallX.dec, CallX.enc] at *; congr 1
  all_goals first | (apply ofNat_congr; omega) | (apply bitAt_congr; omega)

theorem BarX.enc_lt (f : BarX) : f.enc < 4294967296 := by
  have h0 := f.roles.isLt
  have h1 := bitNat_lt f.seq
  have h2 := f.res.isLt
  simp only [BarX.enc]; omega

theorem BarX.dec_enc (f : BarX) : BarX.dec f.enc = f := by
  have h0 := f.roles.isLt
  have h1 := bitNat_lt f.seq
  have h2 := f.res.isLt
  cases f; simp only [BarX.dec, BarX.enc] at *; congr 1
  all_goals first | (apply ofNat_congr; omega) | (apply bitAt_congr; omega)

theorem GcmpX.enc_lt (f : GcmpX) : f.enc < 4294967296 := by
  have h0 := f.cc.isLt
  have h1 := bitNat_lt f.u
  have h2 := bitNat_lt f.all
  have h3 := bitNat_lt f.bi
  have h4 := f.imm.isLt
  have h5 := f.res.isLt
  simp only [GcmpX.enc]; omega

theorem GcmpX.dec_enc (f : GcmpX) : GcmpX.dec f.enc = f := by
  have h0 := f.cc.isLt
  have h1 := bitNat_lt f.u
  have h2 := bitNat_lt f.all
  have h3 := bitNat_lt f.bi
  have h4 := f.imm.isLt
  have h5 := f.res.isLt
  cases f; simp only [GcmpX.dec, GcmpX.enc] at *; congr 1
  all_goals first | (apply ofNat_congr; omega) | (apply bitAt_congr; omega)

theorem GmemX.enc_lt (f : GmemX) : f.enc < 4294967296 := by
  have h0 := f.sz.isLt
  have h1 := bitNat_lt f.ixe
  have h2 := f.ord.isLt
  have h3 := f.scope.isLt
  have h4 := f.pol.isLt
  have h5 := bitNat_lt f.sp
  have h6 := f.res.isLt
  have h7 := f.off.isLt
  simp only [GmemX.enc]; omega

theorem GmemX.dec_enc (f : GmemX) : GmemX.dec f.enc = f := by
  have h0 := f.sz.isLt
  have h1 := bitNat_lt f.ixe
  have h2 := f.ord.isLt
  have h3 := f.scope.isLt
  have h4 := f.pol.isLt
  have h5 := bitNat_lt f.sp
  have h6 := f.res.isLt
  have h7 := f.off.isLt
  cases f; simp only [GmemX.dec, GmemX.enc] at *; congr 1
  all_goals first | (apply ofNat_congr; omega) | (apply bitAt_congr; omega)

theorem GatomX.enc_lt (f : GatomX) : f.enc < 4294967296 := by
  have h0 := f.ty.isLt
  have h1 := bitNat_lt f.ixe
  have h2 := f.ord.isLt
  have h3 := f.scope.isLt
  have h4 := f.res.isLt
  have h5 := bitNat_lt f.sp
  have h6 := f.aop.isLt
  have h7 := f.off.isLt
  simp only [GatomX.enc]; omega

theorem GatomX.dec_enc (f : GatomX) : GatomX.dec f.enc = f := by
  have h0 := f.ty.isLt
  have h1 := bitNat_lt f.ixe
  have h2 := f.ord.isLt
  have h3 := f.scope.isLt
  have h4 := f.res.isLt
  have h5 := bitNat_lt f.sp
  have h6 := f.aop.isLt
  have h7 := f.off.isLt
  cases f; simp only [GatomX.dec, GatomX.enc] at *; congr 1
  all_goals first | (apply ofNat_congr; omega) | (apply bitAt_congr; omega)

theorem CpyX.enc_lt (f : CpyX) : f.enc < 4294967296 := by
  have h0 := f.mode.isLt
  have h1 := f.pol.isLt
  have h2 := bitNat_lt f.res
  have h3 := f.soff.isLt
  have h4 := f.res2.isLt
  have h5 := bitNat_lt f.gsense
  have h6 := f.gslot.isLt
  have h7 := bitNat_lt f.gen
  simp only [CpyX.enc]; omega

theorem CpyX.dec_enc (f : CpyX) : CpyX.dec f.enc = f := by
  have h0 := f.mode.isLt
  have h1 := f.pol.isLt
  have h2 := bitNat_lt f.res
  have h3 := f.soff.isLt
  have h4 := f.res2.isLt
  have h5 := bitNat_lt f.gsense
  have h6 := f.gslot.isLt
  have h7 := bitNat_lt f.gen
  cases f; simp only [CpyX.dec, CpyX.enc] at *; congr 1
  all_goals first | (apply ofNat_congr; omega) | (apply bitAt_congr; omega)

theorem LayoutX.enc_lt (f : LayoutX) : f.enc < 4294967296 := by
  have h0 := bitNat_lt f.op
  have h1 := f.res.isLt
  have h2 := bitNat_lt f.gsense
  have h3 := f.gslot.isLt
  have h4 := bitNat_lt f.gen
  simp only [LayoutX.enc]; omega

theorem LayoutX.dec_enc (f : LayoutX) : LayoutX.dec f.enc = f := by
  have h0 := bitNat_lt f.op
  have h1 := f.res.isLt
  have h2 := bitNat_lt f.gsense
  have h3 := f.gslot.isLt
  have h4 := bitNat_lt f.gen
  cases f; simp only [LayoutX.dec, LayoutX.enc] at *; congr 1
  all_goals first | (apply ofNat_congr; omega) | (apply bitAt_congr; omega)

theorem ZfillX.enc_lt (f : ZfillX) : f.enc < 4294967296 := by
  have h0 := bitNat_lt f.sp
  have h1 := f.off.isLt
  have h2 := f.res.isLt
  have h3 := bitNat_lt f.gsense
  have h4 := f.gslot.isLt
  have h5 := bitNat_lt f.gen
  simp only [ZfillX.enc]; omega

theorem ZfillX.dec_enc (f : ZfillX) : ZfillX.dec f.enc = f := by
  have h0 := bitNat_lt f.sp
  have h1 := f.off.isLt
  have h2 := f.res.isLt
  have h3 := bitNat_lt f.gsense
  have h4 := f.gslot.isLt
  have h5 := bitNat_lt f.gen
  cases f; simp only [ZfillX.dec, ZfillX.enc] at *; congr 1
  all_goals first | (apply ofNat_congr; omega) | (apply bitAt_congr; omega)

theorem CollX.enc_lt (f : CollX) : f.enc < 4294967296 := by
  have h0 := f.op.isLt
  have h1 := bitNat_lt f.ssp
  have h2 := bitNat_lt f.dsp
  have h3 := bitNat_lt f.q8
  have h4 := f.res.isLt
  have h5 := bitNat_lt f.gsense
  have h6 := f.gslot.isLt
  have h7 := bitNat_lt f.gen
  simp only [CollX.enc]; omega

theorem CollX.dec_enc (f : CollX) : CollX.dec f.enc = f := by
  have h0 := f.op.isLt
  have h1 := bitNat_lt f.ssp
  have h2 := bitNat_lt f.dsp
  have h3 := bitNat_lt f.q8
  have h4 := f.res.isLt
  have h5 := bitNat_lt f.gsense
  have h6 := f.gslot.isLt
  have h7 := bitNat_lt f.gen
  cases f; simp only [CollX.dec, CollX.enc] at *; congr 1
  all_goals first | (apply ofNat_congr; omega) | (apply bitAt_congr; omega)

theorem OmapX.enc_lt (f : OmapX) : f.enc < 4294967296 := by
  have h0 := f.map.isLt
  have h1 := f.res.isLt
  have h2 := bitNat_lt f.gsense
  have h3 := f.gslot.isLt
  have h4 := bitNat_lt f.gen
  simp only [OmapX.enc]; omega

theorem OmapX.dec_enc (f : OmapX) : OmapX.dec f.enc = f := by
  have h0 := f.map.isLt
  have h1 := f.res.isLt
  have h2 := bitNat_lt f.gsense
  have h3 := f.gslot.isLt
  have h4 := bitNat_lt f.gen
  cases f; simp only [OmapX.dec, OmapX.enc] at *; congr 1
  all_goals first | (apply ofNat_congr; omega) | (apply bitAt_congr; omega)

theorem MmaX.enc_lt (f : MmaX) : f.enc < 4294967296 := by
  have h0 := f.tile.isLt
  have h1 := f.map.isLt
  have h2 := bitNat_lt f.acc
  have h3 := f.res.isLt
  have h4 := bitNat_lt f.gsense
  have h5 := f.gslot.isLt
  have h6 := bitNat_lt f.gen
  simp only [MmaX.enc]; omega

theorem MmaX.dec_enc (f : MmaX) : MmaX.dec f.enc = f := by
  have h0 := f.tile.isLt
  have h1 := f.map.isLt
  have h2 := bitNat_lt f.acc
  have h3 := f.res.isLt
  have h4 := bitNat_lt f.gsense
  have h5 := f.gslot.isLt
  have h6 := bitNat_lt f.gen
  cases f; simp only [MmaX.dec, MmaX.enc] at *; congr 1
  all_goals first | (apply ofNat_congr; omega) | (apply bitAt_congr; omega)

theorem TopkX.enc_lt (f : TopkX) : f.enc < 4294967296 := by
  have h0 := f.tile.isLt
  have h1 := f.km1.isLt
  have h2 := f.res.isLt
  have h3 := bitNat_lt f.gsense
  have h4 := f.gslot.isLt
  have h5 := bitNat_lt f.gen
  simp only [TopkX.enc]; omega

theorem TopkX.dec_enc (f : TopkX) : TopkX.dec f.enc = f := by
  have h0 := f.tile.isLt
  have h1 := f.km1.isLt
  have h2 := f.res.isLt
  have h3 := bitNat_lt f.gsense
  have h4 := f.gslot.isLt
  have h5 := bitNat_lt f.gen
  cases f; simp only [TopkX.dec, TopkX.enc] at *; congr 1
  all_goals first | (apply ofNat_congr; omega) | (apply bitAt_congr; omega)

theorem MtileX.enc_lt (f : MtileX) : f.enc < 4294967296 := by
  have h0 := f.tile.isLt
  have h1 := f.res.isLt
  have h2 := bitNat_lt f.gsense
  have h3 := f.gslot.isLt
  have h4 := bitNat_lt f.gen
  simp only [MtileX.enc]; omega

theorem MtileX.dec_enc (f : MtileX) : MtileX.dec f.enc = f := by
  have h0 := f.tile.isLt
  have h1 := f.res.isLt
  have h2 := bitNat_lt f.gsense
  have h3 := f.gslot.isLt
  have h4 := bitNat_lt f.gen
  cases f; simp only [MtileX.dec, MtileX.enc] at *; congr 1
  all_goals first | (apply ofNat_congr; omega) | (apply bitAt_congr; omega)

theorem StoreX.enc_lt (f : StoreX) : f.enc < 4294967296 := by
  have h0 := f.tile.isLt
  have h1 := bitNat_lt f.ty
  have h2 := bitNat_lt f.sp
  have h3 := f.pol.isLt
  have h4 := f.res.isLt
  have h5 := bitNat_lt f.gsense
  have h6 := f.gslot.isLt
  have h7 := bitNat_lt f.gen
  simp only [StoreX.enc]; omega

theorem StoreX.dec_enc (f : StoreX) : StoreX.dec f.enc = f := by
  have h0 := f.tile.isLt
  have h1 := bitNat_lt f.ty
  have h2 := bitNat_lt f.sp
  have h3 := f.pol.isLt
  have h4 := f.res.isLt
  have h5 := bitNat_lt f.gsense
  have h6 := f.gslot.isLt
  have h7 := bitNat_lt f.gen
  cases f; simp only [StoreX.dec, StoreX.enc] at *; congr 1
  all_goals first | (apply ofNat_congr; omega) | (apply bitAt_congr; omega)

theorem TcfgX.enc_lt (f : TcfgX) : f.enc < 4294967296 := by
  have h0 := f.sm1.isLt
  have h1 := f.res.isLt
  have h2 := bitNat_lt f.gsense
  have h3 := f.gslot.isLt
  have h4 := bitNat_lt f.gen
  simp only [TcfgX.enc]; omega

theorem TcfgX.dec_enc (f : TcfgX) : TcfgX.dec f.enc = f := by
  have h0 := f.sm1.isLt
  have h1 := f.res.isLt
  have h2 := bitNat_lt f.gsense
  have h3 := f.gslot.isLt
  have h4 := bitNat_lt f.gen
  cases f; simp only [TcfgX.dec, TcfgX.enc] at *; congr 1
  all_goals first | (apply ofNat_congr; omega) | (apply bitAt_congr; omega)

theorem ImageX.enc_lt (f : ImageX) : f.enc < 4294967296 := by
  have h0 := bitNat_lt f.obj
  have h1 := bitNat_lt f.clr
  have h2 := f.tile.isLt
  have h3 := f.res.isLt
  have h4 := bitNat_lt f.gsense
  have h5 := f.gslot.isLt
  have h6 := bitNat_lt f.gen
  simp only [ImageX.enc]; omega

theorem ImageX.dec_enc (f : ImageX) : ImageX.dec f.enc = f := by
  have h0 := bitNat_lt f.obj
  have h1 := bitNat_lt f.clr
  have h2 := f.tile.isLt
  have h3 := f.res.isLt
  have h4 := bitNat_lt f.gsense
  have h5 := f.gslot.isLt
  have h6 := bitNat_lt f.gen
  cases f; simp only [ImageX.dec, ImageX.enc] at *; congr 1
  all_goals first | (apply ofNat_congr; omega) | (apply bitAt_congr; omega)

theorem MutX.enc_lt (f : MutX) : f.enc < 4294967296 := by
  have h0 := f.kind.isLt
  have h1 := f.res.isLt
  simp only [MutX.enc]; omega

theorem MutX.dec_enc (f : MutX) : MutX.dec f.enc = f := by
  have h0 := f.kind.isLt
  have h1 := f.res.isLt
  cases f; simp only [MutX.dec, MutX.enc] at *; congr 1
  all_goals (apply ofNat_congr; omega)

theorem ReplayX.enc_lt (f : ReplayX) : f.enc < 4294967296 := by
  have h0 := f.qpri.isLt
  have h1 := f.res.isLt
  simp only [ReplayX.enc]; omega

theorem ReplayX.dec_enc (f : ReplayX) : ReplayX.dec f.enc = f := by
  have h0 := f.qpri.isLt
  have h1 := f.res.isLt
  cases f; simp only [ReplayX.dec, ReplayX.enc] at *; congr 1
  all_goals (apply ofNat_congr; omega)

theorem LaunchX.enc_lt (f : LaunchX) : f.enc < 4294967296 := by
  have h0 := f.qpri.isLt
  have h1 := f.pm1.isLt
  have h2 := f.res.isLt
  simp only [LaunchX.enc]; omega

theorem LaunchX.dec_enc (f : LaunchX) : LaunchX.dec f.enc = f := by
  have h0 := f.qpri.isLt
  have h1 := f.pm1.isLt
  have h2 := f.res.isLt
  cases f; simp only [LaunchX.dec, LaunchX.enc] at *; congr 1
  all_goals (apply ofNat_congr; omega)

theorem Lit.enc_lt (f : Lit) : f.enc < 4294967296 := by
  have h0 := f.lit.isLt
  simp only [Lit.enc]; omega

theorem Lit.dec_enc (f : Lit) : Lit.dec f.enc = f := by
  have h0 := f.lit.isLt
  cases f; simp only [Lit.dec, Lit.enc] at *; congr 1
  all_goals (apply ofNat_congr; omega)

end Sys2Proof
end

