-- ==== Sys2Proof/Laws/PerInstr.lean ====
section
/-! SUPPORT. Per instruction: the words the encoder writes are the words the decoder reads. -/
namespace Sys2Proof.Laws

/-- The words of `i` are 32-bit words, the first one says how many there are, and they decode to `i`; an event has none. -/
def Roundtrip.Statement (i : Instr) : Prop :=
  match encode i with
  | [] => True
  | [w] => w < 4294967296 ∧ twoWords w = false ∧ decodeWords w 0 = .ok i
  | [w, x] => w < 4294967296 ∧ x < 4294967296 ∧ twoWords w = true ∧ decodeWords w x = .ok i
  | _ => False

/-- A first word taken apart: its form bit, its opcode and the 24 bits below. -/
theorem wordParts (b v : Nat) (hb : b % 16777216 = 0) (hv : v < 16777216) :
    (b + v) / 2147483648 % 2 = b / 2147483648 % 2 ∧ (b + v) / 16777216 % 128 = b / 16777216 % 128 ∧ (b + v) % 16777216 = v := by
  omega

theorem oneWord {i : Instr} {b v : Nat} (he : encode i = [b + v]) (hv : v < 16777216) (hb : b % 16777216 = 0 ∧ b < 4278190081)
    (ht : twoWords b = false)
    (hd : (if b / 2147483648 % 2 = 0 then decodeL (b / 16777216 % 128) v 0 else decodeG (b / 16777216 % 128) v 0) = .ok i) :
    Roundtrip.Statement i := by
  obtain ⟨h1, h2, h3⟩ := wordParts b v hb.1 hv
  simp only [Roundtrip.Statement, he, twoWords, decodeWords, h1, h2, h3]
  exact ⟨by omega, ht, hd⟩
theorem twoWord {i : Instr} {b v x : Nat} (he : encode i = [b + v, x]) (hv : v < 16777216) (hx : x < 4294967296)
    (hb : b % 16777216 = 0 ∧ b < 4278190081) (ht : twoWords b = true)
    (hd : (if b / 2147483648 % 2 = 0 then decodeL (b / 16777216 % 128) v x else decodeG (b / 16777216 % 128) v x) = .ok i) :
    Roundtrip.Statement i := by
  obtain ⟨h1, h2, h3⟩ := wordParts b v hb.1 hv
  simp only [Roundtrip.Statement, he, twoWords, decodeWords, h1, h2, h3]
  exact ⟨by omega, hx, ht, hd⟩

theorem decode_tret (f : GM) : decodeTret (GM.enc 0 f) = .ok (.tret f) := by
  unfold decodeTret
  rw [GM.mode 0 (by decide) f, GM.dec_enc 0 (by decide) f]
  rfl
theorem decode_tretGoto (f : GM) : decodeTret (GM.enc 1 f) = .ok (.tretGoto f) := by
  unfold decodeTret
  rw [GM.mode 1 (by decide) f, GM.dec_enc 1 (by decide) f]
  rfl
theorem decode_tretKill (f : GM) : decodeTret (GM.enc 2 f) = .ok (.tretKill f) := by
  unfold decodeTret
  rw [GM.mode 2 (by decide) f, GM.dec_enc 2 (by decide) f]
  rfl
theorem decode_haltTeam (f : GM) : decodeHalt (GM.enc 0 f) = .ok (.haltTeam f) := by
  unfold decodeHalt
  rw [GM.mode 0 (by decide) f, GM.dec_enc 0 (by decide) f]
  rfl
theorem decode_haltFlush (f : GM) : decodeHalt (GM.enc 1 f) = .ok (.haltFlush f) := by
  unfold decodeHalt
  rw [GM.mode 1 (by decide) f, GM.dec_enc 1 (by decide) f]
  rfl
theorem decodeG_tret (w : Nat) : decodeG 106 w 0 = decodeTret w := rfl
theorem decodeG_halt (w : Nat) : decodeG 108 w 0 = decodeHalt w := rfl
theorem Roundtrip.vadd (f : LA) : Roundtrip.Statement (.vadd f) :=
  oneWord (b := 16777216) (v := f.enc) rfl f.enc_lt (by decide) rfl (congrArg (fun g => Except.ok (Instr.vadd g)) f.dec_enc)
theorem Roundtrip.vsub (f : LA) : Roundtrip.Statement (.vsub f) :=
  oneWord (b := 33554432) (v := f.enc) rfl f.enc_lt (by decide) rfl (congrArg (fun g => Except.ok (Instr.vsub g)) f.dec_enc)
theorem Roundtrip.vmul (f : LA) : Roundtrip.Statement (.vmul f) :=
  oneWord (b := 50331648) (v := f.enc) rfl f.enc_lt (by decide) rfl (congrArg (fun g => Except.ok (Instr.vmul g)) f.dec_enc)
theorem Roundtrip.vmulh (f : LA) : Roundtrip.Statement (.vmulh f) :=
  oneWord (b := 67108864) (v := f.enc) rfl f.enc_lt (by decide) rfl (congrArg (fun g => Except.ok (Instr.vmulh g)) f.dec_enc)
theorem Roundtrip.vmad (f : LA) : Roundtrip.Statement (.vmad f) :=
  oneWord (b := 83886080) (v := f.enc) rfl f.enc_lt (by decide) rfl (congrArg (fun g => Except.ok (Instr.vmad g)) f.dec_enc)
theorem Roundtrip.vmin (f : LA) : Roundtrip.Statement (.vmin f) :=
  oneWord (b := 100663296) (v := f.enc) rfl f.enc_lt (by decide) rfl (congrArg (fun g => Except.ok (Instr.vmin g)) f.dec_enc)
theorem Roundtrip.vmax (f : LA) : Roundtrip.Statement (.vmax f) :=
  oneWord (b := 117440512) (v := f.enc) rfl f.enc_lt (by decide) rfl (congrArg (fun g => Except.ok (Instr.vmax g)) f.dec_enc)
theorem Roundtrip.vand (f : LA) : Roundtrip.Statement (.vand f) :=
  oneWord (b := 134217728) (v := f.enc) rfl f.enc_lt (by decide) rfl (congrArg (fun g => Except.ok (Instr.vand g)) f.dec_enc)
theorem Roundtrip.vor (f : LA) : Roundtrip.Statement (.vor f) :=
  oneWord (b := 150994944) (v := f.enc) rfl f.enc_lt (by decide) rfl (congrArg (fun g => Except.ok (Instr.vor g)) f.dec_enc)
theorem Roundtrip.vxor (f : LA) : Roundtrip.Statement (.vxor f) :=
  oneWord (b := 167772160) (v := f.enc) rfl f.enc_lt (by decide) rfl (congrArg (fun g => Except.ok (Instr.vxor g)) f.dec_enc)
theorem Roundtrip.vshl (f : LA) : Roundtrip.Statement (.vshl f) :=
  oneWord (b := 184549376) (v := f.enc) rfl f.enc_lt (by decide) rfl (congrArg (fun g => Except.ok (Instr.vshl g)) f.dec_enc)
theorem Roundtrip.vshr (f : LA) : Roundtrip.Statement (.vshr f) :=
  oneWord (b := 201326592) (v := f.enc) rfl f.enc_lt (by decide) rfl (congrArg (fun g => Except.ok (Instr.vshr g)) f.dec_enc)
theorem Roundtrip.vsar (f : LA) : Roundtrip.Statement (.vsar f) :=
  oneWord (b := 218103808) (v := f.enc) rfl f.enc_lt (by decide) rfl (congrArg (fun g => Except.ok (Instr.vsar g)) f.dec_enc)
theorem Roundtrip.vclz (f : LA) : Roundtrip.Statement (.vclz f) :=
  oneWord (b := 234881024) (v := f.enc) rfl f.enc_lt (by decide) rfl (congrArg (fun g => Except.ok (Instr.vclz g)) f.dec_enc)
theorem Roundtrip.vpopc (f : LA) : Roundtrip.Statement (.vpopc f) :=
  oneWord (b := 251658240) (v := f.enc) rfl f.enc_lt (by decide) rfl (congrArg (fun g => Except.ok (Instr.vpopc g)) f.dec_enc)
theorem Roundtrip.vaddi (f : LI) : Roundtrip.Statement (.vaddi f) :=
  oneWord (b := 268435456) (v := f.enc) rfl f.enc_lt (by decide) rfl (congrArg (fun g => Except.ok (Instr.vaddi g)) f.dec_enc)
theorem Roundtrip.vshli (f : LI) : Roundtrip.Statement (.vshli f) :=
  oneWord (b := 285212672) (v := f.enc) rfl f.enc_lt (by decide) rfl (congrArg (fun g => Except.ok (Instr.vshli g)) f.dec_enc)
theorem Roundtrip.vshri (f : LI) : Roundtrip.Statement (.vshri f) :=
  oneWord (b := 301989888) (v := f.enc) rfl f.enc_lt (by decide) rfl (congrArg (fun g => Except.ok (Instr.vshri g)) f.dec_enc)
theorem Roundtrip.vsari (f : LI) : Roundtrip.Statement (.vsari f) :=
  oneWord (b := 318767104) (v := f.enc) rfl f.enc_lt (by decide) rfl (congrArg (fun g => Except.ok (Instr.vsari g)) f.dec_enc)
theorem Roundtrip.vsel (f : LA) : Roundtrip.Statement (.vsel f) :=
  oneWord (b := 335544320) (v := f.enc) rfl f.enc_lt (by decide) rfl (congrArg (fun g => Except.ok (Instr.vsel g)) f.dec_enc)
theorem Roundtrip.vli (f : LA) (x : Lit) : Roundtrip.Statement (.vli f x) :=
  twoWord (b := 352321536) (v := f.enc) (x := x.enc) rfl f.enc_lt x.enc_lt (by decide) rfl (congr (congrArg (fun g y => Except.ok (Instr.vli g y)) f.dec_enc) x.dec_enc)
theorem Roundtrip.vcmp (f : LA) (x : CmpX) : Roundtrip.Statement (.vcmp f x) :=
  twoWord (b := 369098752) (v := f.enc) (x := x.enc) rfl f.enc_lt x.enc_lt (by decide) rfl (congr (congrArg (fun g y => Except.ok (Instr.vcmp g y)) f.dec_enc) x.dec_enc)
theorem Roundtrip.fadd (f : LA) : Roundtrip.Statement (.fadd f) :=
  oneWord (b := 402653184) (v := f.enc) rfl f.enc_lt (by decide) rfl (congrArg (fun g => Except.ok (Instr.fadd g)) f.dec_enc)
theorem Roundtrip.fmul (f : LA) : Roundtrip.Statement (.fmul f) :=
  oneWord (b := 419430400) (v := f.enc) rfl f.enc_lt (by decide) rfl (congrArg (fun g => Except.ok (Instr.fmul g)) f.dec_enc)
theorem Roundtrip.ffma (f : LA) : Roundtrip.Statement (.ffma f) :=
  oneWord (b := 436207616) (v := f.enc) rfl f.enc_lt (by decide) rfl (congrArg (fun g => Except.ok (Instr.ffma g)) f.dec_enc)
theorem Roundtrip.fmin (f : LA) : Roundtrip.Statement (.fmin f) :=
  oneWord (b := 452984832) (v := f.enc) rfl f.enc_lt (by decide) rfl (congrArg (fun g => Except.ok (Instr.fmin g)) f.dec_enc)
theorem Roundtrip.fmax (f : LA) : Roundtrip.Statement (.fmax f) :=
  oneWord (b := 469762048) (v := f.enc) rfl f.enc_lt (by decide) rfl (congrArg (fun g => Except.ok (Instr.fmax g)) f.dec_enc)
theorem Roundtrip.fcmp (f : LA) (x : CmpX) : Roundtrip.Statement (.fcmp f x) :=
  twoWord (b := 486539264) (v := f.enc) (x := x.enc) rfl f.enc_lt x.enc_lt (by decide) rfl (congr (congrArg (fun g y => Except.ok (Instr.fcmp g y)) f.dec_enc) x.dec_enc)
theorem Roundtrip.bfma2 (f : LA) : Roundtrip.Statement (.bfma2 f) :=
  oneWord (b := 503316480) (v := f.enc) rfl f.enc_lt (by decide) rfl (congrArg (fun g => Except.ok (Instr.bfma2 g)) f.dec_enc)
theorem Roundtrip.cvt (f : LA) : Roundtrip.Statement (.cvt f) :=
  oneWord (b := 520093696) (v := f.enc) rfl f.enc_lt (by decide) rfl (congrArg (fun g => Except.ok (Instr.cvt g)) f.dec_enc)
theorem Roundtrip.frcp (f : LA) : Roundtrip.Statement (.frcp f) :=
  oneWord (b := 536870912) (v := f.enc) rfl f.enc_lt (by decide) rfl (congrArg (fun g => Except.ok (Instr.frcp g)) f.dec_enc)
theorem Roundtrip.frsq (f : LA) : Roundtrip.Statement (.frsq f) :=
  oneWord (b := 553648128) (v := f.enc) rfl f.enc_lt (by decide) rfl (congrArg (fun g => Except.ok (Instr.frsq g)) f.dec_enc)
theorem Roundtrip.fsqrt (f : LA) : Roundtrip.Statement (.fsqrt f) :=
  oneWord (b := 570425344) (v := f.enc) rfl f.enc_lt (by decide) rfl (congrArg (fun g => Except.ok (Instr.fsqrt g)) f.dec_enc)
theorem Roundtrip.fexp2 (f : LA) : Roundtrip.Statement (.fexp2 f) :=
  oneWord (b := 587202560) (v := f.enc) rfl f.enc_lt (by decide) rfl (congrArg (fun g => Except.ok (Instr.fexp2 g)) f.dec_enc)
theorem Roundtrip.flog2 (f : LA) : Roundtrip.Statement (.flog2 f) :=
  oneWord (b := 603979776) (v := f.enc) rfl f.enc_lt (by decide) rfl (congrArg (fun g => Except.ok (Instr.flog2 g)) f.dec_enc)
theorem Roundtrip.sint (f : LA) : Roundtrip.Statement (.sint f) :=
  oneWord (b := 620756992) (v := f.enc) rfl f.enc_lt (by decide) rfl (congrArg (fun g => Except.ok (Instr.sint g)) f.dec_enc)
theorem Roundtrip.cost (f : LA) : Roundtrip.Statement (.cost f) :=
  oneWord (b := 637534208) (v := f.enc) rfl f.enc_lt (by decide) rfl (congrArg (fun g => Except.ok (Instr.cost g)) f.dec_enc)
theorem Roundtrip.vperm (f : LA) : Roundtrip.Statement (.vperm f) :=
  oneWord (b := 671088640) (v := f.enc) rfl f.enc_lt (by decide) rfl (congrArg (fun g => Except.ok (Instr.vperm g)) f.dec_enc)
theorem Roundtrip.vshfl (f : LA) : Roundtrip.Statement (.vshfl f) :=
  oneWord (b := 687865856) (v := f.enc) rfl f.enc_lt (by decide) rfl (congrArg (fun g => Except.ok (Instr.vshfl g)) f.dec_enc)
theorem Roundtrip.vbcast (f : LA) : Roundtrip.Statement (.vbcast f) :=
  oneWord (b := 704643072) (v := f.enc) rfl f.enc_lt (by decide) rfl (congrArg (fun g => Except.ok (Instr.vbcast g)) f.dec_enc)
theorem Roundtrip.vmatch (f : LA) : Roundtrip.Statement (.vmatch f) :=
  oneWord (b := 721420288) (v := f.enc) rfl f.enc_lt (by decide) rfl (congrArg (fun g => Except.ok (Instr.vmatch g)) f.dec_enc)
theorem Roundtrip.vvote (f : LA) (x : VoteX) : Roundtrip.Statement (.vvote f x) :=
  twoWord (b := 738197504) (v := f.enc) (x := x.enc) rfl f.enc_lt x.enc_lt (by decide) rfl (congr (congrArg (fun g y => Except.ok (Instr.vvote g y)) f.dec_enc) x.dec_enc)
theorem Roundtrip.vreduce (f : LA) : Roundtrip.Statement (.vreduce f) :=
  oneWord (b := 754974720) (v := f.enc) rfl f.enc_lt (by decide) rfl (congrArg (fun g => Except.ok (Instr.vreduce g)) f.dec_enc)
theorem Roundtrip.vscan (f : LA) : Roundtrip.Statement (.vscan f) :=
  oneWord (b := 771751936) (v := f.enc) rfl f.enc_lt (by decide) rfl (congrArg (fun g => Except.ok (Instr.vscan g)) f.dec_enc)
theorem Roundtrip.xsend (f : LA) (x : SlotX) : Roundtrip.Statement (.xsend f x) :=
  twoWord (b := 805306368) (v := f.enc) (x := x.enc) rfl f.enc_lt x.enc_lt (by decide) rfl (congr (congrArg (fun g y => Except.ok (Instr.xsend g y)) f.dec_enc) x.dec_enc)
theorem Roundtrip.xrecv (f : LA) (x : SlotX) : Roundtrip.Statement (.xrecv f x) :=
  twoWord (b := 822083584) (v := f.enc) (x := x.enc) rfl f.enc_lt x.enc_lt (by decide) rfl (congr (congrArg (fun g y => Except.ok (Instr.xrecv g y)) f.dec_enc) x.dec_enc)
theorem Roundtrip.ld (f : LA) (x : MemX) : Roundtrip.Statement (.ld f x) :=
  twoWord (b := 939524096) (v := f.enc) (x := x.enc) rfl f.enc_lt x.enc_lt (by decide) rfl (congr (congrArg (fun g y => Except.ok (Instr.ld g y)) f.dec_enc) x.dec_enc)
theorem Roundtrip.st (f : LA) (x : MemX) : Roundtrip.Statement (.st f x) :=
  twoWord (b := 956301312) (v := f.enc) (x := x.enc) rfl f.enc_lt x.enc_lt (by decide) rfl (congr (congrArg (fun g y => Except.ok (Instr.st g y)) f.dec_enc) x.dec_enc)
theorem Roundtrip.lds (f : LA) (x : MemX) : Roundtrip.Statement (.lds f x) :=
  twoWord (b := 973078528) (v := f.enc) (x := x.enc) rfl f.enc_lt x.enc_lt (by decide) rfl (congr (congrArg (fun g y => Except.ok (Instr.lds g y)) f.dec_enc) x.dec_enc)
theorem Roundtrip.sts (f : LA) (x : MemX) : Roundtrip.Statement (.sts f x) :=
  twoWord (b := 989855744) (v := f.enc) (x := x.enc) rfl f.enc_lt x.enc_lt (by decide) rfl (congr (congrArg (fun g y => Except.ok (Instr.sts g y)) f.dec_enc) x.dec_enc)
theorem Roundtrip.ldq (f : LA) (x : MemX) : Roundtrip.Statement (.ldq f x) :=
  twoWord (b := 1006632960) (v := f.enc) (x := x.enc) rfl f.enc_lt x.enc_lt (by decide) rfl (congr (congrArg (fun g y => Except.ok (Instr.ldq g y)) f.dec_enc) x.dec_enc)
theorem Roundtrip.stq (f : LA) (x : MemX) : Roundtrip.Statement (.stq f x) :=
  twoWord (b := 1023410176) (v := f.enc) (x := x.enc) rfl f.enc_lt x.enc_lt (by decide) rfl (congr (congrArg (fun g y => Except.ok (Instr.stq g y)) f.dec_enc) x.dec_enc)
theorem Roundtrip.atom (f : LA) (x : AtomX) : Roundtrip.Statement (.atom f x) :=
  twoWord (b := 1040187392) (v := f.enc) (x := x.enc) rfl f.enc_lt x.enc_lt (by decide) rfl (congr (congrArg (fun g y => Except.ok (Instr.atom g y)) f.dec_enc) x.dec_enc)
theorem Roundtrip.atoms (f : LA) (x : AtomX) : Roundtrip.Statement (.atoms f x) :=
  twoWord (b := 1056964608) (v := f.enc) (x := x.enc) rfl f.enc_lt x.enc_lt (by decide) rfl (congr (congrArg (fun g y => Except.ok (Instr.atoms g y)) f.dec_enc) x.dec_enc)
theorem Roundtrip.acas (f : LA) (x : AtomX) : Roundtrip.Statement (.acas f x) :=
  twoWord (b := 1073741824) (v := f.enc) (x := x.enc) rfl f.enc_lt x.enc_lt (by decide) rfl (congr (congrArg (fun g y => Except.ok (Instr.acas g y)) f.dec_enc) x.dec_enc)
theorem Roundtrip.acass (f : LA) (x : AtomX) : Roundtrip.Statement (.acass f x) :=
  twoWord (b := 1090519040) (v := f.enc) (x := x.enc) rfl f.enc_lt x.enc_lt (by decide) rfl (congr (congrArg (fun g y => Except.ok (Instr.acass g y)) f.dec_enc) x.dec_enc)
theorem Roundtrip.aaddx (f : LA) (x : AtomX) : Roundtrip.Statement (.aaddx f x) :=
  twoWord (b := 1107296256) (v := f.enc) (x := x.enc) rfl f.enc_lt x.enc_lt (by decide) rfl (congr (congrArg (fun g y => Except.ok (Instr.aaddx g y)) f.dec_enc) x.dec_enc)
theorem Roundtrip.fence (f : LA) (x : FenceX) : Roundtrip.Statement (.fence f x) :=
  twoWord (b := 1124073472) (v := f.enc) (x := x.enc) rfl f.enc_lt x.enc_lt (by decide) rfl (congr (congrArg (fun g y => Except.ok (Instr.fence g y)) f.dec_enc) x.dec_enc)
theorem Roundtrip.discard (f : LA) (x : MemX) : Roundtrip.Statement (.discard f x) :=
  twoWord (b := 1140850688) (v := f.enc) (x := x.enc) rfl f.enc_lt x.enc_lt (by decide) rfl (congr (congrArg (fun g y => Except.ok (Instr.discard g y)) f.dec_enc) x.dec_enc)
theorem Roundtrip.pref (f : LA) (x : MemX) : Roundtrip.Statement (.pref f x) :=
  twoWord (b := 1157627904) (v := f.enc) (x := x.enc) rfl f.enc_lt x.enc_lt (by decide) rfl (congr (congrArg (fun g y => Except.ok (Instr.pref g y)) f.dec_enc) x.dec_enc)
theorem Roundtrip.accrd (f : LA) (x : TileX) : Roundtrip.Statement (.accrd f x) :=
  twoWord (b := 1207959552) (v := f.enc) (x := x.enc) rfl f.enc_lt x.enc_lt (by decide) rfl (congr (congrArg (fun g y => Except.ok (Instr.accrd g y)) f.dec_enc) x.dec_enc)
theorem Roundtrip.tadd (f : LA) (x : TaddX) : Roundtrip.Statement (.tadd f x) :=
  twoWord (b := 1224736768) (v := f.enc) (x := x.enc) rfl f.enc_lt x.enc_lt (by decide) rfl (congr (congrArg (fun g y => Except.ok (Instr.tadd g y)) f.dec_enc) x.dec_enc)
theorem Roundtrip.tnorm (f : LA) (x : EpsX) : Roundtrip.Statement (.tnorm f x) :=
  twoWord (b := 1241513984) (v := f.enc) (x := x.enc) rfl f.enc_lt x.enc_lt (by decide) rfl (congr (congrArg (fun g y => Except.ok (Instr.tnorm g y)) f.dec_enc) x.dec_enc)
theorem Roundtrip.tnormq (f : LA) (x : EpsX) : Roundtrip.Statement (.tnormq f x) :=
  twoWord (b := 1258291200) (v := f.enc) (x := x.enc) rfl f.enc_lt x.enc_lt (by decide) rfl (congr (congrArg (fun g y => Except.ok (Instr.tnormq g y)) f.dec_enc) x.dec_enc)
theorem Roundtrip.tsync (f : LA) : Roundtrip.Statement (.tsync f) :=
  oneWord (b := 1275068416) (v := f.enc) rfl f.enc_lt (by decide) rfl (congrArg (fun g => Except.ok (Instr.tsync g)) f.dec_enc)
theorem Roundtrip.accrdc (f : LA) (x : TileX) : Roundtrip.Statement (.accrdc f x) :=
  twoWord (b := 1291845632) (v := f.enc) (x := x.enc) rfl f.enc_lt x.enc_lt (by decide) rfl (congr (congrArg (fun g y => Except.ok (Instr.accrdc g y)) f.dec_enc) x.dec_enc)
theorem Roundtrip.cvbind (f : LA) : Roundtrip.Statement (.cvbind f) :=
  oneWord (b := 1342177280) (v := f.enc) rfl f.enc_lt (by decide) rfl (congrArg (fun g => Except.ok (Instr.cvbind g)) f.dec_enc)
theorem Roundtrip.draw (f : LA) : Roundtrip.Statement (.draw f) :=
  oneWord (b := 1358954496) (v := f.enc) rfl f.enc_lt (by decide) rfl (congrArg (fun g => Except.ok (Instr.draw g)) f.dec_enc)
theorem Roundtrip.drawk (f : LA) : Roundtrip.Statement (.drawk f) :=
  oneWord (b := 1375731712) (v := f.enc) rfl f.enc_lt (by decide) rfl (congrArg (fun g => Except.ok (Instr.drawk g)) f.dec_enc)
theorem Roundtrip.cvcur (f : LA) : Roundtrip.Statement (.cvcur f) :=
  oneWord (b := 1392508928) (v := f.enc) rfl f.enc_lt (by decide) rfl (congrArg (fun g => Except.ok (Instr.cvcur g)) f.dec_enc)
theorem Roundtrip.result (f : LA) : Roundtrip.Statement (.result f) :=
  oneWord (b := 1409286144) (v := f.enc) rfl f.enc_lt (by decide) rfl (congrArg (fun g => Except.ok (Instr.result g)) f.dec_enc)
theorem Roundtrip.rcmp (f : LA) (x : AstrX) : Roundtrip.Statement (.rcmp f x) :=
  twoWord (b := 1426063360) (v := f.enc) (x := x.enc) rfl f.enc_lt x.enc_lt (by decide) rfl (congr (congrArg (fun g y => Except.ok (Instr.rcmp g y)) f.dec_enc) x.dec_enc)
theorem Roundtrip.trace (f : LA) (x : TraceX) : Roundtrip.Statement (.trace f x) :=
  twoWord (b := 1476395008) (v := f.enc) (x := x.enc) rfl f.enc_lt x.enc_lt (by decide) rfl (congr (congrArg (fun g y => Except.ok (Instr.trace g y)) f.dec_enc) x.dec_enc)
theorem Roundtrip.tracea (f : LA) (x : TraceX) : Roundtrip.Statement (.tracea f x) :=
  twoWord (b := 1493172224) (v := f.enc) (x := x.enc) rfl f.enc_lt x.enc_lt (by decide) rfl (congr (congrArg (fun g y => Except.ok (Instr.tracea g y)) f.dec_enc) x.dec_enc)
theorem Roundtrip.traceo (f : LA) (x : TraceX) : Roundtrip.Statement (.traceo f x) :=
  twoWord (b := 1509949440) (v := f.enc) (x := x.enc) rfl f.enc_lt x.enc_lt (by decide) rfl (congr (congrArg (fun g y => Except.ok (Instr.traceo g y)) f.dec_enc) x.dec_enc)
theorem Roundtrip.hitrd (f : LA) : Roundtrip.Statement (.hitrd f) :=
  oneWord (b := 1526726656) (v := f.enc) rfl f.enc_lt (by decide) rfl (congrArg (fun g => Except.ok (Instr.hitrd g)) f.dec_enc)
theorem Roundtrip.hituv (f : LA) : Roundtrip.Statement (.hituv f) :=
  oneWord (b := 1543503872) (v := f.enc) rfl f.enc_lt (by decide) rfl (congrArg (fun g => Except.ok (Instr.hituv g)) f.dec_enc)
theorem Roundtrip.vmarch (f : LA) (x : MarchX) : Roundtrip.Statement (.vmarch f x) :=
  twoWord (b := 1560281088) (v := f.enc) (x := x.enc) rfl f.enc_lt x.enc_lt (by decide) rfl (congr (congrArg (fun g y => Except.ok (Instr.vmarch g y)) f.dec_enc) x.dec_enc)
theorem Roundtrip.vmrd (f : LA) : Roundtrip.Statement (.vmrd f) :=
  oneWord (b := 1577058304) (v := f.enc) rfl f.enc_lt (by decide) rfl (congrArg (fun g => Except.ok (Instr.vmrd g)) f.dec_enc)
theorem Roundtrip.rsave (f : LA) : Roundtrip.Statement (.rsave f) :=
  oneWord (b := 1593835520) (v := f.enc) rfl f.enc_lt (by decide) rfl (congrArg (fun g => Except.ok (Instr.rsave g)) f.dec_enc)
theorem Roundtrip.rload (f : LA) : Roundtrip.Statement (.rload f) :=
  oneWord (b := 1610612736) (v := f.enc) rfl f.enc_lt (by decide) rfl (congrArg (fun g => Except.ok (Instr.rload g)) f.dec_enc)
theorem Roundtrip.rclr (f : LA) : Roundtrip.Statement (.rclr f) :=
  oneWord (b := 1627389952) (v := f.enc) rfl f.enc_lt (by decide) rfl (congrArg (fun g => Except.ok (Instr.rclr g)) f.dec_enc)
theorem Roundtrip.nop (f : GA) : Roundtrip.Statement (.nop f) :=
  oneWord (b := 2147483648) (v := f.enc) rfl f.enc_lt (by decide) rfl (congrArg (fun g => Except.ok (Instr.nop g)) f.dec_enc)
theorem Roundtrip.br (f : GB) : Roundtrip.Statement (.br f) :=
  oneWord (b := 2164260864) (v := f.enc) rfl f.enc_lt (by decide) rfl (congrArg (fun g => Except.ok (Instr.br g)) f.dec_enc)
theorem Roundtrip.brc (f : GC) : Roundtrip.Statement (.brc f) :=
  oneWord (b := 2181038080) (v := f.enc) rfl f.enc_lt (by decide) rfl (congrArg (fun g => Except.ok (Instr.brc g)) f.dec_enc)
theorem Roundtrip.brd (f : GC) : Roundtrip.Statement (.brd f) :=
  oneWord (b := 2197815296) (v := f.enc) rfl f.enc_lt (by decide) rfl (congrArg (fun g => Except.ok (Instr.brd g)) f.dec_enc)
theorem Roundtrip.brx (f : GA) : Roundtrip.Statement (.brx f) :=
  oneWord (b := 2214592512) (v := f.enc) rfl f.enc_lt (by decide) rfl (congrArg (fun g => Except.ok (Instr.brx g)) f.dec_enc)
theorem Roundtrip.join (f : GA) : Roundtrip.Statement (.join f) :=
  oneWord (b := 2231369728) (v := f.enc) rfl f.enc_lt (by decide) rfl (congrArg (fun g => Except.ok (Instr.join g)) f.dec_enc)
theorem Roundtrip.regang (f : GA) : Roundtrip.Statement (.regang f) :=
  oneWord (b := 2248146944) (v := f.enc) rfl f.enc_lt (by decide) rfl (congrArg (fun g => Except.ok (Instr.regang g)) f.dec_enc)
theorem Roundtrip.idle (f : GA) : Roundtrip.Statement (.idle f) :=
  oneWord (b := 2264924160) (v := f.enc) rfl f.enc_lt (by decide) rfl (congrArg (fun g => Except.ok (Instr.idle g)) f.dec_enc)
theorem Roundtrip.exit (f : GA) : Roundtrip.Statement (.exit f) :=
  oneWord (b := 2281701376) (v := f.enc) rfl f.enc_lt (by decide) rfl (congrArg (fun g => Except.ok (Instr.exit g)) f.dec_enc)
theorem Roundtrip.call (f : GA) (x : CallX) : Roundtrip.Statement (.call f x) :=
  twoWord (b := 2298478592) (v := f.enc) (x := x.enc) rfl f.enc_lt x.enc_lt (by decide) rfl (congr (congrArg (fun g y => Except.ok (Instr.call g y)) f.dec_enc) x.dec_enc)
theorem Roundtrip.ret (f : GA) : Roundtrip.Statement (.ret f) :=
  oneWord (b := 2315255808) (v := f.enc) rfl f.enc_lt (by decide) rfl (congrArg (fun g => Except.ok (Instr.ret g)) f.dec_enc)
theorem Roundtrip.grow (f : GA) : Roundtrip.Statement (.grow f) :=
  oneWord (b := 2332033024) (v := f.enc) rfl f.enc_lt (by decide) rfl (congrArg (fun g => Except.ok (Instr.grow g)) f.dec_enc)
theorem Roundtrip.setfmt (f : GA) : Roundtrip.Statement (.setfmt f) :=
  oneWord (b := 2348810240) (v := f.enc) rfl f.enc_lt (by decide) rfl (congrArg (fun g => Except.ok (Instr.setfmt g)) f.dec_enc)
theorem Roundtrip.getfmt (f : GA) : Roundtrip.Statement (.getfmt f) :=
  oneWord (b := 2365587456) (v := f.enc) rfl f.enc_lt (by decide) rfl (congrArg (fun g => Except.ok (Instr.getfmt g)) f.dec_enc)
theorem Roundtrip.qput (f : GA) : Roundtrip.Statement (.qput f) :=
  oneWord (b := 2382364672) (v := f.enc) rfl f.enc_lt (by decide) rfl (congrArg (fun g => Except.ok (Instr.qput g)) f.dec_enc)
theorem Roundtrip.qget (f : GA) : Roundtrip.Statement (.qget f) :=
  oneWord (b := 2399141888) (v := f.enc) rfl f.enc_lt (by decide) rfl (congrArg (fun g => Except.ok (Instr.qget g)) f.dec_enc)
theorem Roundtrip.bar (f : GA) (x : BarX) : Roundtrip.Statement (.bar f x) :=
  twoWord (b := 2415919104) (v := f.enc) (x := x.enc) rfl f.enc_lt x.enc_lt (by decide) rfl (congr (congrArg (fun g y => Except.ok (Instr.bar g y)) f.dec_enc) x.dec_enc)
theorem Roundtrip.setg (f : GI) : Roundtrip.Statement (.setg f) :=
  oneWord (b := 2432696320) (v := f.enc) rfl f.enc_lt (by decide) rfl (congrArg (fun g => Except.ok (Instr.setg g)) f.dec_enc)
theorem Roundtrip.sysrd (f : GA) : Roundtrip.Statement (.sysrd f) :=
  oneWord (b := 2449473536) (v := f.enc) rfl f.enc_lt (by decide) rfl (congrArg (fun g => Except.ok (Instr.sysrd g)) f.dec_enc)
theorem Roundtrip.syswr (f : GA) : Roundtrip.Statement (.syswr f) :=
  oneWord (b := 2466250752) (v := f.enc) rfl f.enc_lt (by decide) rfl (congrArg (fun g => Except.ok (Instr.syswr g)) f.dec_enc)
theorem Roundtrip.gadd (f : GA) : Roundtrip.Statement (.gadd f) :=
  oneWord (b := 2550136832) (v := f.enc) rfl f.enc_lt (by decide) rfl (congrArg (fun g => Except.ok (Instr.gadd g)) f.dec_enc)
theorem Roundtrip.gsub (f : GA) : Roundtrip.Statement (.gsub f) :=
  oneWord (b := 2566914048) (v := f.enc) rfl f.enc_lt (by decide) rfl (congrArg (fun g => Except.ok (Instr.gsub g)) f.dec_enc)
theorem Roundtrip.gmul (f : GA) : Roundtrip.Statement (.gmul f) :=
  oneWord (b := 2583691264) (v := f.enc) rfl f.enc_lt (by decide) rfl (congrArg (fun g => Except.ok (Instr.gmul g)) f.dec_enc)
theorem Roundtrip.gand (f : GA) : Roundtrip.Statement (.gand f) :=
  oneWord (b := 2600468480) (v := f.enc) rfl f.enc_lt (by decide) rfl (congrArg (fun g => Except.ok (Instr.gand g)) f.dec_enc)
theorem Roundtrip.gor (f : GA) : Roundtrip.Statement (.gor f) :=
  oneWord (b := 2617245696) (v := f.enc) rfl f.enc_lt (by decide) rfl (congrArg (fun g => Except.ok (Instr.gor g)) f.dec_enc)
theorem Roundtrip.gxor (f : GA) : Roundtrip.Statement (.gxor f) :=
  oneWord (b := 2634022912) (v := f.enc) rfl f.enc_lt (by decide) rfl (congrArg (fun g => Except.ok (Instr.gxor g)) f.dec_enc)
theorem Roundtrip.gshl (f : GA) : Roundtrip.Statement (.gshl f) :=
  oneWord (b := 2650800128) (v := f.enc) rfl f.enc_lt (by decide) rfl (congrArg (fun g => Except.ok (Instr.gshl g)) f.dec_enc)
theorem Roundtrip.gshr (f : GA) : Roundtrip.Statement (.gshr f) :=
  oneWord (b := 2667577344) (v := f.enc) rfl f.enc_lt (by decide) rfl (congrArg (fun g => Except.ok (Instr.gshr g)) f.dec_enc)
theorem Roundtrip.gsar (f : GA) : Roundtrip.Statement (.gsar f) :=
  oneWord (b := 2684354560) (v := f.enc) rfl f.enc_lt (by decide) rfl (congrArg (fun g => Except.ok (Instr.gsar g)) f.dec_enc)
theorem Roundtrip.gmin (f : GA) : Roundtrip.Statement (.gmin f) :=
  oneWord (b := 2701131776) (v := f.enc) rfl f.enc_lt (by decide) rfl (congrArg (fun g => Except.ok (Instr.gmin g)) f.dec_enc)
theorem Roundtrip.gmax (f : GA) : Roundtrip.Statement (.gmax f) :=
  oneWord (b := 2717908992) (v := f.enc) rfl f.enc_lt (by decide) rfl (congrArg (fun g => Except.ok (Instr.gmax g)) f.dec_enc)
theorem Roundtrip.gsel (f : GA) : Roundtrip.Statement (.gsel f) :=
  oneWord (b := 2734686208) (v := f.enc) rfl f.enc_lt (by decide) rfl (congrArg (fun g => Except.ok (Instr.gsel g)) f.dec_enc)
theorem Roundtrip.gcmp (f : GA) (x : GcmpX) : Roundtrip.Statement (.gcmp f x) :=
  twoWord (b := 2751463424) (v := f.enc) (x := x.enc) rfl f.enc_lt x.enc_lt (by decide) rfl (congr (congrArg (fun g y => Except.ok (Instr.gcmp g y)) f.dec_enc) x.dec_enc)
theorem Roundtrip.mpop (f : GA) : Roundtrip.Statement (.mpop f) :=
  oneWord (b := 2768240640) (v := f.enc) rfl f.enc_lt (by decide) rfl (congrArg (fun g => Except.ok (Instr.mpop g)) f.dec_enc)
theorem Roundtrip.mffs (f : GA) : Roundtrip.Statement (.mffs f) :=
  oneWord (b := 2785017856) (v := f.enc) rfl f.enc_lt (by decide) rfl (congrArg (fun g => Except.ok (Instr.mffs g)) f.dec_enc)
theorem Roundtrip.gaddi (f : GI) : Roundtrip.Statement (.gaddi f) :=
  oneWord (b := 2801795072) (v := f.enc) rfl f.enc_lt (by decide) rfl (congrArg (fun g => Except.ok (Instr.gaddi g)) f.dec_enc)
theorem Roundtrip.gli (f : GA) (x : Lit) : Roundtrip.Statement (.gli f x) :=
  twoWord (b := 2818572288) (v := f.enc) (x := x.enc) rfl f.enc_lt x.enc_lt (by decide) rfl (congr (congrArg (fun g y => Except.ok (Instr.gli g y)) f.dec_enc) x.dec_enc)
theorem Roundtrip.glih (f : GA) (x : Lit) : Roundtrip.Statement (.glih f x) :=
  twoWord (b := 2835349504) (v := f.enc) (x := x.enc) rfl f.enc_lt x.enc_lt (by decide) rfl (congr (congrArg (fun g y => Except.ok (Instr.glih g y)) f.dec_enc) x.dec_enc)
theorem Roundtrip.gld (f : GA) (x : GmemX) : Roundtrip.Statement (.gld f x) :=
  twoWord (b := 2952790016) (v := f.enc) (x := x.enc) rfl f.enc_lt x.enc_lt (by decide) rfl (congr (congrArg (fun g y => Except.ok (Instr.gld g y)) f.dec_enc) x.dec_enc)
theorem Roundtrip.gst (f : GA) (x : GmemX) : Roundtrip.Statement (.gst f x) :=
  twoWord (b := 2969567232) (v := f.enc) (x := x.enc) rfl f.enc_lt x.enc_lt (by decide) rfl (congr (congrArg (fun g y => Except.ok (Instr.gst g y)) f.dec_enc) x.dec_enc)
theorem Roundtrip.gatom (f : GA) (x : GatomX) : Roundtrip.Statement (.gatom f x) :=
  twoWord (b := 2986344448) (v := f.enc) (x := x.enc) rfl f.enc_lt x.enc_lt (by decide) rfl (congr (congrArg (fun g y => Except.ok (Instr.gatom g y)) f.dec_enc) x.dec_enc)
theorem Roundtrip.cpy (f : GA) (x : CpyX) : Roundtrip.Statement (.cpy f x) :=
  twoWord (b := 3003121664) (v := f.enc) (x := x.enc) rfl f.enc_lt x.enc_lt (by decide) rfl (congr (congrArg (fun g y => Except.ok (Instr.cpy g y)) f.dec_enc) x.dec_enc)
theorem Roundtrip.layout (f : GA) (x : LayoutX) : Roundtrip.Statement (.layout f x) :=
  twoWord (b := 3019898880) (v := f.enc) (x := x.enc) rfl f.enc_lt x.enc_lt (by decide) rfl (congr (congrArg (fun g y => Except.ok (Instr.layout g y)) f.dec_enc) x.dec_enc)
theorem Roundtrip.zfill (f : GA) (x : ZfillX) : Roundtrip.Statement (.zfill f x) :=
  twoWord (b := 3036676096) (v := f.enc) (x := x.enc) rfl f.enc_lt x.enc_lt (by decide) rfl (congr (congrArg (fun g y => Except.ok (Instr.zfill g y)) f.dec_enc) x.dec_enc)
theorem Roundtrip.bfence (f : GI) : Roundtrip.Statement (.bfence f) :=
  oneWord (b := 3053453312) (v := f.enc) rfl f.enc_lt (by decide) rfl (congrArg (fun g => Except.ok (Instr.bfence g)) f.dec_enc)
theorem Roundtrip.bwait (f : GI) : Roundtrip.Statement (.bwait f) :=
  oneWord (b := 3070230528) (v := f.enc) rfl f.enc_lt (by decide) rfl (congrArg (fun g => Except.ok (Instr.bwait g)) f.dec_enc)
theorem Roundtrip.callred (f : GA) (x : CollX) : Roundtrip.Statement (.callred f x) :=
  twoWord (b := 3087007744) (v := f.enc) (x := x.enc) rfl f.enc_lt x.enc_lt (by decide) rfl (congr (congrArg (fun g y => Except.ok (Instr.callred g y)) f.dec_enc) x.dec_enc)
theorem Roundtrip.cgather (f : GA) (x : CollX) : Roundtrip.Statement (.cgather f x) :=
  twoWord (b := 3103784960) (v := f.enc) (x := x.enc) rfl f.enc_lt x.enc_lt (by decide) rfl (congr (congrArg (fun g y => Except.ok (Instr.cgather g y)) f.dec_enc) x.dec_enc)
theorem Roundtrip.omap (f : GA) (x : OmapX) : Roundtrip.Statement (.omap f x) :=
  twoWord (b := 3221225472) (v := f.enc) (x := x.enc) rfl f.enc_lt x.enc_lt (by decide) rfl (congr (congrArg (fun g y => Except.ok (Instr.omap g y)) f.dec_enc) x.dec_enc)
theorem Roundtrip.mma (f : GA) (x : MmaX) : Roundtrip.Statement (.mma f x) :=
  twoWord (b := 3238002688) (v := f.enc) (x := x.enc) rfl f.enc_lt x.enc_lt (by decide) rfl (congr (congrArg (fun g y => Except.ok (Instr.mma g y)) f.dec_enc) x.dec_enc)
theorem Roundtrip.msqd (f : GA) (x : MmaX) : Roundtrip.Statement (.msqd f x) :=
  twoWord (b := 3254779904) (v := f.enc) (x := x.enc) rfl f.enc_lt x.enc_lt (by decide) rfl (congr (congrArg (fun g y => Except.ok (Instr.msqd g y)) f.dec_enc) x.dec_enc)
theorem Roundtrip.mtopk (f : GA) (x : TopkX) : Roundtrip.Statement (.mtopk f x) :=
  twoWord (b := 3271557120) (v := f.enc) (x := x.enc) rfl f.enc_lt x.enc_lt (by decide) rfl (congr (congrArg (fun g y => Except.ok (Instr.mtopk g y)) f.dec_enc) x.dec_enc)
theorem Roundtrip.mzero (f : GA) (x : MtileX) : Roundtrip.Statement (.mzero f x) :=
  twoWord (b := 3288334336) (v := f.enc) (x := x.enc) rfl f.enc_lt x.enc_lt (by decide) rfl (congr (congrArg (fun g y => Except.ok (Instr.mzero g y)) f.dec_enc) x.dec_enc)
theorem Roundtrip.mstore (f : GA) (x : StoreX) : Roundtrip.Statement (.mstore f x) :=
  twoWord (b := 3305111552) (v := f.enc) (x := x.enc) rfl f.enc_lt x.enc_lt (by decide) rfl (congr (congrArg (fun g y => Except.ok (Instr.mstore g y)) f.dec_enc) x.dec_enc)
theorem Roundtrip.maddt (f : GA) (x : MtileX) : Roundtrip.Statement (.maddt f x) :=
  twoWord (b := 3321888768) (v := f.enc) (x := x.enc) rfl f.enc_lt x.enc_lt (by decide) rfl (congr (congrArg (fun g y => Except.ok (Instr.maddt g y)) f.dec_enc) x.dec_enc)
theorem Roundtrip.tcfg (f : GA) (x : TcfgX) : Roundtrip.Statement (.tcfg f x) :=
  twoWord (b := 3338665984) (v := f.enc) (x := x.enc) rfl f.enc_lt x.enc_lt (by decide) rfl (congr (congrArg (fun g y => Except.ok (Instr.tcfg g y)) f.dec_enc) x.dec_enc)
theorem Roundtrip.tevict (f : GA) (x : ImageX) : Roundtrip.Statement (.tevict f x) :=
  twoWord (b := 3355443200) (v := f.enc) (x := x.enc) rfl f.enc_lt x.enc_lt (by decide) rfl (congr (congrArg (fun g y => Except.ok (Instr.tevict g y)) f.dec_enc) x.dec_enc)
theorem Roundtrip.trestore (f : GA) (x : ImageX) : Roundtrip.Statement (.trestore f x) :=
  twoWord (b := 3372220416) (v := f.enc) (x := x.enc) rfl f.enc_lt x.enc_lt (by decide) rfl (congr (congrArg (fun g y => Except.ok (Instr.trestore g y)) f.dec_enc) x.dec_enc)
theorem Roundtrip.mutate (f : GA) (x : MutX) : Roundtrip.Statement (.mutate f x) :=
  twoWord (b := 3489660928) (v := f.enc) (x := x.enc) rfl f.enc_lt x.enc_lt (by decide) rfl (congr (congrArg (fun g y => Except.ok (Instr.mutate g y)) f.dec_enc) x.dec_enc)
theorem Roundtrip.replay (f : GA) (x : ReplayX) : Roundtrip.Statement (.replay f x) :=
  twoWord (b := 3506438144) (v := f.enc) (x := x.enc) rfl f.enc_lt x.enc_lt (by decide) rfl (congr (congrArg (fun g y => Except.ok (Instr.replay g y)) f.dec_enc) x.dec_enc)
theorem Roundtrip.rrd (f : GA) : Roundtrip.Statement (.rrd f) :=
  oneWord (b := 3523215360) (v := f.enc) rfl f.enc_lt (by decide) rfl (congrArg (fun g => Except.ok (Instr.rrd g)) f.dec_enc)
theorem Roundtrip.cvend (f : GA) : Roundtrip.Statement (.cvend f) :=
  oneWord (b := 3539992576) (v := f.enc) rfl f.enc_lt (by decide) rfl (congrArg (fun g => Except.ok (Instr.cvend g)) f.dec_enc)
theorem Roundtrip.launchd (f : GA) (x : LaunchX) : Roundtrip.Statement (.launchd f x) :=
  twoWord (b := 3623878656) (v := f.enc) (x := x.enc) rfl f.enc_lt x.enc_lt (by decide) rfl (congr (congrArg (fun g y => Except.ok (Instr.launchd g y)) f.dec_enc) x.dec_enc)
theorem Roundtrip.gridsync (f : GA) : Roundtrip.Statement (.gridsync f) :=
  oneWord (b := 3640655872) (v := f.enc) rfl f.enc_lt (by decide) rfl (congrArg (fun g => Except.ok (Instr.gridsync g)) f.dec_enc)
theorem Roundtrip.rqput (f : GA) : Roundtrip.Statement (.rqput f) :=
  oneWord (b := 3657433088) (v := f.enc) rfl f.enc_lt (by decide) rfl (congrArg (fun g => Except.ok (Instr.rqput g)) f.dec_enc)
theorem Roundtrip.rqputn (f : GA) : Roundtrip.Statement (.rqputn f) :=
  oneWord (b := 3674210304) (v := f.enc) rfl f.enc_lt (by decide) rfl (congrArg (fun g => Except.ok (Instr.rqputn g)) f.dec_enc)
theorem Roundtrip.rqget (f : GA) : Roundtrip.Statement (.rqget f) :=
  oneWord (b := 3690987520) (v := f.enc) rfl f.enc_lt (by decide) rfl (congrArg (fun g => Except.ok (Instr.rqget g)) f.dec_enc)
theorem Roundtrip.rqgetn (f : GA) : Roundtrip.Statement (.rqgetn f) :=
  oneWord (b := 3707764736) (v := f.enc) rfl f.enc_lt (by decide) rfl (congrArg (fun g => Except.ok (Instr.rqgetn g)) f.dec_enc)
theorem Roundtrip.rqcnt (f : GA) : Roundtrip.Statement (.rqcnt f) :=
  oneWord (b := 3724541952) (v := f.enc) rfl f.enc_lt (by decide) rfl (congrArg (fun g => Except.ok (Instr.rqcnt g)) f.dec_enc)
theorem Roundtrip.yield (f : GA) : Roundtrip.Statement (.yield f) :=
  oneWord (b := 3741319168) (v := f.enc) rfl f.enc_lt (by decide) rfl (congrArg (fun g => Except.ok (Instr.yield g)) f.dec_enc)
theorem Roundtrip.sleep (f : GI) : Roundtrip.Statement (.sleep f) :=
  oneWord (b := 3758096384) (v := f.enc) rfl f.enc_lt (by decide) rfl (congrArg (fun g => Except.ok (Instr.sleep g)) f.dec_enc)
theorem Roundtrip.evsig (f : GA) : Roundtrip.Statement (.evsig f) :=
  oneWord (b := 3774873600) (v := f.enc) rfl f.enc_lt (by decide) rfl (congrArg (fun g => Except.ok (Instr.evsig g)) f.dec_enc)
theorem Roundtrip.trap (f : GI) : Roundtrip.Statement (.trap f) :=
  oneWord (b := 3892314112) (v := f.enc) rfl f.enc_lt (by decide) rfl (congrArg (fun g => Except.ok (Instr.trap g)) f.dec_enc)
theorem Roundtrip.trapc (f : GC) : Roundtrip.Statement (.trapc f) :=
  oneWord (b := 3909091328) (v := f.enc) rfl f.enc_lt (by decide) rfl (congrArg (fun g => Except.ok (Instr.trapc g)) f.dec_enc)
theorem Roundtrip.tret (f : GM) : Roundtrip.Statement (.tret f) :=
  oneWord (b := 3925868544) (v := GM.enc 0 f) rfl (GM.enc_lt 0 (by decide) f) (by decide) rfl
    ((if_neg (by decide)).trans ((decodeG_tret _).trans (decode_tret f)))
theorem Roundtrip.tretGoto (f : GM) : Roundtrip.Statement (.tretGoto f) :=
  oneWord (b := 3925868544) (v := GM.enc 1 f) rfl (GM.enc_lt 1 (by decide) f) (by decide) rfl
    ((if_neg (by decide)).trans ((decodeG_tret _).trans (decode_tretGoto f)))
theorem Roundtrip.tretKill (f : GM) : Roundtrip.Statement (.tretKill f) :=
  oneWord (b := 3925868544) (v := GM.enc 2 f) rfl (GM.enc_lt 2 (by decide) f) (by decide) rfl
    ((if_neg (by decide)).trans ((decodeG_tret _).trans (decode_tretKill f)))
theorem Roundtrip.bkpt (f : GI) : Roundtrip.Statement (.bkpt f) :=
  oneWord (b := 3942645760) (v := f.enc) rfl f.enc_lt (by decide) rfl (congrArg (fun g => Except.ok (Instr.bkpt g)) f.dec_enc)
theorem Roundtrip.haltTeam (f : GM) : Roundtrip.Statement (.haltTeam f) :=
  oneWord (b := 3959422976) (v := GM.enc 0 f) rfl (GM.enc_lt 0 (by decide) f) (by decide) rfl
    ((if_neg (by decide)).trans ((decodeG_halt _).trans (decode_haltTeam f)))
theorem Roundtrip.haltFlush (f : GM) : Roundtrip.Statement (.haltFlush f) :=
  oneWord (b := 3959422976) (v := GM.enc 1 f) rfl (GM.enc_lt 1 (by decide) f) (by decide) rfl
    ((if_neg (by decide)).trans ((decodeG_halt _).trans (decode_haltFlush f)))
theorem Roundtrip.errrd (f : GA) : Roundtrip.Statement (.errrd f) :=
  oneWord (b := 3976200192) (v := f.enc) rfl f.enc_lt (by decide) rfl (congrArg (fun g => Except.ok (Instr.errrd g)) f.dec_enc)
theorem Roundtrip.faultRecordWrite (ctx : Nat) : Roundtrip.Statement (.faultRecordWrite ctx) := trivial
theorem Roundtrip.fresumeRetry (grove : Nat) (ctx : BitVec 12) (seq : Word) : Roundtrip.Statement (.fresumeRetry grove ctx seq) := trivial
theorem Roundtrip.fresumeAbort (grove : Nat) (ctx : BitVec 12) (seq : Word) : Roundtrip.Statement (.fresumeAbort grove ctx seq) := trivial
theorem Roundtrip.ticmdPage (win : Option Nat) (ctx : BitVec 12) (tag : Word) : Roundtrip.Statement (.ticmdPage win ctx tag) := trivial
theorem Roundtrip.ticmdContext (win : Option Nat) (ctx : BitVec 12) (tag : Word) : Roundtrip.Statement (.ticmdContext win ctx tag) := trivial
theorem Roundtrip.ticmdGrove (win : Option Nat) (grove : BitVec 6) (tag : Word) : Roundtrip.Statement (.ticmdGrove win grove tag) := trivial
theorem Roundtrip.ticmdAll (win : Option Nat) (tag : Word) : Roundtrip.Statement (.ticmdAll win tag) := trivial
theorem Roundtrip.invalidationComplete (win : Option Nat) : Roundtrip.Statement (.invalidationComplete win) := trivial
theorem Roundtrip.splitcfgWrite (stand : Nat) (v : Dword) : Roundtrip.Statement (.splitcfgWrite stand v) := trivial
theorem Roundtrip.l2WriteBack (line : Nat) : Roundtrip.Statement (.l2WriteBack line) := trivial
theorem Roundtrip.patrolScrub (sector : Nat) (found : ScrubFinding) : Roundtrip.Statement (.patrolScrub sector found) := trivial
theorem Roundtrip.sramUncorrectableError (at_ : SramPlace) : Roundtrip.Statement (.sramUncorrectableError at_) := trivial
theorem Roundtrip.cacheParityError (at_ : CachePlace) : Roundtrip.Statement (.cacheParityError at_) := trivial
theorem Roundtrip.mirrorWriteApply (die : Nat) (idx : Nat) : Roundtrip.Statement (.mirrorWriteApply die idx) := trivial
theorem Roundtrip.spillFill (u : UnitId) : Roundtrip.Statement (.spillFill u) := trivial
theorem Roundtrip.scratchpadWaitEnd (u : UnitId) : Roundtrip.Statement (.scratchpadWaitEnd u) := trivial
theorem Roundtrip.tileWaitEnd (u : UnitId) : Roundtrip.Statement (.tileWaitEnd u) := trivial
theorem Roundtrip.queueWaitEnd (u : UnitId) : Roundtrip.Statement (.queueWaitEnd u) := trivial
theorem Roundtrip.rendezvousWaitEnd (u : UnitId) : Roundtrip.Statement (.rendezvousWaitEnd u) := trivial
theorem Roundtrip.barrierPhaseComplete (core : Nat) (team : Nat) (bar : Nat) : Roundtrip.Statement (.barrierPhaseComplete core team bar) := trivial
theorem Roundtrip.gridsyncPhaseComplete (grid : Nat) : Roundtrip.Statement (.gridsyncPhaseComplete grid) := trivial
theorem Roundtrip.batchWaitComplete (u : UnitId) : Roundtrip.Statement (.batchWaitComplete u) := trivial
theorem Roundtrip.convergentPerform (u : UnitId) : Roundtrip.Statement (.convergentPerform u) := trivial
theorem Roundtrip.growGrant (core : Nat) (slot : Nat) : Roundtrip.Statement (.growGrant core slot) := trivial
theorem Roundtrip.evictedGroupReadmit (core : Nat) : Roundtrip.Statement (.evictedGroupReadmit core) := trivial
theorem Roundtrip.recordQueueWaitEnd (u : UnitId) : Roundtrip.Statement (.recordQueueWaitEnd u) := trivial
theorem Roundtrip.sleepExpiry (u : UnitId) : Roundtrip.Statement (.sleepExpiry u) := trivial
theorem Roundtrip.engineQueueRoom (u : UnitId) : Roundtrip.Statement (.engineQueueRoom u) := trivial
theorem Roundtrip.launchQueueRoom (u : UnitId) : Roundtrip.Statement (.launchQueueRoom u) := trivial
theorem Roundtrip.cpyPerform (core : Nat) (team : Nat) : Roundtrip.Statement (.cpyPerform core team) := trivial
theorem Roundtrip.layoutPerform (core : Nat) (team : Nat) : Roundtrip.Statement (.layoutPerform core team) := trivial
theorem Roundtrip.zfillPerform (core : Nat) (team : Nat) : Roundtrip.Statement (.zfillPerform core team) := trivial
theorem Roundtrip.omapPerform (core : Nat) (team : Nat) : Roundtrip.Statement (.omapPerform core team) := trivial
theorem Roundtrip.mmaChunk (core : Nat) (team : Nat) : Roundtrip.Statement (.mmaChunk core team) := trivial
theorem Roundtrip.msqdPerform (core : Nat) (team : Nat) : Roundtrip.Statement (.msqdPerform core team) := trivial
theorem Roundtrip.mtopkPerform (core : Nat) (team : Nat) : Roundtrip.Statement (.mtopkPerform core team) := trivial
theorem Roundtrip.mzeroPerform (core : Nat) (team : Nat) : Roundtrip.Statement (.mzeroPerform core team) := trivial
theorem Roundtrip.mstorePerform (core : Nat) (team : Nat) : Roundtrip.Statement (.mstorePerform core team) := trivial
theorem Roundtrip.maddtPerform (core : Nat) (team : Nat) : Roundtrip.Statement (.maddtPerform core team) := trivial
theorem Roundtrip.tcfgPerform (core : Nat) (team : Nat) : Roundtrip.Statement (.tcfgPerform core team) := trivial
theorem Roundtrip.tevictPerform (core : Nat) (team : Nat) (q : Nat) : Roundtrip.Statement (.tevictPerform core team q) := trivial
theorem Roundtrip.trestorePerform (core : Nat) (team : Nat) (q : Nat) : Roundtrip.Statement (.trestorePerform core team q) := trivial
theorem Roundtrip.callredPerform (core : Nat) (team : Nat) : Roundtrip.Statement (.callredPerform core team) := trivial
theorem Roundtrip.cgatherPerform (core : Nat) (team : Nat) : Roundtrip.Statement (.cgatherPerform core team) := trivial
theorem Roundtrip.trunkPartialReceive (core : Nat) (team : Nat) : Roundtrip.Statement (.trunkPartialReceive core team) := trivial
theorem Roundtrip.traversalStep (core : Nat) (slot : Nat) (lane : Nat) : Roundtrip.Statement (.traversalStep core slot lane) := trivial
theorem Roundtrip.marchStep (core : Nat) (slot : Nat) (lane : Nat) : Roundtrip.Statement (.marchStep core slot lane) := trivial
theorem Roundtrip.issueSelect (q : Issuer) : Roundtrip.Statement (.issueSelect q) := trivial
theorem Roundtrip.pathAged (u : UnitId) : Roundtrip.Statement (.pathAged u) := trivial
theorem Roundtrip.debugRecordWrite (grove : Nat) : Roundtrip.Statement (.debugRecordWrite grove) := trivial
theorem Roundtrip.stallRecordWrite (grove : Nat) : Roundtrip.Statement (.stallRecordWrite grove) := trivial
theorem Roundtrip.qkick (grove : Nat) (queue : Nat) (tail : Word) : Roundtrip.Statement (.qkick grove queue tail) := trivial
theorem Roundtrip.qcfgWrite (grove : Nat) (queue : Nat) (v : Dword) : Roundtrip.Statement (.qcfgWrite grove queue v) := trivial
theorem Roundtrip.qstatHaltClear (grove : Nat) (queue : Nat) : Roundtrip.Statement (.qstatHaltClear grove queue) := trivial
theorem Roundtrip.entryNop (grove : Nat) (queue : Nat) : Roundtrip.Statement (.entryNop grove queue) := trivial
theorem Roundtrip.entryGraph (grove : Nat) (queue : Nat) : Roundtrip.Statement (.entryGraph grove queue) := trivial
theorem Roundtrip.entryInstall (grove : Nat) (queue : Nat) (size : Nat) : Roundtrip.Statement (.entryInstall grove queue size) := trivial
theorem Roundtrip.entrySignal (grove : Nat) (queue : Nat) : Roundtrip.Statement (.entrySignal grove queue) := trivial
theorem Roundtrip.entryWait (grove : Nat) (queue : Nat) : Roundtrip.Statement (.entryWait grove queue) := trivial
theorem Roundtrip.graphNodeStart (grove : Nat) (queue : Nat) (node : Nat) : Roundtrip.Statement (.graphNodeStart grove queue node) := trivial
theorem Roundtrip.teamAdmission (grid : Nat) (core : Nat) : Roundtrip.Statement (.teamAdmission grid core) := trivial
theorem Roundtrip.deviceLaunchStart (grove : Nat) : Roundtrip.Statement (.deviceLaunchStart grove) := trivial
theorem Roundtrip.groupRetire (core : Nat) (slot : Nat) : Roundtrip.Statement (.groupRetire core slot) := trivial
theorem Roundtrip.teamRetire (core : Nat) (team : Nat) : Roundtrip.Statement (.teamRetire core team) := trivial
theorem Roundtrip.gridEnd (grid : Nat) : Roundtrip.Statement (.gridEnd grid) := trivial
theorem Roundtrip.pscmdSave (win : Option Nat) (ctx : BitVec 12) (all : Bool) (team : Word) (tag : Byte) : Roundtrip.Statement (.pscmdSave win ctx all team tag) := trivial
theorem Roundtrip.pscmdResume (win : Option Nat) (ctx : BitVec 12) (team : Word) (tag : Byte) (core : Nat) : Roundtrip.Statement (.pscmdResume win ctx team tag core) := trivial
theorem Roundtrip.pscmdTeardown (win : Option Nat) (ctx : BitVec 12) (all : Bool) (team : Word) (tag : Byte) : Roundtrip.Statement (.pscmdTeardown win ctx all team tag) := trivial
theorem Roundtrip.saveComplete (win : Option Nat) : Roundtrip.Statement (.saveComplete win) := trivial
theorem Roundtrip.powerOn : Roundtrip.Statement .powerOn := trivial
theorem Roundtrip.fundamentalReset : Roundtrip.Statement .fundamentalReset := trivial
theorem Roundtrip.bootAttempt (links : Nat) (trained : Bool) : Roundtrip.Statement (.bootAttempt links trained) := trivial
theorem Roundtrip.bootTimeout : Roundtrip.Statement .bootTimeout := trivial
theorem Roundtrip.bootcmdWarm : Roundtrip.Statement .bootcmdWarm := trivial
theorem Roundtrip.bootcmdSwap : Roundtrip.Statement .bootcmdSwap := trivial
theorem Roundtrip.flashcmd (slot : BitVec 2) (src : BitVec 46) : Roundtrip.Statement (.flashcmd slot src) := trivial
theorem Roundtrip.lccmd (dest : BitVec 2) (auth : BitVec 46) (owner : BitVec 256) : Roundtrip.Statement (.lccmd dest auth owner) := trivial
theorem Roundtrip.standgrvWrite (stand : Nat) (v : Dword) : Roundtrip.Statement (.standgrvWrite stand v) := trivial
theorem Roundtrip.ringRegisterWrite (grove : Nat) (debug : Bool) (v : Dword) : Roundtrip.Statement (.ringRegisterWrite grove debug v) := trivial
theorem Roundtrip.gintAck (grove : Nat) (v : Dword) : Roundtrip.Statement (.gintAck grove v) := trivial
theorem Roundtrip.dbgstopArm (grove : Nat) (v : Dword) : Roundtrip.Statement (.dbgstopArm grove v) := trivial
theorem Roundtrip.dbgstopGo (grove : Nat) : Roundtrip.Statement (.dbgstopGo grove) := trivial
theorem Roundtrip.trig (grove : Nat) : Roundtrip.Statement (.trig grove) := trivial
theorem Roundtrip.triggerReceive (ostamp : Dword) (origin : Byte) : Roundtrip.Statement (.triggerReceive ostamp origin) := trivial
theorem Roundtrip.hostPostedWrite (pa : Nat) (data : List Byte) : Roundtrip.Statement (.hostPostedWrite pa data) := trivial
theorem Roundtrip.hostRead (pa : Nat) (n : Nat) : Roundtrip.Statement (.hostRead pa n) := trivial
theorem Roundtrip.apertureAccess (grove : ViaLink) (off : Nat) (n : Nat) (data : Option (List Byte)) : Roundtrip.Statement (.apertureAccess grove off n data) := trivial
theorem Roundtrip.peerAccessArrival (link : Nat) (off : Nat) (n : Nat) (data : Option (List Byte)) : Roundtrip.Statement (.peerAccessArrival link off n data) := trivial
theorem Roundtrip.supplySag (die : Nat) : Roundtrip.Statement (.supplySag die) := trivial
theorem Roundtrip.sagRecoveryStep (die : Nat) : Roundtrip.Statement (.sagRecoveryStep die) := trivial
theorem Roundtrip.registerWrite (fn : ViaLink) (off : Nat) (v : Dword) : Roundtrip.Statement (.registerWrite fn off v) := trivial
theorem Roundtrip.flashWriteComplete (size : Nat) : Roundtrip.Statement (.flashWriteComplete size) := trivial
theorem Roundtrip.peercfgWrite (p : Nat) (v : Dword) (agrees : Bool) : Roundtrip.Statement (.peercfgWrite p v agrees) := trivial
theorem Roundtrip.peerLinkTrained (p : Nat) : Roundtrip.Statement (.peerLinkTrained p) := trivial

end Sys2Proof.Laws
end

