-- ==== Sys2Proof/Laws/Refused.lean ====
section
/-! SUPPORT. An instruction that fails a check of issue raises that check's fault, whichever instruction it is (spec/07 R175). -/
namespace Sys2Proof.Machine

theorem exec_fails {s : State} {u : UnitId} {i : Instr} {f : Flt} (hw : hasWord i = true) (ht : s.turn = some u)
    (hf : s.preCheck u i = some f) : exec i s = .next (s.faultUnit u f) := by
  have key (k) : issue i s k = .next (s.faultUnit u f) := issue_fails ht hf k
  cases i with
  | vadd f => rw [exec_vadd]; unfold execVadd laneInt2 laneOp; exact key _
  | vsub f => rw [exec_vsub]; unfold execVsub laneInt2 laneOp; exact key _
  | vmul f => rw [exec_vmul]; unfold execVmul laneInt2 laneOp; exact key _
  | vmulh f => rw [exec_vmulh]; unfold execVmulh laneInt2 laneOp; exact key _
  | vmad f => rw [exec_vmad]; unfold execVmad laneAcc; exact key _
  | vmin f => rw [exec_vmin]; unfold execVmin laneInt2 laneOp; exact key _
  | vmax f => rw [exec_vmax]; unfold execVmax laneInt2 laneOp; exact key _
  | vand f => rw [exec_vand]; unfold execVand laneInt2 laneOp; exact key _
  | vor f => rw [exec_vor]; unfold execVor laneInt2 laneOp; exact key _
  | vxor f => rw [exec_vxor]; unfold execVxor laneInt2 laneOp; exact key _
  | vshl f => rw [exec_vshl]; unfold execVshl laneInt2 laneOp; exact key _
  | vshr f => rw [exec_vshr]; unfold execVshr laneInt2 laneOp; exact key _
  | vsar f => rw [exec_vsar]; unfold execVsar laneInt2 laneOp; exact key _
  | vclz f => rw [exec_vclz]; unfold execVclz laneInt1 laneOp; exact key _
  | vpopc f => rw [exec_vpopc]; unfold execVpopc laneInt1 laneOp; exact key _
  | vaddi f => rw [exec_vaddi]; unfold execVaddi laneImm laneOp; exact key _
  | vshli f => rw [exec_vshli]; unfold execVshli laneImm laneOp; exact key _
  | vshri f => rw [exec_vshri]; unfold execVshri laneImm laneOp; exact key _
  | vsari f => rw [exec_vsari]; unfold execVsari laneImm laneOp; exact key _
  | vsel f => rw [exec_vsel]; unfold execVsel laneOp; exact key _
  | vli f x => rw [exec_vli]; unfold execVli laneOp; exact key _
  | vcmp f x => rw [exec_vcmp]; unfold execVcmp; exact key _
  | fadd f => rw [exec_fadd]; unfold execFadd laneFloat2 laneOp; exact key _
  | fmul f => rw [exec_fmul]; unfold execFmul laneFloat2 laneOp; exact key _
  | ffma f => rw [exec_ffma]; unfold execFfma laneAcc; exact key _
  | fmin f => rw [exec_fmin]; unfold execFmin laneMinMax laneOp; exact key _
  | fmax f => rw [exec_fmax]; unfold execFmax laneMinMax laneOp; exact key _
  | fcmp f x => rw [exec_fcmp]; unfold execFcmp compareOp; exact key _
  | bfma2 f => rw [exec_bfma2]; unfold execBfma2 laneAcc; exact key _
  | cvt f => rw [exec_cvt]; unfold execCvt laneOp; exact key _
  | frcp f => rw [exec_frcp]; unfold execFrcp laneFloat1 laneOp; exact key _
  | frsq f => rw [exec_frsq]; unfold execFrsq laneFloat1 laneOp; exact key _
  | fsqrt f => rw [exec_fsqrt]; unfold execFsqrt laneFloat1 laneOp; exact key _
  | fexp2 f => rw [exec_fexp2]; unfold execFexp2 laneFloat1 laneOp; exact key _
  | flog2 f => rw [exec_flog2]; unfold execFlog2 laneFloat1 laneOp; exact key _
  | sint f => rw [exec_sint]; unfold execSint laneFloat1 laneOp; exact key _
  | cost f => rw [exec_cost]; unfold execCost laneFloat1 laneOp; exact key _
  | vperm f => rw [exec_vperm]; unfold execVperm moveOp; exact key _
  | vshfl f => rw [exec_vshfl]; unfold execVshfl moveOp; exact key _
  | vbcast f => rw [exec_vbcast]; unfold execVbcast moveOp; exact key _
  | vmatch f => rw [exec_vmatch]; unfold execVmatch; exact key _
  | vvote f x => rw [exec_vvote]; unfold execVvote; exact key _
  | vreduce f => rw [exec_vreduce]; unfold execVreduce; exact key _
  | vscan f => rw [exec_vscan]; unfold execVscan; exact key _
  | xsend f x => rw [exec_xsend]; unfold execXsend; exact key _
  | xrecv f x => rw [exec_xrecv]; unfold execXrecv; exact key _
  | ld f x => rw [exec_ld]; unfold execLd; exact key _
  | st f x => rw [exec_st]; unfold execSt; exact key _
  | lds f x => rw [exec_lds]; unfold execLds; exact key _
  | sts f x => rw [exec_sts]; unfold execSts; exact key _
  | ldq f x => rw [exec_ldq]; unfold execLdq; exact key _
  | stq f x => rw [exec_stq]; unfold execStq; exact key _
  | atom f x => rw [exec_atom]; unfold execAtom; exact key _
  | atoms f x => rw [exec_atoms]; unfold execAtoms; exact key _
  | acas f x => rw [exec_acas]; unfold execAcas; exact key _
  | acass f x => rw [exec_acass]; unfold execAcass; exact key _
  | aaddx f x => rw [exec_aaddx]; unfold execAaddx; exact key _
  | fence f x => rw [exec_fence]; unfold execFence; exact key _
  | discard f x => rw [exec_discard]; unfold execDiscard; exact key _
  | pref f x => rw [exec_pref]; unfold execPref; exact key _
  | accrd f x => rw [exec_accrd]; unfold execAccrd; exact key _
  | tadd f x => rw [exec_tadd]; unfold execTadd; exact key _
  | tnorm f x => rw [exec_tnorm]; unfold execTnorm; exact key _
  | tnormq f x => rw [exec_tnormq]; unfold execTnormq; exact key _
  | tsync f => rw [exec_tsync]; unfold execTsync; exact key _
  | accrdc f x => rw [exec_accrdc]; unfold execAccrdc; exact key _
  | cvbind f => rw [exec_cvbind]; unfold execCvbind; exact key _
  | draw f => rw [exec_draw]; unfold execDraw; exact key _
  | drawk f => rw [exec_drawk]; unfold execDrawk laneOp; exact key _
  | cvcur f => rw [exec_cvcur]; unfold execCvcur; exact key _
  | result f => rw [exec_result]; unfold execResult; exact key _
  | rcmp f x => rw [exec_rcmp]; unfold execRcmp; exact key _
  | trace f x => rw [exec_trace]; unfold execTrace; exact key _
  | tracea f x => rw [exec_tracea]; unfold execTracea; exact key _
  | traceo f x => rw [exec_traceo]; unfold execTraceo; exact key _
  | hitrd f => rw [exec_hitrd]; unfold execHitrd; exact key _
  | hituv f => rw [exec_hituv]; unfold execHituv; exact key _
  | vmarch f x => rw [exec_vmarch]; unfold execVmarch; exact key _
  | vmrd f => rw [exec_vmrd]; unfold execVmrd; exact key _
  | rsave f => rw [exec_rsave]; unfold execRsave; exact key _
  | rload f => rw [exec_rload]; unfold execRload; exact key _
  | rclr f => rw [exec_rclr]; unfold execRclr; exact key _
  | nop f => rw [exec_nop]; unfold execNop; exact key _
  | br f => rw [exec_br]; unfold execBr; exact key _
  | brc f => rw [exec_brc]; unfold execBrc; exact key _
  | brd f => rw [exec_brd]; unfold execBrd; exact key _
  | brx f => rw [exec_brx]; unfold execBrx; exact key _
  | join f => rw [exec_join]; unfold execJoin; exact key _
  | regang f => rw [exec_regang]; unfold execRegang; exact key _
  | idle f => rw [exec_idle]; unfold execIdle; exact key _
  | exit f => rw [exec_exit]; unfold execExit; exact key _
  | call f x => rw [exec_call]; unfold execCall; exact key _
  | ret f => rw [exec_ret]; unfold execRet; exact key _
  | grow f => rw [exec_grow]; unfold execGrow; exact key _
  | setfmt f => rw [exec_setfmt]; unfold execSetfmt; exact key _
  | getfmt f => rw [exec_getfmt]; unfold execGetfmt scalarOp; exact key _
  | qput f => rw [exec_qput]; unfold execQput; exact key _
  | qget f => rw [exec_qget]; unfold execQget; exact key _
  | bar f x => rw [exec_bar]; unfold execBar; exact key _
  | setg f => rw [exec_setg]; unfold execSetg; exact key _
  | sysrd f => rw [exec_sysrd]; unfold execSysrd; exact key _
  | syswr f => rw [exec_syswr]; unfold execSyswr; exact key _
  | gadd f => rw [exec_gadd]; unfold execGadd scalar2 scalarOp; exact key _
  | gsub f => rw [exec_gsub]; unfold execGsub scalar2 scalarOp; exact key _
  | gmul f => rw [exec_gmul]; unfold execGmul scalar2 scalarOp; exact key _
  | gand f => rw [exec_gand]; unfold execGand scalar2 scalarOp; exact key _
  | gor f => rw [exec_gor]; unfold execGor scalar2 scalarOp; exact key _
  | gxor f => rw [exec_gxor]; unfold execGxor scalar2 scalarOp; exact key _
  | gshl f => rw [exec_gshl]; unfold execGshl scalar2 scalarOp; exact key _
  | gshr f => rw [exec_gshr]; unfold execGshr scalar2 scalarOp; exact key _
  | gsar f => rw [exec_gsar]; unfold execGsar scalar2 scalarOp; exact key _
  | gmin f => rw [exec_gmin]; unfold execGmin scalar2 scalarOp; exact key _
  | gmax f => rw [exec_gmax]; unfold execGmax scalar2 scalarOp; exact key _
  | gsel f => rw [exec_gsel]; unfold execGsel; exact key _
  | gcmp f x => rw [exec_gcmp]; unfold execGcmp scalarOp; exact key _
  | mpop f => rw [exec_mpop]; unfold execMpop scalar1 scalarOp; exact key _
  | mffs f => rw [exec_mffs]; unfold execMffs scalar1 scalarOp; exact key _
  | gaddi f => rw [exec_gaddi]; unfold execGaddi scalarOp; exact key _
  | gli f x => rw [exec_gli]; unfold execGli scalarOp; exact key _
  | glih f x => rw [exec_glih]; unfold execGlih scalarOp; exact key _
  | gld f x => rw [exec_gld]; unfold execGld; exact key _
  | gst f x => rw [exec_gst]; unfold execGst; exact key _
  | gatom f x => rw [exec_gatom]; unfold execGatom; exact key _
  | cpy f x => rw [exec_cpy]; unfold execCpy; exact key _
  | layout f x => rw [exec_layout]; unfold execLayout; exact key _
  | zfill f x => rw [exec_zfill]; unfold execZfill; exact key _
  | bfence f => rw [exec_bfence]; unfold execBfence; exact key _
  | bwait f => rw [exec_bwait]; unfold execBwait; exact key _
  | callred f x => rw [exec_callred]; unfold execCallred; exact key _
  | cgather f x => rw [exec_cgather]; unfold execCgather; exact key _
  | omap f x => rw [exec_omap]; unfold execOmap; exact key _
  | mma f x => rw [exec_mma]; unfold execMma; exact key _
  | msqd f x => rw [exec_msqd]; unfold execMsqd; exact key _
  | mtopk f x => rw [exec_mtopk]; unfold execMtopk; exact key _
  | mzero f x => rw [exec_mzero]; unfold execMzero; exact key _
  | mstore f x => rw [exec_mstore]; unfold execMstore; exact key _
  | maddt f x => rw [exec_maddt]; unfold execMaddt; exact key _
  | tcfg f x => rw [exec_tcfg]; unfold execTcfg; exact key _
  | tevict f x => rw [exec_tevict]; unfold execTevict; exact key _
  | trestore f x => rw [exec_trestore]; unfold execTrestore; exact key _
  | mutate f x => rw [exec_mutate]; unfold execMutate; exact key _
  | replay f x => rw [exec_replay]; unfold execReplay; exact key _
  | rrd f => rw [exec_rrd]; unfold execRrd scalarOp; exact key _
  | cvend f => rw [exec_cvend]; unfold execCvend; exact key _
  | launchd f x => rw [exec_launchd]; unfold execLaunchd; exact key _
  | gridsync f => rw [exec_gridsync]; unfold execGridsync; exact key _
  | rqput f => rw [exec_rqput]; unfold execRqput; exact key _
  | rqputn f => rw [exec_rqputn]; unfold execRqputn; exact key _
  | rqget f => rw [exec_rqget]; unfold execRqget; exact key _
  | rqgetn f => rw [exec_rqgetn]; unfold execRqgetn; exact key _
  | rqcnt f => rw [exec_rqcnt]; unfold execRqcnt; exact key _
  | yield f => rw [exec_yield]; unfold execYield; exact key _
  | sleep f => rw [exec_sleep]; unfold execSleep; exact key _
  | evsig f => rw [exec_evsig]; unfold execEvsig; exact key _
  | trap f => rw [exec_trap]; unfold execTrap; exact key _
  | trapc f => rw [exec_trapc]; unfold execTrapc; exact key _
  | tret f => rw [exec_tret]; unfold execTret; exact key _
  | tretGoto f => rw [exec_tretGoto]; unfold execTretGoto; exact key _
  | tretKill f => rw [exec_tretKill]; unfold execTretKill; exact key _
  | bkpt f => rw [exec_bkpt]; unfold execBkpt; exact key _
  | haltTeam f => rw [exec_haltTeam]; unfold execHaltTeam; exact key _
  | haltFlush f => rw [exec_haltFlush]; unfold execHaltFlush; exact key _
  | errrd f => rw [exec_errrd]; unfold execErrrd; exact key _
  | faultRecordWrite ctx => simp [hasWord, encode] at hw
  | fresumeRetry grove ctx seq => simp [hasWord, encode] at hw
  | fresumeAbort grove ctx seq => simp [hasWord, encode] at hw
  | ticmdPage win ctx tag => simp [hasWord, encode] at hw
  | ticmdContext win ctx tag => simp [hasWord, encode] at hw
  | ticmdGrove win grove tag => simp [hasWord, encode] at hw
  | ticmdAll win tag => simp [hasWord, encode] at hw
  | invalidationComplete win => simp [hasWord, encode] at hw
  | splitcfgWrite stand v => simp [hasWord, encode] at hw
  | l2WriteBack line => simp [hasWord, encode] at hw
  | patrolScrub sector found => simp [hasWord, encode] at hw
  | sramUncorrectableError at_ => simp [hasWord, encode] at hw
  | cacheParityError at_ => simp [hasWord, encode] at hw
  | mirrorWriteApply die idx => simp [hasWord, encode] at hw
  | spillFill u => simp [hasWord, encode] at hw
  | scratchpadWaitEnd u => simp [hasWord, encode] at hw
  | tileWaitEnd u => simp [hasWord, encode] at hw
  | queueWaitEnd u => simp [hasWord, encode] at hw
  | rendezvousWaitEnd u => simp [hasWord, encode] at hw
  | barrierPhaseComplete core team bar => simp [hasWord, encode] at hw
  | gridsyncPhaseComplete grid => simp [hasWord, encode] at hw
  | batchWaitComplete u => simp [hasWord, encode] at hw
  | convergentPerform u => simp [hasWord, encode] at hw
  | growGrant core slot => simp [hasWord, encode] at hw
  | evictedGroupReadmit core => simp [hasWord, encode] at hw
  | recordQueueWaitEnd u => simp [hasWord, encode] at hw
  | sleepExpiry u => simp [hasWord, encode] at hw
  | engineQueueRoom u => simp [hasWord, encode] at hw
  | launchQueueRoom u => simp [hasWord, encode] at hw
  | cpyPerform core team => simp [hasWord, encode] at hw
  | layoutPerform core team => simp [hasWord, encode] at hw
  | zfillPerform core team => simp [hasWord, encode] at hw
  | omapPerform core team => simp [hasWord, encode] at hw
  | mmaChunk core team => simp [hasWord, encode] at hw
  | msqdPerform core team => simp [hasWord, encode] at hw
  | mtopkPerform core team => simp [hasWord, encode] at hw
  | mzeroPerform core team => simp [hasWord, encode] at hw
  | mstorePerform core team => simp [hasWord, encode] at hw
  | maddtPerform core team => simp [hasWord, encode] at hw
  | tcfgPerform core team => simp [hasWord, encode] at hw
  | tevictPerform core team q => simp [hasWord, encode] at hw
  | trestorePerform core team q => simp [hasWord, encode] at hw
  | callredPerform core team => simp [hasWord, encode] at hw
  | cgatherPerform core team => simp [hasWord, encode] at hw
  | trunkPartialReceive core team => simp [hasWord, encode] at hw
  | traversalStep core slot lane => simp [hasWord, encode] at hw
  | marchStep core slot lane => simp [hasWord, encode] at hw
  | issueSelect q => simp [hasWord, encode] at hw
  | pathAged u => simp [hasWord, encode] at hw
  | debugRecordWrite grove => simp [hasWord, encode] at hw
  | stallRecordWrite grove => simp [hasWord, encode] at hw
  | qkick grove queue tail => simp [hasWord, encode] at hw
  | qcfgWrite grove queue v => simp [hasWord, encode] at hw
  | qstatHaltClear grove queue => simp [hasWord, encode] at hw
  | entryNop grove queue => simp [hasWord, encode] at hw
  | entryGraph grove queue => simp [hasWord, encode] at hw
  | entryInstall grove queue r => simp [hasWord, encode] at hw
  | entrySignal grove queue => simp [hasWord, encode] at hw
  | entryWait grove queue => simp [hasWord, encode] at hw
  | graphNodeStart grove queue node => simp [hasWord, encode] at hw
  | teamAdmission grid core => simp [hasWord, encode] at hw
  | deviceLaunchStart grove => simp [hasWord, encode] at hw
  | groupRetire core slot => simp [hasWord, encode] at hw
  | teamRetire core team => simp [hasWord, encode] at hw
  | gridEnd grid => simp [hasWord, encode] at hw
  | pscmdSave win ctx all team tag => simp [hasWord, encode] at hw
  | pscmdResume win ctx team tag core => simp [hasWord, encode] at hw
  | pscmdTeardown win ctx all team tag => simp [hasWord, encode] at hw
  | saveComplete win => simp [hasWord, encode] at hw
  | powerOn  => simp [hasWord, encode] at hw
  | fundamentalReset  => simp [hasWord, encode] at hw
  | bootAttempt links trained => simp [hasWord, encode] at hw
  | bootTimeout  => simp [hasWord, encode] at hw
  | bootcmdWarm  => simp [hasWord, encode] at hw
  | bootcmdSwap  => simp [hasWord, encode] at hw
  | flashcmd slot src => simp [hasWord, encode] at hw
  | lccmd dest auth owner => simp [hasWord, encode] at hw
  | standgrvWrite stand v => simp [hasWord, encode] at hw
  | ringRegisterWrite grove debug v => simp [hasWord, encode] at hw
  | gintAck grove v => simp [hasWord, encode] at hw
  | dbgstopArm grove v => simp [hasWord, encode] at hw
  | dbgstopGo grove => simp [hasWord, encode] at hw
  | trig grove => simp [hasWord, encode] at hw
  | triggerReceive ostamp origin => simp [hasWord, encode] at hw
  | hostPostedWrite pa data => simp [hasWord, encode] at hw
  | hostRead pa n => simp [hasWord, encode] at hw
  | apertureAccess grove off n data => simp [hasWord, encode] at hw
  | peerAccessArrival link off n data => simp [hasWord, encode] at hw
  | supplySag die => simp [hasWord, encode] at hw
  | sagRecoveryStep die => simp [hasWord, encode] at hw
  | registerWrite fn off v => simp [hasWord, encode] at hw
  | flashWriteComplete size => simp [hasWord, encode] at hw
  | peercfgWrite p v agrees => simp [hasWord, encode] at hw
  | peerLinkTrained p => simp [hasWord, encode] at hw

end Sys2Proof.Machine
end

