-- ==== Sys2Proof/Tests/Slice0.lean ====
section
/-! SUPPORT. Tests: ill-formed instructions refused, words of the spec decoded, single steps against the spec's worked examples and
tables, and a state and operands that meet the hypotheses of each statement. -/
namespace Sys2Proof.Tests

set_option Elab.async false
open Sys2Proof Sys2Proof.Machine

/-! Ill-formed instructions, one for each check. -/

/-- L-form word fields with everything 0. -/
def la : LA := { k := false, d := 0, a := 0, b := 0, m := 0 }
/-- G-form word fields with everything 0. -/
def ga : GA := { k := false, d := 0, a := 0, b := 0 }
/-- G-form immediate fields with everything 0. -/
def gi : GI := { k := false, d := 0, a := 0, imm := 0 }
/-- G-form fields of a shared opcode with everything 0. -/
def ga0 : GM := { k := false, d := 0, a := 0 }
/-- A plain access. -/
def memx : MemX := { ix := 0, scl := 0, ord := 0, scope := 0, pol := 0, sp := false, res := 0, off := 0 }
/-- A plain atomic add. -/
def atomx : AtomX := { ix := 0, scl := 0, ord := 0, scope := 0, res := 0, nr := false, aop := 0, off := 0 }
/-- A plain uniform access of 64 bits. -/
def gmemx : GmemX := { sz := 6, ixe := false, ord := 0, scope := 0, pol := 0, sp := false, res := 0, off := 0 }
/-- A copy with no guard. -/
def cpyx : CpyX := { mode := 0, pol := 0, res := false, soff := 0, res2 := 0, gsense := false, gslot := 0, gen := false }

/-- spec/07 R175 step 4: modifiers, fields that an opcode does not use, reserved bits of extension words. -/
theorem test_refuses_modifiers :
    (Instr.vadd { la with m := 4 }).wellFormed = false ∧ (Instr.vclz { la with b := 1 }).wellFormed = false ∧
    (Instr.fadd { la with m := 0 }).wellFormed = false ∧ (Instr.br { k := true, disp := 0 }).wellFormed = false ∧
    (Instr.vcmp la { cc := 0, mrg := false, sd := 0, res := 1 }).wellFormed = false ∧
    (Instr.ld { la with m := 5 } { memx with ix := 3 }).wellFormed = false ∧
    (Instr.ld { la with m := 4, b := 1 } memx).wellFormed = false ∧
    (Instr.ld { la with m := 4 } { memx with scope := 1 }).wellFormed = false ∧
    (Instr.ld { la with m := 4 } { memx with ord := 1, scope := 7 }).wellFormed = false ∧
    (Instr.ld { la with m := 4 } { memx with pol := 3 }).wellFormed = false ∧
    (Instr.atom la { atomx with aop := 9 }).wellFormed = false ∧ (Instr.atom { la with m := 4 } { atomx with aop := 1 }).wellFormed = false ∧
    (Instr.cpy ga { cpyx with gslot := 1 }).wellFormed = false ∧ (Instr.cpy ga { cpyx with mode := 6 }).wellFormed = false ∧
    (Instr.bar ga { roles := 0, seq := false, res := 0 }).wellFormed = false := by decide

/-- spec/07 R175 step 5: reserved source codes, odd registers of 64-bit types, s-registers beyond s159, K, ranges. -/
theorem test_refuses_operands :
    (Instr.vadd { la with a := 68 }).wellFormed = false ∧ (Instr.vadd { la with a := 71 }).wellFormed = false ∧
    (Instr.vadd { la with m := 2, a := 1 }).wellFormed = false ∧ (Instr.vadd { la with m := 2, d := 1 }).wellFormed = false ∧
    (Instr.gadd { ga with a := 160 }).wellFormed = false ∧ (Instr.gadd { ga with a := 251 }).wellFormed = false ∧
    (Instr.gadd { ga with d := 160 }).wellFormed = false ∧ (Instr.nop { ga with k := true }).wellFormed = false ∧
    (Instr.qput { ga with b := 8 }).wellFormed = false ∧ (Instr.vshli { k := false, d := 0, a := 0, imm := 32 }).wellFormed = false ∧
    (Instr.cpy { ga with b := 126 } { cpyx with mode := 4 }).wellFormed = false := by decide

/-- The same forms at the edge of what is legal. -/
theorem test_accepts_edges :
    (Instr.vadd { la with m := 3, a := 62, b := 67, d := 62 }).wellFormed = true ∧ (Instr.vadd { la with m := 2, a := 127, d := 1, k := true }).wellFormed = true ∧
    (Instr.gadd { ga with a := 159, b := 127, d := 159 }).wellFormed = true ∧ (Instr.gadd { ga with a := 252 }).wellFormed = true ∧
    (Instr.qput { ga with b := 7 }).wellFormed = true ∧ (Instr.vshli { k := false, d := 0, a := 0, imm := 31 }).wellFormed = true ∧
    (Instr.ld { la with m := 4 } { memx with ord := 1, scope := 6 }).wellFormed = true ∧
    (Instr.cpy { ga with b := 125 } { cpyx with mode := 5, gen := true, gslot := 15, gsense := true }).wellFormed = true := by decide

/-- spec/07 R175 step 3, R179: which units may issue what. -/
theorem test_wrong_units :
    (Instr.vadd la).wrongUnit (.seq 0 0) = true ∧ (Instr.cpy ga cpyx).wrongUnit (.path 0 0 0) = true ∧ (Instr.cpy ga cpyx).wrongUnit (.seq 0 0) = false ∧
    (Instr.qput ga).wrongUnit (.lant 0 0) = true ∧ (Instr.setg { gi with imm := 2 }).wrongUnit (.path 0 0 0) = true ∧
    (Instr.setg { gi with imm := 1 }).wrongUnit (.seq 0 0) = true ∧ (Instr.call { ga with b := 1 } { disp := 0, c := 0, csense := false, cen := false }).wrongUnit (.seq 0 0) = true ∧
    (Instr.gadd ga).wrongUnit (.lant 0 0) = false := by decide

/-! Words that the spec writes out (spec/17 to spec/21, and the entries of the instructions). -/

/-- What one word decodes to. -/
def word1 (w : Nat) : Option Instr := decodeTableWord 32 w
/-- What two words decode to. -/
def word2 (w x : Nat) : Option Instr := decodeTableWord 64 (w + x * 2 ^ 32)

/-- Lane arithmetic: spec/17 step table, spec/18 step table, spec/20 step table. -/
theorem test_words_lane :
    word1 0x01040A6A = some (.vadd { k := false, d := 2, a := 2, b := 77, m := 2 }) ∧
    word1 0x0A300A52 = some (.vxor { k := false, d := 24, a := 2, b := 74, m := 2 }) ∧
    word1 0x0B0F8031 = some (.vshl { k := false, d := 7, a := 96, b := 6, m := 1 }) ∧
    word1 0x090C4081 = some (.vor { k := false, d := 6, a := 16, b := 16, m := 1 }) ∧
    word1 0x14162C51 = some (.vsel { k := false, d := 11, a := 11, b := 10, m := 1 }) ∧
    word2 0x15060000 0 = some (.vli { la with d := 3 } { lit := 0 }) ∧
    word2 0x160026C1 0x00000020 = some (.vcmp { k := false, d := 0, a := 9, b := 88, m := 1 } { cc := 0, mrg := false, sd := 2, res := 0 }) ∧
    word1 0x180E1854 = some (.fadd { k := false, d := 7, a := 6, b := 10, m := 4 }) ∧
    word1 0x19101C64 = some (.fmul { k := false, d := 8, a := 7, b := 12, m := 4 }) ∧
    word1 0x1A161864 = some (.ffma { k := false, d := 11, a := 6, b := 12, m := 4 }) ∧
    word1 0x1C264CB4 = some (.fmax { k := false, d := 19, a := 19, b := 22, m := 4 }) ∧
    word2 0x1D003C54 0x00000043 = some (.fcmp { k := false, d := 0, a := 15, b := 10, m := 4 } { cc := 3, mrg := false, sd := 4, res := 0 }) ∧
    word1 0x22101804 = some (.fsqrt { k := false, d := 8, a := 6, b := 0, m := 4 }) ∧
    word1 0x25264404 = some (.sint { k := false, d := 19, a := 17, b := 0, m := 4 }) ∧
    word1 0x26121C04 = some (.cost { k := false, d := 9, a := 7, b := 0, m := 4 }) := by decide

/-- Memory instructions: spec/17, spec/18, spec/19, spec/20. -/
theorem test_words_memory :
    word2 0x38094C1D 0x0000000D = some (.ld { k := false, d := 4, a := 83, b := 3, m := 5 } { memx with ix := 1, scl := 3 }) ∧
    word2 0x39181002 0x000C0000 = some (.st { k := false, d := 12, a := 4, b := 0, m := 2 } { memx with off := 12 }) ∧
    word2 0x3B0B6474 0x00000001 = some (.sts { k := false, d := 5, a := 89, b := 14, m := 4 } { memx with ix := 1 }) ∧
    word2 0x3C212400 0x00400000 = some (.ldq { k := false, d := 16, a := 73, b := 0, m := 0 } { memx with off := 0x40 }) ∧
    word2 0x41156401 0 = some (.acass { k := false, d := 10, a := 89, b := 0, m := 1 } atomx) ∧
    word2 0xB0010080 0x04600006 = some (.gld { k := false, d := 2, a := 1, b := 0 } { gmemx with off := 0x460 }) ∧
    word2 0xB0040300 0x00000116 = some (.gld { k := false, d := 8, a := 6, b := 0 } { gmemx with ord := 1, scope := 4 }) ∧
    word2 0xB0058200 0x00000804 = some (.gld { k := false, d := 11, a := 4, b := 0 } { gmemx with sz := 4, sp := true }) ∧
    word2 0xB1010080 0x03580006 = some (.gst { k := false, d := 2, a := 1, b := 0 } { gmemx with off := 0x358 }) := by decide

/-- Uniform instructions, control flow, team objects, system names: spec/17 to spec/20. -/
theorem test_words_uniform :
    word1 0x9E028286 = some (.gshl { k := false, d := 5, a := 5, b := 6 }) ∧ word1 0x99020204 = some (.gsub { k := false, d := 4, a := 4, b := 4 }) ∧
    word1 0xA50E0E00 = some (.mpop { k := false, d := 28, a := 28, b := 0 }) ∧
    word2 0xA4048400 0x00000020 = some (.gcmp { k := false, d := 9, a := 8, b := 0 } { cc := 0, u := false, all := false, bi := true, imm := 0, res := 0 }) ∧
    word2 0xA8028000 0x00004600 = some (.gli { ga with d := 5 } { lit := 0x4600 }) ∧
    word2 0xA9038380 0x00000002 = some (.glih { ga with d := 7, a := 7 } { lit := 2 }) ∧
    word1 0x817FFFE9 = some (.br { k := false, disp := -23 }) ∧ word1 0x8204FFFC = some (.brc { k := false, c := 9, disp := -4 }) ∧
    word1 0x83020005 = some (.brd { k := false, c := 4, disp := 5 }) ∧ word1 0x87000380 = some (.idle { ga with a := 7 }) ∧
    word1 0x8F0F0000 = some (.qget { ga with d := 30 }) ∧ word1 0x9202D400 = some (.sysrd { ga with d := 5, a := 168 }) ∧
    word2 0x90000001 0x00000003 = some (.bar { ga with b := 1 } { roles := 3, seq := false, res := 0 }) ∧
    word2 0x90000000 0x00000013 = some (.bar ga { roles := 3, seq := true, res := 0 }) := by decide

/-- Engines, the trunk, choice vectors, rays, scheduling: spec/17 to spec/20. -/
theorem test_words_engines :
    word1 0xB6000000 = some (.bfence gi) ∧ word1 0xB7000000 = some (.bwait gi) ∧
    word2 0xC7000304 0 = some (.tcfg { ga with a := 6, b := 4 } { sm1 := 0, res := 0, gsense := false, gslot := 0, gen := false }) ∧
    word2 0xC6000380 0 = some (.maddt { ga with a := 7 } { tile := 0, res := 0, gsense := false, gslot := 0, gen := false }) ∧
    word2 0x49002445 0 = some (.tadd { k := false, d := 0, a := 9, b := 8, m := 5 } { coff := 0, roff := 0, res := 0 }) ∧
    word2 0x4A182A85 0x00000007 = some (.tnorm { k := false, d := 12, a := 10, b := 80, m := 5 } { se := 7, res := 0 }) ∧
    word1 0x4C014401 = some (.tsync { k := false, d := 0, a := 81, b := 0, m := 1 }) ∧
    word1 0x500008C0 = some (.cvbind { k := false, d := 0, a := 2, b := 24, m := 0 }) ∧
    word1 0x510C000C = some (.draw { k := false, d := 6, a := 0, b := 1, m := 4 }) ∧ word1 0x54005404 = some (.result { k := false, d := 0, a := 21, b := 0, m := 4 }) ∧
    word2 0x55034C01 0 = some (.rcmp { k := false, d := 1, a := 83, b := 0, m := 1 } { astr := 0, res := 0 }) ∧
    word1 0xD3000000 = some (.cvend ga) ∧ word2 0xD0010184 0 = some (.mutate { k := false, d := 2, a := 3, b := 4 } { kind := 0, res := 0 }) ∧
    word2 0xD1030287 0 = some (.replay { k := false, d := 6, a := 5, b := 7 } { qpri := 0, res := 0 }) ∧
    word2 0x5D084260 0x00000002 = some (.vmarch { k := false, d := 4, a := 16, b := 76, m := 0 } { strm := 2, den := false, next := false, res := 0 }) ∧
    word1 0x5E120008 = some (.vmrd { k := false, d := 9, a := 0, b := 1, m := 0 }) ∧ word1 0x5F006800 = some (.rsave { la with a := 26 }) ∧
    word1 0xDC050180 = some (.rqget { k := false, d := 10, a := 3, b := 0 }) := by decide

/-! Small states: one unit at a placed instruction, and what a test adds to it. -/

/-- The path, the sequencer, the lantern program that the small states have. -/
def p0 : UnitId := .path 0 0 0
def q0 : UnitId := .seq 0 0
def l0 : UnitId := .lant 0 0
/-- A path of 32 lanes whose turn it is. -/
def pathAt : State := State.reset.placeCode p0 0
/-- Its team's sequencer, whose turn it is. -/
def seqAt : State := State.reset.placeCode q0 0
/-- A lantern program whose turn it is. -/
def lantAt : State :=
  { (State.reset.placeCode p0 0).onLantern 0 fun l => { l with progs := Tab.empty.put 0 { Prog.none with th := Thread.startAt placedVa 0 } } with turn := some l0 }
/-- A path of the one lane 0. -/
def one : State := pathAt.onGroup 0 0 fun g => { g with launched := 1, paths := g.paths.put 0 { g.path 0 with mask := 1 } }
/-- Lane `l` of the path has `v` in register `k`. -/
def withV (s : State) (l k : Nat) (v : Word) : State := s.onGroup 0 0 fun g => { g with vregs := g.vregs.put (vSlot l (if k < 16 then k else vIndex 0 k)) v }
/-- The group, the team and the program have `v` in s-register `k`. -/
def withS (s : State) (k : Nat) (v : Dword) : State :=
  (((s.onGroup 0 0 fun g => { g with sregs := g.sregs.put k v }).onTeam 0 0 fun t => { t with seqRegs := t.seqRegs.put k v })).onProg 0 0 fun p =>
    { p with sregs := p.sregs.put k v }
/-- The context has a trap handler. -/
def withTrap (s : State) : State := s.onCtx 0 fun c => { c with trapv := 0x20000 }
/-- The page of the context may be read and written, not fetched (spec/01 R24). -/
def withData (s : State) : State := { s with mem := s.mem.write 0x200000 (natLe 8 (placedFrame + 0x54F)) }
/-- Unit `u` has a valid latch in each place of both pipes. -/
def withLatches (s : State) (u : UnitId) : State :=
  s.onRun u fun r => { r with lat := List.replicate 4 (some .empty), ulat := List.replicate 4 (some 5) }
/-- Unit `u` waits in instruction `i`. -/
def waitingIn (s : State) (u : UnitId) (i : Instr) (lo : Nat) : State :=
  s.onThread u fun t => { t with state := .waiting, wait := some { instr := i, lo := lo } }
/-- The state that an answer gives. -/
def next (a : Answer) : State := match a with
  | .next t => t
  | _ => State.reset

/-- May `u` issue `i` in `s`: its turn, and no check of issue fails? -/
def may (s : State) (u : UnitId) (i : Instr) : Bool := s.turn == some u && (s.preCheck u i).isNone
theorem issues_of_may {s : State} {u : UnitId} {i : Instr} (h : may s u i = true) : s.Issues u i := by
  simp only [may, Bool.and_eq_true, beq_iff_eq, Option.isNone_iff_eq_none] at h
  exact ⟨h.1, h.2⟩
theorem issues_all {s : State} {u : UnitId} {l : List Instr} (h : l.all (may s u) = true) : ∀ i ∈ l, s.Issues u i :=
  fun i hi => issues_of_may (List.all_eq_true.mp h i hi)
theorem issues_each {u : UnitId} {l : List (State × Instr)} (h : (l.all fun x => may x.1 u x.2) = true) : ∀ x ∈ l, x.1.Issues u x.2 :=
  fun x hx => issues_of_may (List.all_eq_true.mp h x hx)
/-- May an event end the wait of `u` in `i`? -/
def mayWake (s : State) (u : UnitId) (i : Instr) : Bool :=
  s.alive u && (s.thread u).waiting == some i && (s.preCheck u i).isNone
theorem comes_of_mayWake {s : State} {u : UnitId} {i : Instr} (ev : Instr) (h : mayWake s u i = true) : s.ComesTo u i ev (exec ev s) := by
  simp only [mayWake, Bool.and_eq_true, beq_iff_eq, Option.isNone_iff_eq_none] at h
  exact .inr ⟨h.1.1, h.1.2, h.2, rfl⟩
theorem comes_of_may {s : State} {u : UnitId} {i : Instr} (ev : Instr) (h : may s u i = true) : s.ComesTo u i ev (exec i s) :=
  .inl ⟨issues_of_may h, rfl⟩

/-! States and operands that meet the hypotheses of the statements, one for each clause. -/

/-- LaneIntegers: each operation in both widths. -/
theorem witness_LaneIntegers (m : BitVec 3) (h : m ∈ [0, 1, 2, 3]) :
    let f : LA := { la with m := m, b := 72 }
    ∀ i ∈ [Instr.vadd f, .vsub f, .vmul f, .vmulh f, .vmin f, .vmax f, .vand f, .vor f, .vxor f, .vshl f, .vshr f, .vsar f], pathAt.Issues p0 i :=
  issues_all ((by decide +kernel : ∀ m ∈ ([0, 1, 2, 3] : List (BitVec 3)), let f : LA := { la with m := m, b := 72 }
    [Instr.vadd f, .vsub f, .vmul f, .vmulh f, .vmin f, .vmax f, .vand f, .vor f, .vxor f, .vshl f, .vshr f, .vsar f].all (may pathAt p0) = true) m h)
theorem witness_LaneIntegers_bits : (∀ i ∈ [Instr.vclz { la with m := 3 }, .vpopc la], pathAt.Issues p0 i) ∧ pathAt.turn = some p0 ∧ p0.isPath = true ∧
    3 < (4 : BitVec 3).toNat ∧ Instr.vpopc { la with b := 1 } ∈ [Instr.vclz { la with b := 1 }, .vpopc { la with b := 1 }] ∧ { la with b := 1 }.b ≠ 0 :=
  by and_intros <;> first | decide +kernel | exact issues_all (by decide +kernel)
/-- LaneImmediates: the immediates at both ends of their ranges and beyond them. -/
theorem witness_LaneImmediates_refused : pathAt.turn = some p0 ∧ p0.isPath = true ∧ (-1 : BitVec 10).toInt < 0 ∧ 31 < (32 : BitVec 10).toInt ∧
    { la with m := 1 }.m ≠ 0 := by decide +kernel
theorem witness_LaneImmediates : ∀ i ∈ [Instr.vaddi { k := false, d := 0, a := 0, imm := -512 },
    .vaddi { k := false, d := 0, a := 0, imm := 511 }, .vshli { k := false, d := 0, a := 0, imm := 31 }, .vshri { k := false, d := 0, a := 0, imm := 0 },
    .vsari { k := false, d := 0, a := 0, imm := 31 }, .vli la { lit := 5 }, .vsel { la with m := 7, b := 72 }], pathAt.Issues p0 i :=
  issues_all (by decide +kernel)
/-- LaneAccumulates, with K = 0 and with K = 1. -/
theorem witness_LaneAccumulates : ∀ i ∈ [Instr.vmad la, .ffma { la with m := 4 }, .bfma2 { la with m := 5 }, .vmad { la with k := true },
    .ffma { la with m := 5, k := true }, .bfma2 { la with m := 5, k := true }], pathAt.Issues p0 i := issues_all (by decide +kernel)
theorem witness_LaneCompares (c : Nat) (h : c < 8) : ∀ i ∈ [Instr.vcmp { la with m := 3, a := 2 } { cc := BitVec.ofNat 3 c, mrg := true, sd := 159, res := 0 },
    .fcmp { la with m := 4 } { cc := BitVec.ofNat 3 c, mrg := false, sd := 0, res := 0 }], pathAt.Issues p0 i :=
  issues_all ((by decide +kernel : ∀ c < 8, [Instr.vcmp { la with m := 3, a := 2 } { cc := BitVec.ofNat 3 c, mrg := true, sd := 159, res := 0 },
    .fcmp { la with m := 4 } { cc := BitVec.ofNat 3 c, mrg := false, sd := 0, res := 0 }].all (may pathAt p0) = true) c h)
theorem witness_LaneCompares_refused : pathAt.turn = some p0 ∧ p0.isPath = true ∧ decide ((4 : BitVec 3).toNat ≤ 3) = false ∧ (pathAt.thread p0).pc.toNat % 64 ≠ 60 ∧
    160 ≤ (160 : BitVec 8).toNat := by decide +kernel
theorem witness_LaneFloats : ∀ i ∈ [Instr.fadd { la with m := 4 }, .fmul { la with m := 5 }, .fmin { la with m := 4 }, .fmax { la with m := 5 }, .frcp { la with m := 4 },
    .frsq { la with m := 4 }, .fsqrt { la with m := 5 }, .fexp2 { la with m := 4 }, .flog2 { la with m := 4 }, .sint { la with m := 4 }, .cost { la with m := 4 }],
    pathAt.Issues p0 i := issues_all (by decide +kernel)
/-- LaneConversions: every destination type, from every source type that differs. -/
theorem witness_LaneConversions (m b : Nat) (hm : m < 8) (hb : b < 8) (h : m ≠ b) :
    pathAt.Issues p0 (.cvt { la with m := BitVec.ofNat 3 m, b := BitVec.ofNat 7 b }) :=
  issues_of_may ((by decide +kernel : ∀ m < 8, ∀ b < 8, m ≠ b → may pathAt p0 (.cvt { la with m := BitVec.ofNat 3 m, b := BitVec.ofNat 7 b }) = true) m hm b hb h)
/-- CrossLaneMoves: a register, a broadcast and a latch as the source, VBCAST from s0 and from a lane register. -/
theorem witness_CrossLaneMoves : ∀ i ∈ [Instr.vperm { la with b := 3 }, .vperm { la with a := 127, b := 3 }, .vshfl { la with m := 3, b := 72 }, .vbcast { la with b := 72 },
    .vbcast { la with b := 3 }, .vshfl { la with a := 67 }, .vmatch { la with m := 3 }], (withLatches pathAt p0).Issues p0 i := issues_all (by decide +kernel)
/-- Convergents: a path alone in its family. -/
theorem witness_Convergents : pathAt.family p0 = [] ∧ ∀ i ∈ [Instr.vvote { la with m := 1 } { mode := 3, sd := 9, res := 0 }, .vreduce { la with m := 4 }, .vscan { la with b := 8 }], pathAt.Issues p0 i :=
  ⟨by decide +kernel, issues_all (by decide +kernel)⟩
/-- A second path of the family, ready elsewhere. -/
def twoPaths : State := pathAt.onGroup 0 0 fun g =>
  { g with paths := (g.paths.put 0 { g.path 0 with mask := 0xFFFF }).put 1 { g.path 0 with mask := 0xFFFF0000, th := Thread.startAt 0x20000 0 } }
theorem witness_Convergents_waits : let s' := twoPaths.dropOut p0 (some (twoPaths.thread p0).pc)
    (∃ k ∈ s'.family p0, k.2.th.gathers = false ∧ ∀ j ∈ s'.family p0, j.1 = k.1 → j.2.th.out (twoPaths.thread p0).pc = false) ∧
      twoPaths.Issues p0 (.vreduce { la with m := 4 }) := ⟨by decide +kernel, issues_of_may (by decide +kernel)⟩
theorem witness_Convergents_perform : let s := waitingIn pathAt p0 (.vreduce { la with m := 4 }) 0
    (s.thread p0).state = .waiting ∧ s.family p0 = [] ∧ s.preCheck p0 (.vreduce { la with m := 4 }) = none := by decide +kernel
theorem witness_Reductions_values : ∀ v ∈ [(0, (0xFFFFFFFF : Dword)), (31, 1)], v.2.toNat < 2 ^ typeW 1 := by decide
/-- Rendezvous: an empty and a FULL slot, at the issue and as a wait ends. -/
def fullSlot (s : State) : State := s.onTeam 0 0 fun t => { t with xslots := t.xslots.put 15 { mask := 0xFFFF, vals := .empty } }
theorem witness_Rendezvous : let send : Instr := .xsend { la with m := 3 } { slot := 15, res := 0 }
    let recv : Instr := .xrecv { la with m := 1 } { slot := 15, res := 0 }
    pathAt.Issues p0 send ∧ pathAt.Issues p0 recv ∧ (fullSlot pathAt).Issues p0 send ∧ (fullSlot pathAt).Issues p0 recv ∧
    mayWake (waitingIn pathAt p0 send 0) p0 send = true ∧ mayWake (waitingIn (fullSlot pathAt) p0 recv 0) p0 recv = true ∧
    (pathAt.teamOf p0).xslots.find 15 = none ∧ ((fullSlot pathAt).teamOf p0).xslots.find 15 ≠ none :=
  by and_intros <;> first | decide +kernel | exact issues_of_may (by decide +kernel)

/-- Does an access pass its checks without waiting? -/
def passes (s : State) (u : UnitId) (sp : Bool) (k : Kind) (n : Nat) (ea : Dword) (req : Nat := 0) : Bool :=
  !s.mustWait u sp n ea && (match s.accessCheck u sp k n req ea with
    | .ok _ => true
    | .error _ => false)
/-- What an access that passes is ready to reach. -/
def readyOf (s : State) (u : UnitId) (sp : Bool) (k : Kind) (n : Nat) (ea : Dword) (req : Nat := 0) : Ready := match s.accessCheck u sp k n req ea with
  | .ok r => r
  | .error _ => { addr := ea, xl := none }
theorem lanesReady_of {s : State} {u : UnitId} {sp : Bool} {k : Kind} {n req : Nat} {ea : Nat → Dword}
    (h : ((s.maskOf u).lanes.all fun l => passes s u sp k n (ea l) req) = true) : s.LanesReady u sp k n req ea fun l => readyOf s u sp k n (ea l) req := by
  intro l hl
  have := List.all_eq_true.mp h l hl
  simp only [passes, Bool.and_eq_true, Bool.not_eq_true'] at this
  refine ⟨this.1, ?_⟩
  have h2 := this.2
  simp only [readyOf]
  split at h2
  · simp_all
  · simp at h2
/-- The addresses of a lane instruction whose a field is 72 (s0) and that has no index. -/
def eaOf (s : State) (u : UnitId) (x : MemX) : Nat → Dword := s.laneAddr u 72 0 x.ix.toNat x.scl.toNat x.off
/-- The request of a plain load. -/
def plainReq : Nat := viewReq (reqOf memx.pol.toNat) memx.ord.toNat memx.scope.toNat
/-- Every lane reads its page of global memory, or the last bytes of the scratchpad. -/
def globalAt : State := withS (withData one) 0 0x10040
def spadAt (n : Nat) : State := withS one 0 (BitVec.ofNat 64 (4096 - n))

theorem witness_LaneLoads : (∀ m < 6, globalAt.Issues p0 (.ld { la with a := 72, m := BitVec.ofNat 3 m } memx)) ∧
    (globalAt.LanesReady p0 false .load 8 plainReq (eaOf globalAt p0 memx) fun l => readyOf globalAt p0 false .load 8 (eaOf globalAt p0 memx l) plainReq) ∧
    (spadAt 8).Issues p0 (.lds { la with a := 72, m := 5 } memx) ∧
    ((spadAt 8).LanesReady p0 true .load 8 plainReq (eaOf (spadAt 8) p0 memx) fun l => readyOf (spadAt 8) p0 true .load 8 (eaOf (spadAt 8) p0 memx l) plainReq) :=
  ⟨fun m h => issues_of_may ((by decide +kernel : ∀ m < 6, may globalAt p0 (.ld { la with a := 72, m := BitVec.ofNat 3 m } memx) = true) m h),
    lanesReady_of (by decide +kernel), issues_of_may (by decide +kernel), lanesReady_of (by decide +kernel)⟩
theorem witness_LaneStores : (∀ i ∈ [Instr.st { la with a := 72, m := 5 } memx, .stq { la with a := 72, d := 60 } memx], globalAt.Issues p0 i) ∧
    (globalAt.LanesReady p0 false .store 16 0 (eaOf globalAt p0 memx) fun l => readyOf globalAt p0 false .store 16 (eaOf globalAt p0 memx l)) ∧
    (∀ i ∈ [Instr.sts { la with a := 72, m := 5 } memx, .stq { la with a := 72, d := 60 } { memx with sp := true }], (spadAt 16).Issues p0 i) ∧
    ((spadAt 16).LanesReady p0 true .store 16 0 (eaOf (spadAt 16) p0 memx) fun l => readyOf (spadAt 16) p0 true .store 16 (eaOf (spadAt 16) p0 memx l)) :=
  by and_intros <;> first | decide +kernel | exact issues_all (by decide +kernel) | exact lanesReady_of (by decide +kernel)
theorem witness_LaneQuads : (∀ i ∈ [Instr.ldq { la with a := 72, d := 60 } memx, .ldq { la with a := 72, d := 61 } memx, .stq { la with a := 72, d := 61 } memx], globalAt.Issues p0 i) ∧
    (globalAt.LanesReady p0 false .load 16 plainReq (eaOf globalAt p0 memx) fun l => readyOf globalAt p0 false .load 16 (eaOf globalAt p0 memx l) plainReq) :=
  ⟨issues_all (by decide +kernel), lanesReady_of (by decide +kernel)⟩
theorem witness_LaneAtomics : (∀ i ∈ [Instr.atom { la with a := 72, m := 4 } { atomx with aop := 7 }, .acas { la with a := 72, m := 3 } atomx, .aaddx { la with a := 72, m := 7 } { atomx with nr := true }],
      globalAt.Issues p0 i) ∧
    (globalAt.LanesReady p0 false .atomic 8 0 (eaOf globalAt p0 memx) fun l => readyOf globalAt p0 false .atomic 8 (eaOf globalAt p0 memx l)) ∧
    (∀ i ∈ [Instr.atoms { la with a := 72, m := 1 } { atomx with aop := 6, nr := true }, .acass { la with a := 72, m := 1 } atomx], (spadAt 4).Issues p0 i) ∧
    ((spadAt 4).LanesReady p0 true .atomic 4 0 (eaOf (spadAt 4) p0 memx) fun l => readyOf (spadAt 4) p0 true .atomic 4 (eaOf (spadAt 4) p0 memx l)) ∧
    (globalAt.caches 0).wbuf = [] ∧ (globalAt.maskOf p0).lanes = [0] :=
  by and_intros <;> first | decide +kernel | exact issues_all (by decide +kernel) | exact lanesReady_of (by decide +kernel)
/-- FencesAndPrefetch: each kind, at the narrowest and the widest scope. -/
theorem witness_FencesAndPrefetch : ∀ i ∈ [Instr.fence la { kind := 1, scope := 2, res := 0 }, .fence la { kind := 2, scope := 3, res := 0 }, .fence la { kind := 3, scope := 6, res := 0 },
    .fence la { kind := 1, scope := 0, res := 0 }, .pref { la with a := 72 } memx, .pref { la with a := 72, m := 1 } memx], globalAt.Issues p0 i :=
  issues_all (by decide +kernel)
/-- One sector of a lane's data, held dirty by its slice. -/
def heldAt : State := { withV (withS (withData one) 0 0x10040) 0 0 64 with l2 := Tab.empty.put ((placedFrame + 0x10040) / 256) { z := false, vs := 2, ds := 2 } }
theorem witness_Discards : let x : Instr := .discard { la with a := 72, b := 0 } memx
    heldAt.Issues p0 x ∧ (heldAt.maskOf p0).lanes = [0] ∧ (heldAt.srcL p0 0 0 32).toNat = 64 ∧ (eaOf heldAt p0 memx 0).toNat % 64 = 0 ∧
    (match heldAt.translate 0 0 (eaOf heldAt p0 memx 0) .discard with
      | .ok y => !y.mir && inHbm y.pa && y.pa % 64 == 0 && (heldAt.line y.pa).any fun k => k.vs.getLsbD (y.pa / 64 % 4)
      | .error _ => false) = true ∧
    (withS one 0 0).Issues p0 (.discard { la with a := 72, b := 0 } { memx with sp := true }) :=
  by and_intros <;> first | decide +kernel | exact issues_of_may (by decide +kernel)
/-- UniformAccesses: from a path, a sequencer and a lantern program; of the scratchpad at its end. -/
theorem witness_UniformAccesses :
    (∀ i ∈ [Instr.gld ga gmemx, .gst ga gmemx, .gatom ga { ty := 4, ixe := false, ord := 3, scope := 6, res := 0, sp := false, aop := 7, off := 0 },
      .gatom { ga with d := 158 } { ty := 2, ixe := false, ord := 0, scope := 0, res := 0, sp := false, aop := 8, off := 0 }], (withS (withData seqAt) 0 0x10040).Issues q0 i) ∧
    passes (withS (withData seqAt) 0 0x10040) q0 false .load 8 0x10040 = true ∧ passes (withS (withData seqAt) 0 0x10040) q0 false .store 8 0x10040 = true ∧
    passes (withS (withData seqAt) 0 0x10040) q0 false .atomic 8 0x10040 = true ∧
    passes (withS (withData lantAt) 0 0x10040) l0 false .load 8 0x10040 = true ∧ lantAt.Issues l0 (.gld ga gmemx) ∧
    (spadAt 8).Issues p0 (.gld ga { gmemx with sp := true }) ∧ passes (spadAt 8) p0 true .load 8 4088 = true ∧
    mayWake (waitingIn (spadAt 8) p0 (.gld ga { gmemx with sp := true }) 0) p0 (.gld ga { gmemx with sp := true }) = true ∧
    lantAt.Issues l0 (.gld ga { gmemx with sp := true }) ∧ spOk l0 true = false :=
  by and_intros <;> first | decide +kernel | exact issues_of_may (by decide +kernel) | exact issues_all (by decide +kernel)
/-- AccessChecks: each check at its boundary. -/
theorem witness_AccessChecks : (1 : Dword).toNat % 8 ≠ 0 ∧ ¬ ((4096 : Dword).toNat < 2 ^ 20 ∧ 4096 + 8 ≤ (pathAt.teamOf p0).spSize) ∧ 4088 + 8 ≤ (pathAt.teamOf p0).spSize ∧
    (pathAt.onCore 0 fun c => { c with spPoison := [63] }).spPoisoned 0 0 4088 8 = true ∧ pathAt.spPoisoned 0 0 4088 8 = false ∧ 2 ^ 56 ≤ (0x100000000000000 : Dword).toNat := by
  decide +kernel

/-- ScalarResults, on each kind of unit. -/
theorem witness_ScalarResults :
    let l : List Instr := [.gadd ga, .gsub ga, .gmul ga, .gand ga, .gor ga, .gxor ga, .gshl ga, .gshr ga, .gsar ga, .gmin ga, .gmax ga, .mpop ga, .mffs ga, .getfmt ga,
      .gaddi { gi with imm := -64 }, .gli ga { lit := 0 }, .glih ga { lit := 0xFFFFFFFF }, .gsel ga, .gsel { ga with k := true },
      .gcmp ga { cc := 7, u := false, all := true, bi := false, imm := 0, res := 0 }, .gcmp ga { cc := 5, u := true, all := false, bi := true, imm := -1, res := 0 }, .nop ga, .setfmt ga]
    (∀ i ∈ l, pathAt.Issues p0 i) ∧ (∀ i ∈ l, seqAt.Issues q0 i) ∧ ∀ i ∈ l, lantAt.Issues l0 i :=
  ⟨issues_all (by decide +kernel), issues_all (by decide +kernel), issues_all (by decide +kernel)⟩
theorem witness_ScalarResults_refused : pathAt.turn = some p0 ∧ seqAt.turn = some q0 ∧ lantAt.turn = some l0 ∧ { ga with b := 1 }.b ≠ 0 ∧
    (pathAt.thread p0).pc.toNat % 64 ≠ 60 ∧ (∀ c ∈ [0, 1, 6, 7], (BitVec.ofNat 3 c).toNat ∈ [0, 1, 6, 7]) := by decide +kernel
/-- Branches: BRD with a mask that holds all the path's lanes, and with one that holds none. -/
theorem witness_Branches : (∀ i ∈ [Instr.br { k := false, disp := -4194304 }, .brc { k := false, c := 252, disp := 16383 }, .brx ga, .brd { k := false, c := 0, disp := 5 }],
      (withLatches pathAt p0).Issues p0 i) ∧ pathAt.maskOf p0 &&& ~~~((withS pathAt 0 0xFFFFFFFF).srcG p0 0) = 0 ∧
    pathAt.maskOf p0 &&& ~~~(pathAt.srcG p0 0) ≠ 0 ∧ pathAt.maskOf p0 &&& pathAt.srcG p0 0 = 0 := ⟨issues_all (by decide +kernel), by and_intros <;> decide +kernel⟩
/-- BrdDivides: at top level by slices of four lanes; under a stack with room; under one that is full. -/
def underStack (s : State) (n : Nat) : State := s.onGroup 0 0 fun g =>
  { g with paths := g.paths.put 0 { g.path 0 with stk := 0, stkv := true }, stack := (List.range n).foldl (fun t k => t.put k StackEntry.none) .empty }
theorem witness_BrdDivides : let i : Instr := .brd { k := false, c := 0, disp := 5 }
    let s := withS pathAt 0 0x0F0C
    let q := withS pathAt 0 0xF0F0
    q.Issues p0 i ∧ q.maskOf p0 &&& q.srcG p0 0 ≠ 0 ∧ q.maskOf p0 &&& ~~~(q.srcG p0 0) ≠ 0 ∧ (q.group 0 0).paths.free 32 = some 1 ∧
    (∀ a < 64, ∀ b < 64, a / 4 = b / 4 → (q.maskOf p0).getLsbD a = true → (q.maskOf p0).getLsbD b = true → (q.srcG p0 0).getLsbD a = (q.srcG p0 0).getLsbD b) ∧
    (underStack s 1).Issues p0 i ∧ ((underStack s 1).pathOf p0).stkv = true ∧ ((underStack s 1).group 0 0).stack.free 64 = some 1 ∧
    (underStack s 64).Issues p0 i ∧ ((underStack s 64).group 0 0).stack.free 64 = none :=
  by and_intros <;> first | decide +kernel | exact issues_of_may (by decide +kernel)
/-- JoinsAndRegangs: at top level; a serial entry in its first and its second half, at its address and elsewhere; an arm whose partner has and has not arrived. -/
def serial (half : Bool) (ppc : Dword) : State := pathAt.onGroup 0 0 fun g =>
  { g with paths := g.paths.put 0 { g.path 0 with stkv := true }, stack := Tab.empty.put 0 { StackEntry.none with half := half, ppc := ppc, pmask := 1, rmask := 3 } }
def arms (st : PathState) : State := pathAt.onGroup 0 0 fun g =>
  { g with
    paths := (g.paths.put 0 { g.path 0 with arm := true, partner := 1, stkv := true, mask := 0xF }).put 1
      { g.path 0 with arm := true, partner := 0, stkv := true, mask := 0xF0, th := { Thread.startAt placedVa 0 with state := st } }
    stack := Tab.empty.put 0 { StackEntry.none with kind := true, rmask := 0xFF } }
theorem witness_JoinsAndRegangs : (∀ s ∈ [pathAt, serial false 0x20000, serial true placedVa, serial true 0x20000, arms .ready, arms .atJoin], s.Issues p0 (.join ga)) ∧
    (∀ s ∈ [pathAt, twoPaths, serial false 0, arms .ready], s.Issues p0 (.regang ga)) ∧
    ((arms .ready).dropOut p0 none).pathOf p0 = (arms .ready).pathOf p0 ∧ (((arms .atJoin).dropOut p0 none).group 0 0).paths.find 1 ≠ none ∧
    (∀ l < 64, (pathAt.group 0 0).live.getLsbD l = true → (pathAt.pathOf p0).mask.getLsbD l = true) ∧
    (twoPaths.group 0 0).live.getLsbD 31 = true ∧ (twoPaths.pathOf p0).mask.getLsbD 31 = false :=
  ⟨fun s h => issues_of_may ((by decide +kernel : ∀ s ∈ [pathAt, serial false 0x20000, serial true placedVa, serial true 0x20000, arms .ready, arms .atJoin], may s p0 (.join ga) = true) s h),
    fun s h => issues_of_may ((by decide +kernel : ∀ s ∈ [pathAt, twoPaths, serial false 0, arms .ready], may s p0 (.regang ga) = true) s h), by and_intros <;> decide +kernel⟩
/-- IdlesAndExits: IDLE of some and of all lanes; EXIT that is legal and one that is not, of each kind of unit. -/
theorem witness_IdlesAndExits : (withS pathAt 0 1).Issues p0 (.idle ga) ∧ (withS pathAt 0 1).maskOf p0 &&& ~~~((withS pathAt 0 1).maskOf p0 &&& (withS pathAt 0 1).srcG p0 0) ≠ 0 ∧
    (withS pathAt 0 0xFFFFFFFF).maskOf p0 &&& ~~~((withS pathAt 0 0xFFFFFFFF).maskOf p0 &&& (withS pathAt 0 0xFFFFFFFF).srcG p0 0) = 0 ∧
    (∀ q ∈ (pathAt.group 0 0).paths.cells, q.2.th.state ≠ .atRegang) ∧ pathAt.Issues p0 (.exit ga) ∧ (pathAt.pathOf p0).mask = (pathAt.group 0 0).live ∧
    twoPaths.Issues p0 (.exit ga) ∧ (twoPaths.group 0 0).paths.cells.length ≠ 1 ∧ seqAt.Issues q0 (.exit ga) ∧ (seqAt.team 0 0).haltPending = [] ∧
    lantAt.Issues l0 (.exit ga) ∧ lantAt.grids.find (lantAt.prog 0 0).grid ≠ none :=
  by and_intros <;> first | decide +kernel | exact issues_of_may (by decide +kernel)
/-- CallsAndReturns: with and without a condition, at both ends of the stack, from a path and a sequencer. -/
def callx (cen : Bool) : CallX := { disp := 0x100, c := 0, csense := cen, cen := cen }
def atBase (s : State) (wb : Nat) : State := s.onPathOf p0 fun p => { p with wb := wb }
def withLink (s : State) (n : Nat) : State := withS s 1 (BitVec.ofNat 64 (n * 2 ^ 56 + 0x20000))
theorem witness_CallsAndReturns : (∀ s ∈ [pathAt, atBase pathAt 928, atBase pathAt 929], s.Issues p0 (.call { ga with b := 48 } (callx false))) ∧
    pathAt.Issues p0 (.call { ga with b := 48 } (callx true)) ∧ pathAt.srcG p0 0 = 0 ∧ seqAt.Issues q0 (.call ga (callx false)) ∧
    ((pathAt.groupOf p0).needsSpill (pathAt.maskOf p0) 48 = false) ∧ ¬ 1024 < 928 + 48 + 48 ∧ 1024 < 929 + 48 + 48 ∧
    (∀ s ∈ [withLink (atBase pathAt 48) 48, withLink (atBase pathAt 48) 49, withLink pathAt 1, withLink pathAt 0], s.Issues p0 (.ret { ga with a := 1 })) ∧
    (∀ s ∈ [withLink seqAt 0, withLink seqAt 1], s.Issues q0 (.ret { ga with a := 1 })) :=
  ⟨fun s h => issues_of_may ((by decide +kernel : ∀ s ∈ [pathAt, atBase pathAt 928, atBase pathAt 929], may s p0 (.call { ga with b := 48 } (callx false)) = true) s h),
    issues_of_may (by decide +kernel), by decide +kernel, issues_of_may (by decide +kernel), by decide +kernel, by decide, by decide,
    fun s h => issues_of_may ((by decide +kernel : ∀ s ∈ [withLink (atBase pathAt 48) 48, withLink (atBase pathAt 48) 49, withLink pathAt 1, withLink pathAt 0],
      may s p0 (.ret { ga with a := 1 }) = true) s h),
    fun s h => issues_of_may ((by decide +kernel : ∀ s ∈ [withLink seqAt 0, withLink seqAt 1], may s q0 (.ret { ga with a := 1 }) = true) s h)⟩

/-- Queues: empty, one short of full, full; at issue and as a wait ends. -/
def queued (s : State) (n : Nat) : State := s.onTeam 0 0 fun t => { t with queues := t.queues.put 7 (List.replicate n 5) }
theorem witness_Queues : (∀ x ∈ [(queued pathAt 15, Instr.qput { ga with b := 7 }), (queued pathAt 16, .qput { ga with b := 7 }), (queued pathAt 1, .qget { ga with b := 7 }), (pathAt, .qget { ga with b := 7 })],
      x.1.Issues p0 x.2) ∧
    mayWake (waitingIn (queued pathAt 15) p0 (.qput { ga with b := 7 }) 0) p0 (.qput { ga with b := 7 }) = true ∧
    mayWake (waitingIn (queued seqAt 1) q0 (.qget { ga with b := 7 }) 0) q0 (.qget { ga with b := 7 }) = true :=
  ⟨issues_each (by decide +kernel), by decide +kernel, by decide +kernel⟩
/-- Barriers: arrivals that do and do not complete the set, roles not declared, a party outside, another set; GRIDSYNC in a cooperative grid and
in another. -/
def barx (roles : BitVec 4) (seq : Bool) : BarX := { roles := roles, seq := seq, res := 0 }
def coopAt (s : State) : State := { s with grids := s.grids.put 0 { s.grid 0 with coop := true } }
def synced : State := (waitingIn (coopAt pathAt) p0 (.gridsync ga) 0).onTeam 0 0 fun t => { t with gridArrived := Tab.empty.put 0 0xFFFFFFFF }
theorem witness_Barriers : (∀ x ∈ [(pathAt, Instr.bar { ga with b := 15 } (barx 1 false)), (pathAt, .bar ga (barx 1 true)), (pathAt, .bar ga (barx 2 true)), (pathAt, .bar ga (barx 0 true)),
      (pathAt, .gridsync ga), (coopAt pathAt, .gridsync ga), (coopAt twoPaths, .gridsync ga)], x.1.Issues p0 x.2) ∧ pathAt.alive p0 = true ∧
    (pathAt.groupOf p0).role = 0 ∧ 2 ^ max 1 (pathAt.team 0 0).kernel.roles.length = 2 ∧ ((pathAt.team 0 0).bar 0).set = none ∧
    (∀ b : Bool, ((pathAt.onTeam 0 0 fun t => { t with bars := t.bars.put 0 { Barrier.none with set := some 1, arrived := Tab.empty.put 0 0xFFFFFFFF, seq := b } }).barFull 0 0 0) = true) ∧
    pathAt.barFull 0 0 0 = false ∧ synced.gridSynced 0 = true ∧ synced.gridTeams 0 = [(0, 0)] ∧ synced.teamUnits 0 0 = [q0, p0] ∧
    pathAt.gridSynced 0 = false ∧ (synced.thread q0).waiting = none ∧
    (((coopAt pathAt).release p0 4).onTeamOf p0 fun t => { t with gridArrived := t.gridArrived.put 0 (t.gridArrived.get 0 0 ||| pathAt.maskOf p0) }).gridSynced 0 = true ∧
    (((coopAt twoPaths).release p0 4).onTeamOf p0 fun t => { t with gridArrived := t.gridArrived.put 0 (t.gridArrived.get 0 0 ||| twoPaths.maskOf p0) }).gridSynced 0 = false ∧
    pathAt.gridOf p0 = 0 :=
  ⟨issues_each (by decide +kernel), by and_intros <;> decide +kernel⟩

/-- Barriers: a path that waits at a full barrier, beside a sequencer with nothing uncommitted. -/
def barAt : State :=
  waitingIn (pathAt.onTeam 0 0 fun t => { t with bars := t.bars.put 0 { Barrier.none with set := some 1, arrived := Tab.empty.put 0 0xFFFFFFFF } }) p0
    (.bar ga (barx 1 false)) 0
theorem witness_Barriers_departs : barAt.barFull 0 0 0 = true ∧ p0 ∈ barAt.teamUnits 0 0 ∧ (barAt.thread p0).waiting = some (.bar ga (barx 1 false)) ∧
    ga.b.toNat = 0 ∧ ((barAt.thread p0).wait.map (·.lo)) = some ((barAt.team 0 0).bar 0).phase ∧
    ∀ v ∈ barAt.teamUnits 0 0, v ≠ p0 → (barAt.thread v).run.sOver = .empty :=
  by and_intros <;> decide +kernel

/-- Guards: an OPEN slot resolved by a path to 0, to 1, by its operand; a resolved one reopened by the sequencer, and resolved again. -/
def resolved (s : State) : State := s.onTeam 0 0 fun t => { t with guards := t.guards.put 15 true }
theorem witness_Guards : (∀ x ∈ [(pathAt, Instr.setg { gi with d := 15, imm := 0 }), (pathAt, .setg { gi with d := 0, imm := 1 }), (pathAt, .setg { gi with d := 15, imm := 3 }),
      (resolved pathAt, .setg { gi with d := 15, imm := 1 })], x.1.Issues p0 x.2) ∧ (resolved seqAt).Issues q0 (.setg { gi with d := 15, imm := 2 }) ∧
    (pathAt.teamOf p0).guards.find 15 = none ∧ ((resolved pathAt).teamOf p0).guards.find 15 = some true :=
  by and_intros <;> first | decide +kernel | exact issues_of_may (by decide +kernel) | exact issues_each (by decide +kernel)
/-- Guards: each unit with a value it may not set; wrong fields beside a value it may. -/
theorem witness_Guards_refused : pathAt.turn = some p0 ∧ seqAt.turn = some q0 ∧ lantAt.turn = some l0 ∧ (p0.isPath = true ∧ q0.isSeq = true ∧ l0.isPath = false ∧ l0.isSeq = false) ∧
    ¬ ((p0.isPath = true ∧ (1 : BitVec 7).toNat = 2) ∨ (p0.isSeq = true ∧ (1 : BitVec 7).toNat ∈ [0, 1, 3]) ∨ (p0.isPath = false ∧ p0.isSeq = false)) ∧
    ¬ ((p0.isPath = true ∧ (4 : BitVec 7).toNat = 2) ∨ (p0.isSeq = true ∧ (4 : BitVec 7).toNat ∈ [0, 1, 3]) ∨ (p0.isPath = false ∧ p0.isSeq = false)) ∧
    (-1 : BitVec 7).toInt < 0 ∧ 16 ≤ (16 : BitVec 8).toNat := by decide +kernel
/-- SystemNames: every code from each kind of unit, and the codes beside them. -/
theorem witness_SystemNames (n : Nat) (h : n < 24) : pathAt.Issues p0 (.sysrd { ga with a := BitVec.ofNat 8 (159 + n) }) ∧ seqAt.Issues q0 (.sysrd { ga with a := BitVec.ofNat 8 (159 + n) }) ∧
    lantAt.Issues l0 (.sysrd { ga with a := BitVec.ofNat 8 (159 + n) }) ∧ pathAt.Issues p0 (.syswr { ga with d := BitVec.ofNat 8 (159 + n) }) :=
  (by decide +kernel : ∀ n < 24, may pathAt p0 (.sysrd { ga with a := BitVec.ofNat 8 (159 + n) }) = true ∧ may seqAt q0 (.sysrd { ga with a := BitVec.ofNat 8 (159 + n) }) = true ∧
    may lantAt l0 (.sysrd { ga with a := BitVec.ofNat 8 (159 + n) }) = true ∧ may pathAt p0 (.syswr { ga with d := BitVec.ofNat 8 (159 + n) }) = true) n h |>.imp issues_of_may
    (And.imp issues_of_may (And.imp issues_of_may issues_of_may))

/-- ChecksAndFaults: each check fails with those before it passed. -/
def atLineEnd (s : State) : State := s.onPathOf p0 fun p => { p with th := { p.th with pc := 0x1003C } }
theorem witness_ChecksAndFaults : hasWord (.vadd la) = true ∧ seqAt.turn = some q0 ∧ (Instr.vadd la).wrongUnit q0 = true ∧
    pathAt.turn = some p0 ∧ (∀ i ∈ [Instr.vadd { la with m := 4 }, .vli { la with d := 64 } { lit := 0 }, .vadd { la with a := 68 }, .vadd { la with a := 67 }, .gadd { ga with a := 252 }],
      hasWord i = true ∧ i.wrongUnit p0 = false) ∧
    (Instr.vadd { la with m := 4 }).firstOk = false ∧ (Instr.vcmp la { cc := 0, mrg := false, sd := 0, res := 1 }).extOk = false ∧
    (Instr.vadd { la with a := 68 }).firstOk = true ∧ (Instr.vadd { la with a := 68 }).extOk = true ∧ (Instr.vadd { la with a := 68 }).opndsOk = false ∧
    (Instr.vli la { lit := 0 }).len = 8 ∧ ((atLineEnd pathAt).thread p0).pc.toNat % 64 = 60 ∧ (atLineEnd pathAt).turn = some p0 ∧ (Instr.vli la { lit := 0 }).firstOk = true ∧
    (Instr.vadd { la with a := 67 }).wellFormed = true ∧
    ((Instr.vadd { la with a := 67 }).opnds.filterMap Opnd.latch).find? (fun p => !(pathAt.thread p0).run.latchValid p.1 p.2) = some (true, 3) ∧
    ((Instr.gadd { ga with a := 252 }).opnds.filterMap Opnd.latch).find? (fun p => !(pathAt.thread p0).run.latchValid p.1 p.2) = some (false, 0) ∧
    ((withTrap pathAt).ctx ((withTrap pathAt).ctxOf p0)).trapv ≠ 0 ∧ (withTrap pathAt).maskOf p0 ≠ 0 ∧ ((withTrap pathAt).thread p0).frame.active = false ∧
    ((withTrap lantAt).ctx ((withTrap lantAt).ctxOf l0)).trapv ≠ 0 ∧ ((withTrap lantAt).thread l0).frame.active = false := by decide +kernel
/-- TrapOpcodes: on each kind of unit; TRAPC with its condition 0 and not. -/
theorem witness_TrapOpcodes : (∀ i ∈ [Instr.trap { gi with imm := 63 }, .trapc { k := false, c := 0, disp := 5 }, .bkpt gi], (withTrap pathAt).Issues p0 i ∧
      (withTrap seqAt).Issues q0 i ∧ (withTrap lantAt).Issues l0 i) ∧ (withS (withTrap pathAt) 0 1).Issues p0 (.trapc { k := false, c := 0, disp := 5 }) ∧
    (withTrap pathAt).srcG p0 0 = 0 ∧ (withS (withTrap pathAt) 0 1).srcG p0 0 ≠ 0 ∧ ((withTrap pathAt).ctx 0).trapv ≠ 0 ∧
    ((withTrap pathAt).thread p0).frame.active = false ∧ ((withTrap pathAt).grove 0).dbgctl = 0 :=
  ⟨fun i h => (by decide +kernel : ∀ i ∈ [Instr.trap { gi with imm := 63 }, .trapc { k := false, c := 0, disp := 5 }, .bkpt gi], may (withTrap pathAt) p0 i = true ∧
      may (withTrap seqAt) q0 i = true ∧ may (withTrap lantAt) l0 i = true) i h |>.imp issues_of_may (And.imp issues_of_may issues_of_may), issues_of_may (by decide +kernel), by and_intros <;> decide +kernel⟩
theorem witness_TrapOpcodes_held : (pathAt.onGrove 0 fun g => { g with dbgctl := 1 }).Issues p0 (.bkpt gi) ∧
    ((pathAt.onGrove 0 fun g => { g with dbgctl := 1 }).grove ((pathAt.onGrove 0 fun g => { g with dbgctl := 1 }).groveOf p0)).dbgctl.getLsbD 0 = true ∧
    pathAt.pf.ctxsel.toNat = pathAt.ctxOf p0 ∧ pathAt.turn = some p0 ∧ (-1 : BitVec 7).toInt < 0 :=
  by and_intros <;> first | decide +kernel | exact issues_of_may (by decide +kernel)
/-- A unit in its handler, from a trap that its whole path took or that lanes took. -/
def trapped (s : State) (u : UnitId) (all : Bool) : State := s.onThread u fun t =>
  { t with frame := { Frame.none with active := true, all := all, cause := 0x30, detail := 7, fmt := 3, rpc := 0x20004, fpc := 0x20000, lanes := 1, held := 0xFFFFFFFF } }
theorem witness_TearsDown : (∀ x ∈ [(pathAt, Instr.trap gi), (trapped (withTrap pathAt) p0 true, .trap gi), (pathAt, .haltTeam ga0), (trapped pathAt p0 false, .haltTeam ga0)], x.1.Issues p0 x.2) ∧
    (∀ x ∈ [(seqAt, Instr.trap gi), (trapped seqAt q0 true, .trap gi), (seqAt, .haltTeam ga0)], x.1.Issues q0 x.2) ∧
    (pathAt.thread p0).frame.active = false ∧ (pathAt.ctx (pathAt.ctxOf p0)).trapv = 0 ∧ ((trapped (withTrap pathAt) p0 true).thread p0).frame.active = true :=
  ⟨issues_each (by decide +kernel), issues_each (by decide +kernel), by and_intros <;> decide +kernel⟩
theorem witness_TrapReturns : (∀ s ∈ [trapped pathAt p0 true, trapped pathAt p0 false, pathAt], ∀ i ∈ [Instr.tret ga0, .tretGoto ga0, .tretKill ga0], s.Issues p0 i) ∧
    (∀ i ∈ [Instr.tret ga0, .tretGoto ga0, .tretKill ga0], (trapped seqAt q0 true).Issues q0 i ∧ (trapped lantAt l0 true).Issues l0 i) ∧
    ((trapped pathAt p0 true).pathOf p0).arm = false ∧ ((trapped pathAt p0 true).pathOf p0).stkv = false ∧
    (∀ q ∈ ((trapped pathAt p0 true).groupOf p0).paths.cells, q.2.th.state ≠ .atRegang) ∧ ((trapped seqAt q0 true).team 0 0).haltPending = [] :=
  ⟨fun s hs i hi => issues_of_may ((by decide +kernel : ∀ s ∈ [trapped pathAt p0 true, trapped pathAt p0 false, pathAt], ∀ i ∈ [Instr.tret ga0, .tretGoto ga0, .tretKill ga0], may s p0 i = true) s hs i hi),
    fun i hi => (by decide +kernel : ∀ i ∈ [Instr.tret ga0, .tretGoto ga0, .tretKill ga0], may (trapped seqAt q0 true) q0 i = true ∧ may (trapped lantAt l0 true) l0 i = true) i hi |>.imp issues_of_may issues_of_may, by and_intros <;> decide +kernel⟩
/-- ErrorReads: every selector from 0 to 9; a queue that is halted, queue 3, and number 4. -/
theorem witness_ErrorReads (n : Nat) (h : n < 10) : pathAt.Issues p0 (.errrd { ga with b := BitVec.ofNat 7 n }) ∧ lantAt.Issues l0 (.errrd { ga with b := BitVec.ofNat 7 n }) ∧
    (withS seqAt 0 (BitVec.ofNat 64 n)).Issues q0 (.haltFlush ga0) ∧ (withS seqAt 0 (BitVec.ofNat 64 n)).srcG q0 0 = BitVec.ofNat 64 n :=
  (by decide +kernel : ∀ n < 10, may pathAt p0 (.errrd { ga with b := BitVec.ofNat 7 n }) = true ∧ may lantAt l0 (.errrd { ga with b := BitVec.ofNat 7 n }) = true ∧
    may (withS seqAt 0 (BitVec.ofNat 64 n)) q0 (.haltFlush ga0) = true ∧ (withS seqAt 0 (BitVec.ofNat 64 n)).srcG q0 0 = BitVec.ofNat 64 n) n h |>.imp issues_of_may
    (And.imp issues_of_may (And.imp_left issues_of_may))

/-- A command as it is placed in a queue. -/
def cmdOf (i : Instr) : Cmd :=
  { id := 0, instr := i, ops := [], record := none, guard := none, go := some true, lines := [], rdTiles := [], wrTiles := [], progress := 0, begun := false, buf := [], park := none, failed := false, doomed := false }
/-- Team 0 of core 0 has these commands in queue `q`. -/
def withCmds (s : State) (q : Nat) (l : List Cmd) : State := s.onTeam 0 0 fun t => { t with eng := t.eng.put q { cmds := l, halted := false } }
def tcfgx : TcfgX := { sm1 := 0, res := 0, gsense := false, gslot := 0, gen := false }
def tileBusy (s : State) : State := withCmds s 2 [{ cmdOf (.tcfg ga tcfgx) with wrTiles := [0] }]
def tilex (k : BitVec 2) : TileX := { tile := k, res := 0 }
/-- TileReads: a tile that is ready, invalid, written by a command, not granted; at issue and as a wait ends. -/
theorem witness_TileReads : (∀ s ∈ [pathAt, pathAt.setTile 0 0 0 { Tile.zero with valid := false }, tileBusy pathAt], ∀ i ∈ [Instr.accrd { la with m := 4 } (tilex 0), .accrdc { la with m := 6 } (tilex 0), .accrd { la with m := 4 } (tilex 1)],
      s.Issues p0 i) ∧ mayWake (waitingIn pathAt p0 (.accrd { la with m := 4 } (tilex 0)) 0) p0 (.accrd { la with m := 4 } (tilex 0)) = true ∧
    (pathAt.teamOf p0).hasTile 0 = true ∧ (pathAt.teamOf p0).hasTile 1 = false ∧ (pathAt.teamOf p0).tileReady 0 = true ∧ (pathAt.tile 0 0 0).valid = true ∧
    ((tileBusy pathAt).teamOf p0).tileReady 0 = false ∧ ((pathAt.setTile 0 0 0 { Tile.zero with valid := false }).tile 0 0 0).valid = false :=
  ⟨fun s hs i hi => issues_of_may ((by decide +kernel : ∀ s ∈ [pathAt, pathAt.setTile 0 0 0 { Tile.zero with valid := false }, tileBusy pathAt],
      ∀ i ∈ [Instr.accrd { la with m := 4 } (tilex 0), .accrdc { la with m := 6 } (tilex 0), .accrd { la with m := 4 } (tilex 1)], may s p0 i = true) s hs i hi), by and_intros <;> decide +kernel⟩
/-- TrunkAdds: sums at both ends of the range; the last element of the trunk; TSYNC of all rows and of one more. -/
theorem witness_TrunkAdds : (-(2 ^ 63) : Int) ≤ -(2 ^ 63) ∧ (2 ^ 63 - 1 : Int) < 2 ^ 63 ∧
    (∀ m ∈ ([4, 5, 7] : List (BitVec 3)), pathAt.Issues p0 (.tadd { la with m := m } { coff := 127, roff := 15, res := 0 })) ∧
    (∀ l ∈ (pathAt.maskOf p0).lanes, (pathAt.srcL p0 0 l 32).toNat / 2 ^ 16 % 2 ^ 16 + 15 < (pathAt.teamOf p0).trunk.rows ∧
      (pathAt.srcL p0 0 l 32).toNat % 2 ^ 16 + 127 < (pathAt.teamOf p0).trunk.rowLen) ∧
    (∀ s ∈ [pathAt, withS pathAt 0 0x100000, withS pathAt 0 0x110000, tileBusy pathAt], s.Issues p0 (.tsync { la with a := 72, m := 3 })) ∧ pathAt.Issues p0 (.tsync { la with m := 1 }) ∧
    (pathAt.teamOf p0).trunk.rows = 16 ∧ (pathAt.teamOf p0).trunkBusy = false ∧ ((tileBusy pathAt).teamOf p0).trunkBusy = true ∧ (pathAt.teamOf p0).trunk.span = 1 ∧
    (withS pathAt 0 0x110000).sget p0 0 = 0x110000 :=
  ⟨by decide +kernel, by decide +kernel, fun m h => issues_of_may ((by decide +kernel : ∀ m ∈ ([4, 5, 7] : List (BitVec 3)), may pathAt p0 (.tadd { la with m := m } { coff := 127, roff := 15, res := 0 }) = true) m h), by decide +kernel,
    fun s h => issues_of_may ((by decide +kernel : ∀ s ∈ [pathAt, withS pathAt 0 0x100000, withS pathAt 0 0x110000, tileBusy pathAt], may s p0 (.tsync { la with a := 72, m := 3 }) = true) s h),
    issues_of_may (by decide +kernel), by and_intros <;> decide +kernel⟩
/-- TrunkReads: gains that end with the scratchpad. -/
theorem witness_TrunkReads : (∀ s ∈ [withS pathAt 0 3584], (∀ m ∈ ([4, 5] : List (BitVec 3)), s.Issues p0 (.tnorm { la with b := 72, m := m } { se := 1, res := 0 })) ∧
      s.Issues p0 (.tnormq { la with b := 72, m := 6 } { se := 159, res := 0 })) ∧ (pathAt.teamOf p0).trunkBusy = false ∧
    (∀ l ∈ (pathAt.maskOf p0).lanes, (pathAt.srcL p0 0 l 32).toNat = 0) ∧ (pathAt.teamOf p0).spIn 3584 512 = true ∧ (pathAt.teamOf p0).spAbsent 3584 512 = false ∧
    pathAt.spPoisoned 0 0 3584 512 = false ∧ (∀ i ∈ [Instr.tnorm { la with b := 5, m := 4 } { se := 1, res := 0 }, .tnormq { la with b := 3, m := 6 } { se := 1, res := 0 }], pathAt.Issues p0 i) :=
  ⟨fun s h => ⟨fun m hm => issues_of_may ((by decide +kernel : ∀ s ∈ [withS pathAt 0 3584], ∀ m ∈ ([4, 5] : List (BitVec 3)), may s p0 (.tnorm { la with b := 72, m := m } { se := 1, res := 0 }) = true) s h m hm),
    issues_of_may ((by decide +kernel : ∀ s ∈ [withS pathAt 0 3584], may s p0 (.tnormq { la with b := 72, m := 6 } { se := 159, res := 0 }) = true) s h)⟩,
    by and_intros <;> first | decide +kernel | exact issues_all (by decide +kernel)⟩


/-- A choice vector of two streams of four entries at 0x10080 that holds a result, and the lane bound to it. -/
def vector (s : State) (w1 : Dword) : State :=
  { s with mem := s.mem.write (placedFrame + 0x10080) (bytesOfDwords [7, w1, 0x100000005, 0]) }
def boundTo (s : State) (mode : Bool) (cur : Nat) : State := s.onGroup 0 0 fun g =>
  { g with binds := Tab.empty.put 0 { Binding.none with bound := true, ptr := 0x10080, mode := mode, nstr := 2, cap := 4, cur := Tab.empty.put 1 cur } }
def oneData : State := vector (withData one) 0x309
/-- Lengths of the two streams in the vector's LEN words. -/
def lens (s : State) (n : Nat) : State := { s with mem := s.mem.write (placedFrame + 0x100A0) (natLe 4 n ++ natLe 4 n) }
/-- A chain record at 0x10300 with both vectors at 0x10080, which a lane accepts or not. -/
def chained : State := withS { boundTo oneData false 0 with mem := oneData.mem.write (placedFrame + 0x10300) (bytesOfDwords [0x10080, 0x10080, 0x10400, 0]) } 0 0x10300
/-- ChoiceLanes: lanes that perform, in each mode; a draw at the last entry, past it, of the last stream, past it, at LEN and below it. -/
theorem witness_ChoiceLanes : ((boundTo oneData false 3).Issues p0 (.draw { la with b := 1, m := 4 }) ∧ (boundTo oneData true 0).Issues p0 (.draw { la with b := 1, m := 1 })) ∧
    (∀ s ∈ [boundTo oneData false 3, boundTo (lens oneData 1) true 1, boundTo (lens oneData 2) true 1], (s.laneRun (s.maskOf p0).lanes fun y l => (y.drawLane p0 l 1).map fun r => (r.1, drawResult r.2 4)).2.2 = []) ∧
    ((boundTo oneData false 4).bindOf p0 0).cur.get 1 0 = ((boundTo oneData false 4).bindOf p0 0).cap ∧ ((boundTo oneData false 4).bindOf p0 0).nstr = 2 ∧
    (pathAt.bindOf p0 0).bound = false ∧ (∀ i ∈ [Instr.drawk { la with m := 1 }, .drawk { la with m := 4 }, .cvcur { la with b := 16, m := 1 }], one.Issues p0 i) ∧
    (boundTo oneData false 4).Issues p0 (.cvcur { la with b := 15, m := 1 }) ∧ (∀ l ∈ ((boundTo oneData false 4).maskOf p0).lanes, ((boundTo oneData false 4).bindOf p0 l).bound = true) ∧
    (boundTo oneData false 0).Issues p0 (.result { la with m := 4 }) ∧ (withS oneData 0 0x10080).Issues p0 (.cvbind { la with a := 72, b := 73 }) ∧
    ((withS oneData 0 0x10080).laneRun [0] (State.bindLane { la with a := 72, b := 73 } p0)).2.2 = [] ∧ (one.maskOf p0).lanes = [0] ∧
    chained.Issues p0 (.rcmp { la with a := 72, m := 1 } { astr := 1, res := 0 }) ∧ (chained.laneRun [0] (State.rcmpLane { la with a := 72, m := 1 } { astr := 1, res := 0 } p0)).2.2 = [] ∧
    (boundTo oneData false 4).Issues p0 (.cvend ga) ∧ ((boundTo oneData false 4).laneRun [0] fun y l => (y.cvend p0 l).map fun z => (z, (0 : Dword))).2.2 = [] ∧ seqAt.Issues q0 (.cvend ga) ∧
    (∀ i ∈ [Instr.draw { la with m := 4, k := true }, .rcmp { la with a := 72, m := 1, k := true } { astr := 0, res := 0 }], one.Issues p0 i) :=
  ⟨⟨issues_of_may (by decide +kernel), issues_of_may (by decide +kernel)⟩,
    by and_intros <;> first | decide +kernel | exact issues_of_may (by decide +kernel) | exact issues_all (by decide +kernel)⟩
def went {α : Type} (x : Except Flt α) : Bool := match x with
  | .ok _ => true
  | .error _ => false
/-- Does MUTATE of the vector at 0x10080 go through? -/
def mutates (dst : Dword) : Bool := went (oneData.mutate p0 dst 0x10080 0x10380 0)
def mutating (dst : Dword) : State := withS (withS (withS oneData 0 dst) 1 0x10080) 2 0x10380
theorem witness_ChoiceLanes_mutates : (mutating 0x10400).Issues p0 (.mutate { ga with a := 1, b := 2 } { kind := 0, res := 0 }) ∧ (mutating 0x10401).Issues p0 (.mutate { ga with a := 1, b := 2 } { kind := 0, res := 0 }) ∧
    mutates 0x10400 = true ∧ mutates 0x10401 = false :=
  by and_intros <;> first | decide +kernel | exact issues_of_may (by decide +kernel)
/-- The state that an access leaves. -/
def after {α : Type} (s : State) (x : Except Flt (α × State)) : State := match x with
  | .ok r => r.2
  | .error _ => s
/-- BindingLanes: a header that is well formed; a vector at the next byte; CVEND of a lane that is and that is not bound. -/
theorem witness_BindingLanes : let f : LA := { la with a := 72, b := 73 }
    let s := withS oneData 0 0x10080
    let rd := s.plainWords (s.whoOf p0) (s.ctxOf p0) 0x10080 16
    (s.bindOf p0 0).bound = false ∧ s.bindAddr p0 72 0 = 0x10080 ∧ (0x10080 : Dword).toNat % 128 = 0 ∧ (0x10081 : Dword).toNat % 128 ≠ 0 ∧
    (match rd with
      | .ok r => (cvHeaderOf r.1).ok && !(wordAt r.1 1).getLsbD 1
      | .error _ => false) = true ∧
    went ((after s rd).plainStore (s.whoOf p0) (s.ctxOf p0) 0x10080 (bytesOfDwords [s.srcL p0 f.b.toNat 0 64, 0x309, 0])) = true ∧
    ((boundTo s false 4).bindOf p0 0).mode = false ∧ went ((boundTo s false 4).plainStore (s.whoOf p0) (s.ctxOf p0) (0x10080 + 32) ((List.range 2).flatMap fun n => natLe 4 n)) = true := by decide +kernel

/-- Lanes 0 and 1 have a traversal in flight, or finished, at the path's instruction: of a node with no children; of a volume of one cell. -/
def slotWith (op phase : Nat) : Tab Dword := slotSets .empty [(fOP, op), (fPHASE, phase), (fIPC, 0x10000), (fROOT, 0x10080), (fVOL, 0x100C0)]
def flying (op phase : Nat) (traced : Dword) : State := { (withData pathAt).onGroup 0 0 fun g =>
  { g with
    launched := 3, paths := g.paths.put 0 { g.path 0 with mask := 3 }, traced := traced
    slots := (Tab.empty.put 0 (slotWith op phase)).put 1 (slotWith op phase) } with mem := (withData pathAt).mem.write (placedFrame + 0x100F0) (natLe 8 (2 ^ 31)) }
def tracex : TraceX := { vmask := 0xFF, cullb := false, res := 0 }
def marchx : MarchX := { strm := 0, den := false, next := false, res := 0 }
theorem witness_RaySlots : (∀ n < 9, pathAt.Issues p0 (.hitrd { la with b := BitVec.ofNat 7 n }) ∧ pathAt.Issues p0 (.vmrd { la with b := BitVec.ofNat 7 n })) ∧
    pathAt.Issues p0 (.hituv { la with d := 60 }) ∧ pathAt.Issues p0 (.rclr la) ∧ (∀ i ∈ [Instr.rsave { la with a := 72 }, .rload { la with a := 72 }], (withS (withData one) 0 0x10040).Issues p0 i) ∧
    (∀ i ∈ [false, true], let s := withS (withData one) 0 0x10040
      (if i then (s.laneRun (s.maskOf p0).lanes (State.rloadLane { la with a := 72 } p0)).2.2.length
        else (s.laneRun (s.maskOf p0).lanes fun y l => let a := y.srcL p0 72 l 64
          if a.toNat % 64 = 0 then (y.plainStore (y.whoOf p0) (y.ctxOf p0) a ((List.range 32).flatMap fun n => natLe 8 ((y.slot p0 l).get n 0).toNat)).map
            fun z => (z, (0 : Dword)) else .error (fltAt 0x10 a)).2.2.length) = 0) :=
  ⟨fun n h => (by decide +kernel : ∀ n < 9, may pathAt p0 (.hitrd { la with b := BitVec.ofNat 7 n }) = true ∧ may pathAt p0 (.vmrd { la with b := BitVec.ofNat 7 n }) = true) n h |>.imp issues_of_may issues_of_may,
    by and_intros <;> first | decide +kernel | exact issues_of_may (by decide +kernel) | exact issues_all (by decide +kernel)⟩
/-- RayOperations: each operation finished and in flight, at its issue and as a step is taken. -/
theorem witness_RayOperations : ∀ n < 4, let x := ([(Instr.trace la tracex, traceOp la tracex 1), (.tracea la tracex, traceOp la tracex 2), (.traceo la { tracex with vmask := 0 }, traceoOp),
      (.vmarch la marchx, marchOp la marchx)] : List (Instr × RayOp))[n]?
    ∀ j op, x = some (j, op) → let fin := flying (n + 1) 2 3
      let fl := flying (n + 1) 1 0
      let w := waitingIn fl p0 j 0
      fin.Issues p0 j ∧ fl.Issues p0 j ∧ (fin.maskOf p0).lanes = [0, 1] ∧ (fl.thread p0).pc = 0x10000 ∧
      went (op.step (fl.waitIn p0 { instr := j, lo := 0 }) p0 1) = true ∧ (w.thread p0).waiting = some j ∧ w.pathOfLane 0 0 0 = some p0 ∧
      (match op.step w p0 0 with
        | .ok q => (q.thread p0).wait == (w.thread p0).wait && (q.maskOf p0).lanes == [0, 1] && ((q.slot p0 1).get 17 0).toNat / 2 ^ 14 % 4 == 1 && went (op.step q p0 1)
        | .error _ => false) = true := by
  intro n h x j op hx
  have hx' : (match n with
    | 0 => some (Instr.trace la tracex, traceOp la tracex 1)
    | 1 => some (Instr.tracea la tracex, traceOp la tracex 2)
    | 2 => some (Instr.traceo la { tracex with vmask := 0 }, traceoOp)
    | _ => some (Instr.vmarch la marchx, marchOp la marchx)) = some (j, op) := by
    rcases (by omega : n = 0 ∨ n = 1 ∨ n = 2 ∨ n = 3) with r | r | r | r <;> subst r <;> exact hx
  rcases (by omega : n = 0 ∨ n = 1 ∨ n = 2 ∨ n = 3) with r | r | r | r <;> subst r <;> cases hx' <;>
    and_intros <;> first | decide +kernel | exact issues_of_may (by decide +kernel)


/-! Engine commands, launches, record queues. -/

def layoutx : LayoutX := { op := true, res := 0, gsense := false, gslot := 0, gen := false }
def zfillx : ZfillX := { sp := true, off := 0, res := 0, gsense := false, gslot := 0, gen := false }
def omapx : OmapX := { map := 7, res := 0, gsense := false, gslot := 0, gen := false }
def mmax : MmaX := { tile := 3, map := 7, acc := true, res := 0, gsense := false, gslot := 0, gen := false }
def topkx : TopkX := { tile := 0, km1 := 15, res := 0, gsense := false, gslot := 0, gen := false }
def mtilex : MtileX := { tile := 0, res := 0, gsense := false, gslot := 0, gen := false }
def storex : StoreX := { tile := 0, ty := false, sp := true, pol := 0, res := 0, gsense := false, gslot := 0, gen := false }
def imagex : ImageX := { obj := false, clr := false, tile := 0, res := 0, gsense := false, gslot := 0, gen := false }
def collx : CollX := { op := 0, ssp := true, dsp := true, q8 := false, res := 0, gsense := false, gslot := 0, gen := false }
/-- EngineCommands: each of the fifteen, with room for one more command and with none; with a count of 0; a guard that is open and one that discards. -/
theorem witness_EngineCommands : (∀ s ∈ [seqAt, withCmds seqAt 1 (List.replicate 63 (cmdOf (.mzero ga mtilex))), withCmds seqAt 1 (List.replicate 64 (cmdOf (.mzero ga mtilex)))],
      ∀ i ∈ [Instr.cpy ga cpyx, .cpy ga { cpyx with mode := 3 }, .cpy { ga with b := 125 } { cpyx with mode := 4 }, .cpy ga { cpyx with gen := true, gslot := 15, gsense := true }, .layout ga layoutx,
        .zfill ga zfillx, .omap ga omapx, .mma ga mmax, .msqd ga mmax, .mtopk ga topkx, .mzero ga mtilex, .mstore ga storex, .maddt ga mtilex, .tcfg ga tcfgx, .tevict ga imagex,
        .tevict ga { imagex with obj := true }, .trestore ga imagex, .trestore ga { imagex with obj := true }, .callred ga collx, .cgather ga collx], s.Issues q0 i) ∧
    (withS seqAt 0 4096).sget q0 0 = 4096 ∧ seqAt.sget q0 0 = 0 ∧ (0 : Nat) < 2 ^ 20 ∧ (4096 : Nat) ≤ 2 ^ 30 ∧ 0 + 4096 ≤ (seqAt.teamOf q0).spSize ∧
    (seqAt.teamOf q0).guards.find 15 = none ∧ ((seqAt.onTeam 0 0 fun t => { t with guards := t.guards.put 15 false }).teamOf q0).guards.find 15 = some false ∧
    (seqAt.onTeam 0 0 fun t => { t with guards := t.guards.put 15 false }).Issues q0 (.cpy ga { cpyx with gen := true, gslot := 15, gsense := true }) ∧
    (withCmds seqAt 0 (List.replicate 1024 (cmdOf (.cpy ga cpyx)))).Issues q0 (.cpy ga cpyx) ∧
    mayWake (waitingIn seqAt q0 (.cpy ga cpyx) 0) q0 (.cpy ga cpyx) = true :=
  ⟨fun s hs i hi => issues_of_may ((by decide +kernel : ∀ s ∈ [seqAt, withCmds seqAt 1 (List.replicate 63 (cmdOf (.mzero ga mtilex))), withCmds seqAt 1 (List.replicate 64 (cmdOf (.mzero ga mtilex)))],
      ∀ i ∈ [Instr.cpy ga cpyx, .cpy ga { cpyx with mode := 3 }, .cpy { ga with b := 125 } { cpyx with mode := 4 }, .cpy ga { cpyx with gen := true, gslot := 15, gsense := true }, .layout ga layoutx,
        .zfill ga zfillx, .omap ga omapx, .mma ga mmax, .msqd ga mmax, .mtopk ga topkx, .mzero ga mtilex, .mstore ga storex, .maddt ga mtilex, .tcfg ga tcfgx, .tevict ga imagex,
        .tevict ga { imagex with obj := true }, .trestore ga imagex, .trestore ga { imagex with obj := true }, .callred ga collx, .cgather ga collx], may s q0 i = true) s hs i hi),
    by and_intros <;> first | decide +kernel | exact issues_of_may (by decide +kernel)⟩
/-- A team with commands 0 to 2, of which the sequencer's batch takes the last or none. -/
def inBatch (s : State) (lo hi : Nat) : State := (withCmds s 1 [{ cmdOf (.mzero ga mtilex) with id := 2 }]).onTeam 0 0 fun t => { t with closures := t.closures.put 3 (lo, hi) }
theorem witness_EngineCommands_batches : let f : GI := { gi with imm := 3 }
    seqAt.Issues q0 (.bfence f) ∧ (inBatch seqAt 2 3).Issues q0 (.bwait f) ∧ (inBatch seqAt 0 2).Issues q0 (.bwait f) ∧ ((inBatch seqAt 2 3).thread q0).wait = none ∧
    (inBatch seqAt 2 3).alive q0 = true ∧ ((inBatch seqAt 2 3).team 0 0).cmds.map (·.id) = [2] :=
  by and_intros <;> first | decide +kernel | exact issues_of_may (by decide +kernel)

/-- A launch descriptor at 0x10040 and a count at 0x10080. -/
def launchAt (n : Nat) : State := withS (withS { withData seqAt with mem := (withData seqAt).mem.write (placedFrame + 0x10080) (natLe 8 n) } 0 0x10040) 1 0x10080
def launchx : LaunchX := { pm1 := 31, qpri := 7, res := 0 }
def queueFull (s : State) : State := s.onGrove 0 fun g => { g with devq := List.replicate 256 { ctx := 0, desc := [], addr := 0, nteams := 1, pri := 0, replay := none } }
theorem witness_Launching : (∀ s ∈ [launchAt 0, launchAt 1, launchAt 0xFFFFFFFF, queueFull (launchAt 32)], s.Issues q0 (.launchd { ga with b := 1 } launchx) ∧
      went ((s.release q0 4).sceneLoad q0 0x10040 64) = true ∧ went ((after (s.release q0 4) ((s.release q0 4).sceneLoad q0 0x10040 64)).sceneLoad q0 0x10080 8) = true) ∧
    (launchAt 1).sget q0 1 = 0x10080 ∧ (launchAt 1).srcG q0 0 = 0x10040 ∧ (launchAt 1).descOk 0 [0, 1, 0, 0, 0, 0, 0, 0] = true ∧ (launchAt 1).descOk 0 [0, 1, 0, 0, 0, 1, 0, 0] = false ∧
    (2 ^ 37 + 31) / 32 = 2 ^ 32 ∧ (2 ^ 37 + 1 + 31) / 32 = 2 ^ 32 + 1 :=
  ⟨fun s h => (by decide +kernel : ∀ s ∈ [launchAt 0, launchAt 1, launchAt 0xFFFFFFFF, queueFull (launchAt 32)], may s q0 (.launchd { ga with b := 1 } launchx) = true ∧
      went ((s.release q0 4).sceneLoad q0 0x10040 64) = true ∧ went ((after (s.release q0 4) ((s.release q0 4).sceneLoad q0 0x10040 64)).sceneLoad q0 0x10080 8) = true) s h |>.imp_left issues_of_may, by and_intros <;> decide +kernel⟩

/-- A list of one replay record at 0x10040, of a kernel that may be replayed. -/
def replayAt : State := withS (withS (withS { withData seqAt with
  mem := (withData seqAt).mem.write (placedFrame + 0x10040) (bytesOfDwords [0x10000, 0, 0, 1, 0, 0x2000000001, 0, 0])
  kernels := [{ placedKernel with replayable := true }] } 0 0x10040) 1 1) 2 0x10080
def replayx : ReplayX := { qpri := 7, res := 0 }
theorem witness_Launching_replays : let f : GA := { ga with b := 1, d := 2 }
    (∀ s ∈ [replayAt, queueFull replayAt], s.Issues q0 (.replay f replayx)) ∧ (replayAt.sget q0 1).toNat = 1 ∧ replayAt.srcG q0 0 = 0x10040 ∧
    (match (replayAt.release q0 4).plainWords (replayAt.whoOf q0) 0 0x10040 8 with
      | .ok r => replayAt.replayOk 0 [r.1]
      | .error _ => false) = true ∧ (replayAt.grove (replayAt.ctx 0).desc.grove).devq.length = 0 ∧ ((queueFull replayAt).grove (replayAt.ctx 0).desc.grove).devq.length = 256 ∧
    replayAt.Issues q0 (.rrd ga) ∧ pathAt.Issues p0 (.rrd ga) ∧ lantAt.Issues l0 (.rrd ga) :=
  ⟨fun s h => issues_of_may ((by decide +kernel : ∀ s ∈ [replayAt, queueFull replayAt], may s q0 (.replay { ga with b := 1, d := 2 } replayx) = true) s h),
    by and_intros <;> first | decide +kernel | exact issues_of_may (by decide +kernel)⟩
/-- A queue of four records of `n` words at 0x10040, which s0 names. -/
def rqAt (n head tail : Nat) : State := withS { withData seqAt with
  mem := (withData seqAt).mem.write (placedFrame + 0x10040) (bytesOfDwords [0x10100, BitVec.ofNat 64 (2 + 32 * (n - 1) + 256), BitVec.ofNat 64 head, BitVec.ofNat 64 tail]) } 0 0x10040
/-- What RQPUT and RQGET need of it. -/
def rqReady (s : State) (n head tail : Nat) : Bool := match s.rqHeader q0 0x10040 with
  | .ok q => q.words == n && q.head.toNat == head && q.tail.toNat == tail && q.size == 4 && went (s.rqAccess q0 (q.slot q.tail) (8 * n)) && went (s.rqAccess q0 (q.slot q.head) (8 * n))
  | .error _ => false
/-- RecordQueues: one record and eight words, at the ends of the registers and of the counts: empty, one short of full, full, wrapped. -/
theorem witness_RecordQueues : (∀ s ∈ [rqAt 8 0 0, rqAt 8 0 3, rqAt 8 0 4, rqAt 1 (2 ^ 64 - 1) 0], ∀ i ∈ [Instr.rqput { ga with b := 120 }, .rqputn { ga with b := 120 }, .rqget { ga with d := 152 }, .rqgetn { ga with b := 127, d := 152 },
      .rqcnt ga], s.Issues q0 i) ∧ rqReady (rqAt 8 0 0) 8 0 0 = true ∧ rqReady (rqAt 8 0 3) 8 0 3 = true ∧ rqReady (rqAt 8 0 4) 8 0 4 = true ∧
    rqReady (rqAt 1 (2 ^ 64 - 1) 0) 1 (2 ^ 64 - 1) 0 = true ∧ (rqAt 8 0 0).srcG q0 0 = 0x10040 ∧ went ((rqAt 8 0 0).sceneLoad q0 0x10050 16) = true ∧ 120 + 8 = 128 ∧ 152 + 8 = 160 ∧
    mayWake (waitingIn (rqAt 8 0 3) q0 (.rqput ga) 0) q0 (.rqput ga) = true ∧ mayWake (waitingIn (rqAt 8 0 3) q0 (.rqget ga) 0) q0 (.rqget ga) = true ∧
    (∀ i ∈ [Instr.rqput ga, .rqputn ga, .rqget ga, .rqgetn ga, .rqcnt ga], (withS seqAt 0 1).Issues q0 i) ∧ (withS seqAt 0 1).srcG q0 0 = 1 :=
  ⟨fun s hs i hi => issues_of_may ((by decide +kernel : ∀ s ∈ [rqAt 8 0 0, rqAt 8 0 3, rqAt 8 0 4, rqAt 1 (2 ^ 64 - 1) 0], ∀ i ∈ [Instr.rqput { ga with b := 120 }, .rqputn { ga with b := 120 }, .rqget { ga with d := 152 },
      .rqgetn { ga with b := 127, d := 152 }, .rqcnt ga], may s q0 i = true) s hs i hi),
    by and_intros <;> first | decide +kernel | exact issues_all (by decide +kernel)⟩


/-! Giving way, fault records, memory events, windows. -/

theorem witness_GivingWay : pathAt.Issues p0 (.yield ga) ∧ seqAt.Issues q0 (.yield ga) ∧ lantAt.Issues l0 (.yield ga) ∧ (∀ i ∈ [Instr.sleep gi, .sleep { gi with imm := 63 }], pathAt.Issues p0 i) ∧
    ((waitingIn pathAt p0 (.sleep { gi with imm := 63 }) 0).thread p0).waiting = some (.sleep { gi with imm := 63 }) ∧
    (∀ s ∈ [withS seqAt 0 255, withS seqAt 0 256], s.Issues q0 (.evsig ga)) ∧ (withS seqAt 0 255).srcG q0 0 = 255 ∧ (withS seqAt 0 256).srcG q0 0 = 256 :=
  ⟨issues_of_may (by decide +kernel), issues_of_may (by decide +kernel), issues_of_may (by decide +kernel), issues_all (by decide +kernel), by decide +kernel,
    fun s h => issues_of_may ((by decide +kernel : ∀ s ∈ [withS seqAt 0 255, withS seqAt 0 256], may s q0 (.evsig ga) = true) s h), by decide +kernel, by decide +kernel⟩
/-- A context with a ring of 2^6 records at 0x300000, of which `n` are not consumed, and a record to write. -/
def ringOf (n : Nat) (l : List PendRecord) : State :=
  ({ pathAt with mem := pathAt.mem.write 0x2FF000 (natLe 8 n) } : State).onCtx 0 fun c => { c with pend := l }
def record0 : PendRecord := { words := [1, 2, 3, 4], desc := pathAt.descOf 0 0, seq := 9, out := some (.unit p0), deliver := none }
/-- A unit parked on record 9. -/
def parkedOn (s : State) (u : UnitId) : State :=
  ((s.onThread u fun t => { t with state := .parked, park := some { mask := 1, pc := 0x10000, addr := 0x40, seqs := [9] } })).onCtx 0 fun c =>
    { c with outstanding := [{ seq := 9, req := .unit u }], trapv := 0x20000 }
theorem witness_TranslationEvents : (∀ n ∈ [0, 63, 64], let s := ringOf n [record0]
      let k := s.ctx 0
      k.pend = [record0] ∧ 4096 ≤ k.desc.fqbase ∧ k.desc.fqbase = 0x300000 ∧ 2 ^ k.desc.fqlog2 = 64 ∧ (s.home64 (k.desc.fqbase - 4096) - s.home64 (k.desc.fqbase - 4088)).toNat = n) ∧
    record0.words.length = 4 ∧ record0.deliver = none ∧ (pathAt.ctx 0).pend = [] ∧
    (∀ x ∈ [(pathAt, p0), (seqAt, q0), (lantAt, l0)], let s := parkedOn x.1 x.2
      s.up = true ∧ (s.ctx 0).desc.grove = 0 ∧ ((s.ctx 0).outstanding.find? fun o => o.seq == 9) = some { seq := 9, req := .unit x.2 } ∧ (s.thread x.2).state = .parked ∧
      ((s.thread x.2).park.map (·.seqs)) = some [9] ∧ (s.thread x.2).wait = none ∧ s.ctxOf x.2 = 0 ∧ (s.ctx 0).trapv ≠ 0 ∧ (s.thread x.2).frame.active = false) ∧
    ((parkedOn pathAt p0).ctx 0).outstanding.find? (fun o => o.seq == 8) = none ∧
    ({ pathAt with boot := { Boot.reset with dead := true } } : State).up = false := by decide +kernel
/-- Windows with 15, with 16 and with no commands, for the grove's own context and for another's. -/
def tiFull (n : Nat) (x : TiCmd) : State := (pathAt.onGrove 0 fun g => { g with win := { g.win with tiq := List.replicate n x } }).onCtx 1 fun c => { c with desc := { c.desc with w0 := 0x0010000000000000 } }
theorem witness_TranslationEvents_windows : (∀ n ∈ [0, 15, 16], ((tiFull n { kind := 0, va := 0x10000, ctx := 0, grove := 0, tag := 3 }).grove 0).win.tiq.length = n) ∧
    ((tiFull 0 { kind := 0, va := 0, ctx := 0, grove := 0, tag := 0 }).ctx 0).desc.grove = 0 ∧ ((tiFull 0 { kind := 0, va := 0, ctx := 0, grove := 0, tag := 0 }).ctx 1).desc.grove = 1 ∧
    ((pathAt.onCore 0 fun c => { c with mc := { c.mc with tlb := [{ ctx := 0, base := 0x10000, level := 0, leaf := 1, pte := 0 }] } }).caches 0).tlb.any
      (fun e => e.ctx == 0 && e.base == 0x1FFFF / pageBytes 0 * pageBytes 0) = true := by decide +kernel
/-- MemoryEvents: a line in zero form, one with a dirty last sector, a line that is not held; mirror writes in and out of order. -/
def lineAt (l : L2Line) : State := { State.reset with l2 := Tab.empty.put 5 l }
def mirrorAt (n die : Nat) (cur : Tab (Nat × Nat)) : State := { State.reset with
  mirror := { vc := .empty, flight := [{ vc := [n, 0, 0, 0, 0, 0, 0, 0], die := die, off := 0x40, bytes := [1, 2], pol := 1, bad := false, zero := none, applied := [] }], cur := cur } }
theorem witness_MemoryEvents : (lineAt { z := true, vs := 0, ds := 1 }).l2.find 5 = some { z := true, vs := 0, ds := 1 } ∧ (lineAt { z := false, vs := 8, ds := 8 }).l2.find 4 = none ∧
    (8 : BitVec 4).getLsbD 3 = true ∧ 23 / 4 = 5 ∧ 23 % 4 = 3 ∧ inHbm (64 * 23) = true ∧ pathAt.teamOf q0 = pathAt.team 0 0 ∧ (pathAt.core 0).teams.has 0 = true ∧ (pathAt.team 0 0).torn = false ∧
    (∀ x ∈ [(511, Instr.cacheParityError (.l1 511 5), false), (512, .cacheParityError (.lanternCode 0 5), true), (575, .cacheParityError (.lanternData 63 5), false)],
      (x.2.1, x.2.2) ∈ (if x.1 < 512 then [(Instr.cacheParityError (.l1 x.1 5), false), (.cacheParityError (.code x.1 5), true)]
        else [(.cacheParityError (.lanternData (x.1 - 512) 5), false), (.cacheParityError (.lanternCode (x.1 - 512) 5), true)])) ∧
    (∀ d < 8, ∀ n ∈ [1, 2], (mirrorAt n 0 .empty).mirror.flight[0]? = some { vc := [n, 0, 0, 0, 0, 0, 0, 0], die := 0, off := 0x40, bytes := [1, 2], pol := 1, bad := false, zero := none, applied := [] } ∧ (mirrorAt n 0 .empty).mirror.count d 0 + 1 = 1) ∧
    State.reset.up = true ∧ pathAt.up = true ∧ (pathAt.core (8 * 0 + 0)).teams.cells ≠ [] ∧ (lantAt.lantern 0).progs.cells ≠ [] ∧ (∀ i < 8, (State.reset.core (8 * 63 + i)).teams.cells = []) ∧
    (State.reset.lantern 63).progs.cells = [] ∧ State.reset.pf.split.get 63 4 = 4 := by decide +kernel
/-- GrowAndSpill: requests of 112, 113, 255 and 256; one that another group could not be granted beside; a window that needs its last register written, and one that needs two read. -/
def spillAt (wb lo : Nat) : State := { ((withData one).onGroup 0 0 fun g =>
    { g with paths := g.paths.put 0 { g.path 0 with wb := wb, th := { (g.path 0).th with state := .spill, wait := some (spillMark p0) } }, los := Tab.empty.put 0 lo }) with
  grids := Tab.empty.put 0 { pathAt.grid 0 with spill := 0x10000 } }
def planOf (s : State) : List SpillAccess :=
  let k := s.group 0 0
  let wb := (s.pathOf p0).wb
  (k.unresident (s.maskOf p0) wb).flatMap fun l => spillPlan l k.alloc (k.los.get l 0)
    (if k.los.get l 0 + k.alloc < wb + 48 then wb + 48 - k.alloc else if wb < k.los.get l 0 then wb else k.los.get l 0) (k.spilled.get l 0)
def growAt (n : Nat) : State := (waitingIn pathAt p0 (.grow ga) n).onGroup 0 0 fun g => { g with growReq := some n }
def asks (s : State) : State := ((s.dropOut p0 none).waitIn p0 { instr := .grow ga, lo := 113 }).onGroup 0 0 fun k => { k with growReq := some (max 113 (k.growReq.getD 0)) }
theorem witness_GrowAndSpill : ((withS pathAt 0 112).Issues p0 (.grow ga) ∧ (withS twoPaths 0 113).Issues p0 (.grow ga) ∧ (withS twoPaths 0 255).Issues p0 (.grow ga) ∧ (withS pathAt 0 256).Issues p0 (.grow ga)) ∧
    (withS pathAt 0 256).srcG p0 0 = 256 ∧ (pathAt.group 0 0).alloc = 112 ∧ (asks (withS twoPaths 0 113)).growStuck 0 = false ∧
    (pathAt.group 0 0).growReq = none ∧ pathAt.growStuck 0 = false ∧ (pathAt.thread p0).state ≠ .spill ∧
    planOf (spillAt 65 0) = [{ lane := 0, reg := 0, write := true }] ∧ planOf (spillAt 0 1) = [{ lane := 0, reg := 112, write := true }, { lane := 0, reg := 0, write := false }] ∧
    planOf (spillAt 912 912) = [] ∧
    (∀ x ∈ [(65, 0), (0, 1), (64, 0)], ((spillAt x.1 x.2).thread p0).state = .spill ∧ ((spillAt x.1 x.2).spillFaults 0 0 (planOf (spillAt x.1 x.2))).length = 0) ∧
    went ((spillAt 65 0).spillXlat 0 0 { lane := 0, reg := 0, write := true }) = true ∧ (pathAt.core 0).evicted = [] :=
  ⟨⟨issues_of_may (by decide +kernel), issues_of_may (by decide +kernel), issues_of_may (by decide +kernel), issues_of_may (by decide +kernel)⟩, by and_intros <;> decide +kernel⟩
theorem witness_GrowAndSpill_grants : (let k := (growAt 255).group 0 0
     k.paths.keys = [0] ∧ k.growReq = some 255 ∧ ((growAt 255).core 0).regsUsed + k.width * (255 - k.alloc) ≤ 131072 ∧ ((growAt 255).core 0).groups.find 0 = some k ∧ k.retired = false ∧ k.live ≠ 0 ∧
     (∀ l ∈ k.live.lanes, k.spilled.get l 0 ≤ k.los.get l 0 + k.alloc) ∧ (k.path 0).th.waiting = some (.grow ga) ∧ k.paths.find 0 = some (k.path 0) ∧
     (k.path 0).th.wait = some { instr := .grow ga, lo := 255 }) := by decide +kernel
/-- A group with no lanes is out: memory that nothing has written is its image. -/
def outAt : State :=
  let s := pathAt.onCore 0 fun c => { c with groups := Tab.empty, evicted := [{ slot := 0, pa := 0x40000000, len := 0, group := Group.none }] }
  { (s.onGrove 0 fun k => { k with evbase := 0x40000000 }) with
    pf := { s.pf with standgrv := Tab.empty.put 0 0x40 }
    mem := [] }
theorem witness_GrowAndSpill_readmits : outAt.evictArea 0 = some 0x40000000 ∧ ((outAt.core 0).evicted.getLast?.map (·.slot)) = some 0 ∧ (outAt.core 0).groups.has 0 = false ∧
    (outAt.core 0).regsUsed + 0 * (16 + 0) ≤ 131072 ∧ (outAt.readGroup 8 0x40000000 0 0 0).bad = false ∧
    (let r := outAt.readGroup 8 0x40000000 0 0 0
     r.group.width = 0 ∧ r.group.alloc = 0 ∧ (∀ p ∈ r.group.paths.cells, p.2.th.park = none) ∧
     ((outAt.onCore 0 fun q => { q with groups := q.groups.put 0 r.group, evicted := [] }).freshStream 0 0).growStuck 0 = false) ∧
    -- two groups out of which the first does not fit, and a third that finds no room beside the images of two
    (let s := outAt.onCore 0 fun c => { c with evicted := { slot := 1, pa := 0x40000000, len := 0, group := { Group.none with width := 1024, alloc := 113 } } :: c.evicted }
     131072 < (s.core 0).regsUsed + 1024 * (16 + 113) ∧ (s.core 0).evicted.map (·.slot) = [1, 0]) ∧
    evictPlace 0x40000000 600000 [] = some 0x40000000 ∧ evictPlace 0x40000000 400000 [(0x40000000, 600000)] = some (0x40000000 + 600000) ∧
    evictPlace 0x40000000 500000 [(0x40000000, 600000)] = none :=
  by and_intros <;> decide +kernel


/-! The engines at work. -/

/-- Command `i` with operands `ops` stands at the head of queue `q`. -/
def headAt (s : State) (q : Nat) (i : Instr) (ops : List Dword) : State := withCmds s q [{ cmdOf i with ops := ops }]
theorem heads_of {s : State} {q : Nat} {i : Instr} {ops : List Dword} (h : ((s.team 0 0).torn, (s.team 0 0).eng.get q .none, (s.team 0 0).tileHeld { cmdOf i with ops := ops }) =
    (false, { cmds := [{ cmdOf i with ops := ops }], halted := false }, false)) : s.Heads 0 0 q { cmdOf i with ops := ops } [] := by
  simp only [Prod.mk.injEq] at h
  exact ⟨h.1, h.2.1, rfl, rfl, h.2.2⟩
def copies (s : State) (cp : CpyX) (ops : List Dword) : Bool :=
  let w := s.linearCopy 0 0 cp none { cmdOf (.cpy ga cp) with ops := ops }
  w.stop.isNone && decide ((w.s.team 0 0).eng = (s.team 0 0).eng)
/-- A layout record of one element at 0x10040. -/
def layoutAt : State := headAt { withData seqAt with mem := (withData seqAt).mem.write (placedFrame + 0x10040) (bytesOfDwords [0x1000000000010000, 0x100000001, 0x100000001, 0, 0, 0, 0, 1]) }
  0 (.layout ga { layoutx with op := false }) [0x10040]
/-- CopyEngineWork: copies within the scratchpad of adjacent ranges at its end, from and to memory; LAYOUT of a record at 0x10040 and its removal; ZFILL of the last bytes and of one more. -/
theorem witness_CopyEngineWork : (headAt seqAt 0 (.cpy ga { cpyx with mode := 3 }) [2048, 0, 2048]).Heads 0 0 0 { cmdOf (.cpy ga { cpyx with mode := 3 }) with ops := [2048, 0, 2048] } [] ∧
    (seqAt.team 0 0).spIn 2048 2048 = true ∧ (seqAt.team 0 0).spIn 0 2048 = true ∧ ((headAt seqAt 0 (.cpy ga { cpyx with mode := 3 }) [2048, 0, 2048]).team 0 0).absentFor 0 0 2048 = false ∧
    (headAt (withData seqAt) 0 (.cpy ga cpyx) [0, 0x10040, 65]).Heads 0 0 0 { cmdOf (.cpy ga cpyx) with ops := [0, 0x10040, 65] } [] ∧
    copies (headAt (withData seqAt) 0 (.cpy ga cpyx) [0, 0x10040, 65]) cpyx [0, 0x10040, 65] = true ∧
    copies (headAt (withData seqAt) 0 (.cpy ga { cpyx with mode := 1 }) [0x10040, 0, 65]) { cpyx with mode := 1 } [0x10040, 0, 65] = true ∧ cpyBox 0 = false ∧ cpyBox 1 = false ∧ cpyBox 4 = true ∧
    (headAt (withData seqAt) 0 (.layout ga layoutx) [0x10040]).Heads 0 0 0 { cmdOf (.layout ga layoutx) with ops := [0x10040] } [] ∧
    layoutAt.Heads 0 0 0 { cmdOf (.layout ga { layoutx with op := false }) with ops := [0x10040] } [] ∧
    (layoutAt.engRead 0 0 0x10040 64 2).flt = none ∧ layoutOk (dwordsOfBytes 8 (layoutAt.engRead 0 0 0x10040 64 2).bytes) = true ∧
    (headAt seqAt 0 (.zfill ga zfillx) [4088, 8]).Heads 0 0 0 { cmdOf (.zfill ga zfillx) with ops := [4088, 8] } [] ∧ (seqAt.team 0 0).spIn 4088 8 = true ∧
    (headAt seqAt 0 (.zfill ga zfillx) [4088, 9]).Heads 0 0 0 { cmdOf (.zfill ga zfillx) with ops := [4088, 9] } [] ∧ (seqAt.team 0 0).spIn 4088 9 = false ∧
    (seqAt.team 0 0).seqExited = false ∧ (seqAt.thread q0).state ≠ .waiting ∧ (seqAt.ctx (seqAt.team 0 0).ctx).pend = [] :=
  by and_intros <;> first | decide +kernel | exact heads_of (by decide +kernel)
/-- A collective of one rank of two 32-bit words, and one whose second rank has not begun. -/
def colRec (ranks : Nat) : List Dword := [0, BitVec.ofNat 64 (2 + ranks * 2 ^ 32), 0, 0, 0, 0, 0, 0]
def colAt (i : Instr) (ranks : Nat) : State := withCmds seqAt 3 [{ cmdOf i with ops := [4088, 0, 0], record := some (colRec ranks), begun := true }]
theorem witness_CopyEngineWork_collectives : ∀ i ∈ [Instr.callred ga { collx with op := 1 }, .cgather ga collx], ∀ n ∈ [1, 2], let x : Cmd := { cmdOf i with ops := [4088, 0, 0], record := some (colRec n), begun := true }
    (colAt i n).Heads 0 0 3 x [] ∧ (colAt i n).parties (colKey (colRec n)) = [{ core := 0, slot := 0, cmd := x }] ∧ ((colAt i n).team 0 0).absentFor 0 0 8 = false ∧ (colAt i n).spPoisoned 0 0 0 8 = false ∧
    colRanks (colRec n) = n ∧ colCount (colRec n) * colBytes (colType (colRec n)) = 8 ∧ ((colAt i n).headOf 0 0 3).isSome = true := by
  have h : ∀ i ∈ [Instr.callred ga { collx with op := 1 }, .cgather ga collx], ∀ n ∈ [1, 2], let x : Cmd := { cmdOf i with ops := [4088, 0, 0], record := some (colRec n), begun := true }
      (((colAt i n).team 0 0).torn = false ∧ ((colAt i n).team 0 0).eng.get 3 .none = { cmds := [x], halted := false } ∧ ((colAt i n).team 0 0).tileHeld x = false) ∧
      (colAt i n).parties (colKey (colRec n)) = [{ core := 0, slot := 0, cmd := x }] ∧ ((colAt i n).team 0 0).absentFor 0 0 8 = false ∧ (colAt i n).spPoisoned 0 0 0 8 = false ∧
      colRanks (colRec n) = n ∧ colCount (colRec n) * colBytes (colType (colRec n)) = 8 ∧ ((colAt i n).headOf 0 0 3).isSome = true := by decide +kernel
  intro i hi n hn
  have k := h i hi n hn
  exact ⟨⟨k.1.1, k.1.2.1, rfl, rfl, k.1.2.2⟩, k.2⟩


/-- A team with 64 KiB of scratchpad. -/
def wide (s : State) : State := s.onTeam 0 0 fun t => { t with spSize := 65536 }
/-- A BF16 map of `n` chunks of operands that end with the scratchpad. -/
def mapOf (n : Nat) : List Dword := [BitVec.ofNat 64 (256 * n * 2 ^ 20 + 2 ^ 60), 0, BitVec.ofNat 64 (256 + (n - 1) * 2 ^ 32), 0, 0, 0, 0, 1]
def mapped (n : Nat) (i : Instr) : State := (headAt (wide seqAt) 1 i []).onTeam 0 0 fun t => { t with oms := Tab.empty.put 7 (mapOf n) }
def mapAt : State := { wide (withData seqAt) with mem := (withData seqAt).mem.write (placedFrame + 0x10040) (bytesOfDwords (mapOf 2)) }
theorem rows_clean {s : State} {c t n : Nat} (h : ∀ a, s.spPoisoned c t a 1 = false) (l : List Nat) :
    (s.engRows c t true l n).2.s = s ∧ (s.engRows c t true l n).2.flt = none ∧ (s.engRows c t true l n).2.bad.any id = false := by
  unfold State.engRows
  suffices H : ∀ (l : List Nat) (r : List (List Byte) × Got), r.2.s = s → r.2.flt = none → r.2.bad.any id = false →
      let q := l.foldl (fun (r : List (List Byte) × Got) a => if r.2.flt.isSome then r else
        let g := r.2.s.engSrc c t true (BitVec.ofNat 64 a) n 2
        (r.1 ++ [g.bytes], { g with bad := [r.2.bad.any id || g.bad.any id] })) r
      q.2.s = s ∧ q.2.flt = none ∧ q.2.bad.any id = false from H l _ rfl rfl rfl
  intro l
  induction l with
  | nil => exact fun r h1 h2 h3 => ⟨h1, h2, h3⟩
  | cons a l ih =>
    intro r h1 h2 h3
    refine ih _ ?_ ?_ ?_ <;> simp [h1, h2, h3, State.engSrc, h] <;> split <;> simp
theorem chunk_clean (n : Nat) (hn : n ∈ [1, 2]) (i : Instr) : ((mapped n i).readChunk 0 0 (mapOf n) 0 false).flt = none ∧ ((mapped n i).readChunk 0 0 (mapOf n) 0 false).bad = false := by
  have h : ∀ a, (mapped n i).spPoisoned 0 0 a 1 = false := fun a => rfl
  have g : mapBGl (mapOf n) = false := (by decide +kernel : ∀ n ∈ [1, 2], mapBGl (mapOf n) = false) n hn
  simp [State.readChunk, g, (rows_clean h _).1, (rows_clean h _).2.1, (rows_clean h _).2.2]
/-- MatrixAndTrunkWork: OMAP; the only, the first and the last chunk of MMA and MSQD, with ACC and without. -/
theorem witness_MatrixAndTrunkWork : (headAt mapAt 1 (.omap ga omapx) [0x10040]).Heads 0 0 1 { cmdOf (.omap ga omapx) with ops := [0x10040] } [] ∧
    ((headAt mapAt 1 (.omap ga omapx) [0x10040]).engRead 0 0 0x10040 64 2).flt = none ∧ dwordsOfBytes 8 ((headAt mapAt 1 (.omap ga omapx) [0x10040]).engRead 0 0 0x10040 64 2).bytes = mapOf 2 ∧
    (mapAt.team 0 0).mapOk (mapOf 2) = true ∧
    (∀ n ∈ [1, 2], ∀ acc, (mapped n (.mma ga { mmax with tile := 0, acc := acc })).Heads 0 0 1 (cmdOf (.mma ga { mmax with tile := 0, acc := acc })) [] ∧
      (mapped n (.msqd ga { mmax with tile := 0, acc := acc })).Heads 0 0 1 (cmdOf (.msqd ga { mmax with tile := 0, acc := acc })) []) ∧
    (∀ n ∈ [1, 2], let s := mapped n (.mma ga { mmax with tile := 0 })
      (s.team 0 0).hasTile 0 = true ∧ (s.team 0 0).oms.find 7 = some (mapOf n) ∧ (s.tile 0 0 0).valid = true ∧ (s.team 0 0).chunkWaits (mapOf n) 0 false = false ∧ mapBf (mapOf n) = true ∧
      mapChunks (mapOf n) = n) ∧
    (∀ n ∈ [1, 2], ∀ i, ((mapped n i).readChunk 0 0 (mapOf n) 0 false).flt = none ∧ ((mapped n i).readChunk 0 0 (mapOf n) 0 false).bad = false) :=
  by
  refine ⟨heads_of (by decide +kernel), ?_, ?_, ?_, fun n h acc => ⟨heads_of ((by decide +kernel : ∀ n ∈ [1, 2], ∀ acc, let s := mapped n (.mma ga { mmax with tile := 0, acc := acc })
      ((s.team 0 0).torn, (s.team 0 0).eng.get 1 .none, (s.team 0 0).tileHeld (cmdOf (.mma ga { mmax with tile := 0, acc := acc }))) =
        (false, { cmds := [cmdOf (.mma ga { mmax with tile := 0, acc := acc })], halted := false }, false)) n h acc),
    heads_of ((by decide +kernel : ∀ n ∈ [1, 2], ∀ acc, let s := mapped n (.msqd ga { mmax with tile := 0, acc := acc })
      ((s.team 0 0).torn, (s.team 0 0).eng.get 1 .none, (s.team 0 0).tileHeld (cmdOf (.msqd ga { mmax with tile := 0, acc := acc }))) =
        (false, { cmds := [cmdOf (.msqd ga { mmax with tile := 0, acc := acc })], halted := false }, false)) n h acc)⟩, ?_, chunk_clean⟩ <;> decide +kernel
/-- MSTORE, MTOPK, MZERO of the tile; MADDT, TCFG, TEVICT and TRESTORE of the trunk's last rows. -/
def tcfgAt (l : Bool) : State := headAt seqAt 2 (.tcfg ga tcfgx) [if l then 2048 else 128, 0]
/-- Does every unit of the row image of the last row find its place? -/
def evicts : Bool :=
  let s := headAt (withData seqAt) 2 (.tevict ga imagex) [0x10040, 0x1000F]
  let image := s.rowImage 0 0 15
  let taken := (s.onHead 0 0 2 fun y => { y with buf := image }).rowZero 0 0 15
  ((List.range 17).foldl (fun (r : State × Bool) n =>
    let va : Dword := 0x10040 + BitVec.ofNat 64 (64 * n)
    let p := r.1.engDst 0 0 false va ((image.drop (64 * n)).take 64) 2 false
    (p.s, r.2 && went ((if n = 0 then s else r.1).translate 0 0 va .engWrite) && p.flt.isNone)) (taken, true)).2
theorem witness_MatrixAndTrunkWork_tiles : let st : StoreX := { storex with ty := false }
    (headAt seqAt 1 (.mzero ga mtilex) []).Heads 0 0 1 (cmdOf (.mzero ga mtilex)) [] ∧
    (headAt (wide seqAt) 1 (.mstore ga st) [0, 512]).Heads 0 0 1 { cmdOf (.mstore ga st) with ops := [0, 512] } [] ∧ ((wide seqAt).team 0 0).spIn 0 (127 * 512 + 128 * 4) = true ∧
    (headAt (wide seqAt) 1 (.mtopk ga topkx) [65408, 0x1007F]).Heads 0 0 1 { cmdOf (.mtopk ga topkx) with ops := [65408, 0x1007F] } [] ∧ ((wide seqAt).team 0 0).spIn 65408 128 = true ∧
    (headAt seqAt 2 (.maddt ga mtilex) [0x1000000000]).Heads 0 0 2 { cmdOf (.maddt ga mtilex) with ops := [0x1000000000] } [] ∧ (seqAt.tile 0 0 0).valid = true ∧ (seqAt.team 0 0).hasTile 0 = true ∧
    (∀ l ∈ [false, true], (tcfgAt l).Heads 0 0 2 { cmdOf (.tcfg ga tcfgx) with ops := [if l then 2048 else 128, 0] } [] ∧ ∀ u ∈ (tcfgAt l).teamUnits 0 0, ((tcfgAt l).thread u).waiting = none) ∧ (seqAt.team 0 0).trunk.size = 2048 ∧
    (headAt (withData seqAt) 2 (.tevict ga imagex) [0x10040, 0x1000F]).Heads 0 0 2 { cmdOf (.tevict ga imagex) with ops := [0x10040, 0x1000F] } [] ∧
    evicts = true ∧ (seqAt.team 0 0).trunk.rows = 16 ∧ (seqAt.team 0 0).trunk.rowLen = 128 ∧
    (headAt (withData seqAt) 2 (.trestore ga imagex) [0x10040, 15]).Heads 0 0 2 { cmdOf (.trestore ga imagex) with ops := [0x10040, 15] } [] :=
  ⟨heads_of (by decide +kernel), heads_of (by decide +kernel), by decide +kernel, heads_of (by decide +kernel), by decide +kernel, heads_of (by decide +kernel), by decide +kernel, by decide +kernel, fun l _ => ⟨heads_of ((by decide +kernel : ∀ l, (((tcfgAt l).team 0 0).torn, ((tcfgAt l).team 0 0).eng.get 2 .none, ((tcfgAt l).team 0 0).tileHeld { cmdOf (.tcfg ga tcfgx) with ops := [if l then 2048 else 128, 0] }) =
      (false, { cmds := [{ cmdOf (.tcfg ga tcfgx) with ops := [if l then 2048 else 128, 0] }], halted := false }, false)) l),
      (by decide +kernel : ∀ l, ∀ u ∈ (tcfgAt l).teamUnits 0 0, ((tcfgAt l).thread u).waiting = none) l⟩,
    by and_intros <;> first | decide +kernel | exact heads_of (by decide +kernel)⟩


/-! The front end, scheduling, pre-emption, booting, windows. -/

/-- The context's queue 3 holds entry `w` in its last place, at 0x4003C0, as its counts wrap; stand 0 is the grove's. -/
def entryAt (w : List Dword) : State :=
  let s := withData pathAt
  { (s.onGrove 0 fun g => { g with queues := Tab.empty.put 3 { SubQueue.reset with base := 0x400000, en := true, log2n := 4, tail := 0, done := 0xFFFFFFFF } }) with
    mem := (s.mem.write 0x4003C0 (bytesOfDwords w)).write (placedFrame + 0x10040) (bytesOfDwords [1, 0, 0, 0, 0, 0, 0, 0, 0x10000, 1])
    pf := { s.pf with standgrv := Tab.empty.put 0 0x40 } }
def queueOf (s : State) : SubQueue := (s.grove 0).queues.get 3 .reset
/-- Is the next entry of queue 3 well formed, of this KIND, and may it start? -/
def kindIs (s : State) (k : Nat) : Bool :=
  let q := queueOf s
  let w := dwordsOfBytes 8 (s.mem.read (q.base.toNat + 64 * (q.done.toNat % 2 ^ q.log2n)) 64)
  q.en && !q.halt && q.graph.isNone && q.wait.isNone && q.tail != q.done && decide ((q.tail - q.done).toNat ≤ 2 ^ q.log2n) && (wordAt w 0).toNat % 16 == k && entryOk w
/-- A GRAPH of one node in the queue: ready, begun, or with one predecessor that has ended. -/
def graphRun (es : List (Nat × Nat)) (grids : Tab Nat) (ended : List Nat) : GraphRun :=
  { base := 0x10040, descs := [[0x10000, 1, 0, 0, 0, 0, 0, 0], [0x10000, 1, 0, 0, 0, 0, 0, 0]], edges := es, grids := grids, ended := ended, torn := false }
def running (r : GraphRun) : State := (entryAt []).onGrove 0 fun g => { g with queues := g.queues.put 3 { queueOf (entryAt []) with graph := some r } }
theorem witness_FrontEnd : (∀ x ∈ [([0, 0, 0, 0, 0, 0, 0, 0], 0), ([0xFF3, 0xFFFFFFFFFFFFFFFF, 0, 0, 0, 0, 0, 0], 3), ([0x4, 0, 0, 0, 0, 0, 0, 0], 4), ([0xFF4, 1, 0, 0, 0, 0, 0, 0], 4), ([1, 0, 0x10040, 0, 0, 0, 0, 0], 1),
      ([2, 0, 0, 0, 0, 0, 0x10000, 0x10080], 2)], kindIs (entryAt x.1) x.2 = true) ∧ (entryAt []).up = true ∧ (entryAt []).boot.attempt ≠ 4 ∧ (entryAt []).ctxOk 0 = true ∧ (entryAt []).ctxOk 1 = false ∧
    (match (entryAt []).readGraph 0 0x10040 with
      | .ok (some (ds, es), z) => ds == [[0x10000, 1, 0, 0, 0, 0, 0, 0]] && es == [] && decide (z.groves = (entryAt []).groves) && ds.all fun d => z.refusal 0 d true (dTeams d) == 0
      | _ => false) = true ∧
    (match (entryAt []).frontStore 0 0x10080 (bytesOfDwords [5, 0, 7, 0]) with
      | .ok z => decide (z.groves = (entryAt []).groves)
      | .error _ => false) = true ∧
    (({ pathAt with mem := pathAt.mem.write 0x200000 (natLe 8 (placedFrame + 0x453)) } : State).codeLeaves 0 0x10000 65537).isSome = true := by
  decide +kernel
/-- Kicks of the whole ring, of one more, and of less than before; a configuration that is good, and two that are not. -/
theorem witness_FrontEnd_queues : let q := queueOf (entryAt [])
    ((15 : Word) - q.done).toNat = 16 ∧ ((16 : Word) - q.done).toNat = 17 ∧ ((0xFFFFFFFF : Word) - q.done).toNat < (q.tail - q.done).toNat ∧ q.en = true ∧ 2 ^ q.log2n = 16 ∧
    ((0x41 : Dword).getLsbD 0 = true ∧ (0x40 : Dword).getLsbD 0 = false ∧ (0x41 : Dword).toNat / 2 ^ 4 % 2 ^ 4 = 4 ∧ (1 : Dword).toNat / 2 ^ 4 % 2 ^ 4 = 0) ∧
    inHbm q.base.toNat = true ∧ ((entryAt []).ctx 0).desc.grove = 0 ∧ SubQueue.reset.en = false ∧ SubQueue.reset.graph = none := by decide +kernel
theorem witness_FrontEnd_nodes : (∀ x ∈ [(graphRun [] .empty [], 1), (graphRun [(0, 1)] (Tab.empty.put 0 5) [0], 1)], (queueOf (running x.1)).graph = some x.1 ∧ x.1.torn = false ∧ x.1.grids.has x.2 = false ∧
      x.2 < x.1.descs.length ∧ ∀ e ∈ x.1.edges, e.2 = x.2 → e.1 ∈ x.1.ended) ∧
    (let r := graphRun [(0, 1)] .empty []
     (queueOf (running r)).graph = some r ∧ (0, 1) ∈ r.edges ∧ 0 ∉ r.ended) ∧
    (∀ p ∈ [0x10000, 0x10040], let s := (entryAt []).onGrove 0 fun g => { g with devq := [{ ctx := 0, desc := [BitVec.ofNat 64 p, 1, 0, 0, 0, 0, 0, 0], addr := 0, nteams := 1, pri := 0, replay := none }] }
      ((s.grove 0).devq.map fun e => (s.onGrove 0 fun k => { k with devq := [] }).refusal e.ctx e.desc false e.nteams) = [if p = 0x10000 then 0 else 3]) ∧
    (∀ x ∈ [(0, 0, 0), (127, 3, 31)], let gr : Grid := { Grid.none with kernel := { placedKernel with energy := 3 }, nteams := 2, spk := x.1, tiles := x.2.1, trk := x.2.2, admitted := 1, retired := 0 }
      let s : State := { entryAt [] with grids := Tab.empty.put 7 gr }
      s.grids.find 7 = some gr ∧ gr.torn = false ∧ gr.admitted < gr.total ∧ gr.lant = false ∧ gr.coop = false ∧ 0 ∈ s.groveCores gr.grove ∧ s.heldBack 7 0 = false ∧
        s.teamFits gr 0 = true) := by decide +kernel
/-- Two paths of a quadrant that has chosen nothing, of ages `a` and `b`. -/
def idleQuad (a b : Option Nat) : State := (twoPaths.onTeam 0 0 fun t => { t with seqExited := true }).onCore 0 fun c =>
  { c with
    quads := .empty
    groups := c.groups.put 0 { twoPaths.group 0 0 with
      paths := ((twoPaths.group 0 0).paths.put 0 { (twoPaths.group 0 0).path 0 with th := { ((twoPaths.group 0 0).path 0).th with age := a } }).put 1
        { (twoPaths.group 0 0).path 1 with th := { ((twoPaths.group 0 0).path 1).th with age := b } } } }
/-- A grid of one team that has retired, from node 0 of a graph of `n` nodes or from the device. -/
def endedGrid (src : GridSource) (n : Nat) : State :=
  let r : GraphRun := { base := 0, descs := List.replicate n [], edges := [], grids := Tab.empty.put 0 7, ended := [], torn := false }
  { (State.reset.onGrove 0 fun g => { g with queues := Tab.empty.put 3 { SubQueue.reset with graph := some r } }) with
    grids := Tab.empty.put 7 { Grid.none with src := src, admitted := 1, retired := 1 } }
theorem witness_Scheduling : (pathAt.core 0).quads.get 0 .none ≠ .none ∧ (((idleQuad none none).core 0).quads.get 0 .none).current = none ∧ State.reset.readyUnits 0 0 = [] ∧
    (∀ x ∈ [(none, none), (some 3, none), (some 5, some 4)], (idleQuad x.1 x.2).readyUnits 0 0 = [p0, .path 0 0 1] ∧ ∀ u ∈ (idleQuad x.1 x.2).readyUnits 0 0, (idleQuad x.1 x.2).stopHere u = false ∧ u.isPath = true) ∧
    (lantAt.lantern 0).progs.cells.length = 1 ∧ (lantAt.lantern 0).progs.find 0 = some (lantAt.prog 0 0) ∧ (lantAt.prog 0 0).th.state = .ready ∧ lantAt.stopHere l0 = false ∧
    twoPaths.alive (.path 0 0 1) = true ∧ (twoPaths.thread (.path 0 0 1)).state = .ready ∧ (twoPaths.thread (.path 0 0 1)).age = none ∧ ((twoPaths.core 0).quads.get 0 .none).current ≠ some (.path 0 0 1) ∧
    (let s := pathAt.onGroup 0 0 fun g => { g with idle := g.launched, paths := .empty }
     (s.group 0 0).live = 0 ∧ (s.group 0 0).paths.cells = [] ∧ (s.group 0 0).retired = false ∧ (s.core 0).groups.find 0 = some (s.group 0 0)) ∧ (pathAt.group 0 0).live ≠ 0 := by decide +kernel
theorem witness_Scheduling_ends : (let s := pathAt.onTeam 0 0 fun t => { t with torn := true }
     (s.core 0).teams.find 0 = some (s.team 0 0) ∧ s.grids.find (s.team 0 0).grid = some (s.grid 0) ∧ (s.team 0 0).torn = true) ∧ (pathAt.team 0 0).torn = false ∧ (pathAt.team 0 0).seqExited = false ∧
    (let s := (pathAt.onTeam 0 0 fun t => { t with seqExited := true }).onGroup 0 0 fun g => { g with retired := true }
     (s.team 0 0).seqExited = true ∧ (s.team 0 0).cmds = [] ∧ (s.core 0).evicted = [] ∧ (∀ g ∈ (s.core 0).groups.cells, g.2.team = 0 → g.2.retired = true) ∧ (s.team 0 0).retiring = 0 ∧
      (s.grid 0).replay = none ∧ (s.grid 0).kernel.replayable = false ∧ s.deferred = [] ∧ (s.grove (s.grid 0).grove).stallPend = [] ∧ (s.grove (s.grid 0).grove).stallq.toNat % 32 = 0) ∧
    (∀ x ∈ [(GridSource.device 0, 1), (.node 0 3 0, 1), (.node 0 3 0, 2)], let s := endedGrid x.1 x.2
      let gr := s.grid 7
      s.grids.find 7 = some gr ∧ gr.lant = false ∧ gr.replay = none ∧ s.deferred = [] ∧ gr.retired = gr.admitted ∧ gr.admitted = gr.total ∧ gr.src = x.1 ∧ gr.torn = false ∧
        ((queueOf s).graph.map fun r => (r.torn, r.grids.keys, r.descs.length)) = some (false, [0], x.2)) ∧
    (pathAt.grid 0).retired ≠ (pathAt.grid 0).admitted := by decide +kernel
/-- A debug ring and a stall ring of 64 slots at 0x300000 of which `n` are not consumed, with a record to write. -/
def ringsAt (n : Nat) (reg : Dword) : State := { (pathAt.onGrove 0 fun g => { g with dbgq := reg, stallq := reg, dbgPend := [(p0, [1, 2, 3, 4])], stallPend := [(0, 0)] }) with
  mem := pathAt.mem.write 0x2FF000 (natLe 8 n) }
theorem witness_Scheduling_rings : (0x300006 : Dword).toNat % 32 = 6 ∧ (0x300006 : Dword).toNat / 2 ^ 12 % 2 ^ 40 * 4096 = 0x300000 ∧ (0 : Dword).toNat % 32 = 0 ∧
    (∀ n ∈ [0, 62, 63, 64], ((ringsAt n 0x300006).home64 (0x300000 - 4096) - (ringsAt n 0x300006).home64 (0x300000 - 4088)).toNat = n ∧ ((ringsAt n 0x300006).grove 0).dbgPend = [(p0, [1, 2, 3, 4])] ∧
      ((ringsAt n 0x300006).grove 0).stallPend = [(0, 0)] ∧ ((ringsAt n 0).grove 0).dbgq = 0) ∧ 1 + ((pathAt.core 0).groups.cells.filter fun n => n.2.team == 0).length = 2 := by decide +kernel

/-- Save, resume and teardown commands for the context's team 0 with its image at 0x50000000; a grove window with `n` commands. -/
def psx (act : Nat) (ctx : Nat) : PsCmd := { act := act, ctx := ctx, all := false, team := 0, tag := 5, img := 0x50000000, core := 0 }
def psAt (s : State) (l : List PsCmd) : State := s.onGrove 0 fun g => { g with win := { g.win with psq := l, psimg := 0x50000000 } }
/-- An image at 0x50000000 that is all zeros but for its header, and core 0 of the grove empty. -/
def imageAt : State := { (pathAt.onCore 0 fun c => { c with groups := .empty, teams := .empty }) with
  pf := { pathAt.pf with standgrv := Tab.empty.put 0 0x40 }
  mem := [(0x50000000, 3), (0x50000005, 0x30), (0x50000018, 0x41), (0x50000023, 1), (0x50000028, 1), (0x50000029, 0x20)] }
/-- How a resume ends: 0 refused, 1 waits, 2 placed with the window as it was, 3 placed with another window. -/
def endOf (s : State) (x : PsCmd) : Nat := match s.resumeTry x with
  | .refused => 0
  | .waits => 1
  | .placed z => if z.window (some 0) = s.window (some 0) then 2 else 3
def bareAt : State := (pathAt.onCore 0 fun c => { c with groups := .empty }).onTeam 0 0 fun t => { t with slots := [], spSize := 0, tiles := [], trunk := { TrunkCfg.none with size := 0 } }
theorem witness_Preemption : pathAt.up = true ∧ (pathAt.ctx 0).desc.grove = 0 ∧ inHbm 0x50000000 = true ∧ (∀ n ∈ [0, 7, 8], ((psAt pathAt (List.replicate n (psx 0 0))).grove 0).win.psq.length = n) ∧
    ((psAt pathAt []).grove 0).win.psimg.toNat / 2 ^ 16 % 2 ^ 36 * 65536 = 0x50000000 ∧ pathAt.psTeams (psx 0 0) = [(0, 0)] ∧ pathAt.psTeams (psx 0 1) = [] ∧
    endOf (psAt imageAt [psx 1 0]) (psx 1 1) = 0 ∧ endOf (psAt pathAt [psx 1 0]) (psx 1 0) = 1 ∧ endOf (psAt imageAt [psx 1 0]) (psx 1 0) = 2 ∧
    (pathAt.onPathOf p0 fun p => { p with th := { p.th with run := { p.th.run with count := 1 } } }).canSave 0 0 = false ∧ bareAt.canSave 0 0 = true ∧ bareAt.psTeams (psx 0 0) = [(0, 0)] ∧
    0x50000000 + (((bareAt.quietTeam 0 0).teamImage 0 0).length + 65535) / 65536 * 65536 + 256 ≤ Config.hbmBytes := by decide +kernel
/-- Booting: in step 1, running each image, dead; each move of LCSTATE. -/
def booting (i : BitVec 2) : State := { State.reset with boot := { Boot.reset with image := i, start := some { warm := false, image := some i } } }
theorem witness_Booting : State.reset.boot.dead = false ∧ State.reset.boot.start = none ∧ State.reset.up = true ∧ (∀ i ∈ ([0, 1, 2] : List (BitVec 2)), (booting i).boot.start ≠ none ∧ (booting i).up = false) ∧
    ({ State.reset with boot := { Boot.reset with dead := true } } : State).up = false ∧ Boot.reset.flashBusy = false ∧ (1 : BitVec 2) ≠ Boot.reset.image ∧ (1 : BitVec 2).toNat < 2 ∧
    64 * (BitVec.ofNat 46 (Config.hbmBytes / 64 - 1)).toNat < Config.hbmBytes ∧ ¬ 64 * (BitVec.ofNat 46 (Config.hbmBytes / 64)).toNat < Config.hbmBytes ∧
    (Boot.reset.lcstate, (1 : BitVec 2)) ∈ [((0 : BitVec 2), (1 : BitVec 2)), (1, 2), (2, 3), (3, 1)] := by decide +kernel
/-- HostRegisters: stands that hold something and nothing; rings at both ends of what is legal; offsets of every register are in the statement. -/
theorem witness_HostRegisters : State.reset.up = true ∧ (booting 0).up = false ∧ (pathAt.core (8 * 0 + 0)).teams.cells ≠ [] ∧ (∀ i < 8, (State.reset.core (8 * 63 + i)).teams.cells = []) ∧
    (State.reset.lantern 63).progs.cells = [] ∧ (0x7F : Dword).setWidth 7 ≠ State.reset.pf.standgrv.get 63 0 ∧ State.reset.stands 63 = [] ∧ (outAt.stands 0) = [0] ∧
    (∀ i < 8, (State.reset.core (8 * 63 + i)).mc.wbuf = []) ∧
    (6 ≤ (0x1006 : Dword).toNat % 32 ∧ (0x1010 : Dword).toNat % 32 ≤ 16 ∧ 4096 ≤ (0x1006 : Dword).toNat / 2 ^ 12 % 2 ^ 40 * 4096 ∧ 4096 + 64 * 2 ^ 16 ≤ Config.hbmBytes) ∧
    (0x1005 : Dword).toNat % 32 = 5 ∧ (0x1011 : Dword).toNat % 32 = 17 ∧ (0x100000000000000 : Dword).getLsbD 56 = true ∧
    (pathAt.onPathOf p0 fun p => { p with th := { p.th with state := .held } }).alive p0 = true ∧
    (∀ c ∈ State.reset.groveCores 0, (State.reset.core c).evicted = []) ∧ (∃ c ∈ outAt.groveCores 0, (outAt.core c).evicted ≠ []) ∧
    (∀ c ∈ pathAt.ctxs.cells, c.2.desc.en = false ∨ c.2.desc.grove ≠ 1) := by
  and_intros <;> decide +kernel
/-- A peer link that takes what lies in its first MiB, and HBM of which sector `k` is poisoned. -/
def peerAt (accept : Bool) (k : Nat) : State := { withData pathAt with
  pf := { State.reset.pf with peers := Tab.empty.put 15 { Peer.reset with en := true, accept := accept, lo := 1, hi := 1, up := true } }
  poison := [k] }
theorem witness_HostAccesses : (booting 0).up = false ∧ pathAt.up = true ∧ Config.hbmBytes - 1 + 1 ≤ Config.hbmBytes ∧ Config.hbmBytes < Config.hbmBytes - 1 + 2 ∧
    (peerAt true 16384).poisoned 0x100000 8 = true ∧ (peerAt true 16384).poisoned 0x100040 8 = false ∧
    (let k := (peerAt true 0).pf.peers.get 15 .reset
     k.en = true ∧ k.up = true ∧ k.accept = true ∧ 0x100000 / 2 ^ 20 = k.lo ∧ k.hi = (0x1FFFF8 + 8 - 1) / 2 ^ 20 ∧ 0xFFFFF / 2 ^ 20 < k.lo ∧ k.hi < (0x1FFFF8 + 9 - 1) / 2 ^ 20) ∧
    ((peerAt false 0).pf.peers.get 15 .reset).accept = false ∧ ((withData pathAt).grove 0).apctx = 0 ∧ ((withData pathAt).grove 0).apbase = 0 ∧ ((withData pathAt).ctx 0).desc.grove = 0 ∧
    ((withData pathAt).ctx 0).desc.grove ≠ 1 ∧ 0x1007F % 64 + 1 ≤ 64 ∧ went ((withData pathAt).translate mgmtNode 0 0x1007F .load) = true ∧ went ((withData pathAt).translate mgmtNode 0 0x1007F .store) = true ∧
    went ((withData pathAt).translate mgmtNode 0 0x100000000000000 .load) = false ∧ State.reset.pf.sagLevel.get 7 0 < 4 ∧
    (match (withData pathAt).translate mgmtNode 0 0x1007F .store with
      | .ok x => x.mir
      | .error _ => true) = false := by decide +kernel
/-- DecodeEncode: instructions of one word and of two, with every bit of their fields 1. -/
theorem witness_DecodeEncode : hasWord (.vadd { k := true, d := 63, a := 127, b := 127, m := 7 }) = true ∧ hasWord (.vli { k := true, d := 63, a := 127, b := 127, m := 7 } { lit := 0xFFFFFFFF }) = true ∧
    hasWord (.bfence { k := true, d := 255, a := 255, imm := -1 }) = true ∧ hasWord .powerOn = false ∧
    (match decode [0x6A, 0x0A, 0x04, 0x01, 7] with
      | .ok (_, r) => r == [7]
      | .error _ => false) = true := by decide +kernel
/-- StepRunsDecoded: a word placed; a line that is cached; bytes that decode to nothing; a unit that waits; an event on the agenda. -/
theorem witness_StepRunsDecoded : pathAt.agenda = [] ∧ pathAt.turn = some p0 ∧ pathAt.alive p0 = true ∧ (pathAt.thread p0).state = .ready ∧
    (match pathAt.translate p0.node (pathAt.ctxOf p0) 0x10000 .fetch with
      | .ok x => x.at_ p0.node % 64 == 0 && !pathAt.poisoned (64 * (x.at_ p0.node / 64)) 64
      | .error _ => false) = true ∧ (pathAt.caches p0.node).code.has ((placedFrame + 0x10000) / 64) = false ∧
    (waitingIn pathAt p0 (.nop ga) 0).alive p0 = true ∧ ((waitingIn pathAt p0 (.nop ga) 0).thread p0).state ≠ .ready ∧ hasWord .powerOn = false ∧
    decodeTableWord 32 0x01040A6A = some (.vadd { k := false, d := 2, a := 2, b := 77, m := 2 }) ∧
    (match decode ((List.replicate 8 0) ++ [0, 0, 0, 0]) with
      | .ok _ => false
      | .error _ => true) = true := by decide +kernel
/-- KeepsMemory: a step that goes on from a state whose memories are in canonical form. -/
theorem witness_KeepsMemory : (State.reset.withFetchWord 32 0x01040A6A).mem.wf = true ∧ (State.reset.withFetchWord 32 0x01040A6A).hbm.wf = true ∧
    (match step (State.reset.withFetchWord 32 0x01040A6A) with
      | .next t => t.mem.wf
      | _ => false) = true := by decide +kernel


/-! More states and operands: clauses beside those above. -/

/-- Convergents: the other member of the family waits in the same instruction. -/
def p1 : UnitId := .path 0 0 1
def together (i : Instr) : State := pathAt.onGroup 0 0 fun g =>
  { g with
    paths := (g.paths.put 0 { g.path 0 with mask := 0xFFFF }).put 1
      { g.path 0 with mask := 0xFFFF0000, th := { Thread.startAt placedVa 0 with state := .waiting, wait := some { instr := i, lo := 0 } } } }
theorem witness_Convergents_together : ∀ i ∈ [Instr.vvote { la with m := 1 } { mode := 3, sd := 9, res := 0 }, .vreduce { la with m := 4 }, .vscan { la with b := 8 }],
    (together i).Issues p0 i ∧ (together i).family p0 = [(1, (together i).pathOf p1)] ∧ ((together i).thread p1).pc = ((together i).thread p0).pc ∧
    ((together i).thread p1).waiting = some i := by
  intro i h
  have := (by decide +kernel : ∀ i ∈ [Instr.vvote { la with m := 1 } { mode := 3, sd := 9, res := 0 }, .vreduce { la with m := 4 }, .vscan { la with b := 8 }],
    may (together i) p0 i = true ∧ (together i).family p0 = [(1, (together i).pathOf p1)] ∧ ((together i).thread p1).pc = ((together i).thread p0).pc ∧
    ((together i).thread p1).waiting = some i) i h
  exact ⟨issues_of_may this.1, this.2⟩

/-- UniformAccesses: a line that a command still has to write. -/
def absentAt (s : State) : State := s.onTeam 0 0 fun t => { t with absent := [15] }
theorem witness_UniformAccesses_waits : (absentAt (spadAt 8)).mustWait p0 true 8 4088 = true ∧ (spadAt 8).srcG p0 0 + (0 : BitVec 16).signExtend 64 = 4088 ∧
    (∀ i ∈ [Instr.gld ga { gmemx with sp := true }, .gst ga { gmemx with sp := true },
      .gatom ga { ty := 2, ixe := false, ord := 0, scope := 0, res := 0, sp := true, aop := 8, off := 0 }], (absentAt (spadAt 8)).Issues p0 i) ∧
    passes (spadAt 8) p0 true .store 8 4088 = true ∧ passes (spadAt 8) p0 true .atomic 8 4088 = true ∧
    ((readyOf (withS (withData seqAt) 0 0x10040) q0 false .atomic 8 0x10040).xl.map fun z => decide (z.pte + 8 ≤ z.pa)) = some true ∧
    ((withS (withData seqAt) 0 0x10040).caches q0.node).wbuf = [] := by
  and_intros <;> first | decide +kernel | exact issues_all (by decide +kernel)
/-- AccessChecks: a global address whose sector is poisoned, one that is not, one with no leaf. -/
def poisonAt (k : Nat) : State := { withData pathAt with poison := [(placedFrame + 0x10040) / 64 + k] }
theorem witness_AccessChecks_global : (∀ k ∈ [Kind.load, .store, .atomic], went ((poisonAt 0).translate 0 0 0x10040 k) = true) ∧
    went (pathAt.translate 0 0 0x400000000 .load) = false ∧ (0x10040 : Dword).toNat % 8 = 0 ∧
    (match (poisonAt 0).translate 0 0 0x10040 .load with
      | .ok x => x.at_ 0 == placedFrame + 0x10040 && (poisonAt 0).poison.contains (x.at_ 0 / 64) && !(poisonAt 1).poison.contains (x.at_ 0 / 64)
      | .error _ => false) = true ∧ ((poisonAt 0).caches 0).l1 = .empty ∧ ((poisonAt 0).caches 0).wbuf = [] := by decide +kernel

/-- BrdDivides: at top level, slice 0 divided, slice 2 taken, the others not; with room in the path table, and with two entries free, one short. -/
def crowded (s : State) (n : Nat) : State := s.onGroup 0 0 fun g =>
  { g with paths := (List.range n).foldl (fun t k => t.put (k + 1) { g.path 0 with mask := 0 }) g.paths }
theorem witness_BrdDivides_arms : let i : Instr := .brd { k := false, c := 0, disp := 5 }
    let s := withS pathAt 0 0x0F0C
    let p := s.pathOf p0
    let whole (x : Dword) (l : Nat) : Bool := p.mask.getLsbD l && (List.range 64).all fun b => !(b / 4 == l / 4 && p.mask.getLsbD b) || x.getLsbD b
    s.Issues p0 i ∧ (crowded s 29).Issues p0 i ∧ p.mask &&& s.srcG p0 0 = 0xF0C ∧ p.mask &&& ~~~(s.srcG p0 0) = 0xFFFFF0F3 ∧
    (∀ l < 64, (0xF00 : Dword).getLsbD l = whole 0xF0C l) ∧ (∀ l < 64, (0xFFFFF0F0 : Dword).getLsbD l = whole 0xFFFFF0F3 l) ∧
    p.mask &&& ~~~((0xF00 : Dword) ||| 0xFFFFF0F0) = 0xF ∧ p.arm = false ∧ p.stkv = false ∧ (s.group 0 0).stack.free 64 = some 0 ∧
    3 ≤ ((List.range 32).filter fun n => !(s.group 0 0).paths.has n).length ∧
    ((List.range 32).filter fun n => !((crowded s 29).group 0 0).paths.has n).length < 3 ∧
    ((crowded s 29).group 0 0).stack.free 64 = some 0 ∧ ((crowded s 29).pathOf p0).mask = p.mask := by
  and_intros <;> first | decide +kernel | exact issues_of_may (by decide +kernel)

/-- JoinsAndRegangs: an arm whose partner has the lower entry, elsewhere, in another window, or gone; a REGANG that completes the live lanes, and that disagrees. -/
def armsFrom (u : UnitId) (pc : Dword) (wb : Nat) : State :=
  { (arms .atJoin).onGroup 0 0 fun g =>
      { g with
        paths := (g.paths.put 0 { g.path 0 with th := { Thread.startAt (if u = p0 then placedVa else pc) 0 with state := if u = p0 then .ready else .atJoin } }).put 1
          { g.path 1 with wb := wb, th := { Thread.startAt (if u = p0 then pc else placedVa) 0 with state := if u = p0 then .atJoin else .ready } } } with
    turn := some u }
def leftArm : State := (arms .ready).onGroup 0 0 fun g => { g with paths := g.paths.drop 1 }
theorem witness_JoinsAndRegangs_arms : (∀ x ∈ [(p1, placedVa, 0), (p0, 0x20000, 0), (p0, placedVa, 1)], (armsFrom x.1 x.2.1 x.2.2).Issues x.1 (.join ga)) ∧
    leftArm.Issues p0 (.join ga) ∧ ((leftArm.dropOut p0 none).group 0 0).paths.find 1 = none ∧
    (let k := ((armsFrom p1 placedVa 0).dropOut p1 none).group 0 0
     (k.path 1).partner = 0 ∧ k.paths.find 0 = some (k.path 0) ∧ (k.path 0).th.state = .atJoin ∧ (k.path 0).th.pc = placedVa ∧ (k.path 0).stk = (k.path 1).stk ∧
      (k.stack.get 0 StackEntry.none).kind = true) ∧
    (((armsFrom p0 0x20000 0).dropOut p0 none).group 0 0).path 1 = (((armsFrom p0 0x20000 0)).group 0 0).path 1 ∧
    ((((armsFrom p0 0x20000 0).dropOut p0 none).group 0 0).path 1).th.pc = 0x20000 ∧ ((((armsFrom p0 placedVa 1).dropOut p0 none).group 0 0).path 1).wb = 1 := by
  and_intros <;> first | decide +kernel | exact issues_of_may (by decide +kernel) |
    exact fun x h => issues_of_may ((by decide +kernel : ∀ x ∈ [(p1, placedVa, 0), (p0, 0x20000, 0), (p0, placedVa, 1)],
      may (armsFrom x.1 x.2.1 x.2.2) x.1 (.join ga) = true) x h)
def regangs (here : Bool) : State := pathAt.onGroup 0 0 fun g =>
  { g with
    paths := (g.paths.put 0 { g.path 0 with mask := 0xFFFF }).put 1
      { g.path 0 with mask := 0xFFFF0000, th := { Thread.startAt (if here then placedVa else 0x20000) 0 with state := .atRegang } } }
theorem witness_JoinsAndRegangs_merges : ∀ here : Bool, (regangs here).Issues p0 (.regang ga) ∧
    (let k := ((regangs here).dropOut p0 none).group 0 0
     k.paths.keys = [0, 1] ∧ (k.path 0).arm = false ∧ (k.path 0).stkv = false ∧ (k.path 1).th.state = .atRegang ∧ (k.path 0).th.pc = placedVa ∧ (k.path 1).th.pc = (if here then placedVa else 0x20000) ∧
      (k.path 0).mask ||| (k.path 1).mask = k.live) ∧
    ((twoPaths.dropOut p0 none).group 0 0).live.getLsbD 31 = true ∧ (((twoPaths.dropOut p0 none).group 0 0).path 0).mask.getLsbD 31 = false := by
  intro here
  have := (by decide +kernel : ∀ here : Bool, may (regangs here) p0 (.regang ga) = true ∧
    (let k := ((regangs here).dropOut p0 none).group 0 0
     k.paths.keys = [0, 1] ∧ (k.path 0).arm = false ∧ (k.path 0).stkv = false ∧ (k.path 1).th.state = .atRegang ∧ (k.path 0).th.pc = placedVa ∧ (k.path 1).th.pc = (if here then placedVa else 0x20000) ∧
      (k.path 0).mask ||| (k.path 1).mask = k.live) ∧
    ((twoPaths.dropOut p0 none).group 0 0).live.getLsbD 31 = true ∧ (((twoPaths.dropOut p0 none).group 0 0).path 0).mask.getLsbD 31 = false) here
  exact ⟨issues_of_may this.1, this.2⟩

/-- TrunkAdds: a span of two teams, the other of which is on core 0, saved, or in no slot; partials that still travel to it. -/
def spanned (there away : Bool) (inbox : List Partial) : State :=
  let s := withS pathAt 0 0 |>.onTeam 0 0 fun t => { t with trunk := { t.trunk with span := 2, members := [0, 1] } }
  let s := if there then s.onCore 0 fun c => { c with teams := c.teams.put 1 { s.team 0 0 with number := 1, slots := [], trunk := { (s.team 0 0).trunk with pos := 1 }, inbox := inbox } } else s
  { s with grids := s.grids.put 0 { s.grid 0 with away := if away then [1] else [] } }
theorem witness_TrunkAdds_span : let i : Instr := .tsync { la with a := 72, m := 3 }
    (∀ x ∈ [(false, false), (false, true), (true, false)], (spanned x.1 x.2 []).Issues p0 i) ∧ ((spanned true false []).teamOf p0).trunkBusy = false ∧
    (spanned false true []).spanAway 0 0 = true ∧ (spanned false false []).spanAway 0 0 = false ∧ (spanned false false []).spanOthers 0 0 = [] ∧
    (spanned true false []).spanAway 0 0 = false ∧ (spanned true false []).spanOthers 0 0 = [(0, 1)] ∧ ((spanned true false []).thread p0).wait = none ∧
    ((spanned true false []).teamOf p0).trunk.rows = 16 ∧ ((spanned true false []).teamOf p0).trunk.span = 2 ∧
    (∀ l ∈ [[], [{ row := 15, pos := 0, sq := 0, wcnt := 0 }]], let s := waitingIn (spanned true false l) p0 i 1
      (s.thread p0).state = .waiting ∧ (s.thread p0).wait = some { instr := i, lo := 1 } ∧ s.alive p0 = true ∧ (s.sget p0 0).toNat = 0 ∧ (s.team 0 1).inbox = l) := by
  and_intros <;> first | decide +kernel |
    exact fun x h => issues_of_may ((by decide +kernel : ∀ x ∈ [(false, false), (false, true), (true, false)], may (spanned x.1 x.2 []) p0 (.tsync { la with a := 72, m := 3 }) = true) x h)

/-- ChoiceLanes: a second vector at 0x10180 with result word `r`, and a chain record of the two, which the lane accepts or not. -/
def pairAt (r : Dword) : State := { chained with
  mem := ((chained.mem.write (placedFrame + 0x10180) (bytesOfDwords [9, 0x309, r, 0])).write (placedFrame + 0x10308) (bytesOfDwords [0x10180])) }
/-- The reads and the draw of RCMP, whether both vectors hold a result, and, with `takes`, the stores of its outcome. -/
def rcmpParts (s : State) (takes : Bool) : Except Flt Bool := do
  let nd := s.whoOf p0
  let (c, q) ← s.plainWords nd 0 0x10300 4
  let (hx, q) ← q.cvHeader nd 0 (wordAt c 0)
  let (hy, q) ← q.cvHeader nd 0 (wordAt c 1)
  let (_, q) ← q.readStreams nd 0 (wordAt c 1) hy
  let (_, q) ← q.readStreams nd 0 (wordAt c 1) hy
  let (q, _) ← q.drawLane p0 0 1
  let q ← q.plainStore nd 0 0x10400 (List.replicate 32 0)
  let q ← q.plainStore nd 0 0x10318 (natLe 4 1)
  if takes then let _ ← q.plainStore nd 0 0x10300 (natLe 16 0)
  pure (hx.rv && hy.rv)
theorem witness_ChoiceLanes_compares : (∀ r ∈ [0x100000005, 0x1BF800000], let s := pairAt (BitVec.ofNat 64 r)
      s.srcL p0 72 0 64 = 0x10300 ∧ (s.bindOf p0 0).bound = true ∧ (s.bindOf p0 0).nstr = 2 ∧
      (∀ t, (match rcmpParts s t with
        | .ok v => v
        | .error _ => false) = true) ∧
      (match s.rcmpLane { la with a := 72, m := 1 } { astr := 1, res := 0 } p0 0 with
        | .ok z => z.2 == (if r = 0x100000005 then 1 else 0)
        | .error _ => false) = true) ∧
    (match rcmpParts (pairAt 5) false with
      | .ok v => v
      | .error _ => true) = false ∧ ¬ (2 : BitVec 7).toNat < ((pairAt 5).bindOf p0 0).nstr ∧ (one.bindOf p0 0).bound = false := by decide +kernel

/-- MUTATE of the vector at 0x10080: with no edits, with one, by a turn of stream 1 and by a cut; descriptors and lists that are ill formed. -/
def mutantAt (d e : List Dword) : State := { oneData with
  mem := ((oneData.mem.write (placedFrame + 0x10380) (bytesOfDwords d)).write (placedFrame + 0x103C0) (bytesOfDwords e)).write (placedFrame + 0x100A0) (natLe 4 4 ++ natLe 4 4) }
def otherVector (s : State) (w1 : Dword) : State := { s with mem := s.mem.write (placedFrame + 0x10180) (bytesOfDwords [9, w1, 0, 0]) }
/-- The reads of MUTATE and the store of its header. -/
def mutateParts (s : State) (kind : Nat) : Except Flt Bool := do
  let nd := s.whoOf p0
  let (d, q) ← s.plainWords nd 0 0x10380 4
  let (h, q) ← q.cvHeader nd 0 0x10080
  let (l, q) ← q.plainWords nd 0 (wordAt d 2) (if kind = 0 then (wordAt d 3).toNat else 0)
  let (_, q) ← q.readStreams nd 0 0x10080 h
  if kind = 2 then
    let (h2, q) ← q.cvHeader nd 0 (wordAt d 2)
    let (_, q) ← q.readStreams nd 0 (wordAt d 2) h2
    let _ ← q.plainStore nd 0 0x10400 (List.replicate 128 0)
    pure (h2.nstr == h.nstr && h2.cap == h.cap)
  else
    let _ ← q.plainStore nd 0 0x10400 (List.replicate 128 0)
    pure (l.all fun e => e.toNat / 2 ^ 24 % 16 < h.nstr)
theorem witness_ChoiceLanes_mutants :
    (∀ x ∈ [(mutantAt [5, 0, 0, 0] [], 0, true), (mutantAt [5, 0, 0x103C0, 1] [0x301000007], 0, true), (mutantAt [5, 0x31, 0, 0] [], 1, true),
        (otherVector (mutantAt [5, 0x21, 0x10180, 0] []) 0x309, 2, true), (otherVector (mutantAt [5, 0x21, 0x10180, 0] []) 0x209, 2, false),
        (mutantAt [5, 0, 0x103C0, 1] [0x302000007], 0, false)],
      (match mutateParts x.1 x.2.1 with
        | .ok v => v
        | .error _ => !x.2.2) = x.2.2 ∧ went (x.1.mutate p0 0x10400 0x10080 0x10380 x.2.1) = x.2.2) ∧
    went ((mutantAt [5, 2, 0, 0] []).mutate p0 0x10400 0x10080 0x10380 1) = false ∧ went ((mutantAt [5, 0, 0, 0] []).mutate p0 0x10080 0x10080 0x10380 0) = false := by decide +kernel

/-- RaySlots: images that are tidy and hold no march, a march of the lane's own vector and of another, a field that is too wide, a PHASE of 3. -/
def slotImage (ws : List (Nat × Dword)) : State := let s := boundTo oneData false 0
  withS { s with mem := ws.foldl (fun m w => m.write (placedFrame + 0x10400 + 8 * w.1) (natLe 8 w.2.toNat)) s.mem } 0 0x10400
/-- How RLOAD of the image ends: the lane's word 7, or its fault. -/
def rloads (s : State) : Nat × Nat := match s.rloadLane { la with a := 72 } p0 0 with
  | .ok r => (0, ((r.1.slot p0 0).get 7 0).toNat)
  | .error e => (e.cause, e.detail)
theorem witness_RaySlots_loads : (∀ ws ∈ [[], [(7, (0x10080 : Dword))], [(20, 0x40000000), (24, 0x10080)]], went ((slotImage ws).sceneLoad p0 0x10400 256) = true) ∧
    rloads (slotImage [(7, 0x10080)]) = (0, 0x10080) ∧ rloads (slotImage [(20, 0x40000000), (24, 0x10080)]) = (0, 0) ∧ rloads (slotImage [(20, 0x40000000), (24, 0x10100)]) = (0x15, 5) ∧
    rloads (slotImage [(7, 0x100000000000000)]) = (0x15, 4) ∧ rloads (slotImage [(17, 0xC000)]) = (0x15, 4) ∧ rloads (withS (slotImage []) 0 0x10401) = (0x10, 0) ∧
    rloads (withS (slotImage []) 0 0x100000000000000) = (2, 0) := by decide +kernel

/-- RayOperations: rays in v0 to v7 of the one lane, along x or with no direction, that begin; a volume and a scene at s0; a slot that ended at another address. -/
def rayAt (dx : Word) (there : Dword) (sl : Tab Dword) : State :=
  let s := withV (withV (boundTo oneData false 0) 0 7 0x3F800000) 0 4 dx
  withS { (s.onGroup 0 0 fun g => { g with slots := Tab.empty.put 0 sl }) with mem := s.mem.write (placedFrame + 0x101B0) (natLe 8 (2 ^ 31)) } 0 there
def endedAt (d : Dword) : Tab Dword := slotSets .empty [(fOP, 1), (fPHASE, 2), (fIPC, 0x20000), (fROOT, 0x10180), (fVOL, 0x10100)] |>.put 2 d |>.put 3 0x3F80000000000000
def marched : Tab Dword := slotSets .empty [(fOP, 4), (fPHASE, 2), (fIPC, 0x20000), (fVOL, 0x10100)] |>.put 20 0x1040000000 |>.put 24 0x10080
/-- What a first issue leads to: 0 a fault, 1 a lane to step, 2 all finished. -/
def firstIssue (s : State) (j : Instr) (op : RayOp) : Nat := match op.begin_ s p0 0 with
  | .ok q => if ((q.slot p0 0).get 17 0).toNat / 2 ^ 14 % 4 == 1 && went (op.step (q.waitIn p0 { instr := j, lo := 0 }) p0 0) then 1 else
      if ((q.slot p0 0).get 17 0).toNat / 2 ^ 14 % 4 == 2 then 2 else 3
  | .error _ => 0
def raysFrom (x : TraceX) (m : MarchX) : List (Instr × RayOp) :=
  let f : LA := { la with b := 72 }
  [(.trace f x, traceOp f x 1), (.tracea f x, traceOp f x 2), (.traceo la { x with vmask := 0 }, traceoOp), (.vmarch f m, marchOp f m)]
theorem witness_RayOperations_begins : ((raysFrom tracex marchx).all fun o => may (rayAt 0x3F800000 0x10180 (endedAt 0x3F800000)) p0 o.1) = true ∧
    (((rayAt 0x3F800000 0x10180 (endedAt 0x3F800000)).maskOf p0).lanes = [0]) ∧ ((raysFrom tracex marchx).map fun o => firstIssue (rayAt 0x3F800000 0x10180 (endedAt 0x3F800000)) o.1 o.2) = [1, 1, 1, 1] ∧
    ((raysFrom tracex marchx).map fun o => firstIssue (rayAt 0 0x10180 (endedAt 0)) o.1 o.2) = [2, 2, 2, 2] ∧
    ((raysFrom tracex marchx).map fun o => firstIssue (rayAt 0x3F800000 0x10181 marched) o.1 o.2) = [0, 0, 0, 0] := by decide +kernel

/-- Launching: a spill area that ends below 2^56, and one that reaches it. -/
theorem witness_Launching_spills : (launchAt 1).descOk 0 [0x10000, 1, 0, 0, 0, 0x100000, 0, 0] = true ∧ (launchAt 1).descOk 0 [0x10000, 1, 0, 0, 0, 0xFFFFFFFFFE0000, 0, 0] = false ∧
    ((launchAt 1).kernelAt 0 0x10000).map (·.width) = some 32 ∧ kernelGroups placedKernel = 1 := by decide +kernel

/-- TranslationEvents: a record of command 2 of queue 1, with which it ends. -/
def failing : State :=
  let s := withCmds (ringOf 63 [{ record0 with out := some (.failing 0 0 1 2) }]) 1 [{ cmdOf (.mzero ga { tile := 0, res := 0, gsense := false, gslot := 0, gen := false }) with id := 2 }]
  s
theorem witness_TranslationEvents_fails : (failing.ctx 0).pend.map (·.out) = [some (.failing 0 0 1 2)] ∧ (failing.team 0 0).seqExited = false ∧ (failing.thread q0).state ≠ .waiting ∧
    ((((failing.team 0 0).eng.get 1 .none).cmds.find? fun y => y.id == 2).map (·.id)) = some 2 ∧
    (failing.home64 (0x300000 - 4096) - failing.home64 (0x300000 - 4088)).toNat = 63 := by decide +kernel

/-- MemoryEvents: a clean line, and a sector of HBM that is poisoned below it. -/
theorem witness_MemoryEvents_clean : let s := { lineAt { z := false, vs := 8, ds := 0 } with hbmPoison := [23] }
    (s.l2.find (23 / 4)).map (·.ds) = some 0 ∧ s.hbmPoison.contains 23 = true ∧ s.poison.contains 23 = false := by decide +kernel

/-- CopyEngineWork: a copy whose source a command of another queue still has to write. -/
def heldCopy : State := withCmds (headAt (withData seqAt) 0 (.cpy ga { cpyx with mode := 1 }) [0x10040, 0, 65]) 1 [{ cmdOf (.mtopk ga { tile := 0, km1 := 15, res := 0, gsense := false, gslot := 0, gen := false }) with id := 1, lines := [0] }]
theorem witness_CopyEngineWork_waits : let x : Cmd := { cmdOf (.cpy ga { cpyx with mode := 1 }) with ops := [0x10040, 0, 65] }
    heldCopy.Heads 0 0 0 x [] ∧ (heldCopy.linearCopy 0 0 { cpyx with mode := 1 } none x).stop = some .wait ∧
    ((heldCopy.linearCopy 0 0 { cpyx with mode := 1 } none x).s.team 0 0).eng = (heldCopy.team 0 0).eng ∧ seqAt.contribs = [] ∧ seqAt.mirror.flight = [] := by
  and_intros <;> first | decide +kernel | exact heads_of (by decide +kernel)
/-- MatrixAndTrunkWork: does every unit of a row image come in, and is the whole one legal? -/
def restores : Bool :=
  let s := headAt (withData seqAt) 2 (.trestore ga imagex) [0x10040, 15]
  let r := (List.range 17).foldl (fun (r : State × List Byte × Bool) n =>
    let g := r.1.engRead 0 0 (0x10040 + BitVec.ofNat 64 (64 * n)) 64 2
    (g.s.onHead 0 0 2 fun y => { y with buf := r.2.1 ++ g.bytes }, r.2.1 ++ g.bytes, r.2.2 && g.flt.isNone && !g.bad.any id)) (s, [], true)
  r.2.2 && imageOk 128 r.2.1
theorem witness_MatrixAndTrunkWork_restores : restores = true := by decide +kernel

/-- FrontEnd: a queue that a run of a graph still holds, disabled. -/
def paused : State := (running (graphRun [] .empty [])).onGrove 0 fun g => { g with queues := g.queues.put 3 { queueOf (running (graphRun [] .empty [])) with en := false } }
theorem witness_FrontEnd_paused : (queueOf paused).en = false ∧ (queueOf paused).graph ≠ none ∧ (queueOf paused).pri = 0 ∧ (queueOf paused).log2n = 4 ∧ (queueOf paused).ctx = 0 ∧
    ((0x41 : Dword).toNat / 2 % 8 = 0 ∧ (0x43 : Dword).toNat / 2 % 8 = 1) ∧ inHbm (queueOf paused).base.toNat = true ∧ ((paused.onCtx 0 fun c => { c with desc := { c.desc with w0 := 0x0010000000000001 } }).ctx 0).desc.grove ≠ 0 := by decide +kernel
/-- An object of two sections of one NOP each, signed or not. -/
def objectOf (signed : Bool) (v : Nat) : CodeObject :=
  { signer := if signed then some 0 else none, version := v, parts := [[0x80000000], [0x80000000]], data := [], relocs := []
    kernels := [{ addrPart := 0, codePart := 1, width := 32, roles := [], energy := 0, replayable := false }] }
def madeOf (o : CodeObject) : Nat := match translateObject 0 0 0x10000 o with
  | .rejected st _ _ => st
  | .code c ks => c.length + ks.length * 1000
theorem witness_FrontEnd_installs : madeOf (objectOf false 5) = 1 ∧ madeOf (objectOf true 0) = 2 ∧ madeOf (objectOf true 5) = 1068 ∧ madeOf { objectOf true 5 with parts := [[0], [0x80000000]] } = 3 ∧
    went ((entryAt []).frontLoad 0 0x10040 64) = true ∧ went ((entryAt []).frontLoad 0 0x400000000 64) = false ∧
    ((after (entryAt []) ((entryAt []).frontLoad 0 0x10040 64)).codeLeaves 0 0x10000 128).isNone = true ∧
    (({ pathAt with mem := pathAt.mem.write 0x200000 (natLe 8 (placedFrame + 0x453)) } : State).codeLeaves 0 0x10000 128).isSome = true := by decide +kernel
theorem witness_FrontEnd_torn : let r := graphRun [] (Tab.empty.put 0 7) []
    let s : State := { running r with grids := Tab.empty.put 7 { Grid.none with torn := true } }
    (queueOf s).graph = some r ∧ (∃ x ∈ r.grids.cells, (s.grid x.2).torn = true) ∧ { r with torn := true }.torn = true := by decide +kernel

/-- Scheduling: a wait in each kind of instruction; a write of a retiring group's lanes that is held; a team torn down, at each stage. -/
def stuckIn (u : UnitId) (i : Instr) : State := pathAt.onThread u fun t => { t with state := .waiting, wait := some { instr := i, lo := 0 } }
theorem witness_Scheduling_waits : ∀ x ∈ [(Instr.gld ga { gmemx with sp := true }, spBody), (.accrd { la with m := 4 } (tilex 0), tileBody), (.qput ga, queueBody), (.xsend la { slot := 0, res := 0 }, slotBody),
      (.rqput ga, recordBody), (.bwait gi, batchBody), (.cpy ga cpyx, engineBody), (.launchd ga launchx, launchBody)],
    (x.2 x.1).isSome = true ∧ (stuckIn p0 x.1).alive p0 = true ∧ ((stuckIn p0 x.1).thread p0).state = .waiting ∧ ((stuckIn p0 x.1).thread p0).waiting = some x.1 := by
  decide +kernel

/-- Preemption: an image that is not in HBM. -/
theorem witness_Preemption_images : inHbm 0x10000000000 = false ∧ ((psAt pathAt [psx 0 0]).grove 0).win.psq = [psx 0 0] := by decide +kernel
/-- Booting: the shipped image runs, its key and version being the fused ones; a key or a version that is not. -/
theorem witness_Booting_verdicts : let i := shippedImage
    i.intact = true ∧ i.key = Boot.reset.mfgKey ∧ ¬ i.version < Boot.reset.minVersion ∧ i.key ≠ i.key + 1 ∧ i.version < i.version + 1 ∧
    ({ Boot.reset with flashBusy := true, flashSlot := 1 } : Boot).flashBusy = true := by decide +kernel
/-- The key that an image in memory names, and one that it does not: what it holds is a free value. -/
theorem witness_Booting_flashed : let new := Config.imageOf (State.reset.mem.read 0 64)
    (new.intact = true → ¬ (new.intact = false ∨ new.key ≠ ({ Boot.reset with mfgKey := new.key } : Boot).mfgKey) ∧ ¬ new.version < ({ Boot.reset with minVersion := 0 } : Boot).minVersion) ∧
    new.key ≠ ({ Boot.reset with mfgKey := new.key + 1 } : Boot).mfgKey ∧
    ∀ k, Config.signerAt State.reset.mem 0 = some k → Config.signerAt State.reset.mem 0 = some ({ Boot.reset with mfgKey := k } : Boot).mfgKey := by
  refine ⟨fun h => ⟨by simp [h], by simp⟩, ?_, fun k h => h⟩
  show ¬ _ = _ + 1
  generalize (Config.imageOf (State.reset.mem.read 0 64)).key = k
  intro h
  have := congrArg (· - k) h
  simp at this
/-- HostRegisters: a function on the link that it is not bound to; a unit held whose record is written, and one whose record waits. -/
def heldAt' (l : List (UnitId × List Dword)) : State := (pathAt.onPathOf p0 fun p => { p with th := { p.th with state := .held } }).onGrove 0 fun g => { g with dbgPend := l }
theorem witness_HostRegisters_links : ({ pathAt.pf with grvlink := Tab.empty.put 3 true }.grvlink.get (4 - 1) false) = true ∧ pathAt.pf.grvlink.get 3 false = false ∧
    (∀ l ∈ [[], [(p0, [1, 2, 3, 4])]], ((heldAt' l).thread p0).state = .held ∧ (heldAt' l).alive p0 = true ∧ ((heldAt' l).ctx ((heldAt' l).ctxOf p0)).desc.grove = 0 ∧ ((heldAt' l).grove 0).dbgPend = l) := by decide +kernel


/-! The clauses about ranges and several forms: one witness for each. -/

/-- LaneFloats, LaneConversions: numbers of each kind; one that rounds down, up and exactly, one that is tiny, one that rounds up out of its binade,
and one beyond the largest finite number, in FP32. -/
def exact (neg : Bool) (mag : Nat) (e : Int) : Exact := { neg := neg, mag := mag, exp := e, more := false }
theorem witness_LaneConversions_rounds : RoundsIn 24 (-149) 0 (exact false (2 ^ 24 + 1) 0) 1 (2 ^ 23) true ∧ RoundsIn 24 (-149) 2 (exact false (2 ^ 24 + 1) 0) 1 (2 ^ 23 + 1) true ∧
    RoundsIn 24 (-149) 3 (exact true 3 0) (-22) (3 * 2 ^ 22) false ∧ RoundsIn 24 (-149) 0 (exact true 3 (-150)) (-149) 2 true ∧
    RoundsIn 24 (-149) 0 (exact false (2 ^ 25 - 1) 103) 104 (2 ^ 24) true ∧ RoundsIn 24 (-149) 1 (exact false (2 ^ 23) 105) 105 (2 ^ 23) false ∧
    RoundsIn 4 (-9) 0 { neg := false, mag := 2 ^ 32, exp := -32, more := true } (-3) 8 true ∧
    (∀ b ∈ [false, true], (exact b 3 (-1)).more = false ∧ (exact b 3 (-1)).mag ≠ 0 ∧ (exact b 3 (-1)).neg = b ∧ (exact b 0 0).mag = 0) := by
  and_intros <;> simp [RoundsIn, RoundsTo, exact]
/-- Reductions: values that fit each type with the operations that it has. -/
theorem witness_Reductions_types : (∀ m ∈ ([0, 1, 2, 3] : List (BitVec 3)), m.toNat < 4 ∧ (5 : Nat) < 6 ∧ (0xFFFFFFFF : Dword).toNat < 2 ^ typeW m) ∧
    ∀ m ∈ ([4, 5, 7] : List (BitVec 3)), (m ∈ ([4, 5, 7] : List (BitVec 3))) ∧ (2 : Nat) < 3 ∧ (0xFF80 : Dword).toNat < 2 ^ typeW m := by decide

/-- LaneLoads, LaneStores, LaneQuads, LaneAtomics: a scratchpad line that a command still has to write, at the issue and as the wait ends. -/
def absentQ (i : Instr) : State := waitingIn (absentAt (spadAt 16)) p0 i 0
def spInstrs : List Instr := [.lds { la with a := 72, m := 5 } memx, .sts { la with a := 72, m := 5 } memx, .ldq { la with a := 72, d := 60 } { memx with sp := true },
  .stq { la with a := 72, d := 60 } { memx with sp := true }, .atoms { la with a := 72, m := 3 } { atomx with aop := 6 }, .acass { la with a := 72, m := 3 } atomx]
theorem witness_LaneAccesses_wait : (∀ i ∈ spInstrs, (absentAt (spadAt 16)).Reaches p0 i true (exec i (absentAt (spadAt 16))) ∧
      (absentQ i).Reaches p0 i true (exec (.scratchpadWaitEnd p0) (absentQ i))) ∧
    (∃ l ∈ ((absentAt (spadAt 16)).maskOf p0).lanes, (absentAt (spadAt 16)).mustWait p0 true 16 (eaOf (absentAt (spadAt 16)) p0 memx l) = true) ∧
    ((spadAt 16).caches p0.node).ahead = [] ∧ p0.place < 512 := by
  have h : ∀ i ∈ spInstrs, may (absentAt (spadAt 16)) p0 i = true ∧ mayWake (absentQ i) p0 i = true := by decide +kernel
  exact ⟨fun i hi => ⟨.inl ⟨issues_of_may (h i hi).1, rfl⟩, .inr ⟨rfl, comes_of_mayWake _ (h i hi).2⟩⟩, by and_intros <;> decide +kernel⟩

/-- AccessChecks: entries of every kind on the way; a page of each size; a translation that a TLB holds; each check of a leaf. -/
def tableAt (l : List (Nat × Nat)) : State := { pathAt with mem := l.foldl (fun m x => m.write x.1 (natLe 8 x.2)) pathAt.mem }
def walks (s : State) (va lvl table : Nat) : Nat × Nat := match s.walk va lvl table with
  | .ok x => (100 + x.level, x.pa)
  | .error e => (e.1, e.2)
theorem witness_AccessChecks_walks : walks (tableAt [(0x1000000, 0)]) 0 3 0x1000000 = (0, 3) ∧ walks (tableAt [(0x1000000, 3)]) 0 3 0x1000000 = (1, 3) ∧
    walks (tableAt [(0x1000000, 0x10010001), (0x10010000, 0x40000003)]) 0x123456 3 0x1000000 = (102, 0x40123456) ∧
    walks (tableAt [(0x10010008, 0x200003)]) 0x223456 1 0x10010000 = (101, 0x223456) ∧ walks (tableAt [(0x10010010, 0x20003)]) 0x23456 0 0x10010000 = (100, 0x23456) ∧
    walks (tableAt [(0x10010000, 0x10010001)]) 0 0 0x10010000 = (1, 0) ∧ walks (tableAt [(0x10010000, 0x10003)]) 0 1 0x10010000 = (1, 1) ∧
    walks (tableAt [(0x10010000, 5)]) 0 2 0x10010000 = (1, 2) := by decide +kernel
def held_ (pte : Dword) : State := pathAt.onCore 0 fun c => { c with mc := { c.mc with tlb := [{ ctx := 0, base := 0x10000, level := 0, leaf := pte, pte := 0x200000 }] } }
/-- The code of the first check that fails at a leaf with the bits of `n`; 100 where none does. -/
def codeOf (n : Nat) (k : Kind) : Nat := match (held_ (BitVec.ofNat 64 (n + 0x40000001))).translate 0 0 0x10040 k with
  | .ok _ => 100
  | .error f => f.cause
theorem witness_AccessChecks_leaves : ((held_ 0x40000003).tlbFind 0 0 0x1FFFF).isSome = true ∧ pathAt.tlbFind 0 0 0x10000 = none ∧ pathAt.walkCache 0 = [] ∧
    codeOf 0xA .load = 3 ∧ codeOf 0x6 .store = 4 ∧ codeOf 0xA .atomic = 4 ∧ codeOf 0xE .fetch = 5 ∧ codeOf 0xE .load = 100 ∧ codeOf 0x1000000000000E .load = 6 ∧
    codeOf 0x8E .atomic = 7 ∧ codeOf 0xE .discard = 8 ∧ codeOf 0x10E .discard = 100 ∧
    (match (held_ 0x100004000000F).translate 0 0 0x10040 .atomic with
      | .ok _ => 100
      | .error f => f.cause) = 9 := by decide +kernel

/-- ChecksAndFaults: faults of lanes 0 and 2, and of every lane: traps, NOTPRESENT, and both; with a path entry free, and with none. -/
def fltOf (c : Nat) (a : Dword) : Flt := { cause := c, detail := 0, addr := a, kind := 0, level := 0 }
def fullTable (s : State) : State := crowded s 31
theorem witness_ChecksAndFaults_lanes : (∀ s ∈ [withTrap pathAt, fullTable (withTrap pathAt)], (s.ctx (s.ctxOf p0)).trapv ≠ 0 ∧ (s.thread p0).frame.active = false ∧
      (s.ctx (s.ctxOf p0)).pend = [] ∧ (5 : Dword) &&& ~~~(s.maskOf p0) = 0 ∧ (5 : Dword) ≠ s.maskOf p0) ∧
    ((withTrap pathAt).group 0 0).paths.free 32 = some 1 ∧ ((fullTable (withTrap pathAt)).group 0 0).paths.free 32 = none ∧
    (∀ x ∈ [(0x12, 0x12), (0, 0), (0, 0x12), (0x12, 0)], let fs : List (Nat × Flt) := [(0, fltOf x.1 0x40), (2, fltOf x.2 0x80)]
      fs.head? = some (0, fltOf x.1 0x40) ∧ (∀ y ∈ fs, y.1 < 64 ∧ y.2.used = none) ∧ (∀ l < 64, (5 : Dword).getLsbD l = fs.any fun y => y.1 == l) ∧
      ((∀ y ∈ fs, 16 ≤ y.2.cause) ∨ (∀ y ∈ fs, y.2.cause = 0) ∨
        ((∀ z ∈ fs, z.2.cause = 0 ∨ 16 ≤ z.2.cause) ∧ (∃ z ∈ fs, z.2.cause = 0) ∧ ((fs.filter fun z => z.2.cause != 0).head?.map (·.1)) = some (if x.1 = 0 then 2 else 0)))) ∧
    (∀ l < 64, ((withTrap pathAt).maskOf p0).getLsbD l = (((withTrap pathAt).maskOf p0).lanes.map fun l => (l, fltOf 0 0x40)).any fun y => y.1 == l) := by
  and_intros <;> decide +kernel

/-- TranslationEvents: a path parked for some of its lanes, with a path entry free and none; the first command of a queue, parked. -/
def parkedSome (s : State) : State := parkedOn (withTrap s) p0
def heldCmd : State :=
  (withCmds seqAt 1 [{ cmdOf (.mzero ga mtilex) with id := 3, begun := true, park := some (9, 0x40) }, { cmdOf (.mzero ga mtilex) with id := 4 }]).onCtx 0 fun c =>
    { c with outstanding := [{ seq := 9, req := .engine 0 0 1 }], trapv := 0x20000 }
theorem witness_TranslationEvents_answers : (∀ s ∈ [parkedSome pathAt, parkedSome (fullTable pathAt)], s.up = true ∧ ((s.thread p0).park.map (·.mask)) = some 1 ∧ s.maskOf p0 ≠ 1 ∧
      s.ctxOf p0 = 0 ∧ (s.ctx 0).trapv ≠ 0 ∧ (s.thread p0).frame.active = false ∧ (s.thread p0).state = .parked ∧
      ((s.ctx 0).outstanding.find? fun o => o.seq == 9) = some { seq := 9, req := .unit p0 }) ∧
    ((parkedSome pathAt).group 0 0).paths.free 32 = some 1 ∧ ((parkedSome (fullTable pathAt)).group 0 0).paths.free 32 = none ∧
    heldCmd.up = true ∧ (heldCmd.ctx 0).desc.grove = 0 ∧ ((heldCmd.ctx 0).outstanding.find? fun o => o.seq == 9) = some { seq := 9, req := .engine 0 0 1 } ∧
    ((((heldCmd.team 0 0).eng.get 1 .none).cmds.head?.bind (·.park))) = some (9, 0x40) ∧ (heldCmd.team 0 0).ctx = 0 ∧ (heldCmd.ctx 0).pend = [] ∧
    (heldCmd.team 0 0).seqExited = false ∧ (heldCmd.thread q0).state ≠ .waiting := by
  and_intros <;> decide +kernel

/-- MemoryEvents: a mirror write that brings poison, and one that fills a line with zeros. -/
def mirrorOf (w : MirrorWrite) : State := { State.reset with mirror := { vc := .empty, flight := [w], cur := .empty } }
theorem witness_MemoryEvents_mirrors : ∀ x ∈ [(true, none), (false, some true), (true, some false)],
    let w : MirrorWrite := { vc := [1, 0, 0, 0, 0, 0, 0, 0], die := 0, off := 0x100, bytes := List.replicate 256 0, pol := 1, bad := x.1, zero := x.2, applied := [0] }
    (mirrorOf w).mirror.flight[0]? = some w ∧ w.off + w.bytes.length ≤ 2 ^ 37 ∧ (∀ b ∈ w.bytes, b = 0) ∧ 7 ∉ w.applied ∧ (mirrorOf w).mirror.count 7 0 + 1 = w.vc.getD 0 0 ∧
    (mirrorOf w).mirror.cur.find (0x100 + 7 * 2 ^ 37) = none := by decide +kernel

/-- RayOperations: a scene of a node at 0x12000 with a node and an instance for children, the instance's node at 0x12180 with a leaf of one triangle
at 0x12200, all in the box from -10 to 10 of every axis; a ray from z = -5 along z. -/
def box : List Byte := (List.replicate 3 (natLe 4 0xC1200000) ++ List.replicate 3 (natLe 4 0x41200000)).flatten
/-- A node with child `c` (TYPE, COUNT, and the distance of its record in units of 128 bytes) for each `c` of a list. -/
def nodeOf (cs : List (Nat × Nat × Nat)) : List Byte :=
  let k := 4 - cs.length
  cs.flatMap (fun _ => box) ++ List.replicate (24 * k) 0 ++ cs.flatMap (fun c => natLe 6 (c.1 + 8 * c.2.2)) ++ List.replicate (6 * k) 0 ++
    cs.map (fun c => BitVec.ofNat 8 c.2.1) ++ List.replicate (k + 4) 0
def instanceOf (mask : Nat) : List Byte :=
  box ++ box ++ [0x3F800000, 0, 0, 0, 0, 0x3F800000, 0, 0, 0, 0, 0x3F800000, 0].flatMap (fun w => natLe 4 w) ++ natLe 8 0x12180 ++ natLe 4 6 ++ natLe 2 mask ++ List.replicate 18 0
def triangle : List Byte := [0xBF800000, 0xBF800000, 0, 0x3F800000, 0xBF800000, 0, 0, 0x3F800000, 0, 9, 0, 0].flatMap fun w => natLe 4 w
def sceneAt : State := let s := withData one
  { s with
    mem := [(0x12000, nodeOf [(1, 0, 1), (2, 0, 2)]), (0x12080, nodeOf []), (0x12100, instanceOf 0x80), (0x12180, nodeOf [(3, 1, 1)]), (0x12200, triangle)].foldl
      (fun m x => m.write (placedFrame + x.1) x.2) s.mem }
/-- A slot of the ray with operation `op`, at a place of the trail. -/
def walker (op level trail : Nat) (x : List Nat := [0, 0, 0xC0A00000, 0, 0, 0, 0x3F800000, 0x7F800000]) : Tab Dword :=
  let pair (n : Nat) : Dword := BitVec.ofNat 64 (x.getD (2 * n) 0 + x.getD (2 * n + 1) 0 * 2 ^ 32)
  slotSets (((Tab.empty.put 0 (pair 0)).put 1 (pair 1)).put 2 (pair 2) |>.put 3 (pair 3))
    [(fROOT, 0x12000), (fOP, op), (fPHASE, 1), (fVMASK, 0xFF), (fHT, x.getD 7 0), (fLEVEL, level), (fTRAIL, trail)]
/-- What a step of it meets: 1 to 9 children, 10 a place with none, 20 to 29 hits, 0 a fault. -/
def meets (w : Tab Dword) : Nat := match (do
    let (p, s) ← State.follow p0 w (slotGet w fLEVEL) sceneAt (rootPos w)
    if p.ty != 1 then
      let (hs, _) ← s.leafHits p0 p (p.ray w) false
      pure (20 + hs.length)
    else
      let (cs, s) ← s.readNode p0 p.addr p.inst.isSome
      let (l, s) ← s.keepUnculled p0 (p.ray w) (slotBound w) (slotGet w fVMASK) (ordered (p.ray w) cs)
      match l with
      | [] => pure 10
      | c :: _ =>
        let _ ← s.enterChild p0 p c
        pure l.length : Except Flt Nat) with
  | .ok n => n
  | .error _ => 0
theorem witness_RayOperations_nodes : meets (walker 1 0 0) = 2 ∧ meets (walker 1 1 0) = 10 ∧ meets (walker 1 1 1) = 1 ∧
    meets (walker 1 0 0 [0x41A00000, 0, 0xC0A00000, 0, 0, 0, 0x3F800000, 0x7F800000]) = 10 := by decide +kernel
theorem witness_RayOperations_leaves : ∀ op ∈ [1, 2], meets (walker op 2 1) = 21 ∧
    meets (walker op 2 1 [0x40A00000, 0, 0xC0A00000, 0, 0, 0, 0x3F800000, 0x7F800000]) = 20 := by decide +kernel
theorem witness_RayOperations_records : (0x12000 % 128 = 0 ∧ 0x12001 % 128 ≠ 0) ∧ went (sceneAt.sceneLoad p0 0x12000 128) = true ∧ went (sceneAt.sceneLoad p0 0x400000000 128) = false ∧
    went (sceneAt.readNode p0 0x12180 true) = true ∧ went (sceneAt.readNode p0 0x12180 false) = false ∧ went (sceneAt.readInst p0 0x12100) = true ∧ went (sceneAt.readInst p0 0x12180) = false ∧
    (match sceneAt.readInst p0 0x12100 with
      | .ok r => r.1.mask &&& 0xFF
      | .error _ => 0) = 0x80 ∧
    (∀ c ∈ ([{ slot := 1, ty := 2, target := 0x12100, cnt := 0, lo := [], hi := [] }, { slot := 0, ty := 1, target := 0x12080, cnt := 0, lo := [], hi := [] }] : List Child),
      ∀ l ∈ [0, 30, 31], went (sceneAt.enterChild p0 { rootPos .empty with level := l } c) = decide (l < 31)) := by decide +kernel
/-- Up: with an entry on the stack and with none; a ninth entry. -/
theorem witness_RayOperations_up : let w := slotPush (walker 1 0 0) { slot := 1, ty := 2, target := 0x12100, cnt := 0, lo := [], hi := [] } 1
    let v := slotSets w [(fTRAIL, 1), (fLEVEL, 1), (fSP, 0)] |>.put 8 0
    slotGet w fSP = 1 ∧ went (State.follow p0 v 1 sceneAt (rootPos v)) = true ∧ slotGet (walker 1 0 0) fSP = 0 ∧ (∀ n, n ∉ [16, 17, 8] → v.get n 0 = w.get n 0) ∧ v.get 8 0 = 0 ∧
    slotGet ((List.range 8).foldl (fun w _ => slotPush w { slot := 1, ty := 2, target := 0x12100, cnt := 0, lo := [], hi := [] } 1) (walker 1 0 0)) fSP = 8 := by
  and_intros
  case _ => decide +kernel
  case _ => decide +kernel
  case _ => decide +kernel
  case _ => 
    intro n h
    simp only [List.mem_cons, List.not_mem_nil, or_false, not_or] at h
    simp [slotSets, slotSet, fTRAIL, fLEVEL, fSP, Tab.get_put, h]
  case _ => decide +kernel
  case _ => decide +kernel

/-- RayOperations: a volume of 2 by 2 by 2 cells at 0x12400, with densities or without, of majorant `sb` and density `sg` in every cell; a ray from
(1/2, `y`, -1) along z that stands at cell (0, 0, `z`), from t = 1 to 3. -/
def volumeAt (den : Bool) (w7 sb sg : Nat) (z y : Nat) (act : Nat := 1) : State :=
  let s := boundTo oneData false 0
  let rec_ : List Byte := [0x3F800000, 0, 0, 0, 0, 0x3F800000, 0, 0, 0, 0, 0x3F800000, 0].flatMap (fun w => natLe 4 w) ++
    natLe 8 (1 + 2 ^ 10 + 2 ^ 20 + (if den then 2 ^ 30 else 0) + 2 ^ 31) ++ natLe 8 w7
  { (s.onGroup 0 0 fun g => { g with slots := Tab.empty.put 0 (slotSets (walker_ [0x3F000000, y, 0xBF800000, 0, 0, 0, 0x3F800000, 0x7F800000])
      [(fVOL, 0x12400), (fSTRM, 1), (fDEN, if den then 1 else 0), (fVT, 0x3F800000), (fVTEND, 0x40400000), (fCell 2, z), (fVACT, act)]) }) with
    mem := (s.mem.write (placedFrame + 0x12400) rec_).write (placedFrame + 0x12500) ((List.replicate 8 (natLe 4 sb) ++ List.replicate 8 (natLe 4 sg)).flatten) }
where walker_ (x : List Nat) : Tab Dword :=
  let pair (n : Nat) : Dword := BitVec.ofNat 64 (x.getD (2 * n) 0 + x.getD (2 * n + 1) 0 * 2 ^ 32)
  (((Tab.empty.put 0 (pair 0)).put 1 (pair 1)).put 2 (pair 2)).put 3 (pair 3)
/-- VEV, PHASE, the draws and the null collisions after one pass; or the fault. -/
def passed (s : State) : List Nat := match s.marchPass p0 0 with
  | .ok r => [slotGet r.1 fVEV, slotGet r.1 fPHASE, slotGet r.1 fNDRAW, slotGet r.1 fNNULL, slotGet r.1 (fCell 2)]
  | .error e => [e.cause, e.detail]
theorem witness_RayOperations_cells : passed (volumeAt false 0x12500 0 0 0 0x3F000000) = [0, 0, 0, 0, 1] ∧ passed (volumeAt false 0x12500 0 0 1 0x3F000000) = [0, 2, 0, 0, 1] ∧
    passed (volumeAt false 0x12500 0x0D800000 0 0 0x3F000000) = [0, 0, 1, 0, 1] ∧ passed (volumeAt false 0x12500 0x49800000 0 0 0x3F000000) = [1, 2, 1, 0, 0] ∧
    passed (volumeAt true 0x12500 0x49800000 0x49800000 0 0x3F000000) = [2, 2, 2, 0, 0] ∧ passed (volumeAt true 0x12500 0x49800000 0 0 0x3F000000) = [0, 0, 2, 1, 0] ∧
    passed (volumeAt false 0x12502 0 0 0 0x3F000000) = [0x15, 2] ∧ passed (volumeAt false 0x12500 0x7FC00000 0 0 0x3F000000) = [0x15, 2] := by decide +kernel
/-- The start of a march that meets the grid, that misses it, and that has no densities. -/
def marchFrom (s : State) : Nat := match s.marchStart p0 0 with
  | .ok q => 1 + slotGet (q.slot p0 0) fVACT
  | .error _ => 0
theorem witness_RayOperations_starts : marchFrom (volumeAt false 0x12500 0 0 0 0x3F000000 0) = 2 ∧ marchFrom (volumeAt true 0x12500 0 0 0 0x40A00000 0) = 1 ∧
    marchFrom ((volumeAt false 0x12500 0 0 0 0x3F000000 0).onGroup 0 0 fun g => { g with slots := g.slots.put 0 (slotSet (g.slots.get 0 .empty) fDEN 1) }) = 0 ∧
    (∀ a ∈ [0, 1], slotGet ((volumeAt false 0x12500 0 0 0 0x3F000000 a).slot p0 0) fVACT = a) := by decide +kernel
/-- Vectors whose greatest component is a given one, and one with a NaN. -/
theorem witness_RayOperations_shears : (∀ x ∈ [(0, [0xC0000000, 0x3F800000, 0]), (1, [0, 0x3F800000, 0x3F800000]), (2, [0, 0, 0x3F800000])],
      let v (n : Nat) : FloatVal := val32 (BitVec.ofNat 32 (x.2.getD n 0) &&& 0x7FFFFFFF)
      ∀ n < 3, v n ≠ .nan ∧ (v n).cmp (v x.1) ≤ 0 ∧ (n < x.1 → (v n).cmp (v x.1) < 0)) ∧ val32 0x7FC00000 = .nan :=
  ⟨by decide +kernel, by decide +kernel⟩

/-- CopyEngineWork: an engine's read and write that go through and that do not; their units all go through, in each direction of a linear copy. -/
def dataAt : State := withData seqAt
theorem witness_CopyEngineWork_accesses : went (dataAt.translate 0 0 0x10040 .engRead) = true ∧ went (dataAt.translate 0 0 0x400000000 .engRead) = false ∧
    went (dataAt.translate 0 0 0x400000000 .engWrite) = false ∧ (dataAt.caches 0).wbuf = [] ∧ (dataAt.caches 0).promises = [] ∧
    (match dataAt.translate 0 0 0x10000 .engWrite with
      | .ok y => !y.mir && inHbm y.pa && y.pa % 256 == 0
      | .error _ => false) = true := by decide +kernel
/-- Does each of the units of a copy of `n` bytes go through, after those before it? -/
def unitsGo (s : State) (fromSp toSp : Bool) (d a n : Nat) : Bool :=
  ((List.range ((d + n - 1) / 64 - d / 64 + 1)).foldl (fun (r : State × Bool) i =>
    let lo := max d ((d / 64 + i) * 64)
    let len := min (d + n) ((d / 64 + i + 1) * 64) - lo
    let g := r.1.engSrc 0 0 fromSp (BitVec.ofNat 64 a + BitVec.ofNat 64 (lo - d)) len 2
    let p := g.s.engDst 0 0 toSp (BitVec.ofNat 64 d + BitVec.ofNat 64 (lo - d)) g.bytes 2 (g.bad.any id)
    (p.s, r.2 && g.flt.isNone && p.flt.isNone)) (s, true)).2
theorem witness_CopyEngineWork_units : (∀ x ∈ [(false, true, 60, 0x10040), (true, false, 0x10040, 0), (false, false, 0x10040, 0x10100), (true, true, 0, 2048)],
      unitsGo dataAt x.1 x.2.1 x.2.2.1 x.2.2.2 70 = true) ∧ (seqAt.team 0 0).spIn 4020 70 = true ∧ (seqAt.team 0 0).spIn 4090 70 = false ∧ ¬ (2 ^ 30 + 1 ≤ 2 ^ 30) ∧
    ((absentAt seqAt).team 0 0).spAbsent 3840 70 = true := by decide +kernel
/-- Box copies of 3 by 2 words, of a layout of 4 by 4 at 0x10000 whose record is kept: inside it, and across its edge with a fill value. -/
def boxRec (edge : Nat) : List Dword := [BitVec.ofNat 64 (0x10000 + 2 * 2 ^ 56 + 2 * 2 ^ 60), 0x0000000400000004, 0x0000000100000001, 16, 0, 0, BitVec.ofNat 64 (7 + edge * 2 ^ 32), 1]
def boxOps (o0 : Nat) : List Dword := [0, 0x12345, BitVec.ofNat 64 o0, 0, 0x0001000100020003]
def boxAt (m : Nat) (o0 : Nat) : State := (headAt dataAt 0 (.cpy ga { cpyx with mode := BitVec.ofNat 3 m }) (boxOps o0)).onCore 0 fun c =>
  { c with layouts := [{ ctx := 0, handle := 0x12345, words := boxRec 0 }] }
def boxGoes (m o0 : Nat) : Bool :=
  let x : Cmd := { cmdOf (.cpy ga { cpyx with mode := BitVec.ofNat 3 m }) with ops := boxOps o0 }
  let w := (boxAt m o0).boxCopy 0 0 { cpyx with mode := BitVec.ofNat 3 m } none x
  w.stop.isNone && decide ((w.s.team 0 0).eng = ((boxAt m o0).team 0 0).eng)
theorem witness_CopyEngineWork_boxes : layoutOk (boxRec 0) = true ∧ (∀ m ∈ [4, 5], ∀ o ∈ [1, 2, 0xFFFFFFFF],
      ((((boxAt m o).core 0).layouts.find? fun e => e.ctx == ((boxAt m o).team 0 0).ctx && e.handle == (wordAt (boxOps o) 1).toNat).map (·.words)) = some (boxRec 0) ∧ boxGoes m o = true) ∧
    (wordAt (boxRec 0) 6).getLsbD 32 = false ∧ ((seqAt.team 0 0).spIn 0 24 = true ∧ (seqAt.team 0 0).spAbsent 0 24 = false) := by decide +kernel
theorem heads_box (m o : Nat) (h : m ∈ [4, 5]) (ho : o ∈ [1, 2]) :
    (boxAt m o).Heads 0 0 0 { cmdOf (.cpy ga { cpyx with mode := BitVec.ofNat 3 m }) with ops := boxOps o } [] := by
  have := (by decide +kernel : ∀ m ∈ [4, 5], ∀ o ∈ [1, 2],
    (((boxAt m o).team 0 0).torn, ((boxAt m o).team 0 0).eng.get 0 .none,
      ((boxAt m o).team 0 0).tileHeld { cmdOf (.cpy ga { cpyx with mode := BitVec.ofNat 3 m }) with ops := boxOps o }) =
    (false, ({ cmds := [{ cmdOf (.cpy ga { cpyx with mode := BitVec.ofNat 3 m }) with ops := boxOps o }], halted := false } : EngQueue), false)) m h o ho
  simp only [Prod.mk.injEq] at this
  exact ⟨this.1, this.2.1, rfl, rfl, this.2.2⟩
/-- ZFILL of memory, of a whole line and parts of two more; where it faults; too many bytes. -/
def zeroGoes (a n : Nat) : Bool :=
  ((List.range ((a + n - 1) / 256 - a / 256 + 1)).foldl (fun (r : State × Bool) i =>
    let lo := max a ((a / 256 + i) * 256)
    let w := r.1.zeroUnit 0 0 (lo, min (a + n) ((a / 256 + i + 1) * 256) - lo) i
    (w.s, r.2 && w.stop.isNone)) (dataAt, true)).2
theorem witness_CopyEngineWork_zeros : zeroGoes 0x100C0 400 = true ∧ zeroGoes 0x400000000 8 = false ∧ 2 ^ 30 < (0x40000001 : Dword).toNat ∧ 0x10000 % 256 + 256 ≤ 256 := by decide +kernel
/-- A collective of two ranks, in two teams of core 0. -/
def rankRec (n : Nat) : List Dword := [0, BitVec.ofNat 64 (2 + 2 * 2 ^ 32 + n * 2 ^ 44), 0, 0, 0, 0, 0, 0]
def rankCmd (i : Instr) (n : Nat) : Cmd := { cmdOf i with ops := [2048, 0, 0], record := some (rankRec n), begun := true }
def ranksAt (i : Instr) : State := seqAt.onCore 0 fun c =>
  let t : Team := { seqAt.team 0 0 with eng := Tab.empty.put 3 { cmds := [rankCmd i 1], halted := false } }
  { c with teams := (c.teams.put 0 t).put 1 { t with number := 1, slots := [], spBase := 4096, eng := Tab.empty.put 3 { cmds := [rankCmd i 0], halted := false } } }
theorem witness_CopyEngineWork_ranks : ∀ i ∈ [Instr.callred ga { collx with op := 1 }, .cgather ga collx], let s := ranksAt i
    let all := s.parties (colKey (rankRec 0))
    all = [{ core := 0, slot := 0, cmd := rankCmd i 1 }, { core := 0, slot := 1, cmd := rankCmd i 0 }] ∧ all.map (fun q => colRank q.rec_) = [1, 0] ∧
    (all.all fun q => q.terms == ({ core := 0, slot := 0, cmd := rankCmd i 1 } : Party).terms) = true ∧ all.length = colRanks (rankRec 0) ∧
    (dedup (all.map fun q => colRank q.rec_)).length = all.length ∧ (all.all fun q => (s.headOf q.core q.slot 3).isSome) = true ∧ s.contribs = [] ∧ s.mirror.flight = [] ∧
    (s.team 0 0).spBase + (s.team 0 0).spSize ≤ (s.team 0 1).spBase ∧ 1 ≤ colCount (rankRec 0) ∧
    ∀ k ∈ [0, 1], (s.team 0 k).spIn 0 8 = true ∧ (s.team 0 k).spIn 2048 16 = true ∧ (s.team 0 k).absentFor 0 0 8 = false ∧ s.spPoisoned 0 k 0 8 = false ∧ (s.team 0 k).spSize ≤ 2 ^ 20 := by
  decide +kernel
/-- Contributions of each type; blocks with a NaN, with nothing but zeros, and with a greatest value. -/
theorem witness_CopyEngineWork_blocks : (∀ ty < 7, ∀ u ∈ [0x3F80, 0x4000], u < 2 ^ (if ty ≤ 3 then 32 else 64)) ∧ val32 0x7FC00000 = .nan ∧
    (∀ w ∈ ([0, 0x80000000] : List Word), w.toNat % 2 ^ 31 = 0) ∧
    (∀ v ∈ ([0xC0000000, 0x3F800000] : List Word), v.toNat % 2 ^ 31 ≤ (0xC0000000 : Word).toNat % 2 ^ 31) ∧ (0xC0000000 : Word).toNat % 2 ^ 31 < 0x7F800000 :=
  ⟨by decide, by decide +kernel, by simp, by simp, by simp⟩

/-! MatrixAndTrunkWork: a core whose TLB holds the page of a whole tile, so that no unit of a tile's way to memory or from it faults. -/

/-- A page of 1 GiB that may be read and written, of policy HOME, with ACC and DTY set. -/
def warmLeaf : TlbEntry := { ctx := 0, base := 0, level := 2, leaf := 0x40000D0F, pte := 0x200000 }
def warmXlat (va : Nat) : Xlat := { pa := leafPa 0x40000D0F + va % pageBytes 2, leaf := 0x40000D0F, level := 2, pte := 0x200000 }
/-- Core 0 holds that page and nothing that pends. -/
structure Warm (s : State) : Prop where
  tlb : (s.caches 0).tlb = [warmLeaf]
  wbuf : (s.caches 0).wbuf = []
  promises : (s.caches 0).promises = []
  key : (s.descOf 0 0).w1 = 1
  ctx : (s.team 0 0).ctx = 0
  sound : s.poison = []
  l2 : s.l2 = .empty
theorem Warm.find {s : State} (h : Warm s) {va : Nat} (hv : va < 2 ^ 30) : s.tlbFind 0 0 va = some warmLeaf := by
  have hb : va / pageBytes 2 * pageBytes 2 = 0 := by
    have : va / pageBytes 2 = 0 := Nat.div_eq_of_lt (by simpa [pageBytes] using hv)
    simp [this]
  simp [State.tlbFind, h.tlb, warmLeaf, hb]
theorem Warm.translate {s : State} (h : Warm s) {va : Dword} (hv : va.toNat < 2 ^ 30) {k : Kind} (hk : leafDeny 0x40000D0F k 1 = none) :
    s.translate 0 0 va k = .ok (warmXlat va.toNat) := by
  have h8 : fld va 56 8 = 0 := by
    simp only [fld]
    rw [Nat.div_eq_of_lt (by omega), Nat.zero_mod]
  simp only [State.translate, h8, State.lookup, h.find hv, warmLeaf, h.key, hk, warmXlat]
  simp
/-- Only the node's L1 and the home slices may differ. -/
theorem Warm.home {s t : State} (h : Warm s) (e : s.HomeOnly t) (p : t.poison = []) (l : t.l2 = .empty) : Warm t := by
  have hc : t.cores = s.cores := by rw [e]
  have hx : t.ctxs = s.ctxs := by rw [e]
  have hm : t.caches 0 = s.caches 0 := by simp [State.caches, State.core, hc]
  exact ⟨by rw [hm, h.tlb], by rw [hm, h.wbuf], by rw [hm, h.promises], by
    have := h.key
    simp only [State.descOf, State.ctx, hm, hx] at this ⊢
    exact this, by
    have := h.ctx
    simp only [State.team, State.core, hc] at this ⊢
    exact this, p, l⟩
theorem Warm.caches {s : State} (h : Warm s) (f : Caches → Caches) (h1 : (f (s.caches 0)).tlb = [warmLeaf]) (h2 : (f (s.caches 0)).wbuf = [])
    (h3 : (f (s.caches 0)).promises = []) (h4 : ((f (s.caches 0)).descs.find 0).getD (s.ctx 0).desc = s.descOf 0 0) : Warm (s.onCaches 0 f) := by
  have hm := caches_onCaches s 0 (by decide) f
  refine ⟨by rw [hm, h1], by rw [hm, h2], by rw [hm, h3], ?_, ?_, h.sound, h.l2⟩
  · have : (s.onCaches 0 f).ctxs = s.ctxs := rfl
    simp only [State.descOf, State.ctx, hm, this]
    simp only [State.ctx] at h4
    rw [h4, h.key]
  · have := h.ctx
    simpa [State.onCaches, State.team] using this
theorem Warm.leaf {s : State} (h : Warm s) {va : Dword} (hv : va.toNat < 2 ^ 30) {k : Kind} (hk : leafFlags 0x40000D0F k = 0x40000D0F) :
    Warm (s.useLeaf 0 0 va (warmXlat va.toNat) k) := by
  have hb : va.toNat / pageBytes 2 * pageBytes 2 = 0 := by
    have : va.toNat / pageBytes 2 = 0 := Nat.div_eq_of_lt (by simpa [pageBytes] using hv)
    simp [this]
  have hq : Warm (s.useCtx 0 0 va) := by
    simp only [State.useCtx, h.find hv, Option.isSome_some, if_true, State.keepDesc]
    exact h.caches _ h.tlb h.wbuf h.promises (by simp)
  simp only [State.useLeaf, warmXlat, hk, if_true]
  refine hq.caches _ ?_ hq.wbuf hq.promises rfl
  simp [hq.tlb, hb, warmLeaf, keepIn, nodeTlbEntries, Config.tlbEntries]
theorem pieces_one {a n : Nat} (hn : 0 < n) (h : a % 64 + n ≤ 64) : pieces 64 a n = [(a, n)] := by
  have h1 : (a + n - 1) / 64 - a / 64 = 0 := by omega
  have h2 : max a (a / 64 * 64) = a := by omega
  have h3 : min (a + n) ((a / 64 + 1) * 64) - a = n := by omega
  simp [pieces, show n ≠ 0 by omega, h1, h2, h3]
theorem Warm.fenced {s : State} (h : Warm s) (u : UnitId) (hu : u.node = 0) : s.fenced u = s := by
  simp [State.fenced, Caches.fences, hu, h.promises]
theorem warm_pol (va req : Nat) : effPol (warmXlat va) req = 0 := by
  have : fld (0x40000D0F : Dword) 5 2 = 0 := by decide
  simp only [effPol, warmXlat]
  rw [this]
  simp
theorem Warm.writeHome {s : State} (h : Warm s) (pa : Nat) (bs : List Byte) : Warm (s.writeHome pa bs 0) := by
  simp only [State.writeHome]
  generalize pieces 64 pa bs.length = l
  induction l generalizing s with
  | nil => exact h
  | cons p l ih =>
    refine ih (h.home (State.homeOnly_writeSector s _ _ _) ?_ ?_)
    all_goals
      simp only [State.writeSector, State.line, h.l2, h.sound]
      split <;> simp [delNum]
theorem Warm.write {s : State} (h : Warm s) {va : Dword} (hv : va.toNat < 2 ^ 30) {bs : List Byte} (hb : 0 < bs.length) (hf : va.toNat % 64 + bs.length ≤ 64)
    (req : Nat) : (s.engDst 0 0 false va bs req false).flt = none ∧ Warm (s.engDst 0 0 false va bs req false).s := by
  have hm : (warmXlat va.toNat).mir = false := by simp [Xlat.mir, warmXlat]
  have ht := h.translate hv (k := .engWrite) (by decide)
  have hw := h.leaf hv (k := .engWrite) (by decide)
  simp only [State.engDst, Bool.false_eq_true, if_false, h.fenced (.seq 0 0) rfl, h.ctx, State.engWrite, pieces_one hb hf, List.foldl_cons, List.foldl_nil,
    Option.isSome_none, BitVec.ofNat_toNat, BitVec.setWidth_eq, ht]
  refine ⟨trivial, ?_⟩
  simp only [State.engStore, warm_pol, hm, Bool.false_eq_true, if_false]
  have hd : ∀ (n : Nat), ((s.useLeaf 0 0 va (warmXlat va.toNat) .engWrite).drainOver 0 ((warmXlat va.toNat).at_ 0) n) =
      s.useLeaf 0 0 va (warmXlat va.toNat) .engWrite := by
    intro n
    simp [State.drainOver, State.drainIds, hw.wbuf]
  rw [hd]
  exact (hw.writeHome _ _).caches _ (hw.writeHome _ _).tlb (hw.writeHome _ _).wbuf (hw.writeHome _ _).promises rfl
theorem Warm.read {s : State} (h : Warm s) {va : Dword} (hv : va.toNat < 2 ^ 30) (hf : va.toNat % 64 = 0) (req : Nat) :
    let g := s.engRead 0 0 va 64 req
    g.flt = none ∧ g.bad.any id = false ∧ g.bytes.length = 64 ∧ Warm g.s := by
  have ht := h.translate hv (k := .engRead) (by decide)
  have hw := h.leaf hv (k := .engRead) (by decide)
  simp only [State.engRead, pieces_one (show 0 < 64 by decide) (show va.toNat % 64 + 64 ≤ 64 by omega), List.foldl_cons, List.foldl_nil, Option.isSome_none,
    Bool.false_eq_true, if_false, BitVec.ofNat_toNat, BitVec.setWidth_eq, ht, warm_pol]
  refine ⟨trivial, ?_, ?_, ?_⟩
  · simp [State.poisonedFor, h.sound]
  · simp [State.seeHome, h.wbuf, overlay]
  · simpa [State.fillL2] using hw
/-- TEVICT and TRESTORE of a tile, and MSTORE of one, at 0x10000. -/
def warm (q : Nat) (i : Instr) (ops : List Dword) : State := (headAt seqAt q i ops).onCore 0 fun c => { c with mc := { c.mc with tlb := [warmLeaf] } }
theorem warm_warm (q : Nat) (i : Instr) (ops : List Dword) : Warm (warm q i ops) := by
  constructor <;> rfl
theorem warm_foldl {α : Type} (f : State → α → State) (hf : ∀ s a, Warm s → Warm (f s a)) (l : List α) {s : State} (h : Warm s) : Warm (l.foldl f s) := by
  induction l generalizing s with
  | nil => exact h
  | cons a l ih => exact ih (hf s a h)
def imaget : ImageX := { imagex with obj := true }
def storeg : StoreX := { storex with sp := false }
theorem at_unit {n : Nat} (h : n < 1024) : ((0x10000 : Dword) + BitVec.ofNat 64 (64 * n)).toNat = 0x10000 + 64 * n := by
  simp only [BitVec.toNat_add, BitVec.toNat_ofNat, BitVec.reduceToNat]
  omega
theorem witness_MatrixAndTrunkWork_evicts : (warm 1 (.tevict ga imaget) [0x10000, 0]).Heads 0 0 1 { cmdOf (.tevict ga imaget) with ops := [0x10000, 0] } [] ∧
    (let s := warm 1 (.tevict ga imaget) [0x10000, 0]
     (s.team 0 0).hasTile 0 = true ∧ (s.tile 0 0 0).valid = true ∧
     let put (z : State) (n : Nat) : Put := z.engDst 0 0 false ((0x10000 : Dword) + BitVec.ofNat 64 (64 * n))
       ((List.range 16).flatMap fun e => natLe 4 ((s.tile 0 0 0).el.get (16 * n + e) 0).toNat) 2 false
     ∀ n, n < 1024 → (put ((List.range n).foldl (fun z m => (put z m).s) s) n).flt = none) := by
  refine ⟨⟨rfl, rfl, rfl, rfl, rfl⟩, rfl, rfl, ?_⟩
  intro put n hn
  have hp (z : State) (m : Nat) (hm : m < 1024) (hz : Warm z) : (put z m).flt = none ∧ Warm (put z m).s := by
    have h := at_unit hm
    exact hz.write (by omega) (by simp [List.range, List.range.loop, natLe]) (by simp [List.range, List.range.loop, natLe]) 2
  suffices H : ∀ m ≤ n, Warm ((List.range m).foldl (fun z m => (put z m).s) (warm 1 (.tevict ga imaget) [0x10000, 0])) from (hp _ n hn (H n (Nat.le_refl n))).1
  intro m
  induction m with
  | zero => exact fun _ => warm_warm _ _ _
  | succ m ih =>
    intro h
    rw [List.range_succ, List.foldl_append]
    exact (hp _ m (by omega) (ih (by omega))).2
theorem witness_MatrixAndTrunkWork_restoresTile : (warm 1 (.trestore ga imaget) [0x10000, 0]).Heads 0 0 1 { cmdOf (.trestore ga imaget) with ops := [0x10000, 0] } [] ∧
    (let s := warm 1 (.trestore ga imaget) [0x10000, 0]
     (s.team 0 0).hasTile 0 = true ∧
     let got (z : State) (n : Nat) : Got := z.engRead 0 0 ((0x10000 : Dword) + BitVec.ofNat 64 (64 * n)) 64 2
     let upTo (n : Nat) : State × List Byte := (List.range n).foldl (fun z m => ((got z.1 m).s, z.2 ++ (got z.1 m).bytes)) (s, [])
     ∀ n, n < 1024 → (got (upTo n).1 n).flt = none ∧ (got (upTo n).1 n).bad.any id = false) := by
  refine ⟨⟨rfl, rfl, rfl, rfl, rfl⟩, rfl, ?_⟩
  intro got upTo n hn
  have hp (z : State) (m : Nat) (hm : m < 1024) (hz : Warm z) : (got z m).flt = none ∧ (got z m).bad.any id = false ∧ Warm (got z m).s := by
    have h := at_unit hm
    have r := hz.read (va := (0x10000 : Dword) + BitVec.ofNat 64 (64 * m)) (by omega) (by omega) 2
    exact ⟨r.1, r.2.1, r.2.2.2⟩
  suffices H : ∀ m ≤ n, Warm (upTo m).1 from ⟨(hp _ n hn (H n (Nat.le_refl n))).1, (hp _ n hn (H n (Nat.le_refl n))).2.1⟩
  intro m
  induction m with
  | zero => exact fun _ => warm_warm _ _ _
  | succ m ih =>
    intro h
    simp only [upTo, List.range_succ, List.foldl_append]
    exact (hp _ m (by omega) (ih (by omega))).2.2
theorem witness_MatrixAndTrunkWork_stores : (warm 1 (.mstore ga storeg) [0x10000, 512]).Heads 0 0 1 { cmdOf (.mstore ga storeg) with ops := [0x10000, 512] } [] ∧
    (let s := warm 1 (.mstore ga storeg) [0x10000, 512]
     (s.team 0 0).hasTile 0 = true ∧ (s.tile 0 0 0).valid = true ∧ (512 : Dword).toNat % 4 = 0 ∧
     let put (z : State) (e : Nat) : Put := z.engDst 0 0 false ((0x10000 : Dword) + BitVec.ofNat 64 (e / 128) * 512 + BitVec.ofNat 64 (4 * (e % 128)))
       (natLe 4 ((s.tile 0 0 0).el.get e 0).toNat) 2 false
     ∀ e, e < 16384 → (put ((List.range e).foldl (fun z m => (put z m).s) s) e).flt = none) := by
  refine ⟨⟨rfl, rfl, rfl, rfl, rfl⟩, rfl, rfl, rfl, ?_⟩
  intro put n hn
  have hp (z : State) (m : Nat) (hm : m < 16384) (hz : Warm z) : (put z m).flt = none ∧ Warm (put z m).s := by
    have h : ((0x10000 : Dword) + BitVec.ofNat 64 (m / 128) * 512 + BitVec.ofNat 64 (4 * (m % 128))).toNat = 0x10000 + 4 * m := by
      simp only [BitVec.toNat_add, BitVec.toNat_mul, BitVec.toNat_ofNat, BitVec.reduceToNat]
      omega
    exact hz.write (by omega) (by simp [natLe]) (by simp [natLe]; omega) 2
  suffices H : ∀ m ≤ n, Warm ((List.range m).foldl (fun z m => (put z m).s) (warm 1 (.mstore ga storeg) [0x10000, 512])) from (hp _ n hn (H n (Nat.le_refl n))).1
  intro m
  induction m with
  | zero => exact fun _ => warm_warm _ _ _
  | succ m ih =>
    intro h
    rw [List.range_succ, List.foldl_append]
    exact (hp _ m (by omega) (ih (by omega))).2
/-- The numbers of a chunk: one with a NaN, and one with none. -/
theorem witness_MatrixAndTrunkWork_sums : readE4m3 0x7F = .nan ∧ (∀ n < 256, n % 128 ≠ 127 → readE4m3 n ≠ .nan) ∧
    ∀ f : Nat → Word, ∃ p : Nat → Nat → Word, (∀ l n, p (l + 1) n = add32 (p l (2 * n)) (p l (2 * n + 1))) ∧ ∀ n, p 0 n = f n :=
  ⟨by decide +kernel, by decide +kernel, fun f => ⟨fun l => l.rec f fun _ q n => add32 (q (2 * n)) (q (2 * n + 1)), fun _ _ => rfl, fun _ => rfl⟩⟩

/-- FencesAndPrefetch: a write to HBM that pends, made by lane 0 of the path or by a lane of another group. -/
def pendingAt (grp : Nat) : State := globalAt.onCore 0 fun c =>
  { c with mc := { c.mc with wbuf := [{ id := 5, after := Tab.empty.put grp 1, pa := 0x40010040, bytes := [7], pol := 1, mir := false, zel := false, deps := [], rel := 0 }] } }
theorem witness_FencesAndPrefetch_pending : (∀ g ∈ [p0.party, p0.party + 1], ∀ k ∈ ([2, 3] : List (BitVec 2)),
      (pendingAt g).Issues p0 (.fence la { kind := k, scope := 3, res := 0 }) ∧ ((pendingAt g).caches 0).promises = [] ∧ (pendingAt g).mirror.flight = [] ∧
      ((pendingAt g).caches 0).wbuf.map (fun w => (w.mir, decide (w.after.get p0.party 0 &&& (pendingAt g).maskOf p0 ≠ 0), relWaits 3 w.pa)) = [(false, decide (g = p0.party), true)]) ∧
    p0.place < 512 ∧ p0.node = 0 := by
  refine ⟨fun g hg k hk => ?_, by decide⟩
  have h := (by decide +kernel : ∀ g ∈ [p0.party, p0.party + 1], ∀ k ∈ ([2, 3] : List (BitVec 2)),
    may (pendingAt g) p0 (.fence la { kind := k, scope := 3, res := 0 }) = true ∧ ((pendingAt g).caches 0).promises = [] ∧ (pendingAt g).mirror.flight = [] ∧
      ((pendingAt g).caches 0).wbuf.map (fun w => (w.mir, decide (w.after.get p0.party 0 &&& (pendingAt g).maskOf p0 ≠ 0), relWaits 3 w.pa)) = [(false, decide (g = p0.party), true)]) g hg k hk
  exact ⟨issues_of_may h.1, h.2⟩

/-- Booting, HostRegisters: BOOTCMD written while a start runs and after recovery has failed; a function read when it is there, not ready and not there. -/
def deadAt : State := { State.reset with boot := { Boot.reset with dead := true } }
def reads (s : State) (link fn : Nat) : Nat := match s.readRegister link fn 0x10018 with
  | .absent => 0
  | .notReady => 1
  | .value _ => 2
theorem witness_HostRegisters_reads : (booting 0).boot.start ≠ none ∧ deadAt.boot.start = none ∧ deadAt.boot.dead = true ∧ State.reset.boot.start = none ∧ State.reset.boot.dead = false ∧
    (∀ fn ∈ [0, 1, 64], reads (booting 0) 0 fn = 1 ∧ reads State.reset 0 fn = 2 ∧ (fn ≠ 0 → reads deadAt 0 fn = 1)) ∧ reads deadAt 0 0 = 2 ∧ reads State.reset 0 65 = 0 ∧ reads State.reset 2 0 = 0 ∧
    reads State.reset 1 1 = 0 := by decide +kernel
theorem witness_Booting_writes : (0 : Dword).getLsbD 1 = false ∧ (1 : Dword).getLsbD 1 = false ∧ (1 : Dword).getLsbD 0 = true := by decide

/-- Scheduling: a group whose lanes have ended, of which a write is held, and none. -/
def endedGroup (l : List Deferred) : State := { pathAt.onGroup 0 0 fun g => { g with idle := g.launched, paths := .empty } with deferred := l }
theorem witness_Scheduling_owes : ∀ l ∈ [[], [{ id := 0, ctx := 0, grid := 0, core := 0, slot := 0, lanes := 1, va := 0x10000, bytes := [1], keep := false, parkSeq := 9 }]],
    let s := endedGroup l
    let k := s.group 0 0
    s.deferred = l ∧ (s.core 0).groups.find 0 = some k ∧ k.retired = false ∧ k.live = 0 ∧ k.paths.cells = [] ∧ ∀ i < 64, (k.binds.get i .none).bound = false := by
  decide +kernel

/-- EngineCommands: a box copy whose record is held as it is issued, with no LAYOUT before it and with one; n of 24 bytes. -/
def boxIssue (behind : Bool) : State :=
  let s := withS (withS seqAt 1 0x12345) 127 0x0001000100020003
  let s := s.onCore 0 fun c => { c with layouts := [{ ctx := 0, handle := 0x12345, words := [0x2200000000010000, 0x0000000400000004, 0x0000000100000001, 16, 0, 0, 7, 1] }] }
  if behind then withCmds s 0 [cmdOf (.layout ga layoutx)] else s
theorem witness_EngineCommands_boxes : let i : Instr := .cpy { ga with d := 3, a := 1, b := 125 } { cpyx with mode := 4 }
    (∀ b ∈ [false, true], (boxIssue b).Issues q0 i ∧ (boxIssue b).srcG q0 1 = 0x12345 ∧ (boxIssue b).sget q0 126 = 0 ∧ ((boxIssue b).sget q0 127).toNat = 0x0001000100020003 ∧
      (((boxIssue b).core 0).layouts.find? fun e => e.ctx == (boxIssue b).ctxOf q0 && e.handle == 0x12345).isSome = true ∧
      (((boxIssue b).teamOf q0).eng.get 0 .none).cmds.length = b.toNat) ∧ boxCount [0, 0x12345, 0, 0, 0x0001000100020003] * layoutElem (recType [0x2200000000010000]) = 24 := by
  refine ⟨fun b hb => ⟨issues_of_may ((by decide +kernel : ∀ b ∈ [false, true], may (boxIssue b) q0 (.cpy { ga with d := 3, a := 1, b := 125 } { cpyx with mode := 4 }) = true) b hb), ?_⟩, by decide +kernel⟩
  exact (by decide +kernel : ∀ b ∈ [false, true], (boxIssue b).srcG q0 1 = 0x12345 ∧ (boxIssue b).sget q0 126 = 0 ∧ ((boxIssue b).sget q0 127).toNat = 0x0001000100020003 ∧
      (((boxIssue b).core 0).layouts.find? fun e => e.ctx == (boxIssue b).ctxOf q0 && e.handle == 0x12345).isSome = true ∧
      (((boxIssue b).teamOf q0).eng.get 0 .none).cmds.length = b.toNat) b hb
/-- MatrixAndTrunkWork: a TCFG that names no span and that no begun span meets. -/
theorem witness_MatrixAndTrunkWork_alone : ∀ l ∈ [false, true], let x : Cmd := { cmdOf (.tcfg ga tcfgx) with ops := [if l then 2048 else 128, 0] }
    (tcfgAt l).spanMeets 0 0 x = [] ∧ x.record = none ∧ x.doomed = false ∧ tcfgx.sm1 = 0 := by decide +kernel

/-! Single steps and operations, with the values that the spec works out. -/

/-- spec/01, the worked walk: the physical address, and ACC set in the leaf. -/
def walkAt : State := { (pathAt.onCtx 0 fun c => { c with desc := { c.desc with w0 := 0x10000001, w1 := 32 } }) with
  mem := (((Mem.write [] 0x10001230 (natLe 8 0x10010001)).write 0x10018AC8 (natLe 8 0x10020001)).write 0x10020E20 (natLe 8 0x10021001)).write 0x100210D0 (natLe 8 0x005000245670024F) }
theorem test_worked_walk : (match walkAt.translate 0 0 0x00123456789ABCDE .load with
    | .ok x => (x.pa, x.pte, x.mir, (walkAt.useLeaf 0 0 0x00123456789ABCDE x .load).home64 0x100210D0)
    | .error _ => (0, 0, true, 0)) = (0x245670BCDE, 0x100210D0, false, 0x005000245670064F) := by decide +kernel
theorem test_worked_walk_key : (match (walkAt.onCtx 0 fun c => { c with desc := { c.desc with w1 := 0 } }).translate 0 0 0x00123456789ABCDE .load with
    | .ok _ => 0
    | .error f => f.cause) ≠ 0 := by decide +kernel
/-- spec/02, the worked home hash. -/
theorem test_worked_hash : stackOf 0x245670BCDE = 2 := by decide
/-- spec/06 R147: E4M3 conversions and their flags (F8S, NX). -/
theorem test_e4m3 : ([0x4199999A, 0x43E80000, 0x43EB0000, 0x3A83126F, 0x80000000].map fun n => (e4m3q 0 false (val32 (BitVec.ofNat 32 n))).1) = [0x5A, 0x7E, 0x7E, 0x01, 0x80] ∧
    (e4m3q 0 true (val32 0x43EB0000)).1 = 0x7F ∧ (e4m3q 1 true (val32 0x43EB0000)).1 = 0x7E ∧ (e4m3q 0 false (val32 0x43E80000)).2 ≠ (e4m3q 0 false (val32 0x43EB0000)).2 := by decide +kernel
/-- spec/06, the carry over two rounds. -/
theorem test_carry : let x : List Word := [0x40E00000, 0x3E99999A]
    let r := carryBlock x [0, 0]
    let q := carryBlock x r.1
    r.1 = [0, rn32 (.fin (.ofInt (-419430) (-25)))] ∧ q.1 = [0, rn32 (.fin (.ofInt 209716 (-25)))] ∧
    r.2.getD 1 0 = rn32 (.fin (.ofInt 10 (-5))) ∧ q.2.getD 1 0 = rn32 (.fin (.ofInt 9 (-5))) := by decide +kernel
/-- spec/06 R149: TX64 of the least value, and of NaN. -/
theorem test_tx : (satTx (val32 0xCF000000)).1 = -(2 ^ 63) ∧ (satTx (val32 0xCF000000)).2 ≠ 0 ∧ (satTx (val32 0x3F800000)).1 = 2 ^ 32 := by decide +kernel
/-- What lane 0 has in v0 and the flags of the group after CVT of `v` from type `b` to type `m` in a path of one lane. -/
def cvtOf (m : BitVec 3) (b : BitVec 7) (v : Dword) : Word × Word := 
  let t := next (exec (.cvt { la with m := m, a := 72, b := b }) (withS one 0 v))
  (t.vget p0 0 0, t.vget p0 0 1)
/-- spec/09 R216: the cases of its table. -/
theorem test_cvt : (cvtOf 0 4 0xC0200000).1 = 0xFFFFFFFE ∧ (cvtOf 1 4 0xBF800000).1 = 0 ∧ (cvtOf 6 4 0x43E80000).1 = 0x7E ∧ (cvtOf 4 7 0xFFFFFFFF80000000).1 = 0xBF000000 ∧
    cvtOf 7 2 0x10000000000 = (0xFFFFFFFF, 0x7FFFFFFF) := by decide +kernel
/-- spec/09 R220: VMATCH of five keys; lane 5 stands outside the path. -/
def matchAt : State := [(0, (0x7FC00000 : Word)), (1, 0x7FC00000), (2, 0x7FC00001), (3, 0), (4, 0x80000000)].foldl (fun s x => withV s x.1 2 x.2)
  (withV (pathAt.onGroup 0 0 fun g => { g with paths := g.paths.put 0 { g.path 0 with mask := 0x1F } }) 5 4 9)
theorem test_vmatch : let t := next (exec (.vmatch { la with m := 1, a := 2, d := 4 }) matchAt)
    (List.range 6).map (t.vget p0 · 4) = [3, 3, 4, 8, 0x10, 9] := by decide +kernel
/-- spec/09 R223 and its trace: 2^24 and twelve ones add up to 2^24 in lane order. -/
def reduceAt : State := (List.range 13).foldl (fun s k => withV s (if k < 5 then k else k + 1) 4 (if k = 0 then 0x4B800000 else 0x3F800000))
  (pathAt.onGroup 0 0 fun g => { g with launched := 0x3FDF, paths := g.paths.put 0 { g.path 0 with mask := 0x3FDF } })
theorem test_vreduce : let t := next (exec (.vreduce { la with m := 4, a := 4, d := 5 }) reduceAt)
    [0, 4, 6, 13].map (t.vget p0 · 5) = [0x4B800000, 0x4B800000, 0x4B800000, 0x4B800000] ∧ t.vget p0 5 5 = 0 ∧ t.flagsSeen p0 = 16 := by decide +kernel
/-- spec/05, a divergence traced: step 1, and from a state as after it step 2. -/
def sixteen : State := (withS pathAt 7 0x0F0C).onGroup 0 0 fun g => { g with width := 16, launched := 0xFFFF, paths := g.paths.put 0 { g.path 0 with mask := 0xFFFF } }
def entries (s : State) : List (Nat × Bool × Dword × Dword) := (s.group 0 0).paths.cells.map fun p => (p.1, p.2.arm, p.2.mask, p.2.th.pc)
theorem test_brd : let t := next (exec (.brd { k := false, c := 7, disp := 16 }) sixteen)
    entries t = [(0, true, 3, 0x10004), (1, false, 0x0F00, 0x10040), (2, false, 0xF0F0, 0x10004), (3, true, 0x000C, 0x10040)] ∧
    (t.group 0 0).stack.cells.map (fun e => (e.1, e.2.kind, e.2.rmask)) = [(0, true, 0x000F)] := by decide +kernel
def armA : State := { (withS pathAt 9 4).onGroup 0 0 fun g =>
  { g with
    width := 16, launched := 0xFFFF
    paths := (g.paths.put 0 { g.path 0 with mask := 3, arm := true, partner := 3, stkv := true }).put 3 { g.path 0 with mask := 0xC, arm := true, partner := 0, stkv := true }
    stack := Tab.empty.put 0 { StackEntry.none with kind := true, rmask := 0xF } } with turn := some (.path 0 0 3) }
theorem test_brd_serial : let t := next (exec (.brd { k := false, c := 9, disp := 16 }) armA)
    ((t.group 0 0).path 3).mask = 4 ∧ ((t.group 0 0).path 3).stk = 1 ∧
    (t.group 0 0).stack.cells.map (fun e => (e.1, e.2.kind, e.2.rmask, e.2.pmask, e.2.next)) = [(0, true, 0x000F, 0, 0), (1, false, 0x000C, 8, 0)] := by decide +kernel
/-- spec/06 R152: perturbed draws wrap. -/
theorem test_perturb : mutated 0xE00000 (entVal 0xE00000 + 0x200000) % 2 ^ 24 = 0 ∧ mutated 0x400000 (entVal 0x400000 + 0x200000) % 2 ^ 24 = 0x600000 := by decide
/-- spec/08 R188, R183: GSUB wraps at 64 bits, and its result is in S[d] and in latch 1 of the uniform pipe. -/
theorem test_gsub : let t := next (exec (.gsub { ga with a := 1, b := 2, d := 3 }) (withS (withS pathAt 1 0) 2 1))
    t.sget p0 3 = 0xFFFFFFFFFFFFFFFF ∧ (t.thread p0).run.ulat.head? = some (some 0xFFFFFFFFFFFFFFFF) ∧ (t.thread p0).pc = 0x10004 := by decide +kernel
/-- spec/15 R329, R330: TRAP 7 with a handler. -/
theorem test_trap : let t := next (exec (.trap { gi with imm := 7 }) (withTrap pathAt))
    (t.thread p0).pc = 0x20000 ∧ (t.thread p0).frame.rpc = 0x10004 ∧ (t.thread p0).frame.fpc = 0x10000 ∧ (t.thread p0).frame.low = 0x00073001 := by decide +kernel
/-- spec/11 R260: the trunk wraps, counts the wrap, and SQ144 is the sum of the squares that stand. -/
theorem test_trunk_wrap : let s := (pathAt.trunkAdd 0 0 15 127 (2 ^ 63 - 1) false false).trunkAdd 0 0 15 127 1 false false
    s.trunkEl 0 0 15 127 = -(2 ^ 63) ∧ (s.trunkWcnt 0 0 15).toNat = 1 ∧ (s.trunkSq 0 0 15).toNat = 2 ^ 126 := by decide +kernel
/-- spec/17: the word of its step table, placed after reset, is what the first step performs. -/
theorem test_first_step : ((next (step (State.reset.withFetchWord 32 0x99020204))).thread p0).pc = 0x10004 ∧ (next (step (State.reset.withFetchWord 32 0x99020204))).sget p0 4 = 0 := by decide +kernel

end Sys2Proof.Tests
end

namespace Sys2Proof.Machine

/-! O54. A stand that changes its grove is zeroed (spec/01 R21), and `State.zeroStand` brings home first what its cores have
written. That is a core's pending writes and also its stores put off (spec/03 R85, notes/assumptions/5.md); the statement has
memory stay as it is where no write pends, whatever has been put off. -/

/-- Stands are numbered below 64, and the functions serve writes unless the module starts or is dead (spec/16 R350). -/
theorem exec_standgrvWrite_of_up {s : State} (hup : s.up = true) {k : Nat} (hk : k < 64) (v : Dword) :
    exec (.standgrvWrite k v) s = .next (s.writeStand k v) := by
  rw [exec_standgrvWrite, execStandgrvWrite, if_pos hup, Nat.mod_eq_of_lt hk]

/-- A store of one byte to module HBM5 which has been issued and has not yet its core-visible instant. -/
def byteStorePutOff : LateStore :=
  { w := { id := 0, after := .empty, pa := 4096, bytes := [1], pol := 2, mir := false, zel := false, deps := [], rel := 0 }
    grp := 0, own := 1, sp := none }

/-- The module after reset, but for one store that core 0 has put off: stand 0 holds nothing, and no write pends anywhere. -/
def storePutOffAtReset : State :=
  State.reset.onCore 0 fun c => { c with mc := { c.mc with late := [byteStorePutOff] } }

theorem storePutOffAtReset_not_held :
    ¬ ((∃ i, i < 8 ∧ (storePutOffAtReset.core (8 * 0 + i)).teams.cells ≠ []) ∨
      (storePutOffAtReset.lantern 0).progs.cells ≠ []) := by
  decide

theorem storePutOffAtReset_cores_wbuf : ∀ i < 8, (storePutOffAtReset.core (8 * 0 + i)).mc.wbuf = [] := by
  decide

theorem storePutOffAtReset_home : storePutOffAtReset.mem.get 4096 = 0 := by
  decide

/-- The stand changes its grove, and the store put off is home: zeroing drains it first. -/
theorem storePutOffAtReset_home_after_writeStand : (storePutOffAtReset.writeStand 0 1).mem.get 4096 = 1 := by
  decide +kernel

/-- Refutes O54: the clause on a stand that changes its grove has memory unchanged where no write of its cores and its lantern
core pends, but a store that core 0 has put off is made visible and brought home before the stand is zeroed. -/
theorem not_hostRegisters : ¬ Obligations.HostRegisters := by
  unfold Obligations.HostRegisters
  intro h
  obtain ⟨-, hstand, -⟩ := h storePutOffAtReset 0 1
  have hup : storePutOffAtReset.up = true := by decide
  obtain ⟨-, hmoved⟩ := hstand 0 (by decide) hup
  obtain ⟨t, hexec, -, -, -, -, -, -, -, hmem, -⟩ := hmoved storePutOffAtReset_not_held (by decide)
  have ht : storePutOffAtReset.writeStand 0 1 = t := by
    rw [exec_standgrvWrite_of_up hup (by decide)] at hexec
    exact Host.Outcome.next.inj hexec
  have hkept : t.mem = storePutOffAtReset.mem := hmem storePutOffAtReset_cores_wbuf (by decide) (by decide)
  have hbyte : (1 : Byte) = 0 := by
    rw [← storePutOffAtReset_home_after_writeStand, ht, hkept, storePutOffAtReset_home]
  exact absurd hbyte (by decide)

end Sys2Proof.Machine

namespace Sys2Proof.Machine

/-! O60. What reset leaves. A place of a table that holds no entry reads as its Reset column, so each part of the statement reads a
table that is empty. -/

theorem State.memOk_reset : State.reset.memOk :=
  ⟨State.homeOk_reset.1, State.homeOk_reset.2, fun _ => rfl⟩

@[simp] theorem State.core_reset (c : Nat) : State.reset.core c = Core.none := rfl
@[simp] theorem State.ctx_reset (c : Nat) : State.reset.ctx c = Context.reset := rfl
@[simp] theorem State.grove_reset (g : Nat) : State.reset.grove g = Grove.reset := rfl
@[simp] theorem Mem.get_nil (a : Nat) : Mem.get [] a = 0 := rfl
@[simp] theorem Tab.get_empty {α : Type} (k : Nat) (d : α) : (Tab.empty : Tab α).get k d = d := rfl

/-- No path, sequencer or program is resident after reset (spec/16 R351). -/
theorem State.alive_reset (u : UnitId) : State.reset.alive u = false := by
  cases u with
  | path c g i => rfl
  | seq c k => rfl
  | lant l p => rfl

/-- Settles O60: memory is empty, every table is empty, and every scalar register is its Reset column. -/
theorem resetState : Obligations.ResetState := by
  unfold Obligations.ResetState
  refine ⟨State.memOk_reset, Mem.get_nil, fun c a => ?scratchpad, rfl, State.alive_reset, rfl, rfl, rfl, fun k => ?tables,
    rfl, rfl, rfl, rfl, rfl, rfl, rfl, rfl, rfl, fun c => ?contexts, fun g => ?groves⟩
  case scratchpad => exact Mem.get_nil a
  case tables => simp [State.splitOf, State.reset, PfRegs.reset, Peer.reset]
  case contexts => simp [Context.reset, CtxDesc.reset, CtxDesc.en]
  case groves => simp [Grove.reset, Window.reset, SubQueue.reset]

end Sys2Proof.Machine

namespace Sys2Proof.Machine

/-! Memory at home after a write: what a write of any length leaves in each byte, and what one slot put into a ring leaves. -/

variable {s t : State}

theorem State.mem_writeSector (s : State) (pa : Nat) (bs : List Byte) (pol : Nat) : (s.writeSector pa bs pol).mem = s.mem.write pa bs := by
  simp only [State.writeSector]
  repeat' split
  all_goals simp

theorem Mem.get_write (m : Mem) (a : Nat) (bs : List Byte) (c : Nat) :
    (m.write a bs).get c = if a ≤ c ∧ c < a + bs.length then bs.getD (c - a) 0 else m.get c := by
  split
  · rename_i h
    obtain ⟨i, rfl⟩ := Nat.exists_eq_add_of_le h.1
    have hi : i < bs.length := by omega
    rw [Mem.get_write_same m a bs hi, Nat.add_sub_cancel_left, List.getD_eq_getElem _ _ hi]
  · exact Mem.get_write_other m a bs (by omega)

/-- The parts of `bs` that lie in the stretches `ps`, written one after the other. -/
theorem State.get_writePieces (pa : Nat) (bs : List Byte) (pol a : Nat) (ps : List (Nat × Nat))
    (hps : ∀ p ∈ ps, pa ≤ p.1 ∧ p.1 + p.2 ≤ pa + bs.length) (s : State) :
    (ps.foldl (fun s p => s.writeSector p.1 ((bs.drop (p.1 - pa)).take p.2) pol) s).mem.get a =
      if ∃ p ∈ ps, p.1 ≤ a ∧ a < p.1 + p.2 then bs.getD (a - pa) 0 else s.mem.get a := by
  induction ps generalizing s with
  | nil => simp
  | cons p r ih =>
    have hp := hps p (by simp)
    rw [List.foldl_cons, ih (fun q hq => hps q (List.mem_cons_of_mem _ hq)), State.mem_writeSector, Mem.get_write]
    have hlen : ((bs.drop (p.1 - pa)).take p.2).length = p.2 := by simp; omega
    rw [hlen]
    by_cases hr : ∃ q ∈ r, q.1 ≤ a ∧ a < q.1 + q.2
    · obtain ⟨q, hq, ha⟩ := hr
      rw [if_pos ⟨q, hq, ha⟩, if_pos ⟨q, List.mem_cons_of_mem _ hq, ha⟩]
    · rw [if_neg hr]
      by_cases ha : p.1 ≤ a ∧ a < p.1 + p.2
      · rw [if_pos ha, if_pos ⟨p, by simp, ha⟩]
        have hi : a - pa = (p.1 - pa) + (a - p.1) := by omega
        have hj : a - p.1 < p.2 := by omega
        simp [List.getD, List.getElem?_drop, hi, hj]
      · rw [if_neg ha, if_neg]
        rintro ⟨q, hq, hqa⟩
        rcases List.mem_cons.mp hq with rfl | hq
        · exact ha hqa
        · exact hr ⟨q, hq, hqa⟩

/-- A write at the home slices gives each byte it names its value and leaves every other byte alone (spec/03 R83). -/
theorem State.get_writeHome (s : State) (pa : Nat) (bs : List Byte) (pol a : Nat) :
    (s.writeHome pa bs pol).mem.get a = if pa ≤ a ∧ a < pa + bs.length then bs.getD (a - pa) 0 else s.mem.get a := by
  unfold State.writeHome
  rw [State.get_writePieces pa bs pol a _ (pieces_within 64 _ _ (by decide))]
  by_cases h : pa ≤ a ∧ a < pa + bs.length
  · rw [if_pos h, if_pos (pieces_cover 64 _ _ a (by decide) h)]
  · rw [if_neg h, if_neg]
    rintro ⟨p, hp, ha⟩
    have := pieces_within 64 _ _ (by decide) p hp
    omega

theorem Mem.read_congr {m k : Mem} {a n : Nat} (h : ∀ i < n, m.get (a + i) = k.get (a + i)) : m.read a n = k.read a n :=
  List.map_congr_left fun i hi => h i (List.mem_range.mp hi)

theorem State.read_writeHome_same (s : State) (pa : Nat) (bs : List Byte) (pol : Nat) :
    (s.writeHome pa bs pol).mem.read pa bs.length = bs :=
  (Mem.read_congr fun i _ => by rw [State.get_writeHome, Mem.get_write]).trans (Mem.read_write s.mem pa bs)

theorem State.read_writeHome_other (s : State) (pa : Nat) (bs : List Byte) (pol : Nat) {a n : Nat}
    (h : a + n ≤ pa ∨ pa + bs.length ≤ a) : (s.writeHome pa bs pol).mem.read a n = s.mem.read a n :=
  Mem.read_congr fun i hi => by rw [State.get_writeHome, if_neg (by omega)]

@[simp] theorem natLe_length (n v : Nat) : (natLe n v).length = n := by
  induction n generalizing v with
  | zero => rfl
  | succ n ih => simp [natLe, ih]

theorem leNat_natLe (n v : Nat) : leNat (natLe n v) = v % 256 ^ n := by
  induction n generalizing v with
  | zero => simp [leNat, natLe, Nat.mod_one]
  | succ n ih =>
    have h : v % 256 ^ (n + 1) = v % 256 + 256 * (v / 256 % 256 ^ n) := by rw [pow_succ', Nat.mod_mul]
    rw [h, natLe, leNat, ih, BitVec.toNat_ofNat]

/-- A 64-bit entry reads back as it was written. -/
theorem State.home64_writeHome_same (s : State) (a v pol : Nat) :
    (s.writeHome a (natLe 8 v) pol).home64 a = BitVec.ofNat 64 v := by
  have h := State.read_writeHome_same s a (natLe 8 v) pol
  rw [natLe_length] at h
  apply BitVec.eq_of_toNat_eq
  simp [State.home64, h, leNat_natLe]


@[simp] theorem bytesOfDwords_length (l : List Dword) : (bytesOfDwords l).length = 8 * l.length := by
  simp [bytesOfDwords, Nat.mul_comm]

/-! Rings. The producer index of a ring stands a page below its first slot (spec/01 R39). -/

/-- The slot of a ring that its producer index names. -/
def State.ringSlot (s : State) (base lg size : Nat) : Nat := base + size * ((s.home64 (base - 4096)).toNat % 2 ^ lg)

theorem State.ringWrite_one (s : State) (base lg size : Nat) (b : List Byte) :
    s.ringWrite base lg size [b] =
      (s.writeHome (s.ringSlot base lg size) b 1).writeHome (base - 4096) (natLe 8 ((s.home64 (base - 4096)).toNat + 1)) 1 := by
  simp [State.ringWrite, State.ringSlot]

theorem State.homeOnly_ringWrite (s : State) (base lg size : Nat) (slots : List (List Byte)) :
    s.HomeOnly (s.ringWrite base lg size slots) :=
  (homeOnly_foldl _ _ s fun s _ => State.homeOnly_writeHome s _ _ _).trans (State.homeOnly_writeHome _ _ _ _)

/-- The producer index has moved by one. -/
theorem State.home64_ringWrite_index (s : State) (base lg size : Nat) (b : List Byte) :
    (s.ringWrite base lg size [b]).home64 (base - 4096) = s.home64 (base - 4096) + 1 := by
  rw [State.ringWrite_one, State.home64_writeHome_same]
  apply BitVec.eq_of_toNat_eq
  simp

section
variable (s : State) {base lg size : Nat} (b : List Byte) (hbase : 4096 ≤ base)
include hbase

theorem State.base_le_ringSlot : base - 4096 + 8 ≤ s.ringSlot base lg size := by
  unfold State.ringSlot
  omega

/-- The slot holds what was put into it. -/
theorem State.read_ringWrite_slot :
    (s.ringWrite base lg size [b]).mem.read (s.ringSlot base lg size) b.length = b := by
  have h := State.base_le_ringSlot s (lg := lg) (size := size) hbase
  rw [State.ringWrite_one, State.read_writeHome_other _ _ _ _ (.inr (by simpa using h)), State.read_writeHome_same]

/-- Every byte but those of the slot and of the producer index is as before. -/
theorem State.get_ringWrite_other {a : Nat}
    (hslot : ¬ (s.ringSlot base lg size ≤ a ∧ a < s.ringSlot base lg size + b.length))
    (hindex : ¬ (base - 4096 ≤ a ∧ a < base - 4088)) : (s.ringWrite base lg size [b]).mem.get a = s.mem.get a := by
  rw [State.ringWrite_one, State.get_writeHome, if_neg (by rw [natLe_length]; omega), State.get_writeHome, if_neg hslot]

end

end Sys2Proof.Machine

namespace Sys2Proof.Machine

variable {s t : State}

/-! Contexts and groves after an update, and what an update of theirs leaves alone. -/

theorem State.ctx_onCtx (s : State) (c d : Nat) (f : Context → Context) :
    (s.onCtx c f).ctx d = if d = c then f (s.ctx c) else s.ctx d := by
  simp [State.onCtx, State.ctx, Tab.get_put]
@[simp] theorem State.ctx_onCtx_same (s : State) (c : Nat) (f : Context → Context) : (s.onCtx c f).ctx c = f (s.ctx c) := by
  simp [State.ctx_onCtx]
@[simp] theorem State.grove_onGrove_same (s : State) (g : Nat) (f : Grove → Grove) : (s.onGrove g f).grove g = f (s.grove g) := by
  simp [State.grove, State.onGrove]
@[simp] theorem State.team_onCtx (s : State) (c n k : Nat) (f : Context → Context) : (s.onCtx c f).team n k = s.team n k := rfl
@[simp] theorem State.thread_onCtx (s : State) (c : Nat) (u : UnitId) (f : Context → Context) : (s.onCtx c f).thread u = s.thread u := by
  cases u <;> rfl
@[simp] theorem State.mask_onCtx (s : State) (c : Nat) (u : UnitId) (f : Context → Context) : (s.onCtx c f).maskOf u = s.maskOf u := by
  cases u <;> rfl
@[simp] theorem State.ctxOf_onCtx (s : State) (c : Nat) (u : UnitId) (f : Context → Context) : (s.onCtx c f).ctxOf u = s.ctxOf u := by
  cases u <;> rfl
@[simp] theorem State.grove_onCtx (s : State) (c g : Nat) (f : Context → Context) : (s.onCtx c f).grove g = s.grove g := rfl
@[simp] theorem State.caches_onCtx (s : State) (c n : Nat) (f : Context → Context) : (s.onCtx c f).caches n = s.caches n := rfl

@[simp] theorem State.ctx_signal (s : State) (g v c : Nat) : (s.signal g v).ctx c = s.ctx c := rfl
@[simp] theorem State.team_signal (s : State) (g v n k : Nat) : (s.signal g v).team n k = s.team n k := rfl
@[simp] theorem State.thread_signal (s : State) (g v : Nat) (u : UnitId) : (s.signal g v).thread u = s.thread u := by
  cases u <;> rfl
@[simp] theorem State.gint_signal (s : State) (g v : Nat) :
    ((s.signal g v).grove g).gint = (s.grove g).gint ||| BitVec.ofNat 4 (2 ^ v) := by
  simp [State.signal]

theorem State.HomeOnly.ctx (h : s.HomeOnly t) (c : Nat) : t.ctx c = s.ctx c := by rw [h]; rfl
theorem State.HomeOnly.grove (h : s.HomeOnly t) (g : Nat) : t.grove g = s.grove g := by rw [h]; rfl
theorem State.HomeOnly.caches (h : s.HomeOnly t) (n : Nat) : t.caches n = s.caches n := by rw [h]; rfl

/-! A command that has failed completes, while its team's sequencer runs and does not wait (spec/15 R335). -/

/-- The sequencer of team slot `k` of core `c` runs, and no wait of it is to be ended by a command that fails. -/
def State.SeqRuns (s : State) (c k : Nat) : Prop :=
  (s.team c k).seqExited = false ∧ (s.thread (.seq c k)).state ≠ .waiting

/-- A core on which command `cmd` of queue `q` of team slot `t` has completed with error record `r`. -/
def Core.endCmd (k : Core) (t q : Nat) (cmd : Cmd) (r : List Dword) : Core :=
  let tm := k.teams.get t .none
  { k with
    tiles := cmd.wrTiles.foldl (fun ts w => match tm.tiles[w]? with
      | some n => ts.put n { ts.get n .zero with valid := false }
      | .none => ts) k.tiles
    teams := k.teams.put t
      { (tm.onEngq q fun e => { e with cmds := e.cmds.filter (fun x => x.id != cmd.id), halted := true }) with
          errRec := some r, haltPending := tm.haltPending ++ [q] } }

theorem State.team_endCmd (s : State) (c k q : Nat) (cmd : Cmd) (r : List Dword) :
    (s.onCore c fun x => x.endCmd k q cmd r).team c k =
      { ((s.team c k).onEngq q fun e => { e with cmds := e.cmds.filter (fun x => x.id != cmd.id), halted := true }) with
          errRec := some r, haltPending := (s.team c k).haltPending ++ [q] } := by
  simp [State.team, Core.endCmd]

theorem State.cmdEnded_of_none {c k q id : Nat} {r : List Dword}
    (h : ((s.team c k).engq q).cmds.find? (fun x => x.id == id) = none) : s.cmdEnded c k q id r = s := by
  simp [State.cmdEnded, h]

theorem State.cmdEnded_of_some {c k q id : Nat} {r : List Dword} {cmd : Cmd} (hrun : s.SeqRuns c k)
    (h : ((s.team c k).engq q).cmds.find? (fun x => x.id == id) = some cmd) :
    s.cmdEnded c k q id r = s.onCore c fun x => x.endCmd k q cmd r := by
  obtain ⟨hexit, hwait⟩ := hrun
  have hid : cmd.id = id := by simpa using List.find?_some h
  have ht := State.team_endCmd s c k q cmd r
  subst hid
  have h1 : ((s.onCore c fun x => x.endCmd k q cmd r).team c k).seqExited = false := by rw [ht]; exact hexit
  have h2 : ((s.onCore c fun x => x.endCmd k q cmd r).thread (.seq c k)).state ≠ .waiting := by
    simp only [State.thread, ht]; exact hwait
  have h3 : s.cmdEnded c k q cmd.id r =
      if ((s.onCore c fun x => x.endCmd k q cmd r).team c k).seqExited then
        (s.onCore c fun x => x.endCmd k q cmd r).tearTeam (.seq c k) 0x10 (1 + 0x38 * 256 + q * 65536)
      else if ((s.onCore c fun x => x.endCmd k q cmd r).thread (.seq c k)).state == .waiting then
        (s.onCore c fun x => x.endCmd k q cmd r).haltTrap c k
      else s.onCore c fun x => x.endCmd k q cmd r := by
    unfold State.cmdEnded
    rw [h]
    rfl
  rw [h3, h1]
  simp [h2]

/-- Such a completion changes cores alone. -/
theorem State.cmdEnded_cores {c k q id : Nat} {r : List Dword} (hrun : s.SeqRuns c k) :
    s.cmdEnded c k q id r = { s with cores := (s.cmdEnded c k q id r).cores } := by
  cases h : ((s.team c k).engq q).cmds.find? (fun x => x.id == id) with
  | none => rw [State.cmdEnded_of_none h]
  | some cmd => rw [State.cmdEnded_of_some hrun h]; rfl

/-- The command has left its queue, which has halted, and its record is the team's error record. -/
theorem State.cmdEnded_team {c k q id : Nat} {r : List Dword} {cmd : Cmd} (hrun : s.SeqRuns c k)
    (h : ((s.team c k).engq q).cmds.find? (fun x => x.id == id) = some cmd) :
    ((s.cmdEnded c k q id r).team c k).errRec = some r ∧
      ((s.cmdEnded c k q id r).team c k).eng.get q .none =
        { cmds := ((s.team c k).engq q).cmds.filter fun x => x.id != id, halted := true } := by
  have hid : cmd.id = id := by simpa using List.find?_some h
  rw [State.cmdEnded_of_some hrun h, State.team_endCmd, hid]
  simp [Team.onEngq]

/-! FAULT_RECORD_WRITE (spec/01 R39). -/

theorem Requester.parks_iff (q : Requester) : q.parks = true ↔ ∀ j m i id, q ≠ .failing j m i id := by
  cases q <;> simp [Requester.parks]

/-- Who is parked on a record of a context once record `r` is written, `l` being those that were before (spec/01 R39, R40). -/
def PendRecord.parked (r : PendRecord) (l : List Outstanding) : List Outstanding := match r.out with
  | some q => if q.parks then l ++ [{ seq := r.seq, req := q }] else l
  | none => l
/-- A record is in its ring: it no longer waits, its requester is parked on it, and vector 0 of its grove is signalled. -/
def State.recordIn (s : State) (c : Nat) (r : PendRecord) (rest : List PendRecord) : State :=
  ((s.ringWrite r.desc.fqbase r.desc.fqlog2 32 [bytesOfDwords r.words]).onCtx c fun k =>
    { k with pend := rest, outstanding := r.parked k.outstanding }).signal r.desc.grove 0
/-- With its record written a command that has failed completes. -/
def State.endFailing (s : State) (r : PendRecord) : State := match r.out with
  | some (.failing k t q id) => s.cmdEnded k t q id r.words
  | _ => s
/-- The sequencer of the command, if any, that completes with a record runs on. -/
def State.EndsQuietly (s : State) (r : PendRecord) : Prop :=
  ∀ j m q id, r.out = some (.failing j m q id) → s.SeqRuns j m

theorem State.writeRecord_nil {c : Nat} (h : (s.ctx c).pend = []) : s.writeRecord c = s := by
  simp [State.writeRecord, h]
theorem State.writeRecord_full {c : Nat} {r : PendRecord} {rest : List PendRecord} (h : (s.ctx c).pend = r :: rest)
    (hfull : s.ringRoom r.desc.fqbase r.desc.fqlog2 1 = false) : s.writeRecord c = s := by
  simp [State.writeRecord, h, hfull]
theorem State.writeRecord_room {c : Nat} {r : PendRecord} {rest : List PendRecord} (h : (s.ctx c).pend = r :: rest)
    (hroom : s.ringRoom r.desc.fqbase r.desc.fqlog2 1 = true) (hd : r.deliver = none) :
    s.writeRecord c = (s.recordIn c r rest).endFailing r := by
  simp only [State.writeRecord, h, hroom, hd]
  rfl

theorem PendRecord.mem_parked (r : PendRecord) (l : List Outstanding) (o : Outstanding) : o ∈ r.parked l ↔
    o ∈ l ∨ ∃ q, r.out = some q ∧ (∀ j m i id, q ≠ .failing j m i id) ∧ o = ⟨r.seq, q⟩ := by
  unfold PendRecord.parked
  cases hq : r.out with
  | none => simp
  | some q => by_cases hp : q.parks = true <;> simp [hp, ← Requester.parks_iff]

section
variable (s : State) (c : Nat) (r : PendRecord) (rest : List PendRecord)

theorem State.team_recordIn (n k : Nat) : (s.recordIn c r rest).team n k = s.team n k := by
  rw [State.recordIn, State.team_signal, State.team_onCtx]
  exact (State.homeOnly_ringWrite s _ _ _ _).memory.team n k
theorem State.thread_recordIn (u : UnitId) : (s.recordIn c r rest).thread u = s.thread u := by
  rw [State.recordIn, State.thread_signal, State.thread_onCtx]
  exact (State.homeOnly_ringWrite s _ _ _ _).memory.thread u
theorem State.mem_recordIn :
    (s.recordIn c r rest).mem = (s.ringWrite r.desc.fqbase r.desc.fqlog2 32 [bytesOfDwords r.words]).mem := by
  rw [State.recordIn, State.signal, State.onGrove_mem, State.onCtx_mem]
theorem State.ctx_recordIn : (s.recordIn c r rest).ctx c =
    { s.ctx c with pend := rest, outstanding := r.parked (s.ctx c).outstanding } := by
  rw [State.recordIn, State.ctx_signal, State.ctx_onCtx_same, (State.homeOnly_ringWrite s _ _ _ _).ctx c]
theorem State.gint_recordIn : ((s.recordIn c r rest).grove r.desc.grove).gint = (s.grove r.desc.grove).gint ||| 1 := by
  rw [State.recordIn, State.gint_signal, State.grove_onCtx, (State.homeOnly_ringWrite s _ _ _ _).grove]
  rfl

end


variable {c : Nat} {r : PendRecord} {rest : List PendRecord}

theorem State.seqRuns_recordIn {j m : Nat} (h : s.SeqRuns j m) : (s.recordIn c r rest).SeqRuns j m := by
  simpa [State.SeqRuns, State.team_recordIn, State.thread_recordIn] using h

/-- A completion by which no trap is taken changes cores alone. -/
theorem State.endFailing_cores (h : s.EndsQuietly r) : s.endFailing r = { s with cores := (s.endFailing r).cores } := by
  unfold State.endFailing
  split
  · exact State.cmdEnded_cores (h _ _ _ _ ‹_›)
  · rfl
theorem State.ctx_endFailing (h : s.EndsQuietly r) (n : Nat) : (s.endFailing r).ctx n = s.ctx n := by
  rw [State.endFailing_cores h]; rfl
theorem State.grove_endFailing (h : s.EndsQuietly r) (g : Nat) : (s.endFailing r).grove g = s.grove g := by
  rw [State.endFailing_cores h]; rfl
theorem State.mem_endFailing (h : s.EndsQuietly r) : (s.endFailing r).mem = s.mem := by
  rw [State.endFailing_cores h]
theorem State.endsQuietly_recordIn (h : s.EndsQuietly r) : (s.recordIn c r rest).EndsQuietly r :=
  fun j m q id hout => State.seqRuns_recordIn (h j m q id hout)

theorem State.endFailing_of_out {j m q id : Nat} (h : r.out = some (.failing j m q id)) :
    s.endFailing r = s.cmdEnded j m q id r.words := by
  simp [State.endFailing, h]

theorem State.ringRoom_one (s : State) (base lg : Nat) :
    s.ringRoom base lg 1 = true ↔ ¬ 2 ^ lg < (s.home64 (base - 4096) - s.home64 (base - 4088)).toNat + 1 := by
  simp [State.ringRoom, State.ringUsed]

section
variable (hp : (s.ctx c).pend = r :: rest) (hroom : s.ringRoom r.desc.fqbase r.desc.fqlog2 1 = true) (hd : r.deliver = none)
  (hq : s.EndsQuietly r)
include hp hroom hd

/-- FAULT_RECORD_WRITE of a record with which a command fails: the command completes, with the record as its team's error record. -/
theorem State.writeRecord_completes {j m q id : Nat} {cmd : Cmd} (hout : r.out = some (.failing j m q id)) (hrun : s.SeqRuns j m)
    (hcmd : ((s.team j m).engq q).cmds.find? (fun x => x.id == id) = some cmd) :
    ((s.writeRecord c).team j m).errRec = some r.words ∧ ((s.writeRecord c).team j m).eng.get q .none =
      { cmds := ((s.team j m).engq q).cmds.filter fun x => x.id != id, halted := true } := by
  rw [State.writeRecord_room hp hroom hd, State.endFailing_of_out hout]
  rw [← State.team_recordIn s c r rest] at hcmd ⊢
  exact State.cmdEnded_team (State.seqRuns_recordIn hrun) hcmd

include hq

/-- FAULT_RECORD_WRITE takes the record from those that wait and parks its requester on it. -/
theorem State.ctx_writeRecord :
    (s.writeRecord c).ctx c = { s.ctx c with pend := rest, outstanding := r.parked (s.ctx c).outstanding } := by
  rw [State.writeRecord_room hp hroom hd, State.ctx_endFailing (State.endsQuietly_recordIn hq), State.ctx_recordIn]
/-- FAULT_RECORD_WRITE signals vector 0 of the grove. -/
theorem State.gint_writeRecord :
    ((s.writeRecord c).grove r.desc.grove).gint = (s.grove r.desc.grove).gint ||| 1 := by
  rw [State.writeRecord_room hp hroom hd, State.grove_endFailing (State.endsQuietly_recordIn hq), State.gint_recordIn]
/-- FAULT_RECORD_WRITE puts the record into the ring, and writes nothing else. -/
theorem State.mem_writeRecord :
    (s.writeRecord c).mem = (s.ringWrite r.desc.fqbase r.desc.fqlog2 32 [bytesOfDwords r.words]).mem := by
  rw [State.writeRecord_room hp hroom hd, State.mem_endFailing (State.endsQuietly_recordIn hq), State.mem_recordIn]

end

end Sys2Proof.Machine

namespace Sys2Proof.Machine

variable {s t : State}

/-! Taking a trap, as the group of the path that takes it sees it (spec/15 R329). -/

theorem findCell_map_keys {α β : Type} (f : Nat × α → Nat × β) (hf : ∀ c, (f c).1 = c.1) (k : Nat) (l : List (Nat × α)) :
    findCell k (l.map f) = (findCell k l).map fun a => (f (k, a)).2 := by
  induction l with
  | nil => rfl
  | cons c r ih =>
    by_cases h : c.1 = k
    · subst h
      simp [findCell, hf]
    · simp [findCell, hf, h, ih]

/-- A cell that a map of the cells leaves alone reads as before. -/
theorem Tab.get_map_keys {α : Type} (t : Tab α) (f : Nat × α → Nat × α) (hf : ∀ c, (f c).1 = c.1) {k : Nat} {d : α}
    (h : f (k, t.get k d) = (k, t.get k d)) : ({ cells := t.cells.map f } : Tab α).get k d = t.get k d := by
  simp only [Tab.get, Tab.find] at h ⊢
  rw [findCell_map_keys f hf]
  cases hc : findCell k t.cells with
  | none => rfl
  | some a =>
    rw [hc] at h
    exact congrArg Prod.snd h

/-- A family member's dropping out changes waits in convergent instructions alone (spec/09 R221). -/
theorem Group.path_dropOut (g : Group) (j : Nat) (a : Option Dword) {i : Nat} (h : (g.path i).th.gathers = false) :
    (g.dropOut j a).path i = g.path i := by
  refine Tab.get_map_keys g.paths _ (fun c => by dsimp only; split <;> rfl) ?_
  have hg : (g.paths.get i .none).th.gathers = false := h
  simp [hg]
theorem Group.path_forgetOut (g : Group) (j : Nat) {i : Nat} (h : (g.path i).th.gathers = false) :
    (g.forgetOut j).path i = g.path i := by
  refine Tab.get_map_keys g.paths _ (fun c => by dsimp only; split <;> rfl) ?_
  have hg : (g.paths.get i .none).th.gathers = false := h
  simp [hg]

theorem Thread.gathers_of_state {h : Thread} (hs : h.state ≠ .waiting) : h.gathers = false := by
  simp [Thread.gathers, hs]

/-! A new path takes the lowest free entry, and the other paths stand as they did. -/

theorem Tab.has_of_free {α : Type} {t : Tab α} {n j : Nat} (h : t.free n = some j) : t.has j = false := by
  simpa using List.find?_some h
theorem Tab.free_put {α : Type} (t : Tab α) (n : Nat) {k : Nat} (a : α) (h : t.has k = true) : (t.put k a).free n = t.free n := by
  have hh : ∀ j, (t.put k a).has j = t.has j := fun j => by
    rw [Tab.has_put]
    by_cases hj : j = k <;> simp [hj, h]
  simp [Tab.free, hh]

theorem Group.newPath_path_same {g : Group} {j : Nat} (p : Path) (hj : g.paths.free Config.pathSlots = some j) :
    (g.newPath p).path j = p := by
  simp [Group.newPath, hj, Group.path]
theorem Group.newPath_path_other {g : Group} {i j : Nat} (p : Path) (hj : g.paths.free Config.pathSlots = some j) (hi : i ≠ j)
    (h : (g.path i).th.gathers = false) : (g.newPath p).path i = g.path i := by
  rw [← Group.path_forgetOut g j h]
  simp [Group.newPath, hj, Group.path, Tab.get_put, hi]

/-- An entry whose thread is parked is in use. -/
theorem Group.has_of_parked {g : Group} {i : Nat} (h : (g.path i).th.state = .parked) : g.paths.has i = true := by
  cases hf : g.paths.find i with
  | none => simp [Group.path, Tab.get, hf, Path.none, Thread.startAt] at h
  | some p => simp [Tab.has, hf]

theorem Group.parked_ne_free {g : Group} {n i j : Nat} (h : (g.path i).th.state = .parked) (hj : g.paths.free n = some j) :
    i ≠ j := by
  rintro rfl
  have hi := Group.has_of_parked h
  rw [Tab.has_of_free hj] at hi
  cases hi

/-! Taking a trap. -/

/-- The unit has entered the handler of its context. -/
def State.entered (s : State) (d : Delivery) : State :=
  (s.onThread d.dest fun t => t.enter d (s.ctx (s.ctxOf d.dest)).trapv (s.maskOf d.dest)).leave d.dest

/-- A unit that handles no trap and whose context has a handler enters it; for a NOTPRESENT it has left its family's waits. -/
theorem State.takeTrap_enters {d : Delivery} (hf : (s.thread d.dest).frame.active = false)
    (hv : (s.ctx (s.ctxOf d.dest)).trapv ≠ 0) (hc : d.cause = 0) : s.takeTrap d = (s.entered d).dropOut d.dest none := by
  simp only [State.takeTrap, hf, hv, hc]
  rfl

theorem State.own_entered (s : State) (d : Delivery) : s.Own (s.entered d) d.dest :=
  (State.own_onThread s _ _).trans (State.own_leave _ _ _)
theorem State.thread_entered (s : State) (d : Delivery) :
    (s.entered d).thread d.dest = (s.thread d.dest).enter d (s.ctx (s.ctxOf d.dest)).trapv (s.maskOf d.dest) := by
  simp [State.entered]
theorem State.mask_entered (s : State) (d : Delivery) : (s.entered d).maskOf d.dest = s.maskOf d.dest := by
  simp [State.entered]

theorem State.dropOut_other {u : UnitId} (hu : u.isPath = false) (a : Option Dword) : s.dropOut u a = s := by
  cases u with
  | path c g i => cases hu
  | seq c k => rfl
  | lant l p => rfl

/-- What a trap that a unit takes leaves of it. -/
theorem State.trapSees_entered (s : State) (d : Delivery) (hall : d.all = false) :
    s.TrapSees (s.entered d) d.dest d.cause d.detail d.addr d.lanes d.rpc d.fpc := by
  have h := State.thread_entered s d
  refine ⟨?_, ?_, ?_, ?_, ?_, State.mask_entered s d, ?_⟩ <;> rw [h]
  · rfl
  · rfl
  · rfl
  · rfl
  · rfl
  · rw [← hall]; rfl

/-- Path `j` of a group has taken a trap. -/
theorem State.path_takeTrap_same {d : Delivery} {n g j : Nat} (hd : d.dest = .path n g j)
    (hf : (s.thread d.dest).frame.active = false) (hv : (s.ctx (s.ctxOf d.dest)).trapv ≠ 0) (hc : d.cause = 0) :
    ((s.takeTrap d).group n g).path j = { (s.group n g).path j with
      th := ((s.group n g).path j).th.enter d (s.ctx (s.ctxOf (.path n g j))).trapv ((s.group n g).path j).mask } := by
  have he : ((s.entered d).group n g).path j = { (s.group n g).path j with
      th := ((s.group n g).path j).th.enter d (s.ctx (s.ctxOf (.path n g j))).trapv ((s.group n g).path j).mask } := by
    rw [State.entered, State.group_leave, hd]
    simp [State.onThread, State.maskOf, State.pathOf]
  have ht : s.takeTrap d = (s.entered d).dropOut (.path n g j) none := by rw [State.takeTrap_enters hf hv hc, hd]
  rw [ht]
  simp only [State.dropOut, State.group_onGroup_same]
  rw [Group.path_dropOut, he]
  rw [he]
  exact Thread.gathers_of_state (by simp [Thread.enter, Thread.restart])
/-- The other paths of the group stand as they did, but for waits in convergent instructions. -/
theorem State.path_takeTrap_other {d : Delivery} {n g i j : Nat} (hd : d.dest = .path n g j) (hi : i ≠ j)
    (hf : (s.thread d.dest).frame.active = false) (hv : (s.ctx (s.ctxOf d.dest)).trapv ≠ 0) (hc : d.cause = 0)
    (hg : ((s.group n g).path i).th.gathers = false) : ((s.takeTrap d).group n g).path i = (s.group n g).path i := by
  have he : ((s.entered d).group n g).path i = (s.group n g).path i :=
    (State.own_entered s d).apart.paths n g j hd i hi
  have ht : s.takeTrap d = (s.entered d).dropOut (.path n g j) none := by rw [State.takeTrap_enters hf hv hc, hd]
  rw [ht]
  simp only [State.dropOut, State.group_onGroup_same]
  rw [Group.path_dropOut, he]
  rw [he]
  exact hg

/-! Answers to NOTPRESENT records (spec/01 R36, R37, R40). -/

/-- A unit that RETRY lets go on: from its PC in a new run, or back to the spill engine. -/
def Thread.retried (t : Thread) : Thread :=
  if t.wait.isSome then { t with state := .spill, park := none } else { t.restart t.pc with park := none }
theorem State.retryPark_eq (s : State) (u : UnitId) : s.retryPark u = s.onThread u Thread.retried := rfl

/-- The record `n` of context `c` is no longer outstanding. -/
def State.answered (s : State) (c n : Nat) : State :=
  s.onCtx c fun k => { k with outstanding := k.outstanding.filter fun o => o.seq != n }

theorem State.fresume_down {g c n : Nat} {a : Bool} (h : s.up = false) : s.fresume g c n a = s := by
  simp [State.fresume, h]
theorem State.fresume_error {g c n : Nat} {a : Bool} (hup : s.up = true)
    (h : (s.ctx c).outstanding.find? (fun o => o.seq == n) = none ∨ (s.ctx c).desc.grove ≠ g) :
    s.fresume g c n a = s.windowErr g := by
  simp only [State.fresume, hup]
  cases hf : (s.ctx c).outstanding.find? (fun o => o.seq == n) with
  | none => rfl
  | some o => simp [h.resolve_left (by simp [hf])]
theorem State.fresume_answers {g c n : Nat} {a : Bool} {o : Outstanding} (hup : s.up = true) (hg : (s.ctx c).desc.grove = g)
    (ho : (s.ctx c).outstanding.find? (fun o => o.seq == n) = some o) :
    s.fresume g c n a = (s.answered c n).answer c n o.req a := by
  simp [State.fresume, hup, ho, hg, State.answered]

theorem State.answerUnit_parked {u : UnitId} {n : Nat} {a : Bool} {p : Park} (hp : (s.thread u).park = some p)
    (hs : (s.thread u).state = .parked) (hn : p.seqs.contains n = true) :
    s.answerUnit u n a = if a then s.abortPark u p else s.retryPark u := by
  simp only [State.answerUnit, hp, hs, hn]
  simp

/-- What ABORT delivers to unit `h` for a park of `u`. -/
def State.abortTrap (s : State) (u h : UnitId) (p : Park) (all : Bool) : Delivery :=
  { dest := h, lanes := p.mask, cause := 0, detail := 0, addr := p.addr, all := all, rpc := (s.thread u).runpc, fpc := p.pc }

theorem State.abortPark_other {u : UnitId} (hu : u.isPath = false) (p : Park) :
    s.abortPark u p = s.takeTrap (s.abortTrap u u p false) := by
  cases u with
  | path c g i => cases hu
  | seq c k => rfl
  | lant l q => rfl
theorem State.abortPark_whole {n g i : Nat} (p : Park) (h : s.canSplit (.path n g i) p.mask = false) :
    s.abortPark (.path n g i) p =
      s.takeTrap (s.abortTrap (.path n g i) (.path n g i) p (p.mask != s.maskOf (.path n g i))) := by
  simp only [State.abortPark, h]
  rfl
/-- The lanes that faulted have an entry of their own, and the rest of the path may issue again. -/
def State.splitPark (s : State) (n g i : Nat) (p : Park) : State :=
  (s.onGroup n g fun k => (k.onPath i fun q => q.without p.mask).newPath (((s.group n g).path i).splitOff p.mask)).retryPark (.path n g i)
theorem State.abortPark_split {n g i : Nat} (p : Park) (h : s.canSplit (.path n g i) p.mask = true)
    (ht : s.tears (.path n g i) = false) :
    s.abortPark (.path n g i) p =
      (s.splitPark n g i p).takeTrap (s.abortTrap (.path n g i) (.path n g (s.group n g).nextPath) p false) := by
  simp only [State.abortPark, h, ht]
  rfl

end Sys2Proof.Machine

namespace Sys2Proof.Machine

variable {s t : State}

/-! RETRY and ABORT of a parked unit. -/

theorem State.own_retryPark (s : State) (u : UnitId) : s.Own (s.retryPark u) u := State.own_onThread s u _
theorem State.thread_retryPark (s : State) (u : UnitId) : (s.retryPark u).thread u = (s.thread u).retried := by
  rw [State.retryPark_eq, State.thread_onThread]
theorem Thread.retried_of_no_wait {h : Thread} (hw : h.wait = none) : h.retried = { h.restart h.pc with park := none } := by
  simp [Thread.retried, hw]
theorem Thread.retried_pc (h : Thread) : h.retried.pc = h.pc := by
  unfold Thread.retried
  split <;> rfl
theorem Thread.retried_park (h : Thread) : h.retried.park = none := by
  unfold Thread.retried
  split <;> rfl
theorem Thread.retried_state (h : Thread) : h.retried.state = if h.wait.isSome then .spill else .ready := by
  unfold Thread.retried
  split <;> rfl
theorem Thread.retried_gathers (h : Thread) : h.retried.gathers = false := by
  refine Thread.gathers_of_state ?_
  rw [Thread.retried_state]
  split <;> decide

/-- ABORT of a unit that is no path: it takes the fault. -/
theorem State.abortPark_other_sees {u : UnitId} {p : Park} (hu : u.isPath = false) (hf : (s.thread u).frame.active = false)
    (hv : (s.ctx (s.ctxOf u)).trapv ≠ 0) :
    s.Own (s.abortPark u p) u ∧ s.TrapSees (s.abortPark u p) u 0 0 p.addr p.mask (s.thread u).runpc p.pc := by
  have ht : s.abortPark u p = s.entered (s.abortTrap u u p false) :=
    (State.abortPark_other hu p).trans ((State.takeTrap_enters hf hv rfl).trans (State.dropOut_other hu _))
  rw [ht]
  exact ⟨State.own_entered s _, State.trapSees_entered s _ rfl⟩

/-- Lanes `m` of a path have taken a trap: its frame is `fr`, and it starts a run at the handler `vec` (spec/15 R329). -/
def Path.Trapped (v : Path) (m : Dword) (fr : Frame) (vec : Dword) : Prop :=
  v.mask = m ∧ v.th.frame = fr ∧ v.th.pc = vec ∧ v.th.runpc = vec ∧ v.th.state = .ready ∧ v.th.fmt = 0 ∧
    v.th.run = Run.fresh ∧ v.th.park = .none

theorem Path.trapped_enter (v : Path) (d : Delivery) (vec : Dword) :
    Path.Trapped { v with th := v.th.enter d vec v.mask } v.mask
      { active := true, all := d.all, cause := BitVec.ofNat 8 d.cause, detail := BitVec.ofNat 16 d.detail, fmt := v.th.fmt
        rpc := d.rpc, fpc := d.fpc, addr := d.addr, lanes := d.lanes, held := v.mask } vec :=
  ⟨rfl, rfl, rfl, rfl, rfl, rfl, rfl, rfl⟩

/-- The frame of the lanes of a path that ABORT has take their fault (spec/01 R36, spec/15 R329). -/
def State.abortFrame (s : State) (u : UnitId) (p : Park) (all : Bool) (held : Dword) : Frame :=
  { active := true, all := all, cause := 0, detail := 0, fmt := (s.thread u).fmt, rpc := (s.thread u).runpc, fpc := p.pc
    addr := p.addr, lanes := p.mask, held := held }

theorem State.group_splitPark (s : State) (n g i : Nat) (p : Park) : (s.splitPark n g i p).group n g =
    (((s.group n g).onPath i fun q => q.without p.mask).newPath (((s.group n g).path i).splitOff p.mask)).onPath i
      fun q => { q with th := q.th.retried } := by
  simp [State.splitPark, State.retryPark_eq, State.onThread]

/-- The lanes set apart stand in the free entry, the rest of the path in its own. -/
theorem State.paths_splitPark {n g i j : Nat} {p : Park} (hs : (s.thread (.path n g i)).state = .parked)
    (hj : (s.group n g).paths.free Config.pathSlots = some j) :
    ((s.splitPark n g i p).group n g).path j = ((s.group n g).path i).splitOff p.mask ∧
      ((s.splitPark n g i p).group n g).path i =
        { ((s.group n g).path i).without p.mask with th := (((s.group n g).path i).without p.mask).th.retried } := by
  have hi : (s.group n g).paths.has i = true := Group.has_of_parked hs
  have hij : i ≠ j := Group.parked_ne_free hs hj
  have hfree : ((s.group n g).onPath i fun q => q.without p.mask).paths.free Config.pathSlots = some j := by
    rw [← hj]
    exact Tab.free_put _ _ _ hi
  have hold : ((s.group n g).onPath i fun q => q.without p.mask).path i = ((s.group n g).path i).without p.mask :=
    Group.path_onPath_same _ _ _
  have hg : (((s.group n g).onPath i fun q => q.without p.mask).path i).th.gathers = false := by
    rw [hold]
    refine Thread.gathers_of_state ?_
    have h1 : (((s.group n g).path i).without p.mask).th.state = .parked := hs
    simp [h1]
  rw [State.group_splitPark, Group.path_onPath_same, Group.path_onPath, if_neg hij.symm, Group.newPath_path_same _ hfree,
    Group.newPath_path_other _ hfree hij hg, hold]
  exact ⟨rfl, rfl⟩

/-- The new path is of the team, and so of the context, of the old one. -/
theorem State.ctxOf_splitPark (s : State) (n g i j : Nat) (p : Park) :
    (s.splitPark n g i p).ctxOf (.path n g j) = s.ctxOf (.path n g i) := by
  have hteam (k : Group) (v : Path) : (k.newPath v).team = k.team := by
    unfold Group.newPath
    split <;> rfl
  have hg : ((s.splitPark n g i p).group n g).team = (s.group n g).team := by
    rw [State.group_splitPark]
    exact hteam _ _
  simp only [State.ctxOf, State.teamOf, State.teamSlot, hg, UnitId.place]
  rw [State.splitPark, State.retryPark_eq]
  simp [State.onThread]

section
variable {n g i : Nat} {p : Park} (hf : (s.thread (.path n g i)).frame.active = false)
  (hv : (s.ctx (s.ctxOf (.path n g i))).trapv ≠ 0)
include hf hv

/-- ABORT where every lane is parked, or no entry is free: the whole path takes the fault. -/
theorem State.abortPark_trapped_whole
    (h : (s.group n g).paths.free Config.pathSlots = none ∨ p.mask = s.maskOf (.path n g i)) :
    Path.Trapped (((s.abortPark (.path n g i) p).group n g).path i) (s.maskOf (.path n g i))
      (s.abortFrame (.path n g i) p (decide (p.mask ≠ s.maskOf (.path n g i))) (s.maskOf (.path n g i)))
      (s.ctx (s.ctxOf (.path n g i))).trapv := by
  have hsplit : s.canSplit (.path n g i) p.mask = false := by
    rcases h with h | h <;> simp [State.canSplit, State.groupOf, h]
  have hall : (decide (p.mask ≠ s.maskOf (.path n g i))) = (p.mask != s.maskOf (.path n g i)) := by
    by_cases hm : p.mask = s.maskOf (.path n g i) <;> simp [hm]
  rw [State.abortPark_whole p hsplit, State.path_takeTrap_same (j := i) rfl hf hv rfl, hall]
  exact Path.trapped_enter _ _ _

/-- ABORT where an entry is free for the lanes that faulted: they take the fault, and the rest of the path may issue again. -/
theorem State.abortPark_trapped_split {j : Nat} (hs : (s.thread (.path n g i)).state = .parked)
    (hj : (s.group n g).paths.free Config.pathSlots = some j) (hm : p.mask ≠ s.maskOf (.path n g i)) :
    Path.Trapped (((s.abortPark (.path n g i) p).group n g).path j) p.mask (s.abortFrame (.path n g i) p false p.mask)
        (s.ctx (s.ctxOf (.path n g i))).trapv ∧
      ((s.abortPark (.path n g i) p).group n g).path i =
        { ((s.group n g).path i).without p.mask with th := (((s.group n g).path i).without p.mask).th.retried } := by
  have hsplit : s.canSplit (.path n g i) p.mask = true := by
    simp [State.canSplit, State.groupOf, hj, hm]
  have htears : s.tears (.path n g i) = false := by
    simpa [State.tears, hf] using hv
  have hnext : (s.group n g).nextPath = j := by
    simp [Group.nextPath, hj]
  have hctx : ((s.splitPark n g i p).ctx ((s.splitPark n g i p).ctxOf (.path n g j))) = s.ctx (s.ctxOf (.path n g i)) := by
    rw [State.ctxOf_splitPark]
    rfl
  obtain ⟨hnew, hold⟩ := State.paths_splitPark (p := p) hs hj
  have hfr : ((s.splitPark n g i p).thread (.path n g j)).frame.active = false := by
    rw [State.thread, hnew]
    rfl
  have hij : i ≠ j := Group.parked_ne_free hs hj
  rw [State.abortPark_split p hsplit htears, hnext]
  rw [← hctx] at hv
  constructor
  · rw [State.path_takeTrap_same (j := j) rfl hfr hv rfl, hctx, hnew]
    exact Path.trapped_enter _ _ _
  · rw [State.path_takeTrap_other (j := j) rfl hij hfr hv rfl, hold]
    rw [hold]
    exact Thread.retried_gathers _

end

end Sys2Proof.Machine

namespace Sys2Proof.Machine

variable {s t : State}

/-! RETRY and ABORT of a command that a NOTPRESENT holds (spec/01 R37, spec/15 R336). -/

theorem State.onTeam_congr {c k : Nat} {f g : Team → Team} (h : f (s.team c k) = g (s.team c k)) : s.onTeam c k f = s.onTeam c k g := by
  have hc : f ((s.core c).teams.get k .none) = g ((s.core c).teams.get k .none) := h
  simp [State.onTeam, State.onCore, hc]

section
variable {c k q : Nat} {x : Cmd} {rest : List Cmd} (hx : ((s.team c k).engq q).cmds = x :: rest)
include hx

theorem State.onHead_cons (f : Cmd → Cmd) : s.onHead c k q f =
    s.onTeam c k fun tm => { tm with eng := tm.eng.put q { (s.team c k).engq q with cmds := f x :: rest } } := by
  refine State.onTeam_congr ?_
  simp [Team.onEngq, hx]
theorem State.team_onHead (f : Cmd → Cmd) : (s.onHead c k q f).team c k =
    { s.team c k with eng := (s.team c k).eng.put q { (s.team c k).engq q with cmds := f x :: rest } } := by
  rw [State.onHead_cons hx, State.team_onTeam_same]

variable {n : Nat} {a : Dword} (hp : x.park = some (n, a))
include hp

theorem State.answerEngine_retry : s.answerEngine c k q n false = s.onHead c k q fun y => { y with park := none } := by
  simp [State.answerEngine, hx, hp]
theorem State.answerEngine_abort : s.answerEngine c k q n true = s.illFormed c k q x 0x09 a := by
  simp [State.answerEngine, hx, hp]

end

/-! A record enters its context's series, and is written at once where its ring has room (spec/01 R38, R39). -/

/-- The record that `pushRecord` makes of the words `w`. -/
def State.newRecord (s : State) (nd c : Nat) (w : List Dword) (out : Option Requester) : PendRecord :=
  { words := w ++ [BitVec.ofNat 64 ((s.ctx c).seq % 2 ^ 32 + s.tick.time.toNat % 2 ^ 32 * 2 ^ 32)], desc := s.tick.descOf nd c
    seq := (s.ctx c).seq, out := out, deliver := none }
theorem State.pushRecord_eq (s : State) (nd c : Nat) (w : List Dword) (out : Option Requester) : s.pushRecord nd c w out none =
    s.tick.onCtx c fun k => { k with seq := ((s.ctx c).seq + 1) % 2 ^ 32, pend := k.pend ++ [s.newRecord nd c w out] } := rfl
theorem State.pend_pushRecord (s : State) (nd c : Nat) (w : List Dword) (out : Option Requester) :
    ((s.pushRecord nd c w out none).ctx c).pend = (s.ctx c).pend ++ [s.newRecord nd c w out] := by
  rw [State.pushRecord_eq, State.ctx_onCtx_same]
  rfl
theorem State.team_pushRecord (s : State) (nd c : Nat) (w : List Dword) (out : Option Requester) (n k : Nat) :
    (s.pushRecord nd c w out none).team n k = s.team n k := by
  rw [State.pushRecord_eq, State.team_onCtx]
  rfl

/-- One record in a series that was empty: it is written if its ring has room, and waits if not. -/
theorem State.report_one {nd c : Nat} {w : List Dword} {out : Option Requester} (hp : (s.ctx c).pend = [])
    (hq : (s.pushRecord nd c w out none).EndsQuietly (s.newRecord nd c w out)) :
    s.report nd c [w] out none = (s.pushRecord nd c w out none).writeRecord c := by
  have hpend : ((s.pushRecord nd c w out none).ctx c).pend = [s.newRecord nd c w out] := by
    rw [State.pend_pushRecord, hp, List.nil_append]
  have hrep : s.report nd c [w] out none = State.flushRecords 2 (s.pushRecord nd c w out none) c := by
    simp only [State.report, List.reverse_cons, List.reverse_nil, List.nil_append, List.foldl_nil, hpend]
    rfl
  rw [hrep]
  generalize s.pushRecord nd c w out none = r at hq hpend
  cases hroom : r.ringRoom (s.newRecord nd c w out).desc.fqbase (s.newRecord nd c w out).desc.fqlog2 1 with
  | false =>
    have hsame := State.writeRecord_full hpend hroom
    simp [State.flushRecords, hpend, hsame]
  | true =>
    have hdone : ((r.writeRecord c).ctx c).pend = [] := by rw [State.ctx_writeRecord hpend hroom rfl hq]
    simp [State.flushRecords, hpend, hdone]

theorem State.SeqRuns.congr {c k : Nat} (h : s.SeqRuns c k) (hexit : (t.team c k).seqExited = (s.team c k).seqExited)
    (hseq : (t.team c k).seq = (s.team c k).seq) : t.SeqRuns c k := by
  obtain ⟨h1, h2⟩ := h
  refine ⟨hexit.trans h1, ?_⟩
  rw [State.thread, hseq]
  exact h2

/-- The only record that waits is that of a failed command at the head of its queue: it goes on waiting, or the command completes. -/
theorem State.writeRecord_failing {c j m q : Nat} {r : PendRecord} {x : Cmd} {rest : List Cmd} (hp : (s.ctx c).pend = [r])
    (hd : r.deliver = none) (hout : r.out = some (.failing j m q x.id)) (hrun : s.SeqRuns j m)
    (hx : ((s.team j m).engq q).cmds = x :: rest) :
    (((s.writeRecord c).ctx c).pend = [r] ∧ ((s.writeRecord c).team j m).engq q = (s.team j m).engq q) ∨
      (((s.writeRecord c).ctx c).pend = [] ∧ ((s.writeRecord c).team j m).errRec = some r.words ∧
        ((s.writeRecord c).team j m).engq q = { cmds := rest.filter fun y => y.id != x.id, halted := true }) := by
  cases hroom : s.ringRoom r.desc.fqbase r.desc.fqlog2 1 with
  | false =>
    left
    rw [State.writeRecord_full hp hroom]
    exact ⟨hp, rfl⟩
  | true =>
    right
    have hquiet : s.EndsQuietly r := by
      rintro j' m' e id h
      obtain ⟨rfl, rfl, rfl, rfl⟩ : j' = j ∧ m' = m ∧ e = q ∧ id = x.id := by simpa [hout, eq_comm] using h
      exact hrun
    have hcmd : ((s.team j m).engq q).cmds.find? (fun y => y.id == x.id) = some x := by simp [hx]
    obtain ⟨herr, heng⟩ := State.writeRecord_completes hp hroom hd hout hrun hcmd
    refine ⟨by rw [State.ctx_writeRecord hp hroom hd hquiet], herr, heng.trans ?_⟩
    simp [hx]

/-- A command that has failed and waits for its record (spec/15 R335). -/
def Cmd.fail (x : Cmd) : Cmd := { x with failed := true, park := none }

/-- A command ends as ill-formed: it waits for its record to be written, or has completed with it (spec/04 R99, spec/15 R335). -/
theorem State.cmdFails_ends {c k q : Nat} {x : Cmd} {rest : List Cmd} {w : List Dword}
    (hx : ((s.team c k).engq q).cmds = x :: rest) (hp : (s.ctx (s.team c k).ctx).pend = []) (hrun : s.SeqRuns c k) :
    ∃ v, let t := s.cmdFails c k q x w
      ((t.ctx (s.team c k).ctx).pend.map (fun y => (y.words, y.out)) = [(w ++ [v], some (.failing c k q x.id))] ∧
          (t.team c k).engq q = { (s.team c k).engq q with cmds := x.fail :: rest }) ∨
        ((t.ctx (s.team c k).ctx).pend = [] ∧ (t.team c k).errRec = some (w ++ [v]) ∧
          (t.team c k).engq q = { cmds := (x :: rest).filter fun y => y.id != x.id, halted := true }) := by
  let h := s.onHead c k q Cmd.fail
  let p := h.pushRecord c (s.team c k).ctx w (some (.failing c k q x.id)) none
  let r := h.newRecord c (s.team c k).ctx w (some (.failing c k q x.id))
  have hteam : p.team c k = { s.team c k with
      eng := (s.team c k).eng.put q { (s.team c k).engq q with cmds := x.fail :: rest } } :=
    (State.team_pushRecord h _ _ _ _ c k).trans (State.team_onHead hx _)
  have hqueue : (p.team c k).engq q = { (s.team c k).engq q with cmds := x.fail :: rest } := by
    rw [hteam]
    simp [Team.engq]
  have hrunp : p.SeqRuns c k := hrun.congr (by rw [hteam]) (by rw [hteam])
  have hpend : (p.ctx (s.team c k).ctx).pend = [r] := by
    have h0 : (h.ctx (s.team c k).ctx).pend = [] := hp
    rw [State.pend_pushRecord, h0, List.nil_append]
  have hquiet : p.EndsQuietly r := by
    rintro j m e id ⟨⟩
    exact hrunp
  have ht : s.cmdFails c k q x w = p.writeRecord (s.team c k).ctx := State.report_one (s := h) hp hquiet
  refine ⟨BitVec.ofNat 64 ((h.ctx (s.team c k).ctx).seq % 2 ^ 32 + h.tick.time.toNat % 2 ^ 32 * 2 ^ 32), ?_⟩
  rw [ht]
  rcases State.writeRecord_failing (x := x.fail) hpend rfl rfl hrunp (by rw [hqueue]) with ⟨h1, h2⟩ | ⟨h1, h2, h3⟩
  · left
    refine ⟨?_, h2.trans hqueue⟩
    rw [h1]
    rfl
  · exact .inr ⟨h1, h2, h3.trans (by simp [Cmd.fail])⟩

/-- The words before SEQ and time of the record of a command that ends ill-formed (spec/15 R335). -/
def State.illRecord (s : State) (c k q : Nat) (x : Cmd) (ecode : Nat) (addr : Dword) : List Dword :=
  [addr &&& 0xFFFFFFFFFFFFFF, BitVec.ofNat 64 ((wordsOf x.instr).1 + (wordsOf x.instr).2 * 2 ^ 32),
    BitVec.ofNat 64 (s.place (.seq c k) + ecode * 2 ^ 40 + q * 2 ^ 48 + 2 ^ 63)]
theorem State.illFormed_eq (s : State) (c k q : Nat) (x : Cmd) (ecode : Nat) (addr : Dword) :
    s.illFormed c k q x ecode addr = s.cmdFails c k q x (s.illRecord c k q x ecode addr) := rfl

end Sys2Proof.Machine

namespace Sys2Proof.Machine

variable {s t : State}

/-! Invalidations (spec/01 R41 to R43). First what bringing a node's writes home leaves alone. -/

theorem State.caches_mgmt (s : State) {n : Nat} (h : ¬ n < 576) : s.caches n = .none := by
  have : ¬ n < 512 := by omega
  simp [State.caches, h, this]
theorem State.onCaches_mgmt (s : State) {n : Nat} (h : ¬ n < 576) (f : Caches → Caches) : s.onCaches n f = s := by
  have : ¬ n < 512 := by omega
  simp [State.onCaches, h, this]
theorem State.caches_onCaches_other (s : State) {m n : Nat} (h : m ≠ n) (f : Caches → Caches) :
    (s.onCaches n f).caches m = s.caches m := by
  by_cases hc : n < 512
  · simp [State.onCaches, State.caches, hc, State.core_onCore, h]
  · by_cases hl : n < 576
    · by_cases hm : m < 512
      · simp [State.onCaches, State.caches, hc, hl, hm]
      · have : m - 512 ≠ n - 512 := by omega
        simp [State.onCaches, State.caches, hc, hl, hm, State.lantern_onLantern, this]
    · rw [State.onCaches_mgmt s hl]

/-- Memory has changed, and of the caches those of node `n` alone, whose TLB and descriptors stand; no walk cache has changed. -/
structure State.NodeWrites (s t : State) (n : Nat) : Prop where
  memory : s.MemoryOnly t
  walks : t.walks = s.walks
  others : ∀ m, m ≠ n → t.caches m = s.caches m
  tlb : (t.caches n).tlb = (s.caches n).tlb
  descs : (t.caches n).descs = (s.caches n).descs

theorem State.NodeWrites.refl (s : State) (n : Nat) : s.NodeWrites s n := ⟨.refl s, rfl, fun _ _ => rfl, rfl, rfl⟩
theorem State.NodeWrites.trans {r : State} {n : Nat} (h : s.NodeWrites t n) (k : t.NodeWrites r n) : s.NodeWrites r n :=
  ⟨h.memory.trans k.memory, k.walks.trans h.walks, fun m hm => (k.others m hm).trans (h.others m hm), k.tlb.trans h.tlb,
    k.descs.trans h.descs⟩
theorem State.HomeOnly.nodeWrites (h : s.HomeOnly t) (n : Nat) : s.NodeWrites t n :=
  ⟨h.memory, by rw [h], fun m _ => h.caches m, by rw [h.caches], by rw [h.caches]⟩
theorem nodeWrites_foldl {β : Type} {n : Nat} (f : State → β → State) (l : List β) (s : State)
    (hf : ∀ (s : State) b, s.NodeWrites (f s b) n) : s.NodeWrites (l.foldl f s) n := by
  induction l generalizing s with
  | nil => exact .refl s n
  | cons b r ih => exact (hf s b).trans (ih (f s b))
theorem State.walks_onCaches (s : State) (n : Nat) (f : Caches → Caches) : (s.onCaches n f).walks = s.walks := by
  unfold State.onCaches
  repeat' split
  all_goals rfl
theorem State.nodeWrites_onCaches (s : State) (n : Nat) (f : Caches → Caches) (ht : (f (s.caches n)).tlb = (s.caches n).tlb)
    (hd : (f (s.caches n)).descs = (s.caches n).descs) : s.NodeWrites (s.onCaches n f) n := by
  by_cases hn : n < 576
  · exact ⟨State.memoryOnly_onCaches s n f, State.walks_onCaches s n f, fun m hm => State.caches_onCaches_other s hm f,
      by rw [caches_onCaches s n hn, ht], by rw [caches_onCaches s n hn, hd]⟩
  · rw [State.onCaches_mgmt s hn]
    exact .refl s n
theorem State.caches_spPut (s : State) (n a m : Nat) (bs : List Byte) : (s.onCore n fun q => q.spPut a bs).caches m = s.caches m := by
  have h : ∀ c, ((s.onCore n fun q => q.spPut a bs).core c).mc = (s.core c).mc := fun c => by
    rw [State.core_onCore]
    split
    · rename_i hc
      rw [hc]
      rfl
    · rfl
  simp only [State.caches, h]
  rfl
theorem State.nodeWrites_spPut (s : State) (n a : Nat) (bs : List Byte) : s.NodeWrites (s.onCore n fun q => q.spPut a bs) n :=
  ⟨State.memoryOnly_onCore s n _ rfl, rfl, fun m _ => State.caches_spPut s n a m bs, by rw [State.caches_spPut],
    by rw [State.caches_spPut]⟩
theorem State.nodeWrites_touch (s : State) (w : Who) (sp : Bool) (place k : Nat) : s.NodeWrites (s.touch w sp place k) w.node := by
  unfold State.touch
  dsimp only
  split
  · exact .refl s _
  · exact State.nodeWrites_onCaches s _ _ rfl rfl
theorem State.nodeWrites_pend (s : State) (n : Nat) (e : PendWrite) : s.NodeWrites (s.pend n e) n := by
  have h (ps : List (Nat × Nat)) (m : Caches) : ∀ r, r = ps.foldl (fun (m : Caches) (p : Nat × Nat) =>
      let b := (e.bytes.drop (p.1 - e.pa)).take p.2
      { m.patch p.1 b with wbuf := m.wbuf ++ [{ e with pa := p.1, bytes := b }] }) m → r.tlb = m.tlb ∧ r.descs = m.descs := by
    rintro r rfl
    exact foldl_keeps (fun r : Caches => r.tlb = m.tlb ∧ r.descs = m.descs) _ ps m ⟨rfl, rfl⟩ fun _ _ h => h
  exact State.nodeWrites_onCaches s n _ (h _ _ _ rfl).1 (h _ _ _ rfl).2
theorem State.nodeWrites_appear (s : State) (n k : Nat) : s.NodeWrites (s.appear n k) n := by
  unfold State.appear
  split
  · exact .refl s n
  · split
    · exact .refl s n
    · rename_i e _ _
      have h : s.NodeWrites ((s.onCaches n fun m => { m with late := m.late.eraseIdx k }).touch
          { node := n, grp := e.grp, lanes := e.own } e.sp.isSome e.w.pa e.w.bytes.length) n :=
        (State.nodeWrites_onCaches s n _ rfl rfl).trans (State.nodeWrites_touch _ { node := n, grp := e.grp, lanes := e.own } _ _ _)
      dsimp only
      split
      · exact h.trans (State.nodeWrites_spPut _ n _ _)
      · exact h.trans (State.nodeWrites_pend _ n _)
theorem State.nodeWrites_appearIf (s : State) (n : Nat) (p : LateStore → Bool) : s.NodeWrites (s.appearIf n p) n := by
  unfold State.appearIf
  refine nodeWrites_foldl _ _ s fun s e => ?_
  split
  · exact State.nodeWrites_appear s n _
  · exact .refl s n
theorem State.homeOnly_performWrites (s : State) (die : Nat) (l : List PendWrite) :
    s.HomeOnly (l.foldl (fun s w => s.performWrite die w) s) :=
  homeOnly_foldl _ l s fun s w => State.homeOnly_performWrite s die w
theorem State.nodeWrites_drainAll (s : State) (n : Nat) : s.NodeWrites (s.drainAll n) n :=
  ((State.nodeWrites_appearIf s n _).trans (State.nodeWrites_onCaches _ n _ rfl rfl)).trans
    ((State.homeOnly_performWrites _ _ _).nodeWrites n)
/-- No write of the node pends any more. -/
theorem State.wbuf_drainAll (s : State) (n : Nat) : ((s.drainAll n).caches n).wbuf = [] := by
  unfold State.drainAll
  dsimp only
  rw [(State.homeOnly_performWrites _ _ _).caches]
  by_cases hn : n < 576
  · rw [caches_onCaches _ n hn]
  · rw [State.caches_mgmt _ hn]
    rfl

/-! One node after a command, then all of them. -/

/-- What a command covers depends on the contexts alone. -/
theorem State.tiCovers_congr (h : t.ctxs = s.ctxs) (x : TiCmd) : t.tiCovers x = s.tiCovers x := by
  funext c
  simp only [State.tiCovers, State.ctx, h]
theorem State.tiHits_congr (h : t.ctxs = s.ctxs) (x : TiCmd) : t.tiHits x = s.tiHits x := by
  funext e
  simp only [State.tiHits, State.tiCovers_congr h]

theorem State.MemoryOnly.ctxs (h : s.MemoryOnly t) : t.ctxs = s.ctxs := by rw [h.rest]
theorem State.MemoryOnly.layouts (h : s.MemoryOnly t) (c : Nat) : (t.core c).layouts = (s.core c).layouts := by rw [h.cores c]

theorem State.memoryOnly_tiNode (s : State) (x : TiCmd) (n : Nat) : s.MemoryOnly (s.tiNode x n) :=
  (State.memoryOnly_drainAll s n).trans (State.memoryOnly_onCaches _ n _)
theorem State.walks_tiNode (s : State) (x : TiCmd) (n : Nat) : (s.tiNode x n).walks = s.walks :=
  (State.walks_onCaches _ n _).trans (State.nodeWrites_drainAll s n).walks
theorem State.caches_tiNode_other (s : State) (x : TiCmd) {m n : Nat} (h : m ≠ n) : (s.tiNode x n).caches m = s.caches m :=
  (State.caches_onCaches_other _ h _).trans ((State.nodeWrites_drainAll s n).others m h)
theorem State.tlb_tiNode_same (s : State) (x : TiCmd) (n : Nat) :
    ((s.tiNode x n).caches n).tlb = (s.caches n).tlb.filter fun e => !s.tiHits x e := by
  by_cases hn : n < 576
  · rw [State.tiNode, caches_onCaches _ n hn]
    exact congrArg _ (State.nodeWrites_drainAll s n).tlb
  · rw [State.caches_mgmt _ hn, State.caches_mgmt _ hn]
    rfl
theorem State.wbuf_tiNode_same (s : State) (x : TiCmd) (n : Nat) : ((s.tiNode x n).caches n).wbuf = [] := by
  by_cases hn : n < 576
  · rw [State.tiNode, caches_onCaches _ n hn]
    exact State.wbuf_drainAll s n
  · rw [State.caches_mgmt _ hn]
    rfl

theorem Tab.find_keep {α : Type} (t : Tab α) (p : Nat → Bool) (k : Nat) : (t.keep p).find k = if p k then t.find k else none := by
  simp only [Tab.keep, Tab.find]
  induction t.cells with
  | nil => simp [findCell]
  | cons c r ih =>
    by_cases hc : c.1 = k
    · subst hc
      cases hp : p c.1 <;> simp [findCell, hp, ih]
    · cases hp : p c.1 <;> simp [findCell, hp, hc, ih]

theorem State.descs_tiNode_same (s : State) {x : TiCmd} (hx : x.kind ≠ 0) (n : Nat) {c : Nat} (hc : s.tiCovers x c = true) :
    ((s.tiNode x n).caches n).descs.find c = none := by
  by_cases hn : n < 576
  · rw [State.tiNode, caches_onCaches _ n hn]
    simp [hx, Tab.find_keep, hc]
  · rw [State.caches_mgmt _ hn]
    rfl

/-- Every node of a list after a command, one after the other. -/
def State.tiNodes (s : State) (x : TiCmd) (l : List Nat) : State := l.foldl (fun s n => s.tiNode x n) s

theorem State.memoryOnly_tiNodes (s : State) (x : TiCmd) (l : List Nat) : s.MemoryOnly (s.tiNodes x l) :=
  memoryOnly_foldl _ l s fun s n => State.memoryOnly_tiNode s x n
theorem State.walks_tiNodes (s : State) (x : TiCmd) (l : List Nat) : (s.tiNodes x l).walks = s.walks :=
  foldl_keeps (fun t : State => t.walks = s.walks) _ l s rfl fun t n h => (State.walks_tiNode t x n).trans h
theorem State.caches_tiNodes_other (s : State) (x : TiCmd) (l : List Nat) {m : Nat} (h : m ∉ l) :
    (s.tiNodes x l).caches m = s.caches m := by
  induction l generalizing s with
  | nil => rfl
  | cons n r ih =>
    obtain ⟨hmn, hr⟩ : m ≠ n ∧ m ∉ r := by simpa using h
    exact (ih (s.tiNode x n) hr).trans (State.caches_tiNode_other s x hmn)

/-- What holds of a node right after a command and is kept when another node follows holds when all have followed. -/
theorem State.tiNodes_induct (x : TiCmd) (P : State → Prop) (m : Nat) (hself : ∀ s : State, P (s.tiNode x m))
    (hother : ∀ (s : State) n, m ≠ n → P s → P (s.tiNode x n)) (l : List Nat) (hm : m ∈ l) (s : State) : P (s.tiNodes x l) := by
  have hkeep : ∀ (s : State) n, P s → P (s.tiNode x n) := fun s n h => by
    by_cases hmn : m = n
    · exact hmn ▸ hself s
    · exact hother s n hmn h
  induction l generalizing s with
  | nil => cases hm
  | cons n r ih =>
    by_cases hr : m ∈ r
    · exact ih hr (s.tiNode x n)
    · obtain rfl : m = n := by simpa [hr] using hm
      exact foldl_keeps P _ r _ (hself s) fun t k h => hkeep t k h

theorem State.wbuf_tiNodes (s : State) (x : TiCmd) {l : List Nat} {m : Nat} (hm : m ∈ l) : ((s.tiNodes x l).caches m).wbuf = [] :=
  State.tiNodes_induct x (fun t => (t.caches m).wbuf = []) m (fun t => State.wbuf_tiNode_same t x m)
    (fun t n hmn h => by rw [State.caches_tiNode_other t x hmn, h]) l hm s
theorem State.descs_tiNodes (s : State) {x : TiCmd} (hx : x.kind ≠ 0) {l : List Nat} {m : Nat} (hm : m ∈ l) {c : Nat}
    (hc : s.tiCovers x c = true) : ((s.tiNodes x l).caches m).descs.find c = none := by
  refine State.tiNodes_induct x (fun t => t.tiCovers x c = true → (t.caches m).descs.find c = none) m (fun t h => ?_)
    (fun t n hmn h hn => ?_) l hm s ?_
  · rw [State.tiCovers_congr (State.memoryOnly_tiNode t x m).ctxs] at h
    exact State.descs_tiNode_same t hx m h
  · rw [State.tiCovers_congr (State.memoryOnly_tiNode t x n).ctxs] at hn
    rw [State.caches_tiNode_other t x hmn, h hn]
  · rwa [State.tiCovers_congr (State.memoryOnly_tiNodes s x l).ctxs]
theorem State.tlb_tiNodes (s : State) (x : TiCmd) {l : List Nat} {m : Nat} (hm : m ∈ l) :
    ((s.tiNodes x l).caches m).tlb = (s.caches m).tlb.filter fun e => !s.tiHits x e := by
  induction l generalizing s with
  | nil => cases hm
  | cons n r ih =>
    have hhits := State.tiHits_congr (State.memoryOnly_tiNode s x n).ctxs x
    have hstep : s.tiNodes x (n :: r) = (s.tiNode x n).tiNodes x r := rfl
    rw [hstep]
    by_cases hmn : m = n
    · subst hmn
      by_cases hr : m ∈ r
      · rw [ih _ hr, hhits, State.tlb_tiNode_same, List.filter_filter]
        simp
      · rw [State.caches_tiNodes_other _ x r hr, State.tlb_tiNode_same]
    · have hr : m ∈ r := by simpa [hmn] using hm
      rw [ih _ hr, hhits, State.caches_tiNode_other s x hmn]

/-! The command done everywhere. A node that is not in the machine's tables has nothing in its caches. -/

theorem findCell_of_not_mem {α : Type} {k : Nat} {l : List (Nat × α)} (h : k ∉ l.map (·.1)) : findCell k l = none := by
  induction l with
  | nil => rfl
  | cons c r ih =>
    obtain ⟨hc, hr⟩ : ¬ k = c.1 ∧ k ∉ r.map (·.1) := by simpa using h
    simp [findCell, Ne.symm hc, ih hr]
theorem Tab.get_of_not_mem {α : Type} {t : Tab α} {k : Nat} (d : α) (h : k ∉ t.keys) : t.get k d = d := by
  have : t.find k = none := findCell_of_not_mem h
  simp [Tab.get, this]

/-- The nodes whose caches the machine's tables hold. -/
def State.nodes (s : State) : List Nat := s.cores.keys ++ s.lanterns.keys.map (512 + ·)

theorem State.caches_of_not_mem (s : State) {n : Nat} (h : n ∉ s.nodes) : s.caches n = .none := by
  obtain ⟨hcore, hlant⟩ : n ∉ s.cores.keys ∧ ∀ l ∈ s.lanterns.keys, 512 + l ≠ n := by simpa [State.nodes] using h
  unfold State.caches
  split
  · rw [State.core, Tab.get_of_not_mem _ hcore]
    rfl
  · split
    · have : n - 512 ∉ s.lanterns.keys := fun hm => hlant _ hm (by omega)
      rw [State.lantern, Tab.get_of_not_mem _ this]
      rfl
    · rfl

/-- The walk caches without the entries that a command removes. -/
def State.tiWalks (s : State) (x : TiCmd) : State :=
  { s with walks := { cells := s.walks.cells.map fun d => (d.1, d.2.filter fun e => !s.tiPath x e) } }
/-- The cores without the layout records of the contexts that a command covers, but for a page command. -/
def State.tiLayouts (s : State) (x : TiCmd) : State :=
  if x.kind = 0 then s else
  { s with cores := { cells := s.cores.cells.map fun c =>
      (c.1, { c.2 with layouts := c.2.layouts.filter fun e => !s.tiCovers x e.ctx }) } }
theorem State.invalidate_eq (s : State) (x : TiCmd) : s.invalidate x = ((s.tiNodes x s.nodes).tiWalks x).tiLayouts x := rfl

theorem Tab.get_map_cells {α : Type} (t : Tab α) (f : α → α) (k : Nat) {d : α} (hd : f d = d) :
    ({ cells := t.cells.map fun c => (c.1, f c.2) } : Tab α).get k d = f (t.get k d) := by
  simp only [Tab.get, Tab.find]
  rw [findCell_map_keys (fun c : Nat × α => (c.1, f c.2)) fun _ => rfl]
  cases findCell k t.cells with
  | none => exact hd.symm
  | some a => rfl

theorem State.walks_tiWalks (s : State) (x : TiCmd) (d : Nat) :
    (s.tiWalks x).walks.get d [] = (s.walks.get d []).filter fun e => !s.tiPath x e :=
  Tab.get_map_cells s.walks (fun l => l.filter fun e => !s.tiPath x e) d rfl
theorem State.core_tiLayouts (s : State) {x : TiCmd} (hx : x.kind ≠ 0) (c : Nat) : (s.tiLayouts x).core c =
    { s.core c with layouts := (s.core c).layouts.filter fun e => !s.tiCovers x e.ctx } := by
  rw [State.tiLayouts, if_neg hx]
  exact Tab.get_map_cells s.cores (fun k => { k with layouts := k.layouts.filter fun e => !s.tiCovers x e.ctx }) c rfl
theorem State.caches_tiLayouts (s : State) (x : TiCmd) (n : Nat) : (s.tiLayouts x).caches n = s.caches n := by
  by_cases hx : x.kind = 0
  · rw [State.tiLayouts, if_pos hx]
  · have hl : (s.tiLayouts x).lanterns = s.lanterns := by rw [State.tiLayouts, if_neg hx]
    simp only [State.caches, State.core_tiLayouts s hx, State.lantern, hl]

theorem State.caches_invalidate (s : State) (x : TiCmd) (n : Nat) : (s.invalidate x).caches n = (s.tiNodes x s.nodes).caches n := by
  rw [State.invalidate_eq, State.caches_tiLayouts]
  rfl

section
variable (s : State) (x : TiCmd)

theorem State.tlb_invalidate (n : Nat) : ((s.invalidate x).caches n).tlb = (s.caches n).tlb.filter fun e => !s.tiHits x e := by
  rw [State.caches_invalidate]
  by_cases hn : n ∈ s.nodes
  · exact State.tlb_tiNodes s x hn
  · rw [State.caches_tiNodes_other s x _ hn, State.caches_of_not_mem s hn]
    rfl
theorem State.wbuf_invalidate (n : Nat) : ((s.invalidate x).caches n).wbuf = [] := by
  rw [State.caches_invalidate]
  by_cases hn : n ∈ s.nodes
  · exact State.wbuf_tiNodes s x hn
  · rw [State.caches_tiNodes_other s x _ hn, State.caches_of_not_mem s hn]
    rfl
theorem State.descs_invalidate (hx : x.kind ≠ 0) (n : Nat) {c : Nat} (hc : s.tiCovers x c = true) :
    ((s.invalidate x).caches n).descs.find c = none := by
  rw [State.caches_invalidate]
  by_cases hn : n ∈ s.nodes
  · exact State.descs_tiNodes s hx hn hc
  · rw [State.caches_tiNodes_other s x _ hn, State.caches_of_not_mem s hn]
    rfl
theorem State.walks_invalidate (d : Nat) :
    (s.invalidate x).walks.get d [] = (s.walks.get d []).filter fun e => !s.tiPath x e := by
  have hw : (s.invalidate x).walks = ((s.tiNodes x s.nodes).tiWalks x).walks := by
    rw [State.invalidate_eq, State.tiLayouts]
    split <;> rfl
  have hp : (s.tiNodes x s.nodes).tiPath x = s.tiPath x := by
    funext e
    simp only [State.tiPath, State.tiCovers_congr (State.memoryOnly_tiNodes s x s.nodes).ctxs]
  rw [hw, State.walks_tiWalks, State.walks_tiNodes, hp]
theorem State.layouts_invalidate (hx : x.kind ≠ 0) (c : Nat) :
    ((s.invalidate x).core c).layouts = (s.core c).layouts.filter fun e => !s.tiCovers x e.ctx := by
  have hc : ((s.tiNodes x s.nodes).tiWalks x).tiCovers x = s.tiCovers x :=
    State.tiCovers_congr (State.memoryOnly_tiNodes s x s.nodes).ctxs x
  rw [State.invalidate_eq, State.core_tiLayouts _ hx, hc, ← (State.memoryOnly_tiNodes s x s.nodes).layouts c]
  rfl
/-- An invalidation leaves the windows' registers as they are. -/
theorem State.window_invalidate (w : Option Nat) : (s.invalidate x).window w = s.window w := by
  have h : (s.invalidate x).window w = (s.tiNodes x s.nodes).window w := by
    rw [State.invalidate_eq, State.tiLayouts]
    split <;> rfl
  rw [h, (State.memoryOnly_tiNodes s x s.nodes).rest]
  rfl

end

end Sys2Proof.Machine

namespace Sys2Proof.Machine

variable {s t : State}

/-! The windows (spec/01 R41). -/

theorem State.window_onWindow (s : State) (w : Option Nat) (f : Window → Window) : (s.onWindow w f).window w = f (s.window w) := by
  cases w with
  | none => rfl
  | some g => simp [State.onWindow, State.window]
theorem State.onWindow_rest (s : State) (w : Option Nat) (f : Window → Window) :
    s.onWindow w f = { s with pf := (s.onWindow w f).pf, groves := (s.onWindow w f).groves } := by
  cases w <;> rfl
@[simp] theorem State.caches_onWindow (s : State) (w : Option Nat) (f : Window → Window) (n : Nat) :
    (s.onWindow w f).caches n = s.caches n := by
  cases w <;> rfl
@[simp] theorem State.core_onWindow (s : State) (w : Option Nat) (f : Window → Window) (c : Nat) :
    (s.onWindow w f).core c = s.core c := by
  cases w <;> rfl
@[simp] theorem State.walks_onWindow (s : State) (w : Option Nat) (f : Window → Window) : (s.onWindow w f).walks = s.walks := by
  cases w <;> rfl

/-- May a command be given in window `w`: in a grove's, only for its own contexts or for the grove itself (spec/01 R41)? -/
def State.tiAllowed (s : State) (w : Option Nat) (x : TiCmd) : Prop := match w with
  | none => True
  | some g => (x.kind ≤ 1 ∧ (s.ctx x.ctx).desc.grove = g) ∨ (x.kind = 2 ∧ x.grove = g)

/-- Does a command reach outside its window? -/
def State.tiOutside (s : State) (w : Option Nat) (x : TiCmd) : Bool := match w with
  | none => false
  | some g => match x.kind with
    | 0 => (s.ctx x.ctx).desc.grove != g
    | 1 => (s.ctx x.ctx).desc.grove != g
    | 2 => x.grove != g
    | _ => true
theorem State.tiOutside_iff (s : State) (w : Option Nat) (x : TiCmd) : s.tiOutside w x = true ↔ ¬ s.tiAllowed w x := by
  obtain ⟨kind, va, ctx, grove, tag⟩ := x
  cases w with
  | none => simp [State.tiOutside, State.tiAllowed]
  | some g => match kind with
    | 0 => simp [State.tiOutside, State.tiAllowed]
    | 1 => simp [State.tiOutside, State.tiAllowed]
    | 2 => simp [State.tiOutside, State.tiAllowed]
    | k + 3 => simp [State.tiOutside, State.tiAllowed]

theorem State.tiCommand_eq (s : State) (w : Option Nat) (x : TiCmd) : s.tiCommand w x =
    if !s.up then s
    else if s.tiOutside w x || decide (16 ≤ (s.window w).tiq.length) then s.tiRefuse w
    else s.onWindow w fun k => { k with tiq := k.tiq ++ [x] } := by
  cases w <;> rfl
theorem State.tiCommand_down {w : Option Nat} {x : TiCmd} (h : s.up = false) : s.tiCommand w x = s := by
  simp [State.tiCommand_eq, h]
theorem State.tiCommand_queued {w : Option Nat} {x : TiCmd} (hup : s.up = true) (hw : s.tiAllowed w x)
    (hroom : (s.window w).tiq.length < 16) :
    s.tiCommand w x = s.onWindow w fun k => { k with tiq := k.tiq ++ [x] } := by
  have hin : s.tiOutside w x = false := by simpa [hw] using (s.tiOutside_iff w x).not
  simp [State.tiCommand_eq, hup, hin, hroom]
theorem State.tiCommand_refused {w : Option Nat} {x : TiCmd} (hup : s.up = true)
    (h : ¬ s.tiAllowed w x ∨ 16 ≤ (s.window w).tiq.length) : s.tiCommand w x = s.tiRefuse w := by
  rw [← State.tiOutside_iff] at h
  rcases h with h | h <;> simp [State.tiCommand_eq, hup, h]

theorem State.tiCovers_eq (s : State) (x : TiCmd) (c : Nat) : s.tiCovers x c =
    if x.kind ≤ 1 then c == x.ctx else if x.kind = 2 then (s.ctx c).desc.grove == x.grove else true := by
  obtain ⟨kind, va, ctx, grove, tag⟩ := x
  match kind with
  | 0 => rfl
  | 1 => rfl
  | 2 => rfl
  | k + 3 => simp [State.tiCovers]
theorem spanBytes_eq (l : Nat) : spanBytes l = if l = 1 then 2 ^ 21 else if l = 2 then 2 ^ 30 else 2 ^ 43 := by
  match l with
  | 0 => rfl
  | 1 => rfl
  | 2 => rfl
  | k + 3 => simp [spanBytes]

end Sys2Proof.Machine

namespace Sys2Proof.Machine

variable {s t : State}

/-! O45, from the laws above: what the events of translation come to. First the answers, seen from the state in which the record is
no longer outstanding. -/

section
variable (s : State) (c n : Nat)

@[simp] theorem State.thread_answered (u : UnitId) : (s.answered c n).thread u = s.thread u := State.thread_onCtx s c u _
@[simp] theorem State.mask_answered (u : UnitId) : (s.answered c n).maskOf u = s.maskOf u := State.mask_onCtx s c u _
@[simp] theorem State.ctxOf_answered (u : UnitId) : (s.answered c n).ctxOf u = s.ctxOf u := State.ctxOf_onCtx s c u _
@[simp] theorem State.team_answered (m k : Nat) : (s.answered c n).team m k = s.team m k := rfl
@[simp] theorem State.group_answered (m k : Nat) : (s.answered c n).group m k = s.group m k := rfl
@[simp] theorem State.trapv_answered : ((s.answered c n).ctx c).trapv = (s.ctx c).trapv := by
  rw [State.answered, State.ctx_onCtx_same]
@[simp] theorem State.pend_answered : ((s.answered c n).ctx c).pend = (s.ctx c).pend := by
  rw [State.answered, State.ctx_onCtx_same]
@[simp] theorem State.descOf_answered (m k : Nat) : (s.answered c n).descOf m k = s.descOf m k := by
  simp only [State.descOf, State.answered, State.caches_onCtx, State.ctx_onCtx]
  split
  · rename_i hk
    rw [hk]
  · rfl
@[simp] theorem State.place_answered (u : UnitId) : (s.answered c n).place u = s.place u := by
  simp [State.place]
@[simp] theorem State.abortFrame_answered (u : UnitId) (p : Park) (all : Bool) (held : Dword) :
    (s.answered c n).abortFrame u p all held = s.abortFrame u p all held := by
  simp [State.abortFrame]

end

section
variable {g c n : Nat} {o : Outstanding} (hup : s.up = true) (hg : (s.ctx c).desc.grove = g)
  (ho : (s.ctx c).outstanding.find? (fun o => o.seq == n) = some o)

section
variable {u : UnitId} {p : Park} (hu : o.req = .unit u) (hp : (s.thread u).park = some p)
  (hs : (s.thread u).state = .parked) (hn : p.seqs.contains n = true)
include hup hg ho hu hp hs hn

/-- A parked unit has its answer. -/
theorem State.fresume_unit (abort : Bool) :
    s.fresume g c n abort = if abort then (s.answered c n).abortPark u p else (s.answered c n).retryPark u := by
  rw [State.fresume_answers hup hg ho, hu, State.answer,
    State.answerUnit_parked (by rw [State.thread_answered, hp]) (by rw [State.thread_answered, hs]) hn]

/-- RETRY of a unit that stands at its instruction: it issues again from its PC. -/
theorem State.fresume_retry_unit (hw : (s.thread u).wait = none) : (s.answered c n).Own (s.fresume g c n false) u ∧
    (s.fresume g c n false).thread u = { (s.thread u).restart (s.thread u).pc with park := none } := by
  rw [State.fresume_unit hup hg ho hu hp hs hn, if_neg (by decide)]
  refine ⟨State.own_retryPark _ u, ?_⟩
  rw [State.thread_retryPark, State.thread_answered, Thread.retried_of_no_wait hw]

variable (hc : s.ctxOf u = c) (hv : (s.ctx c).trapv ≠ 0) (hf : (s.thread u).frame.active = false)
include hc hv hf

/-- ABORT of a sequencer or a program: it takes its fault. -/
theorem State.fresume_abort_other (hpath : u.isPath = false) :
    (s.answered c n).Own (s.fresume g c n true) u ∧
      (s.answered c n).TrapSees (s.fresume g c n true) u 0 0 p.addr p.mask (s.thread u).runpc p.pc := by
  rw [State.fresume_unit hup hg ho hu hp hs hn, if_pos rfl, ← State.thread_answered s c n u]
  exact State.abortPark_other_sees hpath (by rw [State.thread_answered, hf])
    (by rw [State.ctxOf_answered, hc, State.trapv_answered]; exact hv)

/-- ABORT of a path that no entry can be taken from: all of it takes the fault. -/
theorem State.fresume_abort_whole {m k i : Nat} (hpath : u = .path m k i)
    (h : (s.group m k).paths.free Config.pathSlots = none ∨ p.mask = s.maskOf u) :
    Path.Trapped (((s.fresume g c n true).group m k).path i) (s.maskOf u)
      (s.abortFrame u p (decide (p.mask ≠ s.maskOf u)) (s.maskOf u)) (s.ctx c).trapv := by
  rw [State.fresume_unit hup hg ho hu hp hs hn, if_pos rfl]
  subst hpath
  have ht := State.abortPark_trapped_whole (s := s.answered c n) (p := p) (by rw [State.thread_answered, hf])
    (by rw [State.ctxOf_answered, hc, State.trapv_answered]; exact hv) h
  simpa only [State.mask_answered, State.abortFrame_answered, State.ctxOf_answered, hc, State.trapv_answered] using ht

/-- ABORT of a path with an entry free for the lanes that faulted: they take the fault, and the others may issue again. -/
theorem State.fresume_abort_split {m k i j : Nat} (hpath : u = .path m k i)
    (hj : (s.group m k).paths.free Config.pathSlots = some j) (hm : p.mask ≠ s.maskOf u) :
    Path.Trapped (((s.fresume g c n true).group m k).path j) p.mask (s.abortFrame u p false p.mask) (s.ctx c).trapv ∧
      ((s.fresume g c n true).group m k).path i = { ((s.group m k).path i).without p.mask with
        th := (((s.group m k).path i).without p.mask).th.retried } := by
  rw [State.fresume_unit hup hg ho hu hp hs hn, if_pos rfl]
  subst hpath
  have ht := State.abortPark_trapped_split (s := s.answered c n) (p := p) (by rw [State.thread_answered, hf])
    (by rw [State.ctxOf_answered, hc, State.trapv_answered]; exact hv) (by rw [State.thread_answered, hs]) hj
    (by rw [State.mask_answered]; exact hm)
  simpa only [State.group_answered, State.abortFrame_answered, State.ctxOf_answered, hc, State.trapv_answered] using ht

end

section
variable {k m q : Nat} {x : Cmd} {rest : List Cmd} {a : Dword} (hu : o.req = .engine k m q)
  (hx : ((s.team k m).engq q).cmds = x :: rest) (hp : x.park = some (n, a))
include hup hg ho hu hx hp

/-- RETRY of a held command: it goes on. -/
theorem State.fresume_retry_engine : s.fresume g c n false = (s.answered c n).onTeam k m fun tm =>
    { tm with eng := tm.eng.put q { (s.team k m).engq q with cmds := { x with park := none } :: rest } } := by
  rw [State.fresume_answers hup hg ho, hu, State.answer, State.answerEngine_retry (s := s.answered c n) hx hp,
    State.onHead_cons (s := s.answered c n) hx, State.team_answered]

/-- ABORT of a held command: it ends ill-formed with ECODE 0x09. -/
theorem State.fresume_abort_engine (hc : (s.team k m).ctx = c) (hpend : (s.ctx c).pend = []) (hrun : s.SeqRuns k m) :
    ∃ r : List Dword, r.take 3 = s.illRecord k m q x 0x09 a ∧
      ((((s.fresume g c n true).ctx c).pend.map (fun y => (y.words, y.out)) = [(r, some (.failing k m q x.id))] ∧
          ((s.fresume g c n true).team k m).engq q = { (s.team k m).engq q with cmds := x.fail :: rest }) ∨
        (((s.fresume g c n true).ctx c).pend = [] ∧ ((s.fresume g c n true).team k m).errRec = some r ∧
          ((s.fresume g c n true).team k m).engq q = { cmds := (x :: rest).filter fun y => y.id != x.id, halted := true })) := by
  have hrun' : (s.answered c n).SeqRuns k m := hrun.congr rfl rfl
  have hpend' : ((s.answered c n).ctx ((s.answered c n).team k m).ctx).pend = [] := by
    rw [State.team_answered, hc, State.pend_answered, hpend]
  have hill : s.fresume g c n true = (s.answered c n).cmdFails k m q x (s.illRecord k m q x 0x09 a) := by
    rw [State.fresume_answers hup hg ho, hu, State.answer, State.answerEngine_abort (s := s.answered c n) hx hp,
      State.illFormed_eq, State.illRecord, State.place_answered]
    rfl
  rw [hill]
  obtain ⟨v, hend⟩ := State.cmdFails_ends (s := s.answered c n) (w := s.illRecord k m q x 0x09 a) hx hpend' hrun'
  rw [State.team_answered, hc] at hend
  exact ⟨_, rfl, hend⟩

end

end

/-! The events. -/

/-- RETRY and ABORT are writes of FRESUME. -/
theorem exec_fresume {g : Nat} {c : BitVec 12} {seq : Word} {ev : Instr}
    (h : ev ∈ [Instr.fresumeRetry g c seq, .fresumeAbort g c seq]) :
    ∃ abort, exec ev s = .next (s.fresume g c.toNat seq.toNat abort) ∧ (ev = .fresumeRetry g c seq → abort = false) ∧
      (ev = .fresumeAbort g c seq → abort = true) := by
  obtain rfl | rfl : ev = .fresumeRetry g c seq ∨ ev = .fresumeAbort g c seq := by simpa using h
  · exact ⟨false, rfl, by simp, by simp⟩
  · exact ⟨true, rfl, by simp, by simp⟩

/-- TICMD queues or refuses one command. -/
theorem exec_ticmd {w : Option Nat} {c : BitVec 12} {v : BitVec 6} {tag : Word} {ev : Instr} {x : TiCmd}
    (h : (ev, x) ∈ [(Instr.ticmdPage w c tag, { kind := 0, va := (s.window w).tiva.toNat, ctx := c.toNat, grove := 0, tag := tag }),
        (.ticmdContext w c tag, { kind := 1, va := 0, ctx := c.toNat, grove := 0, tag := tag }),
        (.ticmdGrove w v tag, { kind := 2, va := 0, ctx := 0, grove := v.toNat, tag := tag }),
        (.ticmdAll w tag, { kind := 3, va := 0, ctx := 0, grove := 0, tag := tag })]) : exec ev s = .next (s.tiCommand w x) := by
  simp only [List.mem_cons, List.not_mem_nil, or_false, Prod.mk.injEq] at h
  rcases h with ⟨rfl, rfl⟩ | ⟨rfl, rfl⟩ | ⟨rfl, rfl⟩ | ⟨rfl, rfl⟩
  · rw [exec_ticmdPage, execTicmdPage]
  · rw [exec_ticmdContext, execTicmdContext]
  · rw [exec_ticmdGrove, execTicmdGrove]
  · rw [exec_ticmdAll, execTicmdAll]

theorem exec_invalidationComplete_nil {w : Option Nat} (h : (s.window w).tiq = []) :
    exec (.invalidationComplete w) s = .next s := by
  rw [exec_invalidationComplete, execInvalidationComplete, h]
theorem exec_invalidationComplete_cons {w : Option Nat} {x : TiCmd} {rest : List TiCmd} (h : (s.window w).tiq = x :: rest) :
    exec (.invalidationComplete w) s = .next ((s.invalidate x).onWindow w fun k => { k with tiq := rest, tiDone := x.tag }) := by
  rw [exec_invalidationComplete, execInvalidationComplete, h]

end Sys2Proof.Machine

namespace Sys2Proof.Machine

/-- Settles O45, one event at a time: the ring's laws give FAULT_RECORD_WRITE; an answer, seen from the state in which its record is no
longer outstanding, is a unit's or a command's; a window's command is queued or refused; and INVALIDATION_COMPLETE is every node after
the command, then the walk caches, then the layout records. -/
theorem translationEvents : Obligations.TranslationEvents := by
  unfold Obligations.TranslationEvents
  intro s
  refine ⟨fun c => ?records, fun g c seq ev hev => ?answers, fun w c v tag ev x => ?commands, fun w => ?completion⟩
  case records =>
    rw [exec_faultRecordWrite, execFaultRecordWrite]
    refine ⟨fun hp => by rw [State.writeRecord_nil hp], fun r rest hp => ⟨fun hfull => ?_, fun hlen hbase hroom hd hends => ?_⟩⟩
    · rw [State.writeRecord_full hp]
      exact Bool.eq_false_iff.mpr fun h => (State.ringRoom_one _ _ _).mp h hfull
    · have hroom := (State.ringRoom_one _ _ _).mpr hroom
      have hquiet : s.EndsQuietly r := hends
      have hctx := State.ctx_writeRecord hp hroom hd hquiet
      have hmem := State.mem_writeRecord hp hroom hd hquiet
      have hsize : (bytesOfDwords r.words).length = 32 := by simp [hlen]
      refine ⟨_, rfl, by rw [hctx], fun o => by rw [hctx]; exact r.mem_parked _ o, fun j m q id x hout hx => ?_,
        State.gint_writeRecord hp hroom hd hquiet, ?_, ?_, fun a hs hi => ?_⟩
      · exact State.writeRecord_completes hp hroom hd hout (hquiet j m q id hout) hx
      · rw [State.home64, hmem]
        exact State.home64_ringWrite_index s _ _ _ _
      · rw [hmem, ← hsize]
        exact State.read_ringWrite_slot s _ hbase
      · rw [hmem]
        exact State.get_ringWrite_other s _ hbase (by rw [hsize]; exact hs) hi
  case answers =>
    obtain ⟨abort, hexec, hretry, habort⟩ := exec_fresume (s := s) hev
    rw [hexec]
    refine ⟨fun hup => by rw [State.fresume_down hup], fun hup h => by rw [State.fresume_error hup h],
      fun o u p hup hg ho hu hp hs hn => ⟨fun hev hw => ?_, fun hev hpath hc hv hf => ?_, fun n g' i hev hpath hc hv hf => ?_⟩,
      fun o n m e x rest a hup hg ho hu hx hp => ⟨fun hev => ?_, fun hev hc hpend hexit hwait => ?_⟩⟩
    · obtain ⟨hown, hth⟩ := State.fresume_retry_unit hup hg ho hu hp hs hn hw
      rw [hretry hev]
      exact ⟨_, rfl, hown, by rw [hth]; rfl, by rw [hth], by rw [hth]; rfl, by rw [hth]; rfl, by rw [hth]; rfl⟩
    · rw [habort hev]
      exact ⟨_, rfl, State.fresume_abort_other hup hg ho hu hp hs hn hc hv hf hpath⟩
    · rw [habort hev]
      refine ⟨_, rfl, fun h => State.fresume_abort_whole hup hg ho hu hp hs hn hc hv hf hpath h, fun j hj hm => ?_⟩
      obtain ⟨hnew, hold⟩ := State.fresume_abort_split hup hg ho hu hp hs hn hc hv hf hpath hj hm
      subst hpath
      refine ⟨hnew, ?_, ?_, ?_, ?_⟩
      · exact congrArg Path.mask hold
      · exact (congrArg (fun v => v.th.pc) hold).trans (Thread.retried_pc _)
      · exact (congrArg (fun v => v.th.park) hold).trans (Thread.retried_park _)
      · exact (congrArg (fun v => v.th.state) hold).trans (Thread.retried_state _)
    · rw [hretry hev, State.fresume_retry_engine hup hg ho hu hx hp]
      rfl
    · rw [habort hev]
      obtain ⟨r, hr, hend⟩ := State.fresume_abort_engine hup hg ho hu hx hp hc hpend ⟨hexit, hwait⟩
      exact ⟨_, r, rfl, hr, hend⟩
  case commands =>
    intro win mine hx allowed
    have hwin : ∀ t : State, win t = t.window w := fun t => by cases w <;> rfl
    have hallowed : allowed ↔ s.tiAllowed w x := by
      cases w <;> simp [allowed, mine, State.tiAllowed, eq_comm]
    rw [hwin s] at hx
    rw [exec_ticmd hx]
    refine ⟨fun hup => by rw [State.tiCommand_down hup], fun hup ha hroom => ?_, fun hup h => ?_⟩
    · rw [hwin s] at hroom
      rw [State.tiCommand_queued hup (hallowed.mp ha) hroom, hwin s]
      exact ⟨_, rfl, by rw [hwin, State.window_onWindow], State.onWindow_rest s w _⟩
    · rw [hwin s, hallowed] at h
      rw [State.tiCommand_refused hup h, hwin s]
      exact ⟨_, rfl, by rw [hwin, State.tiRefuse, State.window_onWindow], State.onWindow_rest s w _⟩
  case completion =>
    intro win
    have hwin : ∀ t : State, win t = t.window w := fun t => by cases w <;> rfl
    rw [hwin s]
    refine ⟨fun h => exec_invalidationComplete_nil h, fun x rest h => ?_⟩
    rw [exec_invalidationComplete_cons h]
    intro covers hits onPath
    have hcovers : covers = s.tiCovers x := funext fun c => (State.tiCovers_eq s x c).symm
    have hhits : hits = s.tiHits x := by
      funext e
      simp only [hits, hcovers, State.tiHits]
    have hpath : onPath = s.tiPath x := by
      funext e
      simp only [onPath, hcovers, State.tiPath, spanBytes_eq]
    rw [hcovers, hhits, hpath]
    refine ⟨_, rfl, ?_, fun n => ?_, fun d => ?_, fun n => ?_, fun hk n c hc => ?_, fun hk c => ?_⟩
    · rw [hwin, State.window_onWindow, State.window_invalidate]
    · rw [State.caches_onWindow, State.tlb_invalidate]
    · rw [State.walks_onWindow, State.walks_invalidate]
    · rw [State.caches_onWindow, State.wbuf_invalidate]
    · rw [State.caches_onWindow, State.descs_invalidate s x hk n hc]
    · rw [State.core_onWindow, State.layouts_invalidate s x hk c]

end Sys2Proof.Machine

namespace Sys2Proof.Machine

variable {s t : State}

/-! A line that leaves its slice (spec/02 R68, R78): what each of its sectors leaves in HBM and as poison. -/

theorem contains_addNum (j k : Nat) (l : List Nat) : (addNum k l).contains j = (decide (j = k) || l.contains j) := by
  unfold addNum
  split
  · by_cases h : j = k <;> simp_all
  · rw [List.contains_cons, beq_eq_decide]

theorem contains_addNum_same (k : Nat) (l : List Nat) : (addNum k l).contains k = true := by
  rw [contains_addNum, decide_eq_true rfl, Bool.true_or]

theorem contains_delNum (j k : Nat) (l : List Nat) : (delNum k l).contains j = (decide (j ≠ k) && l.contains j) := by
  rw [Bool.eq_iff_iff]
  simp [delNum, and_comm]

/-- A number put into a list or taken out of it, as `b` says. -/
theorem contains_addNum_or_delNum (b : Bool) (j k : Nat) (l : List Nat) :
    (if b then addNum k l else delNum k l).contains j = if j = k then b else l.contains j := by
  cases b with
  | true => rw [if_pos rfl, contains_addNum]; split <;> simp [*]
  | false => rw [if_neg Bool.false_ne_true, contains_delNum]; split <;> simp [*]

/-- What a state has of a sector besides the bytes that are read: its poison, its mark in HBM, and its bytes there. -/
structure SectorBelow where
  poison : Bool
  marked : Bool
  bytes : List Byte

/-- What the state has of sector `sec`. -/
def State.below (s : State) (sec : Nat) : SectorBelow :=
  { poison := s.poison.contains sec, marked := s.hbmPoison.contains sec, bytes := s.hbm.read (64 * sec) 64 }

/-- What there is of sector `sec` once it has left its slice: a dirty one stands in HBM as it was read, and its poison with it; another
reads as HBM holds it. -/
def State.belowLeft (s : State) (dirty : Bool) (sec : Nat) : SectorBelow :=
  if dirty then { poison := s.poison.contains sec, marked := s.poison.contains sec, bytes := s.mem.read (64 * sec) 64 }
  else { poison := s.hbmPoison.contains sec, marked := s.hbmPoison.contains sec, bytes := s.hbm.read (64 * sec) 64 }

theorem State.below_refetch (s : State) (k sec : Nat) :
    (s.refetch k).below sec = if sec = k then s.belowLeft false k else s.below sec := by
  have hp : (s.refetch k).poison.contains sec = _ := contains_addNum_or_delNum (s.hbmPoison.contains k) sec k s.poison
  rw [State.below, hp]
  split
  · next h => rw [h]; rfl
  · rfl

theorem State.read_hbm_writeDown (s : State) (k sec : Nat) :
    (s.writeDown k).hbm.read (64 * sec) 64 = if sec = k then s.mem.read (64 * k) 64 else s.hbm.read (64 * sec) 64 := by
  have hlen : (s.mem.read (k * 64) 64).length = 64 := by simp [Mem.read]
  split
  · next h =>
    have hread := Mem.read_write s.hbm (k * 64) (s.mem.read (k * 64) 64)
    rw [hlen] at hread
    rw [h, Nat.mul_comm]
    exact hread
  · exact Mem.read_write_other _ _ _ (by rw [hlen]; omega)

theorem State.below_writeDown (s : State) (k sec : Nat) :
    (s.writeDown k).below sec = if sec = k then s.belowLeft true k else s.below sec := by
  have hm : (s.writeDown k).hbmPoison.contains sec = _ := contains_addNum_or_delNum (s.poison.contains k) sec k s.hbmPoison
  rw [State.below, hm, State.read_hbm_writeDown]
  split
  · next h => rw [h]; rfl
  · rfl

/-- Sector `k` of a line that leaves its slice: written to HBM if it is dirty, read from there again if not. -/
def State.leaveSector (s : State) (l : L2Line) (line k : Nat) : State :=
  if l.dirty k then s.writeDown (line * 4 + k) else s.refetch (line * 4 + k)

theorem State.below_leaveSector (s : State) (l : L2Line) (line k sec : Nat) : (s.leaveSector l line k).below sec =
    if sec = line * 4 + k then s.belowLeft (l.dirty k) (line * 4 + k) else s.below sec := by
  unfold State.leaveSector
  split
  · next h => rw [State.below_writeDown, h]
  · next h => rw [State.below_refetch, Bool.eq_false_iff.mpr h]

theorem State.leaveSector_rest (s : State) (l : L2Line) (line k : Nat) : s.leaveSector l line k =
    { s with hbm := (s.leaveSector l line k).hbm, hbmPoison := (s.leaveSector l line k).hbmPoison,
             poison := (s.leaveSector l line k).poison } := by
  unfold State.leaveSector
  split <;> rfl

/-- `t` is `s` once the first `n` sectors of a line held as `l` have left. -/
structure State.SectorsLeft (s t : State) (l : L2Line) (line n : Nat) : Prop where
  rest : t = { s with hbm := t.hbm, hbmPoison := t.hbmPoison, poison := t.poison }
  below : ∀ sec, t.below sec = if sec / 4 = line ∧ sec % 4 < n then s.belowLeft (l.dirty (sec % 4)) sec else s.below sec

theorem State.SectorsLeft.succ {l : L2Line} {line n : Nat} (h : s.SectorsLeft t l line n) (hn : n < 4) :
    s.SectorsLeft (t.leaveSector l line n) l line (n + 1) := by
  refine ⟨by rw [State.leaveSector_rest, h.rest], fun sec => ?_⟩
  rw [State.below_leaveSector]
  by_cases hs : sec = line * 4 + n
  · have hmod : (line * 4 + n) % 4 = n := by omega
    have hsame : t.below sec = s.below sec := by rw [h.below, if_neg (by omega)]
    obtain ⟨hp, hm, hb⟩ := SectorBelow.mk.inj hsame
    rw [if_pos hs, if_pos (by omega), ← hs, State.belowLeft, State.belowLeft, hp, hm, hb, hs, hmod, h.rest]
  · rw [if_neg hs, h.below]
    exact if_congr (by omega) rfl rfl

theorem State.sectorsLeft_foldl (s : State) (l : L2Line) (line : Nat) {n : Nat} (hn : n ≤ 4) :
    s.SectorsLeft ((List.range n).foldl (fun q k => q.leaveSector l line k) s) l line n := by
  induction n with
  | zero => exact ⟨rfl, fun _ => by simp⟩
  | succ n ih =>
    rw [List.range_succ, List.foldl_append]
    exact (ih (by omega)).succ (by omega)

theorem State.writeBack_none {line : Nat} (h : s.l2.find line = none) : s.writeBack line = s := by
  rw [State.writeBack, h]

/-- The four sectors of a line that leaves have left, and its slice no longer holds it. -/
theorem State.sectorsLeft_writeBack {line : Nat} {l : L2Line} (h : s.l2.find line = some l) :
    State.SectorsLeft { s with l2 := s.l2.drop line } (s.writeBack line) l line 4 := by
  have hfold : s.writeBack line =
      (List.range 4).foldl (fun q k => q.leaveSector l line k) { s with l2 := s.l2.drop line } := by
    rw [State.writeBack, h]
    rfl
  rw [hfold]
  exact State.sectorsLeft_foldl _ l line (Nat.le_refl 4)

theorem State.below_writeBack {line : Nat} {l : L2Line} (h : s.l2.find line = some l) (sec : Nat) :
    (s.writeBack line).below sec = if sec / 4 = line then s.belowLeft (l.dirty (sec % 4)) sec else s.below sec := by
  rw [(State.sectorsLeft_writeBack h).below]
  exact if_congr (by omega) rfl rfl

theorem State.writeBack_rest {line : Nat} {l : L2Line} (h : s.l2.find line = some l) : s.writeBack line =
    { s with l2 := s.l2.drop line, hbm := (s.writeBack line).hbm, hbmPoison := (s.writeBack line).hbmPoison,
             poison := (s.writeBack line).poison } :=
  (State.sectorsLeft_writeBack h).rest

/-- A dirty sector of a line that leaves. -/
theorem State.below_writeBack_dirty {line sec : Nat} {l : L2Line} (h : s.l2.find line = some l)
    (hd : sec / 4 = line ∧ l.dirty (sec % 4) = true) : (s.writeBack line).below sec = s.belowLeft true sec := by
  rw [State.below_writeBack h, if_pos hd.1, hd.2]

/-- Any other sector stays as it is in HBM, and one of the line is poisoned as HBM has it marked. -/
theorem State.below_writeBack_clean {line sec : Nat} {l : L2Line} (h : s.l2.find line = some l)
    (hd : ¬ (sec / 4 = line ∧ l.dirty (sec % 4) = true)) : (s.writeBack line).below sec =
      { s.below sec with poison := if sec / 4 = line then s.hbmPoison.contains sec else s.poison.contains sec } := by
  rw [State.below_writeBack h]
  split
  · next hs =>
    have hclean : l.dirty (sec % 4) = false := Bool.eq_false_iff.mpr fun h => hd ⟨hs, h⟩
    rw [hclean]
    rfl
  · rfl

end Sys2Proof.Machine

namespace Sys2Proof.Machine

variable {s t : State}

/-! What the scrub and an error of on-die storage mark (spec/02 R78, R79). -/

theorem countOne_get (t : Tab Word) (j k : Nat) : (countOne t k).get j 0 = if j = k then t.get k 0 + 1 else t.get j 0 :=
  Tab.get_put t j k _ 0

theorem State.l2Holds_iff (s : State) (sec : Nat) : s.l2Holds sec = true ↔
    ∃ l, s.l2.find (sec / 4) = some l ∧ (l.z = true ∨ l.vs.getLsbD (sec % 4) = true) := by
  unfold State.l2Holds
  cases s.l2.find (sec / 4) with
  | none => simp
  | some l => simp

theorem State.poison_poisonHome_same (s : State) (sec : Nat) : (s.poisonHome sec).poison.contains sec = true :=
  contains_addNum_same sec s.poison

/-- The scrub has found a sector that cannot be corrected: it is marked in HBM and counted, and the rest stands. -/
theorem State.markPoisoned_rest (s : State) (sec : Nat) : s.markPoisoned sec =
    { s with
      pf := { s.pf with hbmUncorr := countOne s.pf.hbmUncorr (stackOf (64 * sec)) }
      hbmPoison := addNum sec s.hbmPoison
      poison := if s.l2Holds sec then s.poison else addNum sec s.poison } := by
  unfold State.markPoisoned
  cases s.l2Holds sec <;> rfl

theorem exec_patrolScrub_clean (s : State) (sec : Nat) : exec (.patrolScrub sec .clean) s = .next s := by
  rw [exec_patrolScrub]
  simp [execPatrolScrub]

section
variable {sec : Nat} (h : inHbm (64 * sec) = true)
include h

theorem exec_patrolScrub_corrected : exec (.patrolScrub sec .corrected) s =
    .next { s with pf := { s.pf with hbmCorr := countOne s.pf.hbmCorr (stackOf (64 * sec)) } } := by
  rw [exec_patrolScrub]
  simp [execPatrolScrub, h]
theorem exec_patrolScrub_uncorrectable : exec (.patrolScrub sec .uncorrectable) s = .next (s.markPoisoned sec) := by
  rw [exec_patrolScrub]
  simp [execPatrolScrub, h]

end

/-- A sector marked poisoned both in HBM and where it is read. -/
def State.spoilSector (s : State) (sec : Nat) : State :=
  { s with hbmPoison := addNum sec s.hbmPoison, poison := addNum sec s.poison }

theorem State.spoilSectors_rest (line : Nat) (ks : List Nat) (s : State) :
    let q := ks.foldl (fun s k => s.spoilSector (4 * line + k)) s
    q = { s with hbmPoison := q.hbmPoison, poison := q.poison } := by
  induction ks generalizing s with
  | nil => rfl
  | cons k r ih =>
    dsimp only at ih ⊢
    rw [List.foldl_cons, ih]
    rfl

/-- What is poisoned stays poisoned, and each of the sectors becomes so. -/
theorem State.spoilSectors_poisoned (line sec : Nat) (ks : List Nat) (s : State)
    (h : (∃ k ∈ ks, sec = 4 * line + k) ∨ (s.poison.contains sec = true ∧ s.hbmPoison.contains sec = true)) :
    let q := ks.foldl (fun s k => s.spoilSector (4 * line + k)) s
    q.poison.contains sec = true ∧ q.hbmPoison.contains sec = true := by
  induction ks generalizing s with
  | nil => simpa using h
  | cons k r ih =>
    refine ih _ ?_
    simp only [State.spoilSector, contains_addNum]
    rcases h with ⟨j, hj, hs⟩ | ⟨hp, hm⟩
    · rcases List.mem_cons.mp hj with rfl | hj
      · exact .inr (by simp [hs])
      · exact .inl ⟨j, hj, hs⟩
    · exact .inr (by rw [hp, hm]; simp)

theorem State.dropTag_some {line : Nat} {l : L2Line} (h : s.l2.find line = some l) : s.dropTag line =
    ((List.range 4).filter l.dirty).foldl (fun s k => s.spoilSector (4 * line + k)) (s.writeBack line) := by
  rw [State.dropTag, h]
  rfl

theorem State.l2_dropTag {line : Nat} {l : L2Line} (h : s.l2.find line = some l) : (s.dropTag line).l2 = s.l2.drop line := by
  rw [State.dropTag_some h, State.spoilSectors_rest, State.writeBack_rest h]

theorem State.mem_dropTag {line : Nat} {l : L2Line} (h : s.l2.find line = some l) : (s.dropTag line).mem = s.mem := by
  rw [State.dropTag_some h, State.spoilSectors_rest]
  exact State.mem_writeBack s line

/-- A dirty sector of a line whose tag has failed is poisoned, and so it is written to HBM. -/
theorem State.dropTag_poisoned {sec : Nat} {l : L2Line} (h : s.l2.find (sec / 4) = some l) (hd : l.dirty (sec % 4) = true) :
    (s.dropTag (sec / 4)).poison.contains sec = true ∧ (s.dropTag (sec / 4)).hbmPoison.contains sec = true := by
  rw [State.dropTag_some h]
  exact State.spoilSectors_poisoned _ _ _ _ (.inl ⟨sec % 4, by simp [hd, Nat.mod_lt], by omega⟩)

theorem L2Line.dirty_of_ds {l : L2Line} {k : Nat} (h : l.ds.getLsbD k = true) : l.dirty k = true := by simp [L2Line.dirty, h]
theorem L2Line.clean_of_ds {l : L2Line} (h : l.ds = 0) (k : Nat) : l.dirty k = false := by simp [L2Line.dirty, h]

section
variable {sec : Nat} {l : L2Line} (h : s.l2.find (sec / 4) = some l)
include h

/-- An error in a dirty sector of the L2 poisons it; a clean one is filled again from HBM. -/
theorem exec_l2Sector_dirty (hd : l.dirty (sec % 4) = true) :
    exec (.sramUncorrectableError (.l2Sector sec)) s = .next (s.poisonHome sec) := by
  rw [exec_sramUncorrectableError]
  simp [execSramUncorrectableError, h, hd]
theorem exec_l2Sector_clean (hd : l.dirty (sec % 4) = false) :
    exec (.sramUncorrectableError (.l2Sector sec)) s = .next (s.refetch sec) := by
  rw [exec_sramUncorrectableError]
  simp [execSramUncorrectableError, h, hd]

end

/-! MACHINE-CHECK (spec/15 R335, R336): the team is torn down, with a record whose words 1 and 2 are given. -/

theorem State.team_stopTeam (s : State) (c k : Nat) : (s.stopTeam c k).team c k =
    { s.team c k with seqExited := true, eng := .empty, torn := true, haltPending := [] } := by
  simp only [State.stopTeam, State.team, State.core_onCore_same, Tab.get_put_same]
  rfl

/-- The last record that waits in context `d` becomes the error record of team slot `k` of core `c`. -/
def State.takeErr (s : State) (c k d : Nat) : State :=
  s.onTeam c k fun m => { m with errRec := some ((((s.ctx d).pend.getLast?).map (·.words)).getD []) }
/-- A grid has a team that was torn down. -/
def State.gridTorn (s : State) (gid : Nat) : State :=
  match s.grids.find gid with
  | none => s
  | some g => { s with grids := s.grids.put gid { g with torn := true } }
/-- The words of a teardown's record before SEQ and the time (spec/15 R335). -/
def State.tornRecord (s : State) (u : UnitId) (ecode cmd : Nat) : List Dword :=
  [0, BitVec.ofNat 64 cmd, BitVec.ofNat 64 (s.place u + ecode * 2 ^ 40 + 2 ^ 63)]

theorem State.tearTeam_eq (s : State) (u : UnitId) (ecode cmd : Nat) : s.tearTeam u ecode cmd =
    ((((s.stopTeam u.place (s.teamSlot u)).pushRecord u.place (s.ctxOf u) (s.tornRecord u ecode cmd) none none).takeErr
      u.place (s.teamSlot u) (s.ctxOf u)).gridTorn (s.gridOf u)) := rfl

theorem State.team_gridTorn (s : State) (gid c k : Nat) : (s.gridTorn gid).team c k = s.team c k := by
  unfold State.gridTorn
  split <;> rfl

/-- A team that has been torn down, with its error record. -/
def Team.tornWith (m : Team) (words : List Dword) : Team :=
  { m with seqExited := true, eng := .empty, torn := true, haltPending := [], errRec := some words }

theorem State.words_newRecord (s : State) (nd c : Nat) (w : List Dword) (out : Option Requester) :
    ∃ v, (s.newRecord nd c w out).words = w ++ [v] := ⟨_, rfl⟩

theorem State.team_tearTeam (s : State) (u : UnitId) (ecode cmd : Nat) :
    ∃ v, (s.tearTeam u ecode cmd).team u.place (s.teamSlot u) = (s.teamOf u).tornWith (s.tornRecord u ecode cmd ++ [v]) := by
  obtain ⟨v, hv⟩ := (s.stopTeam u.place (s.teamSlot u)).words_newRecord u.place (s.ctxOf u) (s.tornRecord u ecode cmd) none
  refine ⟨v, ?_⟩
  rw [State.tearTeam_eq, State.team_gridTorn, State.takeErr, State.team_onTeam_same, State.team_pushRecord, State.team_stopTeam,
    State.pend_pushRecord, List.getLast?_concat, Option.map_some, Option.getD_some, hv]
  rfl

theorem State.teamTorn_tearTeam_seq (s : State) (c k ecode cmd : Nat) :
    s.TeamTorn (s.tearTeam (.seq c k) ecode cmd) (.seq c k) ecode (BitVec.ofNat 64 cmd) := by
  obtain ⟨v, h⟩ := s.team_tearTeam (.seq c k) ecode cmd
  have hteam : (s.tearTeam (.seq c k) ecode cmd).teamOf (.seq c k) = _ := h
  have hexit : ((s.tearTeam (.seq c k) ecode cmd).team c k).seqExited = true := congrArg Team.seqExited h
  refine ⟨congrArg Team.torn hteam, hexit, ?_, by rw [hteam]; rfl⟩
  rw [State.alive, hexit, Bool.not_true, Bool.and_false]

theorem State.machineCheck_resident {c k : Nat} (hres : (s.core c).teams.has k = true) (htorn : (s.team c k).torn = false) :
    s.machineCheck c k = s.tearTeam (.seq c k) 0x12 (1 + 0x3F * 256) := by
  simp [State.machineCheck, hres, htorn]

end Sys2Proof.Machine

namespace Sys2Proof.Machine

variable {s t : State}

/-! Mirror writes that come to a die (spec/04 R104). -/

theorem Mirror.beats_iff (m : Mirror) (sum die a : Nat) :
    m.beats sum die a = true ↔ ∀ c, m.cur.find a = some c → c.1 < sum ∨ (c.1 = sum ∧ c.2 < die) := by
  unfold Mirror.beats
  cases m.cur.find a with
  | none => simp
  | some c => simp [@eq_comm Nat sum]

theorem Mirror.arrives_iff (m : Mirror) (d : Nat) (w : MirrorWrite) : m.arrives d w = true ↔
    d ∉ w.applied ∧ m.count d w.die + 1 = w.vc.getD w.die 0 ∧ ∀ k, k < 8 → k ≠ w.die → w.vc.getD k 0 ≤ m.count d k := by
  simp [Mirror.arrives, and_assoc, or_iff_not_imp_left]

theorem replica_eq {off : Nat} (h : off < 2 ^ 37) (d : Nat) : replica off d = off + d * 2 ^ 37 := by
  rw [replica, dieOf, Nat.div_eq_of_lt h, Nat.zero_mod, Nat.zero_mul, Nat.sub_zero]

theorem getD_of_zeros {bs : List Byte} (h : ∀ b ∈ bs, b = 0) (i : Nat) : bs.getD i 0 = 0 := by
  by_cases hi : i < bs.length
  · rw [List.getD_eq_getElem _ _ hi]
    exact h _ (List.getElem_mem hi)
  · exact List.getD_eq_default _ _ (Nat.le_of_not_lt hi)

theorem State.mem_zeroLine (s : State) (pa n : Nat) (zel : Bool) (a : Nat) :
    (s.zeroLine pa n zel).mem.get a = if pa ≤ a ∧ a < pa + n then 0 else s.mem.get a := by
  have hzero (n i : Nat) : (List.replicate n (0 : Byte)).getD i 0 = 0 := getD_of_zeros (fun _ => List.eq_of_mem_replicate) i
  unfold State.zeroLine
  split
  · next h =>
    obtain rfl : n = 256 := of_decide_eq_true (Bool.and_eq_true_iff.mp h).1
    rw [State.mem_l2Hold, Mem.get_write, List.length_replicate, hzero]
  · rw [State.get_writeHome, List.length_replicate, hzero]

/-- Bytes of `bs` written one by one, each to its place from `pa` up. -/
theorem State.mem_writeBytes (pa : Nat) (bs : List Byte) (pol a : Nat) (won : List Nat) (s : State) :
    (won.foldl (fun s i => s.writeHome (pa + i) [bs.getD i 0] pol) s).mem.get a =
      if pa ≤ a ∧ a - pa ∈ won then bs.getD (a - pa) 0 else s.mem.get a := by
  induction won generalizing s with
  | nil => simp
  | cons i r ih =>
    rw [List.foldl_cons, ih, State.get_writeHome, List.length_singleton]
    by_cases hr : pa ≤ a ∧ a - pa ∈ r
    · rw [if_pos hr, if_pos ⟨hr.1, List.mem_cons_of_mem _ hr.2⟩]
    · rw [if_neg hr]
      by_cases hi : pa ≤ a ∧ a - pa = i
      · obtain ⟨hle, rfl⟩ := hi
        rw [if_pos (by omega), if_pos ⟨hle, List.mem_cons_self⟩, Nat.add_sub_cancel' hle, Nat.sub_self]
        rfl
      · rw [if_neg (by omega), if_neg]
        rintro ⟨hle, hmem⟩
        rcases List.mem_cons.mp hmem with h | h
        · exact hi ⟨hle, h⟩
        · exact hr ⟨hle, h⟩

/-- The bytes of a mirror write that beat their current writers, by their places in it. -/
def State.mirrorWon (s : State) (pa : Nat) (w : MirrorWrite) : List Nat :=
  (List.range w.bytes.length).filter fun i => s.mirror.beats (clockSum w.vc) w.die (pa + i)

theorem State.mem_mirrorWon {pa i : Nat} {w : MirrorWrite} :
    i ∈ s.mirrorWon pa w ↔ i < w.bytes.length ∧ s.mirror.beats (clockSum w.vc) w.die (pa + i) = true := by
  simp [State.mirrorWon]

/-- Where all of its bytes win, a mirror write is one access, and otherwise one for each byte that wins; home memory is the same. -/
theorem State.mem_mirrorPut (s : State) (pa : Nat) {w : MirrorWrite} (hz : w.zero ≠ none → ∀ b ∈ w.bytes, b = 0) (a : Nat) :
    (s.mirrorPut pa w (s.mirrorWon pa w)).mem.get a =
      if pa ≤ a ∧ a - pa ∈ s.mirrorWon pa w then w.bytes.getD (a - pa) 0 else s.mem.get a := by
  unfold State.mirrorPut
  split
  · next hall =>
    have hmem : ∀ i, i ∈ s.mirrorWon pa w ↔ i < w.bytes.length := by
      have hfull : s.mirrorWon pa w = List.range w.bytes.length :=
        List.filter_sublist.eq_of_length (by rw [List.length_range]; exact hall)
      intro i
      rw [hfull, List.mem_range]
    have hrange : (pa ≤ a ∧ a < pa + w.bytes.length) ↔ (pa ≤ a ∧ a - pa ∈ s.mirrorWon pa w) := by
      rw [hmem]
      omega
    split
    · next zel hzel =>
      rw [State.mem_zeroLine]
      exact if_congr hrange (getD_of_zeros (hz (by simp [hzel])) _).symm rfl
    · rw [State.get_writeHome]
      exact if_congr hrange rfl rfl
  · exact State.mem_writeBytes pa w.bytes w.pol a _ s

theorem State.mem_mirrorApply (s : State) (d : Nat) {w : MirrorWrite} (hz : w.zero ≠ none → ∀ b ∈ w.bytes, b = 0) (a : Nat) :
    (s.mirrorApply d w).mem.get a = if replica w.off d ≤ a ∧ a - replica w.off d ∈ s.mirrorWon (replica w.off d) w
      then w.bytes.getD (a - replica w.off d) 0 else s.mem.get a := by
  rw [← State.mem_mirrorPut s _ hz]
  simp only [State.mirrorApply]
  split <;> rfl

theorem State.mem_mirrorApply_at (s : State) (d : Nat) {w : MirrorWrite} (hz : w.zero ≠ none → ∀ b ∈ w.bytes, b = 0) (i : Nat) :
    (s.mirrorApply d w).mem.get (replica w.off d + i) =
      if i ∈ s.mirrorWon (replica w.off d) w then w.bytes.getD i 0 else s.mem.get (replica w.off d + i) := by
  rw [State.mem_mirrorApply s d hz, Nat.add_sub_cancel_left]
  exact if_congr (and_iff_right (Nat.le_add_right _ _)) rfl rfl

theorem State.mem_mirrorApply_other (s : State) (d : Nat) {w : MirrorWrite} (hz : w.zero ≠ none → ∀ b ∈ w.bytes, b = 0) {a : Nat}
    (ha : ¬ (replica w.off d ≤ a ∧ a < replica w.off d + w.bytes.length)) : (s.mirrorApply d w).mem.get a = s.mem.get a := by
  rw [State.mem_mirrorApply s d hz, if_neg]
  rintro ⟨hle, hmem⟩
  have hlt := (State.mem_mirrorWon.mp hmem).1
  omega

/-- A mirror write from poison poisons the sector where a byte of it wins. -/
theorem State.poison_mirrorApply (s : State) (d : Nat) {w : MirrorWrite} (hbad : w.bad = true) {i : Nat}
    (hi : i ∈ s.mirrorWon (replica w.off d) w) : (s.mirrorApply d w).poison.contains (replica w.off d / 64) = true := by
  have hwon : (s.mirrorWon (replica w.off d) w).isEmpty = false := List.isEmpty_eq_false_iff_exists_mem.mpr ⟨i, hi⟩
  have happ : (s.mirrorApply d w).poison =
      ((s.mirrorPut (replica w.off d) w (s.mirrorWon (replica w.off d) w)).spoilHome (replica w.off d / 64)).poison := by
    rw [State.mirrorWon] at hwon
    simp only [State.mirrorApply, hbad, hwon]
    rfl
  rw [happ]
  exact State.poison_poisonHome_same _ _

section
variable {d idx : Nat} {w : MirrorWrite} (hw : s.mirror.flight[idx]? = some w)
include hw

theorem State.mirrorArrive_waits (h : ¬ s.mirror.arrives d w = true) : s.mirrorArrive d idx = s := by
  simp [State.mirrorArrive, hw, h]

/-- Its clock counts the write; the rest of what happens is what applying it does, but for the list of those in flight. -/
theorem State.mirrorArrive_applies (h : s.mirror.arrives d w = true) :
    ∃ m : Mirror, s.mirrorArrive d idx = { s.mirrorApply d w with mirror := m } ∧ m.count d w.die = w.vc.getD w.die 0 := by
  have harr : s.mirrorArrive d idx = { s.mirrorApply d w with mirror := (s.mirrorArrive d idx).mirror } := by
    simp only [State.mirrorArrive, hw, h]
    rfl
  have hvc : (s.mirrorArrive d idx).mirror.vc = (s.mirrorApply d w).mirror.vc.put (d * 8 + w.die) (w.vc.getD w.die 0) := by
    simp only [State.mirrorArrive, hw, h]
    rfl
  exact ⟨_, harr, by rw [Mirror.count, hvc, Tab.get_put_same]⟩

end

/-! Parity errors of the read caches (spec/02 R60). -/

/-- A line that a read cache no longer holds, of its instruction lines or its data lines. -/
def Caches.dropLine (m : Caches) (code : Bool) (line : Nat) : Caches :=
  if code then { m with code := m.code.drop line } else { m with l1 := m.l1.drop line }

/-- The four places of a parity error, by their node. -/
theorem exec_cacheParityError_node {n line : Nat} {ev : Instr} {code : Bool} (hn : n < 576)
    (h : (ev, code) ∈
      (if n < 512 then [(Instr.cacheParityError (.l1 n line), false), (.cacheParityError (.code n line), true)]
       else [(.cacheParityError (.lanternData (n - 512) line), false), (.cacheParityError (.lanternCode (n - 512) line), true)])) :
    exec ev s = .next (s.onCaches n fun m => m.dropLine code line) := by
  split at h
  · next hcore =>
    have hmod : n % 512 = n := Nat.mod_eq_of_lt hcore
    simp only [List.mem_cons, Prod.mk.injEq, List.not_mem_nil, or_false] at h
    rcases h with ⟨rfl, rfl⟩ | ⟨rfl, rfl⟩ <;> rw [exec_cacheParityError, execCacheParityError, hmod] <;> rfl
  · next hlant =>
    have hmod : 512 + (n - 512) % 64 = n := by omega
    simp only [List.mem_cons, Prod.mk.injEq, List.not_mem_nil, or_false] at h
    rcases h with ⟨rfl, rfl⟩ | ⟨rfl, rfl⟩ <;> rw [exec_cacheParityError, execCacheParityError, hmod] <;> rfl

/-! SPLITCFG (spec/02 R49, R50). -/

/-- The `n` cores from `base` up, each changed by `f`. -/
def State.onCores (s : State) (base n : Nat) (f : Core → Core) : State :=
  (List.range n).foldl (fun s i => s.onCore (base + i) f) s

theorem State.onCores_succ (s : State) (base n : Nat) (f : Core → Core) :
    s.onCores base (n + 1) f = (s.onCores base n f).onCore (base + n) f := by
  rw [State.onCores, List.range_succ, List.foldl_append]
  rfl

theorem State.onCores_rest (s : State) (base n : Nat) (f : Core → Core) :
    s.onCores base n f = { s with cores := (s.onCores base n f).cores } := by
  induction n with
  | zero => rfl
  | succ n ih =>
    rw [State.onCores_succ, ih]
    rfl

theorem State.core_onCores (s : State) (base n : Nat) (f : Core → Core) (c : Nat) :
    (s.onCores base n f).core c = if base ≤ c ∧ c < base + n then f (s.core c) else s.core c := by
  induction n with
  | zero => rw [if_neg (by omega)]; rfl
  | succ n ih =>
    rw [State.onCores_succ, State.core_onCore]
    by_cases h : c = base + n
    · rw [if_pos h, if_pos (by omega), ← h, ih, if_neg (by omega)]
    · rw [if_neg h, ih]
      exact if_congr (by omega) rfl rfl

/-- A core after its SRAM is split anew: its L1 empty, its scratchpad zero. -/
def Core.splitAnew (q : Core) : Core := { q with sp := [], spPoison := [], mc := q.mc.noLines }

theorem State.standHeld_iff (s : State) (k : Nat) :
    s.standHeld k = true ↔ ∃ i, i < 8 ∧ (s.core (8 * k + i)).teams.cells ≠ [] := by
  simp [State.standHeld]

/-- A write is ignored, or the stand has its new split and its cores begin with it. -/
theorem State.writeSplit_eq (s : State) (k : Nat) (v : Dword) : s.writeSplit k v =
    if v.toNat % 8 = 0 ∨ s.standHeld k = true ∨ v.toNat % 8 = s.pf.split.get k 4 then s
    else State.onCores { s with pf := { s.pf with split := s.pf.split.put k (v.toNat % 8) } } (8 * k) 8 Core.splitAnew := by
  have hn : fld v 0 3 = v.toNat % 8 := by simp [fld]
  unfold State.writeSplit
  rw [hn]
  refine if_congr ?_ rfl rfl
  simp only [Bool.or_eq_true, decide_eq_true_eq, or_assoc]
  rfl

theorem exec_splitcfgWrite_of_up (hup : s.up = true) {k : Nat} (hk : k < 64) (v : Dword) :
    exec (.splitcfgWrite k v) s = .next (s.writeSplit k v) := by
  rw [exec_splitcfgWrite, execSplitcfgWrite, if_pos hup, Nat.mod_eq_of_lt hk]

end Sys2Proof.Machine

namespace Sys2Proof.Machine

/-- Settles O46, one event at a time: a line's write-back is its four sectors', the scrub and the errors of on-die storage mark what
they name, a parity error drops a line of one node's caches, a mirror write is applied where it beats, and SPLITCFG is a stand's
eight cores'. -/
theorem memoryEvents : Obligations.MemoryEvents := by
  unfold Obligations.MemoryEvents
  intro s
  refine ⟨fun line => ?writeBack, fun sec hin => ?scrub, fun c off tm sec l => ?sram, fun n line ev code hev hn => ?parity,
    fun d idx w hd hw hoff hz => ?mirror, fun k v hk hup => ?split⟩
  case writeBack =>
    refine ⟨fun h => by rw [exec_l2WriteBack, execL2WriteBack, State.writeBack_none h], fun l h => ?_⟩
    intro dirty
    refine ⟨s.writeBack line, rfl, State.writeBack_rest h, fun sec => ?_, fun sec => ⟨fun hd => ?_, fun hd => ?_⟩⟩
    · by_cases hd : sec / 4 = line ∧ l.dirty (sec % 4) = true
      · rw [if_neg fun hc => hc.2 hd.2]
        exact congrArg SectorBelow.poison (State.below_writeBack_dirty h hd)
      · refine (congrArg SectorBelow.poison (State.below_writeBack_clean h hd)).trans (if_congr ?_ rfl rfl)
        exact (and_iff_left_of_imp fun hs hdirty => hd ⟨hs, hdirty⟩).symm
    · obtain ⟨-, hmark, hbytes⟩ := SectorBelow.mk.inj (State.below_writeBack_dirty h hd)
      exact ⟨hbytes, hmark⟩
    · obtain ⟨-, hmark, hbytes⟩ := SectorBelow.mk.inj (State.below_writeBack_clean h hd)
      exact ⟨hbytes, hmark⟩
  case scrub =>
    intro st held
    have hheld : held ↔ s.l2Holds sec = true := (s.l2Holds_iff sec).symm
    refine ⟨exec_patrolScrub_clean s sec, ⟨_, exec_patrolScrub_corrected hin, rfl, ?_, fun n hne => ?_⟩,
      _, exec_patrolScrub_uncorrectable hin, ?_⟩
    · exact (countOne_get _ _ _).trans (if_pos rfl)
    · exact (countOne_get _ _ _).trans (if_neg hne)
    · rw [State.markPoisoned_rest, hheld]
      refine ⟨rfl, (countOne_get _ _ _).trans (if_pos rfl), ?_, fun h => if_pos h, fun h => ?_⟩
      · exact contains_addNum_same sec _
      · simp only [if_neg h, contains_addNum]
        exact ⟨by simp, fun n hne => by simp [hne]⟩
  case sram =>
    refine ⟨fun h hd => ?_, fun h hd => ?_, fun h => ?_, fun h => ?_, ?_, fun hres htorn => ?_⟩
    · exact ⟨_, exec_l2Sector_dirty h (L2Line.dirty_of_ds hd), rfl, State.poison_poisonHome_same s sec⟩
    · refine ⟨_, exec_l2Sector_clean h (L2Line.clean_of_ds hd _), rfl, ?_⟩
      exact (congrArg SectorBelow.poison (State.below_refetch s sec sec)).trans (by rw [if_pos rfl]; rfl)
    · rw [exec_sramUncorrectableError, execSramUncorrectableError, h]
    · refine ⟨s.dropTag (sec / 4), rfl, ?_, State.mem_dropTag h, fun hd => State.dropTag_poisoned h (L2Line.dirty_of_ds hd)⟩
      rw [State.l2_dropTag h, Tab.find_drop_same]
    · refine ⟨_, rfl, rfl, ?_, ?_⟩
      · rw [State.core_onCore_same]
      · rw [State.core_onCore_same]
        exact contains_addNum_same _ _
    · refine ⟨s.machineCheck c tm, rfl, ?_⟩
      rw [State.machineCheck_resident hres htorn]
      exact State.teamTorn_tearTeam_seq s c tm 0x12 _
  case parity =>
    refine ⟨_, exec_cacheParityError_node hn hev, State.memoryOnly_onCaches s n _, State.mem_onCaches s n _,
      fun m hm => State.caches_onCaches_other s hm _, caches_onCaches s n hn _⟩
  case mirror =>
    intro comes sum
    rw [exec_mirrorWriteApply, execMirrorWriteApply, Nat.mod_eq_of_lt hd]
    have hcomes (h8 : w.die < 8) : comes ↔ s.mirror.arrives d w = true := by
      rw [Mirror.arrives_iff]
      exact and_congr_right fun _ => and_iff_right h8
    refine ⟨fun h h8 => by rw [State.mirrorArrive_waits hw ((hcomes h8).not.mp h)], fun h => ?_⟩
    obtain ⟨-, h8, -⟩ := id h
    obtain ⟨m, ht, hcount⟩ := State.mirrorArrive_applies hw ((hcomes h8).mp h)
    refine ⟨_, rfl, (State.homeOnly_mirrorArrive s d idx).memory, by rw [ht]; exact hcount, fun i hi => ?_, fun a ha => ?_⟩
    · intro a wins
      have hrep : replica w.off d = w.off + d * 2 ^ 37 := replica_eq (by omega) d
      have ha : a = replica w.off d + i := by rw [hrep, Nat.add_right_comm]
      have hwins : wins ↔ i ∈ s.mirrorWon (replica w.off d) w := by
        rw [State.mem_mirrorWon, Mirror.beats_iff, ← ha]
        exact (and_iff_right hi).symm
      rw [ht, hwins, ha, ← hrep]
      refine ⟨fun h => ?_, fun h => ?_, fun h hbad => State.poison_mirrorApply s d hbad h⟩
      · exact (State.mem_mirrorApply_at s d hz i).trans (if_pos h)
      · exact (State.mem_mirrorApply_at s d hz i).trans (if_neg h)
    · rw [ht]
      refine State.mem_mirrorApply_other s d hz fun hin => ha ?_
      rwa [replica_eq (by omega), Nat.add_right_comm] at hin
  case split =>
    intro held n
    have hheld : held ↔ s.standHeld k = true := (s.standHeld_iff k).symm
    rw [exec_splitcfgWrite_of_up hup hk, State.writeSplit_eq, hheld]
    refine ⟨fun h => by rw [if_pos h], fun h0 hh hnew => ⟨_, by rw [if_neg (not_or.mpr ⟨h0, not_or.mpr ⟨hh, hnew⟩⟩)], ?_, fun i hi => ?_, fun c hc => ?_⟩⟩
    · exact State.onCores_rest _ _ _ _
    · rw [State.core_onCores, if_pos (by omega)]
      rfl
    · rw [State.core_onCores, if_neg hc]
      rfl

end Sys2Proof.Machine

namespace Sys2Proof.Machine

variable {s t : State}

/-! Reads at home (spec/04 R108): they move sectors between the slices and HBM, and no byte that is read changes. -/

/-- Only what the slices hold of lines, what HBM holds of sectors, and which of them are poisoned, have changed. -/
def State.SlicesOnly (s t : State) : Prop :=
  t = { s with l2 := t.l2, hbm := t.hbm, hbmPoison := t.hbmPoison, poison := t.poison }

theorem State.SlicesOnly.refl (s : State) : s.SlicesOnly s := rfl
theorem State.SlicesOnly.trans {r : State} (h : s.SlicesOnly t) (k : t.SlicesOnly r) : s.SlicesOnly r := by
  unfold State.SlicesOnly at *
  rw [k, h]
theorem slicesOnly_foldl {β : Type} (f : State → β → State) (l : List β) (s : State) (hf : ∀ (s : State) b, s.SlicesOnly (f s b)) :
    s.SlicesOnly (l.foldl f s) := by
  induction l generalizing s with
  | nil => exact .refl s
  | cons b r ih => exact (hf s b).trans (ih (f s b))
theorem State.slicesOnly_writeBack (s : State) (line : Nat) : s.SlicesOnly (s.writeBack line) := by
  cases h : s.l2.find line with
  | none =>
    rw [State.writeBack_none h]
    exact .refl s
  | some l =>
    unfold State.SlicesOnly
    rw [State.writeBack_rest h]
theorem State.slicesOnly_l2Room (s : State) (line : Nat) (way : Bool) : s.SlicesOnly (s.l2Room line way) := by
  simp only [State.l2Room]
  split
  · exact .refl s
  · split
    · exact State.slicesOnly_writeBack s _
    · split
      · exact State.slicesOnly_writeBack s _
      · exact .refl s
theorem State.slicesOnly_l2Hold (s : State) (line : Nat) (l : L2Line) : s.SlicesOnly (s.l2Hold line l) := by
  have hput (q : State) (h : s.SlicesOnly q) : s.SlicesOnly { q with l2 := q.l2.put line l } := h.trans rfl
  simp only [State.l2Hold]
  apply hput
  split
  · exact State.slicesOnly_l2Room s _ _
  · split
    · split
      · exact State.slicesOnly_l2Room s _ _
      · exact .refl s
    · exact State.slicesOnly_l2Room s _ _
theorem State.slicesOnly_fillL2 (s : State) (pa pol : Nat) (zel : Bool) : s.SlicesOnly (s.fillL2 pa pol zel) := by
  simp only [State.fillL2]
  split
  · exact .refl s
  · split
    · split
      · exact .refl s
      · exact State.slicesOnly_l2Hold s _ _
    · split <;> exact State.slicesOnly_l2Hold s _ _

/-! Posted writes and reads of the host and of peers. -/

/-- `t` is `s` with `data` at home from `a` on, and of the rest only what memory needs to hold it. -/
def State.Stored (s t : State) (a : Nat) (data : List Byte) : Prop :=
  s.MemoryOnly t ∧ t.cores = s.cores ∧ t.lanterns = s.lanterns ∧ t.mem.read a data.length = data ∧
    ∀ b, ¬ (a ≤ b ∧ b < a + data.length) → t.mem.get b = s.mem.get b

/-- `t` is `s` once the `n` bytes at home from `a` on have been returned. -/
def State.Returned (s t : State) (a n : Nat) : Prop :=
  t = { s with l2 := t.l2, hbm := t.hbm, hbmPoison := t.hbmPoison, poison := t.poison, hostData := s.mem.read a n, hostBad := false }

/-- `t` is `s` once `n` poisoned bytes have been returned. -/
def State.ReturnedBad (s t : State) (n : Nat) : Prop :=
  t = { s with hostData := t.hostData, hostBad := true, freeIdx := t.freeIdx } ∧ t.hostData.length = n

/-- The state once `n` bytes at home from `a` on have been returned, each sector read at its slice. -/
def State.handOut (s : State) (a n : Nat) : State :=
  (pieces 64 a n).foldl (fun s p => s.fillL2 p.1 1 false) (s.returns (s.mem.read a n) false)

/-- The state once `n` poisoned bytes have been returned, of a value left free (notes/assumptions/9.md). -/
def State.handOutBad (s : State) (n : Nat) : State := s.spend.returns (natLe n s.freeVal) true

theorem State.stored_writeHome (s : State) (a : Nat) (data : List Byte) (pol : Nat) :
    s.Stored (s.writeHome a data pol) a data := by
  have h : s.HomeOnly (s.writeHome a data pol) := State.homeOnly_writeHome s a data pol
  exact ⟨h.memory, by rw [h], by rw [h], State.read_writeHome_same s a data pol,
    fun b hb => (State.get_writeHome s a data pol b).trans (if_neg hb)⟩

theorem State.returned_handOut (s : State) (a n : Nat) : s.Returned (s.handOut a n) a n := by
  have h : (s.returns (s.mem.read a n) false).SlicesOnly (s.handOut a n) :=
    slicesOnly_foldl _ _ _ fun q p => State.slicesOnly_fillL2 q p.1 1 false
  exact h

theorem State.returnedBad_handOutBad (s : State) (n : Nat) : s.ReturnedBad (s.handOutBad n) n :=
  ⟨rfl, natLe_length n s.freeVal⟩

theorem rangeInHbm_iff (a n : Nat) : rangeInHbm a n = true ↔ a + n ≤ Config.hbmBytes := decide_eq_true_iff

theorem exec_hostPostedWrite_eq (s : State) (a : Nat) (data : List Byte) : exec (.hostPostedWrite a data) s =
    .next (if s.up = true ∧ a + data.length ≤ Config.hbmBytes then s.writeHome a data 1 else s) := by
  rw [exec_hostPostedWrite, execHostPostedWrite]
  simp only [Bool.and_eq_true, rangeInHbm_iff]

theorem exec_hostRead_eq (s : State) (a n : Nat) : exec (.hostRead a n) s =
    .next (if s.up = true ∧ a + n ≤ Config.hbmBytes then if s.poisoned a n then s.handOutBad n else s.handOut a n else s) := by
  rw [exec_hostRead, execHostRead]
  by_cases h : s.up = true ∧ a + n ≤ Config.hbmBytes
  · have hgo : (!s.up || !rangeInHbm a n) = false := by simp [h, rangeInHbm]
    rw [if_pos h, hgo]
    rfl
  · have hstay : (!s.up || !rangeInHbm a n) = true := by simpa [rangeInHbm, or_iff_not_imp_left] using h
    rw [if_neg h, if_pos hstay]

theorem Peer.refuses_iff (k : Peer) (off n : Nat) : k.refuses off n = true ↔
    k.accept = false ∨ Config.hbmBytes < off + n ∨ off / 2 ^ 20 < k.lo ∨ k.hi < (off + n - 1) / 2 ^ 20 := by
  simp [Peer.refuses, rangeInHbm, or_assoc]

theorem exec_peerAccessArrival_down {p : Nat} (hp : p < 16) (off n : Nat) (d : Option (List Byte))
    (h : s.up = false ∨ (s.peer p).en = false ∨ (s.peer p).up = false) : exec (.peerAccessArrival p off n d) s = .next s := by
  rw [exec_peerAccessArrival, execPeerAccessArrival, Nat.mod_eq_of_lt hp]
  rcases h with h | h | h <;> simp [h]

section
variable {p : Nat} (hp : p < 16) (hup : s.up = true) (hen : (s.peer p).en = true) (hlink : (s.peer p).up = true)
include hp hup hen hlink

theorem exec_peerAccessArrival_write (off n : Nat) (data : List Byte) : exec (.peerAccessArrival p off n (some data)) s =
    .next (if (s.peer p).refuses off data.length then s.onPeer p fun k => { k with refused := k.refused + 1 }
      else s.writeHome off data 1) := by
  rw [exec_peerAccessArrival, execPeerAccessArrival, Nat.mod_eq_of_lt hp]
  simp [hup, hen, hlink]

theorem exec_peerAccessArrival_read (off n : Nat) : exec (.peerAccessArrival p off n none) s =
    .next (if (s.peer p).refuses off n || s.poisoned off n then s.handOutBad n else s.handOut off n) := by
  rw [exec_peerAccessArrival, execPeerAccessArrival, Nat.mod_eq_of_lt hp]
  simp [hup, hen, hlink, State.handOut, State.handOutBad]

end

end Sys2Proof.Machine

namespace Sys2Proof.Machine

variable {s t : State}

/-! The aperture (spec/16 R346): through which link, and what one sector comes to. -/

/-- A grove's function is there on the one link that the grove is bound to (spec/16 R344). -/
theorem State.presents_grove {g : Nat} (hg : g < 64) (m : Nat) :
    s.presents m (g + 1) = true ↔ m = if s.pf.grvlink.get g false then 1 else 0 := by
  simp only [State.presents, State.linkOf, Nat.add_sub_cancel, Bool.and_eq_true, Bool.or_eq_true, decide_eq_true_eq, beq_iff_eq]
  split <;> omega

theorem exec_apertureAccess_here {g : Nat} (hg : g < 64) (off n : Nat) (d : Option (List Byte)) :
    exec (.apertureAccess ⟨if s.pf.grvlink.get g false then 1 else 0, g⟩ off n d) s = .next (s.aperture g off n d) := by
  rw [exec_apertureAccess, execApertureAccess, if_pos ((State.presents_grove hg _).mpr rfl)]

theorem exec_apertureAccess_elsewhere {g m : Nat} (hg : g < 64) (hm : m ≠ if s.pf.grvlink.get g false then 1 else 0) (off n : Nat)
    (d : Option (List Byte)) : exec (.apertureAccess ⟨m, g⟩ off n d) s = .next s := by
  rw [exec_apertureAccess, execApertureAccess, if_neg ((State.presents_grove hg m).not.mpr hm)]

/-- A stretch that lies within one block is one piece. -/
theorem pieces_of_fits {k a n : Nat} (hn : 0 < n) (h : a % k + n ≤ k) : pieces k a n = [(a, n)] := by
  have hk : 0 < k := by omega
  have ha := Nat.div_add_mod a k
  have hmul : a / k * k = k * (a / k) := Nat.mul_comm _ _
  have hend : (a / k + 1) * k = k * (a / k) + k := by rw [Nat.add_mul, Nat.one_mul, hmul]
  have hlast : (a + n - 1) / k = a / k :=
    (Nat.div_eq_iff hk).mpr ⟨by omega, by omega⟩
  have hlo : max a (a / k * k) = a := by omega
  have hlen : min (a + n) ((a / k + 1) * k) - a = n := by omega
  simp [pieces, hlast, hlo, hlen, Nat.ne_of_gt hn]

/-- The bytes of an access: those that it writes, or the `n` that it reads. -/
def accessLength (n : Nat) (d : Option (List Byte)) : Nat := d.elim n List.length

/-- The context that grove `g`'s aperture translates in. -/
def State.apertureCtx (s : State) (g : Nat) : Nat := (s.grove g).apctx.toNat

/-- The virtual address that offset `off` of grove `g`'s aperture stands for. -/
def State.apertureVa (s : State) (g off : Nat) : Nat := (s.grove g).apbase.toNat + off

/-- The fault record of an access through grove `g`'s aperture (spec/01 R38): SRC 1 and ENG 15. -/
def apertureRecord (c g : Nat) (f : Flt) : List Dword := [f.addr, 0, recWord2 (c + g * 2 ^ 12) f 1 15]

theorem State.aperture_down (h : s.up = false) (g off n : Nat) (d : Option (List Byte)) : s.aperture g off n d = s := by
  simp [State.aperture, h]

theorem State.aperture_otherGrove {g off n : Nat} {d : Option (List Byte)} (hup : s.up = true)
    (hgrove : (s.ctx (s.apertureCtx g)).desc.grove ≠ g) (hin : off + accessLength n d ≤ 2 ^ 38) :
    s.aperture g off n d = if d.isSome then s else s.returns (List.replicate (accessLength n d) 0xFF) false := by
  rw [State.apertureCtx] at hgrove
  have hlen := Nat.not_lt.mpr hin
  cases d with
  | none =>
    rw [accessLength, Option.elim] at hlen ⊢
    simp [-Nat.reducePow, State.aperture, hup, hgrove, hlen]
  | some b => simp [State.aperture, hup, hgrove]

/-- An access of grove `g`'s aperture, in a context of the grove, that lies within one sector. -/
structure State.InOneSector (s : State) (g off len : Nat) : Prop where
  up : s.up = true
  grove : (s.ctx (s.apertureCtx g)).desc.grove = g
  nonempty : 0 < len
  sector : s.apertureVa g off % 64 + len ≤ 64
  inside : off + len ≤ 2 ^ 38

/-- What one sector's outcome leaves, in context `c` of grove `g`: a write has reached memory, a read returns its bytes, and a fault
returns all ones to a read and has its record. -/
def State.apertureOutcome (s : State) (c g n : Nat) (d : Option (List Byte)) : Except Flt (State × List Byte) → State
  | .ok (t, b) => if d.isSome then t else t.returns b false
  | .error f => (if d.isSome then s else s.returns (List.replicate n 0xFF) false).report mgmtNode c [apertureRecord c g f] none none

theorem State.aperture_oneSector {g off n : Nat} {d : Option (List Byte)} {r : Except Flt (State × List Byte)}
    (h : s.InOneSector g off (accessLength n d))
    (hr : s.apertureOne (s.apertureCtx g) (BitVec.ofNat 64 (s.apertureVa g off)) (accessLength n d) d = r) :
    s.aperture g off n d = s.apertureOutcome (s.apertureCtx g) g n d r := by
  obtain ⟨hup, hgrove, hpos, hsector, hin⟩ := h
  have hone := pieces_of_fits hpos hsector
  have hlen := Nat.not_lt.mpr hin
  rw [State.apertureCtx] at hgrove hr ⊢
  rw [State.apertureVa] at hone hr
  cases d with
  | none =>
    rw [accessLength, Option.elim] at hone hlen hr
    cases r <;> simp [-Nat.reducePow, State.aperture, hup, hgrove, hlen, hone, hr, State.apertureOutcome, apertureRecord]
  | some b =>
    rw [accessLength, Option.elim] at hone hlen hr
    cases r <;> simp [-Nat.reducePow, State.aperture, hup, hgrove, hlen, hone, hr, State.apertureOutcome, apertureRecord]

/-! One sector of the aperture: a read returns what is at home, a write reaches it, and the leaf is used (spec/01 R33). -/

theorem State.apertureOne_read_error {c n : Nat} {va : Dword} {f : Flt} (h : s.translate mgmtNode c va .load = .error f) :
    s.apertureOne c va n none = .error f := by
  rw [State.apertureOne, h]
  rfl

theorem State.apertureOne_write_error {c n : Nat} {va : Dword} {f : Flt} {b : List Byte}
    (h : s.translate mgmtNode c va .store = .error f) : s.apertureOne c va n (some b) = .error f := by
  rw [State.apertureOne, h]
  rfl

theorem State.apertureOne_write_ok {c n : Nat} {va : Dword} {x : Xlat} {b : List Byte}
    (h : s.translate mgmtNode c va .store = .ok x) : s.apertureOne c va n (some b) = .ok (s.frontPut c va x b, []) := by
  rw [State.apertureOne, h]
  rfl

theorem State.seeHome_mgmt (s : State) (a n : Nat) : s.seeHome mgmtNode a n = s.mem.read a n := by
  rw [State.seeHome, State.caches_mgmt s (by decide)]
  rfl

/-- A read of one sector: `n` bytes, those at home where the sector is not poisoned; no byte changes but the leaf's. -/
theorem State.apertureOne_read_ok {c : Nat} {va : Dword} {x : Xlat} (n : Nat) (h : s.translate mgmtNode c va .load = .ok x) :
    ∃ t b, s.apertureOne c va n none = .ok (t, b) ∧ b.length = n ∧
      (s.poisoned (x.at_ mgmtNode) n = false → b = s.mem.read (x.at_ mgmtNode) n) ∧
      ∀ a, ¬ (x.pte ≤ a ∧ a < x.pte + 8) → t.mem.get a = s.mem.get a := by
  have hleaf (a : Nat) (ha : ¬ (x.pte ≤ a ∧ a < x.pte + 8)) : (s.useLeaf mgmtNode c va x .load).mem.get a = s.mem.get a :=
    State.get_useLeaf s mgmtNode c va x .load (by omega)
  cases hp : s.poisoned (x.at_ mgmtNode) n with
  | true =>
    refine ⟨(s.useLeaf mgmtNode c va x .load).spend, natLe n s.freeVal, ?_, natLe_length _ _, nofun, hleaf⟩
    rw [State.apertureOne, h]
    exact congrArg Except.ok (if_pos hp)
  | false =>
    refine ⟨(s.useLeaf mgmtNode c va x .load).fillL2 (x.at_ mgmtNode) (effPol x 1) x.zel, s.mem.read (x.at_ mgmtNode) n, ?_,
      by simp [Mem.read], fun _ => rfl, fun a ha => by rw [State.mem_fillL2, hleaf a ha]⟩
    rw [State.apertureOne, h, ← State.seeHome_mgmt]
    exact congrArg Except.ok (if_neg (Bool.eq_false_iff.mp hp))

theorem State.frontPut_plain {x : Xlat} (hmir : x.mir = false) (c : Nat) (va : Dword) (b : List Byte) :
    s.frontPut c va x b = (s.useLeaf mgmtNode c va x .store).writeHome (x.at_ mgmtNode) b (effPol x 2) := by
  simp [State.frontPut, hmir]

/-- A write by the front end to a page that is no mirror page: no byte changes but those written and the leaf's. -/
theorem State.get_frontPut {x : Xlat} (hmir : x.mir = false) (c : Nat) (va : Dword) (b : List Byte) {a : Nat}
    (hb : ¬ (x.at_ mgmtNode ≤ a ∧ a < x.at_ mgmtNode + b.length)) (hpte : ¬ (x.pte ≤ a ∧ a < x.pte + 8)) :
    (s.frontPut c va x b).mem.get a = s.mem.get a := by
  rw [State.frontPut_plain hmir, State.get_writeHome, if_neg hb, State.get_useLeaf s mgmtNode c va x .store (by omega)]

end Sys2Proof.Machine

namespace Sys2Proof.Machine

/-- Settles O55: accesses of the host and of peers to module HBM5, which are served or refused whole; accesses through an aperture,
by what the translation of their one sector answers; and a die's clock after a sag. -/
theorem hostAccesses : Obligations.HostAccesses := by
  unfold Obligations.HostAccesses
  intro s g off n data stored returned bad
  refine ⟨fun hdown => ?down, fun hup => ?host, fun p hp => ?peer, fun hg => ?aperture, fun d hd => ?sag⟩
  case down =>
    rw [exec_hostPostedWrite_eq, exec_hostRead_eq]
    simp [hdown]
  case host =>
    rw [exec_hostPostedWrite_eq, exec_hostRead_eq]
    refine ⟨fun h => ⟨_, by rw [if_pos ⟨hup, h⟩], State.stored_writeHome s off data 1⟩,
      fun h => by rw [if_neg (by omega)], fun h => by rw [if_neg (by omega)],
      fun h hclean => ⟨_, by rw [if_pos ⟨hup, h⟩, hclean, if_neg Bool.false_ne_true], State.returned_handOut s off n⟩,
      fun h hbad => ⟨_, by rw [if_pos ⟨hup, h⟩, if_pos hbad], State.returnedBad_handOutBad s n⟩⟩
  case peer =>
    intro k refused arrives
    have hrefused (m : Nat) : refused m ↔ k.refuses off m = true := (k.refuses_iff off m).symm
    refine ⟨fun d h => exec_peerAccessArrival_down hp off n d h, fun hup hen hlink => ?_⟩
    have hwrite := exec_peerAccessArrival_write hp hup hen hlink off n data
    have hread := exec_peerAccessArrival_read hp hup hen hlink off n
    refine ⟨fun h => ?_, fun h => ⟨_, ?_, State.stored_writeHome s off data 1⟩, fun h => ⟨_, ?_, State.returnedBad_handOutBad s n⟩,
      fun h hclean => ⟨_, ?_, State.returned_handOut s off n⟩⟩
    · exact hwrite.trans (congrArg _ (if_pos ((hrefused _).mp h)))
    · exact hwrite.trans (congrArg _ (if_neg ((hrefused _).not.mp h)))
    · exact hread.trans (congrArg _ (if_pos (by rw [Bool.or_eq_true]; exact h.imp_left (hrefused n).mp)))
    · refine hread.trans (congrArg _ (if_neg ?_))
      rw [Bool.or_eq_true, hclean]
      exact not_or.mpr ⟨(hrefused n).not.mp h, Bool.false_ne_true⟩
  case aperture =>
    intro link through c a va record
    have hthrough (d : Option (List Byte)) : through d = .next (s.aperture g off n d) := exec_apertureAccess_here hg off n d
    refine ⟨fun m d hm => exec_apertureAccess_elsewhere hg hm off n d, fun hdown d => ?_, fun hup hgrove => ⟨fun hin => ?_, fun hin => ?_⟩,
      fun hup hgrove hn hsector hin => ?read, fun hup hgrove hn hsector hin => ?write⟩
    · rw [hthrough, State.aperture_down hdown]
    · rw [hthrough, State.aperture_otherGrove hup hgrove hin]
      rfl
    · rw [hthrough, State.aperture_otherGrove hup hgrove hin]
      rfl
    case read =>
      have hone : s.InOneSector g off (accessLength n none) := ⟨hup, hgrove, hn, hsector, hin⟩
      refine ⟨fun f hf => ?_, fun x hx => ?_⟩
      · exact (hthrough _).trans (congrArg _ (State.aperture_oneSector hone (State.apertureOne_read_error hf)))
      · obtain ⟨t, b, hok, hlen, hbytes, hrest⟩ := State.apertureOne_read_ok n hx
        exact ⟨t.returns b false, (hthrough _).trans (congrArg _ (State.aperture_oneSector hone hok)), hlen, hbytes, hrest⟩
    case write =>
      have hone : s.InOneSector g off (accessLength n (some data)) := ⟨hup, hgrove, hn, hsector, hin⟩
      refine ⟨fun f hf => ?_, fun x hx hmir => ⟨s.frontPut c va x data, ?_, ?_, fun b hb hpte => State.get_frontPut hmir c va data hb hpte⟩⟩
      · exact (hthrough _).trans (congrArg _ (State.aperture_oneSector hone (State.apertureOne_write_error hf)))
      · exact (hthrough _).trans (congrArg _ (State.aperture_oneSector hone (State.apertureOne_write_ok hx)))
      · rw [State.frontPut_plain hmir]
        exact State.read_writeHome_same _ _ _ _
  case sag =>
    intro l
    rw [exec_supplySag, exec_sagRecoveryStep, execSupplySag, execSagRecoveryStep, Nat.mod_eq_of_lt hd]
    exact ⟨fun h => congrArg _ (if_neg (Nat.not_le.mpr h)), fun h => congrArg _ (if_pos h), rfl⟩

end Sys2Proof.Machine

namespace Sys2Proof.Machine

variable {s t : State}

/-! Where control goes: displacements and address operands (spec/07 R167, spec/08 R185). -/

theorem branchTarget_eq {w : Nat} (pc : Dword) (disp : BitVec w) :
    branchTarget pc disp = pc + BitVec.ofInt 64 (4 * disp.toInt) := by
  rw [branchTarget, BitVec.ofInt_mul, BitVec.mul_comm]
  rfl

theorem codeAddr_mask_bit : ∀ i < 64, (0xFFFFFFFFFFFFFC : Dword).getLsbD i = (decide (2 ≤ i) && decide (i < 56)) := by decide

theorem codeAddr_eq (v : Dword) : codeAddr v = v &&& 0xFFFFFFFFFFFFFC := by
  apply BitVec.eq_of_getLsbD_eq
  intro i hi
  have hfour : v.toNat / 4 % 2 ^ 54 * 4 = 2 ^ 2 * (v.toNat / 2 ^ 2 % 2 ^ 54) := Nat.mul_comm _ _
  rw [codeAddr, BitVec.getLsbD_and, codeAddr_mask_bit i hi, BitVec.getLsbD_ofNat, hfour, Nat.testBit_two_pow_mul,
    Nat.testBit_mod_two_pow, Nat.testBit_div_two_pow]
  by_cases h : 2 ≤ i
  · have h54 : i - 2 < 54 ↔ i < 56 := by omega
    simp [hi, h, h54, BitVec.getLsbD, Bool.and_comm]
  · simp [h]

/-! A transfer of control ends the run (spec/05 R134). -/

theorem State.own_jump (s : State) (u : UnitId) (pc : Dword) : s.Own (s.jump u pc) u :=
  (State.own_onThread s u _).trans (State.own_endRun _ u)
theorem State.thread_jump (s : State) (u : UnitId) (pc : Dword) : (s.jump u pc).thread u = (s.thread u).restart pc := by
  simp [State.jump, State.thread_endRun, Thread.restart]
theorem State.sget_jump (s : State) (u : UnitId) (pc : Dword) (r : Nat) : (s.jump u pc).sget u r = s.sget u r := by
  rw [State.jump, State.sget_endRun]
  exact State.sget_congr (by simp) (by simp) r
theorem State.vget_jump (s : State) (u : UnitId) (pc : Dword) (l r : Nat) : (s.jump u pc).vget u l r = s.vget u l r := by
  rw [State.jump, State.vget_endRun]
  exact State.vget_congr (by simp) (by simp) (by simp) l r
theorem State.flagsSeen_jump (s : State) (u : UnitId) (pc : Dword) : (s.jump u pc).flagsSeen u = s.flagsSeen u := by
  cases hu : u.isPath
  · rw [State.flagsSeen_other _ u hu, State.flagsSeen_other _ u hu]
  · rw [State.jump, State.flagsSeen_endRun _ u hu]
    exact State.flagsSeen_onThread s u _ rfl
/-- THE LAW OF JUMPS: what a transfer of control leaves. -/
theorem State.jumpDone (s : State) (u : UnitId) (pc : Dword) : s.JumpDone (s.jump u pc) u pc := by
  have h := State.thread_jump s u pc
  refine ⟨State.own_jump s u pc, ?_, ?_, ?_, ?_, ?_, ?_, State.flagsSeen_jump s u pc, State.sget_jump s u pc,
    fun l r _ => State.vget_jump s u pc l r, fun hu l => ?_⟩
  · rw [h]; rfl
  · rw [h]; rfl
  · rw [h]; rfl
  · rw [h]; rfl
  · rw [h]; rfl
  · rw [h]; rfl
  · rw [State.jump, State.bindOf_endRun _ _ _ hu]
    exact State.bindOf_onThread s u _ rfl l

/-! One update after another of the same entry. -/

theorem putCell_putCell {α : Type} (k : Nat) (a b : α) (l : List (Nat × α)) : putCell k b (putCell k a l) = putCell k b l := by
  induction l with
  | nil => simp [putCell]
  | cons c r ih =>
    by_cases hlt : k < c.1
    · simp [putCell, hlt]
    · by_cases heq : c.1 = k
      · simp [putCell, heq]
      · simp [putCell, hlt, heq, ih]
theorem Tab.put_put {α : Type} (t : Tab α) (k : Nat) (a b : α) : (t.put k a).put k b = t.put k b :=
  congrArg Tab.mk (putCell_putCell k a b t.cells)
theorem Group.onPath_onPath (g : Group) (i : Nat) (f h : Path → Path) : (g.onPath i f).onPath i h = g.onPath i fun p => h (f p) := by
  simp [Group.onPath, Group.path, Tab.put_put]
theorem State.onCore_onCore (s : State) (c : Nat) (f h : Core → Core) :
    (s.onCore c f).onCore c h = s.onCore c fun k => h (f k) := by
  rw [State.onCore, State.core_onCore_same]
  exact congrArg (fun t => { s with cores := t }) (Tab.put_put s.cores c _ _)
theorem State.onGroup_onGroup (s : State) (c g : Nat) (f h : Group → Group) :
    (s.onGroup c g f).onGroup c g h = s.onGroup c g fun k => h (f k) := by
  rw [State.onGroup, State.onGroup, State.onCore_onCore]
  simp [State.onGroup, Tab.put_put]
theorem State.onGroup_congr {c g : Nat} {f h : Group → Group} (hf : f (s.group c g) = h (s.group c g)) :
    s.onGroup c g f = s.onGroup c g h := by
  have hf' : f ((s.core c).groups.get g .none) = h ((s.core c).groups.get g .none) := hf
  simp [State.onGroup, State.onCore, hf']
theorem State.onPathOf_path (s : State) (c g i : Nat) (f : Path → Path) :
    s.onPathOf (.path c g i) f = s.onGroup c g fun k => k.onPath i f := rfl
theorem State.onThread_path (s : State) (c g i : Nat) (f : Thread → Thread) :
    s.onThread (.path c g i) f = s.onGroup c g fun k => k.onPath i fun p => { p with th := f p.th } := rfl

/-! A path's run commits (spec/05 R135). -/

/-- A group in which the run of path `i` has committed what it wrote. -/
def Group.committed (k : Group) (i : Nat) : Group :=
  let r := (k.path i).th.run
  { k with
    vregs := k.vregs.over r.vOver, sregs := k.sregs.over r.sOver, binds := k.binds.over r.bOver, xflags := k.xflags ||| r.xOver
    lwb := (k.path i).mask.lanes.foldl (fun t l => t.put l (k.path i).wb) k.lwb }

theorem State.group_commit (s : State) (c g i : Nat) :
    (s.commit (.path c g i)).group c g = (s.group c g).committed i := by
  simp [State.commit, State.thread, Group.committed]

/-! Steps that change one group and the turn alone. -/

theorem State.UnitsOnly.symm (h : s.UnitsOnly t) : t.UnitsOnly s := by
  refine ⟨?_, fun c => ?_, fun l => ?_⟩
  · rw [h.rest]
  · rw [h.cores c]
  · rw [h.lanterns l]

/-- Of the units' state only that of group `g` of core `c` has changed, and who has a turn. -/
structure State.GroupOnly (s t : State) (c g : Nat) : Prop where
  units : s.UnitsOnly t
  groups : ∀ c' g', c' ≠ c ∨ g' ≠ g → t.group c' g' = s.group c' g'
  teams : ∀ c' k, t.team c' k = s.team c' k
  progs : ∀ l p, t.prog l p = s.prog l p

section
variable {c g : Nat}

theorem State.GroupOnly.symm (h : s.GroupOnly t c g) : t.GroupOnly s c g :=
  ⟨h.units.symm, fun c' g' hn => (h.groups c' g' hn).symm, fun c' k => (h.teams c' k).symm, fun l p => (h.progs l p).symm⟩
theorem State.GroupOnly.trans {r : State} (h : s.GroupOnly t c g) (k : t.GroupOnly r c g) : s.GroupOnly r c g :=
  ⟨h.units.trans k.units, fun c' g' hn => (k.groups c' g' hn).trans (h.groups c' g' hn),
    fun c' m => (k.teams c' m).trans (h.teams c' m), fun l p => (k.progs l p).trans (h.progs l p)⟩
/-- What a path alone has changed of its own. -/
theorem State.Own.groupOnly {i : Nat} (h : s.Own t (.path c g i)) : s.GroupOnly t c g := by
  refine ⟨h.units, fun c' g' hn => h.apart.groups c' g' ?_, fun c' k => h.apart.teams c' k nofun, fun l p => h.apart.progs l p nofun⟩
  rintro i' ⟨⟩
  exact hn.elim (fun hc => hc rfl) fun hg => hg rfl
theorem State.groupOnly_onGroup (s : State) (c g : Nat) (f : Group → Group) : s.GroupOnly (s.onGroup c g f) c g := by
  refine ⟨State.unitsOnly_onGroup s c g f, fun c' g' hn => ?_, fun c' k => by simp, fun l p => rfl⟩
  rw [State.group_onGroup, if_neg]
  rintro ⟨rfl, rfl⟩
  exact hn.elim (fun hc => hc rfl) fun hg => hg rfl
/-- A change of one group that keeps to what one path may change is that path's own. -/
theorem State.GroupOnly.own (h : s.GroupOnly t c g) {i : Nat}
    (hg : t.group c g = { s.group c g with
      paths := (t.group c g).paths, vregs := (t.group c g).vregs, sregs := (t.group c g).sregs
      binds := (t.group c g).binds, xflags := (t.group c g).xflags, lwb := (t.group c g).lwb })
    (hp : ∀ j, j ≠ i → (t.group c g).path j = (s.group c g).path j)
    (hi : (t.group c g).path i = { (s.group c g).path i with th := ((t.group c g).path i).th }) : s.Own t (.path c g i) := by
  refine ⟨h.units, fun c' g' hu => h.groups c' g' ?_, fun c' k _ => h.teams c' k, fun l p _ => h.progs l p, ?_, ?_, ?_, nofun, nofun⟩
  · by_contra hn
    obtain ⟨rfl, rfl⟩ : c' = c ∧ g' = g := by simpa using hn
    exact hu i rfl
  · rintro c' g' i' ⟨⟩
    exact hg
  · rintro c' g' i' ⟨⟩
    exact hp
  · rintro c' g' i' ⟨⟩
    exact hi

end

end Sys2Proof.Machine

namespace Sys2Proof.Machine

variable {s t : State}

/-! A window move: the path's run commits, its window stands at another base, and what is not resident there is for the spill engine
(spec/05 R131, R132). -/

/-- The path's run has committed, and its window stands at base `wb`. -/
def State.rebased (s : State) (u : UnitId) (wb : Nat) : State :=
  ((s.commit u).onThread u fun t => { t with run := .fresh }).onPathOf u fun p => { p with wb := wb }

theorem State.moveWindow_eq (s : State) (u : UnitId) (wb : Nat) (pc : Dword) :
    s.moveWindow u wb pc = ((s.rebased u wb).jump u pc).checkWindow u := rfl

theorem State.own_checkWindow (s : State) (u : UnitId) : s.Own (s.checkWindow u) u := by
  unfold State.checkWindow
  split
  · exact .refl s u
  · exact State.own_onThread s u _

/-- Is the window of unit `u` resident in every lane? -/
def State.windowIn (s : State) (u : UnitId) : Bool := ((s.groupOf u).unresident (s.maskOf u) (s.pathOf u).wb).isEmpty

theorem State.checkWindow_in {u : UnitId} (h : s.windowIn u = true) : s.checkWindow u = s := if_pos h
theorem State.checkWindow_out {u : UnitId} (h : s.windowIn u = false) :
    s.checkWindow u = s.onThread u fun t => { t with state := .spill, wait := some (spillMark u) } :=
  if_neg (Bool.eq_false_iff.mp h)

theorem State.state_checkWindow (s : State) (u : UnitId) :
    ((s.checkWindow u).thread u).state = if s.windowIn u then (s.thread u).state else .spill := by
  cases h : s.windowIn u
  · rw [State.checkWindow_out h, State.thread_onThread]; rfl
  · rw [State.checkWindow_in h]; rfl
theorem State.pc_checkWindow (s : State) (u : UnitId) :
    ((s.checkWindow u).thread u).pc = (s.thread u).pc ∧ ((s.checkWindow u).thread u).runpc = (s.thread u).runpc := by
  cases h : s.windowIn u
  · rw [State.checkWindow_out h, State.thread_onThread]; exact ⟨rfl, rfl⟩
  · rw [State.checkWindow_in h]; exact ⟨rfl, rfl⟩
theorem State.sget_checkWindow (s : State) (u : UnitId) (r : Nat) : (s.checkWindow u).sget u r = s.sget u r := by
  cases h : s.windowIn u
  · rw [State.checkWindow_out h]; exact State.sget_congr (by simp) (by simp) r
  · rw [State.checkWindow_in h]
theorem State.vget_checkWindow (s : State) (u : UnitId) (l r : Nat) : (s.checkWindow u).vget u l r = s.vget u l r := by
  cases h : s.windowIn u
  · rw [State.checkWindow_out h]; exact State.vget_congr (by simp) (by simp) (by simp) l r
  · rw [State.checkWindow_in h]

section
variable (s : State) (c g i wb : Nat) (pc : Dword)

theorem State.group_rebased : (s.rebased (.path c g i) wb).group c g =
    ((s.group c g).committed i).onPath i fun p => { p with wb := wb, th := { p.th with run := .fresh } } := by
  simp [State.rebased, State.onPathOf_path, State.onThread_path, State.group_commit, Group.onPath_onPath]

theorem State.groupOnly_rebased : s.GroupOnly (s.rebased (.path c g i) wb) c g := by
  rw [State.rebased, State.onPathOf_path]
  exact ((State.own_commit s (.path c g i)).groupOnly.trans (State.own_onThread _ (.path c g i) _).groupOnly).trans
    (State.groupOnly_onGroup _ c g _)

/-- Of the path itself the base alone has changed, but for its thread. -/
theorem State.own_rebased : (s.onPathOf (.path c g i) fun p => { p with wb := wb }).Own (s.rebased (.path c g i) wb) (.path c g i) := by
  have hg := State.group_rebased s c g i wb
  have h0 : (s.onPathOf (.path c g i) fun p => { p with wb := wb }).group c g = (s.group c g).onPath i fun p => { p with wb := wb } :=
    State.group_onGroup_same s c g _
  have hto : s.GroupOnly (s.onPathOf (.path c g i) fun p => { p with wb := wb }) c g := by
    rw [State.onPathOf_path]
    exact State.groupOnly_onGroup s c g _
  refine (hto.symm.trans (State.groupOnly_rebased s c g i wb)).own ?_ (fun j hj => ?_) ?_
  · rw [hg, h0]
    rfl
  · rw [hg, h0, Group.path_onPath, Group.path_onPath, if_neg hj, if_neg hj]
    rfl
  · rw [hg, h0, Group.path_onPath_same, Group.path_onPath_same]
    rfl

theorem State.sget_rebased (r : Nat) : (s.rebased (.path c g i) wb).sget (.path c g i) r = s.sget (.path c g i) r := by
  simp [State.sget, State.thread, State.sregs, State.group_rebased, Group.committed, Group.onPath, Group.path, Run.fresh, Tab.get,
    Tab.find_over]

/-- The lane registers are renumbered as their indices are. -/
theorem State.vget_rebased (l : Nat) {k k' : Nat} (hk : vIndex wb k' = vIndex (s.pathOf (.path c g i)).wb k) :
    (s.rebased (.path c g i) wb).vget (.path c g i) l k' = s.vget (.path c g i) l k := by
  have hkey : vKey wb l k' = vKey ((s.group c g).path i).wb l k := congrArg (vSlot l) hk
  simp [State.vget, State.pathOf, State.groupOf, State.group_rebased, Group.committed, Group.vreg, Run.fresh, Tab.get, Tab.find_over,
    hkey, Group.onPath, Group.path]

/-! The move as a whole. -/

theorem State.own_moveWindow :
    (s.onPathOf (.path c g i) fun p => { p with wb := wb }).Own (s.moveWindow (.path c g i) wb pc) (.path c g i) :=
  ((State.own_rebased s c g i wb).trans (State.own_jump _ _ pc)).trans (State.own_checkWindow _ _)

theorem State.wb_moveWindow : ((s.moveWindow (.path c g i) wb pc).pathOf (.path c g i)).wb = wb := by
  have h := (State.own_moveWindow s c g i wb pc).apart.path c g i rfl
  rw [State.onPathOf_path, State.group_onGroup_same, Group.path_onPath_same] at h
  exact congrArg Path.wb h

theorem State.pc_moveWindow : ((s.moveWindow (.path c g i) wb pc).thread (.path c g i)).pc = pc ∧
    ((s.moveWindow (.path c g i) wb pc).thread (.path c g i)).runpc = pc := by
  rw [State.moveWindow_eq, (State.pc_checkWindow _ _).1, (State.pc_checkWindow _ _).2, State.thread_jump]
  exact ⟨rfl, rfl⟩

theorem State.sget_moveWindow (r : Nat) : (s.moveWindow (.path c g i) wb pc).sget (.path c g i) r = s.sget (.path c g i) r := by
  rw [State.moveWindow_eq, State.sget_checkWindow, State.sget_jump, State.sget_rebased]

theorem State.vget_moveWindow (l : Nat) {k k' : Nat} (hk : vIndex wb k' = vIndex (s.pathOf (.path c g i)).wb k) :
    (s.moveWindow (.path c g i) wb pc).vget (.path c g i) l k' = s.vget (.path c g i) l k := by
  rw [State.moveWindow_eq, State.vget_checkWindow, State.vget_jump, State.vget_rebased s c g i wb l hk]

/-- A jump leaves the rings and the path's lanes and base as they are. -/
theorem State.windowIn_jump (u : UnitId) (hu : u.isPath = true) : (s.jump u pc).windowIn u = s.windowIn u := by
  cases u with
  | path c g i =>
    have hg := (State.own_jump s (.path c g i) pc).apart.group c g i rfl
    have hp := (State.own_jump s (.path c g i) pc).apart.path c g i rfl
    simp only [State.windowIn, State.maskOf, State.pathOf, State.groupOf]
    rw [hp, hg]
    rfl
  | seq c k => cases hu
  | lant l p => cases hu

theorem State.windowIn_rebased : (s.rebased (.path c g i) wb).windowIn (.path c g i) =
    ((s.groupOf (.path c g i)).unresident (s.maskOf (.path c g i)) wb).isEmpty := by
  simp only [State.windowIn, State.maskOf, State.pathOf, State.groupOf, State.group_rebased, Group.path_onPath_same]
  rfl

/-- A window that is not wholly resident waits for the spill engine (spec/05 R132). -/
theorem State.state_moveWindow : ((s.moveWindow (.path c g i) wb pc).thread (.path c g i)).state =
    if ((s.groupOf (.path c g i)).unresident (s.maskOf (.path c g i)) wb).isEmpty then .ready else .spill := by
  rw [State.moveWindow_eq, State.state_checkWindow, State.windowIn_jump _ pc _ rfl, State.windowIn_rebased, State.thread_jump]
  rfl

end

/-! The link (spec/08 R195, R196). -/

theorem link_eq (n : Nat) (pc : Dword) : BitVec.ofNat 64 (n * 2 ^ 56) ||| codeAddr (pc + 8) =
    BitVec.ofNat 64 (n * 2 ^ 56 + (pc.toNat + 8) % 2 ^ 64 / 4 % 2 ^ 54 * 4) := by
  have hsum : (pc + 8).toNat = (pc.toNat + 8) % 2 ^ 64 := BitVec.toNat_add _ _
  have hlow : (pc.toNat + 8) % 2 ^ 64 / 4 % 2 ^ 54 * 4 < 2 ^ 56 := by omega
  rw [codeAddr, hsum, ← BitVec.ofNat_or, Nat.mul_comm n, ← Nat.two_pow_add_eq_or_of_lt hlow]

theorem fld_link (v : Dword) : fld v 56 8 = v.toNat / 2 ^ 56 := by
  have h : v.toNat / 2 ^ 56 < 2 ^ 8 := by omega
  rw [fld, Nat.mod_eq_of_lt h]

/-- Does a CALL transfer control: has it no condition, or is its condition met (spec/08 R195)? -/
def State.callGoes (s : State) (u : UnitId) (x : CallX) : Prop := x.cen = false ∨ (x.csense = true ↔ s.srcG u x.c.toNat ≠ 0)
theorem State.callGoes_iff (s : State) (u : UnitId) (x : CallX) :
    s.callGoes u x ↔ (x.cen && (s.srcG u x.c.toNat != 0) != x.csense) = false := by
  unfold State.callGoes
  cases x.cen with
  | false => simp
  | true => cases x.csense <;> simp

/-! CALL (spec/08 R195). -/

section
variable {u : UnitId} {f : GA} {x : CallX} (h : s.Issues u (.call f x))
include h

theorem exec_call_skips (hgo : ¬ s.callGoes u x) : exec (.call f x) s = .next (s.jump u ((s.thread u).pc + 8)) := by
  rw [State.callGoes_iff, Bool.not_eq_false] at hgo
  rw [exec_call, execCall, h.next]
  simp only [hgo, if_true]
  rfl

/-- A unit that has no window jumps, with the link written. -/
theorem exec_call_other (hgo : s.callGoes u x) (hu : u.isPath = false) : exec (.call f x) s =
    .next ((s.sput u f.d.toNat (BitVec.ofNat 64 (f.b.toNat * 2 ^ 56) ||| codeAddr ((s.thread u).pc + 8))).jump u
      (branchTarget (s.thread u).pc x.disp)) := by
  rw [State.callGoes_iff] at hgo
  rw [exec_call, execCall, h.next]
  simp only [hgo]
  cases u with
  | path c g i => cases hu
  | seq c k => rfl
  | lant l p => rfl

end

section
variable {c g i : Nat} {f : GA} {x : CallX} (h : s.Issues (.path c g i) (.call f x)) (hgo : s.callGoes (.path c g i) x)
include h hgo

theorem exec_call_overflow (hn : 1 ≤ f.b.toNat) (hwb : 1024 < (s.pathOf (.path c g i)).wb + f.b.toNat + 48) :
    exec (.call f x) s = .next (s.faultUnit (.path c g i) stackOverflow) := by
  rw [State.callGoes_iff] at hgo
  rw [exec_call, execCall, h.next]
  simp only [hgo, Bool.false_eq_true, if_false]
  exact congrArg _ (if_pos ⟨hn, hwb⟩)

/-- A path's window moves up, with the link written, where it stays within the stack and no spill is needed without a spill area. -/
theorem exec_call_moves (hwb : ¬ (1 ≤ f.b.toNat ∧ 1024 < (s.pathOf (.path c g i)).wb + f.b.toNat + 48))
    (hspill : ¬ (s.spillBase (s.teamOf (.path c g i)) = 0 ∧ (s.groupOf (.path c g i)).needsSpill (s.maskOf (.path c g i))
      ((s.pathOf (.path c g i)).wb + f.b.toNat) = true)) : exec (.call f x) s =
    .next ((s.sput (.path c g i) f.d.toNat (BitVec.ofNat 64 (f.b.toNat * 2 ^ 56) ||| codeAddr ((s.thread (.path c g i)).pc + 8))).moveWindow
      (.path c g i) ((s.pathOf (.path c g i)).wb + f.b.toNat) (branchTarget (s.thread (.path c g i)).pc x.disp)) := by
  rw [State.callGoes_iff] at hgo
  rw [State.maskOf] at hspill
  rw [exec_call, execCall, h.next]
  simp only [hgo, Bool.false_eq_true, if_false, if_neg hwb, if_neg hspill]
  rfl

end

/-! RET (spec/08 R196). -/

section
variable {u : UnitId} {f : GA} (h : s.Issues u (.ret f))
include h

theorem exec_ret_other (hu : u.isPath = false) : exec (.ret f) s = .next (if fld (s.srcG u f.a.toNat) 56 8 = 0
    then s.jump u (codeAddr (s.srcG u f.a.toNat)) else s.faultUnit u stackUnderflow) := by
  rw [exec_ret, execRet, h.next]
  cases u with
  | path c g i => cases hu
  | seq c k => by_cases h0 : fld (s.srcG (.seq c k) f.a.toNat) 56 8 = 0 <;> simp [h0]
  | lant l p => by_cases h0 : fld (s.srcG (.lant l p) f.a.toNat) 56 8 = 0 <;> simp [h0]

end

section
variable {c g i n : Nat} {f : GA} (h : s.Issues (.path c g i) (.ret f)) (hn : fld (s.srcG (.path c g i) f.a.toNat) 56 8 = n)
include h hn

theorem exec_ret_underflow (hout : n = 0 ∨ 48 < n ∨ (s.pathOf (.path c g i)).wb < n) :
    exec (.ret f) s = .next (s.faultUnit (.path c g i) stackUnderflow) := by
  subst hn
  rw [exec_ret, execRet, h.next]
  exact congrArg _ (if_pos hout)
theorem exec_ret_moves (hin : ¬ (n = 0 ∨ 48 < n ∨ (s.pathOf (.path c g i)).wb < n)) : exec (.ret f) s =
    .next (s.moveWindow (.path c g i) ((s.pathOf (.path c g i)).wb - n) (codeAddr (s.srcG (.path c g i) f.a.toNat))) := by
  subst hn
  rw [exec_ret, execRet, h.next]
  exact congrArg _ (if_neg hin)

end

/-! What a path sees after the link is written and its window is moved. -/

section
variable (s : State) (u : UnitId) (k : Nat) (v : Dword)

theorem State.wb_sput : ((s.sput u k v).pathOf u).wb = (s.pathOf u).wb := State.wb_onThread s u _
theorem State.mask_sput : (s.sput u k v).maskOf u = s.maskOf u := State.mask_onThread s u _
theorem State.unresident_sput (m : Dword) (wb : Nat) : ((s.sput u k v).groupOf u).unresident m wb = (s.groupOf u).unresident m wb := by
  rw [State.sput, State.onRun, State.groupOf_onThread]
  rfl

end

/-- CALL's renumbering: v16 on is what v16 + n on was. -/
theorem vIndex_up (wb n : Nat) {k : Nat} (hk : 16 ≤ k) : vIndex (wb + n) k = vIndex wb (k + n) := by
  simp only [vIndex]
  rw [if_neg (by omega), if_neg (by omega)]
  omega
theorem vIndex_down {wb n k : Nat} (hn : n ≤ wb) (hk : 16 + n ≤ k) : vIndex (wb - n) k = vIndex wb (k - n) := by
  simp only [vIndex]
  rw [if_neg (by omega), if_neg (by omega)]
  omega
/-- v0 to v15 stand at the same index under every base. -/
theorem vIndex_low (wb wb' : Nat) {k : Nat} (hk : k < 16) : vIndex wb k = vIndex wb' k := by
  simp [vIndex, hk]

/-- Settles O24: without a window a CALL or RET is a jump; with one it is a window move, whose laws say what the path then sees. -/
theorem callsAndReturns : Obligations.CallsAndReturns := by
  unfold Obligations.CallsAndReturns
  intro s u f
  refine ⟨fun x h => ?call, fun h => ?ret⟩
  case call =>
    intro pc wb n target link go
    have hlink : BitVec.ofNat 64 (n * 2 ^ 56) ||| codeAddr (pc + 8) = link := link_eq n pc
    have htarget : branchTarget pc x.disp = target := branchTarget_eq pc x.disp
    refine ⟨fun hgo => ⟨_, exec_call_skips h hgo, State.jumpDone s u _⟩, fun hgo hu => ⟨_, exec_call_other h hgo hu, ?_⟩,
      fun hgo hu hwb hspill => ?_, fun hgo hu hn hwb => ?_⟩
    · rw [← hlink, ← htarget]
      exact State.jumpDone _ u _
    · cases u with
      | seq c k => cases hu
      | lant l p => cases hu
      | path c g i =>
        refine ⟨_, exec_call_moves h hgo (by omega) ?_, ?_⟩
        · rintro ⟨h0, hneed⟩
          rcases hspill with hs | hs
          · exact hs h0
          · rw [hs] at hneed
            cases hneed
        · rw [hlink, htarget]
          obtain ⟨hpc, hrunpc⟩ := State.pc_moveWindow (s.sput (.path c g i) f.d.toNat link) c g i (wb + n) target
          refine ⟨State.own_moveWindow _ c g i _ _, State.wb_moveWindow _ c g i _ _, hpc, hrunpc, ?_, fun r hr => ?_,
            fun l k _ => ⟨fun hk => ?_, fun hk => ?_⟩, ?_⟩
          · rw [State.sget_moveWindow, State.sget_sput, if_pos rfl]
          · rw [State.sget_moveWindow, State.sget_sput, if_neg hr]
          · rw [State.vget_moveWindow _ c g i _ _ l (vIndex_low _ _ hk), State.vget_sput]
          · refine (State.vget_moveWindow _ c g i _ _ l ?_).trans (State.vget_sput s _ _ _ l (k + n))
            rw [State.wb_sput]
            exact vIndex_up wb n hk
          · rw [State.state_moveWindow, State.mask_sput, State.unresident_sput]
    · cases u with
      | seq c k => cases hu
      | lant l p => cases hu
      | path c g i => exact exec_call_overflow h hgo hn hwb
  case ret =>
    intro link n wb target
    have hn : fld link 56 8 = n := fld_link link
    have htarget : codeAddr link = target := codeAddr_eq link
    refine ⟨fun hu h0 => ⟨_, ?_, State.jumpDone s u _⟩, fun hu h1 h48 hwb => ?_, fun hbad => ?_⟩
    · rw [exec_ret_other h hu, if_pos (hn.trans h0), htarget]
    · cases u with
      | seq c k => cases hu
      | lant l p => cases hu
      | path c g i =>
        have hexec := exec_ret_moves h hn (by omega)
        rw [htarget] at hexec
        refine ⟨_, hexec, State.own_moveWindow s c g i _ _, State.wb_moveWindow s c g i _ _, (State.pc_moveWindow s c g i _ _).1,
          fun r => State.sget_moveWindow s c g i _ _ r, fun l k _ => ⟨fun hk => ?_, fun hk => ?_⟩, State.state_moveWindow s c g i _ _⟩
        · exact State.vget_moveWindow s c g i _ _ l (vIndex_low _ _ hk)
        · exact State.vget_moveWindow s c g i _ _ l (vIndex_down hwb hk)
    · rcases hbad with ⟨hu, hne⟩ | ⟨hu, hout⟩
      · rw [exec_ret_other h hu, if_neg (fun h0 => hne (hn.symm.trans h0))]
        rfl
      · cases u with
        | seq c k => cases hu
        | lant l p => cases hu
        | path c g i => exact exec_ret_underflow h hn hout

end Sys2Proof.Machine

namespace Sys2Proof.Machine

variable {s t : State}

/-! The end of a path's run together with a change of its group: what BRD, JOIN, IDLE, REGANG and EXIT come to (spec/05 R122 to R128,
R134). -/

/-- The run of path `i` has ended, and its group is `k`. -/
def State.regroup (s : State) (c g i : Nat) (k : Group) : State :=
  ((s.commit (.path c g i)).leave (.path c g i)).onGroup c g fun _ => k

section
variable (s : State) (c g i : Nat)

theorem State.group_settled : ((s.commit (.path c g i)).leave (.path c g i)).group c g = (s.group c g).committed i := by
  rw [State.group_leave, State.group_commit]
/-- A change of the group after the run has ended. -/
theorem State.onGroup_settled (f : Group → Group) : ((s.commit (.path c g i)).leave (.path c g i)).onGroup c g f =
    s.regroup c g i (f ((s.group c g).committed i)) :=
  State.onGroup_congr (congrArg f (State.group_settled s c g i))

theorem State.groupOnly_settled : s.GroupOnly ((s.commit (.path c g i)).leave (.path c g i)) c g :=
  (State.own_commit s (.path c g i)).groupOnly.trans (State.own_leave _ _ (.path c g i)).groupOnly

theorem State.turn_settled : ((s.commit (.path c g i)).leave (.path c g i)).turn = if s.turn = some (.path c g i) then none else s.turn := by
  have hquad (t : State) (u : UnitId) : (t.freeQuad u).turn = t.turn := by
    unfold State.freeQuad
    split
    · rfl
    · split <;> rfl
  have hcommit : (s.commit (.path c g i)).turn = s.turn := rfl
  rw [State.leave, hquad, State.dropTurn, hcommit]
  split
  · rfl
  · exact hcommit

variable (k : Group)

theorem State.groupOnly_regroup : s.GroupOnly (s.regroup c g i k) c g :=
  (State.groupOnly_settled s c g i).trans (State.groupOnly_onGroup _ c g _)
@[simp] theorem State.group_regroup : (s.regroup c g i k).group c g = k := State.group_onGroup_same _ c g _

end

/-- Group `k` has of its registers, bindings and flags what `g` has once the run of path `i` has committed. -/
structure Group.Commits (g k : Group) (i : Nat) : Prop where
  vregs : k.vregs = (g.committed i).vregs
  sregs : k.sregs = (g.committed i).sregs
  binds : k.binds = (g.committed i).binds
  xflags : k.xflags = (g.committed i).xflags
theorem State.onGroup_regroup (s : State) (c g i : Nat) (k : Group) (f : Group → Group) :
    (s.regroup c g i k).onGroup c g f = s.regroup c g i (f k) :=
  State.onGroup_onGroup _ c g _ f

section
variable {c g i : Nat} {k : Group}

theorem State.turn_regroup (h : s.turn = some (.path c g i)) : (s.regroup c g i k).turn = none :=
  (State.turn_settled s c g i).trans (if_pos h)

/-- The run's writes of s-registers are the group's. -/
theorem State.sregs_regroup (hk : (s.group c g).Commits k i) (r : Nat) : k.sregs.get r 0 = s.sget (.path c g i) r := by
  simp [hk.sregs, Group.committed, State.sget, State.thread, State.sregs, Tab.get, Tab.find_over]
/-- A path that starts a new run in the changed group sees the s-registers that it saw. -/
theorem State.sget_regroup (hk : (s.group c g).Commits k i) (hrun : (k.path i).th.run = .fresh) (r : Nat) :
    (s.regroup c g i k).sget (.path c g i) r = s.sget (.path c g i) r := by
  have hlook : (s.regroup c g i k).sget (.path c g i) r = k.sregs.get r 0 := by
    simp [State.sget, State.thread, State.sregs, hrun, Run.fresh]
  rw [hlook, State.sregs_regroup hk]
/-- It sees the lane registers that it saw, under the same base. -/
theorem State.vget_regroup (hk : (s.group c g).Commits k i) (hrun : (k.path i).th.run = .fresh)
    (hwb : (k.path i).wb = ((s.group c g).path i).wb) (l r : Nat) :
    (s.regroup c g i k).vget (.path c g i) l r = s.vget (.path c g i) l r := by
  simp [State.vget, State.pathOf, State.groupOf, hrun, hwb, hk.vregs, Group.committed, Group.vreg, Run.fresh, Tab.get, Tab.find_over]

theorem State.bindOf_regroup (hk : (s.group c g).Commits k i) (hrun : (k.path i).th.run = .fresh) (l : Nat) :
    (s.regroup c g i k).bindOf (.path c g i) l = s.bindOf (.path c g i) l := by
  simp [State.bindOf, State.groupOf, State.thread, hrun, hk.binds, Group.committed, Run.fresh, Tab.get, Tab.find_over]

theorem State.flagsSeen_regroup (hk : (s.group c g).Commits k i) (hrun : (k.path i).th.run = .fresh) :
    (s.regroup c g i k).flagsSeen (.path c g i) = s.flagsSeen (.path c g i) := by
  simp [State.flagsSeen, State.groupOf, State.thread, hrun, hk.xflags, Group.committed, Run.fresh]

/-- A path that goes on alone at `pc` has jumped there. -/
theorem State.jumpDone_regroup {pc : Dword} (hk : k = { (s.group c g).committed i with
    paths := (s.group c g).paths.put i (((s.group c g).path i).goOn ((s.group c g).path i).mask pc) }) :
    s.JumpDone (s.regroup c g i k) (.path c g i) pc := by
  have hpath : k.path i = { (s.group c g).path i with th := ((s.group c g).path i).th.restart pc } := by
    rw [hk]
    exact Tab.get_put_same _ _ _ _
  have hth : (s.regroup c g i k).thread (.path c g i) = (s.thread (.path c g i)).restart pc := by
    rw [State.thread, State.group_regroup, hpath]
    rfl
  have hrun : (k.path i).th.run = .fresh := by rw [hpath]; rfl
  have hc : (s.group c g).Commits k i := by
    subst hk
    exact ⟨rfl, rfl, rfl, rfl⟩
  refine ⟨(State.groupOnly_regroup s c g i k).own ?_ (fun j hj => ?_) ?_, ?_, ?_, ?_, ?_, ?_, ?_, State.flagsSeen_regroup hc hrun,
    State.sget_regroup hc hrun, fun l r _ => State.vget_regroup hc hrun (by rw [hpath]) l r, fun _ l => State.bindOf_regroup hc hrun l⟩
  · rw [State.group_regroup, hk]
    rfl
  · rw [State.group_regroup, hk]
    exact Tab.get_put_other _ _ _ hj
  · rw [State.group_regroup, hpath]
  · rw [hth]; rfl
  · rw [hth]; rfl
  · rw [hth]; rfl
  · rw [hth]; rfl
  · rw [hth]; rfl
  · rw [hth]; rfl

end

/-! A group with other paths and another stack: what BRD, JOIN and REGANG make of it (spec/05 R122, R123). -/

/-- The group with another stack and other paths. -/
def Group.withPaths (g : Group) (st : Tab StackEntry) (ps : Tab Path) : Group := { g with stack := st, paths := ps }

theorem Group.commits_withPaths (g : Group) (i : Nat) (st : Tab StackEntry) (ps : Tab Path) :
    g.Commits ((g.committed i).withPaths st ps) i := ⟨rfl, rfl, rfl, rfl⟩

/-- The run of path `i` has ended, and its group has another stack and other paths. -/
def State.repath (s : State) (c g i : Nat) (st : Tab StackEntry) (ps : Tab Path) : State :=
  s.regroup c g i (((s.group c g).committed i).withPaths st ps)

section
variable (s : State) (c g i : Nat) (st : Tab StackEntry) (ps : Tab Path)

theorem State.groupOnly_repath : s.GroupOnly (s.repath c g i st ps) c g := State.groupOnly_regroup s c g i _
@[simp] theorem State.stack_repath : ((s.repath c g i st ps).group c g).stack = st :=
  congrArg Group.stack (State.group_regroup s c g i _)
@[simp] theorem State.paths_repath : ((s.repath c g i st ps).group c g).paths = ps :=
  congrArg Group.paths (State.group_regroup s c g i _)
theorem State.path_repath (n : Nat) : ((s.repath c g i st ps).group c g).path n = ps.get n .none :=
  congrArg (fun k => k.path n) (State.group_regroup s c g i _)
theorem State.sregs_repath (r : Nat) : ((s.repath c g i st ps).group c g).sregs.get r 0 = s.sget (.path c g i) r :=
  (congrArg (fun k => k.sregs.get r 0) (State.group_regroup s c g i _)).trans
    (State.sregs_regroup (Group.commits_withPaths _ i st ps) r)
/-- A path that goes on alone at `pc`, its stack as it was, has jumped there. -/
theorem State.jumpDone_repath (pc : Dword) : s.JumpDone (s.repath c g i (s.group c g).stack
    ((s.group c g).paths.put i (((s.group c g).path i).goOn ((s.group c g).path i).mask pc))) (.path c g i) pc :=
  State.jumpDone_regroup rfl

variable {ps} {p : Path} (hp : ps.get i .none = p) (hrun : p.th.run = .fresh)
include hp hrun
theorem State.sget_repath (r : Nat) : (s.repath c g i st ps).sget (.path c g i) r = s.sget (.path c g i) r :=
  State.sget_regroup (Group.commits_withPaths _ i st ps) ((congrArg (fun q => q.th.run) hp).trans hrun) r

end

/-! A path that drops out of its family's waits (spec/09 R221): the others differ in what they wait for alone. -/

/-- A path with another wait. -/
def Path.waitingFor (p : Path) (w : Option Wait) : Path := { p with th := { p.th with wait := w } }

/-- An entry is to what a map of the cells makes of it as the map has it, where an absent entry is so to itself. -/
theorem Tab.rel_map_cells {α : Type} (t : Tab α) (f : Nat × α → Nat × α) (hf : ∀ c, (f c).1 = c.1) (R : α → α → Prop)
    (hR : ∀ k a, R a (f (k, a)).2) (k : Nat) {d : α} (hd : R d d) : R (t.get k d) (({ cells := t.cells.map f } : Tab α).get k d) := by
  simp only [Tab.get, Tab.find]
  rw [findCell_map_keys f hf]
  cases findCell k t.cells with
  | none => exact hd
  | some a => exact hR k a

/-- Two paths differ at most in what they wait for. -/
def Path.SameButWait (p q : Path) : Prop := ∃ w, q = p.waitingFor w

theorem Path.SameButWait.refl (p : Path) : p.SameButWait p := ⟨p.th.wait, rfl⟩
theorem Path.SameButWait.mask {p q : Path} (h : p.SameButWait q) : q.mask = p.mask := by
  obtain ⟨w, rfl⟩ := h
  rfl
theorem Path.SameButWait.pc {p q : Path} (h : p.SameButWait q) : q.th.pc = p.th.pc := by
  obtain ⟨w, rfl⟩ := h
  rfl

theorem Group.path_dropOut_self (g : Group) (i : Nat) (a : Option Dword) : (g.dropOut i a).path i = g.path i :=
  Tab.get_map_keys g.paths _ (fun c => by dsimp only; split <;> rfl) (by simp)
theorem Group.path_dropOut_sameButWait (g : Group) (i : Nat) (a : Option Dword) (j : Nat) :
    (g.path j).SameButWait ((g.dropOut i a).path j) := by
  refine Tab.rel_map_cells g.paths _ (fun c => by dsimp only; split <;> rfl) Path.SameButWait (fun k p => ?_) j (.refl _)
  dsimp only
  split
  · exact ⟨_, rfl⟩
  · exact .refl p
/-- No path comes to stand elsewhere by it. -/
theorem Group.state_dropOut {g : Group} {i : Nat} {a : Option Dword} {P : PathState → Prop}
    (h : ∀ c ∈ g.paths.cells, P c.2.th.state) : ∀ c ∈ (g.dropOut i a).paths.cells, P c.2.th.state := by
  intro c hc
  obtain ⟨b, hb, rfl⟩ := List.mem_map.mp hc
  split
  · exact h b hb
  · exact h b hb

section
variable (s : State) (c g i : Nat) (a : Option Dword)

theorem State.group_dropOut : (s.dropOut (.path c g i) a).group c g = (s.group c g).dropOut i a := State.group_onGroup_same s c g _
theorem State.groupOnly_dropOut : s.GroupOnly (s.dropOut (.path c g i) a) c g :=
  State.groupOnly_onGroup s c g fun k => k.dropOut i a
theorem State.thread_dropOut : (s.dropOut (.path c g i) a).thread (.path c g i) = s.thread (.path c g i) := by
  rw [State.thread, State.group_dropOut, Group.path_dropOut_self]
  rfl
theorem State.sget_dropOut (r : Nat) : (s.dropOut (.path c g i) a).sget (.path c g i) r = s.sget (.path c g i) r := by
  rw [State.sget, State.thread_dropOut, State.sregs, State.group_dropOut]
  rfl

end

end Sys2Proof.Machine

namespace Sys2Proof.Machine

variable {s t : State}

/-! IDLE of a path with no divergence open below it (spec/05 R126). -/

section
variable {g : Group} {i : Nat} {x next : Dword} (hstk : (g.path i).stkv = false)
include hstk

/-- A path with no lanes left and no divergence open frees its entry. -/
theorem Group.emptied_top (n : Nat) (harm : (g.path i).arm = false) : g.emptied (n + 1) i = { g with paths := g.paths.drop i } := by
  simp [Group.emptied, hstk, harm]

theorem Group.makeIdle_some (hrest : (g.path i).mask &&& ~~~x ≠ 0) : g.makeIdle i x next =
    { g with idle := g.idle ||| x, paths := g.paths.put i ((g.path i).goOn ((g.path i).mask &&& ~~~x) next) } := by
  simp only [Group.makeIdle, hstk, Bool.false_eq_true, if_false, if_neg hrest]

theorem Group.makeIdle_all (hrest : (g.path i).mask &&& ~~~x = 0) (harm : (g.path i).arm = false) : g.makeIdle i x next =
    { g with idle := g.idle ||| x, paths := (g.paths.put i ((g.path i).goOn 0 next)).drop i } := by
  have hp : Group.path { g with idle := g.idle ||| x, paths := g.paths.put i ((g.path i).goOn 0 next) } i = (g.path i).goOn 0 next :=
    Tab.get_put_same _ _ _ _
  simp only [Group.makeIdle, hstk, hrest, Bool.false_eq_true, if_false, if_true]
  refine Group.emptied_top ?_ _ ?_
  · exact (congrArg Path.stkv hp).trans hstk
  · exact (congrArg Path.arm hp).trans harm

end

/-! Nobody waits at REGANG. -/

theorem putCell_mem_cases {α : Type} {k : Nat} {a : α} {l : List (Nat × α)} {c : Nat × α} (h : c ∈ putCell k a l) : c = (k, a) ∨ c ∈ l := by
  induction l with
  | nil => simpa [putCell] using h
  | cons b r ih =>
    simp only [putCell] at h
    split at h
    · simpa using h
    · split at h
      · exact (List.mem_cons.mp h).imp_right (List.mem_cons_of_mem b)
      · rcases List.mem_cons.mp h with rfl | h
        · exact .inr (by simp)
        · exact (ih h).imp_right (List.mem_cons_of_mem b)

theorem Group.atRegang_nil {g : Group} (h : ∀ c ∈ g.paths.cells, c.2.th.state ≠ .atRegang) : g.atRegang = [] := by
  simpa [Group.atRegang, List.filter_eq_nil_iff] using h
theorem State.regangCheck_nil {c g : Nat} (h : (s.group c g).atRegang = []) : s.regangCheck c g = s := by
  simp [State.regangCheck, Group.regangFull, h]

/-- A group in which nobody waits at REGANG, path `i` having been set elsewhere. -/
theorem Group.atRegang_put {g : Group} {i : Nat} {p : Path} (h : ∀ c ∈ g.paths.cells, c.2.th.state ≠ .atRegang)
    (hp : p.th.state ≠ .atRegang) : ∀ c ∈ (g.paths.put i p).cells, c.2.th.state ≠ .atRegang := by
  intro c hc
  rcases putCell_mem_cases hc with rfl | hc
  · exact hp
  · exact h c hc

/-- A group of which lanes `x` have become idle as the run of path `i` has committed, with the paths that it then has. -/
def Group.idled (k : Group) (i : Nat) (x : Dword) (ps : Tab Path) : Group := { k.committed i with idle := k.idle ||| x, paths := ps }
theorem Group.commits_idled (k : Group) (i : Nat) (x : Dword) (ps : Tab Path) : k.Commits (k.idled i x ps) i := ⟨rfl, rfl, rfl, rfl⟩

section
variable {c g i : Nat} {f : GA} (h : s.Issues (.path c g i) (.idle f)) {x : Dword}
  (hx : (s.maskOf (.path c g i)) &&& s.srcG (.path c g i) f.a.toNat = x) (hstk : ((s.group c g).path i).stkv = false)
  (hregang : ∀ q ∈ (s.group c g).paths.cells, q.2.th.state ≠ .atRegang)
include h hx hstk hregang

/-- IDLE of some of the lanes of a path: the others go on. -/
theorem exec_idle_some (hrest : ((s.group c g).path i).mask &&& ~~~x ≠ 0) : exec (.idle f) s =
    .next (s.regroup c g i ((s.group c g).idled i x ((s.group c g).paths.put i
      (((s.group c g).path i).goOn (((s.group c g).path i).mask &&& ~~~x) (((s.group c g).path i).th.pc + 4))))) := by
  have hmask : s.maskOf (.path c g i) &&& ~~~x ≠ 0 := hrest
  have hmade := Group.makeIdle_some (g := (s.group c g).committed i) (next := ((s.group c g).path i).th.pc + 4) hstk hrest
  rw [exec_idle, execIdle, h.next, hx]
  simp only [State.idleLanes, if_neg hmask]
  rw [State.onGroup_settled, State.regangCheck_nil]
  · exact congrArg (fun k => Host.Outcome.next (s.regroup c g i k)) hmade
  · rw [State.group_regroup]
    refine (congrArg Group.atRegang hmade).trans (Group.atRegang_nil (Group.atRegang_put hregang ?_))
    nofun

/-- IDLE of all the lanes of a path that is no arm: its entry is free, and it has dropped out of its family's waits. -/
theorem exec_idle_all (hrest : ((s.group c g).path i).mask &&& ~~~x = 0) (harm : ((s.group c g).path i).arm = false) :
    exec (.idle f) s = .next ((s.dropOut (.path c g i) none).regroup c g i (((s.group c g).dropOut i none).idled i x
      ((((s.group c g).dropOut i none).paths.put i (((s.group c g).path i).goOn 0 (((s.group c g).path i).th.pc + 4))).drop i))) := by
  have hmask : s.maskOf (.path c g i) &&& ~~~x = 0 := hrest
  have hself := Group.path_dropOut_self (s.group c g) i none
  have hmade := Group.makeIdle_all (g := ((s.group c g).dropOut i none).committed i) (next := ((s.group c g).path i).th.pc + 4)
    ((congrArg Path.stkv hself).trans hstk) ((congrArg (fun p => p.mask &&& ~~~x) hself).trans hrest) ((congrArg Path.arm hself).trans harm)
  have hpath : (((s.group c g).dropOut i none).committed i).path i = (s.group c g).path i := hself
  rw [hpath] at hmade
  rw [exec_idle, execIdle, h.next, hx]
  simp only [State.idleLanes, if_pos hmask]
  rw [State.onGroup_settled, State.group_dropOut, State.regangCheck_nil]
  · exact congrArg (fun k => Host.Outcome.next ((s.dropOut (.path c g i) none).regroup c g i k)) hmade
  · rw [State.group_regroup]
    refine (congrArg Group.atRegang hmade).trans (Group.atRegang_nil fun q hq => ?_)
    refine Group.atRegang_put (Group.state_dropOut (P := fun st => st ≠ .atRegang) hregang) ?_ q (List.mem_of_mem_filter hq)
    nofun

end

/-! EXIT (spec/05 R128, spec/08 R194). -/

theorem Group.mayExit_iff (g : Group) (i : Nat) : g.mayExit i = true ↔
    g.paths.cells.length = 1 ∧ (g.path i).arm = false ∧ (g.path i).stkv = false ∧ g.live &&& ~~~(g.path i).mask = 0 := by
  simp [Group.mayExit, and_assoc]

/-- Lanes that have exited do not live. -/
theorem Group.live_exited (g : Group) : Group.live { g with exited := g.exited ||| g.live } = 0 := by
  apply BitVec.eq_of_getLsbD_eq
  intro l hl
  simpa [Group.live, hl] using fun hlaunched hidle hexited => ⟨hlaunched, hidle, hexited⟩

/-- A group whose last path has exited. -/
def Group.exitedBy (g : Group) (i : Nat) : Group := { g.committed i with exited := g.exited ||| g.live, paths := g.paths.drop i }

section
variable {c g i : Nat} {f : GA} (h : s.Issues (.path c g i) (.exit f))
include h

theorem exec_exit_legal (hmay : ((s.dropOut (.path c g i) none).group c g).mayExit i = true) : exec (.exit f) s =
    .next ((s.dropOut (.path c g i) none).regroup c g i (((s.dropOut (.path c g i) none).group c g).exitedBy i)) := by
  rw [exec_exit, execExit, h.next]
  simp only [hmay, Bool.not_true, Bool.false_eq_true, if_false]
  rw [State.onGroup_settled]
  rfl
theorem exec_exit_illegal (hmay : ((s.dropOut (.path c g i) none).group c g).mayExit i = false) : exec (.exit f) s =
    .next ((s.dropOut (.path c g i) none).faultUnit (.path c g i) (fltD 0x29 0)) := by
  rw [exec_exit, execExit, h.next]
  simp only [hmay, Bool.not_false, if_true]

end

/-- A sequencer's stream has ended (spec/08 R194). -/
theorem exec_exit_seq {c k : Nat} {f : GA} (h : s.Issues (.seq c k) (.exit f)) (hhalt : (s.team c k).haltPending = []) :
    exec (.exit f) s = .next (((s.commit (.seq c k)).leave (.seq c k)).onTeam c k fun t =>
      { t with seqExited := true, seq := t.seq.restart t.seq.pc }) := by
  have hteam : (s.teamOf (.seq c k)).haltPending = [] := hhalt
  rw [exec_exit, execExit, h.next]
  simp only [State.endStream, hteam]
  rfl

/-- A lantern program has ended (spec/08 R194): its slot is empty, and its grid counts it. -/
theorem exec_exit_lant {l p : Nat} {f : GA} (h : s.Issues (.lant l p) (.exit f)) : exec (.exit f) s =
    .next (((s.onLantern l fun k => { k with progs := k.progs.drop p }).leave (.lant l p)).countRetired (s.prog l p).grid false) := by
  rw [exec_exit, execExit, h.next]
  rfl

/-- A program leaves its slot of its lantern core, and has no turn. -/
def State.slotEmptied (s : State) (l p : Nat) : State := (s.onLantern l fun k => { k with progs := k.progs.drop p }).leave (.lant l p)

theorem State.slotEmptied_eq (s : State) (l p : Nat) : s.slotEmptied l p =
    { s.onLantern l (fun k => { k with progs := k.progs.drop p }) with turn := (s.slotEmptied l p).turn } := by
  rw [State.slotEmptied, State.leave, State.freeQuad, State.dropTurn]
  split <;> rfl
theorem State.progs_slotEmptied (s : State) (l p l' : Nat) : ((s.slotEmptied l p).lantern l').progs =
    if l' = l then (s.lantern l).progs.drop p else (s.lantern l').progs := by
  rw [State.slotEmptied_eq]
  have h := State.lantern_onLantern s l l' fun k => { k with progs := k.progs.drop p }
  refine (congrArg Lantern.progs h).trans ?_
  split <;> rfl

theorem State.countRetired_some {gid : Nat} {gr : Grid} (h : s.grids.find gid = some gr) : s.countRetired gid false =
    { s with grids := s.grids.put gid { gr with retired := gr.retired + 1 } } := by
  simp [State.countRetired, h]

/-- Settles O23: IDLE by whether lanes are left, EXIT by the kind of unit. -/
theorem idlesAndExits : Obligations.IdlesAndExits := by
  unfold Obligations.IdlesAndExits
  refine ⟨fun s c g i f => ?idle, fun s f => ⟨fun c g i => ?path, fun c k => ?seq, fun l p gr => ?lant⟩⟩
  case idle =>
    intro u k p x h hstk hregang
    refine ⟨fun hrest => ⟨_, exec_idle_some h rfl hstk hregang hrest, ?_⟩, fun hrest harm => ⟨_, exec_idle_all h rfl hstk hregang hrest harm, ?_⟩⟩
    · have hpath : (k.idled i x (k.paths.put i (p.goOn (p.mask &&& ~~~x) (p.th.pc + 4)))).path i =
          p.goOn (p.mask &&& ~~~x) (p.th.pc + 4) := Tab.get_put_same _ _ _ _
      have hrun := congrArg (fun q => q.th.run) hpath
      have hc := k.commits_idled i x (k.paths.put i (p.goOn (p.mask &&& ~~~x) (p.th.pc + 4)))
      refine ⟨(State.groupOnly_regroup s c g i _).units, ?_, ?_, ?_, State.sget_regroup hc hrun,
        fun l r _ => State.vget_regroup hc hrun (by rw [hpath]; rfl) l r, fun n hn => ?_⟩
      · rw [State.group_regroup]; rfl
      · rw [State.group_regroup]; rfl
      · rw [State.group_regroup]; exact hpath
      · rw [State.group_regroup]; exact Tab.get_put_other _ _ _ hn
    · refine ⟨((State.groupOnly_dropOut s c g i none).trans (State.groupOnly_regroup _ c g i _)).units, ?_, ?_, ?_, fun n hn => ?_⟩
      · rw [State.group_regroup]; rfl
      · rw [State.group_regroup]; rfl
      · rw [State.group_regroup]; exact Tab.find_drop_same _ _
      · have hother : (((k.dropOut i none).paths.put i (p.goOn 0 (p.th.pc + 4))).drop i).get n .none = (k.dropOut i none).path n := by
          rw [Tab.get, Tab.find_drop_other _ hn, Tab.find_put_other _ _ hn]
          rfl
        have hsame := Group.path_dropOut_sameButWait k i none n
        rw [State.group_regroup]
        exact ⟨(congrArg Path.mask hother).trans hsame.mask, (congrArg (fun q => q.th.pc) hother).trans hsame.pc⟩
  case path =>
    intro u s' k p legal h
    have hmay : legal ↔ k.mayExit i = true := (Group.mayExit_iff k i).symm
    refine ⟨fun hlegal => ⟨_, exec_exit_legal h (hmay.mp hlegal), (State.groupOnly_regroup s' c g i _).units,
      State.turn_regroup h.turn, ?_⟩, fun hno => exec_exit_illegal h (Bool.eq_false_iff.mpr fun hm => hno (hmay.mpr hm))⟩
    rw [State.group_regroup]
    exact ⟨rfl, k.live_exited, Tab.find_drop_same _ _, rfl, rfl, (State.groupOnly_regroup s' c g i _).groups⟩
  case seq =>
    intro u h hhalt
    have hsettled : s.Own ((s.commit u).leave u) u := (State.own_commit s u).trans (State.own_leave _ u u)
    refine ⟨_, exec_exit_seq h hhalt, hsettled.units.trans (State.unitsOnly_onTeam _ c k _), ?_, ?_, fun c' g' => ?_⟩
    · rw [State.team_onTeam_same]
    · simp [u, State.alive]
    · rw [State.group_onTeam]
      exact hsettled.apart.groups c' g' nofun
  case lant =>
    intro u h hgrid
    have hs := State.slotEmptied_eq s l p
    have hprogs := State.progs_slotEmptied s l p
    have hexec := exec_exit_lant h
    have hfind : (s.slotEmptied l p).grids.find (s.prog l p).grid = some gr := by rw [hs]; exact hgrid
    have hdone := State.countRetired_some hfind
    refine ⟨_, hexec.trans (congrArg _ hdone), ?_, Tab.find_put_same _ _ _, ?_, ?_, fun l' p' hn => ?_⟩
    · have hl : (s.slotEmptied l p).alive u = false := by
        simp [State.alive, u, hprogs, Tab.has]
      exact hl
    · rw [hs]; rfl
    · rw [hs]; rfl
    · have hl : (s.slotEmptied l p).prog l' p' = s.prog l' p' := by
        rw [State.prog, State.prog, hprogs]
        split
        · next he =>
          subst he
          rw [Tab.get, Tab.find_drop_other _ (hn.resolve_left fun h => h rfl)]
          rfl
        · rfl
      exact hl

end Sys2Proof.Machine

namespace Sys2Proof.Machine

variable {s t : State}

/-! JOIN in a group (spec/05 R125), case by case. -/

/-- A path whose divergence is over, or whose half of it is: other lanes, at `pc`, with the fmt and the stack below entry `e`. -/
def Path.resumed (p : Path) (m : Dword) (e : StackEntry) (pc : Dword) : Path :=
  { p with mask := m, stk := if e.nextv then e.next else 0, stkv := e.nextv, th := { p.th.restart pc with fmt := e.fmt } }
/-- An arm no longer. -/
def Path.whole (p : Path) : Path := { p with arm := false, partner := 0 }

section
variable {g : Group} {i : Nat} {j : Dword}

theorem Group.join_top (hs : (g.path i).stkv = false) (ha : (g.path i).arm = false) :
    g.join i j = .ok (g.withPaths g.stack (g.paths.put i ((g.path i).goOn (g.path i).mask (j + 4)))) := by
  simp [Group.join, hs, ha, Group.withPaths]

theorem Group.path_pop : (g.pop i).path i = { g.path i with
    stk := if (g.entry (g.path i).stk).nextv then (g.entry (g.path i).stk).next else 0
    stkv := (g.entry (g.path i).stk).nextv } := Tab.get_put_same _ _ _ _

section
variable (hs : (g.path i).stkv = true) (hk : (g.entry (g.path i).stk).kind = false)
include hs hk

/-- A serial entry in its first half: the waiting lanes run to here too. -/
theorem Group.join_first (hh : (g.entry (g.path i).stk).half = false) : g.join i j =
    .ok (g.withPaths (g.stack.put (g.path i).stk { g.entry (g.path i).stk with half := true, ppc := j, pmask := 0 })
      (g.paths.put i { g.path i with
        mask := (g.entry (g.path i).stk).pmask
        th := { (g.path i).th.restart (g.entry (g.path i).stk).ppc with fmt := (g.entry (g.path i).stk).fmt } })) := by
  simp [Group.join, hs, hk, hh, Group.withPaths, Path.goOn]
/-- In its second half, at the address of the first: all its lanes go on. -/
theorem Group.join_second (hh : (g.entry (g.path i).stk).half = true)
    (hat : (g.entry (g.path i).stk).nochk = true ∨ j = (g.entry (g.path i).stk).ppc) : g.join i j =
    .ok (g.withPaths (g.stack.drop (g.path i).stk)
      (g.paths.put i ((g.path i).resumed (g.entry (g.path i).stk).rmask (g.entry (g.path i).stk) (j + 4)))) := by
  have hstay : (!(g.entry (g.path i).stk).nochk && j != (g.entry (g.path i).stk).ppc) = false := by
    rcases hat with h | h <;> simp [h]
  simp only [Group.join, hs, hk, hh, hstay, Group.path_pop]
  simp [Group.pop, Group.withPaths, Tab.put_put, Path.resumed]
theorem Group.join_elsewhere (hh : (g.entry (g.path i).stk).half = true) (hn : (g.entry (g.path i).stk).nochk = false)
    (hj : j ≠ (g.entry (g.path i).stk).ppc) : g.join i j = .mismatch [i] := by
  simp [Group.join, hs, hk, hh, hn, hj]

end

section
variable (hk : (g.entry (g.path i).stk).kind = true) (ha : (g.path i).arm = true)

theorem Group.partnerOf_some {q : Path} (hq : g.paths.find (g.path i).partner = some q) (hqa : q.arm = true) (hqp : q.partner = i) :
    g.partnerOf i = some q := by
  simp [Group.partnerOf, hq, hqa, hqp]
theorem Group.partnerOf_none (h : ∀ q, g.paths.find (g.path i).partner = some q → q.arm = false ∨ q.partner ≠ i) :
    g.partnerOf i = .none := by
  unfold Group.partnerOf
  cases hf : g.paths.find (g.path i).partner with
  | none => rfl
  | some q => rcases h q hf with h | h <;> simp [h]

include hk ha

theorem Group.join_waits {q : Path} (hq : g.partnerOf i = some q) (hst : q.th.state ≠ .atJoin) : g.join i j =
    .ok (g.withPaths g.stack (g.paths.put i { g.path i with th := { (g.path i).th.restart j with state := .atJoin } })) := by
  simp [Group.join, hk, ha, hq, hst, Group.withPaths]
theorem Group.join_apart {q : Path} (hq : g.partnerOf i = some q) (hst : q.th.state = .atJoin)
    (hd : q.th.pc ≠ j ∨ q.wb ≠ (g.path i).wb) : g.join i j = .mismatch [i, (g.path i).partner] := by
  have hno : (q.th.pc == j && q.wb == (g.path i).wb) = false := by
    rcases hd with h | h <;> simp [h]
  simp [Group.join, hk, ha, hq, hst, hno]
/-- An arm whose partner's entry was freed is whole again, alone. -/
theorem Group.join_alone (hq : g.partnerOf i = .none) : g.join i j =
    .ok (g.withPaths (g.stack.drop (g.path i).stk)
      (g.paths.put i ((g.path i).whole.resumed (g.path i).mask (g.entry (g.path i).stk) (j + 4)))) := by
  simp [Group.join, hk, ha, hq, Group.merge, Group.withPaths, Path.whole, Path.resumed]

section
variable {q : Path} (hq : g.partnerOf i = some q) (hst : q.th.state = .atJoin) (hj : q.th.pc = j) (hw : q.wb = (g.path i).wb)
include hq hst hj hw

/-- The arms merge: into this one's entry where that is the lower. -/
theorem Group.join_merges_here (hlt : i < (g.path i).partner) : g.join i j =
    .ok (g.withPaths (g.stack.drop (g.path i).stk) ((g.paths.drop (g.path i).partner).put i
      ((g.path i).whole.resumed ((g.path i).mask ||| q.mask) (g.entry (g.path i).stk) (j + 4)))) := by
  have hmin : min i (g.path i).partner = i := by omega
  simp [Group.join, hk, ha, hq, hst, hj, hw, Group.merge, hmin, Group.withPaths, Path.whole, Path.resumed]
/-- The arms merge: into the partner's entry where that is the lower. -/
theorem Group.join_merges_there (hlt : (g.path i).partner < i) : g.join i j =
    .ok (g.withPaths (g.stack.drop (g.path i).stk) ((g.paths.drop i).put (g.path i).partner
      ((g.path (g.path i).partner).whole.resumed ((g.path i).mask ||| q.mask) (g.entry (g.path i).stk) (j + 4)))) := by
  have hmin : min i (g.path i).partner = (g.path i).partner := by omega
  have hne : (g.path i).partner ≠ i := by omega
  simp [Group.join, hk, ha, hq, hst, hj, hw, Group.merge, hmin, hne, Group.withPaths, Path.whole, Path.resumed]

end

end

end

/-! JOIN as an instruction. -/

theorem State.pcOf_eq_dropOut (s : State) (c g i : Nat) :
    s.pcOf (.path c g i) = (((s.dropOut (.path c g i) none).group c g).path i).th.pc :=
  congrArg Thread.pc (State.thread_dropOut s c g i none).symm

section
variable {c g i : Nat} {f : GA} (h : s.Issues (.path c g i) (.join f)) {k : Group} (hk : (s.dropOut (.path c g i) none).group c g = k)
  {j : Dword} (hj : (k.path i).th.pc = j)
include h hk hj

/-- Where the paths and the stack after the JOIN are `ps` and `st`. -/
theorem exec_join_ok {st : Tab StackEntry} {ps : Tab Path} (hjoin : k.join i j = .ok (k.withPaths st ps))
    (hcommit : (k.committed i).join i j = .ok ((k.committed i).withPaths st ps)) :
    exec (.join f) s = .next ((s.dropOut (.path c g i) none).repath c g i st ps) := by
  rw [exec_join, execJoin, h.next]
  simp only [State.pcOf_eq_dropOut, hk, hj, hjoin]
  rw [State.onGroup_settled, hk, hcommit, State.repath, hk]
theorem exec_join_mismatch {who : List Nat} (hjoin : k.join i j = .mismatch who) : exec (.join f) s =
    .next (who.foldl (fun s n => s.faultUnit (.path c g n) (fltD 0x28 1)) (s.dropOut (.path c g i) none)) := by
  rw [exec_join, execJoin, h.next]
  simp only [State.pcOf_eq_dropOut, hk, hj, hjoin]

end

/-- A path that stands elsewhere, or waits, with its lanes and its stack as they are has changed its own alone. -/
theorem State.own_repath (s : State) (c g i : Nat) (th : Thread) :
    s.Own (s.repath c g i (s.group c g).stack ((s.group c g).paths.put i { (s.group c g).path i with th := th })) (.path c g i) := by
  refine (State.groupOnly_repath s c g i _ _).own ?_ (fun n hn => ?_) ?_
  · rw [State.repath, State.group_regroup]
    rfl
  · rw [State.path_repath]
    exact Tab.get_put_other _ _ _ hn
  · rw [State.path_repath, Tab.get_put_same]

/-- What it leaves where path `i` stands as `th` has it, in a new run. -/
theorem State.repath_stands (s : State) (c g i : Nat) {th : Thread} (hrun : th.run = .fresh) :
    let t := s.repath c g i (s.group c g).stack ((s.group c g).paths.put i { (s.group c g).path i with th := th })
    s.Own t (.path c g i) ∧ t.thread (.path c g i) = th ∧ ∀ r, t.sget (.path c g i) r = s.sget (.path c g i) r :=
  ⟨State.own_repath s c g i th, congrArg Path.th ((State.path_repath s c g i _ _ i).trans (Tab.get_put_same _ _ _ _)),
    State.sget_repath s c g i _ (Tab.get_put_same _ _ _ _) hrun⟩

/-- What JOIN leaves where path `i` goes on in its own entry as `p`. -/
theorem State.repath_goes (s : State) (c g i : Nat) (st : Tab StackEntry) (ps : Tab Path) {p : Path} (hrun : p.th.run = .fresh) :
    let t := s.repath c g i st (ps.put i p)
    s.UnitsOnly t ∧ (t.group c g).stack = st ∧ (t.group c g).path i = p ∧ ∀ r, t.sget (.path c g i) r = s.sget (.path c g i) r :=
  ⟨(State.groupOnly_repath s c g i _ _).units, State.stack_repath s c g i _ _,
    (State.path_repath s c g i _ _ i).trans (Tab.get_put_same _ _ _ _), State.sget_repath s c g i st (Tab.get_put_same _ _ _ _) hrun⟩
theorem State.path_repath_other (s : State) (c g i : Nat) (st : Tab StackEntry) (p : Path) {n : Nat} (hn : n ≠ i) :
    ((s.repath c g i st ((s.group c g).paths.put i p)).group c g).path n = (s.group c g).path n :=
  (State.path_repath s c g i _ _ n).trans (Tab.get_put_other _ _ _ hn)

end Sys2Proof.Machine

namespace Sys2Proof.Machine

variable {s t : State}

/-! Cells in ascending order, and those of them that a test picks. -/

theorem findCell_of_mem {α : Type} {l : List (Nat × α)} (h : ascending l) {c : Nat × α} (hc : c ∈ l) : findCell c.1 l = some c.2 := by
  induction l with
  | nil => cases hc
  | cons b r ih =>
    obtain ⟨hb, hr⟩ := List.pairwise_cons.mp h
    rcases List.mem_cons.mp hc with rfl | hc
    · simp [findCell]
    · have hne : b.1 ≠ c.1 := Nat.ne_of_lt (hb c hc)
      simpa [findCell, hne] using ih hr hc
theorem findCell_isSome_iff {α : Type} (k : Nat) (l : List (Nat × α)) : (findCell k l).isSome = true ↔ k ∈ l.map (·.1) := by
  induction l with
  | nil => simp [findCell]
  | cons c r ih =>
    by_cases hc : c.1 = k
    · simp [findCell, hc]
    · simpa [findCell, hc, Ne.symm hc] using ih
theorem Tab.has_iff_mem_keys {α : Type} (t : Tab α) (k : Nat) : t.has k = true ↔ k ∈ t.keys := findCell_isSome_iff k t.cells
theorem Tab.ascending_iff_keys {α : Type} (t : Tab α) : ascending t.cells ↔ t.keys.Pairwise (· < ·) := by
  rw [ascending, Tab.keys, List.pairwise_map]

/-- A key that is there stays at its place. -/
theorem Tab.keys_put_of_has {α : Type} {t : Tab α} (h : ascending t.cells) {k : Nat} (hk : t.has k = true) (a : α) :
    (t.put k a).keys = t.keys := by
  rw [Tab.has_iff_mem_keys] at hk
  simp only [Tab.keys, Tab.put] at hk ⊢
  generalize t.cells = l at h hk
  induction l with
  | nil => cases hk
  | cons c r ih =>
    obtain ⟨hc, hr⟩ := List.pairwise_cons.mp h
    by_cases heq : c.1 = k
    · simp [putCell, heq]
    · have hin : k ∈ r.map (·.1) := by simpa [Ne.symm heq] using hk
      obtain ⟨b, hb, rfl⟩ := List.mem_map.mp hin
      have hlt : ¬ b.1 < c.1 := Nat.not_lt.mpr (Nat.le_of_lt (hc b hb))
      simp [putCell, hlt, heq, ih hr hin]

/-- The keys of the cells that a test picks, by what the table reads at them. -/
theorem Tab.keys_filter {α : Type} {t : Tab α} (h : ascending t.cells) (P : α → Bool) (d : α) :
    (t.cells.filter fun c => P c.2).map (·.1) = t.keys.filter fun k => P (t.get k d) := by
  rw [Tab.keys, List.filter_map]
  refine congrArg _ (List.filter_congr fun c hc => ?_)
  simp [Tab.get, Tab.find, findCell_of_mem h hc]

/-- The one cell set, where the test picks none of those that were there. -/
theorem filter_putCell_one {α : Type} (P : Nat × α → Bool) {l : List (Nat × α)} (h : ∀ c ∈ l, P c = false) {k : Nat} {a : α}
    (ha : P (k, a) = true) : (putCell k a l).filter P = [(k, a)] := by
  induction l with
  | nil => simp [putCell, ha]
  | cons c r ih =>
    obtain ⟨hc, hr⟩ := List.forall_mem_cons.mp h
    have hnone : r.filter P = [] := List.filter_eq_nil_iff.mpr fun b hb => by simp [hr b hb]
    simp only [putCell]
    split
    · simp [ha, hc, hnone]
    · split
      · simp [ha, hnone]
      · simp [hc, ih hr]

theorem Tab.find_dropAll {α : Type} (ks : List (Nat × α)) (t : Tab α) (n : Nat) :
    (ks.foldl (fun t c => t.drop c.1) t).find n = if n ∈ ks.map (·.1) then none else t.find n := by
  induction ks generalizing t with
  | nil => simp
  | cons c r ih =>
    rw [List.foldl_cons, ih, Tab.find_drop]
    by_cases hr : n ∈ r.map (·.1)
    · rw [if_pos hr, List.map_cons, if_pos (List.mem_cons_of_mem _ hr)]
    · rw [if_neg hr, List.map_cons]
      exact if_congr (by simp [hr]) rfl rfl

theorem getLsbD_orMasks (l : List (Nat × Path)) (m : Dword) (b : Nat) :
    (l.foldl (fun a c => a ||| c.2.mask) m).getLsbD b = true ↔ m.getLsbD b = true ∨ ∃ c ∈ l, c.2.mask.getLsbD b = true := by
  induction l generalizing m with
  | nil => simp
  | cons c r ih =>
    rw [List.foldl_cons, ih]
    simp [or_assoc]

theorem andNot_eq_zero_iff (x y : Dword) : x &&& ~~~y = 0 ↔ ∀ l, l < 64 → x.getLsbD l = true → y.getLsbD l = true := by
  constructor
  · intro h l hl hx
    have hbit := congrArg (fun z => z.getLsbD l) h
    simpa [hl, hx] using hbit
  · intro h
    apply BitVec.eq_of_getLsbD_eq
    intro l hl
    simpa [hl] using h l hl

/-! The paths that stand at REGANG (spec/05 R127). -/

theorem Group.regangFull_iff (g : Group) : g.regangFull = true ↔
    g.atRegang ≠ [] ∧ ∀ l, l < 64 → g.live.getLsbD l = true → ∃ c ∈ g.atRegang, c.2.mask.getLsbD l = true := by
  have hfull : g.regangFull = true ↔
      g.atRegang ≠ [] ∧ g.live &&& ~~~(g.atRegang.foldl (fun a c => a ||| c.2.mask) 0) = 0 := by
    simp [Group.regangFull]
  rw [hfull, andNot_eq_zero_iff]
  simp only [getLsbD_orMasks]
  simp

theorem Group.regangAgree_iff {g : Group} {c : Nat × Path} (hc : c ∈ g.atRegang) : g.regangAgree = true ↔
    ∀ d ∈ g.atRegang, d.2.th.pc = c.2.th.pc ∧ d.2.wb = c.2.wb := by
  unfold Group.regangAgree
  cases hA : g.atRegang with
  | nil => rw [hA] at hc; cases hc
  | cons b r =>
    have hall : (r.all fun d => d.2.th.pc == b.2.th.pc && d.2.wb == b.2.wb) = true ↔
        ∀ d ∈ b :: r, d.2.th.pc = b.2.th.pc ∧ d.2.wb = b.2.wb := by
      simp
    rw [hA] at hc
    refine hall.trans ⟨fun h d hd => ?_, fun h d hd => ?_⟩
    · obtain ⟨hp, hw⟩ := h d hd
      obtain ⟨hp', hw'⟩ := h c hc
      exact ⟨hp.trans hp'.symm, hw.trans hw'.symm⟩
    · obtain ⟨hp, hw⟩ := h d hd
      obtain ⟨hp', hw'⟩ := h b (by simp)
      exact ⟨hp.trans hp'.symm, hw.trans hw'.symm⟩

/-- The paths once those at REGANG, the first of them `c`, are one. -/
def Group.regangPaths (g : Group) (c : Nat × Path) (r : List (Nat × Path)) : Tab Path :=
  (r.foldl (fun t d => t.drop d.1) g.paths).put c.1 (c.2.goOn (r.foldl (fun a d => a ||| d.2.mask) c.2.mask) (c.2.th.pc + 4))

theorem Group.regangMerge_cons {g : Group} {c : Nat × Path} {r : List (Nat × Path)} (h : g.atRegang = c :: r) :
    g.regangMerge = g.withPaths g.stack (g.regangPaths c r) := by
  rw [Group.regangMerge, h]
  rfl

section
variable {c g : Nat} {k : Group} (hk : s.group c g = k)
include hk

theorem State.regangCheck_partial (h : k.regangFull = false) : s.regangCheck c g = s := by
  simp [State.regangCheck, hk, h]
theorem State.regangCheck_agree (h : k.regangFull = true) (ha : k.regangAgree = true) :
    s.regangCheck c g = s.onGroup c g Group.regangMerge := by
  simp [State.regangCheck, hk, h, ha]
theorem State.regangCheck_disagree (h : k.regangFull = true) (ha : k.regangAgree = false) : s.regangCheck c g =
    (k.atRegang.map (·.1)).foldl (fun s n => s.faultUnit (.path c g n) (fltD 0x28 2)) s := by
  simp [State.regangCheck, hk, h, ha, List.foldl_map]

end

/-! A path that comes to REGANG. -/

/-- The path once it stands at REGANG. -/
def Path.arrived (p : Path) : Path := { p with th := { p.th.restart p.th.pc with state := .atRegang } }
/-- The group once path `i` stands at REGANG. -/
def Group.came (k : Group) (i : Nat) : Group := (k.committed i).withPaths k.stack (k.paths.put i (k.path i).arrived)
/-- Its state. -/
def State.came (s : State) (c g i : Nat) : State :=
  s.repath c g i (s.group c g).stack ((s.group c g).paths.put i ((s.group c g).path i).arrived)

theorem State.group_came (s : State) (c g i : Nat) : (s.came c g i).group c g = (s.group c g).came i :=
  State.group_regroup s c g i _
theorem State.came_eq (s : State) (c g i : Nat) : ((s.commit (.path c g i)).leave (.path c g i)).onThread (.path c g i)
    (fun t => { t.restart t.pc with state := .atRegang }) = s.came c g i := by
  rw [State.onThread_path, State.onGroup_settled]
  rfl

theorem State.came_stands (s : State) (c g i : Nat) : s.Own (s.came c g i) (.path c g i) ∧
    (s.came c g i).thread (.path c g i) = ((s.group c g).path i).arrived.th ∧
    ∀ r, (s.came c g i).sget (.path c g i) r = s.sget (.path c g i) r :=
  State.repath_stands s c g i (th := ((s.group c g).path i).arrived.th) rfl

theorem Group.path_came (k : Group) (i n : Nat) : (k.came i).path n = if n = i then (k.path i).arrived else k.path n :=
  Tab.get_put k.paths n i _ _
/-- The path that has come has the lanes, the address, the base and the format that it had. -/
theorem Group.came_same (k : Group) (i n : Nat) : ((k.came i).path n).mask = (k.path n).mask ∧
    ((k.came i).path n).th.pc = (k.path n).th.pc ∧ ((k.came i).path n).wb = (k.path n).wb ∧
    ((k.came i).path n).th.fmt = (k.path n).th.fmt := by
  rw [Group.path_came]
  split
  · next h =>
    subst h
    exact ⟨rfl, rfl, rfl, rfl⟩
  · exact ⟨rfl, rfl, rfl, rfl⟩

/-- Does path `n` stand at REGANG once path `i` has come there? -/
def Group.waits (k : Group) (i n : Nat) : Prop := n = i ∨ (k.paths.has n = true ∧ (k.path n).th.state = .atRegang)

/-- Nobody else stands there. -/
theorem Group.atRegang_came_alone {k : Group} {i : Nat} (h : ∀ c ∈ k.paths.cells, c.2.th.state ≠ .atRegang) :
    (k.came i).atRegang = [(i, (k.path i).arrived)] :=
  filter_putCell_one _ (fun c hc => by simpa using h c hc) rfl

section
variable {k : Group} {i : Nat} (hasc : k.paths.keys.Pairwise (· < ·)) (hi : k.paths.has i = true)
include hasc hi

theorem Group.keys_atRegang_came : (k.came i).atRegang.map (·.1) =
    k.paths.keys.filter fun n => n == i || (k.path n).th.state == .atRegang := by
  have hasc' := (Tab.ascending_iff_keys k.paths).mpr hasc
  have hput : ascending (k.came i).paths.cells := ascending_put hasc' i _
  have hkeys : (k.came i).paths.keys = k.paths.keys := Tab.keys_put_of_has hasc' hi _
  rw [Group.atRegang, Tab.keys_filter hput (fun p => p.th.state == .atRegang) .none, hkeys]
  refine List.filter_congr fun n _ => ?_
  have hp : (k.came i).paths.get n .none = if n = i then (k.path i).arrived else k.path n := k.path_came i n
  rw [hp]
  by_cases hn : n = i
  · simp [hn, Path.arrived]
  · simp [hn]

theorem Group.mem_keys_atRegang_came (n : Nat) : n ∈ (k.came i).atRegang.map (·.1) ↔ k.waits i n := by
  rw [Group.keys_atRegang_came hasc hi, List.mem_filter, ← Tab.has_iff_mem_keys]
  unfold Group.waits
  constructor
  · rintro ⟨hn, h⟩
    simpa [hn] using h
  · rintro (rfl | ⟨hn, h⟩)
    · simp [hi]
    · simp [hn, h]

theorem Group.of_mem_atRegang_came {c : Nat × Path} (hc : c ∈ (k.came i).atRegang) : k.waits i c.1 ∧ c.2 = (k.came i).path c.1 := by
  refine ⟨(Group.mem_keys_atRegang_came hasc hi c.1).mp (List.mem_map_of_mem hc), ?_⟩
  have hput : ascending (k.came i).paths.cells := ascending_put ((Tab.ascending_iff_keys k.paths).mpr hasc) i _
  have hf : (k.came i).paths.find c.1 = some c.2 := findCell_of_mem hput (List.mem_of_mem_filter hc)
  simp [Group.path, Tab.get, hf]
theorem Group.mem_atRegang_came {n : Nat} (hn : k.waits i n) : (n, (k.came i).path n) ∈ (k.came i).atRegang := by
  obtain ⟨c, hc, rfl⟩ := List.mem_map.mp ((Group.mem_keys_atRegang_came hasc hi n).mpr hn)
  rw [← (Group.of_mem_atRegang_came hasc hi hc).2]
  exact hc

/-- The lanes that stand at REGANG. -/
theorem Group.held_came (l : Nat) : (∃ c ∈ (k.came i).atRegang, c.2.mask.getLsbD l = true) ↔
    ∃ n, k.waits i n ∧ (k.path n).mask.getLsbD l = true := by
  constructor
  · rintro ⟨c, hc, hl⟩
    obtain ⟨hw, hp⟩ := Group.of_mem_atRegang_came hasc hi hc
    rw [hp, (k.came_same i c.1).1] at hl
    exact ⟨c.1, hw, hl⟩
  · rintro ⟨n, hw, hl⟩
    exact ⟨_, Group.mem_atRegang_came hasc hi hw, by rw [(k.came_same i n).1]; exact hl⟩

theorem Group.regangFull_came : (k.came i).regangFull = true ↔
    ∀ l, l < 64 → k.live.getLsbD l = true → ∃ n, k.waits i n ∧ (k.path n).mask.getLsbD l = true := by
  have hne : (k.came i).atRegang ≠ [] := List.ne_nil_of_mem (Group.mem_atRegang_came hasc hi (.inl rfl))
  rw [Group.regangFull_iff]
  simp only [Group.held_came hasc hi]
  exact ⟨fun h => h.2, fun h => ⟨hne, h⟩⟩

/-- Do all that wait stand at one address with one base? -/
theorem Group.regangAgree_came : (k.came i).regangAgree = true ↔
    ∀ n, k.waits i n → (k.path n).th.pc = (k.path i).th.pc ∧ (k.path n).wb = (k.path i).wb := by
  have hself := Group.mem_atRegang_came hasc hi (.inl rfl : k.waits i i)
  rw [Group.regangAgree_iff hself]
  obtain ⟨-, hpi, hwi, -⟩ := k.came_same i i
  constructor
  · intro h n hn
    obtain ⟨-, hpn, hwn, -⟩ := k.came_same i n
    rw [← hpi, ← hwi, ← hpn, ← hwn]
    exact h _ (Group.mem_atRegang_came hasc hi hn)
  · intro h d hd
    obtain ⟨hw, hp⟩ := Group.of_mem_atRegang_came hasc hi hd
    obtain ⟨-, hpn, hwn, -⟩ := k.came_same i d.1
    dsimp only
    rw [hp, hpi, hwi, hpn, hwn]
    exact h d.1 hw

/-- The lowest of those that wait heads them. -/
theorem Group.atRegang_came_cons {m : Nat} (hm : k.waits i m) (hmin : ∀ n, k.waits i n → m ≤ n) :
    ∃ r, (k.came i).atRegang = (m, (k.came i).path m) :: r ∧ ∀ n, n ∈ r.map (·.1) ↔ k.waits i n ∧ n ≠ m := by
  have hput : ascending (k.came i).paths.cells := ascending_put ((Tab.ascending_iff_keys k.paths).mpr hasc) i _
  have hA : ascending (k.came i).atRegang := ascending_filter hput _
  have hmem := Group.mem_atRegang_came hasc hi hm
  have hkeys := Group.mem_keys_atRegang_came hasc hi
  have hof := fun c => Group.of_mem_atRegang_came hasc hi (c := c)
  generalize (k.came i).atRegang = A at hA hmem hkeys hof
  cases A with
  | nil => cases hmem
  | cons b r =>
    obtain ⟨hb, -⟩ := List.pairwise_cons.mp hA
    obtain ⟨hbw, hbp⟩ := hof b (by simp)
    have hbm : b.1 = m := by
      refine Nat.le_antisymm ?_ (hmin b.1 hbw)
      rcases List.mem_cons.mp hmem with h | h
      · exact Nat.le_of_eq (congrArg Prod.fst h).symm
      · exact Nat.le_of_lt (hb _ h)
    subst hbm
    refine ⟨r, by rw [← hbp], fun n => ?_⟩
    rw [← hkeys n, List.map_cons, List.mem_cons]
    constructor
    · intro hn
      obtain ⟨d, hd, rfl⟩ := List.mem_map.mp hn
      exact ⟨.inr hn, Nat.ne_of_gt (hb d hd)⟩
    · rintro ⟨h | h, hne⟩
      · exact absurd h hne
      · exact h

end

/-- A path alone at REGANG goes on. -/
theorem Group.regangPaths_came_alone (k : Group) (i : Nat) : (k.came i).regangPaths (i, (k.path i).arrived) [] =
    k.paths.put i ((k.path i).goOn (k.path i).mask ((k.path i).th.pc + 4)) := Tab.put_put k.paths i _ _

section
variable {k : Group} {i m : Nat} {r : List (Nat × Path)} (hm : k.waits i m) (hr : ∀ n, n ∈ r.map (·.1) ↔ k.waits i n ∧ n ≠ m)

/-- The merged path, in the lowest entry. -/
theorem Group.get_regangPaths_first : ((k.came i).regangPaths (m, (k.came i).path m) r).get m .none =
    ((k.came i).path m).goOn (r.foldl (fun a d => a ||| d.2.mask) ((k.came i).path m).mask) (((k.came i).path m).th.pc + 4) :=
  Tab.get_put_same _ _ _ _
include hr
theorem Group.find_regangPaths_merged {n : Nat} (hn : k.waits i n) (hne : n ≠ m) :
    ((k.came i).regangPaths (m, (k.came i).path m) r).find n = .none := by
  rw [Group.regangPaths, Tab.find_put_other _ _ hne, Tab.find_dropAll, if_pos ((hr n).mpr ⟨hn, hne⟩)]
include hm
theorem Group.get_regangPaths_other {n : Nat} (hn : ¬ k.waits i n) :
    ((k.came i).regangPaths (m, (k.came i).path m) r).get n .none = k.path n := by
  have hne : n ≠ m := fun h => hn (h ▸ hm)
  have hni : n ≠ i := fun h => hn (.inl h)
  rw [Group.regangPaths, Tab.get, Tab.find_put_other _ _ hne, Tab.find_dropAll, if_neg fun h => hn ((hr n).mp h).1]
  exact (k.path_came i n).trans (if_neg hni)

end

/-! REGANG as an instruction. -/

section
variable {c g i : Nat} {f : GA} (h : s.Issues (.path c g i) (.regang f)) {k : Group}
  (hk : (s.dropOut (.path c g i) none).group c g = k)
include h hk

theorem exec_regang_top (ha : (k.path i).arm = false) (hs : (k.path i).stkv = false) : exec (.regang f) s =
    .next (((s.dropOut (.path c g i) none).came c g i).regangCheck c g) := by
  have hpath : s.pathOf (.path c g i) = k.path i := by
    rw [← hk, State.group_dropOut, Group.path_dropOut_self]
    rfl
  rw [exec_regang, execRegang, h.next]
  simp only [hpath, ha, hs, Bool.or_self, Bool.false_eq_true, if_false]
  rw [State.came_eq]
theorem exec_regang_divided (hd : (k.path i).arm = true ∨ (k.path i).stkv = true) : exec (.regang f) s =
    .next ((s.dropOut (.path c g i) none).faultUnit (.path c g i) (fltD 0x28 3)) := by
  have hpath : s.pathOf (.path c g i) = k.path i := by
    rw [← hk, State.group_dropOut, Group.path_dropOut_self]
    rfl
  have hor : ((k.path i).arm || (k.path i).stkv) = true := by simpa using hd
  rw [exec_regang, execRegang, h.next]
  simp only [hpath, hor, if_true]

end

/-- The paths at REGANG have merged, the first of them being `x`. -/
theorem State.came_merged (s : State) (c g i : Nat) {x : Nat × Path} {r : List (Nat × Path)}
    (hA : ((s.group c g).came i).atRegang = x :: r) (hfull : ((s.group c g).came i).regangFull = true)
    (hagree : ((s.group c g).came i).regangAgree = true) :
    (s.came c g i).regangCheck c g = s.repath c g i (s.group c g).stack (((s.group c g).came i).regangPaths x r) := by
  rw [State.regangCheck_agree (State.group_came s c g i) hfull hagree, State.came, State.repath, State.onGroup_regroup]
  exact congrArg (s.regroup c g i) (Group.regangMerge_cons hA)

end Sys2Proof.Machine

namespace Sys2Proof.Machine

/-- Settles O22: JOIN and REGANG case by case, each from its law about the group, in the state in which the path has dropped out of its
family's waits. -/
theorem joinsAndRegangs : Obligations.JoinsAndRegangs := by
  unfold Obligations.JoinsAndRegangs
  refine ⟨fun s c g i f => ?join, fun s c g i f => ?regang⟩
  case join =>
    intro u s' k p e j h
    have hseen (r : Nat) : s'.sget u r = s.sget u r := State.sget_dropOut s c g i none r
    refine ⟨fun hs ha => ?top, fun hs hk hh => ?first, fun hs hk hh hat => ?second, fun hs hk hh hn hj => ?elsewhere,
      fun q hs hk ha hpi hq hqa hqp => ?arm, fun hs hk ha hgone => ?alone⟩
    case top =>
      exact ⟨_, exec_join_ok h rfl rfl (Group.join_top hs ha) (Group.join_top (g := k.committed i) hs ha), State.jumpDone_repath s' c g i (j + 4)⟩
    case first =>
      obtain ⟨hunits, hstack, hpath, hsget⟩ := State.repath_goes s' c g i
        (k.stack.put p.stk { e with half := true, ppc := j, pmask := 0 }) k.paths
        (p := { p with mask := e.pmask, th := { (p.th.restart e.ppc) with fmt := e.fmt } }) rfl
      exact ⟨_, exec_join_ok h rfl rfl (Group.join_first hs hk hh) (Group.join_first (g := k.committed i) hs hk hh), hunits, hstack, hpath,
        fun r => (hsget r).trans (hseen r), fun n hn => State.path_repath_other s' c g i _ _ hn⟩
    case second =>
      obtain ⟨hunits, hstack, hpath, hsget⟩ := State.repath_goes s' c g i (k.stack.drop p.stk) k.paths (p := p.resumed e.rmask e (j + 4)) rfl
      exact ⟨_, exec_join_ok h rfl rfl (Group.join_second hs hk hh hat) (Group.join_second (g := k.committed i) hs hk hh hat), hunits, hstack,
        hpath, fun r => (hsget r).trans (hseen r), fun n hn => State.path_repath_other s' c g i _ _ hn⟩
    case elsewhere => exact exec_join_mismatch h rfl rfl (Group.join_elsewhere hs hk hh hn hj)
    case arm =>
      have hpart : k.partnerOf i = some q := Group.partnerOf_some hq hqa hqp
      refine ⟨fun hst => ?_, fun hst hqj hqw hlt => ?_, fun hst hqj hqw hlt hqs => ?_, fun hst hd => ?_⟩
      · obtain ⟨hown, hth, hsget⟩ := State.repath_stands s' c g i (th := { p.th.restart j with state := .atJoin }) rfl
        have hstate := congrArg Thread.state hth
        have hpc := congrArg Thread.pc hth
        exact ⟨_, exec_join_ok h rfl rfl (Group.join_waits hk ha hpart hst) (Group.join_waits (g := k.committed i) hk ha hpart hst), hown,
          hstate, hpc, fun r => (hsget r).trans (hseen r)⟩
      · obtain ⟨hunits, hstack, hpath, hsget⟩ := State.repath_goes s' c g i (k.stack.drop p.stk) (k.paths.drop p.partner)
          (p := p.whole.resumed (p.mask ||| q.mask) e (j + 4)) rfl
        refine ⟨_, exec_join_ok h rfl rfl (Group.join_merges_here hk ha hpart hst hqj hqw hlt)
          (Group.join_merges_here (g := k.committed i) hk ha hpart hst hqj hqw hlt), hunits, hstack, ?_, hpath, fun r => (hsget r).trans (hseen r)⟩
        rw [State.paths_repath]
        exact (Tab.find_put_other _ _ hpi).trans (Tab.find_drop_same _ _)
      · have hqpath : k.path p.partner = q := by simp [Group.path, Tab.get, hq]
        refine ⟨_, exec_join_ok h rfl rfl (Group.join_merges_there hk ha hpart hst hqj hqw hlt)
          (Group.join_merges_there (g := k.committed i) hk ha hpart hst hqj hqw hlt), (State.groupOnly_repath s' c g i _ _).units,
          State.stack_repath s' c g i _ _, ?_, ?_, fun n hn hnp => ?_, fun r => (State.sregs_repath s' c g i _ _ r).trans (hseen r)⟩
        · rw [State.paths_repath]
          exact (Tab.find_put_other _ _ hpi.symm).trans (Tab.find_drop_same _ _)
        · rw [State.path_repath, Tab.get_put_same, hqpath]
          rfl
        · rw [State.path_repath, Tab.get_put_other _ _ _ hnp, Tab.get, Tab.find_drop_other _ hn]
          rfl
      · exact exec_join_mismatch h rfl rfl (Group.join_apart hk ha hpart hst hd)
    case alone =>
      have hpart : k.partnerOf i = .none := Group.partnerOf_none hgone
      obtain ⟨hunits, hstack, hpath, hsget⟩ := State.repath_goes s' c g i (k.stack.drop p.stk) k.paths
        (p := p.whole.resumed p.mask e (j + 4)) rfl
      exact ⟨_, exec_join_ok h rfl rfl (Group.join_alone hk ha hpart) (Group.join_alone (g := k.committed i) hk ha hpart), hunits, hstack, hpath,
        fun n hn => State.path_repath_other s' c g i _ _ hn, fun r => (hsget r).trans (hseen r)⟩
  case regang =>
    intro u s' k p h
    have hseen (r : Nat) : s'.sget u r = s.sget u r := State.sget_dropOut s c g i none r
    refine ⟨fun ha hs hnone => ?alone, fun ha hs hasc hi => ?others, fun hd => exec_regang_divided h rfl hd⟩
    case alone =>
      have hA : (k.came i).atRegang = [(i, p.arrived)] := Group.atRegang_came_alone hnone
      have hexec := exec_regang_top h rfl ha hs
      refine ⟨fun hall => ?_, fun l hl hlive hout => ?_⟩
      · have hfull : (k.came i).regangFull = true := by
          rw [Group.regangFull_iff, hA]
          exact ⟨nofun, fun l hl hlive => ⟨(i, p.arrived), List.mem_singleton.mpr rfl, hall l hl hlive⟩⟩
        have hagree : (k.came i).regangAgree = true := by
          simp [Group.regangAgree, hA]
        have hmerged := State.came_merged s' c g i hA hfull hagree
        rw [Group.regangPaths_came_alone] at hmerged
        exact ⟨_, hexec.trans (congrArg _ hmerged), State.jumpDone_repath s' c g i (p.th.pc + 4)⟩
      · have hpart : (k.came i).regangFull = false := by
          rw [Bool.eq_false_iff, Ne, Group.regangFull_iff, hA]
          rintro ⟨-, hall⟩
          obtain ⟨d, hd, hmask⟩ := hall l hl hlive
          obtain rfl : d = (i, p.arrived) := by simpa using hd
          exact Bool.false_ne_true (hout.symm.trans hmask)
        obtain ⟨hown, hth, hsget⟩ := State.came_stands s' c g i
        have hstate := congrArg Thread.state hth
        have hpc := congrArg Thread.pc hth
        exact ⟨_, hexec.trans (congrArg _ (State.regangCheck_partial (State.group_came s' c g i) hpart)), hown,
          hstate, hpc, fun r => (hsget r).trans (hseen r)⟩
    case others =>
      intro waits held stands came
      have hcame : came = s'.came c g i := State.came_eq s' c g i
      have hexec := exec_regang_top h rfl ha hs
      have hfull : (k.came i).regangFull = true ↔ ∀ l, l < 64 → k.live.getLsbD l = true → held l := Group.regangFull_came hasc hi
      have hagree : (k.came i).regangAgree = true ↔ ∀ n, waits n → stands n := Group.regangAgree_came hasc hi
      refine ⟨fun l hl hlive hno => ?_, fun hall => ⟨fun m hm hmin hst => ?_, fun ⟨n, hn, hno⟩ => ?_⟩⟩
      · rw [hcame, hexec, State.regangCheck_partial (State.group_came s' c g i)]
        exact Bool.eq_false_iff.mpr fun hf => hno (hfull.mp hf l hl hlive)
      · obtain ⟨r, hA, hr⟩ := Group.atRegang_came_cons hasc hi hm hmin
        have hmerged := State.came_merged s' c g i hA (hfull.mpr hall) (hagree.mpr hst)
        have hz := (State.path_repath s' c g i k.stack ((k.came i).regangPaths (m, (k.came i).path m) r) m).trans Group.get_regangPaths_first
        obtain ⟨hmask, hpc, hwb, hfmt⟩ := k.came_same i m
        obtain ⟨hpcm, hwbm⟩ := hst m hm
        refine ⟨_, hexec.trans (congrArg _ hmerged), (State.groupOnly_repath s' c g i _ _).units, State.stack_repath s' c g i _ _,
          ⟨?_, ?_, ?_, ?_, ?_, ?_, fun l hl => ?_⟩, fun n hn hne => ?_, fun n hn => ?_,
          fun r => (State.sregs_repath s' c g i _ _ r).trans (hseen r)⟩
        · rw [hz, ← hpcm, ← hpc]; rfl
        · rw [hz, ← hpcm, ← hpc]; rfl
        · rw [hz]; rfl
        · rw [hz]; rfl
        · rw [hz, ← hwbm, ← hwb]; rfl
        · rw [hz, ← hfmt]; rfl
        · have hlanes := getLsbD_orMasks r ((k.came i).path m).mask l
          have hheld := Group.held_came hasc hi l
          rw [hA] at hheld
          rw [hz]
          refine hlanes.trans (Iff.trans ?_ hheld)
          simp
        · rw [State.paths_repath]
          exact Group.find_regangPaths_merged hr hn hne
        · rw [State.path_repath]
          exact Group.get_regangPaths_other hm hr hn
      · rw [hcame, hexec, State.regangCheck_disagree (State.group_came s' c g i) (hfull.mpr hall), Group.keys_atRegang_came hasc hi]
        exact Bool.eq_false_iff.mpr fun hf => hno (hagree.mp hf n hn)

end Sys2Proof.Machine

namespace Sys2Proof.Machine

/-! O21. Where the stack is full, `Group.brd` is to answer with no group, upon which BRD takes the divergence fault (spec/05 R124). It
answers `none` in the namespace of `Group`, where that is `Group.none`, a slot with nothing resident: BRD empties the group. -/

/-- BRD by a path inside a divergence, the stack being full, as the model has it. -/
theorem Group.brd_full {g : Group} {i : Nat} {m target fall : Dword} (ht : (g.path i).mask &&& m ≠ 0) (hn : (g.path i).mask &&& ~~~m ≠ 0)
    (hs : (g.path i).stkv = true) (hfull : g.stack.free Config.stackSlots = .none) : g.brd i m target fall = some Group.none := by
  have hno (room : Bool) : ¬ (!(g.path i).arm && !(g.path i).stkv && room) = true := by simp [hs]
  simp only [Group.brd, if_neg hn, if_neg ht]
  rw [if_neg (hno _), hfull]
  rfl

/-- The group of the path is then empty. -/
theorem exec_brd_full {s : State} {c g i : Nat} {f : GC} (h : s.Issues (.path c g i) (.brd f))
    (ht : ((s.group c g).path i).mask &&& s.srcG (.path c g i) f.c.toNat ≠ 0)
    (hn : ((s.group c g).path i).mask &&& ~~~(s.srcG (.path c g i) f.c.toNat) ≠ 0)
    (hs : ((s.group c g).path i).stkv = true) (hfull : (s.group c g).stack.free Config.stackSlots = none) :
    exec (.brd f) s = .next (s.regroup c g i Group.none) := by
  rw [exec_brd, execBrd, h.next]
  simp only [Group.brd_full ht hn hs hfull]
  rw [State.onGroup_settled, Group.brd_full (g := (s.group c g).committed i) ht hn hs hfull]
  rfl

/-- A path of lanes 0 and 4 inside a divergence, in a group whose stack is full, with lane 0 alone in s-register 0. -/
def stackFull : State :=
  (State.reset.placeCode (.path 0 0 0) 0).onGroup 0 0 fun g =>
    { g with
      launched := 0x11, sregs := Tab.empty.put 0 1
      paths := Tab.empty.put 0 { Path.none with mask := 0x11, stk := 0, stkv := true, th := Thread.startAt placedVa 0 }
      stack := (List.range 64).foldl (fun t k => t.put k StackEntry.none) .empty }

/-- BRD on s-register 0. -/
def brdOnS0 : GC := { k := false, c := 0, disp := 5 }

theorem stackFull_issues : stackFull.Issues (.path 0 0 0) (.brd brdOnS0) := ⟨by decide +kernel, by decide +kernel⟩
theorem stackFull_mask : ((stackFull.group 0 0).path 0).mask = 0x11 := by decide +kernel
theorem stackFull_srcG : stackFull.srcG (.path 0 0 0) brdOnS0.c.toNat = 1 := by decide +kernel
theorem stackFull_stkv : ((stackFull.group 0 0).path 0).stkv = true := by decide +kernel
theorem stackFull_free : (stackFull.group 0 0).stack.free 64 = none := by decide +kernel

/-- Taking the fault leaves the group's lanes launched. -/
theorem stackFull_fault_launched : ((stackFull.faultUnit (.path 0 0 0) (fltD 0x28 0)).group 0 0).launched = 0x11 := by decide +kernel

/-- Refutes O21: a path inside a divergence whose group's stack is full takes no divergence fault at BRD; its group is emptied. -/
theorem not_brdDivides : ¬ Obligations.BrdDivides := by
  unfold Obligations.BrdDivides
  intro h
  have hall := h stackFull 0 0 0 brdOnS0 stackFull_issues
  simp only [stackFull_mask, stackFull_srcG] at hall
  obtain ⟨-, -, -, hfault⟩ := hall (by decide) (by decide) 1 0x10 0 (by decide +kernel) (by decide +kernel) (by decide)
  have hclaimed := hfault (.inl (.inr (.inl stackFull_stkv))) stackFull_free
  have hexec : exec (.brd brdOnS0) stackFull = .next (stackFull.regroup 0 0 0 Group.none) :=
    exec_brd_full stackFull_issues (by rw [stackFull_mask, stackFull_srcG]; decide) (by rw [stackFull_mask, stackFull_srcG]; decide)
      stackFull_stkv stackFull_free
  rw [hexec] at hclaimed
  injection hclaimed with hstates
  have hlaunched := stackFull_fault_launched
  rw [← hstates, State.group_regroup] at hlaunched
  exact absurd hlaunched (by decide)

end Sys2Proof.Machine

namespace Sys2Proof.Machine

/-! O47. The spill engine's store of a register is an access of the lane whose register it is (spec/05 R132): `State.spillOne` makes it
as `laneOf c g l`, so the pending write stands in the group order of that lane (spec/03 R89). The statement has it made for no unit, as
`hardware c`, so that the two machines differ in the stream and lanes that the pending write comes after. -/

/-- A path of lane 0 alone, whose window at base 65 needs one register more than a ring of 112 from 0 holds; the team has a spill
area, in the page at virtual address 0, which may be written. -/
def oneSpillOwed : State :=
  let s := State.reset.placeCode (.path 0 0 0) 0
  { s.onGroup 0 0 fun g =>
      { g with
        launched := 1, los := Tab.empty.put 0 0
        paths := Tab.empty.put 0 { Path.none with
          mask := 1, wb := 65, th := { Thread.startAt placedVa 0 with state := .spill, wait := some (spillMark (.path 0 0 0)) } } } with
    mem := s.mem.write 0x200000 (natLe 8 (placedFrame + 0x54F))
    grids := Tab.empty.put 0 { Grid.none with spill := 0x10000 } }

/-- What the spill engine has to do there: write one register. -/
def oneSpill : SpillAccess := { lane := 0, reg := 0, write := true }
/-- Where that register goes. -/
def oneSpillXlat : Xlat := { pa := placedFrame + 0x10000, leaf := 0x4000054F, level := 2, pte := 0x200000 }

theorem oneSpillOwed_translates : oneSpillOwed.spillXlat 0 0 oneSpill = .ok oneSpillXlat := by decide +kernel

/-- The streams and lanes after which the writes pending at core 0 come in group order (spec/03 R89). -/
def State.pendAfter (s : State) : List (Tab Dword) := (s.caches 0).wbuf.map fun e => e.after

/-- The state after a step that goes on. -/
def Answer.pendAfter : Answer → List (Tab Dword)
  | .next t => t.pendAfter
  | _ => []

/-- SPILL_FILL leaves the register's write pending as lane 0 of group 0's. -/
theorem oneSpillOwed_spillFill_pendAfter :
    Answer.pendAfter (exec (.spillFill (.path 0 0 0)) oneSpillOwed) = [Tab.empty.put 0 1] := by decide +kernel

/-- The same write made by the core's hardware for no unit. -/
def oneSpillByHardware : State :=
  (oneSpillOwed.useLeaf 0 (oneSpillOwed.ctxOf (.path 0 0 0)) (oneSpillOwed.spillAddr 0 0 oneSpill) oneSpillXlat .store).storeAt (hardware 0)
    oneSpillXlat (natLe 4 ((oneSpillOwed.group 0 0).vregs.get (64 * (16 + oneSpill.reg) + oneSpill.lane) 0).toNat) 2 0

theorem oneSpillByHardware_pendAfter : oneSpillByHardware.pendAfter = [Tab.empty.put 64 1] := by decide +kernel

theorem State.UnitsOnly.caches {s t : State} (h : s.UnitsOnly t) (n : Nat) : t.caches n = s.caches n := by
  simp only [State.caches]
  rw [h.cores n, h.lanterns (n - 512)]
theorem State.UnitsOnly.pendAfter {s t : State} (h : s.UnitsOnly t) : t.pendAfter = s.pendAfter := by
  rw [State.pendAfter, h.caches, State.pendAfter]

/-- Refutes O47: the clause on a plan of one access gives the spill engine's write to the core's hardware, but the machine makes it as an
access of the lane, and the two stand differently in group order. -/
theorem not_growAndSpill : ¬ Obligations.GrowAndSpill := by
  unfold Obligations.GrowAndSpill
  intro h
  obtain ⟨-, -, -, -, hspill, -⟩ := h oneSpillOwed 0 0 0 { b := 0, a := 0, d := 0, k := false }
  obtain ⟨-, hone⟩ := hspill (by decide +kernel) (by decide +kernel)
  obtain ⟨t, los, spilled, hexec, ht⟩ := hone oneSpill oneSpillXlat (by decide +kernel) oneSpillOwed_translates
  have hmade : t.pendAfter = [Tab.empty.put 0 1] := by
    rw [← oneSpillOwed_spillFill_pendAfter, hexec]
    rfl
  have hclaimed : t.pendAfter = oneSpillByHardware.pendAfter := by
    rw [ht]
    exact ((State.unitsOnly_onGroup _ _ _ _).trans (State.own_onThread _ _ _).units).pendAfter
  rw [hmade, oneSpillByHardware_pendAfter] at hclaimed
  exact absurd hclaimed (by decide)

end Sys2Proof.Machine

namespace Sys2Proof.Machine

variable {rm p : Nat} {x : Exact} {e low : Int} {k : Nat} {ix : Bool} {f : FloatFmt}

/-! Rounding to whole units (spec/06 R143). -/

/-- The next number where `up` says so, else the number. -/
theorem ite_succ_spec {up : Prop} {b : Bool} (q : Nat) (h : up ↔ b = true) :
    (up → (if b then q + 1 else q) = q + 1) ∧ (¬ up → (if b then q + 1 else q) = q) :=
  ⟨fun hu => if_pos (h.mp hu), fun hu => if_neg fun hb => hu (h.mpr hb)⟩

/-- Units above the value's own: `roundUnits` rounds under each of the four modes. -/
theorem roundsTo_roundUnits (rm : Nat) (h : x.exp ≤ e) :
    RoundsTo rm x e (roundUnits rm x.neg x.mag x.more (e - x.exp).toNat).1 (roundUnits rm x.neg x.mag x.more (e - x.exp).toNat).2 := by
  have hmin : min x.exp e = x.exp := min_eq_left h
  simp only [RoundsTo, hmin, sub_self, Int.toNat_zero, pow_zero, mul_one]
  refine ⟨by simp [roundUnits], ite_succ_spec _ ?_⟩
  match rm with
  | 0 => cases x.more <;> simp
  | 1 => simp
  | 2 | _ + 3 => simp [roundUnits]

/-- Units not above the value's own: the value is a whole number of them. -/
theorem roundsTo_whole (rm : Nat) (h : e ≤ x.exp) (hmore : x.more = false) :
    RoundsTo rm x e (x.mag * 2 ^ (x.exp - e).toNat) false := by
  have hmin : min x.exp e = e := min_eq_right h
  simp only [RoundsTo, hmin, sub_self, Int.toNat_zero, pow_zero, Nat.mod_one, Nat.div_one, hmore]
  refine ⟨by simp, ?_, fun _ => trivial⟩
  match rm with
  | 0 | 1 | 2 | _ + 3 => simp

/-- A rounded number of units is the one at or below the value, or the next. -/
theorem RoundsTo.le_and_le (h : RoundsTo rm x e k ix) :
    let q := x.mag * 2 ^ (x.exp - min x.exp e).toNat / 2 ^ (e - min x.exp e).toNat
    q ≤ k ∧ k ≤ q + 1 := by
  obtain ⟨-, hup, hdown⟩ := h
  have hk := (Classical.em _).imp hup hdown
  omega

/-- The number of units lies in the format's binade, or rounds up out of it; only at the least unit may it lie below. -/
theorem RoundsIn.units_bounds (h : RoundsIn p low rm x e k ix) : k ≤ 2 ^ p ∧ (e = low ∨ 2 ^ (p - 1) ≤ k) := by
  obtain ⟨-, hlt, hge, hr⟩ := h
  obtain ⟨hle, hsucc⟩ := hr.le_and_le
  have hu : 0 < 2 ^ (e - min x.exp e).toNat := Nat.two_pow_pos _
  refine ⟨hsucc.trans (Nat.div_lt_of_lt_mul (by rwa [mul_comm _ (2 ^ p)])), hge.imp_right fun hm => le_trans ?_ hle⟩
  exact (Nat.le_div_iff_mul_le hu).mpr hm

/-! Rounding to the grid of a format. -/

/-- The exponent of the unit that a value other than zero is rounded to. -/
def FloatFmt.unitExp (f : FloatFmt) (x : Exact) : Int := max f.low ((Nat.log2 x.mag : Nat) + x.exp - f.prec + 1)

theorem roundGrid_whole (rm : Nat) (h0 : x.mag ≠ 0) (h : f.unitExp x ≤ x.exp) :
    roundGrid f rm x = (x.mag * 2 ^ (x.exp - f.unitExp x).toNat, f.unitExp x, x.more) := by
  rw [roundGrid, if_neg h0]
  exact if_pos h
theorem roundGrid_rounded (rm : Nat) (h0 : x.mag ≠ 0) (h : x.exp < f.unitExp x) :
    roundGrid f rm x = ((roundUnits rm x.neg x.mag x.more (f.unitExp x - x.exp).toNat).1, f.unitExp x,
      (roundUnits rm x.neg x.mag x.more (f.unitExp x - x.exp).toNat).2) := by
  rw [roundGrid, if_neg h0]
  exact if_neg (not_le.mpr h)

/-- In that unit the value has at most the format's number of bits, and no fewer unless it is the least unit. -/
theorem unitExp_bounds (hp : 1 ≤ f.prec) (h0 : x.mag ≠ 0) :
    let m := x.mag * 2 ^ (x.exp - min x.exp (f.unitExp x)).toNat
    let u := 2 ^ (f.unitExp x - min x.exp (f.unitExp x)).toNat
    f.low ≤ f.unitExp x ∧ m < 2 ^ f.prec * u ∧ (f.unitExp x = f.low ∨ 2 ^ (f.prec - 1) * u ≤ m) := by
  have hlt : x.mag < 2 ^ (Nat.log2 x.mag + 1) := Nat.lt_log2_self
  have hge : 2 ^ Nat.log2 x.mag ≤ x.mag := Nat.log2_self_le h0
  simp only [← pow_add]
  refine ⟨le_max_left _ _, ?_, ?_⟩
  · refine (Nat.mul_lt_mul_of_pos_right hlt (Nat.two_pow_pos _)).trans_le ?_
    rw [← pow_add]
    exact Nat.pow_le_pow_right Nat.two_pos (by simp only [FloatFmt.unitExp]; omega)
  · refine or_iff_not_imp_left.mpr fun hlow => le_trans ?_ (Nat.mul_le_mul_right _ hge)
    rw [← pow_add]
    exact Nat.pow_le_pow_right Nat.two_pos (by simp only [FloatFmt.unitExp] at hlow ⊢; omega)

/-- A value marked as having more has more bits than the format keeps, so it is rounded. -/
theorem lt_unitExp_of_wide (hp : f.prec ≤ 32) (hwide : 2 ^ 32 ≤ x.mag) : x.exp < f.unitExp x := by
  have hlog : 32 ≤ Nat.log2 x.mag := (Nat.le_log2 (by omega)).mpr hwide
  simp only [FloatFmt.unitExp]
  omega

/-- `roundGrid` rounds into the format with unbounded exponent. -/
theorem roundsIn_roundGrid (rm : Nat) (hp : 1 ≤ f.prec) (hp' : f.prec ≤ 32) (h0 : x.mag ≠ 0) (hwide : x.more = true → 2 ^ 32 ≤ x.mag) :
    RoundsIn f.prec f.low rm x (roundGrid f rm x).2.1 (roundGrid f rm x).1 (roundGrid f rm x).2.2 := by
  obtain ⟨hlow, hlt, hge⟩ := unitExp_bounds hp h0
  rcases lt_or_ge x.exp (f.unitExp x) with hexp | hexp
  · rw [roundGrid_rounded rm h0 hexp]
    exact ⟨hlow, hlt, hge, roundsTo_roundUnits rm hexp.le⟩
  · have hmore : x.more = false := Bool.eq_false_iff.mpr fun hm => absurd (lt_unitExp_of_wide hp' (hwide hm)) (not_lt.mpr hexp)
    rw [roundGrid_whole rm h0 hexp, hmore]
    exact ⟨hlow, hlt, hge, roundsTo_whole rm hexp hmore⟩

/-- The formats that `rnd` is called with, by precision and least exponent. -/
theorem laneFormat_of_mem (h : (f, p, low) ∈ [(fp32, 24, -149), (bf16, 8, -133)]) : f.prec = p ∧ f.low = low ∧ 1 ≤ f.prec ∧ f.prec ≤ 32 := by
  simp only [List.mem_cons, List.not_mem_nil, or_false, Prod.mk.injEq] at h
  obtain ⟨rfl, rfl, rfl⟩ | ⟨rfl, rfl, rfl⟩ := h <;> decide

/-! Patterns of FP32 and BF16 (spec/06 R142). -/

/-- `n` binades of `b` patterns each, and `k` more: when that comes to `c + 2` binades. -/
theorem binades_le_iff {b n c : Nat} (hb : 0 < b) (hk : k ≤ 2 * b) (hlow : n = 0 ∨ b ≤ k) :
    (c + 2) * b ≤ n * b + k ↔ c < n ∨ (n = c ∧ k = 2 * b) := by
  rcases lt_trichotomy n c with h | rfl | h
  · have : (n + 1) * b ≤ c * b := Nat.mul_le_mul_right b h
    simp only [add_mul] at *
    omega
  · rw [add_mul]
    omega
  · have : (c + 1) * b ≤ n * b := Nat.mul_le_mul_right b h
    simp only [add_mul] at *
    omega

/-- `k` units of 2^e are beyond the largest finite number. -/
def FloatFmt.Overflows (f : FloatFmt) (e : Int) (k : Nat) : Prop := f.low + 253 < e ∨ (e = f.low + 253 ∧ k = 2 ^ f.prec)
/-- `k` units of 2^e are below the smallest normal number. -/
def FloatFmt.Tiny (f : FloatFmt) (e : Int) (k : Nat) : Prop := e = f.low ∧ k < 2 ^ (f.prec - 1)

theorem infCode_le_code_iff (hp : 1 ≤ f.prec) (h : RoundsIn f.prec f.low rm x e k ix) : f.infCode ≤ f.code k e ↔ f.Overflows e k := by
  have hle : f.low ≤ e := h.1
  obtain ⟨hk, hlow⟩ := h.units_bounds
  have hpow : 2 ^ f.prec = 2 * 2 ^ (f.prec - 1) := (mul_pow_sub_one (by omega) 2).symm
  rw [FloatFmt.infCode, FloatFmt.code, FloatFmt.Overflows, binades_le_iff (c := 253) (Nat.two_pow_pos _) (hpow ▸ hk) (by omega), hpow]
  omega
theorem code_lt_iff (h : RoundsIn f.prec f.low rm x e k ix) : f.code k e < 2 ^ (f.prec - 1) ↔ f.Tiny e k := by
  have hle : f.low ≤ e := h.1
  obtain ⟨-, hlow⟩ := h.units_bounds
  rw [FloatFmt.code, FloatFmt.Tiny]
  by_cases heq : e = f.low
  · simp [heq]
  · have : 2 ^ (f.prec - 1) ≤ k := hlow.resolve_left heq
    omega

/-- A value that `rnd` and `e4m3q` are given is zero where its magnitude is: one marked as having more is wide. -/
theorem Exact.isZero_iff (hwide : x.more = true → 2 ^ 32 ≤ x.mag) : x.isZero = true ↔ x.mag = 0 := by
  cases hm : x.more
  · simp [Exact.isZero, hm]
  · have := hwide hm
    simp [Exact.isZero, hm]
    omega

theorem rnd_zero (rm : Nat) (ftz : Bool) (hwide : x.more = true → 2 ^ 32 ≤ x.mag) (h0 : x.mag = 0) :
    rnd f rm ftz (.fin x) = (f.sign x.neg, 0) := by
  rw [rnd, rndExact, if_pos ((Exact.isZero_iff hwide).mpr h0)]

/-- A value other than zero rounded into FP32 or BF16: the four cases of spec/06 R143. -/
theorem rnd_nonzero (rm : Nat) (ftz : Bool) (hp : 1 ≤ f.prec) (hp' : f.prec ≤ 32) (hwide : x.more = true → 2 ^ 32 ≤ x.mag) (h0 : x.mag ≠ 0) :
    ∃ e k ix, RoundsIn f.prec f.low rm x e k ix ∧
      (f.Overflows e k → rnd f rm ftz (.fin x) = (f.sign x.neg +
        (if rm = 0 ∨ (rm = 2 ∧ x.neg = false) ∨ (rm = 3 ∧ x.neg = true) then f.infCode else f.infCode - 1), flagOF ||| flagNX)) ∧
      (¬ f.Overflows e k → f.Tiny e k → ftz = true → rnd f rm ftz (.fin x) = (f.sign x.neg, flagUF ||| flagNX)) ∧
      (¬ f.Overflows e k → f.Tiny e k → ftz = false →
        rnd f rm ftz (.fin x) = (f.sign x.neg + k, if ix then flagUF ||| flagNX else 0)) ∧
      (¬ f.Overflows e k → ¬ f.Tiny e k →
        rnd f rm ftz (.fin x) = (f.sign x.neg + (e - f.low).toNat * 2 ^ (f.prec - 1) + k, if ix then flagNX else 0)) := by
  have hr := roundsIn_roundGrid rm hp hp' h0 hwide
  have hout := infCode_le_code_iff hp hr
  have htiny := code_lt_iff hr
  refine ⟨_, _, _, hr, ?_⟩
  rw [rnd, rndExact, if_neg (mt (Exact.isZero_iff hwide).mp h0)]
  refine ⟨fun ho => ?_, fun ho ht hftz => ?_, fun ho ht hftz => ?_, fun ho ht => ?_⟩
  · rw [if_pos (hout.mpr ho)]
    simp [or_assoc]
  · rw [if_neg (mt hout.mp ho), if_pos (htiny.mpr ht), if_pos hftz]
  · have hcode : f.code (roundGrid f rm x).1 (roundGrid f rm x).2.1 = (roundGrid f rm x).1 := by
      simp [FloatFmt.code, ht.1]
    rw [if_neg (mt hout.mp ho), if_pos (htiny.mpr ht), if_neg (Bool.eq_false_iff.mp hftz), hcode]
    cases (roundGrid f rm x).2.2 <;> rfl
  · rw [if_neg (mt hout.mp ho), if_neg (mt htiny.mp ht), FloatFmt.code, add_assoc]

/-- The top bit of a number of `n + 1` bits. -/
theorem topBit_eq_decide_le {n v : Nat} (h : v < 2 ^ (n + 1)) : (v / 2 ^ n % 2 == 1) = decide (2 ^ n ≤ v) := by
  have hlt : v / 2 ^ n < 2 := Nat.div_lt_of_lt_mul (by rwa [← pow_succ])
  rw [Nat.mod_eq_of_lt hlt]
  have := Nat.le_div_iff_mul_le (x := 1) (y := v) (Nat.two_pow_pos n)
  rw [one_mul] at this
  simp only [beq_eq_decide, ← this]
  exact decide_eq_decide.mpr (by omega)

/-- What a pattern of FP32 or BF16 stands for, by its exponent field and its fraction (spec/06 R142). -/
theorem FloatFmt.read_eq (f : FloatFmt) (daz : Bool) {v : Nat} (hv : v < 2 ^ (f.prec + 8)) :
    let e : Nat := v / 2 ^ (f.prec - 1) % 256
    let m : Nat := v % 2 ^ (f.prec - 1)
    let neg := decide (2 ^ (f.prec + 7) ≤ v)
    f.read daz v = if e = 255 then (if m = 0 then .inf neg else .nan)
      else if e = 0 then .fin { neg := neg, mag := if daz then 0 else m, exp := f.low, more := false }
      else .fin { neg := neg, mag := 2 ^ (f.prec - 1) + m, exp := f.low + (e : Int) - 1, more := false } := by
  intro e m neg
  have hneg : (v / 2 ^ (f.prec + 7) % 2 == 1) = neg := topBit_eq_decide_le hv
  rw [FloatFmt.read, hneg]
  refine ite_congr rfl (fun _ => rfl) fun _ => ite_congr rfl (fun _ => rfl) fun he => ?_
  have hexp : f.low + ((e - 1 : Nat) : Int) = f.low + (e : Int) - 1 := by
    have : e ≠ 0 := he
    omega
  exact congrArg (fun i => FloatVal.fin { neg := neg, mag := 2 ^ (f.prec - 1) + m, exp := i, more := false }) hexp

/-! E4M3 (spec/06 R145, R146). -/

theorem readE4m3_eq {v : Nat} (hv : v < 256) :
    let e : Nat := v / 8 % 16
    let m : Nat := v % 8
    readE4m3 v = if e = 15 ∧ m = 7 then .nan
      else if e = 0 then .fin { neg := decide (128 ≤ v), mag := m, exp := -9, more := false }
      else .fin { neg := decide (128 ≤ v), mag := 8 + m, exp := (e : Int) - 10, more := false } := by
  have hneg : (v / 128 % 2 == 1) = decide (128 ≤ v) := topBit_eq_decide_le (n := 7) hv
  simp only [readE4m3, hneg]

/-- A code beyond 0x7E is a magnitude beyond 448. -/
theorem lt_e4m3_code_iff (h : RoundsIn 4 (-9) rm x e k ix) : 0x7E < e4m3.code k e ↔ 448 * 2 ^ 9 < k * 2 ^ (e + 9).toNat := by
  have hle : -9 ≤ e := h.1
  obtain ⟨hk, hlow⟩ := h.units_bounds
  have hcode : e4m3.code k e = (e + 9).toNat * 8 + k := rfl
  have hlow' : (e + 9).toNat = 0 ∨ 8 ≤ k := by omega
  rw [hcode]
  generalize (e + 9).toNat = n at hlow' ⊢
  rcases lt_trichotomy n 14 with hn | rfl | hn
  · have : k * 2 ^ n ≤ 2 ^ 4 * 2 ^ 13 := Nat.mul_le_mul hk (Nat.pow_le_pow_right Nat.two_pos (by omega))
    omega
  · omega
  · have : 8 * 2 ^ 15 ≤ k * 2 ^ n := Nat.mul_le_mul (by omega) (Nat.pow_le_pow_right Nat.two_pos hn)
    omega

theorem e4m3q_zero (rm : Nat) (nan : Bool) (hwide : x.more = true → 2 ^ 32 ≤ x.mag) (h0 : x.mag = 0) :
    e4m3q rm nan (.fin x) = (if x.neg then 0x80 else 0, 0) := by
  rw [e4m3q, if_pos ((Exact.isZero_iff hwide).mpr h0)]

theorem e4m3q_nonzero (rm : Nat) (nan : Bool) (hwide : x.more = true → 2 ^ 32 ≤ x.mag) (h0 : x.mag ≠ 0) :
    let sg := if x.neg then 0x80 else 0
    ∃ e k ix, RoundsIn 4 (-9) rm x e k ix ∧
      e4m3q rm nan (.fin x) = if 448 * 2 ^ 9 < k * 2 ^ (e + 9).toNat then (if nan then 0x7F else sg + 0x7E, flagF8S ||| flagNX)
        else (sg + (e + 9).toNat * 8 + k, if ix then flagNX else 0) := by
  have hr : RoundsIn 4 (-9) rm x _ _ _ := roundsIn_roundGrid (f := e4m3) rm (by decide) (by decide) h0 hwide
  refine ⟨_, _, _, hr, ?_⟩
  rw [e4m3q, if_neg (mt (Exact.isZero_iff hwide).mp h0)]
  simp only [lt_e4m3_code_iff hr, add_assoc]
  rfl

/-! TX64 and whole units (spec/06 R149). -/

theorem toUnits_rounds (rm : Nat) (e : Int) (hmore : x.more = false) :
    ∃ k ix, RoundsTo rm x e k ix ∧ x.toUnits rm e = (if x.neg then -(k : Int) else k, ix) := by
  rcases le_or_gt e x.exp with he | he
  · refine ⟨_, _, roundsTo_whole rm he hmore, ?_⟩
    rw [Exact.toUnits, if_pos he, hmore]
    rfl
  · refine ⟨_, _, roundsTo_roundUnits rm he.le, ?_⟩
    rw [Exact.toUnits, if_neg (not_le.mpr he)]

theorem satTx_rounds (hmore : x.more = false) :
    ∃ k ix, RoundsTo 0 x (-32) k ix ∧
      let n : Int := if x.neg then -(k : Int) else k
      satTx (.fin x) = if 2 ^ 63 ≤ n then (2 ^ 63 - 1, flagTXS) else if n ≤ -(2 ^ 63) then (-(2 ^ 63), flagTXS) else (n, 0) := by
  obtain ⟨k, ix, hr, hn⟩ := toUnits_rounds 0 (-32) hmore
  refine ⟨k, ix, hr, ?_⟩
  rw [satTx, hn]

/-! The value of a lane operand. -/

theorem signed_eq_toInt {n : Nat} (hn : 1 ≤ n) (v : Dword) : signed n v.toNat = (v.setWidth n).toInt := by
  have hpow : 2 ^ n = 2 * 2 ^ (n - 1) := (mul_pow_sub_one (by omega) 2).symm
  rw [BitVec.toInt_eq_toNat_cond, BitVec.toNat_setWidth, signed]
  exact if_congr (by omega) rfl rfl

theorem valueOf_eq (daz : Bool) (v : Dword) :
    let num (i e : Int) : FloatVal := .fin { neg := decide (i < 0), mag := i.natAbs, exp := e, more := false }
    valueOf 0 daz v = num (v.setWidth 32).toInt 0 ∧ valueOf 1 daz v = num (Int.ofNat (v.setWidth 32).toNat) 0 ∧ valueOf 2 daz v = num v.toInt 0 ∧
    valueOf 3 daz v = num (Int.ofNat v.toNat) 0 ∧ valueOf 4 daz v = fp32.read daz (v.setWidth 32).toNat ∧
    valueOf 5 daz v = bf16.read daz (v.setWidth 16).toNat ∧ valueOf 6 daz v = readE4m3 (v.setWidth 8).toNat ∧
    valueOf 7 daz v = num v.toInt (-32) := by
  intro num
  have h32 : signed 32 v.toNat = (v.setWidth 32).toInt := signed_eq_toInt (by decide) v
  have h64 : signed 64 v.toNat = v.toInt := by rw [signed_eq_toInt (by decide), BitVec.setWidth_eq]
  exact ⟨congrArg (num · 0) h32, rfl, congrArg (num · 0) h64, rfl, rfl, rfl, rfl, congrArg (num · (-32)) h64⟩

end Sys2Proof.Machine

namespace Sys2Proof.Machine

variable {x : Exact} (fmt : Word) (src : Nat) (v : Dword)

/-! CVT (spec/09 R216). -/

/-- The least integer of type 0 to 3. -/
def intMin (m : BitVec 3) : Int := if m.getLsbD 0 then 0 else -(2 ^ (typeW m - 1))
/-- The greatest integer of type 0 to 3. -/
def intMax (m : BitVec 3) : Int := if m.getLsbD 0 then 2 ^ typeW m - 1 else 2 ^ (typeW m - 1) - 1

theorem typeW_le (m : BitVec 3) : typeW m ≤ 64 := by
  unfold typeW
  split <;> decide

theorem setWidth_wrapN {w : Nat} (hw : w ≤ 64) (i : Int) : (BitVec.ofNat 64 (wrapN w i)).setWidth w = BitVec.ofInt w i := by
  rw [BitVec.setWidth_ofNat_of_le hw]
  apply BitVec.eq_of_toNat_eq
  rw [BitVec.toNat_ofNat, BitVec.toNat_ofInt, wrapN]
  exact Nat.mod_eq_of_lt ((Int.toNat_lt' (by positivity)).mpr (Int.emod_lt_of_pos _ (by positivity)))

theorem convert_integer {m : BitVec 3} (hm : m.toNat < 4) :
    convert fmt m.toNat src v = intResult (typeW m) (toInteger (fmtRM fmt) (intMin m) (intMax m) (valueOf src false v)) := by
  obtain rfl | rfl | rfl | rfl : m = 0 ∨ m = 1 ∨ m = 2 ∨ m = 3 := by bv_omega
  all_goals rfl

theorem convert_fp32 : convert fmt 4 src v =
    (BitVec.ofNat 64 (rnd fp32 (fmtRM fmt) (fmtFTZ fmt) (valueOf src (fmtDAZ fmt) v)).1,
      (rnd fp32 (fmtRM fmt) (fmtFTZ fmt) (valueOf src (fmtDAZ fmt) v)).2) :=
  Prod.ext rfl (BitVec.zero_or ..)
theorem convert_bf16 : convert fmt 5 src v =
    (BitVec.ofNat 64 (rnd bf16 (fmtRM fmt) (fmtFTZ fmt) (valueOf src (fmtDAZ fmt) v)).1,
      (rnd bf16 (fmtRM fmt) (fmtFTZ fmt) (valueOf src (fmtDAZ fmt) v)).2) :=
  Prod.ext rfl (BitVec.zero_or ..)
theorem convert_e4m3 : convert fmt 6 src v =
    (BitVec.ofNat 64 (e4m3q (fmtRM fmt) (fmtF8NAN fmt) (valueOf src false v)).1, (e4m3q (fmtRM fmt) (fmtF8NAN fmt) (valueOf src false v)).2) := rfl
theorem convert_tx : convert fmt 7 src v = (BitVec.ofInt 64 (satTx (valueOf src false v)).1, (satTx (valueOf src false v)).2) :=
  Prod.ext ((BitVec.setWidth_eq _).symm.trans (setWidth_wrapN le_rfl _)) rfl

theorem convert_integer_nan {m : BitVec 3} (hm : m.toNat < 4) (hv : valueOf src false v = .nan) : convert fmt m.toNat src v = (0, flagNV) := by
  rw [convert_integer _ _ _ hm, hv]
  rfl

/-- Of the result of a conversion to an integer type, the type's width is kept. -/
theorem convert_integer_fin {m : BitVec 3} (hm : m.toNat < 4) (hv : valueOf src false v = .fin x) :
    let out := toInteger (fmtRM fmt) (intMin m) (intMax m) (.fin x)
    (convert fmt m.toNat src v).1.setWidth (typeW m) = BitVec.ofInt (typeW m) out.1 ∧ (convert fmt m.toNat src v).2 = out.2 := by
  rw [convert_integer _ _ _ hm, hv]
  exact ⟨setWidth_wrapN (typeW_le m) _, rfl⟩

/-- What CVT gives in a lane, by destination type: `v` is read under DAZ for .f32 and .bf16 alone. -/
theorem convert_by_type (m : BitVec 3) (a : Dword) :
    let v := valueOf src (fmtDAZ fmt && decide (m = 4 ∨ m = 5)) a
    let r := convert fmt m.toNat src a
    (m = 4 → r = (BitVec.ofNat 64 (rnd fp32 (fmtRM fmt) (fmtFTZ fmt) v).1, (rnd fp32 (fmtRM fmt) (fmtFTZ fmt) v).2)) ∧
    (m = 5 → r = (BitVec.ofNat 64 (rnd bf16 (fmtRM fmt) (fmtFTZ fmt) v).1, (rnd bf16 (fmtRM fmt) (fmtFTZ fmt) v).2)) ∧
    (m = 6 → r = (BitVec.ofNat 64 (e4m3q (fmtRM fmt) (fmtF8NAN fmt) v).1, (e4m3q (fmtRM fmt) (fmtF8NAN fmt) v).2)) ∧
    (m = 7 → r = (BitVec.ofInt 64 (satTx v).1, (satTx v).2)) ∧
    (m.toNat < 4 → v = .nan → r = (0, flagNV)) ∧
    (m.toNat < 4 → ∀ x, v = .fin x →
      let out := toInteger (fmtRM fmt) (intMin m) (intMax m) (.fin x)
      r.1.setWidth (typeW m) = BitVec.ofInt (typeW m) out.1 ∧ r.2 = out.2) := by
  intro v r
  have hfloat (h : m = 4 ∨ m = 5) : v = valueOf src (fmtDAZ fmt) a := by simp only [v, decide_eq_true h, Bool.and_true]
  have hother (h : ¬ (m = 4 ∨ m = 5)) : v = valueOf src false a := by simp only [v, decide_eq_false h, Bool.and_false]
  have hint (h : m.toNat < 4) : v = valueOf src false a := hother (by bv_omega)
  refine ⟨fun hm => ?_, fun hm => ?_, fun hm => ?_, fun hm => ?_, fun hm hv => ?_, fun hm x hv => ?_⟩
  · rw [hfloat (.inl hm)]
    subst hm
    exact convert_fp32 fmt src a
  · rw [hfloat (.inr hm)]
    subst hm
    exact convert_bf16 fmt src a
  · rw [hother (by simp [hm])]
    subst hm
    exact convert_e4m3 fmt src a
  · rw [hother (by simp [hm])]
    subst hm
    exact convert_tx fmt src a
  · exact convert_integer_nan fmt src a hm ((hint hm).symm.trans hv)
  · exact convert_integer_fin fmt src a hm ((hint hm).symm.trans hv)

/-- Settles O6: each format's patterns and roundings from the laws above, and CVT lane by lane from what `convert` gives. -/
theorem laneConversions : Obligations.LaneConversions := by
  unfold Obligations.LaneConversions
  refine ⟨fun F p low hF => ?_, fun v hv => readE4m3_eq hv, fun rm nan _ => ⟨rfl, fun _ => rfl, fun x hwide =>
    ⟨e4m3q_zero rm nan hwide, e4m3q_nonzero rm nan hwide⟩⟩, ⟨rfl, rfl, rfl, fun x hmore =>
    ⟨fun rm e _ => toUnits_rounds rm e hmore, satTx_rounds hmore⟩⟩, valueOf_eq, fun s u f h => ?_⟩
  · obtain ⟨rfl, rfl, hp, hp'⟩ := laneFormat_of_mem hF
    exact ⟨fun v daz hv => F.read_eq daz hv, fun rm ftz _ => ⟨rfl, fun _ => rfl, fun x hwide =>
      ⟨rnd_zero rm ftz hwide, rnd_nonzero rm ftz hp hp' hwide⟩⟩⟩
  · obtain ⟨t, hexec, hdone⟩ := laneOp_done h (h.path rfl) f.d.toNat f.k (typeW f.m) fun s u l =>
      convert (s.fmtOf u) f.m.toNat f.b.toNat (s.srcL u f.a.toNat l (typeW (f.b.setWidth 3)))
    exact ⟨t, _, hexec, hdone, fun l => convert_by_type _ _ f.m _⟩

end Sys2Proof.Machine

namespace Sys2Proof

/-! O56. Decoding loses no bit: what a field bundle is cut from is what its fields encode to, one lemma for each bundle. -/

@[simp] theorem bitNat_bitAt (w p : Nat) : bitNat (bitAt w p) = w / p % 2 := by
  rcases Nat.mod_two_eq_zero_or_one (w / p) with h | h <;> simp [bitAt, bitNat, h]

theorem LA.enc_dec {w : Nat} (hw : w < 16777216) : (LA.dec w).enc = w := by
  simp only [LA.enc, LA.dec, BitVec.toNat_ofNat, bitNat_bitAt]; omega
theorem LI.enc_dec {w : Nat} (hw : w < 16777216) : (LI.dec w).enc = w := by
  simp only [LI.enc, LI.dec, BitVec.toNat_ofNat, bitNat_bitAt]; omega
theorem GA.enc_dec {w : Nat} (hw : w < 16777216) : (GA.dec w).enc = w := by
  simp only [GA.enc, GA.dec, BitVec.toNat_ofNat, bitNat_bitAt]; omega
theorem GI.enc_dec {w : Nat} (hw : w < 16777216) : (GI.dec w).enc = w := by
  simp only [GI.enc, GI.dec, BitVec.toNat_ofNat, bitNat_bitAt]; omega
theorem GB.enc_dec {w : Nat} (hw : w < 16777216) : (GB.dec w).enc = w := by
  simp only [GB.enc, GB.dec, BitVec.toNat_ofNat, bitNat_bitAt]; omega
theorem GC.enc_dec {w : Nat} (hw : w < 16777216) : (GC.dec w).enc = w := by
  simp only [GC.enc, GC.dec, BitVec.toNat_ofNat, bitNat_bitAt]; omega
/-- A word with a mode is cut from words of that mode only. -/
theorem GM.enc_dec {w b : Nat} (hw : w < 16777216) (hb : w % 128 = b) : GM.enc b (GM.dec w) = w := by
  simp only [GM.enc, GM.dec, BitVec.toNat_ofNat, bitNat_bitAt]; omega
theorem CmpX.enc_dec {x : Nat} (hx : x < 4294967296) : (CmpX.dec x).enc = x := by
  simp only [CmpX.enc, CmpX.dec, BitVec.toNat_ofNat, bitNat_bitAt]; omega
theorem VoteX.enc_dec {x : Nat} (hx : x < 4294967296) : (VoteX.dec x).enc = x := by
  simp only [VoteX.enc, VoteX.dec, BitVec.toNat_ofNat]; omega
theorem SlotX.enc_dec {x : Nat} (hx : x < 4294967296) : (SlotX.dec x).enc = x := by
  simp only [SlotX.enc, SlotX.dec, BitVec.toNat_ofNat]; omega
theorem MemX.enc_dec {x : Nat} (hx : x < 4294967296) : (MemX.dec x).enc = x := by
  simp only [MemX.enc, MemX.dec, BitVec.toNat_ofNat, bitNat_bitAt]; omega
theorem AtomX.enc_dec {x : Nat} (hx : x < 4294967296) : (AtomX.dec x).enc = x := by
  simp only [AtomX.enc, AtomX.dec, BitVec.toNat_ofNat, bitNat_bitAt]; omega
theorem FenceX.enc_dec {x : Nat} (hx : x < 4294967296) : (FenceX.dec x).enc = x := by
  simp only [FenceX.enc, FenceX.dec, BitVec.toNat_ofNat]; omega
theorem TileX.enc_dec {x : Nat} (hx : x < 4294967296) : (TileX.dec x).enc = x := by
  simp only [TileX.enc, TileX.dec, BitVec.toNat_ofNat]; omega
theorem TaddX.enc_dec {x : Nat} (hx : x < 4294967296) : (TaddX.dec x).enc = x := by
  simp only [TaddX.enc, TaddX.dec, BitVec.toNat_ofNat]; omega
theorem EpsX.enc_dec {x : Nat} (hx : x < 4294967296) : (EpsX.dec x).enc = x := by
  simp only [EpsX.enc, EpsX.dec, BitVec.toNat_ofNat]; omega
theorem AstrX.enc_dec {x : Nat} (hx : x < 4294967296) : (AstrX.dec x).enc = x := by
  simp only [AstrX.enc, AstrX.dec, BitVec.toNat_ofNat]; omega
theorem TraceX.enc_dec {x : Nat} (hx : x < 4294967296) : (TraceX.dec x).enc = x := by
  simp only [TraceX.enc, TraceX.dec, BitVec.toNat_ofNat, bitNat_bitAt]; omega
theorem MarchX.enc_dec {x : Nat} (hx : x < 4294967296) : (MarchX.dec x).enc = x := by
  simp only [MarchX.enc, MarchX.dec, BitVec.toNat_ofNat, bitNat_bitAt]; omega
theorem CallX.enc_dec {x : Nat} (hx : x < 4294967296) : (CallX.dec x).enc = x := by
  simp only [CallX.enc, CallX.dec, BitVec.toNat_ofNat, bitNat_bitAt]; omega
theorem BarX.enc_dec {x : Nat} (hx : x < 4294967296) : (BarX.dec x).enc = x := by
  simp only [BarX.enc, BarX.dec, BitVec.toNat_ofNat, bitNat_bitAt]; omega
theorem GcmpX.enc_dec {x : Nat} (hx : x < 4294967296) : (GcmpX.dec x).enc = x := by
  simp only [GcmpX.enc, GcmpX.dec, BitVec.toNat_ofNat, bitNat_bitAt]; omega
theorem GmemX.enc_dec {x : Nat} (hx : x < 4294967296) : (GmemX.dec x).enc = x := by
  simp only [GmemX.enc, GmemX.dec, BitVec.toNat_ofNat, bitNat_bitAt]; omega
theorem GatomX.enc_dec {x : Nat} (hx : x < 4294967296) : (GatomX.dec x).enc = x := by
  simp only [GatomX.enc, GatomX.dec, BitVec.toNat_ofNat, bitNat_bitAt]; omega
theorem CpyX.enc_dec {x : Nat} (hx : x < 4294967296) : (CpyX.dec x).enc = x := by
  simp only [CpyX.enc, CpyX.dec, BitVec.toNat_ofNat, bitNat_bitAt]; omega
theorem LayoutX.enc_dec {x : Nat} (hx : x < 4294967296) : (LayoutX.dec x).enc = x := by
  simp only [LayoutX.enc, LayoutX.dec, BitVec.toNat_ofNat, bitNat_bitAt]; omega
theorem ZfillX.enc_dec {x : Nat} (hx : x < 4294967296) : (ZfillX.dec x).enc = x := by
  simp only [ZfillX.enc, ZfillX.dec, BitVec.toNat_ofNat, bitNat_bitAt]; omega
theorem CollX.enc_dec {x : Nat} (hx : x < 4294967296) : (CollX.dec x).enc = x := by
  simp only [CollX.enc, CollX.dec, BitVec.toNat_ofNat, bitNat_bitAt]; omega
theorem OmapX.enc_dec {x : Nat} (hx : x < 4294967296) : (OmapX.dec x).enc = x := by
  simp only [OmapX.enc, OmapX.dec, BitVec.toNat_ofNat, bitNat_bitAt]; omega
theorem MmaX.enc_dec {x : Nat} (hx : x < 4294967296) : (MmaX.dec x).enc = x := by
  simp only [MmaX.enc, MmaX.dec, BitVec.toNat_ofNat, bitNat_bitAt]; omega
theorem TopkX.enc_dec {x : Nat} (hx : x < 4294967296) : (TopkX.dec x).enc = x := by
  simp only [TopkX.enc, TopkX.dec, BitVec.toNat_ofNat, bitNat_bitAt]; omega
theorem MtileX.enc_dec {x : Nat} (hx : x < 4294967296) : (MtileX.dec x).enc = x := by
  simp only [MtileX.enc, MtileX.dec, BitVec.toNat_ofNat, bitNat_bitAt]; omega
theorem StoreX.enc_dec {x : Nat} (hx : x < 4294967296) : (StoreX.dec x).enc = x := by
  simp only [StoreX.enc, StoreX.dec, BitVec.toNat_ofNat, bitNat_bitAt]; omega
theorem TcfgX.enc_dec {x : Nat} (hx : x < 4294967296) : (TcfgX.dec x).enc = x := by
  simp only [TcfgX.enc, TcfgX.dec, BitVec.toNat_ofNat, bitNat_bitAt]; omega
theorem ImageX.enc_dec {x : Nat} (hx : x < 4294967296) : (ImageX.dec x).enc = x := by
  simp only [ImageX.enc, ImageX.dec, BitVec.toNat_ofNat, bitNat_bitAt]; omega
theorem MutX.enc_dec {x : Nat} (hx : x < 4294967296) : (MutX.dec x).enc = x := by
  simp only [MutX.enc, MutX.dec, BitVec.toNat_ofNat]; omega
theorem ReplayX.enc_dec {x : Nat} (hx : x < 4294967296) : (ReplayX.dec x).enc = x := by
  simp only [ReplayX.enc, ReplayX.dec, BitVec.toNat_ofNat]; omega
theorem LaunchX.enc_dec {x : Nat} (hx : x < 4294967296) : (LaunchX.dec x).enc = x := by
  simp only [LaunchX.enc, LaunchX.dec, BitVec.toNat_ofNat]; omega
theorem Lit.enc_dec {x : Nat} (hx : x < 4294967296) : (Lit.dec x).enc = x := by
  simp only [Lit.enc, Lit.dec, BitVec.toNat_ofNat]; omega

/-! The opcode maps, read backwards: what decodes is the encoding of what it decodes to. -/

section
variable {op w x : Nat} {i : Instr} (hw : w < 16777216)
include hw

theorem encode_of_decodeTret (h : decodeTret w = .ok i) : encode i = [3925868544 + w] := by
  unfold decodeTret at h
  split at h <;> cases h
  all_goals
    rename_i hmode
    simp [encode, GM.enc_dec hw hmode]

theorem encode_of_decodeHalt (h : decodeHalt w = .ok i) : encode i = [3959422976 + w] := by
  unfold decodeHalt at h
  split at h <;> cases h
  all_goals
    rename_i hmode
    simp [encode, GM.enc_dec hw hmode]

variable (hx : x < 4294967296)
include hx

theorem encode_of_decodeL (h : decodeL op w x = .ok i) :
    encode i = (op * 16777216 + w) :: if twoWordL op then [x] else [] := by
  unfold decodeL at h
  split at h
  all_goals cases h
  all_goals simp [encode, twoWordL, LA.enc_dec hw, LI.enc_dec hw,
    Lit.enc_dec hx, CmpX.enc_dec hx, VoteX.enc_dec hx, SlotX.enc_dec hx, MemX.enc_dec hx, AtomX.enc_dec hx, FenceX.enc_dec hx,
    TileX.enc_dec hx, TaddX.enc_dec hx, EpsX.enc_dec hx, AstrX.enc_dec hx, TraceX.enc_dec hx, MarchX.enc_dec hx]

theorem encode_of_decodeG (h : decodeG op w x = .ok i) :
    encode i = (2147483648 + op * 16777216 + w) :: if twoWordG op then [x] else [] := by
  unfold decodeG at h
  split at h
  -- TRET and HALT, whose rows the mode tells apart
  case h_75 => simpa [twoWordG] using encode_of_decodeTret hw h
  case h_77 => simpa [twoWordG] using encode_of_decodeHalt hw h
  all_goals cases h
  all_goals simp [encode, twoWordG, GA.enc_dec hw, GI.enc_dec hw, GB.enc_dec hw, GC.enc_dec hw,
    Lit.enc_dec hx, CallX.enc_dec hx, BarX.enc_dec hx, GcmpX.enc_dec hx, GmemX.enc_dec hx, GatomX.enc_dec hx, CpyX.enc_dec hx,
    LayoutX.enc_dec hx, ZfillX.enc_dec hx, CollX.enc_dec hx, OmapX.enc_dec hx, MmaX.enc_dec hx, TopkX.enc_dec hx, MtileX.enc_dec hx,
    StoreX.enc_dec hx, TcfgX.enc_dec hx, ImageX.enc_dec hx, MutX.enc_dec hx, ReplayX.enc_dec hx, LaunchX.enc_dec hx]

end

theorem encode_of_decodeWords {w x : Nat} {i : Instr} (hw : w < 4294967296) (hx : x < 4294967296)
    (h : decodeWords w x = .ok i) : encode i = w :: if twoWords w then [x] else [] := by
  have hlow : w % 16777216 < 16777216 := Nat.mod_lt _ (by decide)
  unfold decodeWords at h
  unfold twoWords
  split at h <;> rename_i hform
  · rw [encode_of_decodeL hlow hx h, if_pos hform]
    congr 1
    omega
  · rw [encode_of_decodeG hlow hx h, if_neg hform]
    congr 1
    omega

/-! Words and their bytes. -/

theorem wordOfBytes_lt (b0 b1 b2 b3 : Byte) : wordOfBytes b0 b1 b2 b3 < 4294967296 := by
  unfold wordOfBytes
  omega

theorem bytesOfWord_wordOfBytes (b0 b1 b2 b3 : Byte) : bytesOfWord (wordOfBytes b0 b1 b2 b3) = [b0, b1, b2, b3] := by
  have h0 := b0.isLt
  have h1 := b1.isLt
  have h2 := b2.isLt
  have h3 := b3.isLt
  simp only [bytesOfWord, wordOfBytes, List.cons.injEq, and_true]
  refine ⟨?_, ?_, ?_, ?_⟩ <;> apply ofNat_congr <;> omega

theorem wordOfBytes_bytesOfWord {w : Nat} (hw : w < 4294967296) :
    wordOfBytes (BitVec.ofNat 8 w) (BitVec.ofNat 8 (w / 256)) (BitVec.ofNat 8 (w / 65536)) (BitVec.ofNat 8 (w / 16777216)) = w := by
  simp only [wordOfBytes, BitVec.toNat_ofNat]
  omega

theorem decode_short {b0 b1 b2 b3 : Byte} (rest : List Byte) (ht : twoWords (wordOfBytes b0 b1 b2 b3) = false) :
    decode (b0 :: b1 :: b2 :: b3 :: rest) = (decodeWords (wordOfBytes b0 b1 b2 b3) 0).map fun i => (i, rest) := by
  simp only [decode, ht]
  rfl

theorem decode_long {b0 b1 b2 b3 : Byte} (c0 c1 c2 c3 : Byte) (rest : List Byte) (ht : twoWords (wordOfBytes b0 b1 b2 b3) = true) :
    decode (b0 :: b1 :: b2 :: b3 :: c0 :: c1 :: c2 :: c3 :: rest) =
      (decodeWords (wordOfBytes b0 b1 b2 b3) (wordOfBytes c0 c1 c2 c3)).map fun i => (i, rest) := by
  simp only [decode, ht]
  rfl

theorem exists_of_map_eq_ok {ε α β : Type} {f : α → β} {r : Except ε α} {b : β} (h : r.map f = .ok b) :
    ∃ a, r = .ok a ∧ f a = b := by
  cases r with
  | error e => cases h
  | ok a => exact ⟨a, rfl, Except.ok.inj h⟩

theorem decode_oneWord {w : Nat} {i : Instr} (rest : List Byte) (hw : w < 4294967296) (ht : twoWords w = false)
    (h : decodeWords w 0 = .ok i) : decode (bytesOfWord w ++ rest) = .ok (i, rest) := by
  have hb := wordOfBytes_bytesOfWord hw
  rw [← hb] at ht
  rw [bytesOfWord, List.cons_append, List.cons_append, List.cons_append, List.cons_append, decode_short _ ht, hb, h]
  rfl

theorem decode_twoWords {w x : Nat} {i : Instr} (rest : List Byte) (hw : w < 4294967296) (hx : x < 4294967296)
    (ht : twoWords w = true) (h : decodeWords w x = .ok i) :
    decode (bytesOfWord w ++ (bytesOfWord x ++ rest)) = .ok (i, rest) := by
  have hb := wordOfBytes_bytesOfWord hw
  rw [← hb] at ht
  simp only [bytesOfWord, List.cons_append, List.nil_append]
  rw [decode_long _ _ _ _ _ ht, hb, wordOfBytes_bytesOfWord hx, h]
  rfl

/-- What decodes begins with the bytes of one word or of two, which decode to it. -/
theorem exists_words_of_decode {bs rest : List Byte} {i : Instr} (h : decode bs = .ok (i, rest)) :
    ∃ w x, w < 4294967296 ∧ x < 4294967296 ∧ decodeWords w x = .ok i ∧
      bs = (w :: if twoWords w then [x] else []).flatMap bytesOfWord ++ rest := by
  match bs with
  | b0 :: b1 :: b2 :: b3 :: tail =>
    cases ht : twoWords (wordOfBytes b0 b1 b2 b3) with
    | false =>
      rw [decode_short _ ht] at h
      obtain ⟨j, hj, heq⟩ := exists_of_map_eq_ok h
      obtain ⟨rfl, rfl⟩ := Prod.mk.inj heq
      exact ⟨_, 0, wordOfBytes_lt b0 b1 b2 b3, by decide, hj, by simp [ht, bytesOfWord_wordOfBytes]⟩
    | true =>
      match tail with
      | c0 :: c1 :: c2 :: c3 :: tail =>
        rw [decode_long _ _ _ _ _ ht] at h
        obtain ⟨j, hj, heq⟩ := exists_of_map_eq_ok h
        obtain ⟨rfl, rfl⟩ := Prod.mk.inj heq
        exact ⟨_, _, wordOfBytes_lt b0 b1 b2 b3, wordOfBytes_lt c0 c1 c2 c3, hj, by simp [ht, bytesOfWord_wordOfBytes]⟩
      | [] | [_] | [_, _] | [_, _, _] => simp [decode, ht] at h
  | [] | [_] | [_, _] | [_, _, _] => cases h

end Sys2Proof

namespace Sys2Proof.Laws

/-- Every instruction's words are 32-bit words that decode to it. -/
theorem roundtrip (i : Instr) : Roundtrip.Statement i := by
  open Roundtrip in
  cases i
  exacts [
    vadd _, vsub _, vmul _, vmulh _, vmad _, vmin _, vmax _, vand _, vor _, vxor _, vshl _, vshr _, vsar _, vclz _, vpopc _, vaddi _, vshli _,
    vshri _, vsari _, vsel _, vli _ _, vcmp _ _, fadd _, fmul _, ffma _, fmin _, fmax _, fcmp _ _, bfma2 _, cvt _, frcp _, frsq _, fsqrt _, fexp2 _,
    flog2 _, sint _, cost _, vperm _, vshfl _, vbcast _, vmatch _, vvote _ _, vreduce _, vscan _, xsend _ _, xrecv _ _, ld _ _, st _ _, lds _ _,
    sts _ _, ldq _ _, stq _ _, atom _ _, atoms _ _, acas _ _, acass _ _, aaddx _ _, fence _ _, discard _ _, pref _ _, accrd _ _, tadd _ _,
    tnorm _ _, tnormq _ _, tsync _, accrdc _ _, cvbind _, draw _, drawk _, cvcur _, result _, rcmp _ _, trace _ _, tracea _ _, traceo _ _, hitrd _,
    hituv _, vmarch _ _, vmrd _, rsave _, rload _, rclr _, nop _, br _, brc _, brd _, brx _, join _, regang _, idle _, exit _, call _ _, ret _,
    grow _, setfmt _, getfmt _, qput _, qget _, bar _ _, setg _, sysrd _, syswr _, gadd _, gsub _, gmul _, gand _, gor _, gxor _, gshl _, gshr _,
    gsar _, gmin _, gmax _, gsel _, gcmp _ _, mpop _, mffs _, gaddi _, gli _ _, glih _ _, gld _ _, gst _ _, gatom _ _, cpy _ _, layout _ _,
    zfill _ _, bfence _, bwait _, callred _ _, cgather _ _, omap _ _, mma _ _, msqd _ _, mtopk _ _, mzero _ _, mstore _ _, maddt _ _, tcfg _ _,
    tevict _ _, trestore _ _, mutate _ _, replay _ _, rrd _, cvend _, launchd _ _, gridsync _, rqput _, rqputn _, rqget _, rqgetn _, rqcnt _,
    yield _, sleep _, evsig _, trap _, trapc _, tret _, tretGoto _, tretKill _, bkpt _, haltTeam _, haltFlush _, errrd _, faultRecordWrite _,
    fresumeRetry _ _ _, fresumeAbort _ _ _, ticmdPage _ _ _, ticmdContext _ _ _, ticmdGrove _ _ _, ticmdAll _ _, invalidationComplete _,
    splitcfgWrite _ _, l2WriteBack _, patrolScrub _ _, sramUncorrectableError _, cacheParityError _, mirrorWriteApply _ _, spillFill _,
    scratchpadWaitEnd _, tileWaitEnd _, queueWaitEnd _, rendezvousWaitEnd _, barrierPhaseComplete _ _ _, gridsyncPhaseComplete _,
    batchWaitComplete _, convergentPerform _, growGrant _ _, evictedGroupReadmit _, recordQueueWaitEnd _, sleepExpiry _, engineQueueRoom _,
    launchQueueRoom _, cpyPerform _ _, layoutPerform _ _, zfillPerform _ _, omapPerform _ _, mmaChunk _ _, msqdPerform _ _, mtopkPerform _ _,
    mzeroPerform _ _, mstorePerform _ _, maddtPerform _ _, tcfgPerform _ _, tevictPerform _ _ _, trestorePerform _ _ _, callredPerform _ _,
    cgatherPerform _ _, trunkPartialReceive _ _, traversalStep _ _ _, marchStep _ _ _, issueSelect _, pathAged _, debugRecordWrite _,
    stallRecordWrite _, qkick _ _ _, qcfgWrite _ _ _, qstatHaltClear _ _, entryNop _ _, entryGraph _ _, entryInstall _ _ _, entrySignal _ _,
    entryWait _ _, graphNodeStart _ _ _, teamAdmission _ _, deviceLaunchStart _, groupRetire _ _, teamRetire _ _, gridEnd _, pscmdSave _ _ _ _ _,
    pscmdResume _ _ _ _ _, pscmdTeardown _ _ _ _ _, saveComplete _, powerOn, fundamentalReset, bootAttempt _ _, bootTimeout, bootcmdWarm,
    bootcmdSwap, flashcmd _ _, lccmd _ _ _, standgrvWrite _ _, ringRegisterWrite _ _ _, gintAck _ _, dbgstopArm _ _, dbgstopGo _, trig _,
    triggerReceive _ _, hostPostedWrite _ _, hostRead _ _, apertureAccess _ _ _ _, peerAccessArrival _ _ _ _, supplySag _, sagRecoveryStep _,
    registerWrite _ _ _, flashWriteComplete _, peercfgWrite _ _ _, peerLinkTrained _]

end Sys2Proof.Laws

namespace Sys2Proof

@[simp] theorem bytesOfWord_length (w : Nat) : (bytesOfWord w).length = 4 := rfl

/-- An instruction's length is that of its words; an event has none (spec/07 R162). -/
theorem Instr.len_eq (i : Instr) : i.len = 4 * (encode i).length := by
  cases i <;> rfl

theorem encodeBytes_length (i : Instr) : (encodeBytes i).length = i.len := by
  have h (l : List Nat) : (l.flatMap bytesOfWord).length = 4 * l.length := by
    induction l with
    | nil => rfl
    | cons w r ih => simp [ih]; omega
  rw [encodeBytes, h, Instr.len_eq]

/-- An instruction has one word or two, and decoding them gives it back. -/
theorem encode_cases {i : Instr} (hw : hasWord i = true) :
    (∃ w, encode i = [w] ∧ w < 4294967296 ∧ twoWords w = false ∧ decodeWords w 0 = .ok i) ∨
      ∃ w x, encode i = [w, x] ∧ w < 4294967296 ∧ x < 4294967296 ∧ twoWords w = true ∧ decodeWords w x = .ok i := by
  have h := Laws.roundtrip i
  unfold Laws.Roundtrip.Statement at h
  match he : encode i with
  | [] => simp [hasWord, he] at hw
  | [w] => rw [he] at h; exact .inl ⟨w, rfl, h⟩
  | [w, x] => rw [he] at h; exact .inr ⟨w, x, rfl, h⟩
  | _ :: _ :: _ :: _ => rw [he] at h; exact h.elim

/-- Settles O56: both directions go through the words of the instruction, which `Laws.roundtrip` decodes and
`encode_of_decodeWords` encodes again. -/
theorem decodeEncode : Obligations.DecodeEncode := by
  unfold Obligations.DecodeEncode
  refine ⟨fun i rest hw => ?decode, fun i hw => ⟨encodeBytes_length i, ?length⟩, fun bs rest i h => ?encode⟩
  case decode =>
    rcases encode_cases hw with ⟨w, he, hlt, ht, hd⟩ | ⟨w, x, he, hlt, hxlt, ht, hd⟩
    · simpa [encodeBytes, he] using decode_oneWord rest hlt ht hd
    · simpa [encodeBytes, he] using decode_twoWords rest hlt hxlt ht hd
  case length =>
    rw [Instr.len_eq]
    rcases encode_cases hw with ⟨w, he, -⟩ | ⟨w, x, he, -⟩
    · exact .inl (by rw [he]; rfl)
    · exact .inr (by rw [he]; rfl)
  case encode =>
    obtain ⟨w, x, hw, hx, hd, rfl⟩ := exists_words_of_decode h
    have he := encode_of_decodeWords hw hx hd
    exact ⟨by simp [hasWord, he], by rw [encodeBytes, he]⟩

end Sys2Proof

namespace Sys2Proof.Machine

variable {s t : State}

/-! O58. What fetching and issuing leave of the home slices: every byte as it was, but for the leaf entry of the fetch. -/

/-- Only memory has changed, and in the home slices no byte of it. -/
structure State.HomeKept (s t : State) : Prop where
  memory : s.MemoryOnly t
  mem : t.mem = s.mem

theorem State.HomeKept.refl (s : State) : s.HomeKept s := ⟨.refl s, rfl⟩
theorem State.HomeKept.trans {r : State} (h : s.HomeKept t) (k : t.HomeKept r) : s.HomeKept r :=
  ⟨h.memory.trans k.memory, k.mem.trans h.mem⟩
theorem homeKept_foldl {β : Type} (f : State → β → State) (l : List β) (s : State) (hf : ∀ (s : State) b, s.HomeKept (f s b)) :
    s.HomeKept (l.foldl f s) := by
  induction l generalizing s with
  | nil => exact .refl s
  | cons b r ih => exact (hf s b).trans (ih (f s b))

theorem State.homeKept_onCaches (s : State) (n : Nat) (f : Caches → Caches) : s.HomeKept (s.onCaches n f) :=
  ⟨State.memoryOnly_onCaches s n f, State.mem_onCaches s n f⟩
theorem State.homeKept_forget (s : State) (u : UnitId) : s.HomeKept (s.forget u) := by
  unfold State.forget
  dsimp only
  split
  · exact .refl s
  · exact State.homeKept_onCaches s _ _
/-- A store put off that becomes visible pends, or is in scratchpad: it is not yet at home (spec/03 R85). -/
theorem State.homeKept_appear (s : State) (n k : Nat) : s.HomeKept (s.appear n k) := by
  refine ⟨State.memoryOnly_appear s n k, ?_⟩
  unfold State.appear
  repeat' split
  · rfl
  · rfl
  · exact (State.mem_touch _ _ _ _ _).trans (State.mem_onCaches s n _)
  · exact (State.mem_pend _ n _).trans ((State.mem_touch _ _ _ _ _).trans (State.mem_onCaches s n _))
theorem State.homeKept_appearIf (s : State) (n : Nat) (p : LateStore → Bool) : s.HomeKept (s.appearIf n p) := by
  unfold State.appearIf
  refine homeKept_foldl _ _ s fun s e => ?_
  split
  · exact State.homeKept_appear s n _
  · exact .refl s
theorem State.homeKept_issued (s : State) (u : UnitId) (i : Instr) : s.HomeKept (s.issued u i) := by
  unfold State.issued
  refine (State.homeKept_onCaches s u.node fun m => m.unite (s.whoOf u)).trans ?_
  generalize s.onCaches u.node (fun m => m.unite (s.whoOf u)) = q
  dsimp only
  repeat' split
  · exact .refl q
  · exact State.homeKept_appearIf q _ _
  · exact (State.homeKept_appearIf q _ _).trans (State.homeKept_forget _ u)
  · exact .refl q
theorem State.homeKept_keepCode (s : State) (n line : Nat) (zel : Bool) : s.HomeKept (s.keepCode n line zel) := by
  unfold State.keepCode
  split
  · exact .refl s
  · exact .trans ⟨(State.homeOnly_fillL2 s _ _ _).memory, State.mem_fillL2 s _ _ _⟩ (State.homeKept_onCaches _ n _)

/-! Fetching through the instruction cache (spec/02 R61). -/

/-- What a fetch whose translation is `x` leaves: the leaf is used, and the line is kept. -/
def State.fetched (s : State) (u : UnitId) (x : Xlat) : State :=
  (s.useLeaf u.node (s.ctxOf u) (s.thread u).pc x .fetch).keepCode u.node (x.at_ u.node / 64) x.zel
/-- The bytes of the line from the fetched address on. -/
def State.codeAt (s : State) (u : UnitId) (x : Xlat) : List Byte :=
  (((s.caches u.node).code.find (x.at_ u.node / 64)).getD (s.mem.read (64 * (x.at_ u.node / 64)) 64)).drop (x.at_ u.node % 64)

theorem State.memoryOnly_fetched (s : State) (u : UnitId) (x : Xlat) : s.MemoryOnly (s.fetched u x) :=
  (State.memoryOnly_useLeaf s _ _ _ x _).trans (State.homeKept_keepCode _ _ _ _).memory
theorem State.get_fetched (s : State) (u : UnitId) (x : Xlat) {a : Nat} (h : ¬ (x.pte ≤ a ∧ a < x.pte + 8)) :
    (s.fetched u x).mem.get a = s.mem.get a := by
  rw [State.fetched, (State.homeKept_keepCode _ _ _ _).mem]
  exact State.get_useLeaf s _ _ _ x _ (by omega)

/-- The unit may issue: it is resident and ready. -/
def State.MayFetch (s : State) (u : UnitId) : Prop := s.alive u = true ∧ (s.thread u).state = .ready

theorem State.fetchNext_waits {u : UnitId} (h : s.alive u = false ∨ (s.thread u).state ≠ .ready) :
    s.fetchNext u = .stop (s.leave u) := by
  rcases h with h | h <;> simp [State.fetchNext, h]

section
variable {u : UnitId} {x : Xlat} (hx : s.translate u.node (s.ctxOf u) (s.thread u).pc .fetch = .ok x)
  (hline : (s.caches u.node).code.has (x.at_ u.node / 64) = true ∨ s.poisoned (64 * (x.at_ u.node / 64)) 64 = false)
include hx hline

theorem State.fetch_eq : s.fetch u = .ok ((s.codeAt u x).take 8, s.fetched u x) := by
  have hp : (!(s.caches u.node).code.has (x.at_ u.node / 64) && s.poisoned (64 * (x.at_ u.node / 64)) 64) = false := by
    rcases hline with h | h <;> simp [h]
  simp only [State.fetch, State.pcOf, hx, hp, State.codeLine, Nat.mul_comm _ 64]
  rfl

variable (hu : s.MayFetch u)
include hu

theorem State.fetchNext_decodes {i : Instr} {rest : List Byte} (h : decode ((s.codeAt u x).take 8 ++ [0, 0, 0, 0]) = .ok (i, rest)) :
    s.fetchNext u = .run i (s.fetched u x) := by
  obtain ⟨halive, hready⟩ := hu
  simp only [State.fetchNext, halive, hready, State.fetch_eq hx hline, h]
  rfl
theorem State.fetchNext_fails {e : DecodeError} (h : decode ((s.codeAt u x).take 8 ++ [0, 0, 0, 0]) = .error e) :
    s.fetchNext u = .stop ((s.fetched u x).faultUnit u (decodeFault e)) := by
  obtain ⟨halive, hready⟩ := hu
  simp only [State.fetchNext, halive, hready, State.fetch_eq hx hline, h]
  rfl

end

theorem decodeFault_eq (e : DecodeError) : decodeFault e = fltD (if e = .reservedMode then 0x22 else 0x20) 0 := by
  cases e <;> rfl

/-! A step. -/

theorem step_event {i : Instr} {r : List Turn} (ha : s.agenda = .event i :: r) (hi : hasWord i = false) :
    step s = exec i { s with agenda := r } := by
  simp [step, ha, runTurn, hi]

section
variable {u : UnitId} (ha : s.agenda = []) (ht : s.turn = some u)
include ha ht

theorem step_run {i : Instr} {q : State} (h : s.fetchNext u = .run i q) : step s = exec i (q.issued u i) := by
  simp [step, ha, ht, h]
theorem step_stop {q : State} (h : s.fetchNext u = .stop q) : step s = .next q := by
  simp [step, ha, ht, h]

variable {x : Xlat} (hx : s.translate u.node (s.ctxOf u) (s.thread u).pc .fetch = .ok x)
  (hline : (s.caches u.node).code.has (x.at_ u.node / 64) = true ∨ s.poisoned (64 * (x.at_ u.node / 64)) 64 = false)
  (hu : s.MayFetch u)
include hx hline hu

theorem step_decoded {i : Instr} {rest : List Byte} (h : decode ((s.codeAt u x).take 8 ++ [0, 0, 0, 0]) = .ok (i, rest)) :
    step s = exec i ((s.fetched u x).issued u i) :=
  step_run ha ht (State.fetchNext_decodes hx hline hu h)

/-- A step fetches, and performs what the bytes decode to or raises the fault of bytes that decode to nothing. -/
theorem exists_step_fetch : ∃ z, s.MemoryOnly z ∧ (∀ a, ¬ (x.pte ≤ a ∧ a < x.pte + 8) → z.mem.get a = s.mem.get a) ∧
    (∀ i rest, decode ((s.codeAt u x).take 8 ++ [0, 0, 0, 0]) = .ok (i, rest) → step s = exec i z) ∧
    ∀ e, decode ((s.codeAt u x).take 8 ++ [0, 0, 0, 0]) = .error e →
      step s = .next (z.faultUnit u (fltD (if e = .reservedMode then 0x22 else 0x20) 0)) := by
  have hm := State.memoryOnly_fetched s u x
  cases hd : decode ((s.codeAt u x).take 8 ++ [0, 0, 0, 0]) with
  | error e =>
    refine ⟨s.fetched u x, hm, fun a h => State.get_fetched s u x h, fun i rest h => ?_, fun e' h => ?_⟩
    · cases h
    · cases h
      rw [step_stop ha ht (State.fetchNext_fails hx hline hu hd), decodeFault_eq]
  | ok p =>
    have hk := State.homeKept_issued (s.fetched u x) u p.1
    refine ⟨(s.fetched u x).issued u p.1, hm.trans hk.memory, fun a h => ?_, fun i rest h => ?_, fun e h => ?_⟩
    · rw [hk.mem, State.get_fetched s u x h]
    · cases h
      exact step_decoded ha ht hx hline hu hd
    · cases h

end

/-! Walks: what one entry of a table says (spec/01 R25). -/

theorem State.walk_pointer (s : State) {va l table : Nat} {e : Dword} (he : s.home64 (table + 8 * vaIndex va (l + 1)) = e)
    (hvalid : e.getLsbD 0 = true) (hptr : e.getLsbD 1 = false) (hok : pointerOk e (l + 1) = true) :
    s.walk va (l + 1) table = s.walk va l (pteNext e) := by
  rw [State.walk]
  simp only [he, hvalid, hptr, hok]
  rfl
theorem State.walk_leaf (s : State) {va l table : Nat} {e : Dword} (he : s.home64 (table + 8 * vaIndex va l) = e)
    (hvalid : e.getLsbD 0 = true) (hleaf : e.getLsbD 1 = true) (hok : (l == 3 || !leafOk e l) = false) :
    s.walk va l table = .ok { pa := leafPa e + va % pageBytes l, leaf := e, level := l, pte := table + 8 * vaIndex va l } := by
  rw [State.walk.eq_def]
  simp only [he, hvalid, hleaf, hok]
  rfl

/-! A placed instruction (notes/assumptions/4.md). -/

/-- The first eight bytes of a word of at most 64 bits, as the decoder reads them from the table's numbering. -/
theorem natLe_eight (v : Nat) : natLe 8 v = bytesOfWord (v % 4294967296) ++ bytesOfWord (v / 4294967296) := by
  have h (n : Nat) {a b : Nat} (h : a % 2 ^ n = b % 2 ^ n) : BitVec.ofNat n a = BitVec.ofNat n b := by
    apply BitVec.eq_of_toNat_eq
    simpa using h
  simp only [natLe, bytesOfWord, List.cons_append, List.nil_append, List.cons.injEq, and_true]
  refine ⟨?_, ?_, ?_, ?_, ?_, ?_, ?_, ?_⟩ <;> apply h <;> omega

/-- Bytes behind an instruction do not change it. -/
theorem decode_append {bs rest : List Byte} {i : Instr} (h : decode bs = .ok (i, rest)) (more : List Byte) :
    decode (bs ++ more) = .ok (i, rest ++ more) := by
  obtain ⟨hdec, -, henc⟩ := decodeEncode
  obtain ⟨hw, rfl⟩ := henc bs rest i h
  rw [List.append_assoc]
  exact hdec i _ hw

/-- `decodeTableWord` as a function of the decoded bytes. It is unfolded under a name for it (`D`) and before it is applied: the
kernel would else decode the symbolic bytes to compare its two sides, and unfold products with 2^24. -/
theorem decodeTableWord_of_eq {D : Nat → Nat → Option Instr} (hD : D = decodeTableWord) (nbits w : Nat) :
    D nbits w = (decode (natLe 8 (w % 2 ^ nbits))).toOption.map Prod.fst := by
  delta decodeTableWord at hD
  subst hD
  dsimp only
  rw [← natLe_eight]
  generalize decode (natLe 8 (w % 2 ^ nbits)) = r
  cases r <;> rfl

theorem decode_of_decodeTableWord {nbits w : Nat} {i : Instr} (h : decodeTableWord nbits w = some i) :
    ∃ rest, decode (natLe 8 (w % 2 ^ nbits) ++ [0, 0, 0, 0]) = .ok (i, rest) := by
  rw [decodeTableWord_of_eq rfl] at h
  cases hd : decode (natLe 8 (w % 2 ^ nbits)) with
  | error e => rw [hd] at h; cases h
  | ok p =>
    rw [hd] at h
    cases h
    exact ⟨_, decode_append hd _⟩

/-- The eight bytes at `a` of a memory into which eight bytes have been written there. -/
theorem Mem.read_natLe (m : Mem) (a v : Nat) : (m.write a (natLe 8 v)).read a 8 = natLe 8 v := by
  have h := Mem.read_write m a (natLe 8 v)
  rwa [natLe_length] at h

theorem read_placedMem_root (m : Mem) (w : Nat) : (placedMem m w).read 0x100000 8 = natLe 8 0x200001 := by
  rw [placedMem, Mem.read_write_other, Mem.read_write_other, Mem.read_natLe]
  · exact .inl (by decide)
  · exact .inl (by decide)
theorem read_placedMem_leaf (m : Mem) (w : Nat) : (placedMem m w).read 0x200000 8 = natLe 8 (placedFrame + 0x457) := by
  rw [placedMem, Mem.read_write_other, Mem.read_natLe]
  exact .inl (by decide)
theorem read_placedMem_code (m : Mem) (w : Nat) : (placedMem m w).read (placedFrame + 0x10000) 8 = natLe 8 w := by
  rw [placedMem, Mem.read_natLe]

/-- The translation of a placed instruction's address. -/
def placedXlat : Xlat := { pa := placedFrame + 0x10000, leaf := BitVec.ofNat 64 (placedFrame + 0x457), level := 2, pte := 0x200000 }

section
variable (s) (u : UnitId) (w : Nat)

theorem State.core_placeCode :
    (s.placeCode u w).core 0 = { placedCore with quads := Tab.empty.put 0 { current := some u, last := 0 } } := by
  simp [State.core, State.placeCode]
theorem State.ctx_placeCode :
    (s.placeCode u w).ctx 0 = { Context.reset with desc := { w0 := 0x100001, w1 := 1, w2 := 0x300006, w3 := 0 } } := by
  simp [State.ctx, State.placeCode]
theorem State.caches_placeCode : (s.placeCode u w).caches 0 = .none := by
  simp only [State.caches, State.core_placeCode]
  rfl
theorem State.descOf_placeCode : (s.placeCode u w).descOf 0 0 = { w0 := 0x100001, w1 := 1, w2 := 0x300006, w3 := 0 } := by
  simp only [State.descOf, State.caches_placeCode, State.ctx_placeCode]
  rfl
theorem State.walkStart_placeCode (va : Nat) : (s.placeCode u w).walkStart 0 0 va = (3, 0x100000) := by
  have hw : (s.placeCode u w).walkCache 0 = [] := by
    simp [State.walkCache, State.placeCode, nodeDie, Tab.get]
  simp only [State.walkStart, hw, State.descOf_placeCode]
  rfl
theorem State.home64_placeCode_root : (s.placeCode u w).home64 0x100000 = 0x200001 := by
  simp only [State.home64, State.placeCode, read_placedMem_root]
  decide
theorem State.home64_placeCode_leaf : (s.placeCode u w).home64 0x200000 = BitVec.ofNat 64 (placedFrame + 0x457) := by
  simp only [State.home64, State.placeCode, read_placedMem_leaf]
  decide

/-- The root table of a placed instruction points to a table whose first entry is a leaf. -/
theorem State.walk_placeCode : (s.placeCode u w).walk 0x10000 3 0x100000 = .ok placedXlat := by
  have hroot : (s.placeCode u w).home64 (0x100000 + 8 * vaIndex 0x10000 (2 + 1)) = 0x200001 := State.home64_placeCode_root s u w
  have hleaf : (s.placeCode u w).home64 (0x200000 + 8 * vaIndex 0x10000 2) = BitVec.ofNat 64 (placedFrame + 0x457) :=
    State.home64_placeCode_leaf s u w
  have hnext : pteNext 0x200001 = 0x200000 := by decide
  rw [State.walk_pointer (l := 2) _ hroot (by decide) (by decide) (by decide), hnext,
    State.walk_leaf _ hleaf (by decide) (by decide) (by decide)]
  decide

theorem State.translate_placeCode : (s.placeCode u w).translate 0 0 placedVa .fetch = .ok placedXlat := by
  have hlookup : (s.placeCode u w).lookup 0 0 placedVa.toNat = .ok placedXlat := by
    simp only [State.lookup, State.tlbFind, State.caches_placeCode, State.walkStart_placeCode]
    exact State.walk_placeCode s u w
  simp only [State.translate, hlookup, State.descOf_placeCode]
  rfl
theorem State.not_poisoned_placeCode : (s.placeCode u w).poisoned (64 * ((placedFrame + 0x10000) / 64)) 64 = false := by
  simp [State.poisoned, State.placeCode, pieces, placedFrame]

end

/-- A unit that a placed instruction may have: its path, or its team's sequencer. -/
def placedUnits : List UnitId := [.path 0 0 0, .seq 0 0]

theorem placedUnit_mem (o : Option Instr) : placedUnit o ∈ placedUnits := by
  cases o with
  | none => simp [placedUnit, placedUnits]
  | some i => cases h : i.wrongUnit (.path 0 0 0) <;> simp [placedUnit, placedUnits, h]

section
variable (s) {u : UnitId} (w : Nat) (hu : u ∈ placedUnits)
include hu

theorem State.node_placed : u.node = 0 := by
  fin_cases hu <;> rfl
theorem State.mayFetch_placeCode : (s.placeCode u w).MayFetch u := by
  fin_cases hu <;>
    simp only [State.MayFetch, State.alive, State.thread, State.group, State.team, State.core_placeCode] <;> exact ⟨rfl, rfl⟩
theorem State.pc_placeCode : ((s.placeCode u w).thread u).pc = placedVa := by
  fin_cases hu <;> simp only [State.thread, State.group, State.team, State.core_placeCode] <;> rfl
theorem State.ctxOf_placeCode : (s.placeCode u w).ctxOf u = 0 := by
  fin_cases hu <;>
    simp only [State.ctxOf, State.teamOf, State.teamSlot, State.group, State.team, UnitId.place, State.core_placeCode] <;> rfl
/-- The line of the placed instruction begins with its word. -/
theorem State.codeAt_placeCode : ((s.placeCode u w).codeAt u placedXlat).take 8 = natLe 8 w := by
  have hread : ((s.placeCode u w).mem.read (placedFrame + 0x10000) 64).take 8 = (s.placeCode u w).mem.read (placedFrame + 0x10000) 8 := by
    simp [Mem.read, ← List.map_take, List.take_range]
  simp only [State.codeAt, State.node_placed hu, State.caches_placeCode]
  exact hread.trans (read_placedMem_code s.mem w)

end

/-- An instruction placed by `withFetchWord` is the one that the next step runs. -/
theorem exists_step_withFetchWord (s : State) {nbits w : Nat} {i : Instr} (h : decodeTableWord nbits w = some i) :
    ∃ z, step (s.withFetchWord nbits w) = exec i z ∧ (s.withFetchWord nbits w).MemoryOnly z ∧
      z.turn = some (if i.wrongUnit (.path 0 0 0) then .seq 0 0 else .path 0 0 0) := by
  obtain ⟨rest, hdec⟩ := decode_of_decodeTableWord h
  have hu : placedUnit (some i) ∈ placedUnits := placedUnit_mem _
  have hplace : s.withFetchWord nbits w = s.placeCode (placedUnit (some i)) (w % 2 ^ nbits) := by rw [State.withFetchWord, h]
  rw [hplace]
  generalize w % 2 ^ nbits = v at hdec
  have hx := State.translate_placeCode s (placedUnit (some i)) v
  have hcode := State.codeAt_placeCode s v hu
  obtain ⟨z, hm, -, hrun, -⟩ := exists_step_fetch (s := s.placeCode (placedUnit (some i)) v) (x := placedXlat) rfl rfl
    (by rwa [State.node_placed hu, State.ctxOf_placeCode s v hu, State.pc_placeCode s v hu])
    (.inr (by rw [State.node_placed hu]; exact State.not_poisoned_placeCode s _ v)) (State.mayFetch_placeCode s v hu)
  rw [hcode] at hrun
  exact ⟨z, hrun i rest hdec, hm, by rw [hm.rest]; rfl⟩

/-- Settles O58: a step fetches through `State.fetch_eq`, and a placed instruction is fetched in the same way. -/
theorem stepRunsDecoded : Obligations.StepRunsDecoded := by
  unfold Obligations.StepRunsDecoded
  intro s u
  refine ⟨fun ha ht halive hready x hx hline => ?fetch, fun ha ht hwait => step_stop ha ht (State.fetchNext_waits hwait),
    fun i r ha hi => step_event ha hi, fun nbits w i _ h => exists_step_withFetchWord s h⟩
  case fetch =>
    obtain ⟨z, hm, hget, hrun, hstop⟩ := exists_step_fetch ha ht hx hline ⟨halive, hready⟩
    refine ⟨z, hm, hget, fun bytes hbytes => ?_⟩
    subst hbytes
    exact ⟨hrun, hstop⟩

end Sys2Proof.Machine

namespace Sys2Proof.Machine

/-! O29. The encoding's own tables: which operations an atomic takes, how wide a type is, which form bit 31 chooses. -/

theorem aopOk_eq (ty aop : Nat) : aopOk ty aop =
    decide ((aop ≤ 5 ∧ ty ≤ 3) ∨ (aop = 0 ∧ ty = 7) ∨ (aop = 6 ∧ ty ≤ 4) ∨ (aop = 7 ∧ ty = 4) ∨ (aop = 8 ∧ ty ≤ 3)) := by
  unfold aopOk
  split
  · grind
  · grind

theorem typeW_eq (m : BitVec 3) : typeW m = if m = 2 ∨ m = 3 ∨ m = 7 then 64 else 32 := by
  revert m
  decide

section
variable {op w x : Nat} {i : Instr}

theorem units_of_decodeL (h : decodeL op w x = .ok i) : i.units = .lform := by
  unfold decodeL at h
  split at h
  all_goals cases h
  all_goals rfl

theorem units_of_decodeTret (h : decodeTret w = .ok i) : i.units = .all := by
  unfold decodeTret at h
  split at h
  all_goals cases h
  all_goals rfl

theorem units_of_decodeHalt (h : decodeHalt w = .ok i) : i.units ≠ .lform := by
  unfold decodeHalt at h
  split at h
  all_goals cases h
  all_goals exact nofun

theorem units_of_decodeG (h : decodeG op w x = .ok i) : i.units ≠ .lform := by
  unfold decodeG at h
  split at h
  case h_75 => rw [units_of_decodeTret h]; exact nofun
  case h_77 => exact units_of_decodeHalt h
  all_goals cases h
  all_goals exact nofun

/-- Bit 31 of the first word, which chooses the form. -/
theorem lform_iff (hw : hasWord i = true) : (encode i).getD 0 0 < 2 ^ 31 ↔ i.units = .lform := by
  have hform {w x : Nat} (hlt : w < 4294967296) (hd : decodeWords w x = .ok i) : w < 2 ^ 31 ↔ i.units = .lform := by
    unfold decodeWords at hd
    split at hd
    · exact iff_of_true (by omega) (units_of_decodeL hd)
    · exact iff_of_false (by omega) (units_of_decodeG hd)
  rcases encode_cases hw with ⟨w, he, hlt, -, hd⟩ | ⟨w, x, he, hlt, -, -, hd⟩
  · rw [he]; exact hform hlt hd
  · rw [he]; exact hform hlt hd

end

end Sys2Proof.Machine

namespace Sys2Proof.Machine

variable {s t : State}

/-! O29. Writing fault records leaves every unit as it stands (spec/01 R38, R39). -/

/-- Every unit stands as it did, and every context has its handler. -/
structure State.UnitsKept (s t : State) : Prop where
  cores : t.cores = s.cores
  lanterns : t.lanterns = s.lanterns
  trapv : ∀ c, (t.ctx c).trapv = (s.ctx c).trapv

theorem State.UnitsKept.refl (s : State) : s.UnitsKept s := ⟨rfl, rfl, fun _ => rfl⟩
theorem State.UnitsKept.trans {r : State} (h : s.UnitsKept t) (k : t.UnitsKept r) : s.UnitsKept r :=
  ⟨k.cores.trans h.cores, k.lanterns.trans h.lanterns, fun c => (k.trapv c).trans (h.trapv c)⟩
theorem State.UnitsKept.group (h : s.UnitsKept t) (c g : Nat) : t.group c g = s.group c g := by
  simp only [State.group, State.core, h.cores]
theorem State.UnitsKept.team (h : s.UnitsKept t) (c k : Nat) : t.team c k = s.team c k := by
  simp only [State.team, State.core, h.cores]
theorem State.UnitsKept.prog (h : s.UnitsKept t) (l p : Nat) : t.prog l p = s.prog l p := by
  simp only [State.prog, State.lantern, h.lanterns]
theorem State.UnitsKept.thread (h : s.UnitsKept t) (u : UnitId) : t.thread u = s.thread u := by
  cases u <;> simp [State.thread, h.group, h.team, h.prog]
theorem State.UnitsKept.ctxOf (h : s.UnitsKept t) (u : UnitId) : t.ctxOf u = s.ctxOf u := by
  cases u <;> simp [State.ctxOf, State.teamOf, State.teamSlot, h.group, h.team, h.prog]

theorem State.unitsKept_onCtx (s : State) (c : Nat) (f : Context → Context) (hf : ∀ k, (f k).trapv = k.trapv) :
    s.UnitsKept (s.onCtx c f) := by
  refine ⟨rfl, rfl, fun d => ?_⟩
  rw [State.ctx_onCtx]
  split
  · rename_i h
    rw [h, hf]
  · rfl
theorem State.HomeOnly.unitsKept (h : s.HomeOnly t) : s.UnitsKept t := ⟨by rw [h], by rw [h], fun c => by rw [h.ctx]⟩

theorem State.unitsKept_pushRecord (s : State) (nd c : Nat) (w : List Dword) (out : Option Requester) (d : Option Delivery) :
    s.UnitsKept (s.pushRecord nd c w out d) := by
  unfold State.pushRecord
  exact .trans (t := s.tick) ⟨rfl, rfl, fun _ => rfl⟩ (State.unitsKept_onCtx _ c _ fun _ => rfl)
theorem State.unitsKept_signal (s : State) (g v : Nat) : s.UnitsKept (s.signal g v) := ⟨rfl, rfl, fun _ => rfl⟩
theorem State.unitsKept_recordIn (s : State) (c : Nat) (r : PendRecord) (rest : List PendRecord) :
    s.UnitsKept (s.recordIn c r rest) := by
  unfold State.recordIn
  refine .trans ?_ (State.unitsKept_signal _ _ _)
  exact .trans (State.homeOnly_ringWrite s _ _ _ _).unitsKept (State.unitsKept_onCtx _ c _ fun _ => rfl)

/-- A record that is written without a trap being taken or a command's completing. -/
def PendRecord.Quiet (r : PendRecord) : Prop := r.deliver = none ∧ ∀ j m q id, r.out ≠ some (.failing j m q id)

theorem PendRecord.Quiet.ends {r : PendRecord} (h : r.Quiet) (s : State) : s.endFailing r = s := by
  unfold State.endFailing
  split
  · rename_i hout
    exact absurd hout (h.2 _ _ _ _)
  · rfl
theorem State.writeRecord_quiet {c : Nat} {r : PendRecord} {rest : List PendRecord} (hp : (s.ctx c).pend = r :: rest) (hr : r.Quiet)
    (hroom : s.ringRoom r.desc.fqbase r.desc.fqlog2 1 = true) : s.writeRecord c = s.recordIn c r rest := by
  rw [State.writeRecord_room hp hroom hr.1, hr.ends]
theorem State.writeRecord_delivers {c : Nat} {d : Delivery} {r : PendRecord} {rest : List PendRecord}
    (hp : (s.ctx c).pend = r :: rest) (hd : r.deliver = some d) (hout : r.out = none)
    (hroom : s.ringRoom r.desc.fqbase r.desc.fqlog2 1 = true) : s.writeRecord c = (s.recordIn c r rest).takeTrap d := by
  simp only [State.writeRecord, hp, hroom, hd, hout]
  simp [State.recordIn, PendRecord.parked, hout]
theorem State.pend_recordIn (s : State) (c : Nat) (r : PendRecord) (rest : List PendRecord) :
    ((s.recordIn c r rest).ctx c).pend = rest := by rw [State.ctx_recordIn]

theorem State.flushRecords_nil {c n : Nat} (hp : (s.ctx c).pend = []) : State.flushRecords n s c = s := by
  cases n with
  | zero => rfl
  | succ n => simp [State.flushRecords, hp]
theorem State.flushRecords_cons {c n : Nat} {r : PendRecord} {rest : List PendRecord} (hp : (s.ctx c).pend = r :: rest) :
    State.flushRecords (n + 1) s c = State.flushRecords n (s.writeRecord c) c := by
  simp [State.flushRecords, hp]

/-- Quiet records are written as far as the ring has room, and no unit notices. -/
theorem State.unitsKept_flushRecords {c : Nat} (n : Nat) {l : List PendRecord} (hp : (s.ctx c).pend = l) (hl : ∀ r ∈ l, r.Quiet) :
    s.UnitsKept (State.flushRecords n s c) := by
  induction n generalizing s l with
  | zero => exact .refl s
  | succ n ih =>
    cases l with
    | nil => rw [State.flushRecords_nil hp]; exact .refl s
    | cons r rest =>
      rw [State.flushRecords_cons hp]
      cases hroom : s.ringRoom r.desc.fqbase r.desc.fqlog2 1 with
      | false => rw [State.writeRecord_full hp hroom]; exact ih hp hl
      | true =>
        rw [State.writeRecord_quiet hp (hl r (by simp)) hroom]
        exact (State.unitsKept_recordIn s c r rest).trans
          (ih (State.pend_recordIn s c r rest) fun q hq => hl q (List.mem_cons_of_mem _ hq))

/-! A trap that is no NOTPRESENT, and the last of several records whose writing delivers one. -/

theorem State.takeTrap_entered {d : Delivery} (hf : (s.thread d.dest).frame.active = false)
    (hv : (s.ctx (s.ctxOf d.dest)).trapv ≠ 0) (hc : d.cause ≠ 0) : s.takeTrap d = s.entered d := by
  simp only [State.takeTrap, hf, hv, hc]
  rfl

/-- Unit `u` handles no trap, and its context has a handler. -/
def State.Handles (s : State) (u : UnitId) : Prop := (s.thread u).frame.active = false ∧ (s.ctx (s.ctxOf u)).trapv ≠ 0

theorem State.UnitsKept.handles {u : UnitId} (h : s.UnitsKept t) (k : s.Handles u) : t.Handles u := by
  unfold State.Handles at k ⊢
  rwa [h.thread, h.ctxOf, h.trapv]

/-- After `s` the units stand as they did, or, every record being written, one of them has taken the trap `d`. -/
def State.Delivers (s t : State) (d : Delivery) : Prop := s.UnitsKept t ∨ ∃ q, s.UnitsKept q ∧ t = q.entered d

theorem State.ctxs_entered (s : State) (d : Delivery) : (s.entered d).ctxs = s.ctxs := by
  rw [(State.own_entered s d).units.rest]

theorem State.delivers_flushRecords {c : Nat} {d : Delivery} {r : PendRecord} (hd : r.deliver = some d) (hout : r.out = none)
    (hc : d.cause ≠ 0) (n : Nat) {l : List PendRecord} (hp : (s.ctx c).pend = l ++ [r]) (hl : ∀ r ∈ l, r.Quiet)
    (hh : s.Handles d.dest) : s.Delivers (State.flushRecords n s c) d := by
  induction n generalizing s l with
  | zero => exact .inl (.refl s)
  | succ n ih =>
    cases l with
    | nil =>
      rw [State.flushRecords_cons hp]
      cases hroom : s.ringRoom r.desc.fqbase r.desc.fqlog2 1 with
      | false => rw [State.writeRecord_full hp hroom]; exact ih hp hl hh
      | true =>
        have hk := State.unitsKept_recordIn s c r []
        have hw : s.writeRecord c = (s.recordIn c r []).entered d := by
          rw [State.writeRecord_delivers hp hd hout hroom, State.takeTrap_entered (hk.handles hh).1 (hk.handles hh).2 hc]
        have hnil : (((s.recordIn c r []).entered d).ctx c).pend = [] := by
          rw [State.ctx, State.ctxs_entered]
          exact State.pend_recordIn s c r []
        rw [hw, State.flushRecords_nil hnil]
        exact .inr ⟨_, hk, rfl⟩
    | cons x rest =>
      rw [State.flushRecords_cons hp]
      cases hroom : s.ringRoom x.desc.fqbase x.desc.fqlog2 1 with
      | false => rw [State.writeRecord_full hp hroom]; exact ih hp hl hh
      | true =>
        have hk := State.unitsKept_recordIn s c x (rest ++ [r])
        rw [State.writeRecord_quiet hp (hl x (by simp)) hroom]
        rcases ih (State.pend_recordIn s c x _) (fun q hq => hl q (List.mem_cons_of_mem _ hq)) (hk.handles hh) with h | ⟨q, hq, h⟩
        · exact .inl (hk.trans h)
        · exact .inr ⟨q, hk.trans hq, h⟩

/-! Records of one event. -/

theorem State.exists_pend_pushRecord (s : State) (nd c : Nat) (w : List Dword) (out : Option Requester) (d : Option Delivery) :
    ∃ r : PendRecord, r.out = out ∧ r.deliver = d ∧ ((s.pushRecord nd c w out d).ctx c).pend = (s.ctx c).pend ++ [r] := by
  refine ⟨{ s.newRecord nd c w out with deliver := d }, rfl, rfl, ?_⟩
  rw [State.pushRecord, State.ctx_onCtx_same]
  rfl

/-- Who, if anyone, is parked on a record is no command that fails. -/
def NoCommand (out : Option Requester) : Prop := ∀ j m q id, out ≠ some (.failing j m q id)

theorem State.pushRecords_quiet {nd c : Nat} {out : Option Requester} (ho : NoCommand out) (ws : List (List Dword)) {l : List PendRecord}
    (hp : (s.ctx c).pend = l) (hl : ∀ r ∈ l, r.Quiet) :
    let q := ws.foldl (fun s w => s.pushRecord nd c w out none) s
    s.UnitsKept q ∧ ∀ r ∈ (q.ctx c).pend, r.Quiet := by
  induction ws generalizing s l with
  | nil => exact ⟨.refl s, by simpa [hp] using hl⟩
  | cons w ws ih =>
    obtain ⟨r, hro, hrd, hpend⟩ := State.exists_pend_pushRecord s nd c w out none
    rw [hp] at hpend
    obtain ⟨hk, hq⟩ := ih hpend fun x hx => by
      rcases List.mem_append.mp hx with hx | hx
      · exact hl x hx
      · obtain rfl := List.mem_singleton.mp hx
        exact ⟨hrd, by rw [hro]; exact ho⟩
    exact ⟨(State.unitsKept_pushRecord s nd c w out none).trans hk, hq⟩

theorem State.unitsKept_report {nd c : Nat} {out : Option Requester} (recs : List (List Dword)) (ho : NoCommand out)
    (hp : (s.ctx c).pend = []) : s.UnitsKept (s.report nd c recs out none) := by
  unfold State.report
  split
  · exact .refl s
  · rename_i last front _
    obtain ⟨hk, hq⟩ := State.pushRecords_quiet (nd := nd) ho front.reverse hp (by simp)
    generalize front.reverse.foldl (fun s w => s.pushRecord nd c w out none) s = q at hk hq
    obtain ⟨hk', hq'⟩ := State.pushRecords_quiet (nd := nd) ho [last] rfl hq
    exact (hk.trans hk').trans (State.unitsKept_flushRecords _ rfl hq')

theorem State.delivers_report {nd c : Nat} {d : Delivery} (recs : List (List Dword)) (hc : d.cause ≠ 0)
    (hp : (s.ctx c).pend = []) (hh : s.Handles d.dest) : s.Delivers (s.report nd c recs none (some d)) d := by
  unfold State.report
  split
  · exact .inr ⟨s, .refl s, State.takeTrap_entered hh.1 hh.2 hc⟩
  · rename_i last front _
    obtain ⟨hk, hq⟩ := State.pushRecords_quiet (nd := nd) (out := none) (fun _ _ _ _ h => by cases h) front.reverse hp (by simp)
    generalize front.reverse.foldl (fun s w => s.pushRecord nd c w none none) s = q at hk hq
    obtain ⟨r, hro, hrd, hpend⟩ := State.exists_pend_pushRecord q nd c last none (some d)
    have hk' := hk.trans (State.unitsKept_pushRecord q nd c last none (some d))
    rcases State.delivers_flushRecords hrd hro hc _ hpend hq (hk'.handles hh) with h | ⟨x, hx, h⟩
    · exact .inl (hk'.trans h)
    · exact .inr ⟨x, hk'.trans hx, h⟩

theorem State.report_nil (s : State) (nd c : Nat) (out : Option Requester) (d : Delivery) :
    s.report nd c [] out (some d) = s.takeTrap d := rfl

end Sys2Proof.Machine

namespace Sys2Proof.Machine

/-! O29. The check of one operand field, as the encoding rules give it. -/

theorem getLsbD_zero_eq {n : Nat} (b : BitVec n) : b.getLsbD 0 = (b.toNat % 2 == 1) := by
  rw [BitVec.getLsbD, Nat.testBit_zero]
  rfl
theorem srcLOk_eq (c : BitVec 7) (w : Nat) : srcLOk c w =
    ((decide (c.toNat < 68) || decide (71 < c.toNat)) && !(decide (c.toNat < 64) && w == 64 && c.getLsbD 0)) := by
  rw [srcLOk, getLsbD_zero_eq]
  grind
theorem even_eq (d : BitVec 6) (w : Nat) : (!(w == 64 && d.toNat % 2 == 1)) = (w != 64 || !d.getLsbD 0) := by
  rw [getLsbD_zero_eq, Bool.not_and]
  rfl
theorem srcGOk_eq (n : BitVec 8) : srcGOk n = (decide (n.toNat < 160) || decide (251 < n.toNat)) := by
  rw [srcGOk]
  grind
theorem regGOk_eq (n : BitVec 8) : decide (n.toNat ≤ 159) = decide (n.toNat < 160) := by
  grind
theorem latchL_eq (c : BitVec 7) (w : Nat) : (Opnd.srcL c w).latch =
    if 64 ≤ c.toNat ∧ c.toNat < 68 then some (true, c.toNat - 64) else none := by
  rw [Opnd.latch]
  grind

/-! The first check that fails. -/

/-- Does the instruction's extension word lie in the next line? -/
def ExtensionCut (i : Instr) (pc : Dword) : Prop := i.len = 8 ∧ pc.toNat % 64 = 60

section
variable {s : State} {u : UnitId} {i : Instr}

theorem State.preCheck_unit (hu : i.wrongUnit u = true) : s.preCheck u i = some (fltD 0x21 0) := by
  simp [State.preCheck, hu]
theorem State.preCheck_modifier (hu : i.wrongUnit u = false)
    (hm : i.firstOk = false ∨ ¬ ExtensionCut i (s.thread u).pc ∧ i.extOk = false) : s.preCheck u i = some (fltD 0x22 0) := by
  rcases hm with hm | ⟨hcut, hm⟩
  · simp [State.preCheck, hu, hm]
  · have hc : (i.len == 8 && (s.thread u).pc.toNat % 64 == 60) = false := by simpa [ExtensionCut] using hcut
    simp [State.preCheck, hu, hm, hc]
theorem State.preCheck_operand (hu : i.wrongUnit u = false) (hf : i.firstOk = true)
    (ho : ExtensionCut i (s.thread u).pc ∨ i.extOk = true ∧ i.opndsOk = false) : s.preCheck u i = some (fltD 0x23 0) := by
  rcases ho with hcut | ⟨he, ho⟩
  · have hc : (i.len == 8 && (s.thread u).pc.toNat % 64 == 60) = true := by simpa [ExtensionCut] using hcut
    simp [State.preCheck, hu, hf, hc, illegalOperand]
  · simp [State.preCheck, hu, hf, he, ho, illegalOperand]
theorem State.preCheck_latch {p : Bool × Nat} (hu : i.wrongUnit u = false) (hf : i.firstOk = true)
    (hcut : ¬ ExtensionCut i (s.thread u).pc) (he : i.extOk = true) (ho : i.opndsOk = true)
    (hp : (i.opnds.filterMap Opnd.latch).find? (fun l => !(s.thread u).run.latchValid l.1 l.2) = some p) :
    s.preCheck u i = some (fltD 0x24 p.2) := by
  have hc : (i.len == 8 && (s.thread u).pc.toNat % 64 == 60) = false := by simpa [ExtensionCut] using hcut
  simp only [State.preCheck, hu, hf, hc, he, ho, hp]
  rfl

end

end Sys2Proof.Machine

namespace Sys2Proof.Machine

variable {s t : State}

/-! O29. A unit that stops and takes a trap (spec/15 R326, R329). -/

theorem State.Own.ctxs {u : UnitId} (h : s.Own t u) : t.ctxs = s.ctxs := by rw [h.units.rest]
theorem State.Own.ctxOf {u : UnitId} (h : s.Own t u) : t.ctxOf u = s.ctxOf u := by
  cases u with
  | path c g i =>
    have hg : (t.group c g).team = (s.group c g).team := by rw [h.apart.group c g i rfl]
    simp only [State.ctxOf, State.teamOf, State.teamSlot, UnitId.place, hg]
    rw [h.apart.teams c _ nofun]
  | seq c k =>
    simp only [State.ctxOf, State.teamOf, State.teamSlot, UnitId.place]
    rw [h.apart.team c k rfl]
  | lant l p =>
    simp only [State.ctxOf]
    rw [h.apart.prog l p rfl]

/-- The unit has given up its place, its thread changed by `F`. -/
def State.stopped (s : State) (u : UnitId) (F : Thread → Thread) : State := (s.onThread u F).leave u

section
variable {u : UnitId} {F : Thread → Thread} {d : Delivery}

theorem State.own_stopped (s : State) (u : UnitId) (F : Thread → Thread) : s.Own (s.stopped u F) u :=
  (State.own_onThread s u F).trans (State.own_leave _ u u)
theorem State.thread_stopped (s : State) (u : UnitId) (F : Thread → Thread) : (s.stopped u F).thread u = F (s.thread u) := by
  simp [State.stopped]
theorem State.mask_stopped (s : State) (u : UnitId) (F : Thread → Thread) : (s.stopped u F).maskOf u = s.maskOf u := by
  simp [State.stopped]
theorem State.trapv_stopped (s : State) (u : UnitId) (F : Thread → Thread) :
    ((s.stopped u F).ctx ((s.stopped u F).ctxOf u)).trapv = (s.ctx (s.ctxOf u)).trapv := by
  rw [(State.own_stopped s u F).ctxOf, State.ctx, (State.own_stopped s u F).ctxs]
  rfl

theorem State.own_entered_stopped (hd : d.dest = u) : s.Own ((s.stopped u F).entered d) u :=
  (State.own_stopped s u F).trans (hd ▸ State.own_entered (s.stopped u F) d)

theorem State.trapSees_entered_stopped (hd : d.dest = u) (hall : d.all = false) (hF : ∀ h, (F h).fmt = h.fmt) :
    s.TrapSees ((s.stopped u F).entered d) u d.cause d.detail d.addr d.lanes d.rpc d.fpc := by
  subst hd
  have h := State.trapSees_entered (s.stopped d.dest F) d hall
  have hv := State.trapv_stopped s d.dest F
  have hm := State.mask_stopped s d.dest F
  have hf : ((s.stopped d.dest F).thread d.dest).fmt = (s.thread d.dest).fmt := by rw [State.thread_stopped, hF]
  exact ⟨h.pc.trans hv, h.runpc.trans hv, h.ready, h.run, h.fmt, h.mask.trans hm, by rw [h.frame, hf, hm]⟩

/-- In its new run the unit sees the committed values. -/
theorem State.sget_entered_stopped (hd : d.dest = u) (r : Nat) :
    ((s.stopped u F).entered d).sget u r = (s.sregs u).get r 0 := by
  subst hd
  rw [State.sget, State.thread_entered]
  simp [Thread.enter, Thread.restart, Run.fresh, State.entered, State.stopped]
theorem State.vget_entered_stopped (hd : d.dest = u) (l r : Nat) :
    ((s.stopped u F).entered d).vget u l r = (s.groupOf u).vreg (s.pathOf u).wb l r := by
  subst hd
  have hw : (((s.stopped d.dest F).entered d).pathOf d.dest).wb = (s.pathOf d.dest).wb := by
    simp [State.entered, State.stopped]
  have hg : (((s.stopped d.dest F).entered d).groupOf d.dest).vregs = (s.groupOf d.dest).vregs := by
    simp [State.entered, State.stopped]
  have hr : (((s.stopped d.dest F).entered d).pathOf d.dest).th.run.vOver = .empty := by
    cases hp : d.dest.isPath with
    | true =>
      rw [State.pathOf_th _ _ hp, State.thread_entered]
      rfl
    | false =>
      rw [State.pathOf_other _ _ hp]
      rfl
  simp only [State.vget, Group.vreg, hw, hg, hr]
  rfl

end

end Sys2Proof.Machine

namespace Sys2Proof.Machine

variable {s t : State}

/-! O29. The lanes that fault, as a mask. -/

theorem Dword.getLsbD_bit (i : Nat) {l : Nat} (hl : l < 64) : (Dword.bit i).getLsbD l = decide (i = l) := by
  rw [Dword.bit, BitVec.getLsbD_ofNat]
  simp [hl, Nat.testBit_two_pow]

theorem getLsbD_foldl_bit (fs : List (Nat × Flt)) (m : Dword) {l : Nat} (hl : l < 64) :
    (fs.foldl (fun m x => m ||| Dword.bit x.1) m).getLsbD l = (m.getLsbD l || fs.any fun x => decide (x.1 = l)) := by
  induction fs generalizing m with
  | nil => simp
  | cons x fs ih => simp [ih, Dword.getLsbD_bit _ hl, Bool.or_assoc]
theorem getLsbD_lanesMask (fs : List (Nat × Flt)) {l : Nat} (hl : l < 64) :
    (lanesMask fs).getLsbD l = true ↔ ∃ f, (l, f) ∈ fs := by
  rw [lanesMask, getLsbD_foldl_bit fs 0 hl]
  simp

/-- A mask whose lanes are those of `fs`. -/
theorem lanesMask_eq {fs : List (Nat × Flt)} {x : Dword} (hx : ∀ l, l < 64 → (x.getLsbD l = true ↔ ∃ f, (l, f) ∈ fs)) :
    lanesMask fs = x := by
  refine BitVec.eq_of_getLsbD_eq fun l hl => Bool.eq_iff_iff.mpr ?_
  rw [getLsbD_lanesMask fs hl, hx l hl]
theorem lanesMask_lanes (m : Dword) (f : Flt) : lanesMask (m.lanes.map fun l => (l, f)) = m := by
  refine lanesMask_eq fun l hl => ?_
  simp [Dword.mem_lanes, hl]

/-! What faults leave of their translations is memory alone; a fault with no address leaves nothing. -/

/-- The lanes' faults have been met. -/
def State.metAll (s : State) (c : Nat) (u : UnitId) (fs : List (Nat × Flt)) : State :=
  fs.foldl (fun s x => s.met c (s.ctxOf u) x.2) s

theorem State.memoryOnly_metAll (s : State) (c : Nat) (u : UnitId) (fs : List (Nat × Flt)) : s.MemoryOnly (s.metAll c u fs) :=
  memoryOnly_foldl _ fs s fun s x => State.memoryOnly_met s c _ x.2
theorem State.met_trap (s : State) (n c : Nat) {f : Flt} (hu : f.used = none) (hc : 16 ≤ f.cause) : s.met n c f = s := by
  simp [State.met, hu, hc]
theorem State.metAll_traps (s : State) (c : Nat) (u : UnitId) {fs : List (Nat × Flt)} (h : ∀ y ∈ fs, y.2.used = none ∧ 16 ≤ y.2.cause) :
    s.metAll c u fs = s := by
  induction fs with
  | nil => rfl
  | cons y fs ih =>
    obtain ⟨hu, hc⟩ := h y (by simp)
    rw [State.metAll, List.foldl_cons, State.met_trap s _ _ hu hc]
    exact ih fun z hz => h z (List.mem_cons_of_mem _ hz)

/-- Traps make no records. -/
theorem laneRecords_traps {fs : List (Nat × Flt)} (place src : Nat) (h : ∀ y ∈ fs, 16 ≤ y.2.cause) : laneRecords place src fs = [] := by
  have hf : fs.filter (fun x => decide (x.2.cause < 16)) = [] := by
    simpa [List.filter_eq_nil_iff] using h
  simp only [laneRecords, hf]
  rfl

/-! Where the lanes that fault stand. -/

/-- The thread that repeats its run once it is told to go on. -/
def Thread.parkedAtRun (h : Thread) : Thread := { h.restart h.runpc with state := .parked }

/-- The thread that waits for the answer to its records. -/
def Thread.parkedOn (h : Thread) (p : Park) : Thread := { h with park := some p }

/-- Lanes `x` of path `i` have an entry of their own. -/
def State.splitLanes (s : State) (c g i : Nat) (x : Dword) : State :=
  s.onGroup c g fun k => (k.onPath i fun q => q.without x).newPath (((s.group c g).path i).splitOff x)
/-- The lanes that fault are set apart where they can be, and else their whole path stops. -/
def State.setApart (s : State) (c g i : Nat) (x : Dword) : State :=
  if s.canSplit (.path c g i) x then s.splitLanes c g i x else s.stopped (.path c g i) Thread.parkedAtRun
/-- The path of the lanes that fault. -/
def State.holder (s : State) (c g i : Nat) (x : Dword) : Nat := if s.canSplit (.path c g i) x then (s.group c g).nextPath else i

/-- The lanes that fault are parked in the path that holds them. -/
def State.parkLanes (s : State) (c g i : Nat) (x : Dword) (p : Park) : State :=
  (s.setApart c g i x).onThread (.path c g (s.holder c g i x)) fun h => h.parkedOn p

/-- The trap that path `h` of the group takes for the lanes of `tp`, the first of them with fault `f`. -/
def State.laneTrap (s : State) (c g i h : Nat) (tp : List (Nat × Flt)) (f : Flt) (all : Bool) : Delivery :=
  { dest := .path c g h, lanes := lanesMask tp, cause := f.cause, detail := f.detail, addr := f.addr, all := all
    rpc := ((s.group c g).path i).th.runpc, fpc := ((s.group c g).path i).th.pc }

section
variable {c g i : Nat} {fs : List (Nat × Flt)} {q : State} (hq : s.metAll c (.path c g i) fs = q)
include hq

/-- Lanes with a trap among them. -/
theorem State.faultLanes_trap {l : Nat} {f : Flt} {rest : List (Nat × Flt)} (ht : q.tears (.path c g i) = false)
    (htp : fs.filter (fun z => z.2.cause != 0) = (l, f) :: rest) :
    s.faultLanes c g i fs = (q.setApart c g i (lanesMask fs)).report c (q.ctxOf (.path c g i))
      (laneRecords (q.place (.path c g i)) 0 fs) none
      (some (q.laneTrap c g i (q.holder c g i (lanesMask fs)) ((l, f) :: rest) f
        (!(fs.filter fun z => decide (z.2.cause = 0)).isEmpty ||
          (!q.canSplit (.path c g i) (lanesMask fs) && lanesMask fs != ((q.group c g).path i).mask)))) := by
  subst hq
  unfold State.faultLanes
  dsimp only
  rw [htp]
  generalize hq : s.metAll c (.path c g i) fs = q at ht ⊢
  have hq' : (List.foldl (fun s x => s.met c (s.ctxOf (UnitId.path c g i)) x.snd) s fs) = q := hq
  rw [hq', ht]
  unfold State.setApart State.holder
  cases q.canSplit (.path c g i) (lanesMask fs) with
  | false => rfl
  | true => rfl

/-- Lanes whose faults are NOTPRESENT. -/
theorem State.faultLanes_park (htp : fs.filter (fun z => z.2.cause != 0) = []) (hnp : fs.filter (fun z => decide (z.2.cause = 0)) = fs) :
    ∃ recs seqs, s.faultLanes c g i fs = (q.parkLanes c g i (lanesMask fs) { mask := lanesMask fs, pc := ((q.group c g).path i).th.pc
                                                                             addr := (fs.head?.map fun x => x.2.addr).getD 0, seqs := seqs }).report
        c (q.ctxOf (.path c g i)) recs (some (.unit (.path c g (q.holder c g i (lanesMask fs))))) none := by
  subst hq
  unfold State.faultLanes
  dsimp only
  rw [htp, hnp]
  generalize hq : s.metAll c (.path c g i) fs = q
  have hq' : (List.foldl (fun s x => s.met c (s.ctxOf (UnitId.path c g i)) x.snd) s fs) = q := hq
  rw [hq']
  unfold State.parkLanes State.setApart State.holder
  cases q.canSplit (.path c g i) (lanesMask fs) with
  | false => exact ⟨_, _, rfl⟩
  | true => exact ⟨_, _, rfl⟩

end

end Sys2Proof.Machine

namespace Sys2Proof.Machine

variable {s t : State}

/-! O29. Lanes set apart: their own path and what remains of the old one. -/

/-- Of the paths of a group, the thread of path `k` alone may have changed. -/
structure State.PathOnly (s t : State) (c g k : Nat) : Prop where
  others : ∀ j, j ≠ k → (t.group c g).path j = (s.group c g).path j
  same : (t.group c g).path k = { (s.group c g).path k with th := ((t.group c g).path k).th }

section
variable {c g k : Nat}

theorem State.PathOnly.trans {r : State} (h : s.PathOnly t c g k) (h' : t.PathOnly r c g k) : s.PathOnly r c g k :=
  ⟨fun j hj => (h'.others j hj).trans (h.others j hj), by rw [h'.same, h.same]⟩
theorem State.Own.pathOnly (h : s.Own t (.path c g k)) : s.PathOnly t c g k :=
  ⟨h.apart.paths c g k rfl, h.apart.path c g k rfl⟩
theorem State.UnitsKept.pathOnly (h : s.UnitsKept t) : s.PathOnly t c g k := by
  refine ⟨fun j _ => ?_, ?_⟩ <;> rw [h.group]

end

theorem State.path_entered {d : Delivery} {c g k : Nat} (hd : d.dest = .path c g k) : ((s.entered d).group c g).path k =
    { (s.group c g).path k with
      th := ((s.group c g).path k).th.enter d (s.ctx (s.ctxOf (.path c g k))).trapv ((s.group c g).path k).mask } := by
  have hth := State.thread_entered s d
  rw [(State.own_entered s d).apart.path c g k hd]
  rw [hd] at hth
  exact congrArg (fun h => { (s.group c g).path k with th := h }) hth

/-! A new member of a family changes nothing of the others but the sets of who has dropped out of their waits. -/

theorem Group.path_forgetOut_wait (g : Group) (j i : Nat) :
    ∃ w, (g.forgetOut j).path i = { g.path i with th := { (g.path i).th with wait := w } } := by
  simp only [Group.path, Group.forgetOut, Tab.get, Tab.find]
  rw [findCell_map_keys]
  swap
  · intro cell
    split <;> rfl
  cases findCell i g.paths.cells with
  | none => exact ⟨.none, rfl⟩
  | some p =>
    dsimp only [Option.map_some, Option.getD_some]
    split
    · exact ⟨_, rfl⟩
    · exact ⟨p.th.wait, rfl⟩
theorem Group.newPath_path_wait {g : Group} {i j : Nat} (p : Path) (hj : g.paths.free Config.pathSlots = some j) (hi : i ≠ j) :
    ∃ w, (g.newPath p).path i = { g.path i with th := { (g.path i).th with wait := w } } := by
  obtain ⟨w, hw⟩ := Group.path_forgetOut_wait g j i
  refine ⟨w, hw ▸ ?_⟩
  simp [Group.newPath, hj, Group.path, Tab.get_put, hi]
theorem Group.team_newPath (g : Group) (p : Path) : (g.newPath p).team = g.team := by
  unfold Group.newPath
  split <;> rfl

/-- A path with lanes is in use. -/
theorem Group.has_of_mask {g : Group} {i : Nat} (h : (g.path i).mask ≠ 0) : g.paths.has i = true := by
  cases hf : g.paths.find i with
  | none => simp [Group.path, Tab.get, hf, Path.none] at h
  | some p => simp [Tab.has, hf]

section
variable {c g i : Nat} {x : Dword}

theorem State.canSplit_iff : s.canSplit (.path c g i) x = true ↔
    x ≠ ((s.group c g).path i).mask ∧ ((s.group c g).paths.free Config.pathSlots).isSome = true := by
  simp [State.canSplit, State.maskOf, State.pathOf, State.groupOf]
theorem State.canSplit_free {j : Nat} (hj : (s.group c g).paths.free Config.pathSlots = some j) (hx : x ≠ ((s.group c g).path i).mask) :
    s.canSplit (.path c g i) x = true := State.canSplit_iff.mpr ⟨hx, by simp [hj]⟩
theorem State.canSplit_full (h : (s.group c g).paths.free Config.pathSlots = none ∨ x = ((s.group c g).path i).mask) :
    s.canSplit (.path c g i) x = false := by
  rw [Bool.eq_false_iff, ne_eq, State.canSplit_iff]
  rintro ⟨hx, hfree⟩
  rcases h with h | h
  · simp [h] at hfree
  · exact hx h

theorem State.group_splitLanes (s : State) (c g i : Nat) (x : Dword) : (s.splitLanes c g i x).group c g =
    ((s.group c g).onPath i fun q => q.without x).newPath (((s.group c g).path i).splitOff x) := by
  simp [State.splitLanes]

theorem State.paths_splitLanes {j : Nat} (hi : (s.group c g).paths.has i = true)
    (hj : (s.group c g).paths.free Config.pathSlots = some j) :
    i ≠ j ∧ ((s.splitLanes c g i x).group c g).path j = ((s.group c g).path i).splitOff x ∧
      ∃ w, ((s.splitLanes c g i x).group c g).path i =
        { ((s.group c g).path i).without x with th := { (((s.group c g).path i).without x).th with wait := w } } := by
  have hij : i ≠ j := by
    rintro rfl
    rw [Tab.has_of_free hj] at hi
    cases hi
  have hfree : ((s.group c g).onPath i fun q => q.without x).paths.free Config.pathSlots = some j := by
    rw [← hj]
    exact Tab.free_put _ _ _ hi
  rw [State.group_splitLanes]
  refine ⟨hij, Group.newPath_path_same _ hfree, ?_⟩
  obtain ⟨w, hw⟩ := Group.newPath_path_wait (((s.group c g).path i).splitOff x) hfree hij
  exact ⟨w, by rw [hw, Group.path_onPath_same]⟩

theorem State.ctxOf_path (s : State) (c g i : Nat) : s.ctxOf (.path c g i) = (s.team c (s.group c g).team).ctx := rfl
theorem State.ctxOf_splitLanes (s : State) (c g i j : Nat) (x : Dword) :
    (s.splitLanes c g i x).ctxOf (.path c g j) = s.ctxOf (.path c g i) := by
  have hteam : ((s.splitLanes c g i x).group c g).team = (s.group c g).team := by
    rw [State.group_splitLanes, Group.team_newPath]
    rfl
  rw [State.ctxOf_path, State.ctxOf_path, hteam, State.splitLanes]
  simp

end

end Sys2Proof.Machine

namespace Sys2Proof.Machine

variable {s t q : State} {c g i j : Nat} {x : Dword}

/-! O29. The path of the lanes that fault, before it traps or is parked. -/

/-- The path has stopped to repeat the run of `p`, with lanes `m`. -/
structure Path.Stopped (v p : Path) (m : Dword) : Prop where
  mask : v.mask = m
  fmt : v.th.fmt = p.th.fmt
  pc : v.th.pc = p.th.runpc
  runpc : v.th.runpc = p.th.runpc
  state : v.th.state = .parked
  run : v.th.run = Run.fresh
  frame : v.th.frame.active = true → p.th.frame.active = true

theorem Path.stopped_splitOff (p : Path) (x : Dword) : (p.splitOff x).Stopped p x := ⟨rfl, rfl, rfl, rfl, rfl, rfl, nofun⟩
theorem Path.stopped_parkedAtRun (p : Path) : Path.Stopped { p with th := p.th.parkedAtRun } p p.mask :=
  ⟨rfl, rfl, rfl, rfl, rfl, rfl, id⟩

/-- Path `v` is parked at the start of the run of `p` until the record of `addr` is answered for lanes `x`. -/
def Path.ParkedFor (v p : Path) (x addr : Dword) : Prop :=
  v.th.state = .parked ∧ v.th.pc = p.th.runpc ∧ v.th.runpc = p.th.runpc ∧ v.th.run = Run.fresh ∧
    v.th.park.map (fun k => (k.mask, k.pc, k.addr)) = some (x, p.th.pc, addr)

theorem Path.Stopped.trapped {v p : Path} {m : Dword} (h : v.Stopped p m) (d : Delivery) (vec : Dword) :
    Path.Trapped { v with th := v.th.enter d vec v.mask } m
      { active := true, all := d.all, cause := BitVec.ofNat 8 d.cause, detail := BitVec.ofNat 16 d.detail, fmt := p.th.fmt
        rpc := d.rpc, fpc := d.fpc, addr := d.addr, lanes := d.lanes, held := m } vec := by
  rw [← h.fmt, ← h.mask]
  exact Path.trapped_enter v d vec
theorem Path.Stopped.parkedFor {v p : Path} {m : Dword} (h : v.Stopped p m) (x addr : Dword) (seqs : List Nat) :
    Path.ParkedFor { v with th := v.th.parkedOn { mask := x, pc := p.th.pc, addr := addr, seqs := seqs } } p x addr :=
  ⟨h.state, h.pc, h.runpc, h.run, rfl⟩

theorem State.setApart_split (hj : (s.group c g).paths.free Config.pathSlots = some j)
    (hx : x ≠ ((s.group c g).path i).mask) : s.holder c g i x = j ∧ s.setApart c g i x = s.splitLanes c g i x := by
  have hcan : s.canSplit (.path c g i) x = true := State.canSplit_free hj hx
  constructor
  · simp [State.holder, hcan, Group.nextPath, hj]
  · simp [State.setApart, hcan]
theorem State.setApart_whole (h : (s.group c g).paths.free Config.pathSlots = none ∨ x = ((s.group c g).path i).mask) :
    s.holder c g i x = i ∧ s.setApart c g i x = s.stopped (.path c g i) Thread.parkedAtRun := by
  have hcan : s.canSplit (.path c g i) x = false := State.canSplit_full h
  constructor
  · simp [State.holder, hcan]
  · simp [State.setApart, hcan]
theorem State.path_stopped (s : State) (c g i : Nat) (F : Thread → Thread) :
    ((s.stopped (.path c g i) F).group c g).path i = { (s.group c g).path i with th := F ((s.group c g).path i).th } := by
  rw [State.stopped, State.group_leave]
  simp [State.onThread]

/-- The lanes of the path that stops. -/
def State.heldLanes (s : State) (c g i : Nat) (x : Dword) : Dword :=
  if s.canSplit (.path c g i) x then x else ((s.group c g).path i).mask

/-- Either the lanes have an entry, or their path is whole. -/
theorem State.split_or_whole (s : State) (c g i : Nat) (x : Dword) :
    (∃ j, (s.group c g).paths.free Config.pathSlots = some j ∧ x ≠ ((s.group c g).path i).mask) ∨
      ((s.group c g).paths.free Config.pathSlots = none ∨ x = ((s.group c g).path i).mask) := by
  cases hf : (s.group c g).paths.free Config.pathSlots with
  | none => exact .inr (.inl rfl)
  | some j =>
    by_cases hx : x = ((s.group c g).path i).mask
    · exact .inr (.inr hx)
    · exact .inl ⟨j, rfl, hx⟩

theorem State.ctx_setApart (s : State) (c g i : Nat) (x : Dword) (n : Nat) : (s.setApart c g i x).ctx n = s.ctx n := by
  unfold State.setApart
  split
  · rfl
  · rw [State.ctx, (State.own_stopped s _ _).ctxs]
    rfl

theorem State.ctxOf_setApart : (s.setApart c g i x).ctxOf (.path c g (s.holder c g i x)) = s.ctxOf (.path c g i) := by
  rcases s.split_or_whole c g i x with ⟨j, hj, hx⟩ | h
  · obtain ⟨hk, hr⟩ := State.setApart_split hj hx
    rw [hk, hr, State.ctxOf_splitLanes]
  · obtain ⟨hk, hr⟩ := State.setApart_whole h
    rw [hk, hr, (State.own_stopped s _ _).ctxOf]

section
variable (hm : ((s.group c g).path i).mask ≠ 0)
include hm

theorem State.stopped_holder : Path.Stopped (((s.setApart c g i x).group c g).path (s.holder c g i x)) ((s.group c g).path i)
    (s.heldLanes c g i x) := by
  rcases s.split_or_whole c g i x with ⟨j, hj, hx⟩ | h
  · obtain ⟨hk, hr⟩ := State.setApart_split hj hx
    obtain ⟨-, hp, -⟩ := State.paths_splitLanes (x := x) (Group.has_of_mask hm) hj
    rw [hk, hr, hp, State.heldLanes, State.canSplit_free hj hx]
    exact Path.stopped_splitOff _ x
  · obtain ⟨hk, hr⟩ := State.setApart_whole h
    rw [hk, hr, State.path_stopped, State.heldLanes, State.canSplit_full h]
    exact Path.stopped_parkedAtRun _

theorem State.handles_setApart (hh : s.Handles (.path c g i)) :
    (s.setApart c g i x).Handles (.path c g (s.holder c g i x)) := by
  obtain ⟨hf, hv⟩ := hh
  constructor
  · exact Bool.eq_false_iff.mpr fun h => Bool.eq_false_iff.mp hf ((State.stopped_holder (x := x) hm).frame h)
  · rw [State.ctx_setApart, State.ctxOf_setApart]
    exact hv

end

/-! What the others keep. -/

/-- Lanes `x` of path `i` of `s` stand apart as path `j`, and the rest of it where they stood. -/
structure State.LanesApart (s t : State) (c g i j : Nat) (x : Dword) : Prop where
  mask : ((t.group c g).path i).mask = ((s.group c g).path i).mask &&& ~~~x
  pc : ((t.group c g).path i).th.pc = ((s.group c g).path i).th.pc
  runpc : ((t.group c g).path i).th.runpc = ((s.group c g).path i).th.runpc
  state : ((t.group c g).path i).th.state = ((s.group c g).path i).th.state
  newMask : ((t.group c g).path j).mask = x
  newStkv : ((t.group c g).path j).stkv = false
  newWb : ((t.group c g).path j).wb = ((s.group c g).path i).wb

section
variable (h : (s.setApart c g i x).PathOnly t c g (s.holder c g i x))
include h

theorem State.lanesApart_of_split (hm : ((s.group c g).path i).mask ≠ 0) (hj : (s.group c g).paths.free Config.pathSlots = some j)
    (hx : x ≠ ((s.group c g).path i).mask) : s.LanesApart t c g i j x := by
  obtain ⟨hk, hr⟩ := State.setApart_split hj hx
  obtain ⟨hij, hnew, w, hold⟩ := State.paths_splitLanes (x := x) (Group.has_of_mask hm) hj
  rw [hk, hr] at h
  have hi : (t.group c g).path i = _ := (h.others i hij).trans hold
  have hn : (t.group c g).path j = _ := hnew ▸ h.same
  exact ⟨by rw [hi]; rfl, by rw [hi]; rfl, by rw [hi]; rfl, by rw [hi]; rfl, by rw [hn]; rfl, by rw [hn]; rfl, by rw [hn]; rfl⟩
theorem State.mask_of_whole (hfull : (s.group c g).paths.free Config.pathSlots = none ∨ x = ((s.group c g).path i).mask) :
    ((t.group c g).path i).mask = ((s.group c g).path i).mask := by
  obtain ⟨hk, hr⟩ := State.setApart_whole hfull
  rw [hk, hr] at h
  rw [h.same, State.path_stopped]

end

theorem State.performers_split (hx0 : x ≠ 0) (hj : (s.group c g).paths.free Config.pathSlots = some j)
    (hx : x ≠ ((s.group c g).path i).mask) : s.performers (.path c g i) x = ((s.group c g).path i).mask &&& ~~~x := by
  rw [State.performers, if_neg hx0, State.canSplit_free hj hx]
  rfl
theorem State.performers_whole (hx0 : x ≠ 0)
    (h : (s.group c g).paths.free Config.pathSlots = none ∨ x = ((s.group c g).path i).mask) : s.performers (.path c g i) x = 0 := by
  rw [State.performers, if_neg hx0, State.canSplit_full h]
  rfl

end Sys2Proof.Machine

namespace Sys2Proof.Machine

variable {s t q : State} {c g i j : Nat} {x : Dword} {fs : List (Nat × Flt)}

/-! O29. Lanes of a path that fault: what becomes of them (spec/01 R36, R37, spec/15 R326, R327, R329). -/

/-- The frame of the trap that lanes `y` of path `p` take, the first of them with fault `f`. -/
def Path.laneFrame (p : Path) (f : Flt) (all : Bool) (y held : Dword) : Frame :=
  { active := true, all := all, cause := BitVec.ofNat 8 f.cause, detail := BitVec.ofNat 16 f.detail, fmt := p.th.fmt
    rpc := p.th.runpc, fpc := p.th.pc, addr := f.addr, lanes := y, held := held }

theorem State.Handles.tears {u : UnitId} (h : s.Handles u) : s.tears u = false := by
  obtain ⟨hf, hv⟩ := h
  simpa [State.tears, hf] using hv
theorem State.path_onThread (s : State) (c g i : Nat) (F : Thread → Thread) :
    ((s.onThread (.path c g i) F).group c g).path i = { (s.group c g).path i with th := F ((s.group c g).path i).th } := by
  simp [State.onThread]

/-- The path that holds the lanes takes their trap. -/
theorem State.trapped_holder (hm : ((s.group c g).path i).mask ≠ 0) (hq : (s.setApart c g i x).UnitsKept q) (tp : List (Nat × Flt))
    (f : Flt) (all : Bool) :
    Path.Trapped (((q.entered (s.laneTrap c g i (s.holder c g i x) tp f all)).group c g).path (s.holder c g i x)) (s.heldLanes c g i x)
      (((s.group c g).path i).laneFrame f all (lanesMask tp) (s.heldLanes c g i x)) (s.ctx (s.ctxOf (.path c g i))).trapv := by
  rw [State.path_entered rfl, hq.group, hq.ctxOf, hq.trapv, State.ctxOf_setApart, State.ctx_setApart]
  exact (State.stopped_holder hm).trapped (s.laneTrap c g i (s.holder c g i x) tp f all) _

section
variable (hm : ((s.group c g).path i).mask ≠ 0) (hh : s.Handles (.path c g i)) (hx : lanesMask fs = x)
include hm hh hx

theorem State.faultLanes_entered {l : Nat} {f : Flt} {rest : List (Nat × Flt)} (hfs : fs = (l, f) :: rest)
    (hc : ∀ y ∈ fs, y.2.used = none ∧ 16 ≤ y.2.cause) :
    s.faultLanes c g i fs = (s.setApart c g i x).entered (s.laneTrap c g i (s.holder c g i x) fs f
      (!s.canSplit (.path c g i) x && x != ((s.group c g).path i).mask)) := by
  have hcause : ∀ y ∈ fs, y.2.cause ≠ 0 := fun y hy h => absurd (hc y hy).2 (by omega)
  have htp : fs.filter (fun z => z.2.cause != 0) = (l, f) :: rest := by
    rw [← hfs, List.filter_eq_self]
    exact fun y hy => bne_iff_ne.mpr (hcause y hy)
  have hnp : fs.filter (fun z => decide (z.2.cause = 0)) = [] :=
    List.filter_eq_nil_iff.mpr fun y hy => by simpa using hcause y hy
  have hf : f.cause ≠ 0 := hcause (l, f) (by simp [hfs])
  have hhand := State.handles_setApart (x := x) hm hh
  rw [State.faultLanes_trap (State.metAll_traps s c _ hc) hh.tears htp, hnp, laneRecords_traps _ _ fun y hy => (hc y hy).2,
    State.report_nil, hx, ← hfs]
  exact State.takeTrap_entered hhand.1 hhand.2 hf

/-- Lanes with traps alone take theirs at once, apart from the others or for the whole path. -/
theorem State.faultLanes_traps {l : Nat} {f : Flt} {rest : List (Nat × Flt)} (hfs : fs = (l, f) :: rest)
    (hc : ∀ y ∈ fs, y.2.used = none ∧ 16 ≤ y.2.cause) :
    (s.setApart c g i x).PathOnly (s.faultLanes c g i fs) c g (s.holder c g i x) ∧
      Path.Trapped (((s.faultLanes c g i fs).group c g).path (s.holder c g i x)) (s.heldLanes c g i x)
        (((s.group c g).path i).laneFrame f (!s.canSplit (.path c g i) x && x != ((s.group c g).path i).mask) x (s.heldLanes c g i x))
        (s.ctx (s.ctxOf (.path c g i))).trapv := by
  have h := State.trapped_holder hm (.refl (s.setApart c g i x)) fs f (!s.canSplit (.path c g i) x && x != ((s.group c g).path i).mask)
  rw [hx] at h
  rw [State.faultLanes_entered hm hh hx hfs hc]
  exact ⟨(State.own_entered _ _).pathOnly, h⟩

end

section
variable (hq : s.metAll c (.path c g i) fs = q) (hm : ((q.group c g).path i).mask ≠ 0)
  (hp : (q.ctx (q.ctxOf (.path c g i))).pend = []) (hx : lanesMask fs = x)
include hq hm hp hx

/-- Lanes with NOTPRESENT alone are parked, and their records follow. -/
theorem State.faultLanes_parks {l : Nat} {f : Flt} (hfs : fs.head? = some (l, f)) (hc : ∀ y ∈ fs, y.2.cause = 0) :
    (q.setApart c g i x).PathOnly (s.faultLanes c g i fs) c g (q.holder c g i x) ∧
      Path.ParkedFor (((s.faultLanes c g i fs).group c g).path (q.holder c g i x)) ((q.group c g).path i) x f.addr := by
  have htp : fs.filter (fun z => z.2.cause != 0) = [] :=
    List.filter_eq_nil_iff.mpr fun y hy => by simp [hc y hy]
  have hnp : fs.filter (fun z => decide (z.2.cause = 0)) = fs :=
    List.filter_eq_self.mpr fun y hy => by simp [hc y hy]
  obtain ⟨recs, seqs, ht⟩ := State.faultLanes_park hq htp hnp
  rw [hx, hfs] at ht
  rw [ht]
  generalize hpark : (Park.mk x _ _ seqs) = p
  have hown : (q.setApart c g i x).Own (q.parkLanes c g i x p) (.path c g (q.holder c g i x)) := State.own_onThread _ _ _
  have hk := State.unitsKept_report (nd := c) (c := q.ctxOf (.path c g i)) (out := some (.unit (.path c g (q.holder c g i x)))) recs
    (fun _ _ _ _ h => by cases h) (by rw [State.ctx, hown.ctxs, ← State.ctx, State.ctx_setApart, hp])
  refine ⟨hown.pathOnly.trans hk.pathOnly, ?_⟩
  rw [hk.group, State.parkLanes, State.path_onThread, ← hpark]
  exact (State.stopped_holder hm).parkedFor x f.addr seqs

/-- With traps among them there is one trap for all of them, once the records of the others are written. -/
theorem State.faultLanes_mixed {l : Nat} {f : Flt} {y : Dword} (hh : q.Handles (.path c g i)) (hnp : ∃ z ∈ fs, z.2.cause = 0)
    (htp : (fs.filter fun z => z.2.cause != 0).head? = some (l, f)) (hy : lanesMask (fs.filter fun z => z.2.cause != 0) = y) :
    (q.setApart c g i x).PathOnly (s.faultLanes c g i fs) c g (q.holder c g i x) ∧
      (Path.Trapped (((s.faultLanes c g i fs).group c g).path (q.holder c g i x)) (q.heldLanes c g i x)
          (((q.group c g).path i).laneFrame f true y (q.heldLanes c g i x)) (q.ctx (q.ctxOf (.path c g i))).trapv ∨
        (((s.faultLanes c g i fs).group c g).path (q.holder c g i x)).th.state = .parked) := by
  obtain ⟨rest, htp⟩ := List.head?_eq_some_iff.mp htp
  have hall : (fs.filter fun z => decide (z.2.cause = 0)).isEmpty = false := by
    obtain ⟨z, hz, hc⟩ := hnp
    exact List.isEmpty_eq_false_iff.mpr (List.ne_nil_of_mem (List.mem_filter.mpr ⟨hz, decide_eq_true hc⟩))
  have hf : f.cause ≠ 0 := by
    have hin : (l, f) ∈ fs.filter fun z => z.2.cause != 0 := by simp [htp]
    simpa using (List.mem_filter.mp hin).2
  have ht := State.faultLanes_trap hq hh.tears htp
  rw [hall, hx, ← htp, Bool.not_false, Bool.true_or] at ht
  have hpend : ((q.setApart c g i x).ctx (q.ctxOf (.path c g i))).pend = [] := by rw [State.ctx_setApart, hp]
  have hd := State.delivers_report (nd := c) (laneRecords (q.place (.path c g i)) 0 fs) (d := q.laneTrap c g i (q.holder c g i x)
    (fs.filter fun z => z.2.cause != 0) f true) hf hpend (State.handles_setApart hm hh)
  rw [← ht] at hd
  rcases hd with hk | ⟨r, hk, ht⟩
  · refine ⟨hk.pathOnly, .inr ?_⟩
    rw [hk.group]
    exact (State.stopped_holder hm).state
  · have h := State.trapped_holder hm hk (fs.filter fun z => z.2.cause != 0) f true
    rw [hy] at h
    rw [ht]
    exact ⟨hk.pathOnly.trans (State.own_entered _ _).pathOnly, .inl h⟩

end

end Sys2Proof.Machine

namespace Sys2Proof.Machine

variable {s : State}

/-! O29. A trap of a whole unit that makes no record. -/

/-- The trap that a whole unit takes for a fault with no address. -/
def State.unitTrap (s : State) (u : UnitId) (cause detail : Nat) : Delivery :=
  { dest := u, lanes := s.maskOf u, cause := cause, detail := detail, addr := 0, all := false, rpc := (s.thread u).runpc
    fpc := (s.thread u).pc }

theorem State.faultLanes_unit {c g i cause detail : Nat} (hc : 16 ≤ cause) (hm : s.maskOf (.path c g i) ≠ 0)
    (hh : s.Handles (.path c g i)) : s.faultUnit (.path c g i) (fltD cause detail) =
      (s.stopped (.path c g i) Thread.parkedAtRun).entered (s.unitTrap (.path c g i) cause detail) := by
  have hlanes := lanesMask_lanes (s.maskOf (.path c g i)) (fltD cause detail)
  obtain ⟨l, rest, hl⟩ : ∃ l rest, (s.maskOf (.path c g i)).lanes = l :: rest := by
    refine List.exists_cons_of_ne_nil fun hnil => hm ?_
    rw [hnil] at hlanes
    exact hlanes.symm
  obtain ⟨hk, hr⟩ := State.setApart_whole (s := s) (c := c) (g := g) (i := i) (x := s.maskOf (.path c g i)) (.inr rfl)
  have hall : (!s.canSplit (.path c g i) (s.maskOf (.path c g i)) && s.maskOf (.path c g i) != ((s.group c g).path i).mask) = false :=
    Bool.and_eq_false_iff.mpr (.inr (bne_self_eq_false _))
  rw [State.faultUnit, State.faultLanes_entered hm hh hlanes (by rw [hl]; rfl) (by simp [fltD, hc]), hall, hk, hr, State.laneTrap, hlanes]
  rfl
/-- The thread that stops at its instruction. -/
def Thread.stoppedAtPc (h : Thread) : Thread := { h.restart h.pc with state := .parked, runpc := h.runpc }

theorem State.faultOther_unit {u : UnitId} {cause detail : Nat} (hu : u.isPath = false) (hc : 16 ≤ cause) (hh : s.Handles u) :
    s.faultOther u (fltD cause detail) = (s.stopped u Thread.stoppedAtPc).entered (s.unitTrap u cause detail) := by
  obtain ⟨hf, hv⟩ := hh
  have h0 : (fltD cause detail).cause ≠ 0 := by
    change cause ≠ 0
    omega
  have hmask : s.maskOf u = 0 := by
    rw [State.maskOf, State.pathOf_other s u hu]
    rfl
  have hmet : s.met u.node (s.ctxOf u) (fltD cause detail) = s := State.met_trap s _ _ rfl hc
  have hrec : laneRecords (s.place u) (srcCode u) [(0, fltD cause detail)] = [] :=
    laneRecords_traps _ _ fun y hy => by rw [List.mem_singleton.mp hy]; exact hc
  have htaken := State.takeTrap_entered (s := s.stopped u Thread.stoppedAtPc) (d := s.unitTrap u cause detail)
    (by rw [State.unitTrap, State.thread_stopped]; exact hf) (by rw [State.unitTrap, State.trapv_stopped]; exact hv) h0
  rw [← htaken, State.unitTrap, hmask]
  unfold State.faultOther
  dsimp only
  rw [hmet, if_neg h0, hrec]
  rfl

theorem State.faultUnit_entered {u : UnitId} {cause detail : Nat} (hc : 16 ≤ cause) (hm : u.isPath = true → s.maskOf u ≠ 0)
    (hh : s.Handles u) : ∃ F : Thread → Thread, (∀ h, (F h).fmt = h.fmt) ∧
      s.faultUnit u (fltD cause detail) = (s.stopped u F).entered (s.unitTrap u cause detail) := by
  cases u with
  | path c g i => exact ⟨Thread.parkedAtRun, fun _ => rfl, State.faultLanes_unit hc (hm rfl) hh⟩
  | seq c k => exact ⟨Thread.stoppedAtPc, fun _ => rfl, State.faultOther_unit rfl hc hh⟩
  | lant l p => exact ⟨Thread.stoppedAtPc, fun _ => rfl, State.faultOther_unit rfl hc hh⟩

end Sys2Proof.Machine

namespace Sys2Proof.Machine

/-! O29 assembled. -/

theorem ne_zero_of_getLsbD {x : Dword} {l : Nat} (h : x.getLsbD l = true) : x ≠ 0 := by
  rintro rfl
  simp at h
/-- A mask that covers a lane has one. -/
theorem ne_zero_of_covers {x m : Dword} (h : x &&& ~~~m = 0) (hx : x ≠ 0) : m ≠ 0 := by
  rintro rfl
  exact hx (by rwa [show ~~~(0 : Dword) = BitVec.allOnes 64 from rfl, BitVec.and_allOnes] at h)
theorem toNat_bne_zero {n : Nat} (b : BitVec n) : (b.toNat != 0) = (b != 0#n) := by
  rw [Bool.eq_iff_iff, bne_iff_ne, bne_iff_ne, ne_eq, ne_eq, BitVec.toNat_eq, BitVec.toNat_ofNat, Nat.zero_mod]
theorem bne_eq_decide_ne (x y : Dword) : (x != y) = decide (x ≠ y) := by
  by_cases h : x = y <;> simp [h]

section
variable {s q t : State} {c g i : Nat} {x : Dword}

/-- Of the path that holds lanes `x` of path `i` after their fault, given its lanes and whether it is their own, `Q` is true: of a free
entry `j`, which they then have apart from the others, or of the whole path, which then performs nothing. -/
def State.LanesSettled (s t : State) (c g i : Nat) (x : Dword) (Q : Nat → Dword → Bool → Prop) : Prop :=
  (∀ j, (s.group c g).paths.free 32 = some j ∧ x ≠ ((s.group c g).path i).mask →
    (s.LanesApart t c g i j x ∧ s.performers (.path c g i) x = ((s.group c g).path i).mask &&& ~~~x) ∧ Q j x true) ∧
  ((s.group c g).paths.free 32 = none ∨ x = ((s.group c g).path i).mask →
    (((t.group c g).path i).mask = ((s.group c g).path i).mask ∧ s.performers (.path c g i) x = 0) ∧
      Q i ((s.group c g).path i).mask false)

theorem State.lanesSettled_of_holder {Q : Nat → Dword → Bool → Prop} (hg : q.group c g = s.group c g)
    (hm : ((s.group c g).path i).mask ≠ 0) (hx0 : x ≠ 0) (h : (q.setApart c g i x).PathOnly t c g (q.holder c g i x))
    (hQ : Q (q.holder c g i x) (q.heldLanes c g i x) (q.canSplit (.path c g i) x)) : s.LanesSettled t c g i x Q := by
  constructor
  · rintro j ⟨hj, hx⟩
    have hperf := State.performers_split hx0 hj hx
    rw [← hg] at hj hx hm
    have hsplit := State.lanesApart_of_split h hm hj hx
    rw [(State.setApart_split hj hx).1, State.heldLanes, State.canSplit_free hj hx] at hQ
    exact ⟨⟨⟨hg ▸ hsplit.mask, hg ▸ hsplit.pc, hg ▸ hsplit.runpc, hg ▸ hsplit.state, hsplit.newMask, hsplit.newStkv, hg ▸ hsplit.newWb⟩,
      hperf⟩, hQ⟩
  · intro hfull
    have hperf := State.performers_whole (i := i) hx0 hfull
    rw [← hg] at hfull
    rw [(State.setApart_whole hfull).1, State.heldLanes, State.canSplit_full hfull] at hQ
    exact ⟨⟨hg ▸ State.mask_of_whole h hfull, hperf⟩, hg ▸ hQ⟩

end

theorem State.ctx_metAll (s : State) (c : Nat) (u : UnitId) (fs : List (Nat × Flt)) :
    (s.metAll c u fs).ctx ((s.metAll c u fs).ctxOf u) = s.ctx (s.ctxOf u) := by
  have hmem := State.memoryOnly_metAll s c u fs
  rw [hmem.ctxOf, State.ctx, hmem.ctxs]
  rfl
theorem State.handles_metAll {s : State} {u : UnitId} (h : s.Handles u) (c : Nat) (fs : List (Nat × Flt)) : (s.metAll c u fs).Handles u := by
  obtain ⟨hf, hv⟩ := h
  exact ⟨by rw [(State.memoryOnly_metAll s c u fs).thread]; exact hf, by rw [State.ctx_metAll]; exact hv⟩

section
variable {s : State} {c g i : Nat} {x : Dword} {fs : List (Nat × Flt)} {l0 : Nat} {f0 : Flt}
  (hm : ((s.group c g).path i).mask ≠ 0) (hx0 : x ≠ 0) (hmask : lanesMask fs = x) (hhead : fs.head? = some (l0, f0))
  (hh : s.Handles (.path c g i)) (hpend : (s.ctx (s.ctxOf (.path c g i))).pend = [])
include hm hx0 hmask

include hhead hh in
theorem State.lanesSettled_traps (hc : ∀ y ∈ fs, y.2.used = none ∧ 16 ≤ y.2.cause) :
    s.LanesSettled (s.faultLanes c g i fs) c g i x fun j held can =>
      Path.Trapped (((s.faultLanes c g i fs).group c g).path j) held
        (((s.group c g).path i).laneFrame f0 (!can && x != ((s.group c g).path i).mask) x held) (s.ctx (s.ctxOf (.path c g i))).trapv := by
  obtain ⟨rest, hcons⟩ := List.head?_eq_some_iff.mp hhead
  obtain ⟨hpath, htrap⟩ := State.faultLanes_traps hm hh hmask hcons hc
  exact State.lanesSettled_of_holder rfl hm hx0 hpath htrap

include hhead hpend in
theorem State.lanesSettled_parks (hc : ∀ y ∈ fs, y.2.cause = 0) :
    s.LanesSettled (s.faultLanes c g i fs) c g i x fun j _ _ =>
      Path.ParkedFor (((s.faultLanes c g i fs).group c g).path j) ((s.group c g).path i) x f0.addr := by
  have hg := (State.memoryOnly_metAll s c (.path c g i) fs).group c g
  obtain ⟨hpath, hpark⟩ := State.faultLanes_parks rfl (by rw [hg]; exact hm) (by rw [State.ctx_metAll]; exact hpend) hmask hhead hc
  rw [hg] at hpark
  exact State.lanesSettled_of_holder hg hm hx0 hpath hpark

include hh hpend in
theorem State.lanesSettled_mixed {l1 : Nat} {f1 : Flt} {y : Dword} (hnp : ∃ z ∈ fs, z.2.cause = 0)
    (htp : (fs.filter fun z => z.2.cause != 0).head? = some (l1, f1)) (hy : lanesMask (fs.filter fun z => z.2.cause != 0) = y) :
    s.LanesSettled (s.faultLanes c g i fs) c g i x fun j held _ =>
      Path.Trapped (((s.faultLanes c g i fs).group c g).path j) held (((s.group c g).path i).laneFrame f1 true y held)
          (s.ctx (s.ctxOf (.path c g i))).trapv ∨
        (((s.faultLanes c g i fs).group c g).path j).th.state = .parked := by
  have hg := (State.memoryOnly_metAll s c (.path c g i) fs).group c g
  obtain ⟨hpath, howed⟩ := State.faultLanes_mixed rfl (by rw [hg]; exact hm) (by rw [State.ctx_metAll]; exact hpend) hmask
    (State.handles_metAll hh c fs) hnp htp hy
  rw [hg, State.ctx_metAll] at howed
  exact State.lanesSettled_of_holder hg hm hx0 hpath howed

end

/-- Settles O29: the tables case by case, the checks from `preCheck` by the first that fails, a unit's trap from what stopping and entering
the handler leave, and the lanes' from `faultLanes`, by where the path that holds them stands. -/
theorem checksAndFaults : Obligations.ChecksAndFaults := by
  unfold Obligations.ChecksAndFaults
  refine ⟨fun i hw => ?run, fun i hw c g p => ?units, fun i hw => ?first, fun i hw => ?ext, fun i hw => ?opnds, typeW_eq,
    ?rules, ?checks, ?whole, ?lanes⟩
  case run => exact ⟨i.len_eq, by cases i <;> rfl⟩
  case units =>
    intro lform windows engine
    have hl : lform = decide (i.units = .lform) := decide_eq_decide.mpr (lform_iff hw)
    clear_value lform
    subst hl
    cases i
    case call f x =>
      refine ⟨rfl, ?_, ?_⟩
      · change (f.b.toNat != 0) = (false || f.b != 0#7 || false)
        rw [toNat_bne_zero, Bool.false_or, Bool.or_false]
      · change (f.b.toNat != 0) = (false || f.b != 0#7 || false || false)
        rw [toNat_bne_zero, Bool.false_or, Bool.or_false, Bool.or_false]
    all_goals cases hw
    all_goals exact ⟨rfl, rfl, rfl⟩
  case first => cases i <;> rfl
  case ext =>
    intro order mem atomic pair guard
    have hpair : pair = aopOk := funext fun ty => funext fun aop => (aopOk_eq ty aop).symm
    clear_value pair
    subst hpair
    cases i <;> rfl
  case opnds => cases i <;> rfl
  case rules =>
    intro i b k c d n w src even uni lat ulat
    have hsrc : srcLOk c w = src := srcLOk_eq c w
    have heven : (!(w == 64 && d.toNat % 2 == 1)) = even := even_eq d w
    have huni : srcGOk n = uni := srcGOk_eq n
    have hlat : (Opnd.srcL c w).latch = lat := latchL_eq c w
    clear_value src even uni lat
    subst hsrc heven huni hlat
    refine ⟨rfl, rfl, rfl, rfl, rfl, rfl, rfl, regGOk_eq n, congrArg (k || ·) (regGOk_eq n), rfl, rfl, rfl, ?_, rfl, ?_, rfl, rfl, rfl,
      rfl, rfl, rfl⟩
    · cases b <;> simp [Opnd.latch]
    · cases b <;> simp [Opnd.latch, ulat]
  case checks =>
    intro s u i hw ht cut bad latches
    exact ⟨fun hu => exec_fails hw ht (State.preCheck_unit hu), fun hu hf => exec_fails hw ht (State.preCheck_modifier hu hf),
      fun hu hf ho => exec_fails hw ht (State.preCheck_operand hu hf ho),
      fun p hu hf hc he ho hp => exec_fails hw ht (State.preCheck_latch hu hf hc he ho hp)⟩
  case whole =>
    intro s u cause detail hc hm hv hf t
    obtain ⟨F, hF, ht⟩ := State.faultUnit_entered (detail := detail) hc hm ⟨hf, hv⟩
    rw [show t = _ from ht]
    exact ⟨State.own_entered_stopped rfl, State.trapSees_entered_stopped rfl rfl hF, State.sget_entered_stopped rfl,
      fun l r _ => State.vget_entered_stopped rfl l r⟩
  case lanes =>
    intro s c g i l0 f0 fs x u p vec free t frame rest trapped parked split apart whole hhead hfs hx hsub hv hf hpend
    have hin : (l0, f0) ∈ fs := List.mem_of_mem_head? hhead
    have hl0 : x.getLsbD l0 = true := (hx l0 (hfs _ hin).1).mpr ⟨f0, hin⟩
    have hx0 : x ≠ 0 := ne_zero_of_getLsbD hl0
    have hm : p.mask ≠ 0 := ne_zero_of_covers hsub hx0
    have hmask : lanesMask fs = x := lanesMask_eq hx
    have hapart (j : Nat) (h : s.LanesApart t c g i j x ∧ s.performers u x = p.mask &&& ~~~x) : apart j :=
      ⟨⟨h.1.mask, h.1.pc, h.1.runpc, h.1.state, h.2⟩, h.1.newMask, h.1.newStkv, h.1.newWb⟩
    have htrapped (j : Nat) (m : Dword) (fr : Frame) (h : Path.Trapped ((t.group c g).path j) m fr vec) : trapped j fr := by
      obtain ⟨-, hframe, hpc, hrunpc, hstate, hfmt, hrun, -⟩ := h
      exact ⟨hframe, hpc, hrunpc, hstate, hfmt, hrun⟩
    refine ⟨fun hc => ?traps, fun hc => ?parks, fun l1 f1 y hc hnp htp hy => ?mixed⟩
    case traps =>
      obtain ⟨hsplit, hwhole⟩ := State.lanesSettled_traps hm hx0 hmask hhead ⟨hf, hv⟩ fun y hy => ⟨(hfs y hy).2, hc y hy⟩
      refine ⟨fun j hj => ?_, fun hfull => ?_⟩
      · obtain ⟨ha, ht⟩ := hsplit j hj
        exact ⟨hapart j ha, htrapped j _ _ ht⟩
      · obtain ⟨ha, ht⟩ := hwhole hfull
        rw [Bool.not_false, Bool.true_and, bne_eq_decide_ne] at ht
        exact ⟨ha, htrapped i _ _ ht⟩
    case parks =>
      obtain ⟨hsplit, hwhole⟩ := State.lanesSettled_parks hm hx0 hmask hhead hpend hc
      exact ⟨fun j hj => (hsplit j hj).imp_left (hapart j), hwhole⟩
    case mixed =>
      have htmask : lanesMask (fs.filter fun z => z.2.cause != 0) = y := by
        refine lanesMask_eq fun l hl => ?_
        rw [hy l hl]
        simp
      obtain ⟨hsplit, hwhole⟩ := State.lanesSettled_mixed hm hx0 hmask ⟨hf, hv⟩ hpend hnp htp htmask
      exact ⟨fun j hj => (hsplit j hj).imp (hapart j) (Or.imp_left (htrapped j _ _)),
        fun hfull => (hwhole hfull).imp_right (Or.imp_left (htrapped i _ _))⟩

end Sys2Proof.Machine

namespace Sys2Proof.Machine

variable {s t : State}

/-! BRD whose mask does not divide the path: it goes one way, with no new path (spec/05 R124, spec/08 R193). -/

/-- The group in which path `i` goes on at `pc` with all its lanes. -/
def Group.goesOn (k : Group) (i : Nat) (pc : Dword) : Group :=
  { k with paths := k.paths.put i ((k.path i).goOn (k.path i).mask pc) }

theorem Group.brd_taken {k : Group} {i : Nat} {m target fall : Dword} (hn : (k.path i).mask &&& ~~~m = 0) :
    k.brd i m target fall = some (k.goesOn i target) := if_pos hn
theorem Group.brd_falls {k : Group} {i : Nat} {m target fall : Dword} (hn : (k.path i).mask &&& ~~~m ≠ 0)
    (ht : (k.path i).mask &&& m = 0) : k.brd i m target fall = some (k.goesOn i fall) :=
  (if_neg hn).trans (if_pos ht)

/-- Where BRD makes of the group, before the run commits and after, one in which the path goes on at `pc`, it is a jump there. -/
theorem exec_brd_oneWay {c g i : Nat} {f : GC} {pc : Dword} (h : s.Issues (.path c g i) (.brd f))
    (hbrd : ∀ k : Group, k.path i = (s.group c g).path i →
      k.brd i (s.srcG (.path c g i) f.c.toNat) (branchTarget (s.thread (.path c g i)).pc f.disp) ((s.thread (.path c g i)).pc + 4) =
        some (k.goesOn i pc)) :
    ∃ t, exec (.brd f) s = .next t ∧ s.JumpDone t (.path c g i) pc := by
  refine ⟨s.regroup c g i (((s.group c g).committed i).goesOn i pc), ?_, State.jumpDone_regroup rfl⟩
  rw [exec_brd, execBrd, h.next]
  simp only [State.pcOf, hbrd (s.group c g) rfl]
  rw [State.onGroup_settled, hbrd ((s.group c g).committed i) rfl]
  rfl

/-- Settles O20: each branch is a jump to its target, whose law says what a jump leaves. -/
theorem branches : Obligations.Branches := by
  unfold Obligations.Branches
  intro s u
  refine ⟨fun f h => ⟨_, (exec_br s f).trans (h.next _), ?br⟩, fun f h => ⟨_, (exec_brc s f).trans (h.next _), ?brc⟩,
    fun f h => ⟨_, (exec_brx s f).trans (h.next _), ?brx⟩, fun f h hu => ?brd⟩
  case br =>
    rw [← branchTarget_eq]
    exact State.jumpDone s u _
  case brc =>
    have htarget : (if s.srcG u f.c.toNat != 0 then branchTarget (s.pcOf u) f.disp else s.pcOf u + 4) =
        (s.thread u).pc + if s.srcG u f.c.toNat = 0 then 4 else BitVec.ofInt 64 (4 * f.disp.toInt) := by
      by_cases h0 : s.srcG u f.c.toNat = 0
      · rw [if_neg (by simp [h0]), if_pos h0]
        rfl
      · rw [if_pos (by simpa using h0), if_neg h0, branchTarget_eq]
        rfl
    rw [← htarget]
    exact State.jumpDone s u _
  case brx =>
    rw [← codeAddr_eq]
    exact State.jumpDone s u _
  case brd =>
    cases u with
    | seq c k => cases hu
    | lant l p => cases hu
    | path c g i =>
      refine ⟨fun hn => ?_, fun hn ht => ?_⟩
      · rw [← branchTarget_eq]
        exact exec_brd_oneWay h fun k hk => Group.brd_taken (by rw [hk]; exact hn)
      · exact exec_brd_oneWay h fun k hk => Group.brd_falls (by rw [hk]; exact hn) (by rw [hk]; exact ht)

end Sys2Proof.Machine

namespace Sys2Proof.Machine

variable {s t : State}

/-! The values of the uniform operations (spec/08 R187 to R191). -/

theorem shiftLeft_beyond (x : Dword) (n : Nat) : (if 64 ≤ n then 0 else x <<< n) = x <<< n := by
  split
  · next h => exact (BitVec.shiftLeft_eq_zero h).symm
  · rfl
theorem ushiftRight_beyond (x : Dword) (n : Nat) : (if 64 ≤ n then 0 else x >>> n) = x >>> n := by
  split
  · next h => exact (BitVec.ushiftRight_eq_zero h).symm
  · rfl
theorem sar64_eq (x y : Dword) : sar64 x y = x.sshiftRight y.toNat := by
  rw [sar64]
  rcases Nat.le_total y.toNat 64 with h | h
  · rw [Nat.min_eq_left h]
  · rw [Nat.min_eq_right h]
    ext i hi
    rw [BitVec.getElem_sshiftRight, BitVec.getElem_sshiftRight, dif_neg (by omega), dif_neg (by omega)]
theorem smin64_eq (x y : Dword) : smin64 x y = BitVec.ofInt 64 (min x.toInt y.toInt) := by
  rw [smin64, BitVec.sle_eq_decide]
  by_cases h : x.toInt ≤ y.toInt
  · rw [min_eq_left h, BitVec.ofInt_toInt, if_pos (decide_eq_true h)]
  · rw [min_eq_right (Int.le_of_not_le h), BitVec.ofInt_toInt, if_neg (by simpa using h)]
theorem smax64_eq (x y : Dword) : smax64 x y = BitVec.ofInt 64 (max x.toInt y.toInt) := by
  rw [smax64, BitVec.sle_eq_decide]
  by_cases h : x.toInt ≤ y.toInt
  · rw [max_eq_right h, BitVec.ofInt_toInt, if_pos (decide_eq_true h)]
  · rw [max_eq_left (Int.le_of_not_le h), BitVec.ofInt_toInt, if_neg (by simpa using h)]
theorem popNat_eq_countP (n v : Nat) : popNat n v = (List.range n).countP fun b => v.testBit b := by
  induction n generalizing v with
  | zero => rfl
  | succ n ih =>
    have hlow : v % 2 = if v.testBit 0 = true then 1 else 0 := by
      rcases Nat.mod_two_eq_zero_or_one v with h | h <;> simp [h]
    have hhigh : (List.range n).countP ((fun b => v.testBit b) ∘ Nat.succ) = (List.range n).countP fun b => (v / 2).testBit b :=
      List.countP_congr fun b _ => by rw [Function.comp_apply, Nat.testBit_succ]
    rw [popNat, ih, hlow, List.range_succ_eq_map, List.countP_cons, List.countP_map, hhigh, Nat.add_comm]
theorem ffsNat_eq_findIdx (n v : Nat) : ffsNat n v = (List.range n).findIdx fun b => v.testBit b := by
  rw [ffsNat]
  cases h : (List.range n).find? fun b => v.testBit b with
  | none =>
    rw [List.findIdx_eq_length.mpr fun b hb => by simpa using List.find?_eq_none.mp h b hb, List.length_range]
    rfl
  | some k =>
    obtain ⟨hk, hmem, hbefore⟩ := List.find?_range_eq_some.mp h
    have hlt : k < (List.range n).length := by simpa using hmem
    refine ((List.findIdx_eq hlt).mpr ⟨by simpa using hk, fun j hj => ?_⟩).symm
    simpa using hbefore j hj
theorem select64_eq (m x y : Dword) : select64 m x y = m &&& x ||| ~~~m &&& y := by
  rw [select64, BitVec.and_comm x, BitVec.and_comm y]
theorem literal_over (l : Word) (x : Dword) : (l ++ x.setWidth 32 : BitVec 64) = BitVec.ofNat 64 (l.toNat * 2 ^ 32 + x.toNat % 2 ^ 32) := by
  have hlow : (x.setWidth 32).toNat < 2 ^ 32 := (x.setWidth 32).isLt
  rw [← BitVec.toNat_setWidth 32 x]
  apply BitVec.eq_of_toNat_eq
  rw [BitVec.toNat_append, ← Nat.shiftLeft_add_eq_or_of_lt hlow, Nat.shiftLeft_eq, BitVec.toNat_ofNat,
    Nat.mod_eq_of_lt (by have := l.isLt; omega)]
theorem low_five (v : Dword) : (v.setWidth 32 &&& 31 : Word) = BitVec.ofNat 32 (v.toNat % 32) := by
  apply BitVec.eq_of_toNat_eq
  have h31 : (31 : Word).toNat = 2 ^ 5 - 1 := rfl
  rw [BitVec.toNat_and, h31, Nat.and_two_pow_sub_one_eq_mod, BitVec.toNat_setWidth, BitVec.toNat_ofNat]
  omega

/-! Which fields a uniform operation shuts out (spec/08 R186, R187, R190, R191). -/

theorem nop_firstOk (f : GA) : (Instr.nop f).firstOk = !(f.k || f.d != 0 || f.a != 0 || f.b != 0) := by
  have hbool : ∀ k d a b : Bool, (d && a && b && !k) = !(k || !d || !a || !b) := by decide
  exact hbool f.k (f.d == 0) (f.a == 0) (f.b == 0)
/-- The modifiers of GCMP that are reserved. -/
theorem gcmp_extOk {f : GA} {q : GcmpX} (h : (q.u = true ∧ q.cc.toNat ∈ [0, 1, 6, 7]) ∨ (q.bi = false ∧ q.imm ≠ 0) ∨
    (q.bi = true ∧ f.b ≠ 0) ∨ q.res ≠ 0) : (Instr.gcmp f q).extOk = false := by
  have hext : (Instr.gcmp f q).extOk = (q.res == 0 && (q.bi || q.imm == 0) && (!q.bi || f.b == 0) &&
      (!q.u || (q.cc != 0 && q.cc != 1 && q.cc != 6 && q.cc != 7))) := rfl
  rw [hext]
  rcases h with ⟨hu, hcc⟩ | ⟨hbi, himm⟩ | ⟨hbi, hb⟩ | hres
  · have hnat : q.cc = 0 ∨ q.cc = 1 ∨ q.cc = 6 ∨ q.cc = 7 := by simpa [← BitVec.toNat_inj] using hcc
    rcases hnat with h | h | h | h <;> simp [hu, h]
  · rw [hbi, beq_eq_false_iff_ne.mpr himm]
    simp
  · rw [hbi, beq_eq_false_iff_ne.mpr hb]
    simp
  · rw [beq_eq_false_iff_ne.mpr hres]
    simp

/-- A uniform operation with one result that has passed its checks (spec/08 R183). -/
theorem scalar_done {u : UnitId} {i : Instr} (h : s.Issues u i) {d : Nat} {k : Bool} {g : State → UnitId → Dword} {v : Dword}
    (hexec : exec i s = scalarOp i d k g s) (hv : g s u = v) : ∃ t, exec i s = .next t ∧ s.ScalarDone t u i d k v := by
  rw [hexec, ← hv]
  exact scalarOp_done h d k g

theorem scalar2_done {u : UnitId} {i : Instr} (h : s.Issues u i) {f : GA} {op : Dword → Dword → Dword} {v : Dword}
    (hexec : exec i s = scalar2 i f op s) (hv : op (s.srcG u f.a.toNat) (s.sget u f.b.toNat) = v) :
    ∃ t, exec i s = .next t ∧ s.ScalarDone t u i f.d.toNat f.k v :=
  scalar_done h hexec hv
theorem scalar1_done {u : UnitId} {i : Instr} (h : s.Issues u i) {f : GA} {op : Dword → Dword} {v : Dword}
    (hexec : exec i s = scalar1 i f op s) (hv : op (s.srcG u f.a.toNat) = v) :
    ∃ t, exec i s = .next t ∧ s.ScalarDone t u i f.d.toNat f.k v :=
  scalar_done h hexec hv

/-- An operation whose first word has a field that must be 0 and is not raises reserved-modifier, whatever unit issues it. -/
theorem exec_reserved {u : UnitId} {i : Instr} (hw : hasWord i = true) (hall : i.units = .all) (ht : s.turn = some u)
    (hbad : i.firstOk = false) : exec i s = .next (s.faultUnit u (fltD 0x22 0)) :=
  exec_fails hw ht (State.preCheck_modifier (by simp [Instr.wrongUnit, hall]) (.inl hbad))

/-- Settles O19: what each operation gives is the value of its rule, and a field that is shut out fails the checks of issue. -/
theorem scalarResults : Obligations.ScalarResults := by
  unfold Obligations.ScalarResults
  intro s u f x y
  refine ⟨fun i v hmem => ?results, fun g h => scalar_done h (exec_gaddi s g) rfl,
    fun l => ⟨fun h => scalar_done h (exec_gli s f l) rfl, fun h => scalar_done h (exec_glih s f l) (literal_over _ _)⟩,
    fun h => ⟨fun hk => ?select, fun hk => ?selectK⟩, fun q h => ?compare, fun h => ⟨_, (exec_nop s f).trans (h.next _), State.plainDoneG s u _⟩,
    ⟨rfl, rfl, rfl⟩, fun h => ?setfmt, fun i bad hmem ht hbad => ?fields, fun l ht => ⟨fun hbad => ?literal, fun hbad => ?literalHigh⟩,
    fun q ht hcut hbad => ?reserved⟩
  case results =>
    have hall : ∀ p ∈ ([(.gadd f, x + y), (.gsub f, x - y), (.gmul f, x * y), (.gand f, x &&& y),
        (.gor f, x ||| y), (.gxor f, x ^^^ y), (.gshl f, x <<< y.toNat), (.gshr f, x >>> y.toNat),
        (.gsar f, x.sshiftRight y.toNat), (.gmin f, BitVec.ofInt 64 (min x.toInt y.toInt)),
        (.gmax f, BitVec.ofInt 64 (max x.toInt y.toInt)),
        (.mpop f, BitVec.ofNat 64 ((List.range 64).countP fun b => x.getLsbD b)),
        (.mffs f, BitVec.ofNat 64 ((List.range 64).findIdx fun b => x.getLsbD b)),
        (.getfmt f, (s.thread u).fmt.setWidth 64)] : List (Instr × Dword)),
        s.Issues u p.1 → ∃ t, exec p.1 s = .next t ∧ s.ScalarDone t u p.1 f.d.toNat f.k p.2 := by
      simp only [List.forall_mem_cons]
      exact ⟨fun h => scalar2_done h (exec_gadd s f) rfl, fun h => scalar2_done h (exec_gsub s f) rfl,
        fun h => scalar2_done h (exec_gmul s f) rfl, fun h => scalar2_done h (exec_gand s f) rfl,
        fun h => scalar2_done h (exec_gor s f) rfl, fun h => scalar2_done h (exec_gxor s f) rfl,
        fun h => scalar2_done h (exec_gshl s f) (shiftLeft_beyond x y.toNat), fun h => scalar2_done h (exec_gshr s f) (ushiftRight_beyond x y.toNat),
        fun h => scalar2_done h (exec_gsar s f) (sar64_eq x y), fun h => scalar2_done h (exec_gmin s f) (smin64_eq x y),
        fun h => scalar2_done h (exec_gmax s f) (smax64_eq x y),
        fun h => scalar1_done h (exec_mpop s f) (congrArg (BitVec.ofNat 64) (popNat_eq_countP 64 x.toNat)),
        fun h => scalar1_done h (exec_mffs s f) (congrArg (BitVec.ofNat 64) (ffsNat_eq_findIdx 64 x.toNat)),
        fun h => scalar_done h (exec_getfmt s f) rfl, nofun⟩
    exact hall (i, v) hmem
  case select =>
    refine ⟨_, (exec_gsel s f).trans ((h.next _).trans (congrArg _ (if_neg (by simp [hk])))), ?_⟩
    rw [select64_eq]
    exact State.scalarDone s u _ _ _ _
  case selectK => exact (exec_gsel s f).trans ((h.next _).trans (congrArg _ (if_pos hk)))
  case compare => exact scalar_done h (exec_gcmp s f q) rfl
  case setfmt =>
    refine ⟨_, (exec_setfmt s f).trans (h.next _), ?_⟩
    rw [low_five]
    exact State.plainDoneG _ u _
  case fields =>
    have hall : ∀ p ∈ ([(.nop f, f.k || f.d != 0 || f.a != 0 || f.b != 0), (.mpop f, f.b != 0), (.mffs f, f.b != 0)] : List (Instr × Bool)),
        p.2 = true → exec p.1 s = .next (s.faultUnit u (fltD 0x22 0)) := by
      simp only [List.forall_mem_cons]
      refine ⟨fun h => exec_reserved rfl rfl ht ?_, fun h => exec_reserved rfl rfl ht ?_, fun h => exec_reserved rfl rfl ht ?_, nofun⟩
      · rw [nop_firstOk, h]
        rfl
      · exact beq_eq_false_iff_ne.mpr (bne_iff_ne.mp h)
      · exact beq_eq_false_iff_ne.mpr (bne_iff_ne.mp h)
    exact hall (i, bad) hmem hbad
  case literal =>
    refine exec_reserved rfl rfl ht (Bool.and_eq_false_iff.mpr ?_)
    exact hbad.imp beq_eq_false_iff_ne.mpr beq_eq_false_iff_ne.mpr
  case literalHigh => exact exec_reserved rfl rfl ht (beq_eq_false_iff_ne.mpr hbad)
  case reserved =>
    exact exec_fails rfl ht (State.preCheck_modifier rfl (.inr ⟨fun hc => hcut hc.2, gcmp_extOk hbad⟩))

end Sys2Proof.Machine

namespace Sys2Proof.Machine

variable {s t : State}

/-! What a unit sees of itself once it has dropped out of its family's waits (spec/09 R221). -/

theorem State.srcG_congr {u : UnitId} (hth : t.thread u = s.thread u) (hregs : t.sregs u = s.sregs u) (code : Nat) :
    t.srcG u code = s.srcG u code := by
  simp only [State.srcG, State.sget, hth, hregs]

section
variable (s : State) (u : UnitId) (a : Option Dword)

theorem State.thread_dropOut_self : (s.dropOut u a).thread u = s.thread u := by
  cases u with
  | path c g i => exact State.thread_dropOut s c g i a
  | seq c k => rfl
  | lant l p => rfl
theorem State.sregs_dropOut_self : (s.dropOut u a).sregs u = s.sregs u := by
  cases u with
  | path c g i =>
    rw [State.sregs, State.group_dropOut]
    rfl
  | seq c k => rfl
  | lant l p => rfl
theorem State.srcG_dropOut_self (code : Nat) : (s.dropOut u a).srcG u code = s.srcG u code :=
  State.srcG_congr (State.thread_dropOut_self s u a) (State.sregs_dropOut_self s u a) code
theorem State.mask_dropOut_self : (s.dropOut u a).maskOf u = s.maskOf u := by
  cases u with
  | path c g i =>
    simp only [State.maskOf, State.pathOf]
    rw [State.group_dropOut, Group.path_dropOut_self]
  | seq c k => rfl
  | lant l p => rfl
theorem State.team_dropOut (c k : Nat) : (s.dropOut u a).team c k = s.team c k := by
  cases u with
  | path c' g i => exact State.team_onGroup s c' g c k _
  | seq c' k' => rfl
  | lant l p => rfl
theorem State.teamSlot_dropOut_self : (s.dropOut u a).teamSlot u = s.teamSlot u := by
  cases u with
  | path c g i =>
    rw [State.teamSlot, State.group_dropOut]
    rfl
  | seq c k => rfl
  | lant l p => rfl
theorem State.teamOf_dropOut_self : (s.dropOut u a).teamOf u = s.teamOf u := by
  rw [State.teamOf, State.teamSlot_dropOut_self, State.team_dropOut]
  rfl

end

/-- A release at team or core scope brings nothing home (spec/03 R92). -/
theorem State.release_narrow (s : State) (u : UnitId) {scope : Nat} (h : scope < 3) : s.release u scope = s := if_pos h
/-- An acquire at team scope invalidates no line (spec/02 R59). -/
theorem State.acquire_team (s : State) (n : Nat) : s.acquire n 1 = s := rfl

/-! A unit that comes to QPUT or QGET (spec/08 R199, spec/05 R119). -/

/-- Whether it issues the instruction or its wait ends, it performs the same. -/
theorem State.ComesTo.queue {u : UnitId} {i : Instr} {a : Answer} (h : s.ComesTo u i (.queueWaitEnd u) a)
    {k : UnitId → State → State} (hexec : exec i s = issue i s k) (hbody : queueBody i = some k) : a = .next (k u s) := by
  rcases h with ⟨hissue, rfl⟩ | ⟨halive, hwait, -, rfl⟩
  · rw [hexec, hissue.next]
  · rw [exec_queueWaitEnd, execQueueWaitEnd, State.wake, halive, hwait]
    simp only [hbody]
    rfl

section
variable {u : UnitId} {f : GA} {l : List Dword} (hl : (s.teamOf u).queues.get f.b.toNat [] = l)
include hl

theorem State.queue_dropOut : ((s.dropOut u none).teamOf u).queue f.b.toNat = l := by
  rw [State.teamOf_dropOut_self]
  exact hl
theorem State.qput_room (h : l.length < 16) : s.qput f u =
    ((s.dropOut u none).onTeamOf u fun k => { k with queues := k.queues.put f.b.toNat (l ++ [s.srcG u f.a.toNat]) }).doneG u (.qput f) := by
  have hq := State.queue_dropOut hl
  rw [State.qput]
  simp only [hq, if_neg (Nat.not_le.mpr h), State.release_narrow _ u (show 1 < 3 by decide), State.srcG_dropOut_self]
  refine congrArg (fun z => State.doneG z u (.qput f)) (State.onTeam_congr ?_)
  rw [show (State.team _ _ _).queue _ = l from hq]
theorem State.qput_full (h : 16 ≤ l.length) : s.qput f u = (s.dropOut u none).waitIn u { instr := .qput f, lo := 0 } := by
  rw [State.qput]
  simp only [State.queue_dropOut hl, if_pos h]
theorem State.qget_oldest {v : Dword} {r : List Dword} (h : l = v :: r) : s.qget f u =
    ((s.dropOut u none).onTeamOf u fun k => { k with queues := k.queues.put f.b.toNat r }).doneR u (.qget f) f.d.toNat f.k v := by
  rw [State.qget]
  simp only [State.queue_dropOut hl, h, State.acquire_team]
theorem State.qget_empty (h : l = []) : s.qget f u = (s.dropOut u none).waitIn u { instr := .qget f, lo := 0 } := by
  rw [State.qget]
  simp only [State.queue_dropOut hl, h]

end

/-- Settles O25: with room or an entry the instruction is done on the changed queue, and otherwise the unit waits. -/
theorem queues : Obligations.Queues := by
  unfold Obligations.Queues
  intro s u f s' q l
  refine ⟨fun a ha => ?put, fun a ha => ?get⟩
  case put =>
    rw [ha.queue (exec_qput s f) rfl]
    refine ⟨fun hroom => ⟨_, rfl, ?_⟩, fun hfull => ⟨_, rfl, ?_⟩⟩
    · rw [State.qput_room rfl hroom]
      exact State.plainDoneG _ u _
    · rw [State.qput_full rfl hfull]
      exact State.waitsIn s' u _
  case get =>
    rw [ha.queue (exec_qget s f) rfl]
    refine ⟨fun v r hl => ⟨_, rfl, ?_⟩, fun hl => ⟨_, rfl, ?_⟩⟩
    · rw [State.qget_oldest rfl hl]
      exact State.scalarDone _ u _ _ _ v
    · rw [State.qget_empty rfl hl]
      exact State.waitsIn s' u _

end Sys2Proof.Machine

namespace Sys2Proof.Machine

variable {s t : State}

/-! SETG (spec/08 R201, spec/05 R121). -/

/-- What the decision of its guard makes of a command, slot `k` being resolved to `v`: it is held no longer, or it is discarded. -/
def Cmd.decided (k : Nat) (v : Bool) (x : Cmd) : Option Cmd :=
  match x.guard, x.go with
  | some (n, sense), none => if n = k then (if v = sense then some { x with go := some true } else none) else some x
  | _, go => if go = some false then none else some x

theorem Cmd.decided_eq (k : Nat) (v : Bool) (x : Cmd) : Option.guard (fun c => c.go != some false) (match x.guard, x.go with
      | some (k', sense), .none => if k' = k then { x with go := some (v == sense) } else x
      | _, _ => x) = x.decided k v := by
  unfold Cmd.decided
  cases hgo : x.go with
  | some go =>
    cases go <;> cases x.guard <;> simp [Option.guard, hgo]
  | none =>
    cases x.guard with
    | none => simp [Option.guard, hgo]
    | some gd =>
      by_cases hk : gd.1 = k
      · by_cases hv : v = gd.2 <;> simp [Option.guard, hk, hv]
      · simp [Option.guard, hgo, hk]

theorem Team.resolve_eq (m : Team) (k : Nat) (v : Bool) : m.resolve k v = { m with
    guards := m.guards.put k v
    eng := { cells := m.eng.cells.map fun q => (q.1, { q.2 with cmds := q.2.cmds.filterMap (Cmd.decided k v) }) } } := by
  have hdecide (l : List Cmd) : dropDiscarded (l.map fun c => match c.guard, c.go with
      | some (k', sense), .none => if k' = k then { c with go := some (v == sense) } else c
      | _, _ => c) = l.filterMap (Cmd.decided k v) := by
    rw [dropDiscarded, ← List.filterMap_eq_filter, List.filterMap_map]
    exact congrArg (List.filterMap · l) (funext fun c => Cmd.decided_eq k v c)
  simp only [Team.resolve, Team.mapQueues]
  refine congrArg (fun z => { m with guards := m.guards.put k v, eng := { cells := z } }) ?_
  exact congrArg (List.map · m.eng.cells) (funext fun q => congrArg (fun l => (q.1, { q.2 with cmds := l })) (hdecide q.2.cmds))

/-- Does the rule of units shut the value of a SETG out for unit `u` (spec/08 R201)? -/
theorem setg_wrongUnit (f : GI) (u : UnitId) : (Instr.setg f).wrongUnit u = true ↔
    (u.isPath = true ∧ f.imm.toNat = 2) ∨ (u.isSeq = true ∧ f.imm.toNat ∈ [0, 1, 3]) ∨ (u.isPath = false ∧ u.isSeq = false) := by
  cases u with
  | path c g i => simp [Instr.wrongUnit, Instr.units, UnitId.isPath, UnitId.isSeq]
  | seq c k => simp [Instr.wrongUnit, Instr.units, UnitId.isPath, UnitId.isSeq, or_assoc]
  | lant l p => simp [Instr.wrongUnit, Instr.units, UnitId.isPath, UnitId.isSeq]

/-- No value of a SETG beyond 3 is an operand, nor a slot beyond 15, nor K = 1 (spec/08 R201). -/
theorem setg_opndsOk {f : GI} (h : f.k = true ∨ 16 ≤ f.d.toNat ∨ f.imm.toInt < 0 ∨ 4 ≤ f.imm.toNat) : (Instr.setg f).opndsOk = false := by
  have hlims : f.k = true ∨ ¬ f.d.toNat ≤ 15 ∨ ¬ f.imm.toNat ≤ 3 := by
    rcases h with h | h | h | h
    · exact .inl h
    · exact .inr (.inl (by omega))
    · have := BitVec.toInt_eq_toNat_cond f.imm
      exact .inr (.inr (by split at this <;> omega))
    · exact .inr (.inr (by omega))
  rcases hlims with h | h | h <;> simp [Instr.opndsOk, Instr.opnds, Opnd.ok, h]

section
variable {u : UnitId} {f : GI} (h : s.Issues u (.setg f))
include h

theorem exec_setg_reopens (h2 : f.imm = 2) : exec (.setg f) s =
    .next ((s.onTeamOf u fun m => { m with guards := m.guards.drop f.d.toNat }).doneG u (.setg f)) := by
  rw [exec_setg, execSetg, h.next]
  exact congrArg _ (if_pos h2)
theorem exec_setg_resolves (h2 : f.imm ≠ 2) (hopen : (s.teamOf u).guards.find f.d.toNat = none) : exec (.setg f) s =
    .next ((s.onTeamOf u fun m => m.resolve f.d.toNat (if f.imm = 3 then s.srcG u f.a.toNat != 0 else f.imm == 1)).doneG u (.setg f)) := by
  have hhas : ¬ (s.teamOf u).guards.has f.d.toNat = true := by simp [Tab.has, hopen]
  rw [exec_setg, execSetg, h.next]
  exact congrArg _ ((if_neg h2).trans (if_neg hhas))
theorem exec_setg_again (h2 : f.imm ≠ 2) {w : Bool} (hset : (s.teamOf u).guards.find f.d.toNat = some w) : exec (.setg f) s =
    .next (s.faultUnit u (fltD 0x2D f.d.toNat)) := by
  have hhas : (s.teamOf u).guards.has f.d.toNat = true := by simp [Tab.has, hset]
  rw [exec_setg, execSetg, h.next]
  exact congrArg _ ((if_neg h2).trans (if_pos hhas))

end

/-- Settles O27: the checks of issue in their order, then the three things that SETG can come to. -/
theorem guards : Obligations.Guards := by
  unfold Obligations.Guards
  intro s u f n wrong
  have hunit (hr : ¬ wrong) : (Instr.setg f).wrongUnit u = false := Bool.eq_false_iff.mpr fun hw => hr ((setg_wrongUnit f u).mp hw)
  have hfirst : (Instr.setg f).firstOk = (decide (3 ≤ n) || f.a == 0) := rfl
  refine ⟨fun ht hw => exec_fails rfl ht (State.preCheck_unit ((setg_wrongUnit f u).mpr hw)), fun ht hr hn ha => ?unused,
    fun ht hr ha hbad => ?operand, rfl, fun h => ⟨fun h2 => ⟨_, exec_setg_reopens h h2, State.plainDoneG _ u _⟩, fun h2 hopen => ?resolves,
      fun h2 w hset => exec_setg_again h h2 hset⟩⟩
  case unused =>
    refine exec_fails rfl ht (State.preCheck_modifier (hunit hr) (.inl ?_))
    simpa [hfirst, hn] using ha
  case operand =>
    refine exec_fails rfl ht (State.preCheck_operand (hunit hr) ?_ (.inr ⟨rfl, setg_opndsOk hbad⟩))
    simpa [hfirst] using ha
  case resolves =>
    refine ⟨_, exec_setg_resolves h h2 hopen, ?_⟩
    simp only [Team.resolve_eq]
    exact State.plainDoneG _ u _

end Sys2Proof.Machine

namespace Sys2Proof.Machine

variable {s t : State}

/-! SYSRD (spec/08 R202, R203). -/

/-- The names that every unit reads as a value of its grid, context and core (spec/08 R203). -/
def State.commonNames (s : State) (u : UnitId) : List (Nat × Nat) :=
  [(169, (s.grid (s.gridOf u)).nteams), (170, (s.grid (s.gridOf u)).args), (176, s.ctxOf u), (177, (s.grid (s.gridOf u)).grove),
    (178, u.place), (181, (s.grid (s.gridOf u)).kernel.energy)]
/-- The names whose value is that of the unit's kind (spec/08 R203). -/
def State.ownNames (s : State) (u : UnitId) : List (Nat × Nat) :=
  match u with
  | .path c g i => [(160, 0), (161, (s.group c g).number), (162, (s.group c g).role), (163, (s.group c g).width),
      (164, (s.group c g).launched.toNat), (165, (s.group c g).live.toNat), (166, ((s.group c g).path i).mask.toNat), (167, i),
      (168, (s.teamOf (.path c g i)).number), (171, (s.group c g).number * (s.group c g).width), (173, (s.group c g).alloc),
      (174, ((s.group c g).path i).wb), (175, (s.flagsSeen (.path c g i)).toNat)]
  | .seq c k => [(160, 1), (161, 0), (162, 0), (163, 0), (164, 0), (165, 0), (166, 0), (167, 0), (168, (s.team c k).number), (171, 0),
      (173, 0), (174, 0), (175, 0)]
  | .lant l p => [(160, 2), (161, 0), (162, 0), (163, 0), (164, 0), (165, 0), (166, 0), (167, 0), (168, (s.prog l p).number), (171, 0),
      (172, 0), (173, 0), (174, 0), (175, 0)]

theorem State.sysName_common (s : State) (u : UnitId) : ∀ x ∈ s.commonNames u, s.sysName u x.1 = x.2 := by
  simp only [State.commonNames, List.forall_mem_cons]
  exact ⟨rfl, rfl, rfl, rfl, rfl, rfl, nofun⟩
theorem State.sysName_own (s : State) (u : UnitId) : ∀ x ∈ s.ownNames u, s.sysName u x.1 = x.2 := by
  cases u with
  | path c g i =>
    simp only [State.ownNames, List.forall_mem_cons]
    exact ⟨rfl, rfl, rfl, rfl, rfl, rfl, rfl, rfl, rfl, rfl, rfl, rfl, rfl, nofun⟩
  | seq c k =>
    simp only [State.ownNames, List.forall_mem_cons]
    exact ⟨rfl, rfl, rfl, rfl, rfl, rfl, rfl, rfl, rfl, rfl, rfl, rfl, rfl, nofun⟩
  | lant l p =>
    simp only [State.ownNames, List.forall_mem_cons]
    exact ⟨rfl, rfl, rfl, rfl, rfl, rfl, rfl, rfl, rfl, rfl, rfl, rfl, rfl, rfl, nofun⟩

@[simp] theorem State.core_spend (s : State) (c : Nat) : s.spend.core c = s.core c := rfl
@[simp] theorem State.lantern_spend (s : State) (l : Nat) : s.spend.lantern l = s.lantern l := rfl
@[simp] theorem State.lantern_onLantern_same (s : State) (l : Nat) (f : Lantern → Lantern) :
    (s.onLantern l f).lantern l = f (s.lantern l) := by
  simp [State.lantern_onLantern]

/-- A core's clock as it is read, after a free amount has passed (notes/assumptions/8.md). -/
theorem State.sysName_coreClock (s : State) {u : UnitId} (hu : ∀ l p, u ≠ .lant l p) :
    BitVec.ofNat 64 ((s.advance u 179).sysName u 179) = (s.core u.place).clock + BitVec.ofNat 64 s.freeVal := by
  cases u with
  | path c g i => simp [-BitVec.toNat_add, State.sysName, State.advance, UnitId.place]
  | seq c k => simp [-BitVec.toNat_add, State.sysName, State.advance, UnitId.place]
  | lant l p => exact absurd rfl (hu l p)
theorem State.sysName_lanternClock (s : State) (l p : Nat) : BitVec.ofNat 64 ((s.advance (.lant l p) 179).sysName (.lant l p) 179) =
    (s.lantern l).clock + BitVec.ofNat 64 s.freeVal := by
  simp [-BitVec.toNat_add, State.sysName, State.advance]

/-- The codes of the names of spec/08 R203 that show no clock. -/
def steadyCodes : List Nat := [160, 161, 162, 163, 164, 165, 166, 167, 168, 169, 170, 171, 172, 173, 174, 175, 176, 177, 178, 181]

theorem steadyCodes_named : ∀ n ∈ steadyCodes, ¬ (n < 160 ∨ 181 < n) ∧ n ≠ 180 ∧ n ≠ 179 := by decide
theorem State.names_steady (s : State) (u : UnitId) : ∀ x ∈ s.commonNames u ++ s.ownNames u, x.1 ∈ steadyCodes := by
  intro x hx
  have hcode : x.1 ∈ (s.commonNames u ++ s.ownNames u).map (·.1) := List.mem_map_of_mem hx
  have hsub : ∀ l ∈ [[169, 170, 176, 177, 178, 181, 160, 161, 162, 163, 164, 165, 166, 167, 168, 171, 173, 174, 175],
      [169, 170, 176, 177, 178, 181, 160, 161, 162, 163, 164, 165, 166, 167, 168, 171, 172, 173, 174, 175]], l ⊆ steadyCodes := by decide
  cases u with
  | path c g i => exact hsub _ (.head _) hcode
  | seq c k => exact hsub _ (.head _) hcode
  | lant l p => exact hsub _ (.tail _ (.head _)) hcode

/-- The number of groups of a team: one where no role is declared (spec/05 R117). -/
theorem kernelGroups_eq (k : Kernel) : kernelGroups k = if k.roles = [] then 1 else (k.roles.map (·.groups)).sum := by
  have hsum (l : List Role) (a : Nat) : l.foldl (fun a r => a + r.groups) a = a + (l.map (·.groups)).sum := by
    induction l generalizing a with
    | nil => rfl
    | cons r l ih => rw [List.foldl_cons, ih, List.map_cons, List.sum_cons, Nat.add_assoc]
  rw [kernelGroups, hsum, Nat.zero_add]
  simp only [List.isEmpty_iff]

section
variable {u : UnitId} {f : GA} (h : s.Issues u (.sysrd f))
include h

theorem exec_sysrd_unnamed (hcode : f.a.toNat < 160 ∨ 181 < f.a.toNat) : exec (.sysrd f) s = .next (s.faultUnit u illegalOperand) := by
  rw [exec_sysrd, execSysrd, h.next]
  exact congrArg _ (if_pos hcode)
theorem exec_sysrd_named (hcode : ¬ (f.a.toNat < 160 ∨ 181 < f.a.toNat)) : exec (.sysrd f) s =
    .next ((s.advance u f.a.toNat).doneR u (.sysrd f) f.d.toNat f.k (BitVec.ofNat 64 ((s.advance u f.a.toNat).sysName u f.a.toNat))) := by
  rw [exec_sysrd, execSysrd, h.next]
  exact congrArg _ (if_neg hcode)
/-- A name that shows no clock: the machine stands still while it is read. -/
theorem exec_sysrd_steady (hcode : f.a.toNat ∈ steadyCodes) : ∃ t, exec (.sysrd f) s = .next t ∧
    s.ScalarDone t u (.sysrd f) f.d.toNat f.k (BitVec.ofNat 64 (s.sysName u f.a.toNat)) := by
  obtain ⟨hnamed, h180, h179⟩ := steadyCodes_named _ hcode
  have hstill : s.advance u f.a.toNat = s := (if_neg h180).trans (if_neg h179)
  refine ⟨_, exec_sysrd_named h hnamed, ?_⟩
  rw [hstill]
  exact State.scalarDone s u _ _ _ _
theorem exec_sysrd_time (hcode : f.a.toNat = 180) : exec (.sysrd f) s = .next (s.tick.doneR u (.sysrd f) f.d.toNat f.k s.tick.time) := by
  have hname : BitVec.ofNat 64 (s.tick.sysName u 180) = s.tick.time := BitVec.ofNat_toNat ..
  rw [exec_sysrd_named h (by omega), hcode, show s.advance u 180 = s.tick from rfl, hname]
theorem exec_sysrd_clock (hcode : f.a.toNat = 179) : exec (.sysrd f) s =
    .next ((s.advance u 179).doneR u (.sysrd f) f.d.toNat f.k (BitVec.ofNat 64 ((s.advance u 179).sysName u 179))) := by
  rw [exec_sysrd_named h (by omega), hcode]

end

/-- What an instruction changes of the machine besides its unit's own is nothing. -/
theorem State.Own.time {u : UnitId} (h : s.Own t u) : t.time = s.time := by rw [h.units.rest]
theorem State.Own.freeIdx {u : UnitId} (h : s.Own t u) : t.freeIdx = s.freeIdx := by rw [h.units.rest]

/-! SYSWR (spec/08 R202). -/

/-- What an instruction has left of its thread, seen from a state in which the run had written otherwise, or which did not wait yet. -/
theorem State.Passed.of_thread {p : State} {u : UnitId} {i : Instr} (h : p.Passed t u i)
    (hth : p.thread u = { s.thread u with run := (p.thread u).run, state := (p.thread u).state, wait := (p.thread u).wait })
    (hcount : (p.thread u).run.count = (s.thread u).run.count) : s.Passed t u i := by
  have hends : p.endsWith u i = s.endsWith u i := by rw [State.endsWith, State.endsWith, hcount]
  refine ⟨?_, h.ready, ?_, ?_, fun he => h.latches (hends.trans he), ?_, ?_⟩
  · rw [h.pc, hth]
  · rw [h.runpc, hends, hth]
  · rw [h.count, hends, hcount]
  · rw [h.fmt, hth]
  · rw [h.frame, hth]

/-- The flags of a path's group, those that its run has raised among them, kept where `keep` has a 1 (notes/assumptions/71.md). -/
def State.keepFlags (s : State) (u : UnitId) (keep : BitVec 7) : State :=
  (s.onGroupOf u fun g => { g with xflags := (g.xflags ||| (s.pathOf u).th.run.xOver) &&& keep }).onRun u fun r => { r with xOver := 0 }

/-- What that makes of the group of path `i`. -/
def Group.keepFlags (k : Group) (i : Nat) (keep : BitVec 7) : Group :=
  { k with xflags := (k.xflags ||| (k.path i).th.run.xOver) &&& keep }.onPath i fun p =>
    { p with th := { p.th with run := { p.th.run with xOver := 0 } } }

theorem State.keepFlags_path (s : State) (c g i : Nat) (keep : BitVec 7) :
    s.keepFlags (.path c g i) keep = s.onGroup c g fun k => k.keepFlags i keep := by
  rw [State.keepFlags, State.onRun, State.onThread_path, State.onGroupOf, State.onGroup_onGroup]
  exact State.onGroup_congr rfl

theorem State.keepFlags_other (s : State) {u : UnitId} (hu : u.isPath = false) (keep : BitVec 7) :
    s.keepFlags u keep = s.onRun u fun r => { r with xOver := 0 } := by
  cases u with
  | path c g i => cases hu
  | seq c k => rfl
  | lant l p => rfl

section
variable (s : State) (u : UnitId) (keep : BitVec 7)

theorem State.own_keepFlags : s.Own (s.keepFlags u keep) u := by
  cases u with
  | path c g i =>
    rw [State.keepFlags_path]
    refine State.own_onGroup s c g i _ rfl (fun j hj => ?_) ?_
    · rw [Group.keepFlags, Group.path_onPath, if_neg hj]
      rfl
    · rw [Group.keepFlags, Group.path_onPath_same]
      rfl
  | seq c k =>
    rw [State.keepFlags_other s rfl]
    exact State.own_onThread s _ _
  | lant l p =>
    rw [State.keepFlags_other s rfl]
    exact State.own_onThread s _ _
theorem State.thread_keepFlags : (s.keepFlags u keep).thread u = { s.thread u with run := { (s.thread u).run with xOver := 0 } } := by
  cases u with
  | path c g i =>
    rw [State.keepFlags_path, State.thread, State.group_onGroup_same, Group.keepFlags, Group.path_onPath_same]
    rfl
  | seq c k =>
    rw [State.keepFlags_other s rfl]
    exact State.thread_onThread s _ _
  | lant l p =>
    rw [State.keepFlags_other s rfl]
    exact State.thread_onThread s _ _
theorem State.sregs_keepFlags : (s.keepFlags u keep).sregs u = s.sregs u := by
  cases u with
  | path c g i =>
    rw [State.keepFlags_path, State.sregs, State.group_onGroup_same]
    rfl
  | seq c k =>
    rw [State.keepFlags_other s rfl]
    exact State.sregs_onThread s _ _
  | lant l p =>
    rw [State.keepFlags_other s rfl]
    exact State.sregs_onThread s _ _
theorem State.flagsSeen_keepFlags : (s.keepFlags u keep).flagsSeen u = s.flagsSeen u &&& keep := by
  cases u with
  | path c g i =>
    simp [State.flagsSeen, State.groupOf, State.thread, State.keepFlags_path, Group.keepFlags, Group.onPath, Group.path, UnitId.isPath]
  | seq c k => simp [State.flagsSeen, UnitId.isPath]
  | lant l p => simp [State.flagsSeen, UnitId.isPath]
theorem State.sget_keepFlags (r : Nat) : (s.keepFlags u keep).sget u r = s.sget u r :=
  State.sget_congr (by rw [State.thread_keepFlags]) (State.sregs_keepFlags s u keep) r
theorem State.vget_keepFlags (l r : Nat) : (s.keepFlags u keep).vget u l r = s.vget u l r := by
  refine State.vget_congr (by rw [State.thread_keepFlags]) ?_ ?_ l r
  · cases u <;> simp [State.pathOf, State.keepFlags_path, Group.keepFlags, Group.path, Group.onPath]
  · cases u <;> simp [State.groupOf, State.keepFlags_path, Group.keepFlags, Group.onPath]
theorem State.bindOf_keepFlags (l : Nat) : (s.keepFlags u keep).bindOf u l = s.bindOf u l := by
  refine State.bindOf_congr (by rw [State.thread_keepFlags]) ?_ l
  cases u <;> simp [State.groupOf, State.keepFlags_path, Group.keepFlags, Group.onPath]

end

section
variable {u : UnitId} {f : GA} (h : s.Issues u (.syswr f))
include h

theorem exec_syswr_flags (hcode : f.d.toNat = 175) : exec (.syswr f) s =
    .next ((s.keepFlags u (~~~((s.srcG u f.a.toNat).setWidth 7))).doneG u (.syswr f)) := by
  rw [exec_syswr, execSyswr, h.next]
  exact congrArg _ (if_neg (by simp [hcode]))
theorem exec_syswr_other (hcode : f.d.toNat ≠ 175) : exec (.syswr f) s = .next (s.faultUnit u illegalOperand) := by
  rw [exec_syswr, execSyswr, h.next]
  exact congrArg _ (if_pos (by simpa using hcode))

end

/-- Settles O28: a name is read from its table, after the clock that it shows has advanced; a write of the flags is a change of them
under an instruction with no result. -/
theorem systemNames : Obligations.SystemNames := by
  unfold Obligations.SystemNames
  intro s u f
  refine ⟨fun h => ?read, fun h => ⟨fun hcode => ?flags, exec_syswr_other h⟩⟩
  case read =>
    intro gr g tm common names
    have hnames : names = s.ownNames u := by cases u <;> rfl
    refine ⟨fun v hv => ?named, fun hcode => ?time, fun hcode => ?clock, fun hcode hu => ?spill, exec_sysrd_unnamed h⟩
    case named =>
      rw [hnames, show common = s.commonNames u from rfl] at hv
      have hvalue : s.sysName u f.a.toNat = v :=
        (List.mem_append.mp hv).elim (s.sysName_common u _) (s.sysName_own u _)
      rw [← hvalue]
      exact exec_sysrd_steady h (s.names_steady u _ hv)
    case time =>
      have hdone := State.scalarDone s.tick u (.sysrd f) f.d.toNat f.k s.tick.time
      refine ⟨_, _, exec_sysrd_time h hcode, hdone.1.time, hdone.1.freeIdx, ?_⟩
      rw [hdone.1.time, hdone.1.freeIdx]
      exact hdone
    case clock =>
      have hdone := State.scalarDone (s.advance u 179) u (.sysrd f) f.d.toNat f.k (BitVec.ofNat 64 ((s.advance u 179).sysName u 179))
      refine ⟨_, BitVec.ofNat 64 s.freeVal, exec_sysrd_clock h hcode, ?_⟩
      rw [hdone.1.freeIdx]
      cases u with
      | path c j i =>
        rw [State.sysName_coreClock (u := .path c j i) s nofun] at hdone ⊢
        exact hdone
      | seq c k =>
        rw [State.sysName_coreClock (u := .seq c k) s nofun] at hdone ⊢
        exact hdone
      | lant l p =>
        rw [State.sysName_lanternClock] at hdone ⊢
        exact hdone
    case spill =>
      have hvalue : s.sysName u f.a.toNat = if gr.spill = 0 then 0 else
          gr.spill + 4096 * (if gr.kernel.roles = [] then 1 else (gr.kernel.roles.map (·.groups)).sum) * gr.kernel.width * tm.number := by
        rw [hcode, ← kernelGroups_eq]
        cases u with
        | path c g i => rfl
        | seq c k => rfl
        | lant l p => simp [UnitId.isPath, UnitId.isSeq] at hu
      rw [← hvalue]
      exact exec_sysrd_steady h (by rw [hcode]; decide)
  case flags =>
    obtain ⟨hown, hsees⟩ := State.plainDoneG (s.keepFlags u (~~~((s.srcG u f.a.toNat).setWidth 7))) u (.syswr f)
    have hth := State.thread_keepFlags s u (~~~((s.srcG u f.a.toNat).setWidth 7))
    refine ⟨_, exec_syswr_flags h hcode, (State.own_keepFlags s u _).trans hown, hsees.passed.of_thread ?_ ?_, ?_, fun r => ?_,
      fun l r hl => ?_, fun hu l => ?_⟩
    · rw [hth]
    · rw [hth]
    · rw [hsees.flags, State.flagsSeen_keepFlags]
    · rw [hsees.scalars, State.sget_keepFlags]
    · rw [hsees.lanes l r hl, State.vget_keepFlags]
    · rw [hsees.binds hu, State.bindOf_keepFlags]

end Sys2Proof.Machine

namespace Sys2Proof.Machine

variable {s t : State}

/-! A table after an update, cell by cell. -/

section
variable {α : Type} {k : Nat} {a : α} {l : List (Nat × α)}

theorem mem_of_findCell (h : findCell k l = some a) : (k, a) ∈ l := by
  induction l with
  | nil => cases h
  | cons c r ih =>
    by_cases hc : c.1 = k
    · rw [findCell, if_pos hc] at h
      cases h
      rw [← hc]
      exact .head r
    · rw [findCell, if_neg hc] at h
      exact .tail c (ih h)
theorem mem_putCell_self : (k, a) ∈ putCell k a l := mem_of_findCell (findCell_put_same k a l)
/-- What stands in the table besides the new cell stood there before, and it stands there still if its key is another. -/
theorem mem_putCell_of_mem {c : Nat × α} (h : c ∈ l) : c ∈ putCell k a l ∨ findCell k l = some c.2 ∧ c.1 = k := by
  induction l with
  | nil => cases h
  | cons d r ih =>
    rw [putCell, findCell]
    by_cases hlt : k < d.1
    · rw [if_pos hlt]
      exact .inl (.tail _ h)
    · by_cases heq : d.1 = k
      · rw [if_neg hlt, if_pos heq, if_pos heq]
        rcases List.mem_cons.mp h with rfl | hr
        · exact .inr ⟨rfl, heq⟩
        · exact .inl (.tail _ hr)
      · rw [if_neg hlt, if_neg heq, if_neg heq]
        rcases List.mem_cons.mp h with rfl | hr
        · exact .inl (.head _)
        · exact (ih hr).imp_left (.tail d)
/-- A test of every cell comes out as before where the new cell passes it as the place did. -/
theorem Tab.all_put {t : Tab α} {d : α} {P : Nat × α → Bool} (h : P (k, a) = P (k, t.get k d)) (hd : P (k, d) = true) :
    (t.put k a).cells.all P = t.cells.all P := by
  have hplace (hall : ∀ c ∈ t.cells, P c = true) : P (k, t.get k d) = true := by
    rw [Tab.get, Tab.find]
    cases hf : findCell k t.cells with
    | none => exact hd
    | some b => exact hall _ (mem_of_findCell hf)
  rw [Bool.eq_iff_iff, List.all_eq_true, List.all_eq_true]
  refine ⟨fun hall c hc => ?_, fun hall c hc => ?_⟩
  · rcases mem_putCell_of_mem (k := k) (a := a) hc with hin | ⟨hf, hk⟩
    · exact hall c hin
    · have hget : t.get k d = c.2 := by rw [Tab.get, Tab.find, hf]; rfl
      have hnew := hall _ mem_putCell_self
      rw [h, hget, ← hk] at hnew
      exact hnew
  · rcases putCell_mem_cases hc with rfl | hin
    · exact h.trans (hplace hall)
    · exact hall c hin

end

/-! What another unit sees of a unit's own changes. -/

theorem State.Own.thread_other {u v : UnitId} (h : s.Own t u) (hv : v ≠ u) : t.thread v = s.thread v := by
  cases v with
  | path c g j =>
    by_cases hg : ∃ i, u = .path c g i
    · obtain ⟨i, rfl⟩ := hg
      have hj : j ≠ i := fun e => hv (e ▸ rfl)
      exact congrArg Path.th (h.apart.paths c g i rfl j hj)
    · rw [State.thread, h.apart.groups c g fun i hi => hg ⟨i, hi⟩]
      rfl
  | seq c k => exact congrArg Team.seq (h.apart.teams c k hv.symm)
  | lant l p => exact congrArg Prog.th (h.apart.progs l p hv.symm)
/-- A team's barriers are nobody's own. -/
theorem State.Own.bars {u : UnitId} (h : s.Own t u) (c k : Nat) : (t.team c k).bars = (s.team c k).bars := by
  by_cases hu : u = .seq c k
  · rw [h.apart.team c k hu]
  · rw [h.apart.teams c k hu]

/-! An update that keeps the s-registers of its place keeps everybody's. -/

theorem State.sregs_onGroup {c g : Nat} {f : Group → Group} (hf : (f (s.group c g)).sregs = (s.group c g).sregs) (u : UnitId) :
    (s.onGroup c g f).sregs u = s.sregs u := by
  cases u with
  | path c' g' j =>
    rw [State.sregs, State.group_onGroup]
    split
    · next h =>
      obtain ⟨rfl, rfl⟩ := h
      exact hf
    · rfl
  | seq c' k => exact congrArg Team.seqRegs (State.team_onGroup s c g c' k f)
  | lant l p => rfl
theorem State.sregs_onTeam {c k : Nat} {f : Team → Team} (hf : (f (s.team c k)).seqRegs = (s.team c k).seqRegs) (u : UnitId) :
    (s.onTeam c k f).sregs u = s.sregs u := by
  cases u with
  | path c' g j => exact congrArg Group.sregs (State.group_onTeam s c g c' k f)
  | seq c' k' =>
    rw [State.sregs, State.team_onTeam]
    split
    · next h =>
      obtain ⟨rfl, rfl⟩ := h
      exact hf
    · rfl
  | lant l p => rfl
theorem State.sregs_onProg {l p : Nat} {f : Prog → Prog} (hf : (f (s.prog l p)).sregs = (s.prog l p).sregs) (u : UnitId) :
    (s.onProg l p f).sregs u = s.sregs u := by
  cases u with
  | path c g j => rfl
  | seq c k => rfl
  | lant l' p' =>
    rw [State.sregs, State.prog_onProg]
    split
    · next h =>
      obtain ⟨rfl, rfl⟩ := h
      exact hf
    · rfl

theorem State.sregs_onThread_any (s : State) (u v : UnitId) (f : Thread → Thread) : (s.onThread v f).sregs u = s.sregs u := by
  cases v with
  | path c g i => exact State.sregs_onGroup rfl u
  | seq c k => exact State.sregs_onTeam rfl u
  | lant l p => exact State.sregs_onProg rfl u
/-- A run that has written no s-register leaves everybody's as they are when it commits. -/
theorem State.sregs_commit_clean {v : UnitId} (h : (s.thread v).run.sOver = .empty) (u : UnitId) : (s.commit v).sregs u = s.sregs u := by
  cases v with
  | path c g i => exact State.sregs_onGroup (congrArg (s.group c g).sregs.over h) u
  | seq c k => exact State.sregs_onTeam (congrArg (s.team c k).seqRegs.over h) u
  | lant l p => exact State.sregs_onProg (congrArg (s.prog l p).sregs.over h) u

/-- Nobody's s-registers change as an instruction is done whose run has written none. -/
theorem State.sregs_doneG_clean {v : UnitId} (h : (s.thread v).run.sOver = .empty) (i : Instr) (u : UnitId) :
    (s.doneG v i).sregs u = s.sregs u := by
  rw [State.doneG, State.endRun_done]
  dsimp only
  split
  · rw [State.endRun, State.sregs_leave, State.sregs_onThread_any, State.sregs_commit_clean (by simpa [State.shiftG, State.onRun] using h),
      State.sregs_onThread_any]
    exact State.sregs_onThread_any s u v _
  · rw [State.nextSlot_eq]
    exact (State.sregs_onThread_any _ u v _).trans (State.sregs_onThread_any s u v _)

/-! Team members that depart from a barrier (spec/05 R120, spec/04 R94). -/

/-- The unit departs from what it waits in, if it waits. -/
def State.departs (s : State) (u : UnitId) : State := match (s.thread u).wait with
  | some w => s.doneG u w.instr
  | none => s

section
variable {u : UnitId}

theorem State.departs_waiting {w : Wait} (h : (s.thread u).wait = some w) : s.departs u = s.doneG u w.instr := by
  rw [State.departs, h]
theorem State.departs_idle (h : (s.thread u).wait = none) : s.departs u = s := by
  rw [State.departs, h]
theorem State.own_doneG (s : State) (u : UnitId) (i : Instr) : s.Own (s.doneG u i) u := (State.plainDoneG s u i).1
theorem State.own_departs (s : State) (u : UnitId) : s.Own (s.departs u) u := by
  cases h : (s.thread u).wait with
  | none =>
    rw [State.departs_idle h]
    exact .refl s u
  | some w =>
    rw [State.departs_waiting h]
    exact State.own_doneG s u w.instr
theorem State.wait_doneG (s : State) (u : UnitId) (i : Instr) : ((s.doneG u i).thread u).wait = none := by
  rw [State.doneG, State.thread_done]
  dsimp only
  split <;> rfl
theorem State.wait_departs (s : State) (u : UnitId) : ((s.departs u).thread u).wait = none := by
  cases h : (s.thread u).wait with
  | none => rw [State.departs_idle h, h]
  | some w => rw [State.departs_waiting h, State.wait_doneG]
/-- It stands past its instruction. -/
theorem State.thread_departs {w : Wait} (h : (s.thread u).wait = some w) : ((s.departs u).thread u).state = .ready ∧
    ((s.departs u).thread u).pc = (s.thread u).pc + BitVec.ofNat 64 w.instr.len := by
  rw [State.departs_waiting h]
  have hpassed := (State.plainDoneG s u w.instr).2.passed
  exact ⟨hpassed.ready, hpassed.pc⟩
theorem State.sget_departs_self (s : State) (u : UnitId) (r : Nat) : (s.departs u).sget u r = s.sget u r := by
  cases h : (s.thread u).wait with
  | none => rw [State.departs_idle h]
  | some w =>
    rw [State.departs_waiting h]
    exact (State.plainDoneG s u w.instr).2.scalars r

/-- A unit whose departure cannot change another's s-registers: it waits no longer, or its run has written none. -/
def Thread.departsClean (t : Thread) : Prop := t.wait = none ∨ t.run.sOver = .empty

theorem State.sget_departs_other {v : UnitId} (hv : v ≠ u) (h : (s.thread v).departsClean) (r : Nat) :
    (s.departs v).sget u r = s.sget u r := by
  cases hw : (s.thread v).wait with
  | none => rw [State.departs_idle hw]
  | some w =>
    have hclean : (s.thread v).run.sOver = .empty := h.resolve_left (by rw [hw]; nofun)
    refine State.sget_congr (by rw [(State.own_departs s v).thread_other hv.symm]) ?_ r
    rw [State.departs_waiting hw]
    exact State.sregs_doneG_clean hclean w.instr u

/-! All of them, one after the other. -/

theorem State.foldl_departs_idle (l : List UnitId) (h : (s.thread u).wait = none) :
    (l.foldl State.departs s).thread u = s.thread u := by
  induction l generalizing s with
  | nil => rfl
  | cons a r ih =>
    have hstep : (s.departs a).thread u = s.thread u := by
      by_cases ha : u = a
      · rw [← ha, State.departs_idle h]
      · exact (State.own_departs s a).thread_other ha
    rw [List.foldl_cons, ih (by rw [hstep, h]), hstep]
theorem State.foldl_departs_thread {l : List UnitId} (hu : u ∈ l) {w : Wait} (h : (s.thread u).wait = some w) :
    ((l.foldl State.departs s).thread u).state = .ready ∧
      ((l.foldl State.departs s).thread u).pc = (s.thread u).pc + BitVec.ofNat 64 w.instr.len := by
  induction l generalizing s with
  | nil => cases hu
  | cons a r ih =>
    rw [List.foldl_cons]
    by_cases ha : u = a
    · rw [← ha, State.foldl_departs_idle r (State.wait_departs s u)]
      exact State.thread_departs h
    · have hstep : (s.departs a).thread u = s.thread u := (State.own_departs s a).thread_other ha
      rw [← hstep]
      exact ih ((List.mem_cons.mp hu).resolve_left ha) (by rw [hstep, h])
theorem State.foldl_departs_sget (l : List UnitId) (h : ∀ v ∈ l, v ≠ u → (s.thread v).departsClean) (r : Nat) :
    (l.foldl State.departs s).sget u r = s.sget u r := by
  induction l generalizing s with
  | nil => rfl
  | cons a l ih =>
    have hstep : (s.departs a).sget u r = s.sget u r := by
      by_cases ha : a = u
      · rw [ha, State.sget_departs_self]
      · exact State.sget_departs_other ha (h a (.head l) ha) r
    rw [List.foldl_cons, ih fun v hv hne => ?_, hstep]
    by_cases hva : v = a
    · rw [hva]
      exact .inl (State.wait_departs s a)
    · rw [(State.own_departs s a).thread_other hva]
      exact h v (.tail a hv) hne
theorem State.foldl_departs_bars (l : List UnitId) (s : State) (c k : Nat) :
    ((l.foldl State.departs s).team c k).bars = (s.team c k).bars := by
  induction l generalizing s with
  | nil => rfl
  | cons a r ih => rw [List.foldl_cons, ih, (State.own_departs s a).bars c k]

end

/-! Changes of barriers alone. -/

/-- Units and s-registers stand as they did, and barrier `n` of the team is at the same phase. -/
structure State.BarsOnly (s t : State) (c k n : Nat) : Prop where
  thread : ∀ v, t.thread v = s.thread v
  sregs : ∀ v, t.sregs v = s.sregs v
  phase : ((t.team c k).bar n).phase = ((s.team c k).bar n).phase

theorem State.BarsOnly.refl (s : State) (c k n : Nat) : s.BarsOnly s c k n := ⟨fun _ => rfl, fun _ => rfl, rfl⟩
theorem State.BarsOnly.trans {r : State} {c k n : Nat} (h : s.BarsOnly t c k n) (j : t.BarsOnly r c k n) : s.BarsOnly r c k n :=
  ⟨fun v => (j.thread v).trans (h.thread v), fun v => (j.sregs v).trans (h.sregs v), j.phase.trans h.phase⟩

theorem State.thread_onTeam {c k : Nat} {f : Team → Team} (hf : (f (s.team c k)).seq = (s.team c k).seq) (u : UnitId) :
    (s.onTeam c k f).thread u = s.thread u := by
  cases u with
  | path c' g j => exact congrArg (fun z => (z.path j).th) (State.group_onTeam s c g c' k f)
  | seq c' k' =>
    rw [State.thread, State.team_onTeam]
    split
    · next h =>
      obtain ⟨rfl, rfl⟩ := h
      exact hf
    · rfl
  | lant l p => rfl
theorem State.barsOnly_barCount (s : State) (c k n part : Nat) (u : UnitId) : s.BarsOnly (s.barCount c k n part u) c k n := by
  refine ⟨State.thread_onTeam rfl, State.sregs_onTeam rfl, ?_⟩
  rw [State.barCount, State.team_onTeam_same]
  cases u <;> simp [Team.bar]

/-- An arrival made early, for the phase that begins, is counted there. -/
def State.countsEarly (s : State) (c k n : Nat) (u : UnitId) : State := match (s.thread u).wait with
  | some w => match w.instr with
    | .bar _ x => s.barCount c k n (barPart x) u
    | _ => s
  | none => s

theorem State.barsOnly_countsEarly (s : State) (c k n : Nat) (u : UnitId) : s.BarsOnly (s.countsEarly c k n u) c k n := by
  unfold State.countsEarly
  split
  · split
    · exact State.barsOnly_barCount s c k n _ u
    · exact .refl s c k n
  · exact .refl s c k n
theorem State.barsOnly_foldl_countsEarly (l : List UnitId) (s : State) (c k n : Nat) :
    s.BarsOnly (l.foldl (fun s u => s.countsEarly c k n u) s) c k n := by
  induction l generalizing s with
  | nil => exact .refl s c k n
  | cons a r ih => exact (State.barsOnly_countsEarly s c k n a).trans (ih _)

/-! A phase that completes (spec/05 R120). -/

/-- The barrier of the phase that begins. -/
def Barrier.fresh (ph : Nat) : Barrier := { phase := ph, set := .none, arrived := .empty, seq := false }

section
variable (s : State) (c k n : Nat)

theorem State.barDepart_eq : s.barDepart c k n =
    ((s.teamUnits c k).filter fun u => (s.thread u).atBar n (((s.team c k).bar n).phase + 1)).foldl (fun s u => s.countsEarly c k n u)
      (((s.teamUnits c k).filter fun u => (s.thread u).atBar n ((s.team c k).bar n).phase).foldl State.departs
        (s.onTeam c k fun tm => { tm with bars := tm.bars.put n (.fresh (((s.team c k).bar n).phase + 1)) })) := rfl

theorem State.phase_barDepart : (((s.barDepart c k n).team c k).bar n).phase = ((s.team c k).bar n).phase + 1 := by
  rw [State.barDepart_eq, (State.barsOnly_foldl_countsEarly _ _ c k n).phase, Team.bar, State.foldl_departs_bars, State.team_onTeam_same]
  exact congrArg Barrier.phase (Tab.get_put_same _ n _ _)

variable {s c k n} {u : UnitId}

theorem State.thread_barDepart (hu : u ∈ s.teamUnits c k) {f : GA} {x : BarX} {w : Wait} (hstate : (s.thread u).state = .waiting)
    (hw : (s.thread u).wait = some w) (hi : w.instr = .bar f x) (hn : f.b.toNat = n) (hlo : w.lo = ((s.team c k).bar n).phase) :
    ((s.barDepart c k n).thread u).state = .ready ∧ ((s.barDepart c k n).thread u).pc = (s.thread u).pc + 8 := by
  have hat : (s.thread u).atBar n ((s.team c k).bar n).phase = true := by
    simp [Thread.atBar, hstate, hw, hi, hn, hlo]
  have hsame := State.thread_onTeam (s := s) (c := c) (k := k)
    (f := fun tm => { tm with bars := tm.bars.put n (.fresh (((s.team c k).bar n).phase + 1)) }) rfl u
  have hmem : u ∈ (s.teamUnits c k).filter fun v => (s.thread v).atBar n ((s.team c k).bar n).phase :=
    List.mem_filter.mpr ⟨hu, hat⟩
  have hgo := State.foldl_departs_thread hmem ((congrArg Thread.wait hsame).trans hw)
  rw [State.barDepart_eq, (State.barsOnly_foldl_countsEarly _ _ c k n).thread]
  rw [hsame, hi] at hgo
  exact hgo
theorem State.sget_barDepart (h : ∀ v ∈ s.teamUnits c k, v ≠ u → (s.thread v).run.sOver = .empty) (r : Nat) :
    (s.barDepart c k n).sget u r = s.sget u r := by
  have hcount := State.barsOnly_foldl_countsEarly
    ((s.teamUnits c k).filter fun u => (s.thread u).atBar n (((s.team c k).bar n).phase + 1))
    (((s.teamUnits c k).filter fun u => (s.thread u).atBar n ((s.team c k).bar n).phase).foldl State.departs
        (s.onTeam c k fun tm => { tm with bars := tm.bars.put n (.fresh (((s.team c k).bar n).phase + 1)) })) c k n
  rw [State.barDepart_eq, State.sget_congr (by rw [hcount.thread]) (hcount.sregs u) r, State.foldl_departs_sget]
  · exact State.sget_congr (by rw [State.thread_onTeam rfl]) (State.sregs_onTeam rfl u) r
  · intro v hv hne
    rw [State.thread_onTeam rfl]
    exact .inr (h v (List.mem_of_mem_filter hv) hne)

end

end Sys2Proof.Machine

namespace Sys2Proof.Machine

variable {s t : State}

/-! What a unit that begins to wait leaves of its core: groups and team members, and who has arrived. -/

theorem State.core_leave (s : State) (u : UnitId) (c : Nat) : ∃ q, (s.leave u).core c = { s.core c with quads := q } := by
  have hturn : (s.dropTurn u).core c = s.core c := by
    unfold State.dropTurn
    split <;> rfl
  rw [State.leave, ← hturn]
  unfold State.freeQuad
  split
  · exact ⟨_, rfl⟩
  · split
    · rw [State.core_onCore]
      split
      · next h =>
        rw [h]
        exact ⟨_, rfl⟩
      · exact ⟨_, rfl⟩
    · exact ⟨_, rfl⟩

theorem State.mem_teamUnits {s : State} {c k : Nat} {v : UnitId} : v ∈ s.teamUnits c k ↔ v = .seq c k ∨
    ∃ g ∈ (s.core c).groups.cells, g.2.team = k ∧ ∃ p ∈ g.2.paths.cells, v = .path c g.1 p.1 := by
  simp only [State.teamUnits, List.mem_cons, List.mem_flatMap, List.mem_filter, List.mem_map, beq_iff_eq, and_assoc, eq_comm (a := v)]
theorem State.teamUnits_leave (s : State) (u : UnitId) (c k : Nat) : (s.leave u).teamUnits c k = s.teamUnits c k := by
  obtain ⟨q, hq⟩ := State.core_leave s u c
  simp only [State.teamUnits, hq]
/-- A path's change of its thread stands in the core's table of groups. -/
theorem State.mem_groups_onThread (s : State) (c g i : Nat) (f : Thread → Thread) :
    (g, (s.group c g).onPath i fun p => { p with th := f p.th }) ∈ ((s.onThread (.path c g i) f).core c).groups.cells := by
  rw [State.onThread_path, State.onGroup, State.core_onCore_same]
  exact mem_putCell_self
/-- A unit of a team is one of the units of its team once its thread has been written. -/
theorem State.mem_teamUnits_onThread (s : State) {u : UnitId} (hu : ∀ l p, u ≠ .lant l p) (f : Thread → Thread) :
    u ∈ (s.onThread u f).teamUnits u.place (s.teamSlot u) := by
  rw [State.mem_teamUnits]
  cases u with
  | path c g i => exact .inr ⟨_, State.mem_groups_onThread s c g i f, rfl, _, mem_putCell_self, rfl⟩
  | seq c k => exact .inl rfl
  | lant l p => exact absurd rfl (hu l p)

theorem State.core_onThread_path (s : State) (c g i c' : Nat) (f : Thread → Thread) :
    (s.onThread (.path c g i) f).core c' = if c' = c then { s.core c with
      groups := (s.core c).groups.put g ((s.group c g).onPath i fun p => { p with th := f p.th }) } else s.core c' := by
  rw [State.onThread_path, State.onGroup, State.core_onCore]
  rfl
/-- A test of every group's place in a team, its role and its lanes comes out as before a path's change of its thread. -/
theorem State.allGroups_onThread (s : State) (u : UnitId) (f : Thread → Thread) (c : Nat) {P : Nat × Group → Bool}
    (hP : ∀ g k i (h : Path → Path), P (g, k.onPath i h) = P (g, k)) (hnone : ∀ g, P (g, .none) = true) :
    ((s.onThread u f).core c).groups.cells.all P = (s.core c).groups.cells.all P := by
  cases u with
  | path c' g i =>
    rw [State.core_onThread_path]
    split
    · next h =>
      subst h
      exact Tab.all_put (hP g _ i _) (hnone g)
    · rfl
  | seq c' k =>
    rw [State.onThread, State.onTeam, State.core_onCore]
    split
    · next h => rw [h]
    · rfl
  | lant l p => rfl
theorem State.evicted_onThread (s : State) (u : UnitId) (f : Thread → Thread) (c : Nat) :
    ((s.onThread u f).core c).evicted = (s.core c).evicted := by
  cases u with
  | path c' g i =>
    rw [State.core_onThread_path]
    split
    · next h => rw [h]
    · rfl
  | seq c' k =>
    rw [State.onThread, State.onTeam, State.core_onCore]
    split
    · next h => rw [h]
    · rfl
  | lant l p => rfl

theorem State.barFull_waitIn (s : State) (u : UnitId) (w : Wait) (c k n : Nat) : (s.waitIn u w).barFull c k n = s.barFull c k n := by
  obtain ⟨q, hq⟩ := State.core_leave (s.onThread u fun t => { t with state := .waiting, wait := some w }) u c
  have hown := State.own_onThread s u fun t => { t with state := .waiting, wait := some w }
  have hbar : ((s.waitIn u w).team c k).bar n = (s.team c k).bar n := by
    rw [State.waitIn, State.team_leave, Team.bar, hown.bars c k]
    rfl
  have hend : ((s.waitIn u w).team c k).seqExited = (s.team c k).seqExited := by
    rw [State.waitIn, State.team_leave]
    by_cases hu : u = .seq c k
    · rw [hown.apart.team c k hu]
    · rw [hown.apart.teams c k hu]
  simp only [State.barFull, hbar, hend]
  rw [State.waitIn, hq]
  dsimp only
  rw [State.evicted_onThread]
  cases ((s.team c k).bar n).set with
  | none => rfl
  | some part =>
    dsimp only
    rw [State.allGroups_onThread s u _ c (fun _ _ _ _ => rfl) fun g => by simp [Group.live, Group.none]]

end Sys2Proof.Machine

namespace Sys2Proof.Machine

variable {s : State}

/-! BAR (spec/05 R120, spec/08 R200). -/

/-- The barrier once unit `u` with lanes `m` has arrived for the participant set `part`. -/
def Barrier.arrive (b : Barrier) (u : UnitId) (m : Dword) (part : Nat) : Barrier :=
  { b with
    set := some part
    arrived := match u with
      | .path _ g _ => b.arrived.put g (b.arrived.get g 0 ||| m)
      | _ => b.arrived
    seq := b.seq || !u.isPath }
/-- Is the unit of the participant set that a BAR names? -/
def State.inside (s : State) (u : UnitId) (x : BarX) : Bool := if u.isPath then x.roles.getLsbD (s.groupOf u).role else x.seq

theorem State.barCount_eq {u : UnitId} {c k n part : Nat}
    (hset : ((s.team c k).bar n).set = none ∨ ((s.team c k).bar n).set = some part) :
    s.barCount c k n part u = s.onTeam c k fun tm => { tm with bars := tm.bars.put n (((s.team c k).bar n).arrive u (s.maskOf u) part) } := by
  refine State.onTeam_congr ?_
  have hpart : ((s.team c k).bar n).set.getD part = part := by rcases hset with h | h <;> rw [h] <;> rfl
  cases u <;> simp [Barrier.arrive, hpart, UnitId.isPath]

theorem State.teamSlot_onTeam (s : State) (c k : Nat) (u : UnitId) (f : Team → Team) : (s.onTeam c k f).teamSlot u = s.teamSlot u := by
  cases u with
  | path c' g i => exact congrArg Group.team (State.group_onTeam s c g c' k f)
  | seq c' k' => rfl
  | lant l p => rfl

/-- No program of a lantern core issues BAR (spec/08 R200). -/
theorem State.Issues.notLantern {u : UnitId} {f : GA} {x : BarX} (h : s.Issues u (.bar f x)) : ∀ l p, u ≠ .lant l p := by
  rintro l p rfl
  cases h.right

section
variable {u : UnitId} {f : GA} {x : BarX} (h : s.Issues u (.bar f x))
include h

theorem exec_bar_undeclared (hroles : 2 ^ max 1 (s.team u.place (s.teamSlot u)).kernel.roles.length ≤ x.roles.toNat) :
    exec (.bar f x) s = .next ((s.dropOut u none).faultUnit u (fltD 0x23 0)) := by
  rw [exec_bar, execBar, h.next]
  exact congrArg _ (if_pos hroles)

variable (hroles : x.roles.toNat < 2 ^ max 1 (s.team u.place (s.teamSlot u)).kernel.roles.length)
include hroles

/-- Beyond the check of roles. -/
theorem exec_bar_declared : exec (.bar f x) s = .next (
    let s' := s.dropOut u none
    let b := (s.team u.place (s.teamSlot u)).bar f.b.toNat
    if !s.inside u x || (b.set.any fun p => p != barPart x) then s'.faultUnit u (fltD 0x2C f.b.toNat)
    else if b.has u (s'.maskOf u) then s'.waitIn u { instr := .bar f x, lo := b.phase + 1 }
    else ((s'.barCount u.place (s.teamSlot u) f.b.toNat (barPart x) u).waitIn u { instr := .bar f x, lo := b.phase }).barTry
      u.place (s.teamSlot u) f.b.toNat) := by
  rw [exec_bar, execBar, h.next]
  refine congrArg _ ((if_neg (Nat.not_le.mpr hroles)).trans ?_)
  cases u <;> rfl
theorem exec_bar_mismatch (hbad : s.inside u x = false ∨ ∃ p, ((s.team u.place (s.teamSlot u)).bar f.b.toNat).set = some p ∧ p ≠ barPart x) :
    exec (.bar f x) s = .next ((s.dropOut u none).faultUnit u (fltD 0x2C f.b.toNat)) := by
  rw [exec_bar_declared h hroles]
  refine congrArg _ (if_pos ?_)
  rcases hbad with hin | ⟨p, hset, hne⟩
  · simp [hin]
  · simp [hset, hne]
/-- A first arrival, with nobody out of place: the unit waits at the barrier as it then is, if the phase does not complete. -/
theorem exec_bar_arrives {b : Barrier} (hb : ((s.dropOut u none).team u.place (s.teamSlot u)).bar f.b.toNat = b) (hin : s.inside u x = true)
    (hset : b.set = none ∨ b.set = some (barPart x)) (hnew : b.has u (s.maskOf u) = false) :
    exec (.bar f x) s = .next (((((s.dropOut u none).onTeam u.place (s.teamSlot u) fun tm =>
      { tm with bars := tm.bars.put f.b.toNat (b.arrive u (s.maskOf u) (barPart x)) }).waitIn u { instr := .bar f x, lo := b.phase })).barTry
        u.place (s.teamSlot u) f.b.toNat) := by
  have hbs : (s.team u.place (s.teamSlot u)).bar f.b.toNat = b := by rw [← hb, State.team_dropOut]
  have hsame : (b.set.any fun p => p != barPart x) = false := by rcases hset with hs | hs <;> rw [hs] <;> simp
  rw [exec_bar_declared h hroles]
  dsimp only
  rw [hbs, hin, hsame, State.barCount_eq (by rw [hb]; exact hset), hb, State.mask_dropOut_self, hnew]
  rfl

end

section
variable {u : UnitId} {f : GA} {x : BarX} {a : State}

/-- The arrival that completes the set: the phase advances and the unit goes on. -/
theorem State.barTry_waitIn_full (hu : ∀ l p, u ≠ .lant l p) {w : Wait} {n : Nat} (hi : w.instr = .bar f x) (hn : f.b.toNat = n)
    (hlo : w.lo = ((a.team u.place (a.teamSlot u)).bar n).phase) (hfull : a.barFull u.place (a.teamSlot u) n = true) :
    let t := (a.waitIn u w).barTry u.place (a.teamSlot u) n
    ((t.team u.place (a.teamSlot u)).bar n).phase = ((a.team u.place (a.teamSlot u)).bar n).phase + 1 ∧
      (t.thread u).state = .ready ∧ (t.thread u).pc = (a.thread u).pc + 8 := by
  have hgoes : (a.waitIn u w).barTry u.place (a.teamSlot u) n = (a.waitIn u w).barDepart u.place (a.teamSlot u) n :=
    if_pos ((State.barFull_waitIn a u w _ _ n).trans hfull)
  have hbar : ((a.waitIn u w).team u.place (a.teamSlot u)).bar n = (a.team u.place (a.teamSlot u)).bar n := by
    rw [Team.bar, (State.waitsIn a u w).own.bars]
    rfl
  have hmem : u ∈ (a.waitIn u w).teamUnits u.place (a.teamSlot u) := by
    rw [State.waitIn, State.teamUnits_leave]
    exact State.mem_teamUnits_onThread a hu _
  have hstate : ((a.waitIn u w).thread u).state = .waiting := by rw [State.thread_waitIn]
  have hwait : ((a.waitIn u w).thread u).wait = some w := by rw [State.thread_waitIn]
  have hthread := State.thread_barDepart hmem hstate hwait hi hn (by rw [hbar, hlo])
  rw [(State.waitsIn a u w).pc] at hthread
  dsimp only
  rw [hgoes, State.phase_barDepart, hbar]
  exact ⟨rfl, hthread⟩

end

end Sys2Proof.Machine

namespace Sys2Proof.Machine

variable {s t : State}

/-! The resident teams of a grid (spec/14 R320): they stand in the cores' tables, which accesses to memory and waits leave. -/

theorem State.mem_gridTeams {s : State} {gid : Nat} {x : Nat × Nat} : x ∈ s.gridTeams gid ↔
    ∃ c ∈ s.cores.cells, ∃ m ∈ c.2.teams.cells, m.2.grid = gid ∧ x = (c.1, m.1) := by
  simp only [State.gridTeams, List.mem_flatMap, List.mem_map, List.mem_filter, beq_iff_eq, and_assoc, eq_comm (a := x)]

/-- Every resident team of `t` is one of `s`. -/
def State.TeamsWithin (s t : State) : Prop := ∀ gid, ∀ x ∈ t.gridTeams gid, x ∈ s.gridTeams gid

theorem State.TeamsWithin.refl (s : State) : s.TeamsWithin s := fun _ _ hx => hx
theorem State.TeamsWithin.trans {r : State} (h : s.TeamsWithin t) (k : t.TeamsWithin r) : s.TeamsWithin r :=
  fun gid x hx => h gid x (k gid x hx)
theorem State.teamsWithin_of_cores (h : t.cores = s.cores) : s.TeamsWithin t := fun gid x hx => by
  rw [State.gridTeams, h] at hx
  exact hx
/-- What is not the default of its place stands in the table. -/
theorem Tab.get_mem {α : Type} {t : Tab α} {k : Nat} {d : α} (h : t.get k d ≠ d) : (k, t.get k d) ∈ t.cells := by
  rw [Tab.get, Tab.find] at h ⊢
  cases hf : findCell k t.cells with
  | none =>
    rw [hf] at h
    exact absurd rfl h
  | some a => exact mem_of_findCell hf
theorem State.core_mem {c : Nat} {m : Nat × Team} (h : m ∈ (s.core c).teams.cells) : (c, s.core c) ∈ s.cores.cells := by
  refine Tab.get_mem fun hnone => ?_
  rw [State.core, hnone] at h
  cases h
theorem State.group_mem {c g : Nat} {p : Nat × Path} (h : p ∈ (s.group c g).paths.cells) : (g, s.group c g) ∈ (s.core c).groups.cells := by
  refine Tab.get_mem fun hnone => ?_
  rw [State.group, hnone] at h
  cases h
theorem State.teamsWithin_onCore {c : Nat} {f : Core → Core} (hf : (f (s.core c)).teams = (s.core c).teams) : s.TeamsWithin (s.onCore c f) := by
  intro gid x hx
  obtain ⟨d, hd, m, hm, hgid, rfl⟩ := State.mem_gridTeams.mp hx
  rcases putCell_mem_cases hd with rfl | hin
  · have hm' : m ∈ (s.core c).teams.cells := by
      rw [← hf]
      exact hm
    exact State.mem_gridTeams.mpr ⟨_, State.core_mem hm', m, hm', hgid, rfl⟩
  · exact State.mem_gridTeams.mpr ⟨d, hin, m, hm, hgid, rfl⟩
theorem State.teamsWithin_onCaches (s : State) (n : Nat) (f : Caches → Caches) : s.TeamsWithin (s.onCaches n f) := by
  unfold State.onCaches
  split
  · exact State.teamsWithin_onCore rfl
  · split
    · exact State.teamsWithin_of_cores rfl
    · exact .refl s
theorem State.HomeOnly.teamsWithin (h : s.HomeOnly t) : s.TeamsWithin t := State.teamsWithin_of_cores (by rw [h])
theorem State.teamsWithin_foldl {β : Type} (f : State → β → State) (l : List β) (s : State) (hf : ∀ (s : State) b, s.TeamsWithin (f s b)) :
    s.TeamsWithin (l.foldl f s) := by
  induction l generalizing s with
  | nil => exact .refl s
  | cons b r ih => exact (hf s b).trans (ih (f s b))
theorem State.teamsWithin_drainIds (s : State) (n : Nat) (ids : List Nat) : s.TeamsWithin (s.drainIds n ids) := by
  unfold State.drainIds
  dsimp only
  split
  · exact .refl s
  · exact (State.teamsWithin_onCaches s n _).trans
      (State.teamsWithin_foldl _ _ _ fun s w => (State.homeOnly_performWrite s _ w).teamsWithin)
theorem State.teamsWithin_fenced (s : State) (u : UnitId) : s.TeamsWithin (s.fenced u) := by
  have hstep (ids : List Nat) (f : Caches → Caches) : s.TeamsWithin ((s.drainIds u.node ids).onCaches u.node f) :=
    (State.teamsWithin_drainIds s _ _).trans (State.teamsWithin_onCaches _ _ _)
  unfold State.fenced
  dsimp only
  split
  · exact .refl s
  · split
    · exact (hstep _ _).trans (State.homeOnly_settleMirror _).teamsWithin
    · exact hstep _ _
theorem State.teamsWithin_release (s : State) (u : UnitId) (scope : Nat) : s.TeamsWithin (s.release u scope) := by
  unfold State.release
  dsimp only
  split
  · exact .refl s
  · have h := (State.teamsWithin_fenced s u).trans
      (State.teamsWithin_drainIds (s.fenced u) u.node (((s.fenced u).caches u.node).owed ((s.fenced u).whoOf u) scope))
    split
    · exact h
    · exact h.trans (State.homeOnly_settleMirror _).teamsWithin

/-! A core whose entry has been written stands where the next write of it goes. -/

/-- Writing core `c`'s entry again changes no place of the table of cores. -/
def State.InPlace (s : State) (c : Nat) : Prop := s.cores.put c (s.core c) = s.cores

theorem State.inPlace_onCore (s : State) (c : Nat) (f : Core → Core) : (s.onCore c f).InPlace c := by
  rw [State.InPlace, State.core_onCore_same]
  exact Tab.put_put s.cores c _ _
theorem flatMap_putCell {α β : Type} {F : Nat × α → List β} {k : Nat} {a b : α} (h : F (k, a) = F (k, b)) (l : List (Nat × α)) :
    (putCell k a l).flatMap F = (putCell k b l).flatMap F := by
  induction l with
  | nil => simp [putCell, h]
  | cons c r ih =>
    rw [putCell, putCell]
    split
    · simp [h]
    · split
      · simp [h]
      · simp [ih]
theorem State.gridTeams_onCore {c : Nat} {f : Core → Core} (hp : s.InPlace c) (hf : (f (s.core c)).teams = (s.core c).teams) (gid : Nat) :
    (s.onCore c f).gridTeams gid = s.gridTeams gid := by
  conv_rhs => rw [State.gridTeams, ← hp]
  exact flatMap_putCell (by rw [hf]) s.cores.cells

/-! A path that begins to wait, as a change of its core and of the turn. -/

/-- The core in which path `i` of group `g` waits, its quadrant free. -/
def Core.pathWaits (k : Core) (c g i : Nat) (w : Wait) : Core :=
  { k with
    groups := k.groups.put g ((k.groups.get g .none).onPath i fun p => { p with th := { p.th with state := .waiting, wait := some w } })
    quads := if (k.quads.get (g % 4) .none).current = some (.path c g i) then k.quads.put (g % 4) (k.quads.get (g % 4) .none).idle
      else k.quads }
/-- The machine with the turn of unit `u`, if it has one, over. -/
def State.turnOver (s : State) (u : UnitId) : State := { s with turn := if s.turn = some u then none else s.turn }

theorem State.dropTurn_eq (s : State) (u : UnitId) : s.dropTurn u = s.turnOver u := by
  unfold State.dropTurn State.turnOver
  split <;> rfl
theorem State.onCore_turnOver (s : State) (u : UnitId) (c : Nat) (f : Core → Core) : (s.turnOver u).onCore c f = (s.onCore c f).turnOver u := rfl
theorem State.onCore_congr {c : Nat} {f h : Core → Core} (hf : f (s.core c) = h (s.core c)) : s.onCore c f = s.onCore c h :=
  congrArg (fun k => { s with cores := s.cores.put c k }) hf

theorem State.freeQuad_chosen {c g i : Nat} (h : ((s.core c).quads.get (g % 4) .none).current = some (.path c g i)) :
    s.freeQuad (.path c g i) = s.onCore c fun k => { k with quads := k.quads.put (g % 4) (k.quads.get (g % 4) .none).idle } := if_pos h
theorem State.freeQuad_other {c g i : Nat} (h : ((s.core c).quads.get (g % 4) .none).current ≠ some (.path c g i)) :
    s.freeQuad (.path c g i) = s := if_neg h
theorem State.onThread_onCore (s : State) (c g i : Nat) (f : Thread → Thread) : s.onThread (.path c g i) f =
    s.onCore c fun k => { k with groups := k.groups.put g ((k.groups.get g .none).onPath i fun p => { p with th := f p.th }) } := rfl

theorem State.waitIn_path (s : State) (c g i : Nat) (w : Wait) :
    s.waitIn (.path c g i) w = (s.onCore c fun k => k.pathWaits c g i w).turnOver (.path c g i) := by
  have hquads (f : Thread → Thread) : (((s.onThread (.path c g i) f).turnOver (.path c g i)).core c).quads = (s.core c).quads := by
    rw [State.onThread_onCore, ← State.onCore_turnOver, State.core_onCore_same]
    rfl
  rw [State.waitIn, State.leave, State.dropTurn_eq]
  by_cases hcur : ((s.core c).quads.get (g % 4) .none).current = some (.path c g i)
  · rw [State.freeQuad_chosen (by rw [hquads]; exact hcur), State.onCore_turnOver, State.onThread_onCore, State.onCore_onCore]
    refine congrArg (fun z : State => z.turnOver _) (State.onCore_congr ?_)
    simp only [Core.pathWaits, if_pos hcur]
  · rw [State.freeQuad_other (by rw [hquads]; exact hcur), State.onThread_onCore]
    refine congrArg (fun z : State => z.turnOver _) (State.onCore_congr ?_)
    simp only [Core.pathWaits]
    rw [if_neg hcur]

section
variable (s : State) (c g i : Nat) (w : Wait)

theorem State.gridTeams_waitIn (hp : s.InPlace c) (gid : Nat) : (s.waitIn (.path c g i) w).gridTeams gid = s.gridTeams gid := by
  rw [State.waitIn_path]
  exact State.gridTeams_onCore (f := fun k => k.pathWaits c g i w) hp rfl gid
theorem State.team_waitIn (c' k : Nat) : (s.waitIn (.path c g i) w).team c' k = s.team c' k :=
  (State.waitsIn s (.path c g i) w).own.apart.teams c' k nofun
theorem State.grids_waitIn : (s.waitIn (.path c g i) w).grids = s.grids := by rw [State.waitIn_path]; rfl
theorem State.teamSynced_waitIn (c' k : Nat) : (s.waitIn (.path c g i) w).teamSynced c' k = s.teamSynced c' k := by
  have hcore : (s.waitIn (.path c g i) w).core c' = if c' = c then (s.core c).pathWaits c g i w else s.core c' := by
    rw [State.waitIn_path]
    exact State.core_onCore s c c' fun k => k.pathWaits c g i w
  simp only [State.teamSynced, State.team_waitIn, hcore]
  split
  · next h =>
    subst h
    exact congrArg (!((s.core c').evicted.any _) && ·) (Tab.all_put rfl (by simp [Group.live, Group.none]))
  · rfl
theorem State.gridSynced_waitIn (hp : s.InPlace c) (gid : Nat) : (s.waitIn (.path c g i) w).gridSynced gid = s.gridSynced gid := by
  simp only [State.gridSynced, State.gridTeams_waitIn s c g i w hp, State.team_waitIn, State.teamSynced_waitIn, State.grid, State.grids_waitIn]
/-- The units of a team are those that it had, and the path. -/
theorem State.teamUnits_waitIn {v : UnitId} {k : Nat} (hk : (s.group c g).team = k) (hv : v ∈ (s.waitIn (.path c g i) w).teamUnits c k) :
    v ∈ s.teamUnits c k ∨ v = .path c g i := by
  have hcore : (s.waitIn (.path c g i) w).core c = (s.core c).pathWaits c g i w := by
    rw [State.waitIn_path]
    exact State.core_onCore_same s c fun k => k.pathWaits c g i w
  rcases State.mem_teamUnits.mp hv with hseq | ⟨d, hd, hteam, p, hp, rfl⟩
  · exact .inl (State.mem_teamUnits.mpr (.inl hseq))
  · rw [hcore] at hd
    rcases putCell_mem_cases hd with rfl | hin
    · rcases putCell_mem_cases hp with rfl | hpin
      · exact .inr rfl
      · exact .inl (State.mem_teamUnits.mpr (.inr ⟨_, State.group_mem hpin, hk, p, hpin, rfl⟩))
    · exact .inl (State.mem_teamUnits.mpr (.inr ⟨d, hin, hteam, p, hp, rfl⟩))

end

/-! A phase of a cooperative grid completes (spec/14 R320). -/

/-- Steps over copies of one element come to one step, where a second changes nothing. -/
theorem foldl_copies {σ β : Type} {f : σ → β → σ} {b : β} (hidem : ∀ s, f (f s b) b = f s b) {l : List β} (hl : l ≠ [])
    (hall : ∀ x ∈ l, x = b) (s : σ) : l.foldl f s = f s b := by
  cases l with
  | nil => exact absurd rfl hl
  | cons a r =>
    rw [List.foldl_cons, hall a (.head r)]
    have hrest : ∀ r' : List β, (∀ x ∈ r', x = b) → r'.foldl f (f s b) = f s b := by
      intro r' hr'
      induction r' with
      | nil => rfl
      | cons a' r' ih =>
        rw [List.foldl_cons, hr' a' (.head r'), hidem]
        exact ih fun x hx => hr' x (.tail a' hx)
    exact hrest r fun x hx => hall x (.tail a hx)

theorem State.onTeam_onTeam (s : State) (c k : Nat) (f h : Team → Team) :
    (s.onTeam c k f).onTeam c k h = s.onTeam c k fun m => h (f m) := by
  rw [State.onTeam, State.onTeam, State.onCore_onCore]
  simp [State.onTeam, Tab.put_put]

/-- A path departs from GRIDSYNC, if it waits there, as from an acquire at device scope. -/
def State.leavesGrid (s : State) (u : UnitId) : State := match (s.thread u).waiting with
  | some i => (s.acquire u.node 4).doneG u i
  | none => s

theorem State.leavesGrid_waiting {u : UnitId} {i : Instr} (h : (s.thread u).waiting = some i) :
    s.leavesGrid u = (s.acquire u.node 4).doneG u i := by
  rw [State.leavesGrid, h]
theorem State.leavesGrid_idle {u : UnitId} (h : (s.thread u).waiting = none) : s.leavesGrid u = s := by
  rw [State.leavesGrid, h]
theorem State.leavesGrid_leavesGrid (s : State) (u : UnitId) : (s.leavesGrid u).leavesGrid u = s.leavesGrid u := by
  cases h : (s.thread u).waiting with
  | none => rw [State.leavesGrid_idle h, State.leavesGrid_idle h]
  | some i =>
    refine State.leavesGrid_idle ?_
    rw [State.leavesGrid_waiting h, Thread.waiting, State.wait_doneG, Option.map_none, ite_self]

/-- The units of the grid's resident teams that wait in GRIDSYNC. -/
def State.gridWaiters (s : State) (gid : Nat) : List UnitId :=
  ((s.gridTeams gid).flatMap fun x => s.teamUnits x.1 x.2).filter fun u => match (s.thread u).waiting with
    | some (.gridsync _) => true
    | _ => false
/-- Resident teams `ts` have no arrivals, and the grid is at its next phase. -/
def State.nextPhase (s : State) (gid : Nat) (ts : List (Nat × Nat)) : State :=
  let q := ts.foldl (fun s x => s.onTeam x.1 x.2 fun t => { t with gridArrived := .empty }) s
  { q with grids := q.grids.put gid { q.grid gid with syncPhase := (q.grid gid).syncPhase + 1 } }

theorem State.gridDepart_eq (s : State) (gid : Nat) :
    s.gridDepart gid = (s.gridWaiters gid).foldl State.leavesGrid (s.nextPhase gid (s.gridTeams gid)) := rfl
theorem State.mem_gridWaiters {gid : Nat} {v : UnitId} : v ∈ s.gridWaiters gid ↔
    (∃ x ∈ s.gridTeams gid, v ∈ s.teamUnits x.1 x.2) ∧ ∃ f, (s.thread v).waiting = some (.gridsync f) := by
  rw [State.gridWaiters, List.mem_filter, List.mem_flatMap]
  refine and_congr_right fun _ => ?_
  split
  · next f hf => exact iff_of_true rfl ⟨f, hf⟩
  · next hno => exact iff_of_false nofun fun ⟨f, hf⟩ => hno f hf

/-- What the completion of a phase changes besides the paths that depart: the team's arrivals, the grid's phase, and an acquire at device
scope. -/
def State.phaseOver (s : State) (c k gid : Nat) : State := (s.nextPhase gid [(c, k)]).acquire c 4

section
variable {c g i k gid : Nat} {f : GA}

theorem State.nextPhase_copies {ts : List (Nat × Nat)} (hts : ∀ x ∈ ts, x = (c, k)) (hne : ts ≠ []) :
    s.nextPhase gid ts = s.nextPhase gid [(c, k)] := by
  have hfold := foldl_copies (f := fun (s : State) (x : Nat × Nat) => s.onTeam x.1 x.2 fun t => { t with gridArrived := .empty })
    (fun s => State.onTeam_onTeam s c k _ _) hne hts s
  rw [State.nextPhase, hfold]
  rfl
theorem State.thread_nextPhase (s : State) (c k gid : Nat) (u : UnitId) : (s.nextPhase gid [(c, k)]).thread u = s.thread u :=
  (show (s.nextPhase gid [(c, k)]).thread u = (s.onTeam c k fun t => { t with gridArrived := .empty }).thread u by cases u <;> rfl).trans
    (State.thread_onTeam rfl u)

/-- One team, of which one path waits in GRIDSYNC and the sequencer does not. -/
theorem State.gridDepart_alone (hts : ∀ x ∈ s.gridTeams gid, x = (c, k)) (hne : s.gridTeams gid ≠ [])
    (hunits : ∀ v ∈ s.teamUnits c k, v = .seq c k ∨ v = .path c g i) (hmem : .path c g i ∈ s.teamUnits c k)
    (hseq : (s.thread (.seq c k)).waiting = none) (hu : (s.thread (.path c g i)).waiting = some (.gridsync f)) :
    s.gridDepart gid = (s.phaseOver c k gid).doneG (.path c g i) (.gridsync f) := by
  have hall : ∀ v ∈ s.gridWaiters gid, v = .path c g i := by
    intro v hv
    obtain ⟨⟨x, hx, hvx⟩, f', hf'⟩ := State.mem_gridWaiters.mp hv
    rw [hts x hx] at hvx
    refine (hunits v hvx).resolve_left fun hv' => ?_
    rw [hv', hseq] at hf'
    cases hf'
  have hself : .path c g i ∈ s.gridWaiters gid := by
    obtain ⟨x, hx⟩ := List.exists_mem_of_ne_nil _ hne
    exact State.mem_gridWaiters.mpr ⟨⟨x, hx, by rw [hts x hx]; exact hmem⟩, f, hu⟩
  rw [State.gridDepart_eq, foldl_copies (State.leavesGrid_leavesGrid · _) (List.ne_nil_of_mem hself) hall, State.nextPhase_copies hts hne]
  exact State.leavesGrid_waiting (by rw [State.thread_nextPhase, hu])

end

end Sys2Proof.Machine

namespace Sys2Proof.Machine

variable {s t : State}

/-! GRIDSYNC by a path (spec/14 R320). -/

/-- An instruction in which its unit has waited is done as it would be without the wait. -/
theorem State.plainDone_waitIn (s : State) (u : UnitId) (w : Wait) (i : Instr) : s.PlainDone ((s.waitIn u w).doneG u i) u i false := by
  obtain ⟨hown, hsees⟩ := State.plainDoneG (s.waitIn u w) u i
  have hw := State.waitsIn s u w
  have hth := State.thread_waitIn s u w
  have hends : (s.waitIn u w).endsWith u i = s.endsWith u i := by rw [State.endsWith, State.endsWith, hw.run]
  refine ⟨hw.own.trans hown, hsees.passed.of_thread (by rw [hth]) (by rw [hw.run]), ?_, fun r => (hsees.scalars r).trans (hw.seen.1 r),
    fun l r hl => (hsees.lanes l r hl).trans (hw.seen.2 l r), fun hu l => (hsees.binds hu l).trans ?_, fun he => ?_, fun he => ?_⟩
  · rw [hsees.flags, State.flagsSeen, State.flagsSeen, hw.run, State.waitIn, State.groupOf_leave, State.xflags_onThread]
  · exact State.bindOf_congr (by rw [hw.run]) (by rw [State.waitIn, State.groupOf_leave, State.binds_onThread]) l
  · rw [hsees.lat (hends.trans he), hw.run]
  · rw [hsees.ulat (hends.trans he), hw.run]

section
variable (s : State) (c g i k gid : Nat) (w : Wait)

/-- Changes of a core that touch different parts of it may come in either order. -/
theorem State.onCore_comm {f h : Core → Core} (hc : ∀ q, f (h q) = h (f q)) : (s.onCore c f).onCore c h = (s.onCore c h).onCore c f := by
  rw [State.onCore_onCore, State.onCore_onCore]
  exact State.onCore_congr (hc _).symm
theorem State.onTeam_waitIn (f : Team → Team) : (s.waitIn (.path c g i) w).onTeam c k f = (s.onTeam c k f).waitIn (.path c g i) w := by
  rw [State.waitIn_path, State.waitIn_path, State.onTeam, State.onTeam, State.onCore_turnOver]
  exact congrArg (fun z : State => z.turnOver _) (State.onCore_comm s c fun _ => rfl)
theorem State.onCaches_waitIn (f : Caches → Caches) :
    (s.waitIn (.path c g i) w).onCaches c f = (s.onCaches c f).waitIn (.path c g i) w := by
  rw [State.waitIn_path, State.waitIn_path]
  unfold State.onCaches
  split
  · rw [State.onCore_turnOver]
    exact congrArg (fun z : State => z.turnOver _) (State.onCore_comm s c fun _ => rfl)
  · split <;> rfl
theorem State.phaseOver_waitIn : (s.waitIn (.path c g i) w).phaseOver c k gid = (s.phaseOver c k gid).waitIn (.path c g i) w := by
  have hphase : (s.waitIn (.path c g i) w).nextPhase gid [(c, k)] = (s.nextPhase gid [(c, k)]).waitIn (.path c g i) w := by
    simp only [State.nextPhase, List.foldl_cons, List.foldl_nil, State.onTeam_waitIn]
    rw [State.waitIn_path, State.waitIn_path]
    rfl
  rw [State.phaseOver, hphase]
  exact State.onCaches_waitIn _ c g i w Caches.noLines

end

/-- The path's lanes have arrived at its grid's barrier, after a release at device scope. -/
def State.gridArrives (s : State) (c g i : Nat) : State :=
  (s.release (.path c g i) 4).onTeamOf (.path c g i) fun t =>
    { t with gridArrived := t.gridArrived.put g (t.gridArrived.get g 0 ||| s.maskOf (.path c g i)) }

section
variable {c g i gid : Nat} {f : GA} (h : s.Issues (.path c g i) (.gridsync f)) (hgid : s.gridOf (.path c g i) = gid)
include h hgid

theorem exec_gridsync_alone (hcoop : (s.grid gid).coop = false) :
    exec (.gridsync f) s = .next (s.faultUnit (.path c g i) (fltD 0x23 0)) := by
  subst hgid
  rw [exec_gridsync, execGridsync, h.next]
  exact congrArg _ (if_pos (by rw [hcoop]; rfl))
theorem exec_gridsync_coop (hcoop : (s.grid gid).coop = true) : ∃ w : Wait, w.instr = .gridsync f ∧
    exec (.gridsync f) s = .next (((s.gridArrives c g i).waitIn (.path c g i) w).gridTry gid) := by
  subst hgid
  refine ⟨{ instr := .gridsync f, lo := ((s.gridArrives c g i).grid (s.gridOf (.path c g i))).syncPhase }, rfl, ?_⟩
  rw [exec_gridsync, execGridsync, h.next]
  refine congrArg _ ((if_neg (by rw [hcoop]; nofun)).trans ?_)
  dsimp only
  rw [(State.memoryOnly_release s (.path c g i) 4).mask]
  rfl

end

/-! The path's arrival, and the phase that it may complete. -/

theorem State.gridSynced_teams {gid : Nat} (h : s.gridSynced gid = true) : s.gridTeams gid ≠ [] := by
  intro hnone
  simp [State.gridSynced, hnone] at h
theorem State.mem_gridTeams_onTeam {c k gid : Nat} {f : Team → Team} {x : Nat × Nat} (hx : x ∈ (s.onTeam c k f).gridTeams gid) :
    x = (c, k) ∨ x ∈ s.gridTeams gid := by
  obtain ⟨d, hd, m, hm, hgid, rfl⟩ := State.mem_gridTeams.mp hx
  rcases putCell_mem_cases hd with rfl | hin
  · rcases putCell_mem_cases hm with rfl | hmin
    · exact .inl rfl
    · exact .inr (State.mem_gridTeams.mpr ⟨_, State.core_mem hmin, m, hmin, hgid, rfl⟩)
  · exact .inr (State.mem_gridTeams.mpr ⟨d, hin, m, hm, hgid, rfl⟩)

section
variable (s : State) (c g i : Nat)

theorem State.gridArrives_eq : s.gridArrives c g i = (s.release (.path c g i) 4).onTeam c (s.teamSlot (.path c g i)) fun t =>
    { t with gridArrived := t.gridArrived.put g (t.gridArrived.get g 0 ||| s.maskOf (.path c g i)) } := by
  rw [State.gridArrives, State.onTeamOf, (State.memoryOnly_release s (.path c g i) 4).teamSlot]
  rfl
theorem State.inPlace_gridArrives : (s.gridArrives c g i).InPlace c := by
  rw [State.gridArrives_eq]
  exact State.inPlace_onCore _ c _
theorem State.thread_gridArrives (v : UnitId) : (s.gridArrives c g i).thread v = s.thread v := by
  rw [State.gridArrives_eq, State.thread_onTeam rfl, (State.memoryOnly_release s (.path c g i) 4).thread]
theorem State.teamSlot_gridArrives : (s.gridArrives c g i).teamSlot (.path c g i) = s.teamSlot (.path c g i) := by
  rw [State.gridArrives_eq, State.teamSlot_onTeam, (State.memoryOnly_release s (.path c g i) 4).teamSlot]
theorem State.teamUnits_gridArrives (k : Nat) : (s.gridArrives c g i).teamUnits c k = s.teamUnits c k := by
  have hgroups : ((s.gridArrives c g i).core c).groups = (s.core c).groups := by
    rw [State.gridArrives_eq, State.onTeam, State.core_onCore_same, (State.memoryOnly_release s (.path c g i) 4).cores c]
  simp only [State.teamUnits, hgroups]
theorem State.mem_gridTeams_gridArrives {gid : Nat} {x : Nat × Nat} (hx : x ∈ (s.gridArrives c g i).gridTeams gid) :
    x = (c, s.teamSlot (.path c g i)) ∨ x ∈ s.gridTeams gid := by
  rw [State.gridArrives_eq] at hx
  exact (State.mem_gridTeams_onTeam hx).imp_right (State.teamsWithin_release s (.path c g i) 4 gid x)

/-- While the phase is not complete the path waits. -/
theorem State.gridTry_waits {gid : Nat} {w : Wait} (hopen : (s.gridArrives c g i).gridSynced gid = false) :
    ((s.gridArrives c g i).waitIn (.path c g i) w).gridTry gid = (s.gridArrives c g i).waitIn (.path c g i) w :=
  if_neg (by rw [State.gridSynced_waitIn _ c g i w (State.inPlace_gridArrives s c g i), hopen]; nofun)

/-- The arrival of a grid's one path for all its live lanes completes the phase, and the path departs. -/
theorem State.gridTry_completes {gid k : Nat} {w : Wait} {f : GA} (hk : s.teamSlot (.path c g i) = k) (hi : w.instr = .gridsync f)
    (hfull : (s.gridArrives c g i).gridSynced gid = true) (hts : s.gridTeams gid = [(c, k)])
    (hunits : s.teamUnits c k = [.seq c k, .path c g i]) (hseq : (s.thread (.seq c k)).waiting = none) :
    ((s.gridArrives c g i).waitIn (.path c g i) w).gridTry gid =
      (((s.gridArrives c g i).phaseOver c k gid).waitIn (.path c g i) w).doneG (.path c g i) (.gridsync f) := by
  have hp := State.inPlace_gridArrives s c g i
  have hw := State.waitsIn (s.gridArrives c g i) (.path c g i) w
  have hsynced := (State.gridSynced_waitIn (s.gridArrives c g i) c g i w hp gid).trans hfull
  have hteam : (s.gridArrives c g i).teamSlot (.path c g i) = k := (State.teamSlot_gridArrives s c g i).trans hk
  rw [State.gridTry, if_pos hsynced, ← State.phaseOver_waitIn]
  refine State.gridDepart_alone (fun x hx => ?teams) (State.gridSynced_teams hsynced) (fun v hv => ?units) ?self ?seq (by rw [hw.waiting, hi])
  case teams =>
    rw [State.gridTeams_waitIn _ c g i w hp] at hx
    rcases State.mem_gridTeams_gridArrives s c g i hx with hx | hx
    · rw [hx, hk]
    · rw [hts] at hx
      exact List.mem_singleton.mp hx
  case units =>
    rcases State.teamUnits_waitIn (s.gridArrives c g i) c g i w hteam hv with hv | hv
    · rw [State.teamUnits_gridArrives, hunits] at hv
      simpa using hv
    · exact .inr hv
  case self =>
    rw [State.waitIn, State.teamUnits_leave, ← hteam]
    exact State.mem_teamUnits_onThread (u := .path c g i) (s.gridArrives c g i) nofun _
  case seq => rw [hw.own.thread_other (v := .seq c k) nofun, State.thread_gridArrives, hseq]

end

/-- What a complete phase says of the grid: every team that is launched is resident or has retired, and every live lane has arrived. -/
theorem State.gridSynced_arrived {gid : Nat} (h : s.gridSynced gid = true) :
    (s.gridTeams gid).length + (s.grid gid).retired = (s.grid gid).total ∧
      ∀ x ∈ s.gridTeams gid, ∀ n ∈ (s.core x.1).groups.cells, n.2.team = x.2 →
        n.2.live &&& ~~~((s.team x.1 x.2).gridArrived.get n.1 0) = 0 := by
  simp only [State.gridSynced, Bool.and_eq_true, beq_iff_eq, List.all_eq_true] at h
  obtain ⟨⟨-, htotal⟩, hteams⟩ := h
  refine ⟨htotal, fun x hx n hn hteam => ?_⟩
  have hsynced := hteams x hx
  simp only [State.teamSynced, Bool.and_eq_true, List.all_eq_true, Bool.or_eq_true, bne_iff_ne, beq_iff_eq] at hsynced
  exact (hsynced.2 n hn).resolve_left fun hne => hne hteam
theorem getLsbD_of_and_not_eq_zero {m r : Dword} (h : m &&& ~~~r = 0) {l : Nat} (hl : l < 64) (hm : m.getLsbD l = true) : r.getLsbD l = true := by
  have hbit := congrArg (BitVec.getLsbD · l) h
  simpa [hl, hm] using hbit

end Sys2Proof.Machine

namespace Sys2Proof.Machine

variable {s t : State}

theorem Thread.waiting_eq_some {th : Thread} {i : Instr} : th.waiting = some i ↔ th.state = .waiting ∧ ∃ w, th.wait = some w ∧ w.instr = i := by
  rw [Thread.waiting]
  split
  · next h => simp [beq_iff_eq.mp h]
  · next h =>
    refine iff_of_false nofun fun hw => h ?_
    rw [hw.1]
    rfl
theorem State.phaseOver_eq (s : State) (c k gid : Nat) : s.phaseOver c k gid =
    ({ s.onTeam c k (fun t => { t with gridArrived := .empty }) with
      grids := s.grids.put gid { s.grid gid with syncPhase := (s.grid gid).syncPhase + 1 } } : State).acquire c 4 := rfl

/-- Settles O26: an arrival is counted and waits, or completes its phase; a phase that completes lets each of those that wait there go on. -/
theorem barriers : Obligations.Barriers := by
  unfold Obligations.Barriers
  refine ⟨?bar, ?phase, ?grid⟩
  case bar =>
    intro s u f x h _ s' c k n b part roles inside arrived a
    refine ⟨fun hroles hin hset hnew => ?arrives, exec_bar_undeclared h, fun hroles hbad => exec_bar_mismatch h hroles ?mismatch⟩
    case mismatch => exact hbad.imp_right fun ⟨p, hset, hne⟩ => ⟨p, by rw [← hset, ← State.team_dropOut s u none], hne⟩
    case arrives =>
      have hhas : b.has u (s.maskOf u) = false := by
        cases u with
        | path c g i => simpa [Barrier.has] using hnew
        | seq c k => exact hnew
        | lant l p => exact hnew
      have hexec : exec (.bar f x) s = .next ((a.waitIn u { instr := .bar f x, lo := b.phase }).barTry c k n) :=
        exec_bar_arrives h hroles rfl hin hset hhas
      refine ⟨fun hfull => ⟨_, hexec, ?_⟩, fun hfull => ⟨_, hexec, ?_⟩⟩
      · rw [State.barTry, State.barFull_waitIn, hfull]
        exact State.waitsIn a u _
      · have hslot : a.teamSlot u = k := (State.teamSlot_onTeam s' c k u _).trans (State.teamSlot_dropOut_self s u none)
        have hphase : ((a.team c k).bar n).phase = b.phase := by rw [State.team_onTeam_same, Team.bar, Tab.get_put_same]
        have hpc : (a.thread u).pc = (s.thread u).pc := by rw [State.thread_onTeam rfl, State.thread_dropOut_self]
        have hdone := State.barTry_waitIn_full (a := a) h.notLantern (w := { instr := .bar f x, lo := b.phase }) rfl rfl
        rw [hslot, hphase, hpc] at hdone
        exact hdone rfl hfull
  case phase =>
    intro s c k n b
    refine ⟨fun hopen => ?_, fun hfull => ⟨s.barDepart c k n, ?_, State.phase_barDepart s c k n, fun u hu f x hwait hn hlo => ?_⟩⟩
    · rw [exec_barrierPhaseComplete, execBarrierPhaseComplete, State.barTry, hopen]
      rfl
    · rw [exec_barrierPhaseComplete, execBarrierPhaseComplete, State.barTry, hfull]
      rfl
    · obtain ⟨hstate, w, hw, hi⟩ := Thread.waiting_eq_some.mp hwait
      rw [hw] at hlo
      obtain ⟨hready, hpc⟩ := State.thread_barDepart hu hstate hw hi hn (Option.some.inj hlo)
      exact ⟨hready, hpc, State.sget_barDepart⟩
  case grid =>
    intro s c g i gid f u r k came alone all hgid
    have hphase (z : State) : z.phaseOver c k gid = all z := State.phaseOver_eq z c k gid
    refine ⟨fun h => exec_gridsync_alone h hgid, fun h hcoop hopen => ?waits, fun h hcoop hall => ?completes, fun hopen => ?stays,
      fun hall hwait => ?ends, fun hfull => ?arrived⟩
    case waits =>
      obtain ⟨w, hi, hexec⟩ := exec_gridsync_coop h hgid hcoop
      refine ⟨_, hexec, ?_⟩
      rw [State.gridTry_waits s c g i hopen, ← hi]
      exact State.waitsIn came u w
    case completes =>
      obtain ⟨hfull, hts, hunits, hseq⟩ := hall
      obtain ⟨w, hi, hexec⟩ := exec_gridsync_coop h hgid hcoop
      refine ⟨_, hexec, ?_⟩
      rw [State.gridTry_completes s c g i rfl hi hfull hts hunits hseq, hphase]
      exact State.plainDone_waitIn (all came) u w (.gridsync f)
    case stays =>
      rw [exec_gridsyncPhaseComplete, execGridsyncPhaseComplete, State.gridTry, hopen]
      rfl
    case ends =>
      obtain ⟨hfull, hts, hunits, hseq⟩ := hall
      refine ⟨_, ?_, State.plainDoneG (all s) u (.gridsync f)⟩
      rw [exec_gridsyncPhaseComplete, execGridsyncPhaseComplete, State.gridTry, if_pos hfull, ← hphase]
      refine congrArg _ (State.gridDepart_alone (fun x hx => ?_) (State.gridSynced_teams hfull) (fun v hv => ?_) ?_ hseq hwait)
      · rw [hts] at hx
        exact List.mem_singleton.mp hx
      · rw [hunits] at hv
        exact (List.mem_cons.mp hv).imp_right List.mem_singleton.mp
      · rw [hunits]
        exact .tail _ (.head _)
    case arrived =>
      obtain ⟨htotal, hlanes⟩ := State.gridSynced_arrived hfull
      exact ⟨htotal, fun x hx n hn hteam l hl hlive => getLsbD_of_and_not_eq_zero (hlanes x hx n hn hteam) hl hlive⟩

end Sys2Proof.Machine

namespace Sys2Proof.Machine

/-- Settles O57: the decoder is run on each word. -/
theorem decodeWords : Obligations.DecodeWords := by
  unfold Obligations.DecodeWords
  decide

end Sys2Proof.Machine

namespace Sys2Proof.Machine

variable {s : State} {u : UnitId} {i : Instr}

/-! Lane operations (spec/09 R206): what each comes to, from the values of its lanes. -/

/-- A statement about the pairs of a list, entry by entry. -/
theorem forall_pair_mem {α β : Type*} {l : List (α × β)} {P : α → β → Prop} (h : ∀ p ∈ l, P p.1 p.2) (a : α) (b : β)
    (hmem : (a, b) ∈ l) : P a b := h _ hmem

theorem Instr.wrongUnit_of_lform (hl : i.units = .lform) (hu : u.isPath = true) : i.wrongUnit u = false := by
  cases u with
  | path c g n => simp [Instr.wrongUnit, hl]
  | seq c k => exact absurd hu Bool.false_ne_true
  | lant l p => exact absurd hu Bool.false_ne_true

/-- A lane instruction with a first-word field that must be 0 and is not, or a reserved modifier, raises reserved-modifier. -/
theorem exec_lform_reserved (hw : hasWord i = true) (hl : i.units = .lform) (ht : s.turn = some u) (hu : u.isPath = true)
    (hbad : i.firstOk = false ∨ ¬ ExtensionCut i (s.thread u).pc ∧ i.extOk = false) : exec i s = .next (s.faultUnit u (fltD 0x22 0)) :=
  exec_fails hw ht (State.preCheck_modifier (Instr.wrongUnit_of_lform hl hu) hbad)
/-- A lane instruction whose modifiers are legal, and one of whose operands is not, raises illegal-operand. -/
theorem exec_lform_illegal (hw : hasWord i = true) (hl : i.units = .lform) (ht : s.turn = some u) (hu : u.isPath = true)
    (hfirst : i.firstOk = true) (hext : i.extOk = true) (hbad : i.opndsOk = false) :
    exec i s = .next (s.faultUnit u (fltD 0x23 0)) :=
  exec_fails hw ht (State.preCheck_operand (Instr.wrongUnit_of_lform hl hu) hfirst (.inr ⟨hext, hbad⟩))

section
variable (h : s.Issues u i) (hl : i.units = .lform) {d : Nat} {k : Bool} {w : Nat}
  {g : State → UnitId → Nat → Dword × BitVec 7} {v : Nat → Dword}
include h hl

/-- A lane operation gives in each lane its value there, with the flags of all lanes. -/
theorem laneOp_gives {fl : Nat → BitVec 7} (hexec : exec i s = laneOp i d k w g s) (hv : ∀ l, g s u l = (v l, fl l)) :
    ∃ t, exec i s = .next t ∧ s.LaneDone t u i d k w v (gather (s.maskOf u) fl) := by
  have hval : (fun l => (g s u l).1) = v := funext fun l => congrArg Prod.fst (hv l)
  have hflag : (fun l => (g s u l).2) = fl := funext fun l => congrArg Prod.snd (hv l)
  rw [hexec, ← hval, ← hflag]
  exact laneOp_done h (h.path hl) d k w g
/-- So does one that also reads its destination, with K = 0. -/
theorem laneAcc_gives {fl : Nat → BitVec 7} (hexec : exec i s = laneAcc i d k w g s) (hk : k = false) (hv : ∀ l, g s u l = (v l, fl l)) :
    ∃ t, exec i s = .next t ∧ s.LaneDone t u i d false w v (gather (s.maskOf u) fl) := by
  have hval : (fun l => (g s u l).1) = v := funext fun l => congrArg Prod.fst (hv l)
  have hflag : (fun l => (g s u l).2) = fl := funext fun l => congrArg Prod.snd (hv l)
  rw [hexec, ← hval, ← hflag, hk]
  exact laneAcc_done h (h.path hl) d w g
theorem laneOp_gives_quiet (hexec : exec i s = laneOp i d k w g s) (hv : ∀ l, g s u l = (v l, 0)) :
    ∃ t, exec i s = .next t ∧ s.LaneDone t u i d k w v 0 := by
  simpa only [gather_zero] using laneOp_gives h hl hexec hv
theorem laneAcc_gives_quiet (hexec : exec i s = laneAcc i d k w g s) (hk : k = false) (hv : ∀ l, g s u l = (v l, 0)) :
    ∃ t, exec i s = .next t ∧ s.LaneDone t u i d false w v 0 := by
  simpa only [gather_zero] using laneAcc_gives h hl hexec hk hv

end

/-! Operands of a width as numbers of that width (spec/07 R165, spec/09 R207). -/

theorem typeW_cases (m : BitVec 3) : typeW m = 32 ∨ typeW m = 64 := by
  rw [typeW_eq]
  split
  · exact .inr rfl
  · exact .inl rfl
theorem typeW_pos (m : BitVec 3) : 1 ≤ typeW m := by
  rcases typeW_cases m with h | h <;> omega

theorem State.srcL_lt (s : State) (u : UnitId) (code l : Nat) {w : Nat} (hw : w = 32 ∨ w = 64) : (s.srcL u code l w).toNat < 2 ^ w := by
  rcases hw with rfl | rfl
  · have hcut (x : Dword) : (x &&& 0xFFFFFFFF).toNat < 2 ^ 32 :=
      (Nat.and_le_right (n := x.toNat) (m := 0xFFFFFFFF)).trans_lt (by decide)
    simp only [State.srcL, if_neg (show ¬ (32 = 64) by decide)]
    split
    · rw [BitVec.toNat_setWidth_of_le (by decide)]
      exact BitVec.isLt _
    · split <;> exact hcut _
  · exact BitVec.isLt _
theorem State.toNat_lane (s : State) (u : UnitId) (code l : Nat) {w : Nat} (hw : w = 32 ∨ w = 64) :
    (s.lane u code l w).toNat = (s.srcL u code l w).toNat := by
  rw [State.lane, BitVec.toNat_setWidth, Nat.mod_eq_of_lt (s.srcL_lt u code l hw)]
theorem setWidth_setWidth_of_lt {x : Dword} {w : Nat} (h : x.toNat < 2 ^ w) : (x.setWidth w).setWidth 64 = x := by
  apply BitVec.eq_of_toNat_eq
  rw [BitVec.toNat_setWidth, BitVec.toNat_setWidth, Nat.mod_eq_of_lt h, Nat.mod_eq_of_lt x.isLt]
theorem State.setWidth_lane (s : State) (u : UnitId) (code l : Nat) {w : Nat} (hw : w = 32 ∨ w = 64) :
    (s.lane u code l w).setWidth 64 = s.srcL u code l w := setWidth_setWidth_of_lt (s.srcL_lt u code l hw)

/-- A number taken modulo 2^w, as a number of width w. -/
theorem atWidth_eq {w : Nat} (hw : w ≤ 64) (n : Nat) : atWidth w n = (BitVec.ofNat w n).setWidth 64 := by
  apply BitVec.eq_of_toNat_eq
  rw [atWidth, BitVec.toNat_setWidth_of_le hw, BitVec.toNat_ofNat, BitVec.toNat_ofNat,
    Nat.mod_eq_of_lt ((Nat.mod_lt _ (by positivity)).trans_le (Nat.pow_le_pow_right Nat.two_pos hw))]

section
variable {w : Nat} (x y : BitVec w)

theorem signed_toNat (hw : 1 ≤ w) : signed w x.toNat = x.toInt := by
  have hpow : 2 ^ w = 2 * 2 ^ (w - 1) := (mul_pow_sub_one (by omega) 2).symm
  rw [BitVec.toInt_eq_toNat_cond, signed, Nat.mod_eq_of_lt x.isLt]
  exact if_congr (by omega) rfl rfl
theorem ofNat_wrapN (w : Nat) (i : Int) : BitVec.ofNat w (wrapN w i) = BitVec.ofInt w i := by
  apply BitVec.eq_of_toNat_eq
  rw [BitVec.toNat_ofNat, BitVec.toNat_ofInt, wrapN]
  exact Nat.mod_eq_of_lt ((Int.toNat_lt' (by positivity)).mpr (Int.emod_lt_of_pos _ (by positivity)))
theorem ofNat_toNat_self : BitVec.ofNat w x.toNat = x := by
  rw [BitVec.ofNat_toNat, BitVec.setWidth_eq]

theorem even_type_iff (m : BitVec 3) : m.toNat % 2 = 0 ↔ m.getLsbD 0 = false := by
  rw [BitVec.getLsbD, Nat.testBit_zero, decide_eq_false_iff_not]
  omega
/-- The order of a type: unsigned for the odd ones, signed for the even ones. -/
theorem intLt_toNat (hw : 1 ≤ w) (m : BitVec 3) : intLt m.toNat w x.toNat y.toNat = if m.getLsbD 0 then x.ult y else x.slt y := by
  rw [intLt, signed_toNat x hw, signed_toNat y hw]
  cases hm : m.getLsbD 0
  · rw [if_pos ((even_type_iff m).mpr hm)]
    rfl
  · rw [if_neg (mt (even_type_iff m).mp (by simp [hm]))]
    rfl
theorem mulHigh_toNat (hw : 1 ≤ w) (m : BitVec 3) : BitVec.ofNat w (mulHigh m.toNat w x.toNat y.toNat) =
    if m.getLsbD 0 then BitVec.ofNat w (x.toNat * y.toNat / 2 ^ w) else BitVec.ofInt w (x.toInt * y.toInt / (2 ^ w : Nat)) := by
  rw [mulHigh, signed_toNat x hw, signed_toNat y hw]
  cases hm : m.getLsbD 0
  · rw [if_pos ((even_type_iff m).mpr hm), ofNat_wrapN]
    rfl
  · rw [if_neg (mt (even_type_iff m).mp (by simp [hm]))]
    rfl
theorem ofNat_add_toNat : BitVec.ofNat w (x.toNat + y.toNat) = x + y := by
  rw [BitVec.ofNat_add, ofNat_toNat_self, ofNat_toNat_self]
theorem ofNat_mul_toNat : BitVec.ofNat w (x.toNat * y.toNat) = x * y := by
  rw [BitVec.ofNat_mul, ofNat_toNat_self, ofNat_toNat_self]
theorem ofNat_and_toNat : BitVec.ofNat w (x.toNat &&& y.toNat) = x &&& y := by
  rw [← BitVec.toNat_and, ofNat_toNat_self]
theorem ofNat_or_toNat : BitVec.ofNat w (x.toNat ||| y.toNat) = x ||| y := by
  rw [← BitVec.toNat_or, ofNat_toNat_self]
theorem ofNat_xor_toNat : BitVec.ofNat w (x.toNat ^^^ y.toNat) = x ^^^ y := by
  rw [← BitVec.toNat_xor, ofNat_toNat_self]
theorem ofNat_sub_toNat : BitVec.ofNat w (x.toNat + 2 ^ w - y.toNat) = x - y := by
  apply BitVec.eq_of_toNat_eq
  have := y.isLt
  rw [BitVec.toNat_ofNat, BitVec.toNat_sub]
  congr 1
  omega
/-- The second of two where a condition holds, else the first. -/
theorem ofNat_pick {c c' : Bool} (h : c = c') : BitVec.ofNat w (if c = true then y.toNat else x.toNat) = if c' = true then y else x := by
  subst h
  cases c
  · exact ofNat_toNat_self x
  · exact ofNat_toNat_self y
theorem ofNat_shiftLeft (n : Nat) : BitVec.ofNat w (if w ≤ n then 0 else x.toNat * 2 ^ n) = x <<< n := by
  split
  · next h => exact (BitVec.shiftLeft_eq_zero h).symm
  · rw [← Nat.shiftLeft_eq]
    exact BitVec.eq_of_toNat_eq (by rw [BitVec.toNat_ofNat, BitVec.toNat_shiftLeft])
theorem ofNat_shiftRight (n : Nat) : BitVec.ofNat w (if w ≤ n then 0 else x.toNat / 2 ^ n) = x >>> n := by
  split
  · next h => exact (BitVec.ushiftRight_eq_zero h).symm
  · rw [← Nat.shiftRight_eq_div_pow, ← BitVec.toNat_ushiftRight, ofNat_toNat_self]
theorem sshiftRight_min (n : Nat) : x.sshiftRight (min n w) = x.sshiftRight n := by
  rcases Nat.le_total n w with h | h
  · rw [Nat.min_eq_left h]
  · rw [Nat.min_eq_right h]
    ext i hi
    rw [BitVec.getElem_sshiftRight, BitVec.getElem_sshiftRight, dif_neg (by omega), dif_neg (by omega)]
theorem ofNat_sarN (hw : 1 ≤ w) (n : Nat) : BitVec.ofNat w (sarN w x.toNat n) = x.sshiftRight n := by
  rw [sarN, ofNat_wrapN, signed_toNat x hw, ← sshiftRight_min, BitVec.sshiftRight, Int.shiftRight_eq_div_pow]

end

/-- The number of leading zero bits, as the place of the highest one bit. -/
theorem clzN_spec {w x : Nat} (hx : x < 2 ^ w) :
    clzN w x ≤ w ∧ x < 2 ^ (w - clzN w x) ∧ (clzN w x < w → 2 ^ (w - clzN w x - 1) ≤ x) := by
  rw [clzN]
  split
  · next h0 => exact ⟨le_rfl, by simp [h0], fun h => absurd h (lt_irrefl w)⟩
  · next h0 =>
    have hlog : Nat.log2 x < w := (Nat.log2_lt h0).mpr hx
    have htop : w - (w - 1 - Nat.log2 x) = Nat.log2 x + 1 := by omega
    rw [htop]
    exact ⟨by omega, Nat.lt_log2_self, fun _ => Nat.log2_self_le h0⟩

theorem atWidth_of_lt {w n : Nat} (h : n < 2 ^ w) : atWidth w n = BitVec.ofNat 64 n := by
  rw [atWidth, Nat.mod_eq_of_lt h]

/-! The integer and bitwise operations (spec/09 R207). -/

section
variable (h : s.Issues u i) (hl : i.units = .lform) {f : LA}
include h hl

/-- An operation on the lanes of two operands is done, its value given as an operation on numbers of the type's width. -/
theorem laneInt2_done {op : Nat → Nat → Nat → Nat → Nat} {op' : (w : Nat) → BitVec w → BitVec w → BitVec w}
    (hexec : exec i s = laneInt2 i f op s)
    (hop : ∀ w, 1 ≤ w → ∀ x y : BitVec w, BitVec.ofNat w (op f.m.toNat w x.toNat y.toNat) = op' w x y) :
    ∃ t, exec i s = .next t ∧ s.LaneDone t u i f.d.toNat f.k (typeW f.m)
      (fun l => (op' (typeW f.m) (s.lane u f.a.toNat l _) (s.lane u f.b.toNat l _)).setWidth 64) 0 :=
  laneOp_gives_quiet h hl hexec fun l => by
    rw [← State.toNat_lane s u _ l (typeW_cases f.m), ← State.toNat_lane s u _ l (typeW_cases f.m), atWidth_eq (typeW_le f.m),
      hop _ (typeW_pos f.m)]
/-- An operation on the lanes of one operand whose value is a number below 2^w. -/
theorem laneInt1_done {op : Nat → Nat → Nat} {n : Nat → Nat} (hexec : exec i s = laneInt1 i f op s)
    (hop : ∀ l, op (typeW f.m) (s.lane u f.a.toNat l (typeW f.m)).toNat = n l) (hlt : ∀ l, n l ≤ typeW f.m) :
    ∃ t, exec i s = .next t ∧ s.LaneDone t u i f.d.toNat f.k (typeW f.m) (fun l => BitVec.ofNat 64 (n l)) 0 :=
  laneOp_gives_quiet h hl hexec fun l => by
    rw [← State.toNat_lane s u _ l (typeW_cases f.m), hop, atWidth_of_lt ((hlt l).trans_lt Nat.lt_two_pow_self)]

end

/-- Settles O1: each operation at the width of its type, and the fields that are shut out by the checks of issue. -/
theorem laneIntegers : Obligations.LaneIntegers := by
  unfold Obligations.LaneIntegers
  refine ⟨fun s u f => forall_pair_mem ?values, fun s u f => ⟨fun h => ?clz, fun h => ?popc⟩, fun s u f i hi ht hu hbad => ?reserved⟩
  case values =>
    simp only [List.forall_mem_cons]
    exact ⟨fun h => laneInt2_done (op' := fun _ x y => x + y) h rfl (exec_vadd s f) fun w _ x y => ofNat_add_toNat x y,
      fun h => laneInt2_done (op' := fun _ x y => x - y) h rfl (exec_vsub s f) fun w _ x y => ofNat_sub_toNat x y,
      fun h => laneInt2_done (op' := fun _ x y => x * y) h rfl (exec_vmul s f) fun w _ x y => ofNat_mul_toNat x y,
      fun h => laneInt2_done (op' := fun w x y => _) h rfl (exec_vmulh s f) fun w hw x y => mulHigh_toNat x y hw f.m,
      fun h => laneInt2_done (op' := fun w x y => _) h rfl (exec_vmin s f) fun w hw x y => ofNat_pick x y (intLt_toNat y x hw f.m),
      fun h => laneInt2_done (op' := fun w x y => _) h rfl (exec_vmax s f) fun w hw x y => ofNat_pick x y (intLt_toNat x y hw f.m),
      fun h => laneInt2_done (op' := fun _ x y => x &&& y) h rfl (exec_vand s f) fun w _ x y => ofNat_and_toNat x y,
      fun h => laneInt2_done (op' := fun _ x y => x ||| y) h rfl (exec_vor s f) fun w _ x y => ofNat_or_toNat x y,
      fun h => laneInt2_done (op' := fun _ x y => x ^^^ y) h rfl (exec_vxor s f) fun w _ x y => ofNat_xor_toNat x y,
      fun h => laneInt2_done (op' := fun _ x y => x <<< y.toNat) h rfl (exec_vshl s f) fun w _ x y => ofNat_shiftLeft x y.toNat,
      fun h => laneInt2_done (op' := fun _ x y => x >>> y.toNat) h rfl (exec_vshr s f) fun w _ x y => ofNat_shiftRight x y.toNat,
      fun h => laneInt2_done (op' := fun _ x y => x.sshiftRight y.toNat) h rfl (exec_vsar s f) fun w hw x y => ofNat_sarN x hw y.toNat,
      List.forall_mem_nil _⟩
  case clz =>
    have hspec (l : Nat) := clzN_spec (s.lane u f.a.toNat l (typeW f.m)).isLt
    obtain ⟨t, hexec, hdone⟩ := laneInt1_done h rfl (exec_vclz s f) (fun l => rfl) fun l => (hspec l).1
    exact ⟨t, _, hexec, hdone, hspec⟩
  case popc =>
    exact laneInt1_done h rfl (exec_vpopc s f) (fun l => popNat_eq_countP _ _) fun l =>
      List.countP_le_length.trans_eq List.length_range
  case reserved =>
    have htype {i : Instr} (hw : hasWord i = true) (hl : i.units = .lform) (hfirst : i.firstOk = decide (f.m.toNat ≤ 3))
        (hbad : 3 < f.m.toNat) : exec i s = .next (s.faultUnit u (fltD 0x22 0)) :=
      exec_lform_reserved hw hl ht hu (.inl (hfirst.trans (decide_eq_false (not_le.mpr hbad))))
    have hcount {i : Instr} (hw : hasWord i = true) (hl : i.units = .lform) (hfirst : i.firstOk = (decide (f.m.toNat ≤ 3) && f.b == 0))
        (hbad : 3 < f.m.toNat ∨ f.b ≠ 0) : exec i s = .next (s.faultUnit u (fltD 0x22 0)) :=
      exec_lform_reserved hw hl ht hu (.inl (hfirst.trans (Bool.and_eq_false_iff.mpr
        (hbad.imp (fun hm => decide_eq_false (not_le.mpr hm)) beq_eq_false_iff_ne.mpr))))
    revert i
    simp only [List.forall_mem_cons]
    simp only [List.mem_cons, List.not_mem_nil, reduceCtorEq, or_self, false_and, or_false, or_true, true_and]
    exact ⟨htype rfl rfl rfl, htype rfl rfl rfl, htype rfl rfl rfl, htype rfl rfl rfl, htype rfl rfl rfl, htype rfl rfl rfl,
      htype rfl rfl rfl, htype rfl rfl rfl, htype rfl rfl rfl, htype rfl rfl rfl, htype rfl rfl rfl, htype rfl rfl rfl,
      hcount rfl rfl rfl, hcount rfl rfl rfl, fun _ h => h.elim⟩

end Sys2Proof.Machine

namespace Sys2Proof.Machine

variable {s : State} {u : UnitId} {i : Instr}

/-! The forms with an immediate, VLI and VSEL (spec/09 R209 to R211). -/

section
variable (h : s.Issues u i) (hl : i.units = .lform)
include h hl

/-- An operation on the lanes of one operand and an immediate. -/
theorem laneImm_done {f : LI} {op : Word → BitVec 10 → Word} (hexec : exec i s = laneImm i f op s) :
    ∃ t, exec i s = .next t ∧ s.LaneDone t u i f.d.toNat f.k 32 (fun l => (op (s.lane u f.a.toNat l 32) f.imm).setWidth 64) 0 :=
  laneOp_gives_quiet h hl hexec fun _ => rfl

end

/-- A shift beyond 31 is shut out as an operand; read as a number below 2^10, a negative immediate is one. -/
theorem shift_illegal {n : BitVec 10} (h : n.toInt < 0 ∨ 31 < n.toInt) : ¬ n.toNat ≤ 31 := by
  have := BitVec.toInt_eq_toNat_cond n
  split at this <;> omega

/-- Settles O2: the value of each form, and the fields that are shut out by the checks of issue. -/
theorem laneImmediates : Obligations.LaneImmediates := by
  unfold Obligations.LaneImmediates
  intro s u
  refine ⟨fun f => forall_pair_mem ?values, fun f i hi ht hu hbad => ?shifts, fun f x ht hu hbad => ?unused,
    fun f x h => laneOp_gives_quiet h rfl (exec_vli s f x) fun _ => rfl,
    fun f h => laneOp_gives_quiet h rfl (exec_vsel s f) fun l => ?select⟩
  case values =>
    simp only [List.forall_mem_cons]
    exact ⟨fun h => laneImm_done h rfl (exec_vaddi s f), fun h => laneImm_done h rfl (exec_vshli s f),
      fun h => laneImm_done h rfl (exec_vshri s f), fun h => laneImm_done h rfl (exec_vsari s f), List.forall_mem_nil _⟩
  case shifts =>
    have hshift {i : Instr} (hw : hasWord i = true) (hl : i.units = .lform) (hfirst : i.firstOk = true) (hext : i.extOk = true)
        (hopnds : i.opnds = [.srcL f.a 32, .dstL f.d f.k 32, .lim (decide (f.imm.toNat ≤ 31))]) :
        exec i s = .next (s.faultUnit u (fltD 0x23 0)) := by
      refine exec_lform_illegal hw hl ht hu hfirst hext ?_
      rw [Instr.opndsOk, hopnds, decide_eq_false (shift_illegal hbad)]
      simp [Opnd.ok]
    revert i
    simp only [List.forall_mem_cons]
    exact ⟨hshift rfl rfl rfl rfl rfl, hshift rfl rfl rfl rfl rfl, hshift rfl rfl rfl rfl rfl, List.forall_mem_nil _⟩
  case unused =>
    have hfirst : (Instr.vli f x).firstOk = (f.a == 0 && f.b == 0 && f.m == 0) := rfl
    refine exec_lform_reserved rfl rfl ht hu (.inl ?_)
    simpa [hfirst, or_assoc, imp_iff_not_or] using hbad
  case select =>
    rw [apply_ite (BitVec.setWidth 64), State.setWidth_lane s u _ l (.inl rfl), State.setWidth_lane s u _ l (.inl rfl)]

/-! The forms that also read V[d] (spec/09 R206, R208, R213, R215). -/

/-- With K = 1 it raises illegal-operand, once it has passed the checks of issue. -/
theorem laneAcc_gives_illegal (h : s.Issues u i) {d : Nat} {k : Bool} {w : Nat} {g : State → UnitId → Nat → Dword × BitVec 7}
    (hexec : exec i s = laneAcc i d k w g s) (hk : k = true) : exec i s = .next (s.faultUnit u (fltD 0x23 0)) := by
  rw [hexec, hk]
  exact laneAcc_illegal h d w g

/-- A product and a sum at a width, modulo 2^w. -/
theorem atWidth_mulAdd {w : Nat} (hw : w ≤ 64) (x y : BitVec w) (z : Dword) :
    atWidth w (x.toNat * y.toNat + z.toNat) = (x * y + z.setWidth w).setWidth 64 := by
  rw [atWidth_eq hw, BitVec.ofNat_add, ofNat_mul_toNat, BitVec.ofNat_toNat]

/-- Two halves put together: the high one shifted by 16, modulo 2^64. -/
theorem add_shiftLeft_16 (x y : Dword) : x + y <<< 16 = BitVec.ofNat 64 (x.toNat + 65536 * y.toNat) := by
  bv_omega

/-- Settles O3: the three forms lane by lane, and K = 1. -/
theorem laneAccumulates : Obligations.LaneAccumulates := by
  unfold Obligations.LaneAccumulates
  intro s u f
  refine ⟨fun h hk => laneAcc_gives_quiet h rfl (exec_vmad s f) hk fun l => ?mad,
    fun h hk => laneAcc_gives h rfl (exec_ffma s f) hk fun _ => rfl,
    fun h hk => laneAcc_gives h rfl (exec_bfma2 s f) hk fun l => Prod.ext (add_shiftLeft_16 _ _) rfl, ?illegal⟩
  case mad =>
    rw [← State.toNat_lane s u f.a.toNat l (typeW_cases f.m), ← State.toNat_lane s u f.b.toNat l (typeW_cases f.m), atWidth_mulAdd (typeW_le f.m)]
  case illegal =>
    simp only [List.forall_mem_cons]
    exact ⟨fun h => laneAcc_gives_illegal h (exec_vmad s f), fun h => laneAcc_gives_illegal h (exec_ffma s f),
      fun h => laneAcc_gives_illegal h (exec_bfma2 s f), List.forall_mem_nil _⟩

end Sys2Proof.Machine

namespace Sys2Proof.Machine

variable {s : State} {u : UnitId} {i : Instr}

/-! Masks of lanes, bit by bit. -/

theorem Dword.getLsbD_low (n l : Nat) : (Dword.low n).getLsbD l = (decide (l < 64) && decide (l < n)) := by
  rw [Dword.low, BitVec.getLsbD_ofNat, Nat.testBit_two_pow_sub_one]
theorem getLsbD_foldl_bit_if (p : Nat → Bool) (ls : List Nat) (a : Dword) {l : Nat} (hl : l < 64) :
    (ls.foldl (fun a l => if p l then a ||| Dword.bit l else a) a).getLsbD l = (a.getLsbD l || (decide (l ∈ ls) && p l)) := by
  induction ls generalizing a with
  | nil => simp
  | cons k r ih =>
    have hstep : (if p k then a ||| Dword.bit k else a).getLsbD l = (a.getLsbD l || (decide (l = k) && p l)) := by
      by_cases hk : l = k
      · subst hk
        cases p l <;> simp [Dword.getLsbD_bit _ hl]
      · cases p k <;> simp [Dword.getLsbD_bit _ hl, hk, Ne.symm hk]
    rw [List.foldl_cons, ih, hstep, Bool.or_assoc, ← Bool.and_or_distrib_right]
    simp
theorem getLsbD_maskWhere (m : Dword) (p : Nat → Bool) {l : Nat} (hl : l < 64) : (maskWhere m p).getLsbD l = (m.getLsbD l && p l) := by
  rw [maskWhere, getLsbD_foldl_bit_if p _ _ hl]
  simp [Dword.mem_lanes, hl]

/-! Compares (spec/09 R212). -/

/-- A compare puts its mask into S[SD] and is done. -/
theorem compareOp_done (h : s.Issues u i) {x : CmpX} {p : State → UnitId → Nat → Bool} {q : Nat → Bool}
    (hexec : exec i s = compareOp i x p s) (hq : ∀ l, p s u l = q l) :
    ∃ (t : State) (r : Dword), exec i s = .next t ∧ (s.sput u x.sd.toNat r).PlainDone t u i true ∧
      ∀ l, l < 64 → r.getLsbD l = (decide (l < (s.groupOf u).width) &&
        (if (s.maskOf u).getLsbD l then q l else x.mrg && (s.sget u x.sd.toNat).getLsbD l)) := by
  refine ⟨_, _, hexec.trans (h.next _), State.plainDoneL _ u i, fun l hl => ?_⟩
  rw [BitVec.getLsbD_and, BitVec.getLsbD_or, getLsbD_maskWhere _ _ hl, hq, Group.widthMask, Dword.getLsbD_low, Bool.and_comm]
  cases x.mrg <;> cases hm : (s.maskOf u).getLsbD l <;> simp [-BitVec.getLsbD_eq_getElem, hl, hm]

section
variable {w : Nat} (x y : BitVec w) (m : BitVec 3)

/-- The order of a type is total: greater is neither less nor equal. -/
theorem type_order_total : (if m.getLsbD 0 then y.ult x else y.slt x) = !((if m.getLsbD 0 then x.ult y else x.slt y) || x == y) := by
  rw [Bool.eq_iff_iff]
  cases m.getLsbD 0
  · simp only [Bool.false_eq_true, if_false, Bool.not_eq_true', Bool.or_eq_false_iff, BitVec.slt, decide_eq_true_eq, decide_eq_false_iff_not,
      beq_eq_false_iff_ne, ne_eq, ← BitVec.toInt_inj]
    omega
  · simp only [if_true, Bool.not_eq_true', Bool.or_eq_false_iff, BitVec.ult, decide_eq_true_eq, decide_eq_false_iff_not, beq_eq_false_iff_ne, ne_eq,
      ← BitVec.toNat_inj]
    omega
theorem toNat_beq_toNat : (x.toNat == y.toNat) = (x == y) := by
  rw [Bool.eq_iff_iff, beq_iff_eq, beq_iff_eq, BitVec.toNat_inj]
theorem toNat_and_beq_zero : (x.toNat &&& y.toNat == 0) = (x &&& y == 0) := by
  rw [← BitVec.toNat_and, ← toNat_beq_toNat]
  rfl

end

section
variable {f : LA} {x : CmpX} {typed : Bool} (hw : hasWord i = true) (hl : i.units = .lform) (ht : s.turn = some u) (hu : u.isPath = true)
  (hfirst : i.firstOk = (typed && f.d == 0)) (hext : i.extOk = (x.res == 0))
include hw hl ht hu hfirst hext

theorem exec_compare_reserved (hbad : typed = false ∨ f.d ≠ 0 ∨ (x.res ≠ 0 ∧ (s.thread u).pc.toNat % 64 ≠ 60)) :
    exec i s = .next (s.faultUnit u (fltD 0x22 0)) := by
  refine exec_lform_reserved hw hl ht hu ?_
  rw [hfirst, hext, Bool.and_eq_false_iff, beq_eq_false_iff_ne, beq_eq_false_iff_ne, or_assoc]
  exact hbad.imp_right (Or.imp_right fun ⟨hres, hpc⟩ => ⟨fun hcut => hpc hcut.2, hres⟩)
theorem exec_compare_illegal {w : Nat} (hopnds : i.opnds = [.noK f.k, .srcL f.a w, .srcL f.b w, .regG x.sd])
    (htyped : typed = true) (hd : f.d = 0) (hres : x.res = 0) (hbad : f.k = true ∨ 160 ≤ x.sd.toNat) :
    exec i s = .next (s.faultUnit u (fltD 0x23 0)) := by
  refine exec_lform_illegal hw hl ht hu (by rw [hfirst, htyped, hd]; rfl) (by rw [hext, hres]; rfl) ?_
  rw [Instr.opndsOk, hopnds]
  rcases hbad with hk | hsd
  · simp [Opnd.ok, hk]
  · simp [Opnd.ok, show ¬ x.sd.toNat ≤ 159 by omega]

end

/-- Settles O4: the mask of each compare bit by bit, and what its checks of issue shut out. -/
theorem laneCompares : Obligations.LaneCompares := by
  unfold Obligations.LaneCompares
  intro s u f x
  refine ⟨fun h => compareOp_done h (exec_vcmp s f x) fun l => ?vcmp, fun h => compareOp_done h (exec_fcmp s f x) fun l => ?fcmp,
    forall_pair_mem ?faults⟩
  case vcmp =>
    have hw := typeW_cases f.m
    rw [← State.toNat_lane s u _ l hw, ← State.toNat_lane s u _ l hw]
    generalize s.lane u f.a.toNat l (typeW f.m) = a, s.lane u f.b.toNat l (typeW f.m) = b
    have hlt := intLt_toNat a b (typeW_pos f.m) f.m
    have hgt := (intLt_toNat b a (typeW_pos f.m) f.m).trans (type_order_total a b f.m)
    match x.cc.toNat with
    | 0 => exact toNat_beq_toNat a b
    | 1 => exact congrArg (! ·) (toNat_beq_toNat a b)
    | 2 => exact hlt
    | 3 => exact (congrArg (! ·) hgt).trans (Bool.not_not _)
    | 4 => exact hgt
    | 5 => exact congrArg (! ·) hlt
    | 6 => exact congrArg (! ·) (toNat_and_beq_zero a b)
    | _ + 7 => exact toNat_and_beq_zero a b
  case fcmp =>
    change condF x.cc.toNat (readFloat (s.thread u).fmt f.m.toNat (s.srcL u f.a.toNat l 32))
      (readFloat (s.thread u).fmt f.m.toNat (s.srcL u f.b.toNat l 32)) = _
    generalize readFloat _ _ (s.srcL u f.a.toNat l 32) = a, readFloat _ _ (s.srcL u f.b.toNat l 32) = b
    by_cases hun : a = .nan ∨ b = .nan
    · have hun' : (a == .nan || b == .nan) = true := by simpa using hun
      rw [if_pos hun]
      match x.cc.toNat with
      | 0 | 1 | 2 | 3 | 4 | 5 | 6 | _ + 7 => simp [condF, hun']
    · have hun' : (a == .nan || b == .nan) = false := by simpa using hun
      rw [if_neg hun]
      match x.cc.toNat with
      | 0 | 1 | 2 | 3 | 4 | 5 | 6 | _ + 7 => simp [condF, hun']
  case faults =>
    have htype : decide (f.m = 4 ∨ f.m = 5) = (f.m == 4 || f.m == 5) := by rw [Bool.decide_or]; rfl
    simp only [List.forall_mem_cons]
    refine ⟨fun ht hu => ⟨exec_compare_reserved rfl rfl ht hu rfl rfl, exec_compare_illegal rfl rfl ht hu rfl rfl rfl⟩,
      fun ht hu => ⟨exec_compare_reserved rfl rfl ht hu ?_ rfl, exec_compare_illegal rfl rfl ht hu ?_ rfl rfl⟩, List.forall_mem_nil _⟩
    all_goals rw [htype]; rfl

end Sys2Proof.Machine

namespace Sys2Proof.Machine

variable {s t p : State} {u : UnitId} {i : Instr}

/-! A lane result that sets no flag (spec/09 R206). -/

/-- What a unit sees once its lanes' results stand in its run, as state `p` has them, and its instruction is done. -/
theorem State.laneDone_of_sameRun (hu : u.isPath = true) {d w : Nat} {k : Bool} {g : Nat → Dword} (hrun : s.SameRun p u)
    (hlatches : s.SameLatches p u) (hflags : (p.thread u).run.xOver = (s.thread u).run.xOver) (hscalars : ∀ r, p.sget u r = s.sget u r)
    (hlanes : ∀ l r, l < 64 → p.vget u l r =
      if k = false ∧ l ∈ (s.maskOf u).lanes ∧ w = 64 ∧ r = d + 1 then (g l).extractLsb' 32 32
      else if k = false ∧ l ∈ (s.maskOf u).lanes ∧ r = d then (g l).setWidth 32 else s.vget u l r) (i : Instr) :
    s.LaneDone ((p.shiftL u (some (laneTab (s.maskOf u) g))).done u i.len i.endsRun) u i d k w g 0 := by
  have hshift : p.SameRun (p.shiftL u (some (laneTab (s.maskOf u) g))) u := State.sameRun_onRun p u _ rfl rfl
  obtain ⟨hown, hpass, hbind, hlat⟩ := (hrun.trans hshift).done i
  have hvget (l r : Nat) : ((p.shiftL u (some (laneTab (s.maskOf u) g))).done u i.len i.endsRun).vget u l r = p.vget u l r := by
    rw [State.vget_done, State.shiftL, State.vget_onRun _ u _ rfl]
  refine ⟨hown, hpass, ?flags, fun hk l hl hm => ?low, fun hk hw l hl hm => ?high, fun l r hl hout => ?others, fun r => ?scalars, hbind hu,
    fun he => ⟨laneTab (s.maskOf u) g, ?latch, fun l hl hm => by simp only [laneTab_find, hl, hm, and_self, if_true]⟩, fun he => ?ulatch⟩
  case flags =>
    rw [State.flagsSeen_done _ u _ _ hu]
    refine Eq.trans ?_ (BitVec.or_zero ..).symm
    simp only [State.flagsSeen, State.shiftL, State.onRun, State.xflags_onThread, State.thread_onThread, hflags, hrun.xflags]
  case low =>
    have hmem : l ∈ (s.maskOf u).lanes := (Dword.mem_lanes _ l).mpr ⟨hl, hm⟩
    rw [hvget, hlanes l d hl, if_neg (by omega), if_pos ⟨hk, hmem, rfl⟩]
  case high =>
    have hmem : l ∈ (s.maskOf u).lanes := (Dword.mem_lanes _ l).mpr ⟨hl, hm⟩
    rw [hvget, hlanes l (d + 1) hl, if_pos ⟨hk, hmem, hw, rfl⟩]
  case others =>
    have hnot (hk : k = false) (hmem : l ∈ (s.maskOf u).lanes) : r ≠ d ∧ (w = 64 → r ≠ d + 1) := by
      have hm := ((Dword.mem_lanes _ l).mp hmem).2
      simpa [hk, hm] using hout
    rw [hvget, hlanes l r hl, if_neg fun ⟨hk, hmem, hw, hr⟩ => (hnot hk hmem).2 hw hr, if_neg fun ⟨hk, hmem, hr⟩ => (hnot hk hmem).1 hr]
  case scalars => rw [State.sget_done, State.shiftL, State.sget_onRun _ u _ rfl, hscalars]
  case latch =>
    rw [(hlat he).1]
    simp [State.shiftL, State.onRun, hlatches.1]
  case ulatch =>
    rw [(hlat he).2]
    simp [State.shiftL, State.onRun, hlatches.2]

/-- THE LAW OF LANE RESULTS where no flag is touched. -/
theorem State.laneDone_quiet (s : State) {u : UnitId} (hu : u.isPath = true) (i : Instr) (d : Nat) (k : Bool) (w : Nat) (g : Nat → Dword) :
    s.LaneDone (s.doneV u i d k w (laneTab (s.maskOf u) g)) u i d k w g 0 := by
  have hls : ∀ l ∈ (s.maskOf u).lanes, l < 64 := fun l hl => ((Dword.mem_lanes _ l).mp hl).1
  cases k with
  | true => exact State.laneDone_of_sameRun hu (.refl s u) ⟨rfl, rfl⟩ rfl (fun _ => rfl) (fun l r _ => by simp) i
  | false =>
    obtain ⟨hrun, hlatches, hflags, hscalars, hlanes⟩ := State.foldLanes u hu d w g (s.maskOf u).lanes hls s
    exact State.laneDone_of_sameRun hu hrun hlatches hflags hscalars (fun l r hl => by simp only [hlanes l r hl, true_and]) i

/-! Moves between lanes (spec/09 R218, R219). -/

section
variable (h : s.Issues u i) {f : LA} {bOk : Bool} {src : State → UnitId → Nat → Nat} (hexec : exec i s = moveOp i f bOk src s)
include h hexec

theorem moveOp_illegal (hbad : (64 ≤ f.a.toNat ∧ f.a.toNat ≤ 67) ∨ bOk = false) : exec i s = .next (s.faultUnit u (fltD 0x23 0)) := by
  rw [hexec, moveOp, h.next]
  exact congrArg _ (if_pos (hbad.imp_right fun hb => by simp [hb]))
theorem moveOp_done (hl : i.units = .lform) {from_ : Nat → Nat} (hsrc : ∀ l, src s u l = from_ l)
    (ha : f.a.toNat < 64 ∨ 68 ≤ f.a.toNat) (hb : bOk = true) :
    ∃ t, exec i s = .next t ∧ s.LaneDone t u i f.d.toNat f.k 32 (fun l => s.fromLane u f.a.toNat (from_ l)) 0 := by
  have hlegal : ¬ ((64 ≤ f.a.toNat ∧ f.a.toNat ≤ 67) ∨ (!bOk) = true) := by
    simp only [hb, Bool.not_true, Bool.false_eq_true, or_false]
    omega
  refine ⟨_, ?_, State.laneDone_quiet s (h.path hl) i f.d.toNat f.k 32 _⟩
  rw [hexec, moveOp, h.next]
  simp only [← hsrc]
  exact congrArg _ (if_neg hlegal)

end

theorem exec_vmatch_issued {f : LA} (h : s.Issues u (.vmatch f)) : exec (.vmatch f) s = .next (s.doneV u (.vmatch f) f.d.toNat f.k 64
    (laneTab (s.maskOf u) fun l => maskWhere (s.maskOf u) fun j => s.srcL u f.a.toNat j (typeW f.m) == s.srcL u f.a.toNat l (typeW f.m))) := by
  rw [exec_vmatch, execVmatch, h.next]

/-- What a lane takes from lane `j`: of a lane register what the path sees of it, a lane that is not in the path giving its committed one. -/
theorem State.fromLane_eq (s : State) (u : UnitId) (a j : Nat) : s.fromLane u a j =
    if a < 64 then
      (if ¬ (s.groupOf u).launched.getLsbD j then 0
        else if (s.maskOf u).getLsbD j then s.vget u j a
        else (s.groupOf u).vreg ((s.groupOf u).laneWb j) j a).setWidth 64
    else s.srcL u a j 32 := by
  rw [State.fromLane, State.otherLane]
  simp only [Bool.not_eq_true, Bool.not_eq_true']

/-- Settles O7: a move takes its value from its source lane, and VMATCH compares the keys of the path's lanes. -/
theorem crossLaneMoves : Obligations.CrossLaneMoves := by
  unfold Obligations.CrossLaneMoves
  intro s u f
  refine ⟨forall_pair_mem ?moves, fun h => ⟨_, _, exec_vmatch_issued h, State.laneDone_quiet s (h.path rfl) _ _ _ 64 _, fun l j _ hj => ?keys⟩⟩
  case moves =>
    have hlane (l : Nat) := s.toNat_lane u f.b.toNat l (w := 32) (.inl rfl)
    simp only [List.forall_mem_cons, ← State.fromLane_eq, reduceCtorEq, false_and, or_false, false_implies, forall_const, true_and, hlane]
    refine ⟨fun h => ⟨fun ha => moveOp_done h (exec_vperm s f) rfl (fun _ => rfl) ha rfl, fun ha => moveOp_illegal h (exec_vperm s f) (.inl ha)⟩,
      fun h => ⟨fun ha => moveOp_done h (exec_vshfl s f) rfl (fun _ => rfl) ha rfl, fun ha => moveOp_illegal h (exec_vshfl s f) (.inl ha)⟩,
      fun h => ⟨fun ha hb => moveOp_done h (exec_vbcast s f) rfl (fun _ => rfl) ha (decide_eq_true hb),
        fun hbad => moveOp_illegal h (exec_vbcast s f) (hbad.imp_right fun hb => decide_eq_false (not_le.mpr hb))⟩, List.forall_mem_nil _⟩
  case keys =>
    rw [getLsbD_maskWhere _ _ hj, ← toNat_beq_toNat, ← toNat_beq_toNat, State.toNat_lane s u _ j (typeW_cases f.m), State.toNat_lane s u _ l (typeW_cases f.m)]

end Sys2Proof.Machine

namespace Sys2Proof.Machine

variable {s t : State} {u : UnitId}

/-! What another state gives a unit's lane sources (spec/07 R165). -/

theorem State.srcL_congr (hrun : (t.thread u).run = (s.thread u).run) (hwb : (t.pathOf u).wb = (s.pathOf u).wb)
    (hvregs : (t.groupOf u).vregs = (s.groupOf u).vregs) (hsregs : t.sregs u = s.sregs u) (code l w : Nat) :
    t.srcL u code l w = s.srcL u code l w := by
  have hv (l r : Nat) : t.vget u l r = s.vget u l r := State.vget_congr (congrArg Run.vOver hrun) hwb hvregs l r
  have hs (r : Nat) : t.sget u r = s.sget u r := State.sget_congr (congrArg Run.sOver hrun) hsregs r
  simp only [State.srcL, hv, hs, hrun]

/-! A path after a member of its group has dropped out of its family's waits (spec/09 R221). -/

section
variable (s : State) (c g n j : Nat) (a : Option Dword)

theorem State.pathOf_dropOut : (s.pathOf (.path c g j)).SameButWait ((s.dropOut (.path c g n) a).pathOf (.path c g j)) := by
  rw [State.pathOf, State.pathOf, State.group_dropOut]
  exact Group.path_dropOut_sameButWait _ n a j
theorem State.mask_dropOut : (s.dropOut (.path c g n) a).maskOf (.path c g j) = s.maskOf (.path c g j) :=
  (State.pathOf_dropOut s c g n j a).mask
theorem State.srcL_dropOut (code l w : Nat) : (s.dropOut (.path c g n) a).srcL (.path c g j) code l w = s.srcL (.path c g j) code l w := by
  obtain ⟨x, hx⟩ := State.pathOf_dropOut s c g n j a
  refine State.srcL_congr ((congrArg (fun p => p.th.run) hx).trans rfl) ((congrArg Path.wb hx).trans rfl) ?_ ?_ code l w
  · rw [State.groupOf, State.group_dropOut]
    rfl
  · rw [State.sregs, State.group_dropOut]
    rfl

end

theorem State.srcL_dropOut_self (s : State) (hu : u.isPath = true) (a : Option Dword) (code l w : Nat) :
    (s.dropOut u a).srcL u code l w = s.srcL u code l w := by
  cases u with
  | path c g n => exact State.srcL_dropOut s c g n n a code l w
  | seq c k => exact absurd hu Bool.false_ne_true
  | lant l p => exact absurd hu Bool.false_ne_true

/-! A unit that comes to XSEND or XRECV (spec/09 R225). -/

section
variable {i : Instr} (hc : s.preCheck u i = none)
include hc

theorem State.right_of_preCheck : i.wrongUnit u = false :=
  State.Issues.right (s := { s with turn := some u }) ⟨rfl, hc⟩
theorem State.isPath_of_preCheck (hl : i.units = .lform) : u.isPath = true :=
  State.Issues.path (s := { s with turn := some u }) ⟨rfl, hc⟩ hl
theorem State.firstOk_of_preCheck : i.firstOk = true :=
  Bool.eq_true_of_not_eq_false fun hbad =>
    Option.some_ne_none _ ((State.preCheck_modifier (State.right_of_preCheck hc) (.inl hbad)).symm.trans hc)

end

section
variable {i : Instr} {a : Answer} (h : s.ComesTo u i (.rendezvousWaitEnd u) a)
include h

/-- Whether it issues the instruction or its wait ends, it performs the same. -/
theorem State.ComesTo.slot {k : UnitId → State → State} (hexec : exec i s = issue i s k) (hbody : slotBody i = some k) :
    a = .next (k u s) := by
  rcases h with ⟨hissue, rfl⟩ | ⟨halive, hwait, -, rfl⟩
  · rw [hexec, hissue.next]
  · rw [exec_rendezvousWaitEnd, execRendezvousWaitEnd, State.wake, halive, hwait]
    simp only [hbody]
    rfl
theorem State.ComesTo.checks : s.preCheck u i = none := by
  rcases h with ⟨hissue, -⟩ | ⟨-, -, hcheck, -⟩
  · exact hissue.checks
  · exact hcheck

end

/-- What XSEND puts into its slot. -/
def State.sent (s : State) (u : UnitId) (f : LA) : XSlot :=
  { mask := s.maskOf u, vals := laneTab (s.maskOf u) fun l => s.srcL u f.a.toNat l (typeW f.m) }
/-- What XRECV takes for lane `l` from a full slot. -/
def XSlot.given (r : XSlot) (w l : Nat) : Dword := if r.mask.getLsbD l then ((r.vals.get l 0).setWidth w).setWidth 64 else 0

theorem setWidth_setWidth_32 (x : Dword) : (x.setWidth 32).setWidth 64 = x &&& 0xFFFFFFFF := by
  apply BitVec.eq_of_toNat_eq
  rw [BitVec.toNat_and, BitVec.toNat_setWidth_of_le (by decide), BitVec.toNat_setWidth]
  exact (Nat.and_two_pow_sub_one_eq_mod x.toNat 32).symm

section
variable {f : LA} {x : SlotX} {r : XSlot}

theorem State.xsend_full (hfull : (s.teamOf u).xslots.find x.slot.toNat = some r) :
    s.xsend f x u = (s.dropOut u none).waitIn u { instr := .xsend f x, lo := 0 } := by
  have hhas : (s.teamOf u).xslots.has x.slot.toNat = true := by rw [Tab.has, hfull]; rfl
  simp only [State.xsend, State.teamOf_dropOut_self, hhas, if_true]
theorem State.xsend_empty (hu : u.isPath = true) (hempty : (s.teamOf u).xslots.find x.slot.toNat = none) : s.xsend f x u =
    ((s.dropOut u none).onTeamOf u fun k => { k with xslots := k.xslots.put x.slot.toNat (s.sent u f) }).doneL u (.xsend f x) := by
  have hhas : (s.teamOf u).xslots.has x.slot.toNat = false := by rw [Tab.has, hempty]; rfl
  simp only [State.xsend, State.teamOf_dropOut_self, hhas, Bool.false_eq_true, if_false, State.release_narrow _ u (show 1 < 3 by decide),
    State.mask_dropOut_self, State.srcL_dropOut_self s hu]
  rfl
theorem State.xrecv_empty (hempty : (s.teamOf u).xslots.find x.slot.toNat = none) :
    s.xrecv f x u = (s.dropOut u none).waitIn u { instr := .xrecv f x, lo := 0 } := by
  simp only [State.xrecv, State.teamOf_dropOut_self, hempty]
theorem State.mask_onTeamOf (s : State) (u v : UnitId) (g : Team → Team) : (s.onTeamOf u g).maskOf v = s.maskOf v := by
  cases v with
  | path c n j => simp only [State.maskOf, State.pathOf, State.onTeamOf, State.group_onTeam]
  | seq c k => rfl
  | lant l p => rfl
/-- The type of a received value is .u32 or .u64, so its width is all that is taken of it. -/
theorem XSlot.given_eq (hm : f.m = 1 ∨ f.m = 3) (l : Nat) : r.given (typeW f.m) l =
    if r.mask.getLsbD l then (if f.m = 1 then r.vals.get l 0 &&& 0xFFFFFFFF else r.vals.get l 0) else 0 := by
  rw [XSlot.given]
  refine ite_congr rfl (fun _ => ?_) fun _ => rfl
  rcases hm with hm | hm <;> rw [hm]
  · exact setWidth_setWidth_32 _
  · rfl
theorem State.xrecv_full (hm : f.m = 1 ∨ f.m = 3) (hfull : (s.teamOf u).xslots.find x.slot.toNat = some r) :
    let z := (s.dropOut u none).onTeamOf u fun k => { k with xslots := k.xslots.drop x.slot.toNat }
    s.xrecv f x u = z.doneV u (.xrecv f x) f.d.toNat f.k (typeW f.m) (laneTab (z.maskOf u) (r.given (typeW f.m))) := by
  intro z
  simp only [State.xrecv, State.teamOf_dropOut_self, hfull, State.acquire_team, z, State.mask_onTeamOf, ← XSlot.given_eq hm]

end

/-- Settles O10: by what the slot holds, the instruction is done on the changed slot or waits. -/
theorem rendezvous : Obligations.Rendezvous := by
  unfold Obligations.Rendezvous
  intro s u f x s'
  refine ⟨fun a ha => ?send, fun a ha => ?receive⟩
  case send =>
    rw [ha.slot (exec_xsend s f x) rfl]
    have hu : u.isPath = true := State.isPath_of_preCheck ha.checks rfl
    refine ⟨fun hempty => ⟨_, s.sent u f, rfl, ?_, rfl, fun l hl hmask => ?_⟩, fun r hfull => ⟨_, rfl, ?_⟩⟩
    · rw [State.xsend_empty hu hempty]
      exact State.plainDoneL _ u _
    · rw [State.sent, laneTab_find, if_pos ⟨hl, hmask⟩]
    · rw [State.xsend_full hfull]
      exact State.waitsIn s' u _
  case receive =>
    rw [ha.slot (exec_xrecv s f x) rfl]
    have hu : u.isPath = true := State.isPath_of_preCheck ha.checks rfl
    have hfirst : ((f.m == 1 || f.m == 3) && f.b == 0 && f.a == 0) = true := State.firstOk_of_preCheck ha.checks
    have hm : f.m = 1 ∨ f.m = 3 := by
      simp only [Bool.and_eq_true, Bool.or_eq_true, beq_iff_eq] at hfirst
      obtain ⟨⟨hm, -⟩, -⟩ := hfirst
      exact hm
    refine ⟨fun r hfull => ⟨_, rfl, ?_⟩, fun hempty => ⟨_, rfl, ?_⟩⟩
    · rw [State.xrecv_full hm hfull]
      exact State.laneDone_quiet _ hu _ _ _ _ _
    · rw [State.xrecv_empty hempty]
      exact State.waitsIn s' u _

end Sys2Proof.Machine

namespace Sys2Proof.Machine

/-! Reductions and scans (spec/09 R223): each lane's accumulator, and what is written of it. -/

section
variable (fmt : Word) (ty op : Nat) (scan excl : Bool) (l : Nat) (x : Dword) (rest : List (Nat × Dword))

/-- The accumulator after operands `vs`, begun at `start`, with the flags of the combinations. -/
def accumulate (start : Dword) (vs : List (Nat × Dword)) : Dword × BitVec 7 :=
  vs.foldl (fun a v => ((combine fmt ty op a.1 v.2).1, a.2 ||| (combine fmt ty op a.1 v.2).2)) (start, 0)
/-- The accumulator after the first taking-part lane, whose operand is `x`, and `k` more. -/
def accumulated (k : Nat) : Dword × BitVec 7 := accumulate fmt ty op (combineStart fmt ty op x) (rest.take k)
/-- The number of taking-part lane `k`. -/
def laneAt (k : Nat) : Nat := (l :: rest.map (·.1)).getD k 0
/-- What taking-part lane `k` is given, with the flags of its result. -/
def laneGiven (k : Nat) : Dword × BitVec 7 :=
  if scan = false then combineOut fmt ty op (accumulated fmt ty op x rest rest.length).1
  else if excl = false then combineOut fmt ty op (accumulated fmt ty op x rest k).1
  else if k = 0 then (combineIdentity ty op, 0)
  else combineOut fmt ty op (accumulated fmt ty op x rest (k - 1)).1

theorem accumulate_concat (start : Dword) (vs : List (Nat × Dword)) (v : Nat × Dword) : accumulate fmt ty op start (vs ++ [v]) =
    ((combine fmt ty op (accumulate fmt ty op start vs).1 v.2).1,
      (accumulate fmt ty op start vs).2 ||| (combine fmt ty op (accumulate fmt ty op start vs).1 v.2).2) :=
  List.foldl_concat ..

theorem map_range_laneAt : (List.range (rest.length + 1)).map (laneAt l rest) = l :: rest.map (·.1) := by
  refine List.ext_getElem (by simp) fun k hk hk' => ?_
  simp only [List.getElem_map, List.getElem_range, laneAt, List.getD_eq_getElem _ _ hk']

theorem scan_fold (start : Dword) : rest.foldl (fun (st : List (Nat × Dword) × Dword × BitVec 7) v =>
      let c := combine fmt ty op st.2.1 v.2
      (st.1 ++ [(v.1, c.1)], c.1, st.2.2 ||| c.2)) ([(l, start)], start, 0) =
    ((List.range (rest.length + 1)).map fun k => (laneAt l rest k, (accumulate fmt ty op start (rest.take k)).1),
      accumulate fmt ty op start rest) := by
  induction rest using List.reverseRecOn with
  | nil => rfl
  | append_singleton vs v ih =>
    have hbefore : (List.range (vs.length + 1)).map (fun k => (laneAt l (vs ++ [v]) k, (accumulate fmt ty op start ((vs ++ [v]).take k)).1)) =
        (List.range (vs.length + 1)).map fun k => (laneAt l vs k, (accumulate fmt ty op start (vs.take k)).1) := by
      refine List.map_congr_left fun k hk => ?_
      have hk : k ≤ vs.length := Nat.le_of_lt_succ (List.mem_range.mp hk)
      have hlane : laneAt l (vs ++ [v]) k = laneAt l vs k := by
        rw [laneAt, laneAt, List.map_append, ← List.cons_append, List.getD_append]
        simpa using Nat.lt_succ_of_le hk
      rw [hlane, List.take_append_of_le_length hk]
    have hlast : laneAt l (vs ++ [v]) (vs.length + 1) = v.1 := by simp [laneAt]
    have htake : (vs ++ [v]).take (vs.length + 1) = vs ++ [v] := List.take_of_length_le (by simp)
    rw [List.foldl_concat, ih, List.length_append, List.length_singleton, List.range_succ (n := vs.length + 1), List.map_append, List.map_singleton,
      hbefore, hlast, htake, accumulate_concat]

theorem scanLanes_eq : scanLanes fmt ty op ((l, x) :: rest) =
    ((List.range (rest.length + 1)).map fun k => (laneAt l rest k, (accumulated fmt ty op x rest k).1),
      (accumulated fmt ty op x rest rest.length).2) := by
  rw [accumulated, List.take_length]
  exact congrArg (fun r : List (Nat × Dword) × Dword × BitVec 7 => (r.1, r.2.2)) (scan_fold fmt ty op l rest (combineStart fmt ty op x))

/-- What VREDUCE and VSCAN give, lane by lane, and the flags of every combination and every result. -/
theorem reduceValues_eq : reduceValues fmt ty op scan excl ((l, x) :: rest) =
    ((List.range (rest.length + 1)).map fun k => (laneAt l rest k, (laneGiven fmt ty op scan excl x rest k).1),
      (List.range (rest.length + 1)).foldl (fun a k => a ||| (laneGiven fmt ty op scan excl x rest k).2)
        (accumulated fmt ty op x rest rest.length).2) := by
  rw [reduceValues, scanLanes_eq]
  have hraw {raw : List (Nat × Dword × BitVec 7)} (h : raw = (List.range (rest.length + 1)).map fun k =>
      (laneAt l rest k, laneGiven fmt ty op scan excl x rest k)) (a : BitVec 7) :
      (raw.map fun v => (v.1, v.2.1), raw.foldl (fun a v => a ||| v.2.2) a) =
      ((List.range (rest.length + 1)).map fun k => (laneAt l rest k, (laneGiven fmt ty op scan excl x rest k).1),
        (List.range (rest.length + 1)).foldl (fun a k => a ||| (laneGiven fmt ty op scan excl x rest k).2) a) := by
    rw [h, List.map_map, List.foldl_map]
    rfl
  refine hraw ?_ _
  have hget {k : Nat} (hk : k < rest.length + 1) : ((List.range (rest.length + 1)).map fun k =>
      (laneAt l rest k, (accumulated fmt ty op x rest k).1)).getD k (0, 0) = (laneAt l rest k, (accumulated fmt ty op x rest k).1) := by
    rw [List.getD_eq_getElem _ _ (by simpa using hk)]
    simp
  cases scan with
  | false =>
    have hlast : (((List.range (rest.length + 1)).map fun k => (laneAt l rest k, (accumulated fmt ty op x rest k).1)).getLast?.map (·.2)).getD 0 =
        (accumulated fmt ty op x rest rest.length).1 := by
      rw [List.range_succ, List.map_append, List.map_singleton, List.getLast?_concat]
      rfl
    simp only [hlast, Bool.false_eq_true, if_false, List.map_map]
    rfl
  | true =>
    simp only [if_true, List.length_map, List.length_range]
    refine List.map_congr_left fun k hk => ?_
    have hk := List.mem_range.mp hk
    rw [hget hk, hget (Nat.lt_of_le_of_lt (Nat.sub_le k 1) hk), laneGiven]
    cases excl with
    | false => rfl
    | true =>
      by_cases h0 : k = 0
      · simp [h0]
      · simp [h0]

theorem reduceValues_lanes (vals : List (Nat × Dword)) : (reduceValues fmt ty op scan excl vals).1.map (·.1) = vals.map (·.1) := by
  cases vals with
  | nil => cases scan <;> rfl
  | cons v rest =>
    rw [reduceValues_eq, List.map_map, List.map_cons, ← map_range_laneAt]
    rfl

end

end Sys2Proof.Machine

namespace Sys2Proof.Machine

/-! A BF16 pattern widened to FP32 (spec/06 R142, spec/09 R223). -/

theorem Exact.isZero_eq {x : Exact} (h : x.more = false) : x.isZero = (x.mag == 0) := by
  rw [Exact.isZero, h]
  exact Bool.and_true _

/-- A value that the format holds rounds to its own pattern, whatever the mode. -/
theorem rnd_held {f : FloatFmt} {rm : Nat} {x : Exact} (h0 : x.mag ≠ 0) (hmore : x.more = false) (hunit : f.unitExp x ≤ x.exp)
    (hfin : f.code (x.mag * 2 ^ (x.exp - f.unitExp x).toNat) (f.unitExp x) < f.infCode) :
    rnd f rm false (.fin x) = (f.sign x.neg + f.code (x.mag * 2 ^ (x.exp - f.unitExp x).toNat) (f.unitExp x), 0) := by
  have hzero : ¬ x.isZero = true := by simpa [Exact.isZero_eq hmore] using h0
  rw [rnd, rndExact, if_neg hzero, roundGrid_whole rm h0 hunit, hmore]
  simp only [if_neg (not_le.mpr hfin), Bool.false_eq_true, if_false]
  split <;> rfl

/-- The unit of a value whose unit is known rounds it by the exponents alone. -/
theorem rnd_fp32_held {neg : Bool} {mag : Nat} {e unit : Int} (h0 : mag ≠ 0) (hunit : fp32.unitExp ⟨neg, mag, e, false⟩ = unit)
    (he : e = unit + 16) (hfin : (unit + 149).toNat * 2 ^ 23 + mag * 2 ^ 16 < 255 * 2 ^ 23) :
    (rnd fp32 0 false (.fin ⟨neg, mag, e, false⟩)).1 = (if neg then 2 ^ 31 else 0) + ((unit + 149).toNat * 2 ^ 23 + mag * 2 ^ 16) := by
  have hcode : fp32.code (mag * 2 ^ (e - unit).toNat) unit = (unit + 149).toNat * 2 ^ 23 + mag * 2 ^ 16 := by
    rw [FloatFmt.code, show (e - unit).toNat = 16 by omega]
    rfl
  rw [rnd_held (f := fp32) h0 rfl (by rw [hunit, he]; exact Int.le_add_of_nonneg_right (by decide)) (by rw [hunit]; exact hcode.trans_lt hfin), hunit, hcode]
  rfl

theorem rnd_bf16_normal (neg : Bool) {e m : Nat} (he : 1 ≤ e) (he' : e < 255) (hm : m < 128) :
    (rnd fp32 0 false (.fin ⟨neg, 128 + m, -133 + (e : Int) - 1, false⟩)).1 = 65536 * ((if neg then 32768 else 0) + (e * 128 + m)) := by
  have hlog : Nat.log2 (128 + m) = 7 := (Nat.log2_eq_iff (by omega)).mpr ⟨by omega, by omega⟩
  have hunit : fp32.unitExp ⟨neg, 128 + m, -133 + (e : Int) - 1, false⟩ = (e : Int) - 150 := by
    simp only [FloatFmt.unitExp, fp32, hlog]
    omega
  rw [rnd_fp32_held (by omega) hunit (by omega) (by omega)]
  cases neg <;> simp only [Bool.false_eq_true, if_true, if_false] <;> omega
theorem rnd_bf16_subnormal (neg : Bool) {m : Nat} (hm : m < 128) :
    (rnd fp32 0 false (.fin ⟨neg, m, -133, false⟩)).1 = 65536 * ((if neg then 32768 else 0) + m) := by
  by_cases h0 : m = 0
  · subst h0
    cases neg <;> rfl
  · have hlog : Nat.log2 m < 7 := (Nat.log2_lt h0).mpr hm
    have hunit : fp32.unitExp ⟨neg, m, -133, false⟩ = -149 := by
      simp only [FloatFmt.unitExp, fp32]
      omega
    have hlow : ((-149 : Int) + 149).toNat = 0 := rfl
    rw [rnd_fp32_held h0 hunit (by decide) (by rw [hlow]; omega), hlow]
    cases neg <;> simp only [Bool.false_eq_true, if_true, if_false] <;> omega

/-- An operand of a .bf16 sum starts its accumulator exactly: it is its pattern above 16 zero bits, after DAZ. -/
theorem rnd_bf16_widened (daz : Bool) {v : Nat} (hv : v < 65536) (hnan : bf16.read false v ≠ .nan) :
    (rnd fp32 0 false (bf16.read daz v)).1 = 65536 * afterDaz bf16 daz v := by
  have hread (daz : Bool) : bf16.read daz v = if v / 128 % 256 = 255 then (if v % 128 = 0 then .inf (decide (32768 ≤ v)) else .nan)
      else if v / 128 % 256 = 0 then .fin ⟨decide (32768 ≤ v), if daz then 0 else v % 128, -133, false⟩
      else .fin ⟨decide (32768 ≤ v), 128 + v % 128, -133 + ((v / 128 % 256 : Nat) : Int) - 1, false⟩ := FloatFmt.read_eq bf16 daz hv
  have hdaz : afterDaz bf16 daz v = if (daz && v / 128 % 256 == 0) = true then v / 32768 % 2 * 32768 else v % 65536 := rfl
  have hsplit : v = (if decide (32768 ≤ v) = true then 32768 else 0) + (v / 128 % 256 * 128 + v % 128) := by
    simp only [decide_eq_true_eq]
    split <;> omega
  have hsign : v / 32768 % 2 * 32768 = if decide (32768 ≤ v) = true then 32768 else 0 := by
    simp only [decide_eq_true_eq]
    split <;> omega
  have hexp : v / 128 % 256 < 256 := Nat.mod_lt _ (by decide)
  have hfrac : v % 128 < 128 := Nat.mod_lt _ (by decide)
  rw [hread] at hnan
  rw [hread, hdaz, hsign, Nat.mod_eq_of_lt hv]
  generalize decide (32768 ≤ v) = neg at *
  generalize v / 128 % 256 = e at *
  generalize v % 128 = m at *
  by_cases htop : e = 255
  · have hm : m = 0 := by
      by_contra hm
      exact hnan (by rw [if_pos htop, if_neg hm])
    rw [if_pos htop, if_pos hm, hsplit, htop, hm]
    cases daz <;> cases neg <;> rfl
  · rw [if_neg htop]
    by_cases hlow : e = 0
    · rw [if_pos hlow, rnd_bf16_subnormal neg (by split <;> omega), hsplit, hlow]
      cases daz <;> simp
    · rw [if_neg hlow, rnd_bf16_normal neg (by omega) (by omega) hfrac, if_neg (show ¬ (daz && e == 0) = true by simp [hlow]), ← hsplit]

end Sys2Proof.Machine

namespace Sys2Proof.Machine

/-! One combination (spec/09 R223). -/

section
variable (fmt : Word) (m : BitVec 3) (op : Nat)

theorem isFloat_iff : (m.toNat = 4 ∨ m.toNat = 5) ↔ (m = 4 ∨ m = 5) := by
  bv_omega
theorem isBf16_iff : m.toNat = 5 ↔ m = 5 := by
  bv_omega
theorem floatOf_toNat : floatOf m.toNat = if m = 5 then bf16 else fp32 :=
  if_congr (isBf16_iff m) rfl rfl

/-- The width that integers and TX64 values are combined at is their type's. -/
theorem combine_width (hm : m ∈ ([0, 1, 2, 3, 7] : List (BitVec 3))) : (if m.toNat ≤ 1 then 32 else 64) = typeW m := by
  revert m
  decide
/-- The order that they are combined by: a TX64 value is a signed one. -/
theorem combine_order (hm : m ∈ ([0, 1, 2, 3, 7] : List (BitVec 3))) {w : Nat} (hw : 1 ≤ w) (x y : BitVec w) :
    intLt (if m.toNat = 7 then 2 else m.toNat) w x.toNat y.toNat = if m = 1 ∨ m = 3 then x.ult y else x.slt y := by
  simp only [List.mem_cons, List.not_mem_nil, or_false] at hm
  rcases hm with rfl | rfl | rfl | rfl | rfl
  · exact intLt_toNat x y hw 0
  · exact intLt_toNat x y hw 1
  · exact intLt_toNat x y hw 2
  · exact intLt_toNat x y hw 3
  · exact intLt_toNat x y hw 2

/-- The combination of two numbers of a width. -/
def wholeOf {w : Nat} (a b : BitVec w) : BitVec w :=
  match op with
  | 0 => a + b
  | 1 => if (if m = 1 ∨ m = 3 then b.ult a else b.slt a) then b else a
  | 2 => if (if m = 1 ∨ m = 3 then a.ult b else a.slt b) then b else a
  | 3 => a &&& b
  | 4 => a ||| b
  | _ => a ^^^ b

theorem setWidth_pick {w : Nat} (c : Bool) {x y : Dword} (hx : x.toNat < 2 ^ w) (hy : y.toNat < 2 ^ w) :
    (if c = true then y else x) = (if c = true then y.setWidth w else x.setWidth w).setWidth 64 := by
  cases c
  · exact (setWidth_setWidth_of_lt hx).symm
  · exact (setWidth_setWidth_of_lt hy).symm

/-- Integers and TX64 values, with operands of the type's width. -/
theorem combineInt_eq (hm : m ∈ ([0, 1, 2, 3, 7] : List (BitVec 3))) {x y : Dword} (hx : x.toNat < 2 ^ typeW m) (hy : y.toNat < 2 ^ typeW m) :
    combineInt m.toNat op x y = (wholeOf m op (x.setWidth (typeW m)) (y.setWidth (typeW m))).setWidth 64 := by
  have htx : (x.setWidth (typeW m)).toNat = x.toNat := by rw [BitVec.toNat_setWidth, Nat.mod_eq_of_lt hx]
  have hty : (y.setWidth (typeW m)).toNat = y.toNat := by rw [BitVec.toNat_setWidth, Nat.mod_eq_of_lt hy]
  have hbits (f : (w : Nat) → BitVec w → BitVec w → BitVec w) (hf : ∀ w (a b : BitVec w), w ≤ 64 →
      (f w a b).setWidth 64 = f 64 (a.setWidth 64) (b.setWidth 64)) :
      f 64 x y = (f _ (x.setWidth (typeW m)) (y.setWidth (typeW m))).setWidth 64 := by
    rw [hf _ _ _ (typeW_le m), setWidth_setWidth_of_lt hx, setWidth_setWidth_of_lt hy]
  match op with
  | 0 =>
    simp only [combineInt, combine_width m hm, wholeOf, ← ofNat_add_toNat, htx, hty]
    exact atWidth_eq (typeW_le m) _
  | 1 =>
    simp only [combineInt, combine_width m hm, wholeOf, ← combine_order m hm (typeW_pos m), htx, hty]
    exact setWidth_pick _ hx hy
  | 2 =>
    simp only [combineInt, combine_width m hm, wholeOf, ← combine_order m hm (typeW_pos m), htx, hty]
    exact setWidth_pick _ hx hy
  | 3 => exact hbits (fun _ a b => a &&& b) fun _ _ _ _ => BitVec.setWidth_and
  | 4 => exact hbits (fun _ a b => a ||| b) fun _ _ _ _ => BitVec.setWidth_or
  | _ + 5 => exact hbits (fun _ a b => a ^^^ b) fun _ _ _ _ => BitVec.setWidth_xor

theorem bf16_read_daz_nan {v : Nat} {daz : Bool} (h : bf16.read false v = .nan) : bf16.read daz v = .nan := by
  simp only [FloatFmt.read] at h ⊢
  split at h
  · rwa [if_pos ‹_›]
  · split at h <;> cases h

/-- The operand that FMIN and FMAX, and the combinations after them, give back (spec/09 R214). -/
theorem pickFloat_eq (f : FloatFmt) (daz less : Bool) (x y : Nat) : pickFloat f daz less x y =
    if f.read daz x = .nan ∧ f.read daz y = .nan then f.nanCode
    else if f.read daz x = .nan ∨ (f.read daz y ≠ .nan ∧
      (if less = true then (f.read daz y).below (f.read daz x) else (f.read daz x).below (f.read daz y)) = true) then afterDaz f daz y
    else afterDaz f daz x := by
  rw [pickFloat]
  by_cases hx : f.read daz x = .nan <;> by_cases hy : f.read daz y = .nan <;> simp only [hx, hy, ne_eq, not_true, not_false_eq_true,
    and_self, and_false, false_and, true_and, or_false, true_or, false_or, if_true, if_false]

theorem integer_type {m : BitVec 3} {op : Nat} (hfloat : ¬ (m = 4 ∨ m = 5))
    (hlegal : (m.toNat < 4 ∧ op < 6) ∨ (m ∈ ([4, 5, 7] : List (BitVec 3)) ∧ op < 3)) : m ∈ ([0, 1, 2, 3, 7] : List (BitVec 3)) := by
  simp only [List.mem_cons, List.not_mem_nil, or_false] at hlegal ⊢
  bv_omega
theorem combine_integer (hm : ¬ (m = 4 ∨ m = 5)) (x y : Dword) : combine fmt m.toNat op x y = (combineInt m.toNat op x y, 0) := by
  rw [combine, if_neg (mt (isFloat_iff m).mp hm)]
theorem combine_pick (hm : m = 4 ∨ m = 5) (hop : op ≠ 0) (x y : Dword) : combine fmt m.toNat op x y =
    (BitVec.ofNat 64 (pickFloat (if m = 5 then bf16 else fp32) (fmtDAZ fmt) (op == 1) x.toNat y.toNat), 0) := by
  rw [combine, if_pos ((isFloat_iff m).mpr hm), floatOf_toNat]
  exact if_neg hop
theorem combine_sum_fp32 {x y : Dword} (hy : y.toNat < 2 ^ 32) : combine fmt 4 0 x y =
    finish fmt 4 ((fp32.read (fmtDAZ fmt) x.toNat).add (fmtRM fmt) (fp32.read (fmtDAZ fmt) y.toNat)) := by
  have hcut : y.toNat % 2 ^ (fp32.prec + 8) = y.toNat := Nat.mod_eq_of_lt hy
  have hdaz : (fmtDAZ fmt && 4 == 4) = fmtDAZ fmt := Bool.and_true _
  simp only [combine, floatOf, true_or, if_true, if_neg (show ¬ 4 = 5 by decide), hcut, hdaz]
theorem combine_sum_bf16 (x y : Dword) : combine fmt 5 0 x y =
    finish fmt 4 ((fp32.read false x.toNat).add (fmtRM fmt) (bf16.read (fmtDAZ fmt) (y.toNat % 65536))) := by
  have hdaz : (fmtDAZ fmt && 5 == 4) = false := Bool.and_false _
  simp only [combine, floatOf, or_true, if_true, hdaz]
  rfl

/-- An accumulator whose operands are combined as `comb` has it, while `P` holds of it. -/
theorem accumulate_eq {ty : Nat} {comb : Dword → Dword → Dword × BitVec 7} {P : Dword → Prop} {vs : List (Nat × Dword)}
    (hvs : ∀ v ∈ vs, ∀ a, P a → combine fmt ty op a v.2 = comb a v.2 ∧ P (comb a v.2).1) {start : Dword} (hstart : P start) :
    accumulate fmt ty op start vs = vs.foldl (fun a v => ((comb a.1 v.2).1, a.2 ||| (comb a.1 v.2).2)) (start, 0) := by
  rw [accumulate]
  generalize (0 : BitVec 7) = fl
  induction vs generalizing start fl with
  | nil => rfl
  | cons v vs ih =>
    obtain ⟨hcomb, hnext⟩ := hvs v List.mem_cons_self start hstart
    rw [List.foldl_cons, List.foldl_cons, hcomb]
    exact ih (fun v hv => hvs v (List.mem_cons_of_mem _ hv)) hnext _

theorem combineStart_eq (x : Dword) : combineStart fmt m.toNat op x =
    if m ≠ 5 then x
    else if op ≠ 0 then BitVec.ofNat 64 (x.toNat % 65536)
    else if bf16.read false (x.toNat % 65536) = .nan then 0x7FC00000
    else BitVec.ofNat 64 (65536 * afterDaz bf16 (fmtDAZ fmt) (x.toNat % 65536)) := by
  have hcut : x &&& 0xFFFF = BitVec.ofNat 64 (x.toNat % 65536) := by
    apply BitVec.eq_of_toNat_eq
    rw [BitVec.toNat_and, BitVec.toNat_ofNat, Nat.mod_eq_of_lt (b := 2 ^ 64) ((Nat.mod_lt _ (by decide)).trans (by decide))]
    exact Nat.and_two_pow_sub_one_eq_mod x.toNat 16
  by_cases hm : m = 5
  · subst hm
    by_cases hop : op = 0
    · have hlt : x.toNat % 65536 < 65536 := Nat.mod_lt _ (by decide)
      rw [combineStart, if_pos ⟨rfl, hop⟩, if_neg (not_not.mpr rfl), if_neg (not_not.mpr hop)]
      split
      · next hnan => rw [bf16_read_daz_nan hnan]; rfl
      · next hnan => rw [rnd_bf16_widened _ hlt hnan]
    · rw [combineStart, if_neg fun h => hop h.2, if_pos (show (5 : BitVec 3).toNat = 5 from rfl), if_neg (not_not.mpr rfl), if_pos hop, hcut]
  · have hty : ¬ m.toNat = 5 := mt (isBf16_iff m).mp hm
    rw [combineStart, if_neg fun h => hty h.1, if_neg hty, if_pos hm]

theorem combineOut_eq (a : Dword) : combineOut fmt m.toNat op a =
    if m = 5 ∧ op = 0 then
      (BitVec.ofNat 64 (rnd bf16 (fmtRM fmt) (fmtFTZ fmt) (fp32.read false a.toNat)).1, (rnd bf16 (fmtRM fmt) (fmtFTZ fmt) (fp32.read false a.toNat)).2)
    else (a, 0) :=
  if_ctx_congr (and_congr_left' (isBf16_iff m)) (fun _ => Prod.ext rfl (BitVec.zero_or ..)) fun _ => rfl

end

/-- Settles O9: each accumulator, combination by combination, and what is written of it. -/
theorem reductions : Obligations.Reductions := by
  unfold Obligations.Reductions
  intro fmt m op scan excl l x rest hlegal hvals w rm daz F num whole pick sum comb start acc out identity n give
  have hx : x.toNat < 2 ^ w := hvals (l, x) List.mem_cons_self
  have hrest (v : Nat × Dword) (hv : v ∈ rest) : v.2.toNat < 2 ^ w := hvals v (List.mem_cons_of_mem _ hv)
  have hcomb (a b : Dword) (ha : num = false → a.toNat < 2 ^ w) (hb : b.toNat < 2 ^ w) : combine fmt m.toNat op a b = comb a b := by
    by_cases hfloat : m = 4 ∨ m = 5
    · have hnum : ¬ num = false := fun hnum => of_decide_eq_false hnum hfloat
      refine Eq.trans ?_ (if_neg hnum).symm
      by_cases hop : op = 0
      · rw [if_neg (not_not.mpr hop), hop]
        rcases hfloat with hm | hm
        · rw [if_pos hm]
          subst hm
          exact combine_sum_fp32 fmt hb
        · rw [if_neg (by rw [hm]; decide)]
          subst hm
          exact combine_sum_bf16 fmt a b
      · rw [if_pos hop, combine_pick fmt m op hfloat hop, pickFloat_eq]
        simp only [beq_iff_eq]
        rfl
    · have hnum : num = false := decide_eq_false hfloat
      have hm : m ∈ ([0, 1, 2, 3, 7] : List (BitVec 3)) := integer_type hfloat hlegal
      refine Eq.trans ?_ (if_pos hnum).symm
      rw [combine_integer fmt m op hfloat, combineInt_eq m op hm (ha hnum) hb]
      rfl
  have hwidth (a b : Dword) (hnum : num = false) : (comb a b).1.toNat < 2 ^ w := by
    have hcut : comb a b = ((whole (a.setWidth w) (b.setWidth w)).setWidth 64, 0) := if_pos hnum
    rw [hcut, BitVec.toNat_setWidth_of_le (typeW_le m)]
    exact BitVec.isLt _
  have hstart : combineStart fmt m.toNat op x = start := combineStart_eq fmt m op x
  have hbegin : num = false → start.toNat < 2 ^ w := fun hnum => by
    have hm : m ≠ 5 := fun hm => of_decide_eq_false hnum (.inr hm)
    have hself : start = x := if_pos hm
    rw [hself]
    exact hx
  have hacc (k : Nat) : accumulated fmt m.toNat op x rest k = acc k := by
    rw [accumulated, hstart]
    exact accumulate_eq fmt op (P := fun a => num = false → a.toNat < 2 ^ w)
      (fun v hv a ha => ⟨hcomb a v.2 ha (hrest v (List.mem_of_mem_take hv)), hwidth a v.2⟩) hbegin
  have hidentity : combineIdentity m.toNat op = identity := by
    simp only [identity]
    generalize m.toNat = ty
    match op, ty with
    | 0, _ | 1, 0 | 1, 1 | 1, 2 | 1, 3 | 1, 4 | 1, 5 | 1, _ + 6 | 2, 0 | 2, 1 | 2, 2 | 2, 3 | 2, 4 | 2, 5 | 2, _ + 6 | 3, 0 | 3, 1 | 3, _ + 2 | _ + 4, _ => rfl
  have hgive (k : Nat) : laneGiven fmt m.toNat op scan excl x rest k = give k := by
    simp only [laneGiven, hacc, combineOut_eq, hidentity]
    rfl
  rw [reduceValues_eq]
  simp only [hgive, hacc]
  rfl

end Sys2Proof.Machine

namespace Sys2Proof.Machine

/-! The lanes that take part in a convergent instruction, and what each is given (spec/09 R221 to R223). -/

theorem filterMap_eq_map_filter {α β : Type*} {f : α → Option β} {p : α → Bool} {g : α → β}
    (h : ∀ a, f a = if p a = true then some (g a) else none) (l : List α) : l.filterMap f = (l.filter p).map g := by
  induction l with
  | nil => rfl
  | cons a l ih =>
    rw [List.filterMap_cons, h a, List.filter_cons, ih]
    cases p a <;> rfl

/-- The value that a list of lanes and values holds for lane `l`, or 0. -/
def valueFor (r : List (Nat × Dword)) (l : Nat) : Dword := (r.find? (·.1 == l)).elim 0 (·.2)

theorem find?_of_nodup {r : List (Nat × Dword)} (hn : (r.map (·.1)).Nodup) {v : Nat × Dword} (hv : v ∈ r) : r.find? (·.1 == v.1) = some v := by
  induction r with
  | nil => cases hv
  | cons a r ih =>
    obtain ⟨ha, hn⟩ := List.nodup_cons.mp hn
    rcases List.mem_cons.mp hv with rfl | hv
    · exact List.find?_cons_of_pos (beq_self_eq_true _)
    · have hne : a.1 ≠ v.1 := fun he => ha (List.mem_map.mpr ⟨v, hv, he.symm⟩)
      rw [List.find?_cons_of_neg (by simpa using hne), ih hn hv]
theorem eq_map_valueFor {r : List (Nat × Dword)} (hn : (r.map (·.1)).Nodup) : r = (r.map (·.1)).map fun l => (l, valueFor r l) := by
  rw [List.map_map]
  refine (List.map_id _).symm.trans (List.map_congr_left fun v hv => ?_)
  simp [valueFor, find?_of_nodup hn hv]

/-- The results of those lanes that `p` holds of. -/
theorem reduceValues_filter (fmt : Word) (ty op : Nat) (scan excl : Bool) (p : Nat → Bool) {ls : List Nat} (hn : ls.Nodup) (val : Nat → Dword) :
    let r := (reduceValues fmt ty op scan excl (ls.map fun l => (l, val l))).1
    (r.filter fun v => p v.1) = (ls.filter p).map fun l => (l, valueFor r l) := by
  intro r
  have hlanes : r.map (·.1) = ls := by
    rw [reduceValues_lanes, List.map_map]
    exact List.map_id _
  have hr := eq_map_valueFor (r := r) (hlanes.symm ▸ hn)
  rw [hlanes] at hr
  conv_lhs => rw [hr]
  rw [List.filter_map]
  rfl

/-! The value of VVOTE (spec/09 R222). -/

section
variable (ls : List Nat) (val : Nat → Dword)

theorem getLsbD_voteValue_mask {l : Nat} (hl : l < 64) :
    (voteValue 0 (ls.map fun l => (l, val l))).getLsbD l = (decide (l ∈ ls) && val l != 0) := by
  have hfold : voteValue 0 (ls.map fun l => (l, val l)) = ls.foldl (fun a l => if (val l != 0) = true then a ||| Dword.bit l else a) 0 := by
    rw [voteValue, List.foldl_filter, List.foldl_map]
  rw [hfold, getLsbD_foldl_bit_if _ _ _ hl]
  simp
theorem voteValue_any : voteValue 1 (ls.map fun l => (l, val l)) &&& 1 = if (ls.any fun l => val l != 0) = true then 1 else 0 := by
  have hempty : ((ls.map fun l => (l, val l)).filter fun v => v.2 != 0).isEmpty = !(ls.any fun l => val l != 0) := by
    rw [Bool.eq_iff_iff]
    simp [List.isEmpty_iff, List.filter_eq_nil_iff]
  simp only [voteValue, hempty]
  cases ls.any fun l => val l != 0 <;> rfl
theorem voteValue_all : voteValue 2 (ls.map fun l => (l, val l)) &&& 1 = if (ls.all fun l => val l != 0) = true then 1 else 0 := by
  have hlength : ((ls.map fun l => (l, val l)).filter fun v => v.2 != 0).length = (ls.map fun l => (l, val l)).length ↔ (ls.all fun l => val l != 0) = true := by
    rw [List.length_filter_eq_length_iff]
    simp
  simp only [voteValue, hlength]
  split <;> rfl
theorem voteValue_equal : voteValue 3 (ls.map fun l => (l, val l)) &&& 1 =
    if (ls.all fun l => ls.all fun k => val l == val k) = true then 1 else 0 := by
  have hhead : ((ls.map fun l => (l, val l)).all fun v => some v.2 == ((ls.map fun l => (l, val l)).head?.map (·.2))) = true ↔
      (ls.all fun l => ls.all fun k => val l == val k) = true := by
    cases ls with
    | nil => simp
    | cons a r =>
      have hfirst : ((a :: r).map fun l => (l, val l)).head?.map (·.2) = some (val a) := rfl
      rw [hfirst, List.all_map]
      simp only [List.all_eq_true, Function.comp_apply, beq_iff_eq, Option.some.injEq]
      exact ⟨fun h l hl k hk => (h l hl).trans (h k hk).symm, fun h l hl => h l hl a List.mem_cons_self⟩
  simp only [voteValue, hhead]
  split <;> rfl

end

end Sys2Proof.Machine

namespace Sys2Proof.Machine

variable {s t s0 : State} {u v : UnitId} {i : Instr}

/-! A member of a family performs a convergent instruction (spec/09 R221 to R223). -/

/-- The taking-part lanes in ascending order, each with the operand that `val` gives it. -/
theorem State.taking_eq {us : List UnitId} {a w : Nat} {mask : Dword} {val : Nat → Dword}
    (h : ∀ l, (us.find? fun u => (s.maskOf u).getLsbD l).map (fun u => (l, s.srcL u a l w)) = if mask.getLsbD l = true then some (l, val l) else none) :
    s.taking us a w = mask.lanes.map fun l => (l, val l) :=
  filterMap_eq_map_filter h (List.range 64)

theorem decide_mem_lanes (m : Dword) {l : Nat} (hl : l < 64) : decide (l ∈ m.lanes) = m.getLsbD l := by
  rw [Bool.eq_iff_iff, decide_eq_true_iff, Dword.mem_lanes]
  exact and_iff_right hl
theorem lanes_filter_lanes {m mask : Dword} (h : ∀ l, m.getLsbD l = true → mask.getLsbD l = true) : mask.lanes.filter m.getLsbD = m.lanes := by
  rw [Dword.lanes, List.filter_filter, Dword.lanes]
  refine List.filter_congr fun l _ => ?_
  cases hm : m.getLsbD l
  · rfl
  · rw [h l hm]
    rfl

/-- What VREDUCE, or VSCAN where `scan` says so, gives the lanes of a member, under its own fmt. -/
def State.combined (s : State) (u : UnitId) (f : LA) (scan : Bool) (vals : List (Nat × Dword)) : List (Nat × Dword) × BitVec 7 :=
  reduceValues (s.thread u).fmt f.m.toNat (f.b.toNat % 8) scan (f.b.toNat / 8 % 2 == 1 && scan) vals

section
variable {us : List UnitId} {f : LA} {mask : Dword} {val : Nat → Dword}

theorem State.memberPerform_vote (x : VoteX) (htaking : s0.taking us f.a.toNat (typeW f.m) = mask.lanes.map fun l => (l, val l)) :
    ∃ y : Dword, (∀ s v, s0.groupOf v = s0.groupOf u → State.memberPerform s0 us (.vvote f x) s v = (s.sput v x.sd.toNat y).doneL v (.vvote f x)) ∧
      (x.mode = 0 → ∀ l, l < 64 → y.getLsbD l = (decide (l < (s0.groupOf u).width) && decide (l ∈ mask.lanes) && val l != 0)) ∧
      (x.mode = 1 → y = if mask.lanes.any fun l => val l != 0 then 1 else 0) ∧
      (x.mode = 2 → y = if mask.lanes.all fun l => val l != 0 then 1 else 0) ∧
      (x.mode = 3 → y = if mask.lanes.all fun l => mask.lanes.all fun k => val l == val k then 1 else 0) := by
  refine ⟨voteValue x.mode.toNat (mask.lanes.map fun l => (l, val l)) &&& if x.mode = 0 then (s0.groupOf u).widthMask else 1,
    fun s v hv => ?_, fun hm l hl => ?_, fun hm => ?_, fun hm => ?_, fun hm => ?_⟩
  · simp only [State.memberPerform, htaking, hv]
  · have hvote := getLsbD_voteValue_mask mask.lanes val hl
    rw [hm, if_pos rfl, BitVec.getLsbD_and, Group.widthMask, Dword.getLsbD_low, Bool.and_assoc, ← hvote, Bool.and_comm, decide_eq_true hl, Bool.true_and]
    rfl
  · rw [hm]
    exact voteValue_any mask.lanes val
  · rw [hm]
    exact voteValue_all mask.lanes val
  · rw [hm]
    exact voteValue_equal mask.lanes val

/-- VREDUCE and VSCAN give a member's lanes their results and are done. -/
theorem State.memberPerform_combine {scan : Bool} (hi : (i, scan) ∈ [(Instr.vreduce f, false), (.vscan f, true)]) (hu : u.isPath = true)
    (htaking : s0.taking us f.a.toNat (typeW f.m) = mask.lanes.map fun l => (l, val l))
    (hmask : ∀ l, (s0.maskOf u).getLsbD l = true → mask.getLsbD l = true) (hsame : s.maskOf u = s0.maskOf u) :
    let r := s0.combined u f scan (mask.lanes.map fun l => (l, val l))
    s.LaneDone (State.memberPerform s0 us i s u) u i f.d.toNat f.k (typeW f.m) (valueFor r.1) r.2 := by
  intro r
  have hmine : (r.1.filter fun v => (s0.maskOf u).getLsbD v.1) = (s.maskOf u).lanes.map fun l => (l, valueFor r.1 l) := by
    rw [hsame, ← lanes_filter_lanes hmask]
    exact reduceValues_filter _ _ _ _ _ _ (Dword.lanes_nodup mask) val
  have hperform : State.memberPerform s0 us i s u =
      (s.orFlags u r.2).doneV u i f.d.toNat f.k (typeW f.m) (laneTab (s.maskOf u) (valueFor r.1)) := by
    rw [laneTab, ← hmine]
    simp only [List.mem_cons, Prod.mk.injEq, List.not_mem_nil, or_false] at hi
    rcases hi with ⟨rfl, rfl⟩ | ⟨rfl, rfl⟩
    · simp only [r, State.combined, State.memberPerform, htaking, Bool.and_false]
      rfl
    · simp only [r, State.combined, State.memberPerform, htaking, Bool.and_true]
      rfl
  rw [hperform]
  exact State.laneDone s u hu i _ _ _ _ _

end

/-! A path comes to a convergent instruction (spec/09 R221). -/

theorem exec_convergent (hi : convergent i = true) : exec i s = issue i s fun u s => s.arrive u i := by
  unfold convergent at hi
  split at hi
  · rfl
  · rfl
  · rfl
  · exact absurd hi Bool.false_ne_true

/-- What a member of a family becomes when path `n` drops out of the waits at addresses other than `a`. -/
def Path.afterDrop (n : Nat) (a : Option Dword) (c : Nat × Path) : Nat × Path :=
  if c.1 != n && c.2.th.gathers && some c.2.th.pc != a then
    (c.1, c.2.waitingFor (c.2.th.wait.map fun w => { w with lo := w.lo ||| 2 ^ n }))
  else c

theorem Path.afterDrop_kept {n : Nat} {a : Option Dword} {c : Nat × Path} (h : some c.2.th.pc = a) : Path.afterDrop n a c = c := by
  refine if_neg ?_
  rw [h]
  simp
theorem Path.afterDrop_keys (n : Nat) (a : Option Dword) (c : Nat × Path) : (Path.afterDrop n a c).1 = c.1 ∧ (Path.afterDrop n a c).2.fam = c.2.fam := by
  rw [Path.afterDrop]
  split <;> exact ⟨rfl, rfl⟩

section
variable (s : State) (c g n : Nat) (a : Option Dword)

theorem State.family_dropOut : (s.dropOut (.path c g n) a).family (.path c g n) = (s.family (.path c g n)).map (Path.afterDrop n a) := by
  have hself : (s.dropOut (.path c g n) a).pathOf (.path c g n) = s.pathOf (.path c g n) := by
    rw [State.pathOf, State.group_dropOut, Group.path_dropOut_self]
    rfl
  rw [State.family, hself, State.group_dropOut, State.family]
  refine (List.filter_map ..).trans (congrArg (List.map _) (List.filter_congr fun k _ => ?_))
  obtain ⟨hkey, hfam⟩ := Path.afterDrop_keys n a k
  exact congrArg₂ (fun x y => x != n && y == (s.pathOf (.path c g n)).fam) hkey hfam

end

/-- The unit's family has gathered: the unit and the members that wait there perform together. -/
theorem State.arrive_gathered {s' : State} (hs' : s.dropOut u (some (s.thread u).pc) = s')
    (hall : ∀ k ∈ s'.family u, k.2.th.gathers = true ∧ k.2.th.pc = (s.thread u).pc) : s.arrive u i =
    ((s'.family u).map fun k => siblingOf u k.1).foldl (fun t v => State.memberPerform s' (u :: (s'.family u).map fun k => siblingOf u k.1) i t v)
      (State.memberPerform s' (u :: (s'.family u).map fun k => siblingOf u k.1) i s' u) := by
  have hthread : s'.thread u = s.thread u := hs' ▸ State.thread_dropOut_self s u _
  have hgathered : (s'.gathered u).map (siblingOf u) = (s'.family u).map fun k => siblingOf u k.1 := by
    rw [State.gathered, hthread, List.filter_eq_self.mpr, List.map_map]
    · rfl
    · intro k hk
      simp [hall k hk]
  have hconverged (out : Nat) : s'.converged u out = true := by
    rw [State.converged, hthread, List.all_eq_true]
    intro k hk
    simp [hall k hk]
  simp only [State.arrive, hs', hconverged, if_true, State.convergeNow, hgathered, List.foldl_cons]

theorem testBit_outAtStart {l : List (Nat × Path)} {pc : Dword} {k : Nat} (h : ∀ j ∈ l, j.1 = k → j.2.th.out pc = false) :
    (l.foldl (fun (a : Nat) (k : Nat × Path) => if k.2.th.out pc then a ||| 2 ^ k.1 else a) 0).testBit k = false := by
  have hfold (a : Nat) (ha : a.testBit k = false) : (l.foldl (fun (a : Nat) (k : Nat × Path) => if k.2.th.out pc then a ||| 2 ^ k.1 else a) a).testBit k = false := by
    induction l generalizing a with
    | nil => exact ha
    | cons j l ih =>
      rw [List.foldl_cons]
      refine ih (fun j hj => h j (List.mem_cons_of_mem _ hj)) _ ?_
      split
      · next hout =>
        have hne : j.1 ≠ k := fun he => Bool.false_ne_true ((h j List.mem_cons_self he).symm.trans hout)
        rw [Nat.testBit_or, ha, Nat.testBit_two_pow_of_ne hne]
        rfl
      · exact ha
  exact hfold 0 (Nat.zero_testBit k)

/-- A member has neither come to the instruction nor dropped out: the unit waits. -/
theorem State.arrive_waits {s' : State} (hs' : s.dropOut u (some (s.thread u).pc) = s') {k : Nat × Path} (hk : k ∈ s'.family u)
    (hgathers : k.2.th.gathers = false) (hout : ∀ j ∈ s'.family u, j.1 = k.1 → j.2.th.out (s.thread u).pc = false) :
    s.arrive u i = s'.waitIn u { instr := i, lo := s'.outAtStart u } := by
  have hthread : s'.thread u = s.thread u := hs' ▸ State.thread_dropOut_self s u _
  have hopen : s'.converged u (s'.outAtStart u) = false := by
    rw [State.converged, List.all_eq_false]
    refine ⟨k, hk, ?_⟩
    rw [hgathers, State.outAtStart, hthread, testBit_outAtStart hout]
    simp
  simp only [State.arrive, hs', hopen, Bool.false_eq_true, if_false]

/-! A family of one. -/

theorem State.groupOf_width_dropOut (s : State) (u : UnitId) (a : Option Dword) : ((s.dropOut u a).groupOf u).width = (s.groupOf u).width := by
  cases u with
  | path c g n =>
    rw [State.groupOf, State.group_dropOut]
    rfl
  | seq c k => rfl
  | lant l p => rfl

theorem convergent_of_combine {f : LA} {scan : Bool} (hi : (i, scan) ∈ [(Instr.vreduce f, false), (.vscan f, true)]) :
    convergent i = true ∧ i.units = .lform := by
  simp only [List.mem_cons, Prod.mk.injEq, List.not_mem_nil, or_false] at hi
  rcases hi with ⟨rfl, -⟩ | ⟨rfl, -⟩ <;> exact ⟨rfl, rfl⟩

section
variable (s : State)

theorem State.taking_self (a w : Nat) : s.taking [u] a w = (s.maskOf u).lanes.map fun l => (l, s.srcL u a l w) :=
  State.taking_eq fun l => by
    rw [List.find?_singleton]
    split <;> rfl

variable (hu : u.isPath = true)
include hu

theorem State.taking_dropOut_self (at_ : Option Dword) (a w : Nat) :
    (s.dropOut u at_).taking [u] a w = (s.maskOf u).lanes.map fun l => (l, s.srcL u a l w) := by
  simp only [State.taking_self, State.mask_dropOut_self, State.srcL_dropOut_self s hu]
theorem State.arrive_alone (halone : s.family u = []) {s' : State} (hs' : s.dropOut u (some (s.thread u).pc) = s') :
    s.arrive u i = State.memberPerform s' [u] i s' u := by
  have hempty : s'.family u = [] := by
    cases u with
    | path c g n => rw [← hs', State.family_dropOut, halone, List.map_nil]
    | seq c k => exact absurd hu Bool.false_ne_true
    | lant l p => exact absurd hu Bool.false_ne_true
  rw [State.arrive_gathered hs' (by simp [hempty]), hempty]
  rfl

end

/-- A path that has waited in a convergent instruction, and has no other member to wait for, performs it. -/
theorem exec_convergentPerform_alone {w : Wait} (hwait : (s.thread u).wait = some w) (hstate : (s.thread u).state = .waiting)
    (hi : convergent w.instr = true) (halone : s.family u = []) :
    exec (.convergentPerform u) s = .next (State.memberPerform s [u] w.instr s u) := by
  have hgathers : (s.thread u).gathers = true := by simp [Thread.gathers, hstate, hwait, hi]
  have hconverged : s.converged u w.lo = true := by rw [State.converged, halone]; rfl
  have hgathered : s.gathered u = [] := by rw [State.gathered, halone]; rfl
  simp only [exec_convergentPerform, execConvergentPerform, State.tryConverge, hwait, hgathers, hconverged, Bool.and_self, if_true,
    State.convergeNow, hgathered, List.map_nil, List.foldl_cons, List.foldl_nil]
/-- One that does not wait is left as it is. -/
theorem exec_convergentPerform_stays {w : Wait} (hwait : (s.thread u).wait = some w) (hstate : (s.thread u).state ≠ .waiting) :
    exec (.convergentPerform u) s = .next s := by
  have hgathers : (s.thread u).gathers = false := by simp [Thread.gathers, hstate]
  simp only [exec_convergentPerform, execConvergentPerform, State.tryConverge, hwait, hgathers, Bool.false_and, Bool.false_eq_true, if_false]

/-! A family of two, which gathers in one instruction. -/

theorem State.mem_family {c g n : Nat} {k : Nat × Path} (hk : k ∈ s.family (.path c g n)) : k.1 ≠ n := by
  have hne := (Bool.and_eq_true_iff.mp (List.mem_filter.mp hk).2).1
  simpa using hne
theorem State.Own.mask_member {c g n j : Nat} (h : s.Own t (.path c g n)) (hj : j ≠ n) : t.maskOf (.path c g j) = s.maskOf (.path c g j) :=
  congrArg Path.mask (h.apart.paths c g n rfl j hj)

section
variable (s : State) (c g n j : Nat)

theorem State.taking_pair (a w : Nat) : s.taking [.path c g n, .path c g j] a w =
    (s.maskOf (.path c g n) ||| s.maskOf (.path c g j)).lanes.map fun l =>
      (l, if (s.maskOf (.path c g n)).getLsbD l = true then s.srcL (.path c g n) a l w else s.srcL (.path c g j) a l w) :=
  State.taking_eq fun l => by
    rw [BitVec.getLsbD_or, List.find?_cons, List.find?_singleton]
    cases (s.maskOf (.path c g n)).getLsbD l <;> cases (s.maskOf (.path c g j)).getLsbD l <;> rfl

theorem State.taking_dropOut_pair (at_ : Option Dword) (a w : Nat) : (s.dropOut (.path c g n) at_).taking [.path c g n, .path c g j] a w =
    (s.maskOf (.path c g n) ||| s.maskOf (.path c g j)).lanes.map fun l =>
      (l, if (s.maskOf (.path c g n)).getLsbD l = true then s.srcL (.path c g n) a l w else s.srcL (.path c g j) a l w) := by
  simp only [State.taking_pair, State.mask_dropOut, State.srcL_dropOut]
theorem State.combined_dropOut (at_ : Option Dword) (f : LA) (scan : Bool) (vals : List (Nat × Dword)) :
    (s.dropOut (.path c g n) at_).combined (.path c g j) f scan vals = s.combined (.path c g j) f scan vals := by
  obtain ⟨x, hx⟩ := State.pathOf_dropOut s c g n j at_
  have hfmt : ((s.dropOut (.path c g n) at_).thread (.path c g j)).fmt = (s.thread (.path c g j)).fmt :=
    (congrArg (fun p => p.th.fmt) hx).trans rfl
  rw [State.combined, hfmt]
  rfl

theorem State.arrive_pair {s' : State} (hs' : s.dropOut (.path c g n) (some (s.thread (.path c g n)).pc) = s')
    (hfam : s.family (.path c g n) = [(j, s.pathOf (.path c g j))]) (hpc : (s.thread (.path c g j)).pc = (s.thread (.path c g n)).pc)
    (hwait : (s.thread (.path c g j)).waiting = some i) (hi : convergent i = true) :
    s.arrive (.path c g n) i = State.memberPerform s' [.path c g n, .path c g j] i
      (State.memberPerform s' [.path c g n, .path c g j] i s' (.path c g n)) (.path c g j) := by
  have hkept : s'.family (.path c g n) = [(j, s.pathOf (.path c g j))] := by
    rw [← hs', State.family_dropOut, hfam, List.map_singleton, Path.afterDrop_kept (congrArg some hpc)]
  have hgathers : (s.thread (.path c g j)).gathers = true := by
    obtain ⟨hstate, w, hw, rfl⟩ := Thread.waiting_eq_some.mp hwait
    simp [Thread.gathers, hstate, hw, hi]
  have hall : ∀ k ∈ s'.family (.path c g n), k.2.th.gathers = true ∧ k.2.th.pc = (s.thread (.path c g n)).pc := by
    rw [hkept, List.forall_mem_singleton]
    exact ⟨hgathers, hpc⟩
  rw [State.arrive_gathered hs' hall, hkept]
  rfl

end

/-- Settles O8: the members that have gathered perform one after the other, over the lanes of all; else the path waits. -/
theorem convergents : Obligations.Convergents := by
  unfold Obligations.Convergents
  refine ⟨?alone, ?pair, ?waits, ?waited⟩
  case alone =>
    intro s u f halone w ls vals red s'
    have hexec {i : Instr} (hi : convergent i = true) (h : s.Issues u i) (hu : u.isPath = true) :
        exec i s = .next (State.memberPerform s' [u] i s' u) := by
      rw [exec_convergent hi, h.next, State.arrive_alone s hu halone rfl]
    have hcombine (i : Instr) (scan : Bool) (hi : (i, scan) ∈ [(Instr.vreduce f, false), (.vscan f, true)]) (h : s.Issues u i) :
        ∃ t, exec i s = .next t ∧ s'.LaneDone t u i f.d.toNat f.k w (valueFor (red scan).1) (red scan).2 := by
      obtain ⟨hconv, hl⟩ := convergent_of_combine hi
      have hu := h.path hl
      have hdone := State.memberPerform_combine hi hu (State.taking_dropOut_self s hu (some (s.thread u).pc) _ _)
        (fun l hm => State.mask_dropOut_self s u _ ▸ hm) rfl
      rw [State.combined, State.thread_dropOut_self] at hdone
      exact ⟨_, hexec hconv h hu, hdone⟩
    refine ⟨fun x h => ?_, fun h => hcombine _ false (by simp) h, fun h => hcombine _ true (by simp) h⟩
    have hu : u.isPath = true := h.path rfl
    obtain ⟨y, hperform, hmask, hany, hevery, hequal⟩ := State.memberPerform_vote (u := u) x (State.taking_dropOut_self s hu (some (s.thread u).pc) _ _)
    refine ⟨_, y, hexec rfl h hu, ?_, fun hm l hl => ?_, hany, hevery, hequal⟩
    · rw [hperform s' u rfl]
      exact State.plainDoneL _ u _
    · rw [hmask hm l hl, State.groupOf_width_dropOut, decide_mem_lanes _ hl]
  case pair =>
    intro s c g n j f u v hfam hpc w ls val red s'
    have hj : j ≠ n := State.mem_family (k := (j, s.pathOf v)) (hfam ▸ List.mem_singleton_self _)
    have htaking : s'.taking [u, v] f.a.toNat w = ls.map fun l => (l, val l) := State.taking_dropOut_pair s c g n j _ _ _
    have hexec {i : Instr} (hi : convergent i = true) (h : s.Issues u i) (hwait : (s.thread v).waiting = some i) :
        exec i s = .next (State.memberPerform s' [u, v] i (State.memberPerform s' [u, v] i s' u) v) := by
      rw [exec_convergent hi, h.next, State.arrive_pair s c g n j rfl hfam hpc hwait hi]
    refine ⟨fun x h hwait => ?_, fun i scan hi h hwait => ?_⟩
    · obtain ⟨y, hperform, hmask, hany, hevery, hequal⟩ := State.memberPerform_vote (u := u) x htaking
      refine ⟨_, State.memberPerform s' [u, v] (.vvote f x) s' u, y, hexec rfl h hwait, ?_, ?_, fun hm l hl => ?_, hany, hevery, hequal⟩
      · rw [hperform s' u rfl]
        exact State.plainDoneL _ u _
      · rw [hperform s' u rfl, hperform _ v rfl]
        exact State.plainDoneL _ v _
      · rw [hmask hm l hl, State.groupOf_width_dropOut]
    · have hmine (l : Nat) (hl : (s.maskOf u).getLsbD l = true) : (s.maskOf u ||| s.maskOf v).getLsbD l = true := by simp [hl]
      have htheirs (l : Nat) (hl : (s.maskOf v).getLsbD l = true) : (s.maskOf u ||| s.maskOf v).getLsbD l = true := by simp [hl]
      have hfirst := State.memberPerform_combine (s := s') hi rfl htaking (fun l hl => hmine l (State.mask_dropOut s c g n n _ ▸ hl)) rfl
      have hsecond := State.memberPerform_combine hi rfl htaking (fun l hl => htheirs l (State.mask_dropOut s c g n j _ ▸ hl)) (hfirst.1.mask_member hj)
      rw [State.combined_dropOut] at hfirst hsecond
      exact ⟨_, _, hexec (convergent_of_combine hi).1 h hwait, hfirst, hsecond⟩
  case waits =>
    rintro s u i hi h s' ⟨k, hk, hgathers, hout⟩
    refine ⟨_, (exec_convergent hi).trans (h.next _), ?_⟩
    rw [State.arrive_waits rfl hk hgathers hout]
    exact State.waitsIn s' u _
  case waited =>
    intro s u f w hwait hcheck vals red
    refine ⟨exec_convergentPerform_stays hwait, fun hx hstate halone => ?_⟩
    have hu : u.isPath = true := State.isPath_of_preCheck hcheck (by rw [hx]; rfl)
    have hdone := State.memberPerform_combine (s := s) (i := .vreduce f) (scan := false) (by simp) hu (s.taking_self f.a.toNat (typeW f.m)) (fun _ hm => hm) rfl
    rw [State.combined, Bool.and_false] at hdone
    rw [exec_convergentPerform_alone hwait hstate (by rw [hx]; rfl) halone, hx]
    exact ⟨_, rfl, hdone⟩

end Sys2Proof.Machine

namespace Sys2Proof.Machine

variable {x y : Exact} {e : Int}

/-! Exact values in whole units (spec/06 R143): sums, products, order and quotients. -/

theorem Exact.units_eq (x : Exact) (e : Int) : x.units e = (if x.neg then -1 else 1) * ((x.mag * 2 ^ (x.exp - e).toNat : Nat) : Int) := by
  rw [Exact.units]
  cases x.neg <;> simp
/-- In smaller units there are as many times more of them. -/
theorem Exact.units_scale {f : Int} (he : e ≤ f) (hf : f ≤ x.exp) : x.units e = x.units f * 2 ^ (f - e).toNat := by
  have hexp : (x.exp - e).toNat = (x.exp - f).toNat + (f - e).toNat := by omega
  rw [Exact.units_eq, Exact.units_eq, hexp, pow_add]
  push_cast
  ring
theorem Exact.units_ofInt (n : Int) {f : Int} (he : e ≤ f) : (Exact.ofInt n f).units e = n * 2 ^ (f - e).toNat := by
  have hself : (Exact.ofInt n f).units f = n := by
    simp only [Exact.units, Exact.ofInt, sub_self, Int.toNat_zero, pow_zero, mul_one, decide_eq_true_eq]
    split <;> omega
  rw [Exact.units_scale he (le_refl f), hself]

theorem Exact.add_zero_sum {rm : Nat} (h : x.units (min x.exp y.exp) + y.units (min x.exp y.exp) = 0) :
    x.add rm y = .zero (if x.isZero && y.isZero && x.neg == y.neg then x.neg else rm == 3) := if_pos h
theorem Exact.add_nonzero_sum {rm : Nat} (h : x.units (min x.exp y.exp) + y.units (min x.exp y.exp) ≠ 0) :
    x.add rm y = .ofInt (x.units (min x.exp y.exp) + y.units (min x.exp y.exp)) (min x.exp y.exp) := if_neg h

/-- The sum of two exact values is exact. -/
theorem Exact.units_add (rm : Nat) (hx : e ≤ x.exp) (hy : e ≤ y.exp) : (x.add rm y).units e = x.units e + y.units e := by
  have hmin : e ≤ min x.exp y.exp := le_min hx hy
  rw [Exact.units_scale hmin (min_le_left _ _) (x := x), Exact.units_scale hmin (min_le_right _ _) (x := y), ← add_mul]
  by_cases hsum : x.units (min x.exp y.exp) + y.units (min x.exp y.exp) = 0
  · rw [Exact.add_zero_sum hsum, hsum, zero_mul, Exact.units_eq, Exact.zero]
    simp
  · rw [Exact.add_nonzero_sum hsum, Exact.units_ofInt _ hmin]
/-- An exact zero sum takes the sign that spec/06 R143 gives. -/
theorem Exact.neg_add_of_zero (rm : Nat) (hx : x.more = false) (hy : y.more = false) (h : (x.add rm y).mag = 0) :
    (x.add rm y).neg = if x.mag = 0 ∧ y.mag = 0 ∧ x.neg = y.neg then x.neg else decide (rm = 3) := by
  by_cases hsum : x.units (min x.exp y.exp) + y.units (min x.exp y.exp) = 0
  · rw [Exact.add_zero_sum hsum, Exact.zero, Exact.isZero_eq hx, Exact.isZero_eq hy]
    simp [and_assoc, beq_eq_decide]
  · rw [Exact.add_nonzero_sum hsum] at h
    exact absurd (Int.natAbs_eq_zero.mp h) hsum
theorem Exact.more_add (rm : Nat) : (x.add rm y).more = false := by
  rw [Exact.add]
  split <;> rfl

theorem sign_ite (d : Int) : (if d < 0 then -1 else if d = 0 then 0 else 1) = d.sign := by
  rcases lt_trichotomy d 0 with h | h | h
  · rw [if_pos h, Int.sign_eq_neg_one_of_neg h]
  · rw [h]
    rfl
  · rw [if_neg (by omega), if_neg (by omega), Int.sign_eq_one_of_pos h]
/-- The order of two exact values is that of their numbers of units. -/
theorem FloatVal.cmp_fin (hx : e ≤ x.exp) (hy : e ≤ y.exp) : (FloatVal.fin x).cmp (.fin y) = (x.units e - y.units e).sign := by
  have hmin : e ≤ min x.exp y.exp := le_min hx hy
  have hpow : (0 : Int) < 2 ^ (min x.exp y.exp - e).toNat := by positivity
  rw [Exact.units_scale hmin (min_le_left _ _) (x := x), Exact.units_scale hmin (min_le_right _ _) (x := y), ← sub_mul, Int.sign_mul,
    Int.sign_eq_one_of_pos hpow, mul_one, ← sign_ite]
  rfl

/-! Quotients to at least 32 bits, with a mark for the rest (spec/06 R143). -/

theorem div_mod_mark {n m : Nat} (hm : m ≠ 0) : n / m * m ≤ n ∧ n < (n / m + 1) * m ∧ ((n % m != 0) = true ↔ n / m * m ≠ n) := by
  have hdiv := Nat.div_add_mod n m
  have hmod := Nat.mod_lt n (Nat.pos_of_ne_zero hm)
  rw [mul_comm m] at hdiv
  refine ⟨by omega, by rw [add_mul]; omega, ?_⟩
  rw [bne_iff_ne]
  omega

/-- The exponents and the magnitude of a quotient, before it is rounded. -/
def quotient (x y : Exact) : Exact :=
  { neg := x.neg != y.neg, mag := x.mag * 2 ^ (64 + Nat.log2 y.mag) / y.mag, exp := x.exp - y.exp - (64 + Nat.log2 y.mag : Nat),
    more := x.mag * 2 ^ (64 + Nat.log2 y.mag) % y.mag != 0 }

theorem FloatVal.div_fin (hy : y.mag ≠ 0) : (FloatVal.fin x).div (.fin y) = .fin (quotient x y) := if_neg hy
theorem quotient_wide (hx : x.mag ≠ 0) (hy : y.mag ≠ 0) : 2 ^ 32 ≤ (quotient x y).mag := by
  have hlog : y.mag < 2 ^ (Nat.log2 y.mag + 1) := Nat.lt_log2_self
  refine (Nat.le_div_iff_mul_le (Nat.pos_of_ne_zero hy)).mpr ?_
  calc 2 ^ 32 * y.mag ≤ 2 ^ 32 * 2 ^ (Nat.log2 y.mag + 1) := Nat.mul_le_mul_left _ hlog.le
    _ = 2 ^ (32 + (Nat.log2 y.mag + 1)) := (pow_add 2 32 _).symm
    _ ≤ 2 ^ (64 + Nat.log2 y.mag) := Nat.pow_le_pow_right Nat.two_pos (by omega)
    _ ≤ x.mag * 2 ^ (64 + Nat.log2 y.mag) := Nat.le_mul_of_pos_left _ (Nat.pos_of_ne_zero hx)
theorem quotient_spec (hy : y.mag ≠ 0) :
    let z := quotient x y
    let n := x.mag * 2 ^ (x.exp - y.exp - z.exp).toNat
    z.mag * y.mag ≤ n ∧ n < (z.mag + 1) * y.mag ∧ (z.more = true ↔ z.mag * y.mag ≠ n) := by
  intro z n
  have hn : n = x.mag * 2 ^ (64 + Nat.log2 y.mag) := by
    simp only [n, z, quotient, sub_sub_cancel, Int.toNat_natCast]
  rw [hn]
  exact div_mod_mark hy
theorem quotient_exp_le (x y : Exact) : (quotient x y).exp ≤ x.exp - y.exp := by
  simp only [quotient]
  omega

/-! Square roots. -/

/-- One bit at a time from bit `n` down: the root lies in the 2^n numbers from `r` on. -/
theorem isqrtFrom_spec (n : Nat) {v r : Nat} (hr : r * r ≤ v) (hv : v < (r + 2 ^ n) * (r + 2 ^ n)) :
    isqrtFrom n v r * isqrtFrom n v r ≤ v ∧ v < (isqrtFrom n v r + 1) * (isqrtFrom n v r + 1) := by
  induction n generalizing r with
  | zero => exact ⟨hr, hv⟩
  | succ n ih =>
    have hhalf : r + 2 ^ (n + 1) = r + 2 ^ n + 2 ^ n := by rw [pow_succ]; omega
    rw [isqrtFrom]
    split
    · next hbit => exact ih hbit (hhalf ▸ hv)
    · next hbit => exact ih hr (not_le.mp hbit)
theorem isqrt_spec (v : Nat) : isqrt v * isqrt v ≤ v ∧ v < (isqrt v + 1) * (isqrt v + 1) := by
  refine isqrtFrom_spec _ (by simp) ?_
  rw [zero_add, ← pow_add]
  exact Nat.lt_log2_self.trans_le (Nat.pow_le_pow_right Nat.two_pos (by omega))
theorem le_isqrt {n v : Nat} (h : n * n ≤ v) : n ≤ isqrt v := by
  have hv := (isqrt_spec v).2
  by_contra hn
  exact absurd (hv.trans_le (Nat.mul_le_mul (not_le.mp hn) (not_le.mp hn))) (not_lt.mpr h)

end Sys2Proof.Machine

namespace Sys2Proof.Machine

variable {x : Exact}

/-! Reciprocals and roots to at least 32 bits (spec/09 R217, spec/06 R160). -/

theorem fnRcp_spec (h0 : x.mag ≠ 0) :
    ∃ y, fnRcp (.fin x) = (.fin y, 0) ∧ y.neg = x.neg ∧ 2 ^ 32 ≤ y.mag ∧
      let one := 2 ^ (-x.exp - y.exp).toNat
      y.mag * x.mag ≤ one ∧ one < (y.mag + 1) * x.mag ∧ (y.more = true ↔ y.mag * x.mag ≠ one) := by
  obtain hspec := quotient_spec (x := .ofInt 1 0) h0
  dsimp only at hspec
  refine ⟨quotient (.ofInt 1 0) x, ?_, Bool.false_xor x.neg, quotient_wide one_ne_zero h0, ?_⟩
  · rw [fnRcp, if_neg h0, FloatVal.div_fin h0]
  · have hone : (Exact.ofInt 1 0).mag * 2 ^ ((Exact.ofInt 1 0).exp - x.exp - (quotient (.ofInt 1 0) x).exp).toNat =
        2 ^ (-x.exp - (quotient (.ofInt 1 0) x).exp).toNat := by
      rw [← zero_sub x.exp]
      exact Nat.one_mul _
    rwa [hone] at hspec

theorem fnSqrt_spec (h0 : x.mag ≠ 0) (hpos : x.neg = false) :
    ∃ y, fnSqrt (.fin x) = (.fin y, 0) ∧ y.neg = false ∧ 2 ^ 32 ≤ y.mag ∧ 2 * y.exp ≤ x.exp ∧
      let sq := x.mag * 2 ^ (x.exp - 2 * y.exp).toNat
      y.mag * y.mag ≤ sq ∧ sq < (y.mag + 1) * (y.mag + 1) ∧ (y.more = true ↔ y.mag * y.mag ≠ sq) := by
  have hexp : (x.exp - 2 * ((x.exp - (x.exp % 2).toNat) / 2 - 40)).toNat = 80 + (x.exp % 2).toNat := by omega
  have hexec : fnSqrt (.fin x) = (.fin ⟨false, isqrt (x.mag * 2 ^ (80 + (x.exp % 2).toNat)), (x.exp - (x.exp % 2).toNat) / 2 - 40,
      isqrt (x.mag * 2 ^ (80 + (x.exp % 2).toNat)) * isqrt (x.mag * 2 ^ (80 + (x.exp % 2).toNat)) != x.mag * 2 ^ (80 + (x.exp % 2).toNat)⟩, 0) := by
    simp only [fnSqrt, if_neg h0, hpos, Bool.false_eq_true, if_false]
  refine ⟨_, hexec, rfl, le_isqrt ?_, by dsimp only; omega, ?_⟩
  · calc 2 ^ 32 * 2 ^ 32 ≤ 2 ^ (80 + (x.exp % 2).toNat) := by
          rw [← pow_add]
          exact Nat.pow_le_pow_right Nat.two_pos (by omega)
      _ ≤ x.mag * 2 ^ (80 + (x.exp % 2).toNat) := Nat.le_mul_of_pos_left _ (Nat.pos_of_ne_zero h0)
  · dsimp only
    rw [hexp]
    obtain ⟨hle, hlt⟩ := isqrt_spec (x.mag * 2 ^ (80 + (x.exp % 2).toNat))
    exact ⟨hle, hlt, bne_iff_ne⟩

/-- The root of a reciprocal: of the greatest number of reciprocal units. -/
theorem isqrt_div_spec {n m : Nat} (hm : m ≠ 0) :
    isqrt (n / m) * isqrt (n / m) * m ≤ n ∧ n < (isqrt (n / m) + 1) * (isqrt (n / m) + 1) * m := by
  obtain ⟨hle, hlt⟩ := isqrt_spec (n / m)
  have hpos := Nat.pos_of_ne_zero hm
  exact ⟨(Nat.le_div_iff_mul_le hpos).mp hle, (Nat.div_lt_iff_lt_mul hpos).mp hlt⟩

theorem fnRsq_spec (h0 : x.mag ≠ 0) (hpos : x.neg = false) :
    ∃ y, fnRsq (.fin x) = (.fin y, 0) ∧ y.neg = false ∧ 2 ^ 32 ≤ y.mag ∧
      let one := 2 ^ (-(2 * y.exp + x.exp)).toNat
      y.mag * y.mag * x.mag ≤ one ∧ one < (y.mag + 1) * (y.mag + 1) * x.mag ∧ (y.more = true ↔ y.mag * y.mag * x.mag ≠ one) := by
  obtain ⟨par, hpar⟩ : ∃ par : Nat, (x.exp % 2).toNat = par := ⟨_, rfl⟩
  obtain ⟨k, hk⟩ : ∃ k : Nat, 64 + Nat.log2 (x.mag * 2 ^ par) = k := ⟨_, rfl⟩
  have hm : x.mag * 2 ^ par ≠ 0 := Nat.mul_ne_zero h0 (Nat.two_pow_pos par).ne'
  have hexec : fnRsq (.fin x) = (.fin ⟨false, isqrt (2 ^ (2 * k) / (x.mag * 2 ^ par)), -((x.exp - par) / 2) - k,
      isqrt (2 ^ (2 * k) / (x.mag * 2 ^ par)) * isqrt (2 ^ (2 * k) / (x.mag * 2 ^ par)) * (x.mag * 2 ^ par) != 2 ^ (2 * k)⟩, 0) := by
    simp only [fnRsq, if_neg h0, hpos, Bool.false_eq_true, if_false, hpar, hk]
  have hwide : 2 ^ 32 * 2 ^ 32 ≤ 2 ^ (2 * k) / (x.mag * 2 ^ par) := by
    rw [Nat.le_div_iff_mul_le (Nat.pos_of_ne_zero hm)]
    calc 2 ^ 32 * 2 ^ 32 * (x.mag * 2 ^ par) ≤ 2 ^ 32 * 2 ^ 32 * 2 ^ (Nat.log2 (x.mag * 2 ^ par) + 1) := Nat.mul_le_mul_left _ Nat.lt_log2_self.le
      _ = 2 ^ (32 + 32 + (Nat.log2 (x.mag * 2 ^ par) + 1)) := by rw [← pow_add, ← pow_add]
      _ ≤ 2 ^ (2 * k) := Nat.pow_le_pow_right Nat.two_pos (by omega)
  have hone : 2 ^ (2 * k) = 2 ^ (-(2 * (-((x.exp - par) / 2) - (k : Int)) + x.exp)).toNat * 2 ^ par := by
    rw [← pow_add]
    congr 1
    omega
  refine ⟨_, hexec, rfl, le_isqrt hwide, ?_⟩
  obtain ⟨hle, hlt⟩ := isqrt_div_spec (n := 2 ^ (2 * k)) hm
  generalize isqrt (2 ^ (2 * k) / (x.mag * 2 ^ par)) = r at *
  dsimp only
  rw [hone, ← mul_assoc] at hle hlt
  have hpow := Nat.two_pow_pos par
  refine ⟨Nat.le_of_mul_le_mul_right hle hpow, Nat.lt_of_mul_lt_mul_right hlt, ?_⟩
  rw [bne_iff_ne, hone, ← mul_assoc, ne_eq, ne_eq, Nat.mul_left_inj hpow.ne']

/-! Operands whose result is exact (spec/06 R160). -/

/-- In units of 1 / 2^k, an integer is a whole number of ones. -/
theorem Exact.units_whole (n : Int) (k : Nat) : (Exact.ofInt n 0).units (min 0 (-(k : Int))) = n * 2 ^ (-(min 0 (-(k : Int)))).toNat := by
  rw [Exact.units_ofInt n (min_le_left ..), zero_sub]
theorem fnExp2_integer {n : Int} (hlow : -900 ≤ n) : fnExp2 (.fin (.ofInt n 0)) = (.fin ⟨false, 1, n, false⟩, 0) := by
  have hexp : (Exact.ofInt n 0).exp = 0 := rfl
  have hone : (2 : Int) ^ (-(min 0 (-(fixBits : Int)))).toNat ≠ 0 := pow_ne_zero _ two_ne_zero
  have hlow : ¬ n < -1000 := by omega
  simp only [fnExp2, hexp, Exact.units_whole, Int.mul_ediv_cancel _ hone, Int.mul_emod_left, Int.toNat_zero, if_neg hlow, if_true]
  exact if_neg (by decide)

theorem fnLog2_power (n : Int) : fnLog2 (.fin ⟨false, 1, n, false⟩) = (.fin (if n = 0 then .zero false else .ofInt n 0), 0) := by
  have hlog : Nat.log2 1 = 0 := rfl
  simp only [fnLog2, one_ne_zero, hlog, pow_zero, Bool.false_eq_true, if_false, if_true, Nat.cast_zero, zero_add]

/-- The sine where the operand lies on a quarter turn. -/
theorem fnSin_quarter {q d : Nat} (h : quarterOf x = (q, 0, d)) :
    fnSin (.fin x) = (.fin (if q % 2 = 0 then .zero x.neg else .ofInt (if x.neg != decide (2 ≤ q) then -1 else 1) 0), 0) := by
  simp only [fnSin, h, if_true]
theorem fnCos_quarter {q d : Nat} (h : quarterOf x = (q, 0, d)) :
    fnCos (.fin x) = (.fin (if q % 2 = 1 then .zero false else .ofInt (if q = 2 then -1 else 1) 0), 0) := by
  simp only [fnCos, h, if_true]
theorem quarterOf_whole (h : 0 ≤ x.exp) : quarterOf x = (0, 0, (-x.exp).toNat) := by
  simp [quarterOf, h]
theorem quarterOf_half (h : x.exp = -1) : quarterOf x = (2 * (x.mag % 2), 0, 1) := by
  have hdiv : 4 * (x.mag % 2) / 2 = 2 * (x.mag % 2) := by omega
  have hmod : 4 * (x.mag % 2) % 2 = 0 := by omega
  simp [quarterOf, h, hdiv, hmod]
theorem quarterOf_quarter (h : x.exp = -2) : quarterOf x = (x.mag % 4, 0, 2) := by
  simp [quarterOf, h]

end Sys2Proof.Machine

namespace Sys2Proof.Machine

variable {s : State} {u : UnitId}

/-! The lane floating-point forms (spec/09 R213, R214, R217). -/

/-- The bits of a lane operand of 32 bits are all read. -/
theorem State.srcL_cut (s : State) (u : UnitId) (code l : Nat) : (s.srcL u code l 32).toNat % 2 ^ 32 = (s.srcL u code l 32).toNat :=
  Nat.mod_eq_of_lt (s.srcL_lt u code l (.inl rfl))
theorem readFloat_srcL (s : State) (u : UnitId) (fmt : Word) (m code l : Nat) :
    readFloat fmt m (s.srcL u code l 32) = (floatOf m).read (fmtDAZ fmt) (s.srcL u code l 32).toNat := by
  rw [readFloat, s.srcL_cut u code l]

/-- A floating-point form of one operand rounds its value once. -/
theorem laneFloat1_done {i : Instr} {f : LA} {op : FloatVal → FloatVal × BitVec 7} (h : s.Issues u i) (hl : i.units = .lform)
    (hexec : exec i s = laneFloat1 i f op s) :
    let fmt := (s.thread u).fmt
    let r (l : Nat) := op (readFloat fmt f.m.toNat (s.srcL u f.a.toNat l 32))
    ∃ t, exec i s = .next t ∧
      s.LaneDone t u i f.d.toNat f.k 32
        (fun l => BitVec.ofNat 64 (rnd (floatOf f.m.toNat) (fmtRM fmt) (fmtFTZ fmt) (r l).1).1)
        (gather (s.maskOf u) fun l => (r l).2 ||| (rnd (floatOf f.m.toNat) (fmtRM fmt) (fmtFTZ fmt) (r l).1).2) :=
  laneOp_gives h hl hexec fun _ => rfl
/-- So does one of two operands. -/
theorem laneFloat2_done {i : Instr} {f : LA} {op : Nat → FloatVal → FloatVal → FloatVal × BitVec 7} (h : s.Issues u i) (hl : i.units = .lform)
    (hexec : exec i s = laneFloat2 i f op s) :
    let fmt := (s.thread u).fmt
    let r (l : Nat) := op (fmtRM fmt) (readFloat fmt f.m.toNat (s.srcL u f.a.toNat l 32)) (readFloat fmt f.m.toNat (s.srcL u f.b.toNat l 32))
    ∃ t, exec i s = .next t ∧
      s.LaneDone t u i f.d.toNat f.k 32
        (fun l => BitVec.ofNat 64 (rnd (floatOf f.m.toNat) (fmtRM fmt) (fmtFTZ fmt) (r l).1).1)
        (gather (s.maskOf u) fun l => (r l).2 ||| (rnd (floatOf f.m.toNat) (fmtRM fmt) (fmtFTZ fmt) (r l).1).2) :=
  laneOp_gives h hl hexec fun _ => rfl

/-- FMIN and FMAX give one of their operands back, under DAZ, or the canonical NaN. -/
theorem laneMinMax_done {i : Instr} {f : LA} {less : Bool} (h : s.Issues u i) (hl : i.units = .lform) (hexec : exec i s = laneMinMax i f less s) :
    let fmt := (s.thread u).fmt
    let x (l : Nat) := readFloat fmt f.m.toNat (s.srcL u f.a.toNat l 32)
    let y (l : Nat) := readFloat fmt f.m.toNat (s.srcL u f.b.toNat l 32)
    ∃ (t : State) (v : Nat → Nat), exec i s = .next t ∧
      s.LaneDone t u i f.d.toNat f.k 32 (fun l => BitVec.ofNat 64 (v l)) 0 ∧
      ∀ l, (x l = .nan → y l = .nan → v l = (floatOf f.m.toNat).nanCode) ∧
        ((x l = .nan ∧ y l ≠ .nan) ∨ (y l ≠ .nan ∧ (if less then (y l).below (x l) else (x l).below (y l))) →
          v l = afterDaz (floatOf f.m.toNat) (fmtDAZ fmt) (s.srcL u f.b.toNat l 32).toNat) ∧
        (x l ≠ .nan → (y l = .nan ∨ ¬ (if less then (y l).below (x l) else (x l).below (y l))) →
          v l = afterDaz (floatOf f.m.toNat) (fmtDAZ fmt) (s.srcL u f.a.toNat l 32).toNat) := by
  intro fmt x y
  obtain ⟨t, hexec, hdone⟩ := laneOp_gives_quiet h hl hexec fun _ => rfl
  refine ⟨t, fun l => pickFloat (floatOf f.m.toNat) (fmtDAZ fmt) less (s.srcL u f.a.toNat l 32).toNat (s.srcL u f.b.toNat l 32).toNat,
    hexec, hdone, fun l => ?_⟩
  have hx : (floatOf f.m.toNat).read (fmtDAZ fmt) (s.srcL u f.a.toNat l 32).toNat = x l := (readFloat_srcL s u fmt _ _ l).symm
  have hy : (floatOf f.m.toNat).read (fmtDAZ fmt) (s.srcL u f.b.toNat l 32).toNat = y l := (readFloat_srcL s u fmt _ _ l).symm
  simp only [pickFloat_eq, hx, hy]
  refine ⟨fun hnan hnan' => if_pos ⟨hnan, hnan'⟩, fun hright => ?_, fun hnan hleft => ?_⟩
  · have hnan : y l ≠ .nan := hright.elim And.right And.left
    rw [if_neg fun hboth => hnan hboth.2, if_pos (hright.imp_left And.left)]
  · rw [if_neg fun hboth => hnan hboth.1, if_neg (not_or.mpr ⟨hnan, fun hright => hleft.elim hright.1 fun hno => hno hright.2⟩)]

/-! NaNs and infinities (spec/06 R143, R144). -/

theorem FloatVal.add_nan (rm : Nat) (x : FloatVal) : x.add rm .nan = (.nan, 0) := by
  cases x <;> rfl
theorem FloatVal.mul_nan (x : FloatVal) : x.mul .nan = (.nan, 0) := by
  cases x <;> rfl
theorem FloatVal.div_nan (x : FloatVal) : x.div .nan = .nan := by
  cases x <;> rfl
/-- A NaN among its operands makes a fused sum NaN, and sets no flag. -/
theorem FloatVal.fma_nan (rm : Nat) {x y z : FloatVal} (h : x = .nan ∨ y = .nan ∨ z = .nan) : FloatVal.fma rm x y z = (.nan, 0) := by
  rw [FloatVal.fma]
  by_cases hz : z = .nan
  · exact if_pos hz
  · have hmul : x.mul y = (.nan, 0) := by
      rcases h with rfl | rfl | hnan
      · rfl
      · exact FloatVal.mul_nan x
      · exact absurd hnan hz
    rw [if_neg hz, hmul]
    rfl
theorem FloatVal.fma_invalid (rm : Nat) {x y z : FloatVal} (hz : z ≠ .nan) (h : (x.mul y).1 = .nan) : FloatVal.fma rm x y z = x.mul y := by
  rw [FloatVal.fma, if_neg hz]
  exact if_pos h
theorem FloatVal.fma_sum (rm : Nat) {x y z : FloatVal} (hz : z ≠ .nan) (h : (x.mul y).1 ≠ .nan) :
    FloatVal.fma rm x y z = (x.mul y).1.add rm z := by
  rw [FloatVal.fma, if_neg hz]
  exact if_neg h

variable {x y : Exact}

theorem FloatVal.div_zero (hy : y.mag = 0) : (FloatVal.fin x).div (.fin y) = if x.mag = 0 then .nan else .inf (x.neg != y.neg) := if_pos hy
theorem FloatVal.mul_fin_inf (hx : x.more = false) (b : Bool) :
    (FloatVal.fin x).mul (.inf b) = if x.mag = 0 then (.nan, flagNV) else (.inf (x.neg != b), 0) := by
  rw [FloatVal.mul, Exact.isZero_eq hx]
  exact if_congr decide_eq_true_iff rfl rfl
theorem FloatVal.mul_inf_fin (a : Bool) (hy : y.more = false) :
    (FloatVal.inf a).mul (.fin y) = if y.mag = 0 then (.nan, flagNV) else (.inf (a != y.neg), 0) := by
  rw [FloatVal.mul, Exact.isZero_eq hy]
  exact if_congr decide_eq_true_iff rfl rfl
theorem FloatVal.add_inf_inf (rm : Nat) (a b : Bool) :
    (FloatVal.inf a).add rm (.inf b) = if a = b then (.inf a, 0) else (.nan, flagNV) := if_congr beq_iff_eq rfl rfl
theorem FloatVal.cmp_inf_inf (a b : Bool) :
    (FloatVal.inf a).cmp (.inf b) = if a = b then 0 else if a then -1 else 1 := if_congr beq_iff_eq rfl rfl

/-- Of a negative number there is no root and no logarithm. -/
theorem fn_negative (h0 : x.mag ≠ 0) (hneg : x.neg = true) : ∀ g ∈ [fnSqrt, fnRsq, fnLog2], g (.fin x) = (.nan, flagNV) := by
  simp [fnSqrt, fnRsq, fnLog2, h0, hneg]

theorem sub32_eq (a b : Word) : sub32 a b = BitVec.ofNat 32 (rnd fp32 0 false ((val32 a).add 0
    (match val32 b with | .fin y => .fin { y with neg := !y.neg } | .inf n => .inf (!n) | .nan => .nan)).1).1 := by
  rw [sub32, rn32]
  cases val32 b <;> rfl
theorem widen_eq {n : Nat} (h : n < 65536) : widen n = BitVec.ofNat 32 (n * 65536) := by
  rw [widen, Nat.mod_eq_of_lt h]

section
variable {a : Bool} {m : Nat}

theorem fnSin_whole_half {e : Int} (he : -1 ≤ e) : fnSin (.fin ⟨a, m, e, false⟩) = (.fin (.zero a), 0) := by
  by_cases hwhole : 0 ≤ e
  · rw [fnSin_quarter (quarterOf_whole hwhole)]
    rfl
  · have hhalf : e = -1 := by omega
    rw [fnSin_quarter (quarterOf_half hhalf), if_pos (Nat.mul_mod_right ..)]
theorem fnCos_odd_quarter (hm : m % 2 = 1) : fnCos (.fin ⟨a, m, -2, false⟩) = (.fin (.zero false), 0) := by
  have hodd : m % 4 % 2 = 1 := by omega
  rw [fnCos_quarter (quarterOf_quarter rfl), if_pos hodd]
theorem fnSin_first_quarter (hm : m % 4 = 1) : fnSin (.fin ⟨a, m, -2, false⟩) = (.fin (.ofInt (if a then -1 else 1) 0), 0) := by
  rw [fnSin_quarter (quarterOf_quarter rfl), hm]
  cases a <;> rfl
theorem fnSin_third_quarter (hm : m % 4 = 3) : fnSin (.fin ⟨a, m, -2, false⟩) = (.fin (.ofInt (if a then 1 else -1) 0), 0) := by
  rw [fnSin_quarter (quarterOf_quarter rfl), hm]
  cases a <;> rfl
theorem fnCos_half : fnCos (.fin ⟨a, m, -1, false⟩) = (.fin (.ofInt (if m % 2 = 0 then 1 else -1) 0), 0) := by
  rw [fnCos_quarter (quarterOf_half rfl)]
  rcases Nat.mod_two_eq_zero_or_one m with h | h <;> rw [h] <;> rfl

end

/-- Settles O5: exact arithmetic, the engines' arithmetic, the special functions, and the forms lane by lane. -/
theorem laneFloats : Obligations.LaneFloats := by
  unfold Obligations.LaneFloats
  refine ⟨?exact, ?nans, ?engines, fun x h0 => ?roots, ?special, ?rounded, ?lanes⟩
  case exact =>
    intro rm x y hx hy at_
    have hat (v : Exact) (e : Int) : at_ v e = v.units e := (Exact.units_eq v e).symm
    simp only [hat]
    refine ⟨⟨x.add rm y, rfl, Exact.more_add rm, fun e hex hey _ => Exact.units_add rm hex hey, Exact.neg_add_of_zero rm hx hy⟩,
      ⟨x.mul y, rfl, rfl, rfl, rfl, rfl⟩, fun e hex hey => FloatVal.cmp_fin hex hey,
      fun h0 => ⟨quotient x y, FloatVal.div_fin h0, rfl, fun hx0 => quotient_wide hx0 h0, quotient_exp_le x y, quotient_spec h0⟩,
      FloatVal.div_zero, fun a b => ?_⟩
    exact ⟨rfl, rfl, FloatVal.add_inf_inf rm a b, rfl, FloatVal.mul_fin_inf hx b, FloatVal.mul_inf_fin a hy, rfl, rfl,
      FloatVal.cmp_inf_inf a b, rfl, rfl, .zero (x.neg != b), rfl, rfl, rfl, rfl⟩
  case nans =>
    intro rm x y z
    exact ⟨rfl, x.add_nan rm, rfl, x.mul_nan, rfl, x.div_nan, FloatVal.fma_nan rm, FloatVal.fma_invalid rm, FloatVal.fma_sum rm⟩
  case engines =>
    intro a b v rn
    exact ⟨rfl, rfl, rfl, rfl, sub32_eq a b, fun _ _ => rfl, fun _ => widen_eq, rfl, fun _ => rfl⟩
  case roots =>
    exact ⟨fnRcp_spec h0, fun hpos => ⟨fnSqrt_spec h0 hpos, fnRsq_spec h0 hpos⟩, fn_negative h0⟩
  case special =>
    intro a e n m zero power part
    refine ⟨?_, ?_, ?_, rfl, rfl, rfl, rfl, rfl, rfl, rfl, rfl, rfl, rfl, fun hlow _ => fnExp2_integer hlow, fnLog2_power n,
      fnSin_whole_half, fnCos_odd_quarter, fnSin_first_quarter, fnSin_third_quarter, fnCos_half⟩
    · simp only [List.forall_mem_cons]
      exact ⟨rfl, rfl, rfl, rfl, rfl, rfl, rfl, List.forall_mem_nil _⟩
    · simp only [List.forall_mem_cons]
      exact ⟨rfl, rfl, rfl, List.forall_mem_nil _⟩
    · simp only [List.forall_mem_cons]
      exact ⟨rfl, rfl, List.forall_mem_nil _⟩
  case rounded =>
    decide +kernel
  case lanes =>
    intro s u f fmt x y
    refine ⟨forall_pair_mem ?_, forall_pair_mem ?_⟩
    · simp only [List.forall_mem_cons]
      exact ⟨fun h => laneFloat2_done h rfl (exec_fadd s f), fun h => laneFloat2_done h rfl (exec_fmul s f),
        fun h => laneFloat1_done h rfl (exec_frcp s f), fun h => laneFloat1_done h rfl (exec_frsq s f),
        fun h => laneFloat1_done h rfl (exec_fsqrt s f), fun h => laneFloat1_done h rfl (exec_fexp2 s f),
        fun h => laneFloat1_done h rfl (exec_flog2 s f), fun h => laneFloat1_done h rfl (exec_sint s f),
        fun h => laneFloat1_done h rfl (exec_cost s f), List.forall_mem_nil _⟩
    · simp only [List.forall_mem_cons]
      exact ⟨fun h => laneMinMax_done h rfl (exec_fmin s f), fun h => laneMinMax_done h rfl (exec_fmax s f), List.forall_mem_nil _⟩

end Sys2Proof.Machine

namespace Sys2Proof.Machine

variable {s t : State} {u : UnitId} {i : Instr} {a : Answer}

/-! A unit that comes to an instruction which may wait for scratchpad lines (spec/02 R55). -/

/-- Whether it issues the instruction or its wait ends, it performs the same. -/
theorem State.ComesTo.scratchpad (h : s.ComesTo u i (.scratchpadWaitEnd u) a) {k : UnitId → State → State}
    (hexec : exec i s = issue i s k) (hbody : spBody i = some k) : a = .next (k u s) := by
  rcases h with ⟨hissue, rfl⟩ | ⟨halive, hwait, -, rfl⟩
  · rw [hexec, hissue.next]
  · rw [exec_scratchpadWaitEnd, execScratchpadWaitEnd, State.wake, halive, hwait]
    simp only [hbody]
    rfl
theorem State.ComesTo.passed {ev : Instr} (h : s.ComesTo u i ev a) : s.preCheck u i = none := by
  rcases h with ⟨hissue, -⟩ | ⟨-, -, hcheck, -⟩
  · exact hissue.checks
  · exact hcheck
theorem State.Reaches.performs {sp : Bool} (h : s.Reaches u i sp a) {k : UnitId → State → State}
    (hexec : exec i s = issue i s k) (hbody : sp = true → spBody i = some k) : a = .next (k u s) := by
  rcases h with ⟨hissue, rfl⟩ | ⟨hsp, hcomes⟩
  · rw [hexec, hissue.next]
  · exact hcomes.scratchpad hexec (hbody hsp)
theorem State.Reaches.passed {sp : Bool} (h : s.Reaches u i sp a) : s.preCheck u i = none := by
  rcases h with ⟨hissue, -⟩ | ⟨-, hcomes⟩
  · exact hissue.checks
  · exact hcomes.passed

/-! What an access that passed its checks is (spec/10 R226, R227). -/

theorem State.accessCheck_scratchpad {k : Kind} {n req : Nat} {ea : Dword} {r : Ready}
    (h : s.accessCheck u true k n req ea = .ok r) : r = { addr := ea, xl := none } := by
  unfold State.accessCheck at h
  dsimp only at h
  split at h
  · cases h
  · rw [if_pos rfl] at h
    split at h
    · cases h
    · split at h
      · cases h
      · exact (Except.ok.inj h).symm
theorem State.accessCheck_global {k : Kind} {n req : Nat} {ea : Dword} {r : Ready}
    (h : s.accessCheck u false k n req ea = .ok r) :
    ∃ x, r = { addr := ea, xl := some x } ∧ s.translate u.node (s.ctxOf u) ea k = .ok x := by
  unfold State.accessCheck at h
  dsimp only at h
  split at h
  · cases h
  · rw [if_neg Bool.false_ne_true] at h
    split at h
    · cases h
    · rename_i x hx
      split at h
      · cases h
      · exact ⟨x, (Except.ok.inj h).symm, hx⟩

/-! Scratchpads that stand: an access to global memory, and what comes before and after an access, leave the bytes of every
scratchpad as they are. -/

/-- The bytes of every scratchpad are as before. -/
def State.SpKept (s t : State) : Prop := ∀ c, (t.core c).sp = (s.core c).sp

theorem State.SpKept.refl (s : State) : s.SpKept s := fun _ => rfl
theorem State.SpKept.trans {r : State} (h : s.SpKept t) (k : t.SpKept r) : s.SpKept r := fun c => (k c).trans (h c)
theorem spKept_foldl {β : Type} (f : State → β → State) (l : List β) (s : State) (hf : ∀ (s : State) b, s.SpKept (f s b)) :
    s.SpKept (l.foldl f s) := by
  induction l generalizing s with
  | nil => exact .refl s
  | cons b r ih => exact (hf s b).trans (ih (f s b))
theorem State.HomeOnly.core (h : s.HomeOnly t) (c : Nat) : t.core c = s.core c := by
  rw [h]
  rfl
theorem State.HomeOnly.spKept (h : s.HomeOnly t) : s.SpKept t := fun c => congrArg Core.sp (h.core c)
theorem State.spKept_onCaches (s : State) (n : Nat) (f : Caches → Caches) : s.SpKept (s.onCaches n f) := by
  intro c
  unfold State.onCaches
  split
  · rw [State.core_onCore]
    split
    · rename_i h
      rw [h]
    · rfl
  · split <;> rfl

section
variable (s : State)

theorem State.spKept_useCtx (n c : Nat) (va : Dword) : s.SpKept (s.useCtx n c va) := by
  unfold State.useCtx State.keepDesc
  refine .trans (t := if _ then s else s.keepWalk n c va.toNat) ?_ (State.spKept_onCaches _ n _)
  split
  · exact .refl s
  · unfold State.keepWalk
    split <;> exact fun _ => rfl
theorem State.spKept_useLeaf (n c : Nat) (va : Dword) (x : Xlat) (k : Kind) : s.SpKept (s.useLeaf n c va x k) := by
  unfold State.useLeaf
  refine (State.spKept_useCtx s n c va).trans (.trans ?_ (State.spKept_onCaches _ n _))
  split
  · exact .refl _
  · exact (State.homeOnly_writeSector _ _ _ _).spKept
theorem State.spKept_touch (w : Who) (sp : Bool) (place n : Nat) : s.SpKept (s.touch w sp place n) := by
  unfold State.touch
  dsimp only
  split
  · exact .refl s
  · exact State.spKept_onCaches s _ _
theorem State.spKept_noteRead (w : Who) (pa len : Nat) : s.SpKept (s.noteRead w pa len) := by
  unfold State.noteRead
  dsimp only
  split
  · exact .refl s
  · exact State.spKept_onCaches s _ _
theorem State.spKept_fillAt (n : Nat) (x : Xlat) (len req : Nat) (fresh : Bool) : s.SpKept (s.fillAt n x len req fresh) := by
  refine spKept_foldl _ _ s fun q p => ?_
  unfold State.fillPiece
  dsimp only
  split
  · exact (State.homeOnly_fillL2 q _ _ _).spKept.trans (State.spKept_onCaches _ _ _)
  · exact (State.homeOnly_fillL2 q _ _ _).spKept
theorem State.spKept_readBy (w : Who) (x : Xlat) (n req : Nat) (fresh : Bool) : s.SpKept (s.readBy w x n req fresh).2 := by
  unfold State.readBy
  dsimp only
  split
  · exact State.spKept_noteRead s _ _ _
  · exact ((State.spKept_fillAt s _ _ _ _ _).trans (State.spKept_noteRead _ _ _ _)).trans (State.spKept_touch _ _ _ _ _)
/-- A read changes no scratchpad. -/
theorem State.spKept_readAt (u : UnitId) (w : Who) (r : Ready) (n req : Nat) (fresh : Bool) :
    s.SpKept (s.readAt u w r n req fresh).2 := by
  unfold State.readAt
  split
  · split
    · exact .refl s
    · exact State.spKept_touch s _ _ _ _
  · exact (State.spKept_useLeaf s _ _ _ _ _).trans (State.spKept_readBy _ _ _ _ _ _)
theorem State.spKept_storeAt (w : Who) (x : Xlat) (bs : List Byte) (req rel : Nat) : s.SpKept (s.storeAt w x bs req rel) := by
  unfold State.storeAt State.pend
  refine .trans (t := ({ s with nextWrite := s.nextWrite + 1 } : State)) (fun _ => rfl) ?_
  exact (State.spKept_touch _ _ _ _ _).trans (State.spKept_onCaches _ _ _)
theorem State.spKept_drainIds (n : Nat) (ids : List Nat) : s.SpKept (s.drainIds n ids) := by
  unfold State.drainIds
  dsimp only
  split
  · exact .refl s
  · exact (State.spKept_onCaches s n _).trans (spKept_foldl _ _ _ fun q w => (State.homeOnly_performWrite q _ w).spKept)
theorem State.spKept_atomicAt (n : Nat) (x : Xlat) (len req : Nat) (f : List Byte → Option (List Byte)) :
    s.SpKept (s.atomicAt n x len req f) := by
  unfold State.atomicAt
  dsimp only
  refine .trans (t := s.drainOver n x.pa len) (State.spKept_drainIds s n _) ?_
  split
  · exact (State.homeOnly_fillL2 _ _ _ _).spKept
  · exact (State.homeOnly_writeHome _ _ _ _).spKept.trans (State.spKept_onCaches _ _ _)
theorem State.spKept_acquire (n scope : Nat) : s.SpKept (s.acquire n scope) := by
  unfold State.acquire
  split
  · exact .refl s
  · exact State.spKept_onCaches s n _
theorem State.spKept_forget (u : UnitId) : s.SpKept (s.forget u) := by
  unfold State.forget
  dsimp only
  split
  · exact .refl s
  · exact State.spKept_onCaches s _ _
theorem State.spKept_after (u : UnitId) (ord scope : Nat) : s.SpKept (s.after u ord scope) := by
  unfold State.after
  split
  · exact (State.spKept_acquire s _ _).trans (State.spKept_forget _ _)
  · exact .refl s
theorem State.spKept_fenced (u : UnitId) : s.SpKept (s.fenced u) := by
  unfold State.fenced
  dsimp only
  split
  · exact .refl s
  · split
    · exact ((State.spKept_drainIds s _ _).trans (State.spKept_onCaches _ _ _)).trans (State.homeOnly_settleMirror _).spKept
    · exact (State.spKept_drainIds s _ _).trans (State.spKept_onCaches _ _ _)
theorem State.spKept_release (u : UnitId) (scope : Nat) : s.SpKept (s.release u scope) := by
  unfold State.release
  split
  · exact .refl s
  · dsimp only
    have h := (State.spKept_fenced s u).trans
      (State.spKept_drainIds (s.fenced u) u.node (((s.fenced u).caches u.node).owed ((s.fenced u).whoOf u) scope))
    split
    · exact h
    · exact h.trans (State.homeOnly_settleMirror _).spKept
theorem State.spKept_before (u : UnitId) (ord scope : Nat) : s.SpKept (s.before u ord scope) := by
  unfold State.before
  split
  · exact State.spKept_release s _ _
  · exact State.spKept_fenced s u
theorem State.spKept_beforeStore (u : UnitId) (sp : Bool) (ord scope : Nat) : s.SpKept (s.beforeStore u sp ord scope) := by
  unfold State.beforeStore
  split
  · exact State.spKept_before s u ord scope
  · exact .refl s
theorem State.spKept_promise (u : UnitId) (scope : Nat) : s.SpKept (s.promise u scope) := by
  unfold State.promise
  split
  · exact .refl s
  · exact State.spKept_onCaches s _ _

end

/-! What a unit is and sees, once memory has changed. -/

theorem State.MemoryOnly.whoOf (h : s.MemoryOnly t) (u : UnitId) : t.whoOf u = s.whoOf u := by
  cases u with
  | path c g i => exact congrArg (fun k : Group => { node := c, grp := g, lanes := (k.path i).mask : Who }) (h.group c g)
  | seq c k => rfl
  | lant l p => rfl
theorem State.MemoryOnly.laneWho (h : s.MemoryOnly t) (u : UnitId) (l : Nat) : t.laneWho u l = s.laneWho u l := by
  rw [State.laneWho, State.laneWho, h.whoOf]
theorem State.MemoryOnly.vwide (h : s.MemoryOnly t) (u : UnitId) (l r w : Nat) : t.vwide u l r w = s.vwide u l r w := by
  unfold State.vwide
  rw [h.vget, h.vget]
theorem State.MemoryOnly.placeOf (h : s.MemoryOnly t) (u : UnitId) (r : Ready) : t.placeOf u r = s.placeOf u r := by
  unfold State.placeOf
  rw [h.teamOf]
theorem State.spPlace_eq {r : Ready} (h : r.xl = none) : s.spPlace u r = s.placeOf u r := by
  simp only [State.spPlace, State.placeOf, h]

/-! Lanes that perform one after the other. -/

theorem State.afterLanes_append (act : State → Nat → Ready → List Byte × State) (r : Nat → Ready) (s : State) (A B : List Nat) :
    s.afterLanes act r (A ++ B) = (s.afterLanes act r A).afterLanes act r B := List.foldl_append
theorem State.afterLanes_cons (act : State → Nat → Ready → List Byte × State) (r : Nat → Ready) (s : State) (l : Nat) (B : List Nat) :
    s.afterLanes act r (l :: B) = (act s l (r l)).2.afterLanes act r B := rfl
/-- What holds at first and after each lane holds after all of them. -/
theorem State.afterLanes_keeps {act : State → Nat → Ready → List Byte × State} {r : Nat → Ready} (P : State → Prop) {ls : List Nat}
    (h : P s) (hact : ∀ q, ∀ l ∈ ls, P q → P (act q l (r l)).2) : P (s.afterLanes act r ls) := by
  induction ls generalizing s with
  | nil => exact h
  | cons l rest ih => exact ih (hact s l (by simp) h) fun q k hk => hact q k (by simp [hk])

end Sys2Proof.Machine

namespace Sys2Proof.Machine

variable {s t : State} {u : UnitId} {i : Instr} {a : Answer}

/-! The bits of a leaf entry (spec/01 R33): a use of a leaf sets bits of its entry and clears none. -/

theorem testBit_leNat (bs : List Byte) (j : Nat) : (leNat bs).testBit j = (bs.getD (j / 8) 0).getLsbD (j % 8) := by
  induction bs generalizing j with
  | nil => simp [leNat]
  | cons b r ih =>
    have hsplit : leNat (b :: r) = 2 ^ 8 * leNat r + b.toNat := by rw [leNat]; omega
    rw [hsplit, Nat.testBit_two_pow_mul_add _ b.isLt]
    split
    · rename_i hj
      rw [Nat.div_eq_of_lt hj, Nat.mod_eq_of_lt hj]
      rfl
    · rename_i hj
      obtain ⟨m, rfl⟩ := Nat.exists_eq_add_of_le (Nat.le_of_not_lt hj)
      rw [Nat.add_sub_cancel_left, ih, show (8 + m) / 8 = m / 8 + 1 by omega, show (8 + m) % 8 = m % 8 by omega]
      rfl
theorem State.getLsbD_home64 (s : State) (a : Nat) {j : Nat} (hj : j < 64) :
    (s.home64 a).getLsbD j = (s.mem.get (a + j / 8)).getLsbD (j % 8) := by
  have hi : j / 8 < 8 := by omega
  rw [State.home64, BitVec.getLsbD_ofNat, testBit_leNat]
  simp [hj, Mem.read, hi]

/-- Every bit that is set in a byte of `m` is set in that byte of `k`. -/
def Mem.Gains (m k : Mem) : Prop := ∀ a j, (m.get a).getLsbD j = true → (k.get a).getLsbD j = true

/-- The bits of `bits` are set in the leaf that a translation found, or at the home of its entry. -/
def State.LeafSet (s : State) (z : Xlat) (bits : Dword) : Prop :=
  ∀ j, bits.getLsbD j = true → (z.leaf ||| s.home64 z.pte).getLsbD j = true

theorem State.LeafSet.gains {z : Xlat} {bits : Dword} (h : s.LeafSet z bits) (hg : s.mem.Gains t.mem) : t.LeafSet z bits := by
  intro j hj
  have hset := h j hj
  have hlt : j < 64 := BitVec.lt_of_getLsbD hj
  rw [BitVec.getLsbD_or, Bool.or_eq_true, State.getLsbD_home64 _ _ hlt] at *
  exact hset.imp_right (hg _ _)
theorem State.LeafSet.masked {z : Xlat} {bits : Dword} (h : s.LeafSet z bits) : (z.leaf ||| s.home64 z.pte) &&& bits = bits := by
  apply BitVec.eq_of_getLsbD_eq
  intro j hj
  rw [BitVec.getLsbD_and]
  cases hb : bits.getLsbD j with
  | false => simp
  | true => simp only [h j hb, Bool.and_self]

/-- The bits that a use for an access of kind `k` sets. -/
theorem leafFlags_eq (e : Dword) (k : Kind) : leafFlags e k = e ||| leafFlags 0 k := by
  cases k <;> simp [leafFlags]
theorem State.mem_useLeaf (s : State) (n c : Nat) (va : Dword) (x : Xlat) (k : Kind) :
    (s.useLeaf n c va x k).mem = if leafFlags x.leaf k = x.leaf then s.mem
      else s.mem.write x.pte (natLe 8 (s.home64 x.pte ||| leafFlags 0 k).toNat) := by
  have hhome : (s.useCtx n c va).home64 x.pte = s.home64 x.pte := by rw [State.home64, State.mem_useCtx, State.home64]
  unfold State.useLeaf
  dsimp only
  rw [State.mem_onCaches]
  split
  · rw [State.mem_useCtx]
  · rw [State.mem_writeSector, State.mem_useCtx, hhome]
theorem State.home64_of_write {a : Nat} {v : Dword} (h : t.mem = s.mem.write a (natLe 8 v.toNat)) : t.home64 a = v := by
  have hread := Mem.read_write s.mem a (natLe 8 v.toNat)
  rw [natLe_length] at hread
  apply BitVec.eq_of_toNat_eq
  rw [State.home64, h, hread, leNat_natLe, BitVec.toNat_ofNat]
  have hlt := v.isLt
  omega
/-- Where the leaf that was found lacks a bit of them, the entry has them at its home. -/
theorem State.home64_useLeaf {x : Xlat} {k : Kind} (s : State) (n c : Nat) (va : Dword) (h : leafFlags x.leaf k ≠ x.leaf) :
    (s.useLeaf n c va x k).home64 x.pte = s.home64 x.pte ||| leafFlags 0 k :=
  State.home64_of_write ((State.mem_useLeaf s n c va x k).trans (if_neg h))
theorem State.gains_useLeaf (s : State) (n c : Nat) (va : Dword) (x : Xlat) (k : Kind) :
    s.mem.Gains (s.useLeaf n c va x k).mem := by
  intro a j hset
  have hj : j < 8 := BitVec.lt_of_getLsbD hset
  by_cases hin : x.pte ≤ a ∧ a < x.pte + 8
  · by_cases hflags : leafFlags x.leaf k = x.leaf
    · rw [State.mem_useLeaf, if_pos hflags]
      exact hset
    · obtain ⟨m, rfl⟩ := Nat.exists_eq_add_of_le hin.1
      have hbit (q : State) : (q.home64 x.pte).getLsbD (8 * m + j) = (q.mem.get (x.pte + m)).getLsbD j := by
        rw [State.getLsbD_home64 _ _ (by omega), show (8 * m + j) / 8 = m by omega, show (8 * m + j) % 8 = j by omega]
      rw [← hbit, State.home64_useLeaf s n c va hflags, BitVec.getLsbD_or, hbit, hset, Bool.true_or]
  · rw [State.get_useLeaf s n c va x k (by omega)]
    exact hset
theorem State.leafSet_useLeaf (s : State) (n c : Nat) (va : Dword) (x : Xlat) (k : Kind) :
    (s.useLeaf n c va x k).LeafSet x (leafFlags 0 k) := by
  intro j hj
  rw [BitVec.getLsbD_or, Bool.or_eq_true]
  by_cases hflags : leafFlags x.leaf k = x.leaf
  · left
    rw [← hflags, leafFlags_eq, BitVec.getLsbD_or, hj, Bool.or_true]
  · right
    rw [State.home64_useLeaf s n c va hflags, BitVec.getLsbD_or, hj, Bool.or_true]

/-! What the accesses leave of the home slices: the use of the leaf, and no more but where an atomic writes. -/

theorem State.mem_readAt_global {r : Ready} {x : Xlat} (s : State) (u : UnitId) (w : Who) (n req : Nat) (fresh : Bool)
    (h : r.xl = some x) : (s.readAt u w r n req fresh).2.mem = (s.useLeaf u.node (s.ctxOf u) r.addr x .load).mem := by
  simp only [State.readAt, h, State.mem_readBy]
theorem State.mem_readAt_scratchpad {r : Ready} (s : State) (u : UnitId) (w : Who) (n req : Nat) (fresh : Bool)
    (h : r.xl = none) : (s.readAt u w r n req fresh).2.mem = s.mem := by
  simp only [State.readAt, h]
  split
  · rfl
  · rw [State.mem_touch]
theorem State.gains_readAt (s : State) (u : UnitId) (w : Who) (r : Ready) (n req : Nat) (fresh : Bool) :
    s.mem.Gains (s.readAt u w r n req fresh).2.mem := by
  cases h : r.xl with
  | none =>
    rw [State.mem_readAt_scratchpad s u w n req fresh h]
    exact fun _ _ hset => hset
  | some x =>
    rw [State.mem_readAt_global s u w n req fresh h]
    exact State.gains_useLeaf s _ _ _ _ _
theorem State.leafSet_readAt {r : Ready} {x : Xlat} (s : State) (u : UnitId) (w : Who) (n req : Nat) (fresh : Bool)
    (h : r.xl = some x) : (s.readAt u w r n req fresh).2.LeafSet x 0x400 := by
  have hset := State.leafSet_useLeaf s u.node (s.ctxOf u) r.addr x .load
  exact hset.gains (by rw [State.mem_readAt_global s u w n req fresh h]; exact fun _ _ hset => hset)
theorem State.mem_writeAt_global {r : Ready} {x : Xlat} (s : State) (u : UnitId) (w : Who) (bs : List Byte) (req rel : Nat)
    (h : r.xl = some x) : (s.writeAt u w r bs req rel).mem = (s.useLeaf u.node (s.ctxOf u) r.addr x .store).mem := by
  simp only [State.writeAt, h, State.mem_storeAt]
theorem State.mem_writeAt_scratchpad {r : Ready} (s : State) (u : UnitId) (w : Who) (bs : List Byte) (req rel : Nat)
    (h : r.xl = none) : (s.writeAt u w r bs req rel).mem = s.mem := by
  simp only [State.writeAt, h]
  exact State.mem_touch s _ _ _ _
theorem State.gains_writeAt (s : State) (u : UnitId) (w : Who) (r : Ready) (bs : List Byte) (req rel : Nat) :
    s.mem.Gains (s.writeAt u w r bs req rel).mem := by
  cases h : r.xl with
  | none =>
    rw [State.mem_writeAt_scratchpad s u w bs req rel h]
    exact fun _ _ hset => hset
  | some x =>
    rw [State.mem_writeAt_global s u w bs req rel h]
    exact State.gains_useLeaf s _ _ _ _ _
theorem State.leafSet_writeAt {r : Ready} {x : Xlat} (s : State) (u : UnitId) (w : Who) (bs : List Byte) (req rel : Nat)
    (h : r.xl = some x) : (s.writeAt u w r bs req rel).LeafSet x 0xC00 := by
  have hset := State.leafSet_useLeaf s u.node (s.ctxOf u) r.addr x .store
  exact hset.gains (by rw [State.mem_writeAt_global s u w bs req rel h]; exact fun _ _ hset => hset)

@[simp] theorem State.mem_acquire (s : State) (n scope : Nat) : (s.acquire n scope).mem = s.mem := by
  unfold State.acquire
  split
  · rfl
  · exact State.mem_onCaches s n _
@[simp] theorem State.mem_forget (s : State) (u : UnitId) : (s.forget u).mem = s.mem := by
  unfold State.forget
  dsimp only
  split
  · rfl
  · exact State.mem_onCaches s _ _
@[simp] theorem State.mem_after (s : State) (u : UnitId) (ord scope : Nat) : (s.after u ord scope).mem = s.mem := by
  unfold State.after
  split
  · rw [State.mem_forget, State.mem_acquire]
  · rfl

/-- A lane's use of its leaf stays, whatever the lanes after it do, where each of them only gains bits. -/
theorem State.leafSet_afterLanes {act : State → Nat → Ready → List Byte × State} {r : Nat → Ready} {bits : Dword} {ls : List Nat}
    (hset : ∀ (q : State) l z, (r l).xl = some z → (act q l (r l)).2.LeafSet z bits)
    (hgains : ∀ (q : State) l, q.mem.Gains (act q l (r l)).2.mem) {l : Nat} (hl : l ∈ ls) {z : Xlat} (hz : (r l).xl = some z) :
    (s.afterLanes act r ls).LeafSet z bits := by
  obtain ⟨A, B, rfl⟩ := List.append_of_mem hl
  rw [State.afterLanes_append, State.afterLanes_cons]
  exact State.afterLanes_keeps (fun q => q.LeafSet z bits) (hset _ l z hz) fun q k _ hq => hq.gains (hgains q k)

/-! Reads of scratchpad with nothing read early (notes/assumptions/5.md). -/

theorem State.touch_none {w : Who} (h : (s.caches w.node).ahead = []) (sp : Bool) (place n : Nat) : s.touch w sp place n = s := by
  simp [State.touch, h]
theorem State.readAt_now {w : Who} {r : Ready} (h : (s.caches w.node).ahead = []) (hr : r.xl = none) (u : UnitId) (n req : Nat)
    (fresh : Bool) : s.readAt u w r n req fresh = (s.spRead u.place (s.teamSlot u) r.addr.toNat n, s) := by
  simp [State.readAt, hr, State.aheadOf, h, State.touch_none h]

end Sys2Proof.Machine

namespace Sys2Proof.Machine

variable {s t : State} {u : UnitId} {i : Instr} {a : Answer}

/-! Lane loads (spec/10 R229). -/

/-- A lane's read. -/
def laneRead (u : UnitId) (n req : Nat) (fresh : Bool) (q : State) (l : Nat) (z : Ready) : List Byte × State :=
  q.readAt u (q.laneWho u l) z n req fresh

section
variable (s : State) (u : UnitId) (n req : Nat) (fresh : Bool) (r : Nat → Ready) (ls : List Nat)

theorem State.memoryOnly_laneReads : s.MemoryOnly (s.afterLanes (laneRead u n req fresh) r ls) :=
  State.memoryOnly_afterLanes _ r s ls fun _ _ => State.memoryOnly_readAt _ _ _ _ _ _ _
theorem State.spKept_laneReads : s.SpKept (s.afterLanes (laneRead u n req fresh) r ls) :=
  State.afterLanes_keeps s.SpKept (.refl s) fun _ _ _ h => h.trans (State.spKept_readAt _ _ _ _ _ _ _)
theorem State.get_laneReads {a : Nat} (h : ∀ l ∈ ls, ¬ (r l).inLeaf a) :
    (s.afterLanes (laneRead u n req fresh) r ls).mem.get a = s.mem.get a := by
  refine State.afterLanes_keeps (fun q => q.mem.get a = s.mem.get a) rfl fun q l hl hq => ?_
  refine (State.get_readAt q u _ (r l) n req fresh fun x hx => ?_).trans hq
  have hout : ¬ (x.pte ≤ a ∧ a < x.pte + 8) := fun hin => h l hl ⟨x, hx, hin⟩
  omega
theorem State.leafSet_laneReads {l : Nat} (hl : l ∈ ls) {z : Xlat} (hz : (r l).xl = some z) :
    (s.afterLanes (laneRead u n req fresh) r ls).LeafSet z 0x400 :=
  State.leafSet_afterLanes (act := laneRead u n req fresh) (fun _ _ _ hz => State.leafSet_readAt _ _ _ _ _ _ hz)
    (fun _ _ => State.gains_readAt _ _ _ _ _ _ _) hl hz
/-- Where nothing was read early, reads of scratchpad leave everything as it is. -/
theorem State.laneReads_now (hahead : (s.caches u.node).ahead = []) (hr : ∀ l ∈ ls, (r l).xl = none) :
    s.afterLanes (laneRead u n req fresh) r ls = s :=
  State.afterLanes_keeps (· = s) rfl fun q l hl hq => by
    subst hq
    rw [laneRead, State.readAt_now hahead (hr l hl)]

end

/-- What a load instruction of the lanes of a path leaves of memory once they have all read: `p`, after its acquire. -/
theorem State.laneReads_after (s : State) (u : UnitId) (n req ord scope : Nat) (fresh : Bool) (r : Nat → Ready) (ls : List Nat) :
    let p := (s.afterLanes (laneRead u n req fresh) r ls).after u ord scope
    s.MemoryOnly p ∧ (∀ l ∈ ls, ∀ z, (r l).xl = some z → (z.leaf ||| p.home64 z.pte).getLsbD 10 = true) ∧
      (∀ a, (∀ l ∈ ls, ¬ (r l).inLeaf a) → p.mem.get a = s.mem.get a) ∧ ∀ c, (p.core c).sp = (s.core c).sp := by
  intro p
  have hmem : p.mem = (s.afterLanes (laneRead u n req fresh) r ls).mem := State.mem_after _ u ord scope
  refine ⟨(State.memoryOnly_laneReads s u n req fresh r ls).trans (State.memoryOnly_after _ u ord scope), fun l hl z hz => ?_,
    fun a h => (congrArg (Mem.get · a) hmem).trans (State.get_laneReads s u n req fresh r ls h),
    (State.spKept_laneReads s u n req fresh r ls).trans (State.spKept_after _ u ord scope)⟩
  have hset := State.leafSet_laneReads s u n req fresh r ls hl hz
  exact (hset.gains (t := p) (by rw [hmem]; exact fun _ _ h => h)) 10 (by decide)

section
variable {sp : Bool} {k : Kind} {n req : Nat} {ea : Nat → Dword} {r : Nat → Ready} (h : s.LanesReady u sp k n req ea r)
include h

theorem State.LanesReady.scratchpad (hsp : sp = true) {l : Nat} (hl : l ∈ (s.maskOf u).lanes) : r l = { addr := ea l, xl := none } := by
  subst hsp
  exact State.accessCheck_scratchpad (h l hl).2
theorem State.LanesReady.global (hsp : sp = false) {l : Nat} (hl : l ∈ (s.maskOf u).lanes) :
    ∃ x, r l = { addr := ea l, xl := some x } ∧ s.translate u.node (s.ctxOf u) (ea l) k = .ok x := by
  subst hsp
  exact State.accessCheck_global (h l hl).2

end

/-- The bytes that a lane finds in scratchpad, where nothing was read early. -/
theorem State.laneRead_now {sp : Bool} {n req req' : Nat} {fresh : Bool} {ea : Nat → Dword} {r : Nat → Ready}
    (h : s.LanesReady u sp .load n req ea r) (hsp : sp = true) (hahead : (s.caches u.node).ahead = []) {v : Nat → List Byte}
    (hv : ∀ A l B, (s.maskOf u).lanes = A ++ l :: B →
      v l = (laneRead u n req' fresh (s.afterLanes (laneRead u n req' fresh) r A) l (r l)).1) {l : Nat} (hl : l ∈ (s.maskOf u).lanes) :
    v l = s.spRead u.place (s.teamSlot u) (ea l).toNat n := by
  obtain ⟨A, B, hls⟩ := List.append_of_mem hl
  have hnone (m : Nat) (hm : m ∈ (s.maskOf u).lanes) : (r m).xl = none := by rw [h.scratchpad hsp hm]
  have hstate : s.afterLanes (laneRead u n req' fresh) r A = s :=
    State.laneReads_now s u n req' fresh r A hahead fun m hm => hnone m (by rw [hls]; simp [hm])
  rw [hv A l B hls, hstate, laneRead, State.readAt_now hahead (hnone l hl), h.scratchpad hsp hl]

/-- A lane that must wait for a line puts the instruction off (spec/02 R55). -/
theorem State.laneMem_waits {sp : Bool} {n : Nat} {ea : Nat → Dword} (h : ∃ l ∈ (s.maskOf u).lanes, s.mustWait u sp n (ea l) = true)
    (k : Kind) (req : Nat) (act : State → Nat → Ready → List Byte × State) (before : State → State)
    (fin : State → List (Nat × List Byte) → State) :
    s.WaitsIn (s.laneMem u i sp k n req ea act before fin) u i := by
  have hany : ((s.maskOf u).lanes.any fun l => s.mustWait u sp n (ea l)) = true := List.any_eq_true.mpr h
  rw [State.laneMem, if_pos hany]
  exact State.waitsIn s u { instr := i, lo := 0 }

/-- A load's value: sign-extended to 32 bits for .s8 and .s16, else zero-extended (spec/10 R229). -/
def loadedValue (m : Nat) (bs : List Byte) : Dword :=
  match m with
  | 1 => ((BitVec.ofNat 8 (leNat bs)).signExtend 32).setWidth 64
  | 3 => ((BitVec.ofNat 16 (leNat bs)).signExtend 32).setWidth 64
  | _ => BitVec.ofNat 64 (leNat bs)

theorem toInt_ofNat_eq_signed (n v : Nat) (hn : 0 < n) : (BitVec.ofNat n v).toInt = signed n v := by
  obtain ⟨m, rfl⟩ : ∃ m, n = m + 1 := ⟨n - 1, by omega⟩
  rw [BitVec.toInt_eq_toNat_cond, BitVec.toNat_ofNat, signed, Nat.add_sub_cancel, Nat.pow_succ]
  split <;> split <;> omega
theorem setWidth_signExtend (n v : Nat) (hn : 0 < n) :
    ((BitVec.ofNat n v).signExtend 32).setWidth 64 = BitVec.ofNat 64 (wrapN 32 (signed n v)) := by
  apply BitVec.eq_of_toNat_eq
  rw [BitVec.toNat_setWidth, BitVec.toNat_ofNat, BitVec.signExtend, BitVec.toNat_ofInt, toInt_ofNat_eq_signed n v hn, wrapN]
theorem loadValue_eq (m : Nat) (bs : List Byte) : loadValue m bs = loadedValue m bs := by
  unfold loadedValue
  split
  · exact (setWidth_signExtend 8 _ (by decide)).symm
  · exact (setWidth_signExtend 16 _ (by decide)).symm
  · rename_i h1 h3
    rw [loadValue, if_neg h1, if_neg h3]

/-- The lanes' results, made of the bytes `v` that they found, where memory alone has changed since the lanes were listed. -/
theorem State.MemoryOnly.laneDone {p : State} (h : s.MemoryOnly p) (hu : u.isPath = true) (i : Instr) (d : Nat) (k : Bool) (w : Nat)
    (v : Nat → List Byte) {g g' : List Byte → Dword} (hg : ∀ bs, g bs = g' bs) :
    p.LaneDone (p.doneV u i d k w { cells := ((s.maskOf u).lanes.map fun l => (l, v l)).map fun c => (c.1, g c.2) }) u i d k w
      (fun l => g' (v l)) 0 := by
  have htab : ({ cells := ((s.maskOf u).lanes.map fun l => (l, v l)).map fun c => (c.1, g c.2) } : Tab Dword) =
      laneTab (p.maskOf u) fun l => g' (v l) := by
    rw [h.mask, laneTab, List.map_map]
    exact congrArg Tab.mk (List.map_congr_left fun l _ => congrArg (Prod.mk l) (hg (v l)))
  rw [htab]
  exact State.laneDone_quiet p hu i d k w _

theorem laneLoad_of_mem {f : LA} {x : MemX} {sp : Bool} (hi : (i, sp) ∈ [(Instr.ld f x, false), (.lds f x, true)]) :
    exec i s = issue i s (State.laneLoad i f x sp) ∧ (sp = true → spBody i = some (State.laneLoad i f x sp)) ∧ i.units = .lform := by
  rcases List.mem_cons.mp hi with h | h
  · cases h
    exact ⟨exec_ld s f x, nofun, rfl⟩
  · cases List.mem_singleton.mp h
    exact ⟨exec_lds s f x, fun _ => rfl, rfl⟩

/-- Settles O11: no lane waits or faults, so the lanes read one after the other; each leaves of memory the use of its leaf alone. -/
theorem laneLoads : Obligations.LaneLoads := by
  unfold Obligations.LaneLoads
  intro s u f x i sp ans hi hreach m n ls ea act val
  obtain ⟨hexec, hbody, hform⟩ := laneLoad_of_mem (s := s) hi
  let fin (q : State) (vals : List (Nat × List Byte)) : State := (q.after u x.ord.toNat x.scope.toNat).doneV u i f.d.toNat f.k
    (if m = 5 then 64 else 32) { cells := vals.map fun v => (v.1, loadValue m v.2) }
  have hans : ans = .next (s.laneMem u i sp .load n (viewReq (reqOf x.pol.toNat) x.ord.toNat x.scope.toNat) ea act id fin) :=
    hreach.performs hexec hbody
  refine ⟨fun hwait => ⟨_, hans, State.laneMem_waits hwait _ _ _ _ _⟩, fun r hready => ?_⟩
  intro p
  obtain ⟨v, hrun, hv⟩ := State.laneMem_ready s u i sp .load n (viewReq (reqOf x.pol.toNat) x.ord.toNat x.scope.toNat) ea act id
    fin r (fun l hl => (hready l hl).1) (fun l hl => (hready l hl).2)
  obtain ⟨hmem, hleaf, hkept, hsp⟩ := State.laneReads_after s u n (reqOf x.pol.toNat) x.ord.toNat x.scope.toNat
    (freshLoad x.ord.toNat x.scope.toNat) r ls
  refine ⟨_, v, hans.trans (congrArg _ hrun), hmem, ?_, hleaf, hv, hkept, hsp, fun h hahead l hl => State.laneRead_now hready h hahead hv hl⟩
  exact hmem.laneDone (State.isPath_of_preCheck hreach.passed hform) i f.d.toNat f.k _ v (loadValue_eq m)

end Sys2Proof.Machine

namespace Sys2Proof.Machine

variable {s t : State} {u : UnitId} {i : Instr} {a : Answer}

/-! LDQ (spec/10 R228): the four registers of each lane. -/

/-- `t` is `s` but for lane registers that the unit's run has written, and for its latches. -/
structure State.LanesWritten (s t : State) (u : UnitId) : Prop where
  run : s.SameRun t u
  xOver : (t.thread u).run.xOver = (s.thread u).run.xOver
  scalars : ∀ r, t.sget u r = s.sget u r

theorem State.LanesWritten.refl (s : State) (u : UnitId) : s.LanesWritten s u := ⟨.refl s u, rfl, fun _ => rfl⟩
theorem State.LanesWritten.trans {q : State} (h : s.LanesWritten t u) (k : t.LanesWritten q u) : s.LanesWritten q u :=
  ⟨h.run.trans k.run, k.xOver.trans h.xOver, fun r => (k.scalars r).trans (h.scalars r)⟩
theorem State.lanesWritten_vput (s : State) (u : UnitId) (l k : Nat) (v : Word) : s.LanesWritten (s.vput u l k v) u :=
  ⟨State.sameRun_vput s u l k v, by simp [State.vput, State.onRun], fun r => State.sget_vput s u l k r v⟩
theorem State.lanesWritten_shiftL (s : State) (u : UnitId) (v : Option (Tab Dword)) : s.LanesWritten (s.shiftL u v) u :=
  ⟨State.sameRun_onRun s u _ rfl rfl, by simp [State.shiftL, State.onRun], fun r => State.sget_onRun s u _ rfl r⟩
theorem lanesWritten_foldl {β : Type} (f : State → β → State) (l : List β) (s : State) (hf : ∀ (s : State) b, s.LanesWritten (f s b) u) :
    s.LanesWritten (l.foldl f s) u := by
  induction l generalizing s with
  | nil => exact .refl s u
  | cons b r ih => exact (hf s b).trans (ih (f s b))

/-- Word `j` of a lane's quad. -/
def quadWord (bs : List Byte) (j : Nat) : Word := BitVec.ofNat 32 (leNat ((bs.drop (4 * j)).take 4))
/-- A lane's quad put into its registers vd to vd + `n` - 1. -/
def State.putQuad (s : State) (u : UnitId) (d n : Nat) (c : Nat × List Byte) : State :=
  (List.range n).foldl (fun s j => s.vput u c.1 (d + j) (quadWord c.2 j)) s

theorem State.lanesWritten_putQuad (s : State) (u : UnitId) (d n : Nat) (c : Nat × List Byte) : s.LanesWritten (s.putQuad u d n c) u :=
  lanesWritten_foldl _ _ s fun q _ => State.lanesWritten_vput q u _ _ _
theorem State.vget_putQuad (s : State) (hu : u.isPath = true) (d n : Nat) {c : Nat × List Byte} (hc : c.1 < 64) {l : Nat} (hl : l < 64)
    (k : Nat) : (s.putQuad u d n c).vget u l k = if l = c.1 ∧ d ≤ k ∧ k < d + n then quadWord c.2 (k - d) else s.vget u l k := by
  unfold State.putQuad
  induction n with
  | zero => rw [if_neg (by omega)]; rfl
  | succ n ih =>
    rw [List.range_succ, List.foldl_append, List.foldl_cons, List.foldl_nil, State.vget_vput _ hu hc hl, ih]
    by_cases hk : l = c.1 ∧ k = d + n
    · rw [if_pos hk, if_pos (by omega), hk.2, Nat.add_sub_cancel_left]
    · rw [if_neg hk]
      by_cases hin : l = c.1 ∧ d ≤ k ∧ k < d + n
      · rw [if_pos hin, if_pos (by omega)]
      · rw [if_neg hin, if_neg (by omega)]
/-- All lanes' quads. -/
theorem State.vget_putQuads (hu : u.isPath = true) (d : Nat) (v : Nat → List Byte) {ls : List Nat} (hls : ∀ l ∈ ls, l < 64) (s : State)
    {l : Nat} (hl : l < 64) (k : Nat) :
    ((ls.map fun l => (l, v l)).foldl (fun s c => s.putQuad u d 4 c) s).vget u l k =
      if l ∈ ls ∧ d ≤ k ∧ k < d + 4 then quadWord (v l) (k - d) else s.vget u l k := by
  induction ls generalizing s with
  | nil => rw [if_neg (by simp)]; rfl
  | cons b rest ih =>
    have hb := hls b (by simp)
    rw [List.map_cons, List.foldl_cons, ih (fun m hm => hls m (by simp [hm])), State.vget_putQuad s hu d 4 (c := (b, v b)) hb hl]
    by_cases hin : d ≤ k ∧ k < d + 4
    · by_cases hrest : l ∈ rest
      · rw [if_pos ⟨hrest, hin⟩, if_pos ⟨by simp [hrest], hin⟩]
      · rw [if_neg fun h => hrest h.1]
        by_cases hlb : l = b
        · subst hlb
          rw [if_pos ⟨rfl, hin⟩, if_pos ⟨by simp, hin⟩]
        · rw [if_neg fun h => hlb h.1, if_neg fun h => (List.mem_cons.mp h.1).elim hlb hrest]
    · rw [if_neg fun h => hin h.2, if_neg fun h => hin h.2, if_neg fun h => hin h.2]

/-- A quad load that is done: what its unit sees. -/
theorem State.quadDone (s : State) (hu : u.isPath = true) (i : Instr) (d : Nat) (k : Bool) (v : Nat → List Byte) {ls : List Nat}
    (hls : ∀ l ∈ ls, l < 64) :
    let t := (s.quadResult u d k (ls.map fun l => (l, v l))).done u i.len i.endsRun
    s.Own t u ∧ s.Passed t u i ∧ t.flagsSeen u = s.flagsSeen u ∧ (∀ r, t.sget u r = s.sget u r) ∧ (∀ l, t.bindOf u l = s.bindOf u l) ∧
      (k = false → ∀ l ∈ ls, ∀ j, j < 4 → t.vget u l (d + j) = quadWord (v l) j) ∧
      ∀ l r, l < 64 → (k = true ∨ l ∉ ls ∨ r < d ∨ d + 4 ≤ r) → t.vget u l r = s.vget u l r := by
  let q : State := if k then s else (ls.map fun l => (l, v l)).foldl (fun s c => s.putQuad u d 4 c) s
  let p : State := q.shiftL u (some { cells := (ls.map fun l => (l, v l)).map fun c => (c.1, BitVec.ofNat 64 (leNat (c.2.take 8))) })
  have hq : s.LanesWritten q u := by
    unfold q
    split
    · exact .refl s u
    · exact lanesWritten_foldl _ _ s fun y _ => State.lanesWritten_putQuad y u d 4 _
  have hp : s.LanesWritten p u := hq.trans (State.lanesWritten_shiftL q u _)
  have hv (l r : Nat) : (p.done u i.len i.endsRun).vget u l r = q.vget u l r := by
    rw [State.vget_done]
    exact State.vget_onRun q u _ rfl l r
  obtain ⟨hown, hpass, hbind, -⟩ := hp.run.done i
  refine ⟨hown, hpass, ?flags, fun r => ?scalars, hbind hu, fun hk l hl j hj => ?written, fun l r hl hout => ?others⟩
  case flags =>
    refine (State.flagsSeen_done p u _ _ hu).trans ?_
    simp only [State.flagsSeen, hp.xOver, hp.run.xflags]
  case scalars => exact (State.sget_done p u _ _ r).trans (hp.scalars r)
  case written =>
    subst hk
    refine (hv l (d + j)).trans ((State.vget_putQuads hu d v hls s (hls l hl) (d + j)).trans ?_)
    rw [if_pos ⟨hl, by omega, by omega⟩, Nat.add_sub_cancel_left]
  case others =>
    refine (hv l r).trans ?_
    cases k with
    | true => rfl
    | false =>
      refine (State.vget_putQuads hu d v hls s hl r).trans (if_neg ?_)
      rintro ⟨hin, hlow, hhigh⟩
      rcases hout with h | h | h
      · exact Bool.false_ne_true h
      · exact h hin
      · omega

/-! What a unit sees is no part of memory. -/

theorem State.MemoryOnly.groupOf (h : s.MemoryOnly t) (u : UnitId) : t.groupOf u = s.groupOf u := by
  cases u with
  | path c g i => exact h.group c g
  | seq c k => rfl
  | lant l p => rfl
theorem State.MemoryOnly.flagsSeen (h : s.MemoryOnly t) (u : UnitId) : t.flagsSeen u = s.flagsSeen u := by
  rw [State.flagsSeen, State.flagsSeen, h.groupOf, h.thread]
theorem State.MemoryOnly.bindOf (h : s.MemoryOnly t) (u : UnitId) (l : Nat) : t.bindOf u l = s.bindOf u l := by
  rw [State.bindOf, State.bindOf, h.groupOf, h.thread]
theorem State.MemoryOnly.passed {p : State} (h : s.MemoryOnly p) (k : p.Passed t u i) : s.Passed t u i :=
  k.of_thread (by rw [h.thread]) (by rw [h.thread])

theorem State.ldq_issued {f : LA} {x : MemX} (h : f.k = true ∨ f.d.toNat % 4 = 0) (u : UnitId) (s : State) :
    s.ldq f x u = s.laneMem u (.ldq f x) x.sp .load 16 (viewReq (reqOf x.pol.toNat) x.ord.toNat x.scope.toNat)
      (s.laneAddr u f.a.toNat f.b.toNat x.ix.toNat x.scl.toNat x.off)
      (laneRead u 16 (reqOf x.pol.toNat) (freshLoad x.ord.toNat x.scope.toNat)) id
      fun s vals => ((s.after u x.ord.toNat x.scope.toNat).quadResult u f.d.toNat f.k vals).done u (Instr.ldq f x).len (Instr.ldq f x).endsRun := by
  have hneg : ¬ (!f.k && f.d.toNat % 4 != 0) = true := by
    rcases h with h | h <;> simp [h]
  rw [State.ldq, if_neg hneg]
  rfl
theorem State.ldq_illegal {f : LA} {x : MemX} (hk : f.k = false) (hd : f.d.toNat % 4 ≠ 0) (u : UnitId) (s : State) :
    s.ldq f x u = s.faultUnit u illegalOperand := by
  have hpos : (!f.k && f.d.toNat % 4 != 0) = true := by simp [hk, hd]
  rw [State.ldq, if_pos hpos]

/-- Settles O13: LDQ is a lane load whose results are four words for each lane. -/
theorem laneQuads : Obligations.LaneQuads := by
  unfold Obligations.LaneQuads
  intro s u f x
  refine ⟨fun hissue hd => ?stq, fun ans hreach => ?ldq⟩
  case stq =>
    rw [exec_stq, execStq, hissue.next, State.stq, if_pos (by simpa using hd)]
    rfl
  case ldq =>
    intro ls ea act
    have hans : ans = .next (s.ldq f x u) := hreach.performs (exec_ldq s f x) fun _ => rfl
    refine ⟨fun hd hwait => ?waits, fun r hd hready => ?reads, fun hk hd => ?illegal⟩
    case waits => exact ⟨_, hans.trans (congrArg _ (State.ldq_issued hd u s)), State.laneMem_waits hwait _ _ _ _ _⟩
    case illegal => exact hans.trans (congrArg _ (State.ldq_illegal hk hd u s))
    case reads =>
      intro p
      obtain ⟨v, hrun, hv⟩ := State.laneMem_ready s u (.ldq f x) x.sp .load 16 (viewReq (reqOf x.pol.toNat) x.ord.toNat x.scope.toNat) ea
        act id (fun s vals => ((s.after u x.ord.toNat x.scope.toNat).quadResult u f.d.toNat f.k vals).done u (Instr.ldq f x).len
          (Instr.ldq f x).endsRun) r (fun l hl => (hready l hl).1) (fun l hl => (hready l hl).2)
      obtain ⟨hmem, -, hkept, hsp⟩ := State.laneReads_after s u 16 (reqOf x.pol.toNat) x.ord.toNat x.scope.toNat
        (freshLoad x.ord.toNat x.scope.toNat) r ls
      obtain ⟨hown, hpass, hflags, hscalars, hbinds, hwritten, hothers⟩ := State.quadDone p
        (State.isPath_of_preCheck hreach.passed rfl) (.ldq f x) f.d.toNat f.k v (ls := ls) fun l hl => ((Dword.mem_lanes _ l).mp hl).1
      refine ⟨_, v, hans.trans (congrArg _ ((State.ldq_issued hd u s).trans hrun)), hmem, hown, hmem.passed hpass,
        hflags.trans (hmem.flagsSeen u), fun r => (hscalars r).trans (hmem.sget u r), fun l => (hbinds l).trans (hmem.bindOf u l), hv,
        hkept, hsp, fun h hahead l hl => State.laneRead_now hready h hahead hv hl, hwritten,
        fun l k hl hout => (hothers l k hl hout).trans (hmem.vget u l k)⟩

end Sys2Proof.Machine

namespace Sys2Proof.Machine

variable {s t : State} {u : UnitId} {i : Instr} {a : Answer}

/-! Pending writes that stand: translations and reads put none there and take none away. -/

/-- The pending writes of every node are as before. -/
def State.WbufKept (s t : State) : Prop := ∀ n, (t.caches n).wbuf = (s.caches n).wbuf

theorem State.WbufKept.refl (s : State) : s.WbufKept s := fun _ => rfl
theorem State.WbufKept.trans {r : State} (h : s.WbufKept t) (k : t.WbufKept r) : s.WbufKept r := fun n => (k n).trans (h n)
theorem State.HomeOnly.wbufKept (h : s.HomeOnly t) : s.WbufKept t := fun n => congrArg Caches.wbuf (h.caches n)
theorem State.wbufKept_onCaches (s : State) (n : Nat) (f : Caches → Caches) (hf : (f (s.caches n)).wbuf = (s.caches n).wbuf) :
    s.WbufKept (s.onCaches n f) := by
  intro m
  by_cases hn : n < 576
  · by_cases hm : m = n
    · rw [hm, caches_onCaches s n hn, hf]
    · rw [State.caches_onCaches_other s hm]
  · rw [State.onCaches_mgmt s hn]
theorem State.wbufKept_keepWalk (s : State) (n c va : Nat) : s.WbufKept (s.keepWalk n c va) := by
  unfold State.keepWalk
  split <;> exact fun _ => rfl
theorem State.wbufKept_useCtx (s : State) (n c : Nat) (va : Dword) : s.WbufKept (s.useCtx n c va) := by
  unfold State.useCtx State.keepDesc
  refine .trans (t := if _ then s else s.keepWalk n c va.toNat) ?_ (State.wbufKept_onCaches _ n _ rfl)
  split
  · exact .refl s
  · exact State.wbufKept_keepWalk s n c _
theorem State.wbufKept_useLeaf (s : State) (n c : Nat) (va : Dword) (x : Xlat) (k : Kind) : s.WbufKept (s.useLeaf n c va x k) := by
  unfold State.useLeaf
  refine (State.wbufKept_useCtx s n c va).trans (.trans ?_ (State.wbufKept_onCaches _ n _ rfl))
  split
  · exact .refl _
  · exact (State.homeOnly_writeSector _ _ _ _).wbufKept
theorem State.wbufKept_touch (s : State) (w : Who) (sp : Bool) (place n : Nat) : s.WbufKept (s.touch w sp place n) := by
  unfold State.touch
  dsimp only
  split
  · exact .refl s
  · exact State.wbufKept_onCaches s _ _ rfl

/-! What a node sees of one byte. -/

theorem State.seeHome_byte (s : State) (n b : Nat) : s.seeHome n b 1 = overlay (s.caches n).wbuf b [s.mem.get b] := by
  simp [State.seeHome, Mem.read]
theorem State.WbufKept.seeHome (h : s.WbufKept t) {b : Nat} (hmem : t.mem.get b = s.mem.get b) (n : Nat) :
    t.seeHome n b 1 = s.seeHome n b 1 := by
  rw [State.seeHome_byte, State.seeHome_byte, h, hmem]
/-- What a store makes pending covers its bytes, whatever stands below, and leaves the others as they were seen. -/
theorem State.overlay_storeAt (s : State) (w : Who) (hn : w.node < 576) (x : Xlat) (bs : List Byte) (req rel b : Nat) (y : Byte) :
    overlay ((s.storeAt w x bs req rel).caches w.node).wbuf b [y] =
      if x.at_ w.node ≤ b ∧ b < x.at_ w.node + bs.length then [bs.getD (b - x.at_ w.node) 0] else overlay (s.caches w.node).wbuf b [y] := by
  unfold State.storeAt State.pend
  rw [caches_onCaches _ _ hn]
  refine (storeFold (x.at_ w.node) bs _ (fun _ => rfl) (fun _ => rfl) b _ (pieces_within 64 _ _ (by decide)) _ _).trans ?_
  by_cases h : x.at_ w.node ≤ b ∧ b < x.at_ w.node + bs.length
  · rw [if_pos h, if_pos (pieces_cover 64 _ _ b (by decide) h)]
  · rw [if_neg h, if_neg]
    · rw [State.wbufKept_touch _ _ _ _ _ _]
      rfl
    · rintro ⟨p, hp, hb⟩
      have := pieces_within 64 _ _ (by decide) p hp
      omega
/-- Of the pending writes of node `n`, the last that covers byte `b` gives it the value `y`. -/
def State.PendsAt (s : State) (n b : Nat) (y : Byte) : Prop := ∀ z, overlay (s.caches n).wbuf b [z] = [y]

theorem State.PendsAt.seen {n b : Nat} {y : Byte} (h : s.PendsAt n b y) : s.seeHome n b 1 = [y] :=
  (State.seeHome_byte s n b).trans (h _)

/-! A write of one lane or unit: scratchpad and what the node sees. -/

section
variable (s : State) (u : UnitId) (w : Who) {r : Ready} (bs : List Byte) (req rel : Nat)

theorem State.sp_spWrite (c k a m b : Nat) : ((s.spWrite c k a bs).core m).sp.get b =
    if m = c ∧ (s.team c k).spBase + a ≤ b ∧ b < (s.team c k).spBase + a + bs.length then bs.getD (b - ((s.team c k).spBase + a)) 0
      else (s.core m).sp.get b := by
  unfold State.spWrite
  rw [State.core_onCore]
  by_cases hm : m = c
  · rw [if_pos hm, hm]
    exact (Mem.get_write _ _ _ _).trans (if_congr (by simp) rfl rfl)
  · rw [if_neg hm, if_neg fun h => hm h.1]
theorem State.sp_writeAt_scratchpad (h : r.xl = none) (c b : Nat) : ((s.writeAt u w r bs req rel).core c).sp.get b =
    if c = u.place ∧ s.placeOf u r ≤ b ∧ b < s.placeOf u r + bs.length then bs.getD (b - s.placeOf u r) 0 else (s.core c).sp.get b := by
  have ht := State.memoryOnly_touch s w true (s.spPlace u r) bs.length
  have hbase : ((s.touch w true (s.spPlace u r) bs.length).team u.place (s.teamSlot u)).spBase + r.addr.toNat = s.placeOf u r := by
    rw [ht.team, ← State.spPlace_eq h]
    rfl
  have hw : s.writeAt u w r bs req rel = (s.touch w true (s.spPlace u r) bs.length).spWrite u.place (s.teamSlot u) r.addr.toNat bs := by
    simp only [State.writeAt, h]
  rw [hw, State.sp_spWrite, hbase, State.spKept_touch s w true (s.spPlace u r) bs.length c]
theorem State.spKept_writeAt_global {x : Xlat} (h : r.xl = some x) : s.SpKept (s.writeAt u w r bs req rel) := by
  have hw : s.writeAt u w r bs req rel = (s.useLeaf u.node (s.ctxOf u) r.addr x .store).storeAt w x bs req rel := by
    simp only [State.writeAt, h]
  rw [hw]
  exact (State.spKept_useLeaf s _ _ _ _ _).trans (State.spKept_storeAt _ _ _ _ _ _)
/-- A write leaves the scratchpad of a core that is not the unit's, or that it does not reach, as it is. -/
theorem State.sp_writeAt_elsewhere {c : Nat} (h : r.xl = none → c ≠ u.place) : ((s.writeAt u w r bs req rel).core c).sp = (s.core c).sp := by
  cases hx : r.xl with
  | some x => exact State.spKept_writeAt_global s u w bs req rel hx c
  | none =>
    have hw : s.writeAt u w r bs req rel = (s.touch w true (s.spPlace u r) bs.length).spWrite u.place (s.teamSlot u) r.addr.toNat bs := by
      simp only [State.writeAt, hx]
    rw [hw, State.spWrite, State.core_onCore, if_neg (h hx), State.spKept_touch s w true (s.spPlace u r) bs.length c]

variable {x : Xlat} (h : r.xl = some x) (hw : w.node = u.node) (hn : u.node < 576)
include h hw hn

theorem State.overlay_writeAt (b : Nat) (y : Byte) : overlay ((s.writeAt u w r bs req rel).caches u.node).wbuf b [y] =
    if s.placeOf u r ≤ b ∧ b < s.placeOf u r + bs.length then [bs.getD (b - s.placeOf u r) 0]
      else overlay (s.caches u.node).wbuf b [y] := by
  have hplace : s.placeOf u r = x.at_ w.node := by simp only [State.placeOf, h, hw]
  have heq : s.writeAt u w r bs req rel = (s.useLeaf u.node (s.ctxOf u) r.addr x .store).storeAt w x bs req rel := by
    simp only [State.writeAt, h]
  rw [heq, hplace, ← hw, State.overlay_storeAt _ w (hw ▸ hn), State.wbufKept_useLeaf]
theorem State.seeHome_writeAt_other {b : Nat} (hout : ¬ (s.placeOf u r ≤ b ∧ b < s.placeOf u r + bs.length)) (hleaf : ¬ r.inLeaf b) :
    (s.writeAt u w r bs req rel).seeHome u.node b 1 = s.seeHome u.node b 1 := by
  have hmem : (s.writeAt u w r bs req rel).mem.get b = s.mem.get b := State.get_writeAt s u w r bs req rel fun z hz => by
    have hin : ¬ (z.pte ≤ b ∧ b < z.pte + 8) := fun hin => hleaf ⟨z, hz, hin⟩
    omega
  rw [State.seeHome_byte, State.seeHome_byte, State.overlay_writeAt s u w bs req rel h hw hn, if_neg hout, hmem]
theorem State.pendsAt_writeAt {b : Nat} (hin : s.placeOf u r ≤ b ∧ b < s.placeOf u r + bs.length) :
    (s.writeAt u w r bs req rel).PendsAt u.node b (bs.getD (b - s.placeOf u r) 0) := fun y => by
  rw [State.overlay_writeAt s u w bs req rel h hw hn, if_pos hin]
theorem State.PendsAt.writeAt {s : State} {b : Nat} {y : Byte} (hb : s.PendsAt u.node b y)
    (hout : ¬ (s.placeOf u r ≤ b ∧ b < s.placeOf u r + bs.length)) : (s.writeAt u w r bs req rel).PendsAt u.node b y := fun z => by
  rw [State.overlay_writeAt s u w bs req rel h hw hn, if_neg hout, hb z]

end

/-! Lane stores (spec/10 R229). -/

/-- A lane's write of the bytes `bytes l`. -/
def laneWrite (u : UnitId) (bytes : Nat → List Byte) (req rel : Nat) (q : State) (l : Nat) (z : Ready) : List Byte × State :=
  ([], q.writeAt u (q.laneWho u l) z (bytes l) req rel)

/-- Byte `b` is one of the `n` bytes that an access of the unit reaches. -/
def State.Touches (s : State) (u : UnitId) (r : Ready) (n b : Nat) : Prop := s.placeOf u r ≤ b ∧ b < s.placeOf u r + n

theorem State.MemoryOnly.touches (h : s.MemoryOnly t) (r : Ready) (n b : Nat) : t.Touches u r n b ↔ s.Touches u r n b := by
  rw [State.Touches, State.Touches, h.placeOf]

/-- Lanes' accesses that agree on states in which memory alone has changed come to the same. -/
theorem State.afterLanes_congr {act act' : State → Nat → Ready → List Byte × State} {r : Nat → Ready} {q : State}
    (hact : ∀ q l z, s.MemoryOnly q → act q l z = act' q l z) (hmem : ∀ q l z, State.MemoryOnly q (act' q l z).2) (hq : s.MemoryOnly q)
    (ls : List Nat) : q.afterLanes act r ls = q.afterLanes act' r ls := by
  induction ls generalizing q with
  | nil => rfl
  | cons l rest ih =>
    rw [State.afterLanes_cons, State.afterLanes_cons, hact q l (r l) hq]
    exact ih (hq.trans (hmem q l (r l)))

section
variable {bytes : Nat → List Byte} {req rel n : Nat} {r : Nat → Ready} {ls : List Nat}

theorem State.memoryOnly_laneWrite (q : State) (l : Nat) (z : Ready) : q.MemoryOnly (laneWrite u bytes req rel q l z).2 :=
  State.memoryOnly_writeAt _ _ _ _ _ _ _
theorem State.memoryOnly_laneWrites (s : State) : s.MemoryOnly (s.afterLanes (laneWrite u bytes req rel) r ls) :=
  State.memoryOnly_afterLanes _ r s ls fun q l => State.memoryOnly_laneWrite q l (r l)
theorem State.get_laneWrites (s : State) {a : Nat} (h : ∀ l ∈ ls, ¬ (r l).inLeaf a) :
    (s.afterLanes (laneWrite u bytes req rel) r ls).mem.get a = s.mem.get a := by
  refine State.afterLanes_keeps (fun q => q.mem.get a = s.mem.get a) rfl fun q l hl hq => ?_
  refine (State.get_writeAt q u _ (r l) (bytes l) req rel fun x hx => ?_).trans hq
  have hout : ¬ (x.pte ≤ a ∧ a < x.pte + 8) := fun hin => h l hl ⟨x, hx, hin⟩
  omega
theorem State.leafSet_laneWrites (s : State) {l : Nat} (hl : l ∈ ls) {z : Xlat} (hz : (r l).xl = some z) :
    (s.afterLanes (laneWrite u bytes req rel) r ls).LeafSet z 0xC00 :=
  State.leafSet_afterLanes (act := laneWrite u bytes req rel) (fun _ _ _ hz => State.leafSet_writeAt _ _ _ _ _ _ hz)
    (fun _ _ => State.gains_writeAt _ _ _ _ _ _ _) hl hz
theorem State.sp_laneWrites_elsewhere (s : State) {c : Nat} (h : ∀ l ∈ ls, (r l).xl = none → c ≠ u.place) :
    ((s.afterLanes (laneWrite u bytes req rel) r ls).core c).sp = (s.core c).sp :=
  State.afterLanes_keeps (fun q => (q.core c).sp = (s.core c).sp) rfl fun q l hl hq =>
    (State.sp_writeAt_elsewhere q u _ (bytes l) req rel (h l hl)).trans hq

variable (hlen : ∀ l, (bytes l).length = n)
include hlen

/-- A byte of scratchpad that no lane stores to is as before. -/
theorem State.sp_laneWrites_other (s : State) {c b : Nat} (h : ∀ l ∈ ls, (r l).xl = none → c = u.place → ¬ s.Touches u (r l) n b) :
    ((s.afterLanes (laneWrite u bytes req rel) r ls).core c).sp.get b = (s.core c).sp.get b := by
  refine (State.afterLanes_keeps (fun q => s.MemoryOnly q ∧ (q.core c).sp.get b = (s.core c).sp.get b) ⟨.refl s, rfl⟩
    fun q l hl ⟨hm, hq⟩ => ⟨hm.trans (State.memoryOnly_laneWrite q l _), ?_⟩).2
  cases hx : (r l).xl with
  | none =>
    refine (State.sp_writeAt_scratchpad q u _ (bytes l) req rel hx c b).trans ((if_neg ?_).trans hq)
    rintro ⟨hc, hin⟩
    rw [hlen] at hin
    exact h l hl hx hc ((hm.touches (r l) n b).mp hin)
  | some x => exact (congrArg (Mem.get · b) (State.spKept_writeAt_global q u _ (bytes l) req rel hx c)).trans hq
/-- A byte of scratchpad holds what the last lane that stores to it has written. -/
theorem State.sp_laneWrites_last (s : State) {A B : List Nat} {l b : Nat} (hx : (r l).xl = none) (hin : s.Touches u (r l) n b)
    (h : ∀ k ∈ B, ¬ s.Touches u (r k) n b) :
    ((s.afterLanes (laneWrite u bytes req rel) r (A ++ l :: B)).core u.place).sp.get b = (bytes l).getD (b - s.placeOf u (r l)) 0 := by
  have hm : s.MemoryOnly (s.afterLanes (laneWrite u bytes req rel) r A) := State.memoryOnly_laneWrites s
  have hm' := hm.trans (State.memoryOnly_laneWrite (u := u) (bytes := bytes) (req := req) (rel := rel) _ l (r l))
  rw [State.afterLanes_append, State.afterLanes_cons,
    State.sp_laneWrites_other hlen _ fun k hk _ _ hin => h k hk ((hm'.touches (r k) n b).mp hin)]
  refine (State.sp_writeAt_scratchpad _ u _ (bytes l) req rel hx u.place b).trans ?_
  rw [hm.placeOf, if_pos ⟨rfl, by rw [hlen]; exact hin⟩]

variable (hn : u.node < 576) (hglobal : ∀ l ∈ ls, (r l).xl ≠ none)
include hn hglobal

/-- A byte that no lane stores to, and that is no byte of a leaf used, is seen as before. -/
theorem State.seeHome_laneWrites_other (s : State) {b : Nat} (h : ∀ l ∈ ls, ¬ s.Touches u (r l) n b ∧ ¬ (r l).inLeaf b) :
    (s.afterLanes (laneWrite u bytes req rel) r ls).seeHome u.node b 1 = s.seeHome u.node b 1 := by
  refine (State.afterLanes_keeps (fun q => s.MemoryOnly q ∧ q.seeHome u.node b 1 = s.seeHome u.node b 1) ⟨.refl s, rfl⟩
    fun q l hl ⟨hm, hq⟩ => ⟨hm.trans (State.memoryOnly_laneWrite q l _), ?_⟩).2
  obtain ⟨x, hx⟩ := Option.ne_none_iff_exists'.mp (hglobal l hl)
  refine (State.seeHome_writeAt_other q u _ (bytes l) req rel hx rfl hn ?_ (h l hl).2).trans hq
  rw [hlen]
  exact fun hin => (h l hl).1 ((hm.touches (r l) n b).mp hin)
/-- A byte is seen as the last lane that stores to it has written it. -/
theorem State.seeHome_laneWrites_last (s : State) {A B : List Nat} {l b : Nat} (hls : ls = A ++ l :: B) (hin : s.Touches u (r l) n b)
    (h : ∀ k ∈ B, ¬ s.Touches u (r k) n b) :
    (s.afterLanes (laneWrite u bytes req rel) r ls).seeHome u.node b 1 = [(bytes l).getD (b - s.placeOf u (r l)) 0] := by
  have hm : s.MemoryOnly (s.afterLanes (laneWrite u bytes req rel) r A) := State.memoryOnly_laneWrites s
  have hm' := hm.trans (State.memoryOnly_laneWrite (u := u) (bytes := bytes) (req := req) (rel := rel) _ l (r l))
  obtain ⟨x, hx⟩ := Option.ne_none_iff_exists'.mp (hglobal l (by simp [hls]))
  rw [hls, State.afterLanes_append, State.afterLanes_cons]
  refine (State.afterLanes_keeps (fun q => s.MemoryOnly q ∧ q.PendsAt u.node b ((bytes l).getD (b - s.placeOf u (r l)) 0))
    ⟨hm', ?_⟩ fun q k hk ⟨hq, hp⟩ => ⟨hq.trans (State.memoryOnly_laneWrite q k _), ?_⟩).2.seen
  · rw [← hm.placeOf]
    refine State.pendsAt_writeAt _ u _ (bytes l) req rel hx rfl hn ?_
    rw [hlen, hm.placeOf]
    exact hin
  · obtain ⟨y, hy⟩ := Option.ne_none_iff_exists'.mp (hglobal k (by simp [hls, hk]))
    refine State.PendsAt.writeAt u _ (bytes k) req rel hy rfl hn hp ?_
    rw [hlen]
    exact fun hin => h k hk ((hq.touches (r k) n b).mp hin)

end

end Sys2Proof.Machine

namespace Sys2Proof.Machine

variable {s t : State} {u : UnitId} {i : Instr} {a : Answer}

/-! The forms of lane stores (spec/10 R229). -/

/-- A lane store that comes to its accesses: each lane's `n` bytes are `bytes`. -/
structure State.StoreForm (s : State) (u : UnitId) (i : Instr) (x : MemX) (sp : Bool) (n : Nat) (bytes : Nat → List Byte) (ea : Nat → Dword)
    (t : State) : Prop where
  lform : i.units = .lform
  length : ∀ l, (bytes l).length = n
  runs : ∃ act : State → Nat → Ready → List Byte × State,
    (∀ q l z, s.MemoryOnly q → act q l z = laneWrite u bytes (reqOf x.pol.toNat) (relScope x.ord.toNat x.scope.toNat) q l z) ∧
      t = s.laneMem u i sp .store n 0 ea act (fun q => q.beforeStore u sp x.ord.toNat x.scope.toNat) fun q _ => q.doneL u i

theorem quad_length (g : Nat → Nat) : ((List.range 4).flatMap fun j => natLe 4 (g j)).length = 16 := by
  simp [List.range_succ]
theorem State.MemoryOnly.quadOf (h : s.MemoryOnly t) (u : UnitId) (l d : Nat) : t.quadOf u l d = s.quadOf u l d := by
  unfold State.quadOf
  simp only [h.vget u l]

/-- ST, STS and STQ: what each comes to. -/
theorem State.storeForm_of_mem {f : LA} {x : MemX} {sp : Bool} {n : Nat} {bytes : Nat → List Byte}
    (hi : (i, sp, n, bytes) ∈ ([
      (Instr.st f x, false, sizeOfM f.m.toNat, fun l => natLe (sizeOfM f.m.toNat) (s.vwide u l f.d.toNat (if f.m = 5 then 64 else 32)).toNat),
      (.sts f x, true, sizeOfM f.m.toNat, fun l => natLe (sizeOfM f.m.toNat) (s.vwide u l f.d.toNat (if f.m = 5 then 64 else 32)).toNat),
      (.stq f x, x.sp, 16, fun l => s.quadOf u l f.d.toNat)] : List (Instr × Bool × Nat × (Nat → List Byte))))
    (hreach : s.Reaches u i sp a) (hd : i = .stq f x → f.d.toNat % 4 = 0) :
    ∃ t, a = .next t ∧ s.StoreForm u i x sp n bytes (s.laneAddr u f.a.toNat f.b.toNat x.ix.toNat x.scl.toNat x.off) t := by
  have hwidth : (if f.m.toNat = 5 then 64 else 32) = if f.m = 5 then 64 else 32 := if_congr (BitVec.toNat_eq (x := f.m) (y := 5)).symm rfl rfl
  have hone (q : State) (l : Nat) (z : Ready) (hq : s.MemoryOnly q) : (([], q.writeAt u (q.laneWho u l) z
      (natLe (sizeOfM f.m.toNat) (q.vwide u l f.d.toNat (if f.m.toNat = 5 then 64 else 32)).toNat) (reqOf x.pol.toNat)
      (relScope x.ord.toNat x.scope.toNat)) : List Byte × State) = laneWrite u
        (fun l => natLe (sizeOfM f.m.toNat) (s.vwide u l f.d.toNat (if f.m = 5 then 64 else 32)).toNat) (reqOf x.pol.toNat)
        (relScope x.ord.toNat x.scope.toNat) q l z := by
    rw [hq.vwide, hwidth]
    rfl
  rcases List.mem_cons.mp hi with h | h
  · cases h
    exact ⟨_, hreach.performs (exec_st s f x) nofun, rfl, fun _ => natLe_length _ _, _, hone, rfl⟩
  rcases List.mem_cons.mp h with h | h
  · cases h
    exact ⟨_, hreach.performs (exec_sts s f x) fun _ => rfl, rfl, fun _ => natLe_length _ _, _, hone, rfl⟩
  · cases List.mem_singleton.mp h
    have hneg : ¬ (f.d.toNat % 4 != 0) = true := by simp [hd rfl]
    refine ⟨_, hreach.performs (exec_stq s f x) fun _ => rfl, rfl, fun _ => quad_length _, _, fun q l z hq => ?_, if_neg hneg⟩
    rw [hq.quadOf]
    rfl

theorem some_getD_eq {bs : List Byte} {k : Nat} (h : k < bs.length) : some (bs.getD k 0) = bs[k]? := by
  simp [h]

/-- Settles O12: no lane waits or faults, so the lanes write one after the other; what a byte then holds is the last lane's that
writes it. -/
theorem laneStores : Obligations.LaneStores := by
  unfold Obligations.LaneStores
  intro s u f x i sp n bytes ans one four hi hreach hplace hd ls ea
  obtain ⟨t, hans, hform, hlen, act, hact, ht⟩ := State.storeForm_of_mem hi hreach hd
  refine ⟨fun hwait => ⟨t, hans, ht ▸ State.laneMem_waits hwait _ _ _ _ _⟩, fun r hready => ?_⟩
  intro stores q
  have hpath := State.isPath_of_preCheck hreach.passed hform
  have hn : u.node < 576 := by
    cases u with
    | path c g i => exact Nat.lt_trans hplace (by decide)
    | seq c k => exact absurd hpath Bool.false_ne_true
    | lant l p => exact absurd hpath Bool.false_ne_true
  obtain ⟨-, hrun, -⟩ := State.laneMem_ready s u i sp .store n 0 ea act (fun q => q.beforeStore u sp x.ord.toNat x.scope.toNat)
    (fun q _ => q.doneL u i) r (fun l hl => (hready l hl).1) (fun l hl => (hready l hl).2)
  have hq : s.MemoryOnly q := State.memoryOnly_beforeStore s u sp _ _
  let write := laneWrite u bytes (reqOf x.pol.toNat) (relScope x.ord.toNat x.scope.toNat)
  have hlanes : q.afterLanes act r ls = q.afterLanes write r ls :=
    State.afterLanes_congr hact (fun y l z => State.memoryOnly_laneWrite y l z) hq ls
  have hkept : s.SpKept q := State.spKept_beforeStore s u sp _ _
  have hst (l b : Nat) : q.Touches u (r l) n b ↔ stores l b := hq.touches (r l) n b
  have hbyte (l b : Nat) (hin : stores l b) : some ((bytes l).getD (b - s.placeOf u (r l)) 0) = (bytes l)[b - s.placeOf u (r l)]? :=
    some_getD_eq (by rw [hlen]; omega)
  have hglobal (hsp : sp = false) (l : Nat) (hl : l ∈ ls) : (r l).xl ≠ none := by
    obtain ⟨y, hy, -⟩ := hready.global hsp hl
    rw [hy]
    nofun
  refine ⟨t, q.afterLanes write r ls, hans, hq.trans (State.memoryOnly_laneWrites q), ?done, fun l hl z hz => ?leaf,
    fun hsp b => ⟨fun h => ?spOther, fun A l B hls hin h => ?spLast⟩, fun c hc => ?spKept, fun b h => ?home,
    fun hsp b => ⟨fun h => ?seenOther, fun A l B hls hin h => ?seenLast⟩⟩
  case done =>
    rw [ht, hrun, ← hlanes]
    exact State.plainDoneL _ u i
  case leaf => exact (State.leafSet_laneWrites q hl hz).masked
  case spOther =>
    rw [State.sp_laneWrites_other hlen q fun l hl _ _ hin => h l hl ((hst l b).mp hin), hkept]
  case spLast =>
    have hx : (r l).xl = none := by rw [hready.scratchpad hsp (show l ∈ ls by simp [hls])]
    rw [hls, ← hbyte l b hin, State.sp_laneWrites_last hlen q hx ((hst l b).mpr hin) fun k hk hin => h k hk ((hst k b).mp hin), hq.placeOf]
  case spKept =>
    exact (State.sp_laneWrites_elsewhere q fun l hl hx => hc.resolve_left fun hsp => hglobal hsp l hl hx).trans (hkept c)
  case home => exact State.get_laneWrites q h
  case seenOther =>
    exact State.seeHome_laneWrites_other hlen hn (hglobal hsp) q fun l hl => (h l hl).imp_left fun hno hin => hno ((hst l b).mp hin)
  case seenLast =>
    rw [← hbyte l b hin, State.seeHome_laneWrites_last hlen hn (hglobal hsp) q hls ((hst l b).mpr hin) fun k hk hin =>
      h k hk ((hst k b).mp hin), hq.placeOf]
    rfl

end Sys2Proof.Machine

namespace Sys2Proof.Machine

variable {s t : State} {u : UnitId} {i : Instr} {a : Answer}

/-! What an atomic gives (spec/10 R231 to R233), at the width of its type. -/

theorem natLe_mod (n v : Nat) : natLe n (v % 256 ^ n) = natLe n v := by
  induction n generalizing v with
  | zero => rfl
  | succ n ih =>
    have hlow : BitVec.ofNat 8 (v % 256 ^ (n + 1)) = BitVec.ofNat 8 v := by
      apply BitVec.eq_of_toNat_eq
      rw [BitVec.toNat_ofNat, BitVec.toNat_ofNat, pow_succ', Nat.mod_mul_right_mod]
    have hhigh : v % 256 ^ (n + 1) / 256 = v / 256 % 256 ^ n := by rw [pow_succ', Nat.mod_mul_right_div_self]
    rw [natLe, natLe, hlow, hhigh, ih]
theorem leNat_lt (bs : List Byte) : leNat bs < 256 ^ bs.length := by
  induction bs with
  | nil => exact Nat.one_pos
  | cons b r ih =>
    have hb := b.isLt
    rw [leNat, List.length_cons, pow_succ']
    omega
/-- The low bytes of a value are those of its value at their width. -/
theorem natLe_ofNat {n w : Nat} (hw : w = 8 * n) (v : Nat) : natLe n (BitVec.ofNat w v).toNat = natLe n v := by
  rw [BitVec.toNat_ofNat, hw, Nat.pow_mul]
  exact natLe_mod n v
theorem toNat_ofNat_leNat {w : Nat} {bs : List Byte} (hw : w = 8 * bs.length) : (BitVec.ofNat w (leNat bs)).toNat = leNat bs := by
  rw [BitVec.toNat_ofNat, Nat.mod_eq_of_lt]
  rw [hw, Nat.pow_mul]
  exact leNat_lt bs
theorem typeW_bytes (m : BitVec 3) : typeW m = 8 * (typeW m / 8) := by
  rcases typeW_cases m with h | h <;> rw [h]

theorem width64_iff : ∀ m : BitVec 3, (m.toNat = 2 ∨ m.toNat = 3 ∨ m.toNat = 7) ↔ (m = 2 ∨ m = 3 ∨ m = 7) := by decide

/-- The operation on numbers is the operation at the type's width. -/
theorem ofNat_atomicOp (fmt : Word) (m : BitVec 3) (aop : Nat) {w : Nat} (hw : typeW m = w) (x y : BitVec w) :
    BitVec.ofNat w (atomicOp fmt m.toNat aop x.toNat y.toNat) = rmwBits fmt m.toNat aop w x y := by
  have hpos : 1 ≤ w := hw ▸ typeW_pos m
  have hwidth : (if m.toNat = 2 ∨ m.toNat = 3 ∨ m.toNat = 7 then 64 else 32) = w := by
    rw [← hw, typeW_eq]
    exact if_congr (width64_iff m) rfl rfl
  have hbefore (p q : BitVec w) : intLt m.toNat w p.toNat q.toNat = if m.toNat % 2 = 0 then p.slt q else p.ult q := by
    rw [intLt_toNat p q hpos]
    cases hm : m.getLsbD 0
    · rw [if_pos ((even_type_iff m).mpr hm)]
      rfl
    · rw [if_neg (mt (even_type_iff m).mp (by simp [hm]))]
      rfl
  match aop with
  | 0 =>
    change BitVec.ofNat w ((x.toNat + y.toNat) % 2 ^ (if m.toNat = 2 ∨ m.toNat = 3 ∨ m.toNat = 7 then 64 else 32)) = x + y
    apply BitVec.eq_of_toNat_eq
    rw [hwidth, BitVec.toNat_ofNat, BitVec.toNat_add, Nat.mod_mod]
  | 1 => exact ofNat_and_toNat x y
  | 2 => exact ofNat_or_toNat x y
  | 3 => exact ofNat_xor_toNat x y
  | 4 => exact ofNat_pick x y (by rw [hwidth, hbefore])
  | 5 => exact ofNat_pick x y (by rw [hwidth, hbefore])
  | 6 => exact ofNat_toNat_self y
  | _ + 7 => rfl

end Sys2Proof.Machine

namespace Sys2Proof.Machine

variable {s t : State} {u : UnitId} {i : Instr} {a : Answer}

/-! Atomic accesses (spec/03 R85, R93). -/

/-- The bytes of a stretch, all given. -/
theorem Mem.read_of_get {m : Mem} {pa n : Nat} {bs : List Byte} (hlen : bs.length = n) (h : ∀ k < n, m.get (pa + k) = bs.getD k 0) :
    m.read pa n = bs := by
  apply List.ext_getElem
  · rw [Mem.read_length, hlen]
  · intro k h1 h2
    have hk : k < n := by simpa using h1
    simp only [Mem.read, List.getElem_map, List.getElem_range]
    rw [h k hk, List.getD_eq_getElem _ _ h2]

section
variable (s : State) (u : UnitId) (w : Who) {r : Ready} (n : Nat) (f : List Byte → Option (List Byte))

/-- What an atomic writes matters for the `n` bytes that it can find alone. -/
theorem State.rmwAt_congr {f g : List Byte → Option (List Byte)} (r : Ready) (h : ∀ old, old.length = n → f old = g old) :
    s.rmwAt u w r n f = s.rmwAt u w r n g := by
  have hread (m : Mem) (a : Nat) : f (m.read a n) = g (m.read a n) := h _ (Mem.read_length m a n)
  cases hx : r.xl with
  | none =>
    simp only [State.rmwAt, hx, State.spRead, hread]
  | some x =>
    simp only [State.rmwAt, hx, State.atomicAt, hread]

/-- An atomic in scratchpad: it finds the bytes there, and writes what its operation gives of them. -/
theorem State.rmwAt_found (hx : r.xl = none) : (s.rmwAt u w r n f).1 = (s.core u.place).sp.read (s.placeOf u r) n := by
  rw [← State.spPlace_eq hx]
  simp only [State.rmwAt, hx]
  rfl
theorem State.sp_rmwAt (hx : r.xl = none) (c b : Nat) : ((s.rmwAt u w r n f).2.core c).sp.get b =
    match f ((s.core u.place).sp.read (s.placeOf u r) n) with
    | none => (s.core c).sp.get b
    | some bs => if c = u.place ∧ s.placeOf u r ≤ b ∧ b < s.placeOf u r + bs.length then bs.getD (b - s.placeOf u r) 0
        else (s.core c).sp.get b := by
  have ht := State.memoryOnly_touch s w true (s.spPlace u r) n
  have hbase : ((s.touch w true (s.spPlace u r) n).team u.place (s.teamSlot u)).spBase + r.addr.toNat = s.placeOf u r := by
    rw [ht.team, ← State.spPlace_eq hx]
    rfl
  have hslot : (s.touch w true (s.spPlace u r) n).teamSlot u = s.teamSlot u := ht.teamSlot u
  have hfound : s.spRead u.place (s.teamSlot u) r.addr.toNat n = (s.core u.place).sp.read (s.placeOf u r) n := by
    rw [← State.spPlace_eq hx]
    rfl
  have hsp := State.spKept_touch s w true (s.spPlace u r) n c
  simp only [State.rmwAt, hx, hfound]
  cases f ((s.core u.place).sp.read (s.placeOf u r) n) with
  | none => exact congrArg (Mem.get · b) hsp
  | some bs => exact (State.sp_spWrite _ bs _ _ _ c b).trans (by rw [hslot, hbase, hsp])

/-- What an atomic's bytes of scratchpad hold after it. -/
theorem State.read_rmwAt_scratchpad (hlen : ∀ old bs, f old = some bs → bs.length = n) (hx : r.xl = none) :
    ((s.rmwAt u w r n f).2.core u.place).sp.read (s.placeOf u r) n = (f (s.rmwAt u w r n f).1).getD (s.rmwAt u w r n f).1 := by
  have hget (b : Nat) := State.sp_rmwAt s u w n f hx u.place b
  rw [State.rmwAt_found s u w n f hx]
  cases hf : f ((s.core u.place).sp.read (s.placeOf u r) n) with
  | none =>
    simp only [hf] at hget
    exact Mem.read_congr fun k _ => hget _
  | some bs =>
    simp only [hf] at hget
    have hbs := hlen _ bs hf
    refine Mem.read_of_get hbs fun k hk => ?_
    rw [hget, if_pos ⟨trivial, by omega, by omega⟩, Nat.add_sub_cancel_left]
    rfl

variable {x : Xlat} (hx : r.xl = some x)
include hx

theorem State.rmwAt_global : s.rmwAt u w r n f = (s.atomicSees u.node x n,
    ((s.useLeaf u.node (s.ctxOf u) r.addr x .atomic).touch w false x.pa n).atomicAt u.node x n 2 f) := by
  simp only [State.rmwAt, hx]
theorem State.spKept_rmwAt_global : s.SpKept (s.rmwAt u w r n f).2 := by
  rw [State.rmwAt_global s u w n f hx]
  exact ((State.spKept_useLeaf s _ _ _ _ _).trans (State.spKept_touch _ _ _ _ _)).trans (State.spKept_atomicAt _ _ _ _ _ _)

end

/-! An atomic of a node of which no write pends: it finds what is at home. -/

theorem State.drainOver_none {n : Nat} (h : (s.caches n).wbuf = []) (pa len : Nat) : s.drainOver n pa len = s := by
  simp [State.drainOver, State.drainIds, h]
theorem State.seeHome_none {n : Nat} (h : (s.caches n).wbuf = []) (pa len : Nat) : s.seeHome n pa len = s.mem.read pa len := by
  rw [State.seeHome, h]
  rfl
theorem State.wbufKept_patch (s : State) (n pa : Nat) (bs : List Byte) : s.WbufKept (s.onCaches n fun m => m.patch pa bs) :=
  State.wbufKept_onCaches s n _ rfl

section
variable {n : Nat} (h : (s.caches n).wbuf = []) (x : Xlat) (len req : Nat) (f : List Byte → Option (List Byte))
include h

theorem State.wbuf_atomicAt : ((s.atomicAt n x len req f).caches n).wbuf = [] := by
  unfold State.atomicAt
  rw [State.drainOver_none h]
  dsimp only
  split
  · rw [(State.homeOnly_fillL2 s _ _ _).wbufKept, h]
  · rw [State.wbufKept_patch, (State.homeOnly_writeHome s _ _ _).wbufKept, h]
theorem State.get_atomicAt (b : Nat) : (s.atomicAt n x len req f).mem.get b = match f (s.mem.read x.pa len) with
    | none => s.mem.get b
    | some bs => if x.pa ≤ b ∧ b < x.pa + bs.length then bs.getD (b - x.pa) 0 else s.mem.get b := by
  unfold State.atomicAt
  rw [State.drainOver_none h]
  dsimp only
  cases f (s.mem.read x.pa len) with
  | none => exact congrArg (Mem.get · b) (State.mem_fillL2 s _ _ _)
  | some bs => exact (congrArg (Mem.get · b) (State.mem_onCaches _ _ _)).trans (State.get_writeHome s _ _ _ _)

end

theorem State.home64_congr {pa : Nat} (h : ∀ k < 8, t.mem.get (pa + k) = s.mem.get (pa + k)) : t.home64 pa = s.home64 pa := by
  rw [State.home64, State.home64, Mem.read_congr h]

section
variable {w : Who} {r : Ready} {n : Nat} {f : List Byte → Option (List Byte)} (hlen : ∀ old bs, f old = some bs → bs.length = n)
  {x : Xlat} (hx : r.xl = some x) (hbuf : (s.caches u.node).wbuf = [])
include hx hbuf

theorem State.wbuf_rmwAt : ((s.rmwAt u w r n f).2.caches u.node).wbuf = [] := by
  rw [State.rmwAt_global s u w n f hx]
  refine State.wbuf_atomicAt ?_ x n 2 f
  rw [State.wbufKept_touch, State.wbufKept_useLeaf, hbuf]
theorem State.rmwAt_found_home : (s.rmwAt u w r n f).1 = s.mem.read x.pa n := by
  rw [State.rmwAt_global s u w n f hx]
  exact State.seeHome_none hbuf x.pa n
theorem State.get_rmwAt (b : Nat) : (s.rmwAt u w r n f).2.mem.get b =
    match f ((s.useLeaf u.node (s.ctxOf u) r.addr x .atomic).mem.read x.pa n) with
    | none => (s.useLeaf u.node (s.ctxOf u) r.addr x .atomic).mem.get b
    | some bs => if x.pa ≤ b ∧ b < x.pa + bs.length then bs.getD (b - x.pa) 0
        else (s.useLeaf u.node (s.ctxOf u) r.addr x .atomic).mem.get b := by
  rw [State.rmwAt_global s u w n f hx]
  refine (State.get_atomicAt (n := u.node) ?_ x n 2 f b).trans ?_
  · rw [State.wbufKept_touch, State.wbufKept_useLeaf, hbuf]
  · rw [State.mem_touch]

include hlen

/-- No byte changes but those of the access and of its leaf. -/
theorem State.get_rmwAt_other {b : Nat} (hleaf : ¬ r.inLeaf b) (hout : b < x.pa ∨ x.pa + n ≤ b) :
    (s.rmwAt u w r n f).2.mem.get b = s.mem.get b := by
  have hin : ¬ (x.pte ≤ b ∧ b < x.pte + 8) := fun hin => hleaf ⟨x, hx, hin⟩
  have hkept : (s.useLeaf u.node (s.ctxOf u) r.addr x .atomic).mem.get b = s.mem.get b := State.get_useLeaf s _ _ _ _ _ (by omega)
  rw [State.get_rmwAt hx hbuf]
  split
  · exact hkept
  · rename_i bs hbs
    rw [hlen _ bs hbs, if_neg (by omega), hkept]

variable (hapart : x.pte + 8 ≤ x.pa ∨ x.pa + n ≤ x.pte)
include hapart

omit hlen hx hbuf in
theorem State.read_useLeaf_apart : (s.useLeaf u.node (s.ctxOf u) r.addr x .atomic).mem.read x.pa n = s.mem.read x.pa n :=
  Mem.read_congr fun k hk => State.get_useLeaf s _ _ _ _ _ (by omega)
/-- What the atomic's bytes hold after it. -/
theorem State.read_rmwAt : (s.rmwAt u w r n f).2.mem.read x.pa n = (f (s.mem.read x.pa n)).getD (s.mem.read x.pa n) := by
  have hread := State.read_useLeaf_apart (s := s) (u := u) (r := r) hapart
  have hget := State.get_rmwAt (w := w) (n := n) (f := f) hx hbuf
  rw [hread] at hget
  cases hf : f (s.mem.read x.pa n) with
  | none =>
    simp only [hf] at hget
    exact (Mem.read_congr fun k _ => hget (x.pa + k)).trans hread
  | some bs =>
    simp only [hf] at hget
    refine Mem.read_of_get (hlen _ bs hf) fun k hk => ?_
    have := hlen _ bs hf
    rw [hget, if_pos (by omega), Nat.add_sub_cancel_left]
    rfl
theorem State.leafSet_rmwAt : (s.rmwAt u w r n f).2.LeafSet x 0xC00 := by
  have hset := State.leafSet_useLeaf s u.node (s.ctxOf u) r.addr x .atomic
  have hhome : (s.rmwAt u w r n f).2.home64 x.pte = (s.useLeaf u.node (s.ctxOf u) r.addr x .atomic).home64 x.pte := by
    refine State.home64_congr fun k hk => ?_
    rw [State.get_rmwAt hx hbuf]
    split
    · rfl
    · rename_i bs hbs
      rw [hlen _ bs hbs, if_neg (by omega)]
  intro j hj
  rw [hhome]
  exact hset j hj

end

/-! Lane atomics, one lane after the other (spec/03 R90). -/

/-- A lane's atomic, which writes what `new l` gives of the bytes found. -/
def laneRmw (u : UnitId) (n : Nat) (new : Nat → List Byte → Option (List Byte)) (q : State) (l : Nat) (z : Ready) : List Byte × State :=
  q.rmwAt u (q.laneWho u l) z n (new l)

section
variable {n : Nat} {new : Nat → List Byte → Option (List Byte)} {r : Nat → Ready} {ls : List Nat}

theorem State.memoryOnly_laneRmw (q : State) (l : Nat) (z : Ready) : q.MemoryOnly (laneRmw u n new q l z).2 :=
  State.memoryOnly_rmwAt _ _ _ _ _ _
theorem State.memoryOnly_laneRmws (s : State) : s.MemoryOnly (s.afterLanes (laneRmw u n new) r ls) :=
  State.memoryOnly_afterLanes _ r s ls fun q l => State.memoryOnly_laneRmw q l (r l)

variable (hlen : ∀ l old bs, new l old = some bs → bs.length = n)
include hlen

/-- A byte of scratchpad that no lane's access reaches is as before. -/
theorem State.sp_laneRmws_other (s : State) {c b : Nat} (h : ∀ l ∈ ls, (r l).xl = none → c = u.place → ¬ s.Touches u (r l) n b) :
    ((s.afterLanes (laneRmw u n new) r ls).core c).sp.get b = (s.core c).sp.get b := by
  refine (State.afterLanes_keeps (fun q => s.MemoryOnly q ∧ (q.core c).sp.get b = (s.core c).sp.get b) ⟨.refl s, rfl⟩
    fun q l hl ⟨hm, hq⟩ => ⟨hm.trans (State.memoryOnly_laneRmw q l _), ?_⟩).2
  cases hx : (r l).xl with
  | none =>
    refine (State.sp_rmwAt q u _ n (new l) hx c b).trans (Eq.trans ?_ hq)
    split
    · rfl
    · rename_i bs hbs
      refine if_neg ?_
      rintro ⟨hc, hin⟩
      rw [hlen l _ bs hbs] at hin
      exact h l hl hx hc ((hm.touches (r l) n b).mp hin)
  | some x => exact (congrArg (Mem.get · b) (State.spKept_rmwAt_global q u _ n (new l) hx c)).trans hq

/-- A byte at home that is no lane's, and of no leaf used, is as before, where no write of the node pends. -/
theorem State.get_laneRmws (s : State) (hbuf : (s.caches u.node).wbuf = []) (hglobal : ∀ l ∈ ls, (r l).xl ≠ none) {a : Nat}
    (h : ∀ l ∈ ls, ¬ (r l).inLeaf a ∧ ∀ z, (r l).xl = some z → a < z.pa ∨ z.pa + n ≤ a) :
    (s.afterLanes (laneRmw u n new) r ls).mem.get a = s.mem.get a := by
  refine (State.afterLanes_keeps (fun q => (q.caches u.node).wbuf = [] ∧ q.mem.get a = s.mem.get a) ⟨hbuf, rfl⟩
    fun q l hl ⟨hb, hq⟩ => ?_).2
  obtain ⟨x, hx⟩ := Option.ne_none_iff_exists'.mp (hglobal l hl)
  exact ⟨State.wbuf_rmwAt hx hb, (State.get_rmwAt_other (hlen l) hx hb (h l hl).1 ((h l hl).2 x hx)).trans hq⟩

end

end Sys2Proof.Machine

namespace Sys2Proof.Machine

variable {s t : State} {u : UnitId} {i : Instr} {a : Answer}

/-! The forms of lane atomics (spec/10 R231 to R233). -/

theorem State.vwide_lt (s : State) (u : UnitId) (l r : Nat) {w : Nat} (hw : w = 32 ∨ w = 64) : (s.vwide u l r w).toNat < 2 ^ w := by
  rcases hw with rfl | rfl
  · rw [State.vwide, if_neg (by decide), BitVec.toNat_setWidth_of_le (by decide)]
    exact BitVec.isLt _
  · exact BitVec.isLt _
theorem State.MemoryOnly.fmtOf (h : s.MemoryOnly t) (u : UnitId) : t.fmtOf u = (s.thread u).fmt := by
  rw [State.fmtOf, h.thread]

/-- The bytes that ATOM writes are those of its operation at the width of its type. -/
theorem natLe_atomicOp (fmt : Word) (m : BitVec 3) (aop : Nat) {old : List Byte} (hold : old.length = typeW m / 8) {v : Nat}
    (hv : v < 2 ^ typeW m) :
    natLe (typeW m / 8) (atomicOp fmt m.toNat aop (leNat old) v) =
      natLe (typeW m / 8) (rmwBits fmt m.toNat aop (typeW m) (BitVec.ofNat (typeW m) (leNat old)) (BitVec.ofNat (typeW m) v)).toNat := by
  have hx : (BitVec.ofNat (typeW m) (leNat old)).toNat = leNat old := toNat_ofNat_leNat (by rw [hold]; exact typeW_bytes m)
  have hy : (BitVec.ofNat (typeW m) v).toNat = v := by rw [BitVec.toNat_ofNat, Nat.mod_eq_of_lt hv]
  rw [← ofNat_atomicOp fmt m aop rfl, hx, hy, natLe_ofNat (typeW_bytes m)]

/-- A lane atomic that comes to its accesses: each lane's, of `n` bytes, writes what `new` gives. -/
structure State.AtomForm (s : State) (u : UnitId) (i : Instr) (x : AtomX) (d : Nat) (sp : Bool) (n : Nat)
    (new : Nat → List Byte → Option (List Byte)) (ea : Nat → Dword) (t : State) : Prop where
  lform : i.units = .lform
  length : ∀ l old bs, new l old = some bs → bs.length = n
  runs : ∃ act : State → Nat → Ready → List Byte × State, (∀ q l z, s.MemoryOnly q → act q l z = laneRmw u n new q l z) ∧
    t = s.laneMem u i sp .atomic n 0 ea act (fun q => q.before u x.ord.toNat x.scope.toNat) fun q vals =>
      if x.nr then (q.after u x.ord.toNat x.scope.toNat).doneL u i
      else (q.after u x.ord.toNat x.scope.toNat).doneV u i d false (8 * n) { cells := vals.map fun v => (v.1, BitVec.ofNat 64 (leNat v.2)) }

/-- What a lane's ATOM or ATOMS writes of the bytes that it finds. -/
def State.atomNew (s : State) (u : UnitId) (f : LA) (x : AtomX) (l : Nat) (old : List Byte) : Option (List Byte) :=
  some (natLe (typeW f.m / 8) (rmwBits (s.thread u).fmt f.m.toNat x.aop.toNat (typeW f.m) (BitVec.ofNat (typeW f.m) (leNat old))
    (BitVec.ofNat (typeW f.m) (s.vwide u l f.d.toNat (typeW f.m)).toNat)).toNat)
/-- What a lane's ACAS or ACASS writes. -/
def State.casNew (s : State) (u : UnitId) (f : LA) (l : Nat) (old : List Byte) : Option (List Byte) :=
  if leNat old = (s.vwide u l f.d.toNat (typeW f.m)).toNat then
    some (natLe (typeW f.m / 8) (s.vwide u l (f.d.toNat + typeW f.m / 32) (typeW f.m)).toNat) else none
/-- What a lane's AADDX writes. -/
def State.addNew (s : State) (u : UnitId) (f : LA) (l : Nat) (old : List Byte) : Option (List Byte) :=
  some (natLe 8 (BitVec.ofNat 64 (leNat old) + s.vwide u l f.d.toNat 64).toNat)

section
variable {f : LA} {x : AtomX} {q : State} (hq : s.MemoryOnly q) (l : Nat) (z : Ready)

theorem State.casNew_length {l : Nat} {old bs : List Byte} (h : s.casNew u f l old = some bs) : bs.length = typeW f.m / 8 := by
  unfold State.casNew at h
  split at h
  · exact Option.some.inj h ▸ natLe_length _ _
  · cases h

include hq

theorem State.rmwAt_atom : q.rmwAt u (q.laneWho u l) z (typeW f.m / 8) (fun old =>
    some (natLe (typeW f.m / 8) (atomicOp (q.fmtOf u) f.m.toNat x.aop.toNat (leNat old) (q.vwide u l f.d.toNat (typeW f.m)).toNat))) =
    laneRmw u (typeW f.m / 8) (s.atomNew u f x) q l z :=
  State.rmwAt_congr q u _ _ z fun old hold => by
    rw [hq.fmtOf, hq.vwide]
    exact congrArg some (natLe_atomicOp _ f.m _ hold (s.vwide_lt u l _ (typeW_cases f.m)))
theorem State.rmwAt_cas : q.rmwAt u (q.laneWho u l) z (typeW f.m / 8) (fun old =>
    casBytes (typeW f.m / 8) (q.vwide u l f.d.toNat (typeW f.m)).toNat (q.vwide u l (f.d.toNat + typeW f.m / 32) (typeW f.m)).toNat old) =
    laneRmw u (typeW f.m / 8) (s.casNew u f) q l z := by
  rw [hq.vwide, hq.vwide]
  rfl
theorem State.rmwAt_add : q.rmwAt u (q.laneWho u l) z 8 (fun old =>
    some (natLe 8 (atomicOp 0 7 0 (leNat old) (q.vwide u l f.d.toNat 64).toNat))) = laneRmw u 8 (s.addNew u f) q l z :=
  State.rmwAt_congr q u _ _ z fun old hold => by
    have hx : (BitVec.ofNat 64 (leNat old)).toNat = leNat old := toNat_ofNat_leNat (by rw [hold])
    rw [hq.vwide, State.addNew, BitVec.toNat_add, hx]
    rfl

end

/-- ATOM, ATOMS, ACAS, ACASS and AADDX: what each comes to. -/
theorem State.atomForm_of_mem {f : LA} {x : AtomX} {sp : Bool} {n : Nat} {new : Nat → List Byte → Option (List Byte)}
    (hi : (i, sp, n, new) ∈ ([(.atom f x, false, typeW f.m / 8, s.atomNew u f x), (.atoms f x, true, typeW f.m / 8, s.atomNew u f x),
      (.acas f x, false, typeW f.m / 8, s.casNew u f), (.acass f x, true, typeW f.m / 8, s.casNew u f),
      (.aaddx f x, false, 8, s.addNew u f)] : List (Instr × Bool × Nat × (Nat → List Byte → Option (List Byte)))))
    (hreach : s.Reaches u i sp a) :
    ∃ t, a = .next t ∧ s.AtomForm u i x f.d.toNat sp n new (s.laneAddr u f.a.toNat f.b.toNat x.ix.toNat x.scl.toNat x.off) t := by
  have hlen (l : Nat) (old bs : List Byte) (h : s.atomNew u f x l old = some bs) : bs.length = typeW f.m / 8 :=
    Option.some.inj h ▸ natLe_length _ _
  rcases List.mem_cons.mp hi with h | h
  · cases h
    exact ⟨_, hreach.performs (exec_atom s f x) nofun, rfl, hlen, _, fun q l z hq => State.rmwAt_atom hq l z, rfl⟩
  rcases List.mem_cons.mp h with h | h
  · cases h
    exact ⟨_, hreach.performs (exec_atoms s f x) fun _ => rfl, rfl, hlen, _, fun q l z hq => State.rmwAt_atom hq l z, rfl⟩
  rcases List.mem_cons.mp h with h | h
  · cases h
    exact ⟨_, hreach.performs (exec_acas s f x) nofun, rfl, fun _ _ _ => State.casNew_length, _, fun q l z hq => State.rmwAt_cas hq l z, rfl⟩
  rcases List.mem_cons.mp h with h | h
  · cases h
    exact ⟨_, hreach.performs (exec_acass s f x) fun _ => rfl, rfl, fun _ _ _ => State.casNew_length, _, fun q l z hq => State.rmwAt_cas hq l z, rfl⟩
  · cases List.mem_singleton.mp h
    exact ⟨_, hreach.performs (exec_aaddx s f x) nofun, rfl, fun l old bs h => Option.some.inj h ▸ natLe_length _ _, _,
      fun q l z hq => State.rmwAt_add hq l z, rfl⟩

/-- Settles O14: no lane waits or faults, so the lanes' atomics perform one after the other. -/
theorem laneAtomics : Obligations.LaneAtomics := by
  unfold Obligations.LaneAtomics
  intro s u f x i sp n new ans w v rmw cas hi hreach ls ea q act
  obtain ⟨t, hans, hform, hlen, act', hact, ht⟩ := State.atomForm_of_mem hi hreach
  refine ⟨fun hwait => ⟨t, hans, ht ▸ State.laneMem_waits hwait _ _ _ _ _⟩, fun r hready => ?_⟩
  intro p
  let fin (q : State) (vals : List (Nat × List Byte)) : State := if x.nr then (q.after u x.ord.toNat x.scope.toNat).doneL u i
    else (q.after u x.ord.toNat x.scope.toNat).doneV u i f.d.toNat false (8 * n) { cells := vals.map fun v => (v.1, BitVec.ofNat 64 (leNat v.2)) }
  obtain ⟨old, hrun, hold⟩ := State.laneMem_ready s u i sp .atomic n 0 ea act' (fun q => q.before u x.ord.toNat x.scope.toNat) fin r
    (fun l hl => (hready l hl).1) (fun l hl => (hready l hl).2)
  have hq : s.MemoryOnly q := State.memoryOnly_before s u _ _
  have hlanes (A : List Nat) : q.afterLanes act' r A = q.afterLanes act r A :=
    State.afterLanes_congr hact (fun y l z => State.memoryOnly_laneRmw y l z) hq A
  have hp : s.MemoryOnly p := hq.trans (State.memoryOnly_laneRmws q)
  have hafter := hp.trans (State.memoryOnly_after p u x.ord.toNat x.scope.toNat)
  have hvalue (A : List Nat) (l : Nat) (B : List Nat) (hls : ls = A ++ l :: B) : old l = (act (q.afterLanes act r A) l (r l)).1 := by
    rw [hold A l B hls, hact _ _ _ (by rw [hlanes]; exact hq.trans (State.memoryOnly_laneRmws q)), ← hlanes]
    rfl
  have hkept : s.SpKept q := State.spKept_before s u _ _
  refine ⟨t, old, hans, hp, ?done, hvalue, fun c b h => ?scratchpad, fun hsp l hl => ?lone, fun hsp hbuf hplace => ⟨fun b h => ?home, fun l z hl hz hapart => ?loneHome⟩⟩
  case done =>
    have hlanesDone := hafter.laneDone (State.isPath_of_preCheck hreach.passed hform) i f.d.toNat false (8 * n) old
      (g := fun bs => BitVec.ofNat 64 (leNat bs)) (g' := fun bs => BitVec.ofNat 64 (leNat bs)) fun _ => rfl
    rw [ht, hrun, hlanes]; unfold fin
    cases x.nr with
    | true => exact State.plainDoneL _ u i
    | false => exact hlanesDone
  case scratchpad =>
    refine (State.sp_laneRmws_other hlen q fun l hl hx hc hin => ?_).trans (congrArg (Mem.get · b) (hkept c))
    have hsp : sp = true := by
      by_contra hsp
      obtain ⟨y, hy, -⟩ := hready.global (Bool.eq_false_of_not_eq_true hsp) hl
      rw [hy] at hx
      cases hx
    have := (hq.touches (r l) n b).mp hin
    rw [State.Touches] at this
    have := h hsp hc l hl
    omega
  case lone =>
    have hmem : l ∈ ls := by rw [hl]; simp
    have hr : r l = { addr := ea l, xl := none } := hready.scratchpad hsp hmem
    have hx : (r l).xl = none := by rw [hr]
    have hfound : old l = (act q l (r l)).1 := hvalue [] l [] hl
    have hone : p = (act q l (r l)).2 := by
      unfold p
      rw [hl]
      rfl
    have hplace : q.placeOf u (r l) = (s.team u.place (s.teamSlot u)).spBase + (ea l).toNat := by
      rw [hq.placeOf, hr]
      rfl
    have hread := State.read_rmwAt_scratchpad q u (q.laneWho u l) n (new l) (hlen l) hx
    constructor
    · rw [hfound]
      refine (State.rmwAt_found q u _ n (new l) hx).trans ?_
      rw [hplace, hkept]
      rfl
    · rw [hplace] at hread
      rw [State.spRead, hp.team, hone, hfound]
      exact hread
  case home =>
    refine State.get_laneRmws hlen q hbuf (fun l hl hx => ?_) h
    obtain ⟨y, hy, -⟩ := hready.global hsp hl
    rw [hy] at hx
    cases hx
  case loneHome =>
    have hfound : old l = (act q l (r l)).1 := hvalue [] l [] hl
    have hone : p = (act q l (r l)).2 := by
      unfold p
      rw [hl]
      rfl
    have hhome : old l = q.mem.read z.pa n := hfound.trans (State.rmwAt_found_home hz hbuf)
    refine ⟨hhome, ?_, ?_⟩
    · rw [hone, hhome]
      exact State.read_rmwAt (hlen l) hz hbuf hapart
    · rw [hone]
      exact (State.leafSet_rmwAt (hlen l) hz hbuf hapart).masked

end Sys2Proof.Machine

namespace Sys2Proof.Machine

variable {s t : State} {u : UnitId}

/-! DISCARD of one sector (spec/10 R235, spec/02 R71, R72). -/

@[simp] theorem State.hbm_onCaches (s : State) (n : Nat) (f : Caches → Caches) : (s.onCaches n f).hbm = s.hbm := by
  unfold State.onCaches
  split
  · rfl
  · split <;> rfl
@[simp] theorem State.l2_onCaches (s : State) (n : Nat) (f : Caches → Caches) : (s.onCaches n f).l2 = s.l2 := by
  unfold State.onCaches
  split
  · rfl
  · split <;> rfl
theorem State.hbm_touch (s : State) (w : Who) (sp : Bool) (place n : Nat) : (s.touch w sp place n).hbm = s.hbm := by
  unfold State.touch
  dsimp only
  split
  · rfl
  · exact State.hbm_onCaches s _ _
theorem State.l2_touch (s : State) (w : Who) (sp : Bool) (place n : Nat) : (s.touch w sp place n).l2 = s.l2 := by
  unfold State.touch
  dsimp only
  split
  · rfl
  · exact State.l2_onCaches s _ _
theorem State.l1_touch (s : State) (w : Who) (sp : Bool) (place n m : Nat) :
    ((s.touch w sp place n).caches m).l1 = (s.caches m).l1 := by
  unfold State.touch
  dsimp only
  split
  · rfl
  · by_cases hn : w.node < 576
    · by_cases hm : m = w.node
      · rw [hm, caches_onCaches s _ hn]
      · rw [State.caches_onCaches_other s hm]
    · rw [State.onCaches_mgmt s hn]
/-- A unit before which no release fence stands is ordered by none. -/
theorem State.fenced_none (h : (s.caches u.node).promises = []) : s.fenced u = s := by
  unfold State.fenced Caches.fences
  rw [h]
  rfl

theorem sectorBit_getLsbD : ∀ k < 4, (sectorBit k).getLsbD k = true := by decide
/-- A valid sector that its slice holds comes to read as HBM holds it. -/
theorem State.mem_discardSector {sec : Nat} {l : L2Line} (h : s.l2.find (sec / 4) = some l) (hv : l.vs.getLsbD (sec % 4) = true) :
    (s.discardSector sec).mem = s.mem.write (sec * 64) (s.hbm.read (sec * 64) 64) := by
  have hne : l.vs &&& sectorBit (sec % 4) ≠ 0 := fun hzero => by
    have := congrArg (BitVec.getLsbD · (sec % 4)) hzero
    simp [hv, sectorBit_getLsbD _ (Nat.mod_lt sec (by decide))] at this
  unfold State.discardSector
  rw [h]
  dsimp only
  rw [if_neg hne]
  split
  · rfl
  · exact State.mem_l2Hold _ _ _
theorem State.discardHome_sector {pa : Nat} (hhbm : inHbm pa = true) (halign : pa % 64 = 0) :
    s.discardHome pa 64 = s.discardSector (pa / 64) := by
  unfold State.discardHome
  rw [hhbm, pieces_of_fits (by decide) (by omega)]
  rfl

/-- The node's caches without the lines that a discard of [pa, pa + n) by it reaches, and without what the unit has read of it early. -/
def State.unheld (s : State) (u : UnitId) (pa n : Nat) : State :=
  (s.onCaches u.node fun m => m.keepLines fun k => !overlaps (k * 64) 64 pa n).touch (s.whoOf u) false pa n

theorem State.mem_unheld (s : State) (u : UnitId) (pa n : Nat) : (s.unheld u pa n).mem = s.mem := by
  rw [State.unheld, State.mem_touch, State.mem_onCaches]
theorem State.hbm_unheld (s : State) (u : UnitId) (pa n : Nat) : (s.unheld u pa n).hbm = s.hbm := by
  rw [State.unheld, State.hbm_touch, State.hbm_onCaches]
theorem State.l2_unheld (s : State) (u : UnitId) (pa n : Nat) : (s.unheld u pa n).l2 = s.l2 := by
  rw [State.unheld, State.l2_touch, State.l2_onCaches]
theorem State.memoryOnly_unheld (s : State) (u : UnitId) (pa n : Nat) : s.MemoryOnly (s.unheld u pa n) :=
  (State.memoryOnly_onCaches s _ _).trans (State.memoryOnly_touch _ _ _ _ _)
theorem State.wbufKept_unheld (s : State) (u : UnitId) (pa n : Nat) : s.WbufKept (s.unheld u pa n) :=
  (State.wbufKept_onCaches s _ _ rfl).trans (State.wbufKept_touch _ _ _ _ _)
theorem State.l1_unheld (s : State) {u : UnitId} (hu : u.node < 576) (pa : Nat) :
    ((s.unheld u pa 64).caches u.node).l1.find (pa / 64) = none := by
  have hover : overlaps (pa / 64 * 64) 64 pa 64 = true := by
    simp only [overlaps, Bool.and_eq_true, decide_eq_true_eq]
    omega
  rw [State.unheld, State.l1_touch, caches_onCaches s _ hu, Caches.keepLines, Tab.find_keep, hover]
  rfl

/-- A discard of one sector of module HBM5 with no write of the node pending, and no release fence before it. -/
theorem State.discardPiece_sector {y : Xlat} (hmir : y.mir = false) (hhbm : inHbm y.pa = true) (halign : y.pa % 64 = 0)
    (hbuf : (s.caches u.node).wbuf = []) (hprom : (s.caches u.node).promises = []) :
    s.discardPiece u y 64 = (s.unheld u y.pa 64).discardSector (y.pa / 64) := by
  have hwho := (State.memoryOnly_onCaches s u.node fun m => m.keepLines fun k => !overlaps (k * 64) 64 y.pa 64).whoOf u
  have hnone : ((s.unheld u y.pa 64).caches u.node).wbuf = [] := (State.wbufKept_unheld s u y.pa 64 _).trans hbuf
  unfold State.discardPiece
  rw [hmir, hhbm]
  simp only [Bool.not_true, Bool.or_self, Bool.false_eq_true, if_false]
  rw [State.fenced_none hprom, hwho]
  exact (congrArg (State.discardHome · y.pa 64) (State.drainOver_none hnone y.pa 64)).trans (State.discardHome_sector hhbm halign)

/-! The checks of DISCARD, lane by lane. -/

/-- The checks of DISCARD for lane `l`. -/
def State.discardChecks (s : State) (u : UnitId) (f : LA) (x : MemX) (l : Nat) : List (Except Flt (Xlat × Nat)) :=
  s.discardCheck u x.sp (s.laneAddr u f.a.toNat 0 0 0 x.off l) (s.srcL u f.b.toNat l 32).toNat
/-- What a DISCARD that passed the checks `c` does. -/
def State.discardAll (s : State) (u : UnitId) (c : List (Except Flt (Xlat × Nat))) : State :=
  c.foldl (fun s p => match p with
    | .ok p => s.discardPiece u p.1 p.2
    | .error _ => s) s

/-- Where no lane's check faults, the lanes discard one after the other. -/
theorem exec_discard_of_clean {f : LA} {x : MemX} (h : s.Issues u (.discard f x))
    (hclean : ∀ l ∈ (s.maskOf u).lanes, errorsOf (s.discardChecks u f x l) = []) :
    exec (.discard f x) s =
      .next (((s.maskOf u).lanes.foldl (fun q l => q.discardAll u (s.discardChecks u f x l)) s).doneL u (.discard f x)) := by
  have hlane (l : Nat) (hl : l ∈ (s.maskOf u).lanes) :
      ((s.maskOf u).getLsbD l && (errorsOf (s.discardChecks u f x l)).isEmpty) = true := by
    rw [hclean l hl, ((Dword.mem_lanes _ l).mp hl).2]
    rfl
  have hnone : (((s.maskOf u).lanes.map fun l => (l, s.discardChecks u f x l)).flatMap fun c =>
      (reported (errorsOf c.2)).map fun f => (c.1, f)) = [] := by
    rw [List.flatMap_map, List.flatMap_eq_nil_iff]
    intro l hl
    rw [hclean l hl]
    rfl
  have hall : (((s.maskOf u).lanes.map fun l => (l, s.discardChecks u f x l)).filter fun c =>
      (s.maskOf u).getLsbD c.1 && (errorsOf c.2).isEmpty) = (s.maskOf u).lanes.map fun l => (l, s.discardChecks u f x l) := by
    rw [List.filter_eq_self]
    intro c hc
    obtain ⟨l, hl, rfl⟩ := List.mem_map.mp hc
    exact hlane l hl
  rw [exec_discard, execDiscard, h.next]
  change (.next (s.withFaults u (((s.maskOf u).lanes.map fun l => (l, s.discardChecks u f x l)).flatMap fun c =>
    (reported (errorsOf c.2)).map fun f => (c.1, f)) fun q => State.doneL
      ((((s.maskOf u).lanes.map fun l => (l, s.discardChecks u f x l)).filter fun c =>
        (q.maskOf u).getLsbD c.1 && (errorsOf c.2).isEmpty).foldl (fun q c => q.discardAll u c.2) q) u (.discard f x)) : Answer) = _
  rw [hnone, State.withFaults, List.isEmpty_nil, if_pos rfl, hall, List.foldl_map]
/-- A discard of a range of one sector makes one translation. -/
theorem State.discardXlat_sector {ea : Dword} {y : Xlat} (halign : ea.toNat % 64 = 0)
    (hx : s.translate u.node (s.ctxOf u) ea .discard = .ok y) : s.discardXlat u ea 64 = [.ok (y, 64)] := by
  unfold State.discardXlat
  rw [pieces_of_fits (by decide) (by omega)]
  simp only [List.map_cons, List.map_nil, BitVec.ofNat_toNat, BitVec.setWidth_eq, hx]
  rfl

/-- Settles O16: no lane faults, and a piece of one sector drops what its slice holds of it. -/
theorem discards : Obligations.Discards := by
  unfold Obligations.Discards
  intro s u f x hissue hplace ea n
  refine ⟨fun hsp hin => ?_, fun l y k hsp hlanes hn halign _ hx hmir hhbm hpa hbuf hprom hline hvalid => ?_⟩
  · have hnil (l : Nat) (hl : l ∈ (s.maskOf u).lanes) : s.discardChecks u f x l = [] := by
      unfold State.discardChecks State.discardCheck
      rcases hin l hl with hzero | hfits
      · exact if_pos hzero
      · rw [hsp, if_pos rfl, if_pos hfits, ite_self]
    have hkept : (s.maskOf u).lanes.foldl (fun q l => q.discardAll u (s.discardChecks u f x l)) s = s :=
      List.foldlRecOn (s.maskOf u).lanes (fun q l => q.discardAll u (s.discardChecks u f x l)) (motive := (· = s)) rfl fun q hq l hl => by
        rw [hnil l hl, hq]
        rfl
    have hexec := exec_discard_of_clean hissue fun l hl => by rw [hnil l hl]; rfl
    rw [hkept] at hexec
    exact ⟨_, hexec, State.plainDoneL s u _⟩
  · have hnode : u.node < 576 := by
      cases u with
      | path c g i => exact Nat.lt_trans hplace (by decide)
      | seq c k => exact Nat.lt_trans hplace (by decide)
      | lant c p => cases hissue.path rfl
    have hcheck : s.discardChecks u f x l = [.ok (y, 64)] := by
      unfold State.discardChecks State.discardCheck
      rw [show (s.srcL u f.b.toNat l 32).toNat = 64 from hn, hsp]
      exact State.discardXlat_sector halign hx
    have hexec := exec_discard_of_clean hissue fun m hm => by
      rw [hlanes, List.mem_singleton] at hm
      rw [hm, hcheck]
      rfl
    let p := (s.unheld u y.pa 64).discardSector (y.pa / 64)
    have hhome := State.homeOnly_discardSector (s.unheld u y.pa 64) (y.pa / 64)
    have hone : (s.maskOf u).lanes.foldl (fun q l => q.discardAll u (s.discardChecks u f x l)) s = p := by
      rw [hlanes, List.foldl_cons, List.foldl_nil, hcheck]
      exact State.discardPiece_sector hmir hhbm hpa hbuf hprom
    have hmem : p.mem = s.mem.write y.pa (s.hbm.read y.pa 64) := by
      have hfind : (s.unheld u y.pa 64).l2.find (y.pa / 64 / 4) = some k := by
        rw [State.l2_unheld, Nat.div_div_eq_div_mul]
        exact hline
      refine (State.mem_discardSector hfind hvalid).trans ?_
      rw [State.mem_unheld, State.hbm_unheld, Nat.div_mul_cancel (Nat.dvd_of_mod_eq_zero hpa)]
    have hlen : (s.hbm.read y.pa 64).length = 64 := by simp [Mem.read]
    rw [hone] at hexec
    refine ⟨_, p, hexec, (State.memoryOnly_unheld s u y.pa 64).trans hhome.memory, State.plainDoneL p u _, ?_, fun a ha => ?_, ?_⟩
    · have hread := Mem.read_write s.mem y.pa (s.hbm.read y.pa 64)
      rw [hlen] at hread
      rw [hmem, hread]
    · rw [hmem, Mem.get_write, hlen, if_neg (by omega)]
    · rw [hhome.caches]
      exact State.l1_unheld s hnode y.pa

end Sys2Proof.Machine

namespace Sys2Proof.Machine

variable {s t : State} {u : UnitId} {i : Instr}

/-! An instruction that passed the checks of issue keeps the form of its extension word (spec/07 R175 step 4). -/

theorem State.extOk_of_preCheck (hc : s.preCheck u i = none) : i.extOk = true := by
  have hright := State.right_of_preCheck hc
  refine Bool.eq_true_of_not_eq_false fun hbad => ?_
  by_cases hcut : ExtensionCut i (s.thread u).pc
  · exact Option.some_ne_none _ ((State.preCheck_operand hright (State.firstOk_of_preCheck hc) (.inl hcut)).symm.trans hc)
  · exact Option.some_ne_none _ ((State.preCheck_modifier hright (.inr ⟨hcut, hbad⟩)).symm.trans hc)

theorem State.whoOf_path (hu : u.isPath = true) : s.whoOf u = { node := u.node, grp := u.party, lanes := s.maskOf u } := by
  cases u with
  | path c g i => rfl
  | seq c k => cases hu
  | lant l p => cases hu
theorem UnitId.node_lt (hu : u.isPath = true) (hplace : u.place < 512) : u.node < 512 := by
  cases u with
  | path c g i => exact hplace
  | seq c k => cases hu
  | lant l p => cases hu

/-! Pending writes that reach their homes (spec/03 R85). -/

theorem State.mirror_writeSector (s : State) (pa : Nat) (bs : List Byte) (pol : Nat) : (s.writeSector pa bs pol).mirror = s.mirror := by
  have hhold (q : State) (line : Nat) (l : L2Line) : (q.l2Hold line l).mirror = q.mirror := by rw [State.slicesOnly_l2Hold q line l]
  unfold State.writeSector
  dsimp only
  split
  · rfl
  · split
    · split <;> exact hhold _ _ _
    · split
      · rfl
      · exact hhold _ _ _
theorem State.mirror_onCaches (s : State) (n : Nat) (f : Caches → Caches) : (s.onCaches n f).mirror = s.mirror := by
  unfold State.onCaches
  split
  · rfl
  · split <;> rfl
theorem State.mirror_writeHome (s : State) (pa : Nat) (bs : List Byte) (pol : Nat) : (s.writeHome pa bs pol).mirror = s.mirror :=
  List.foldlRecOn (pieces 64 pa bs.length) _ (motive := fun q : State => q.mirror = s.mirror) rfl
    fun q hq _ _ => (State.mirror_writeSector q _ _ _).trans hq
theorem State.settleMirror_none (h : s.mirror.flight = []) : s.settleMirror = s := by
  rw [State.settleMirror, h]
  rfl
/-- Writes to pages that are no mirror pages, performed in order while no mirror write is in flight, leave at home what they overlay. -/
theorem State.get_performWrites (die b : Nat) {l : List PendWrite} (hl : ∀ w ∈ l, w.mir = false) (h : s.mirror.flight = []) :
    [(l.foldl (fun s w => s.performWrite die w) s).mem.get b] = overlay l b [s.mem.get b] ∧
      (l.foldl (fun s w => s.performWrite die w) s).mirror.flight = [] := by
  induction l generalizing s with
  | nil => exact ⟨rfl, h⟩
  | cons w r ih =>
    have hone : s.performWrite die w = s.writeHome w.pa w.bytes w.pol := by
      unfold State.performWrite
      simp only [State.settleMirror_none h, hl w (by simp), ite_self, Bool.false_eq_true, if_false]
    have hflight : (s.performWrite die w).mirror.flight = [] := by rw [hone, State.mirror_writeHome, h]
    have hbyte : [(s.performWrite die w).mem.get b] = overlay [w] b [s.mem.get b] := by
      rw [hone, State.get_writeHome, overlay_step]
      split <;> rfl
    obtain ⟨hmem, hrest⟩ := ih (fun v hv => hl v (List.mem_cons_of_mem _ hv)) hflight
    refine ⟨?_, hrest⟩
    rw [List.foldl_cons, hmem, hbyte, ← overlay_append]
    rfl

/-- Among the writes that must take their home instants are those that are named. -/
theorem needed_of_mem {wbuf : List PendWrite} {ids : List Nat} {k : Nat} (h : k ∈ ids) : k ∈ needed wbuf ids := by
  unfold needed
  refine List.foldlRecOn _ _ (motive := (k ∈ ·)) h fun need hneed j _ => ?_
  split
  · exact hneed
  · split
    · exact List.mem_append_left _ (List.mem_append_left _ hneed)
    · exact hneed
/-- Once the writes `ids` of a node have been drained, none of them pends there, and none has come. -/
theorem State.of_mem_wbuf_drainIds {n : Nat} (hn : n < 576) (ids : List Nat) {w : PendWrite} (h : w ∈ ((s.drainIds n ids).caches n).wbuf) :
    w ∈ (s.caches n).wbuf ∧ w.id ∉ ids := by
  have key (hw : w ∈ (s.caches n).wbuf) (hnot : (needed (s.caches n).wbuf ids).contains w.id = false) :
      w ∈ (s.caches n).wbuf ∧ w.id ∉ ids := by
    refine ⟨hw, fun hid => ?_⟩
    rw [List.contains_iff_mem.mpr (needed_of_mem hid)] at hnot
    cases hnot
  unfold State.drainIds at h
  dsimp only at h
  split at h
  · rename_i hnone
    refine key h (Bool.eq_false_of_not_eq_true fun hgo => ?_)
    rw [List.any_eq_true.mpr ⟨w, h, hgo⟩] at hnone
    cases hnone
  · rw [(homeOnly_foldl _ _ _ fun q w => State.homeOnly_performWrite q _ w).caches, caches_onCaches s n hn] at h
    obtain ⟨hw, hgo⟩ := List.mem_filter.mp h
    exact key hw (by simpa using hgo)
/-- A node drained of all its pending writes holds at home what it saw. -/
theorem State.get_drainIds_all {n : Nat} {ids : List Nat} (hids : ∀ w ∈ (s.caches n).wbuf, w.mir = false ∧ w.id ∈ ids)
    (hflight : s.mirror.flight = []) (b : Nat) :
    [(s.drainIds n ids).mem.get b] = s.seeHome n b 1 ∧ (s.drainIds n ids).mirror.flight = [] := by
  have hgo (w : PendWrite) (hw : w ∈ (s.caches n).wbuf) : (needed (s.caches n).wbuf ids).contains w.id = true :=
    List.contains_iff_mem.mpr (needed_of_mem (hids w hw).2)
  rw [State.seeHome_byte]
  unfold State.drainIds
  dsimp only
  split
  · rename_i hnone
    have hnil : (s.caches n).wbuf = [] := List.eq_nil_iff_forall_not_mem.mpr fun w hw => by
      rw [List.any_eq_true.mpr ⟨w, hw, hgo w hw⟩] at hnone
      cases hnone
    rw [hnil]
    exact ⟨rfl, hflight⟩
  · rw [List.filter_eq_self.mpr hgo]
    exact And.imp_left (fun h => h.trans (by rw [State.mem_onCaches]))
      (State.get_performWrites (nodeDie n) b (l := (s.caches n).wbuf) (s := s.onCaches n _) (fun w hw => (hids w hw).1)
        ((congrArg Mirror.flight (State.mirror_onCaches s n _)).trans hflight))

/-! FENCE (spec/10 R234). -/

theorem State.wbufKept_acquire (s : State) (n scope : Nat) : s.WbufKept (s.acquire n scope) := by
  unfold State.acquire
  split
  · exact .refl s
  · exact State.wbufKept_onCaches s n _ rfl
/-- An acquire at core scope or wider leaves the node's L1 empty. -/
theorem State.acquire_empties (s : State) {n scope : Nat} (hn : n < 576) (h : 2 ≤ scope) :
    ((s.acquire n scope).caches n).l1 = .empty ∧ ((s.acquire n scope).caches n).views = .empty := by
  rw [State.acquire, if_neg (by omega), caches_onCaches s n hn]
  exact ⟨rfl, rfl⟩

/-- A write that a release at a far scope is ordered after: one that the unit's lanes precede or have read. -/
theorem Caches.mem_owed {m : Caches} {w : Who} {scope : Nat} {e : PendWrite} (he : e ∈ m.wbuf) (hwaits : relWaits scope e.pa = true)
    (hmine : e.after.get w.grp 0 &&& w.lanes ≠ 0) : e.id ∈ m.owed w scope :=
  List.mem_map_of_mem (List.mem_filter.mpr ⟨he, by rw [hwaits, Bool.true_and]; exact bne_iff_ne.mpr hmine⟩)

section
variable {scope : Nat} (hscope : 3 ≤ scope)
include hscope

/-- What a release at die scope or wider drains. -/
def State.released (s : State) (u : UnitId) (scope : Nat) : State :=
  (s.fenced u).drainIds u.node (((s.fenced u).caches u.node).owed (s.whoOf u) scope)

theorem State.release_eq (s : State) (u : UnitId) :
    s.release u scope = if scope < 4 then s.released u scope else (s.released u scope).settleMirror := by
  unfold State.release State.released
  rw [if_neg (by omega)]
  dsimp only
  rw [(State.memoryOnly_fenced s u).whoOf]
/-- No write of the unit that its scope waits for pends after a release at die scope or wider. -/
theorem State.release_leaves (s : State) (hu : u.node < 576) {w : PendWrite} (hw : w ∈ ((s.release u scope).caches u.node).wbuf)
    (hmine : w.after.get (s.whoOf u).grp 0 &&& (s.whoOf u).lanes ≠ 0) : relWaits scope w.pa = false := by
  have hbuf : w ∈ ((s.released u scope).caches u.node).wbuf := by
    rw [State.release_eq hscope] at hw
    split at hw
    · exact hw
    · rw [(State.homeOnly_settleMirror _).caches] at hw
      exact hw
  obtain ⟨hin, hnot⟩ := State.of_mem_wbuf_drainIds hu _ hbuf
  exact Bool.eq_false_of_not_eq_true fun hwaits => hnot (Caches.mem_owed hin hwaits hmine)
/-- Where all that pends is the unit's, and its scope waits for it, a release leaves at home what the node saw. -/
theorem State.get_release_all (s : State)
    (hall : ∀ w ∈ (s.caches u.node).wbuf, w.mir = false ∧ w.after.get (s.whoOf u).grp 0 &&& (s.whoOf u).lanes ≠ 0 ∧ relWaits scope w.pa = true)
    (hprom : (s.caches u.node).promises = []) (hflight : s.mirror.flight = []) (b : Nat) :
    [(s.release u scope).mem.get b] = s.seeHome u.node b 1 := by
  have hids (w : PendWrite) (hw : w ∈ (s.caches u.node).wbuf) : w.mir = false ∧ w.id ∈ (s.caches u.node).owed (s.whoOf u) scope := by
    obtain ⟨hmir, hmine, hwaits⟩ := hall w hw
    exact ⟨hmir, Caches.mem_owed hw hwaits hmine⟩
  obtain ⟨hmem, hsettled⟩ := State.get_drainIds_all hids hflight b
  have hdrained : s.released u scope = s.drainIds u.node ((s.caches u.node).owed (s.whoOf u) scope) := by
    rw [State.released, State.fenced_none hprom]
  rw [State.release_eq hscope, hdrained, State.settleMirror_none hsettled, ite_self, hmem]

end

theorem le_widest {l : List Promise} {p : Promise} (h : p ∈ l) : p.scope ≤ widest l := by
  have hmono (ps : List Promise) (a : Nat) : a ≤ ps.foldl (fun a p => max a p.scope) a :=
    List.foldlRecOn ps _ (motive := (a ≤ ·)) le_rfl fun x hx p _ => hx.trans (le_max_left x p.scope)
  obtain ⟨A, B, rfl⟩ := List.append_of_mem h
  rw [widest, List.foldl_append, List.foldl_cons]
  exact (le_max_right _ p.scope).trans (hmono B _)
/-- A release fence of lanes orders every later write of theirs after the writes that it names. -/
theorem State.pending_of_fence {w : Who} {p : Promise} (hp : p ∈ (s.caches w.node).fences w) {k : Nat} (hk : k ∈ p.ids) (z : Xlat)
    (bs : List Byte) (req rel : Nat) : k ∈ (s.pending w z bs req rel).deps ∧ p.scope ≤ (s.pending w z bs req rel).rel := by
  have hfence : k ∈ ((s.caches w.node).fences w).flatMap (·.ids) := List.mem_flatMap.mpr ⟨p, hp, hk⟩
  refine ⟨?_, (le_widest hp).trans (le_max_left _ rel)⟩
  unfold State.pending
  dsimp only
  split
  · exact List.mem_append_left _ hfence
  · exact hfence
theorem State.wbufKept_promise (s : State) (u : UnitId) (scope : Nat) : s.WbufKept (s.promise u scope) := by
  unfold State.promise
  split
  · exact .refl s
  · exact State.wbufKept_onCaches s _ _ rfl
/-- After a release fence of a unit at a far scope, its later writes are ordered after those that pend for its lanes. -/
theorem State.pending_promise (s : State) {scope : Nat} (hu : u.node < 576) (hscope : 3 ≤ scope) {w : PendWrite} (hw : w ∈ (s.caches u.node).wbuf)
    (hmine : w.after.get (s.whoOf u).grp 0 &&& (s.whoOf u).lanes ≠ 0) (hwaits : relWaits scope w.pa = true) (z : Xlat) (bs : List Byte)
    (req rel : Nat) : w.id ∈ ((s.promise u scope).pending (s.whoOf u) z bs req rel).deps ∧
      scope ≤ ((s.promise u scope).pending (s.whoOf u) z bs req rel).rel := by
  let mine : Promise :=
    { grp := (s.whoOf u).grp, lanes := (s.whoOf u).lanes, scope := scope, ids := (s.caches u.node).owed (s.whoOf u) scope }
  have hlanes : (s.whoOf u).lanes ≠ 0 := fun h => hmine (by rw [h]; exact BitVec.and_zero)
  have hp : mine ∈ ((s.promise u scope).caches u.node).fences (s.whoOf u) := by
    rw [State.promise, if_neg (by omega), caches_onCaches s _ hu]
    exact List.mem_filter.mpr ⟨List.mem_append_right _ (List.mem_singleton_self mine), by rw [beq_self_eq_true, BitVec.and_self, Bool.true_and]; exact bne_iff_ne.mpr hlanes⟩
  exact State.pending_of_fence hp (Caches.mem_owed hw hwaits hmine) z bs req rel

theorem State.spKept_fence (s : State) (u : UnitId) (kind scope : Nat) : s.SpKept (s.fence u kind scope) := by
  unfold State.fence
  split
  · exact State.spKept_acquire s _ _
  · exact State.spKept_promise s _ _
  · exact (State.spKept_release s _ _).trans (State.spKept_acquire _ _ _)
/-- FENCE has one of three kinds. -/
theorem fence_kinds {f : LA} {x : FenceX} (h : (Instr.fence f x).extOk = true) : x.kind = 1 ∨ x.kind = 2 ∨ x.kind = 3 := by
  have hkind : x.kind ≠ 0 := by
    intro hzero
    simp [Instr.extOk, hzero] at h
  revert hkind
  generalize x.kind = k
  revert k
  decide

/-! PREF (spec/10 R230). -/

theorem State.mem_prefetch (s : State) (u : UnitId) (ea : Dword) (req : Nat) : (s.prefetch u ea req).mem = s.mem := by
  unfold State.prefetch
  split
  · rfl
  · dsimp only
    split
    · rfl
    · exact State.mem_fillAt s _ _ _ _ _
theorem State.memoryOnly_prefetch (s : State) (u : UnitId) (ea : Dword) (req : Nat) : s.MemoryOnly (s.prefetch u ea req) := by
  unfold State.prefetch
  split
  · exact .refl s
  · dsimp only
    split
    · exact .refl s
    · exact State.memoryOnly_fillAt s _ _ _ _ _
theorem State.spKept_prefetch (s : State) (u : UnitId) (ea : Dword) (req : Nat) : s.SpKept (s.prefetch u ea req) := by
  unfold State.prefetch
  split
  · exact .refl s
  · dsimp only
    split
    · exact .refl s
    · exact State.spKept_fillAt s _ _ _ _ _

/-- Settles O15: a fence is an acquire, a promise, or a release and an acquire, each with a law of its own; PREF fills caches alone. -/
theorem fencesAndPrefetch : Obligations.FencesAndPrefetch := by
  unfold Obligations.FencesAndPrefetch
  intro s u f hplace
  refine ⟨fun x hissue => ?_, fun x hissue => ?_⟩
  · have hpath := hissue.path rfl
    have hn : u.node < 576 := Nat.lt_trans (UnitId.node_lt hpath hplace) (by decide)
    have hwho := State.whoOf_path (s := s) hpath
    let p := s.fence u x.kind.toNat x.scope.toNat
    have hmemory : s.MemoryOnly p := State.memoryOnly_fence s u _ _
    have hexec : exec (.fence f x) s = .next (p.doneL u (.fence f x)) := by rw [exec_fence, execFence, hissue.next]
    refine ⟨_, p, hexec, hmemory, State.plainDoneL p u _, State.spKept_fence s u _ _, ?_⟩
    rw [hmemory.whoOf]
    rcases fence_kinds (State.extOk_of_preCheck hissue.checks) with hkind | hkind | hkind
    · have hp : p = s.acquire u.node x.scope.toNat := by unfold p; rw [hkind]; rfl
      rw [hp, hkind]
      exact ⟨fun _ hscope => State.acquire_empties s hn hscope, nofun, nofun, fun _ => State.mem_acquire s _ _⟩
    · have hp : p = s.promise u x.scope.toNat := by unfold p; rw [hkind]; rfl
      rw [hp, hkind]
      refine ⟨nofun, nofun, fun _ hscope => ⟨State.wbufKept_promise s u _ _, fun w hw hmine hwaits z bs req rel => ?_⟩, fun _ => ?_⟩
      · exact State.pending_promise s hn hscope hw (by rw [hwho]; exact hmine) hwaits z bs req rel
      · unfold State.promise
        split
        · rfl
        · exact State.mem_onCaches s _ _
    · have hp : p = (s.release u x.scope.toNat).acquire u.node x.scope.toNat := by unfold p; rw [hkind]; rfl
      rw [hp, hkind]
      refine ⟨fun _ hscope => State.acquire_empties _ hn hscope, fun _ hscope => ⟨fun w hw hmine => ?_, fun hall hprom hflight b => ?_⟩, nofun, fun hnear => ?_⟩
      · rw [State.wbufKept_acquire] at hw
        exact State.release_leaves hscope s hn hw (by rw [hwho]; exact hmine)
      · rw [State.mem_acquire]
        exact State.get_release_all hscope s (fun w hw => by rw [hwho]; exact hall w hw) hprom hflight b
      · have hscope : x.scope.toNat < 3 := hnear.resolve_left (by decide)
        rw [State.mem_acquire, State.release, if_pos hscope]
  · let step (q : State) (l : Nat) : State := q.prefetch u (q.laneAddr u f.a.toNat f.b.toNat x.ix.toNat x.scl.toNat x.off l)
      (min (reqOf x.pol.toNat) (if f.m = 0 then 2 else 1))
    let p := (s.maskOf u).lanes.foldl step s
    have hexec : exec (.pref f x) s = .next (p.doneL u (.pref f x)) := by rw [exec_pref, execPref, hissue.next]
    refine ⟨_, p, hexec, memoryOnly_foldl step _ s fun q l => State.memoryOnly_prefetch q u _ _, State.plainDoneL p u _, ?_,
      spKept_foldl step _ s fun q l => State.spKept_prefetch q u _ _⟩
    exact List.foldlRecOn (s.maskOf u).lanes step (motive := fun q : State => q.mem = s.mem) rfl
      fun q hq l _ => (State.mem_prefetch q u _ _).trans hq

end Sys2Proof.Machine

namespace Sys2Proof.Machine

variable {s t : State} {u : UnitId} {i : Instr} {a : Answer}

/-! Uniform accesses (spec/10 R236). -/

theorem State.uniMem_waits {sp : Bool} {n : Nat} {ea : Dword} (h : s.mustWait u sp n ea = true) (i : Instr) (k : Kind) (req : Nat)
    (act : State → Ready → State) : s.WaitsIn (s.uniMem u i sp k n req ea act) u i := by
  rw [State.uniMem, if_pos h]
  exact State.waitsIn s u { instr := i, lo := 0 }
theorem State.uniMem_ready {sp : Bool} {k : Kind} {n req : Nat} {ea : Dword} {r : Ready} (hw : s.mustWait u sp n ea = false)
    (hr : s.accessCheck u sp k n req ea = .ok r) (i : Instr) (act : State → Ready → State) :
    s.uniMem u i sp k n req ea act = act s r := by
  rw [State.uniMem, if_neg (Bool.eq_false_iff.mp hw), hr]

theorem sext64_eq (n v : Nat) (hn : 0 < n) : sext64 n v = (BitVec.ofNat n v).signExtend 64 := by
  rw [sext64, BitVec.signExtend, toInt_ofNat_eq_signed n v hn]
/-- A uniform load's value: extended by its sign for odd SZ (spec/10 R236). -/
def loadedValueG (sz : Nat) (bs : List Byte) : Dword :=
  match sz with
  | 1 => (BitVec.ofNat 8 (leNat bs)).signExtend 64
  | 3 => (BitVec.ofNat 16 (leNat bs)).signExtend 64
  | 5 => (BitVec.ofNat 32 (leNat bs)).signExtend 64
  | _ => BitVec.ofNat 64 (leNat bs)
theorem loadValueG_eq (sz : BitVec 3) (bs : List Byte) : loadValueG sz.toNat bs = loadedValueG sz.toNat bs := by
  have hsz := sz.isLt
  have hsign (n : Nat) (hn : 0 < n) := sext64_eq n (leNat bs) hn
  rw [loadValueG]
  generalize sz.toNat = m at hsz
  match m with
  | 0 => rfl
  | 1 => exact hsign 8 (by decide)
  | 2 => rfl
  | 3 => exact hsign 16 (by decide)
  | 4 => rfl
  | 5 => exact hsign 32 (by decide)
  | 6 => rfl
  | 7 => exact (hsign 64 (by decide)).trans (BitVec.signExtend_eq _)
  | _ + 8 => omega

/-- The unit finds scratchpad as it stands where nothing was read early. -/
theorem State.readAt_scratchpad {sp : Bool} {k : Kind} {n req : Nat} {ea : Dword} {r : Ready} (h : s.accessCheck u sp k n req ea = .ok r)
    (hsp : sp = true) (hahead : (s.caches u.node).ahead = []) (req' : Nat) (fresh : Bool) :
    (s.readAt u (s.whoOf u) r n req' fresh).1 = s.spRead u.place (s.teamSlot u) ea.toNat n := by
  subst hsp
  rw [State.accessCheck_scratchpad h, State.readAt_now hahead rfl]
/-- What a uniform load leaves of memory once it has read, and after its acquire. -/
theorem State.readAt_after (s : State) (u : UnitId) (r : Ready) (n req ord scope : Nat) (fresh : Bool) :
    let p := (s.readAt u (s.whoOf u) r n req fresh).2
    s.MemoryOnly (p.after u ord scope) ∧ (∀ a, ¬ r.inLeaf a → p.mem.get a = s.mem.get a) ∧ ∀ c, (p.core c).sp = (s.core c).sp := by
  intro p
  refine ⟨(State.memoryOnly_readAt s u _ r n req fresh).trans (State.memoryOnly_after _ u ord scope), fun a h => ?_,
    State.spKept_readAt s u _ r n req fresh⟩
  refine State.get_readAt s u _ r n req fresh fun x hx => ?_
  have hout : ¬ (x.pte ≤ a ∧ a < x.pte + 8) := fun hin => h ⟨x, hx, hin⟩
  omega

/-! GST: one write of the unit. -/

section
variable {r : Ready} {n : Nat} {bs : List Byte} (hlen : bs.length = n) (q : State) (w : Who) (req rel : Nat)
include hlen

/-- A byte of scratchpad outside the write, or of a core that the write does not reach, is as before. -/
theorem State.sp_writeAt_other {c b : Nat} (h : r.xl = none → c = u.place → ¬ q.Touches u r n b) :
    ((q.writeAt u w r bs req rel).core c).sp.get b = (q.core c).sp.get b := by
  cases hx : r.xl with
  | none =>
    refine (State.sp_writeAt_scratchpad q u w bs req rel hx c b).trans (if_neg ?_)
    rintro ⟨hc, hin⟩
    rw [hlen] at hin
    exact h hx hc hin
  | some x => exact congrArg (Mem.get · b) (State.spKept_writeAt_global q u w bs req rel hx c)
/-- The write's bytes of scratchpad hold what it has written. -/
theorem State.read_writeAt_scratchpad (hx : r.xl = none) :
    ((q.writeAt u w r bs req rel).core u.place).sp.read (q.placeOf u r) n = bs := by
  refine Mem.read_of_get hlen fun k hk => ?_
  rw [State.sp_writeAt_scratchpad q u w bs req rel hx, if_pos ⟨rfl, by omega, by omega⟩, Nat.add_sub_cancel_left]

end

/-- A store's bytes at the home slices stay, but for the entry of its leaf. -/
theorem State.get_writeAt_outside (q : State) (w : Who) {r : Ready} (bs : List Byte) (req rel : Nat) {b : Nat} (h : ¬ r.inLeaf b) :
    (q.writeAt u w r bs req rel).mem.get b = q.mem.get b := by
  refine State.get_writeAt q u w r bs req rel fun x hx => ?_
  have hout : ¬ (x.pte ≤ b ∧ b < x.pte + 8) := fun hin => h ⟨x, hx, hin⟩
  omega

/-! GATOM. -/

/-- What GATOM writes of the bytes that it finds (spec/10 R236). -/
def State.gatomNew (s : State) (u : UnitId) (f : GA) (x : GatomX) (old : List Byte) : Option (List Byte) :=
  if x.aop = 8 then
    (if leNat old = ((s.sget u f.d.toNat).setWidth (typeW x.ty)).toNat then
      some (natLe (typeW x.ty / 8) ((s.sget u (f.d.toNat + 1)).setWidth (typeW x.ty)).toNat) else none)
  else some (natLe (typeW x.ty / 8) (rmwBits (s.thread u).fmt x.ty.toNat x.aop.toNat (typeW x.ty) (BitVec.ofNat (typeW x.ty) (leNat old))
    ((s.sget u f.d.toNat).setWidth (typeW x.ty))).toNat)

theorem State.gatomNew_length {f : GA} {x : GatomX} {old bs : List Byte} (h : s.gatomNew u f x old = some bs) :
    bs.length = typeW x.ty / 8 := by
  unfold State.gatomNew at h
  split at h
  · split at h
    · exact Option.some.inj h ▸ natLe_length _ _
    · cases h
  · exact Option.some.inj h ▸ natLe_length _ _
theorem State.gatomBytes_eq (f : GA) (x : GatomX) {old : List Byte} (hold : old.length = typeW x.ty / 8) :
    s.gatomBytes u f x (typeW x.ty / 8) old = s.gatomNew u f x old := by
  have hwidth (v : Dword) : v.toNat % 2 ^ (8 * (typeW x.ty / 8)) = (v.setWidth (typeW x.ty)).toNat := by
    rw [← typeW_bytes, BitVec.toNat_setWidth]
  unfold State.gatomBytes State.gatomNew
  simp only [hwidth]
  split
  · rfl
  · refine congrArg some ((natLe_atomicOp _ x.ty x.aop.toNat hold (BitVec.isLt _)).trans ?_)
    rw [BitVec.ofNat_toNat, BitVec.setWidth_eq, State.fmtOf]

/-! What GLD, GST and GATOM come to, on a unit that has scratchpad or names none. -/

theorem State.gld_eq {f : GA} {x : GmemX} (hok : spOk u x.sp = true) (s : State) : State.gld f x u s =
    s.uniMem u (.gld f x) x.sp .load (sizeOfSZ x.sz.toNat) (viewReq (reqOf x.pol.toNat) x.ord.toNat x.scope.toNat)
      (s.uniAddr u f.a.toNat f.b.toNat x.ixe x.off) fun s r =>
        ((s.readAt u (s.whoOf u) r (sizeOfSZ x.sz.toNat) (reqOf x.pol.toNat) (freshLoad x.ord.toNat x.scope.toNat)).2.after u
          x.ord.toNat x.scope.toNat).doneR u (.gld f x) f.d.toNat f.k (loadValueG x.sz.toNat
            (s.readAt u (s.whoOf u) r (sizeOfSZ x.sz.toNat) (reqOf x.pol.toNat) (freshLoad x.ord.toNat x.scope.toNat)).1) := by
  rw [State.gld, hok]
  rfl
theorem State.gst_eq {f : GA} {x : GmemX} (hok : spOk u x.sp = true) (s : State) : State.gst f x u s =
    s.uniMem u (.gst f x) x.sp .store (sizeOfSZ x.sz.toNat) 0 (s.uniAddr u f.a.toNat f.b.toNat x.ixe x.off) fun s r =>
      ((s.beforeStore u x.sp x.ord.toNat x.scope.toNat).writeAt u (s.whoOf u) r
        (natLe (sizeOfSZ x.sz.toNat) (s.sget u f.d.toNat).toNat) (reqOf x.pol.toNat)
        (relScope x.ord.toNat x.scope.toNat)).doneG u (.gst f x) := by
  rw [State.gst, hok]
  rfl
/-- What GATOM leaves, of the bytes that it found and what it left of memory. -/
def State.gatomEnds (u : UnitId) (f : GA) (x : GatomX) (v : List Byte × State) : State :=
  let q := v.2.after u x.ord.toNat x.scope.toNat
  if f.k then q.doneG u (.gatom f x) else q.doneR u (.gatom f x) f.d.toNat false (BitVec.ofNat 64 (leNat v.1))
theorem State.gatom_eq {f : GA} {x : GatomX} (hok : spOk u x.sp = true) (s : State) : State.gatom f x u s =
    s.uniMem u (.gatom f x) x.sp .atomic (typeW x.ty / 8) 0 (s.uniAddr u f.a.toNat f.b.toNat x.ixe x.off) fun s r =>
      State.gatomEnds u f x ((s.before u x.ord.toNat x.scope.toNat).rmwAt u (s.whoOf u) r (typeW x.ty / 8) (s.gatomBytes u f x (typeW x.ty / 8))) := by
  rw [State.gatom, hok, if_neg (by decide)]
  rfl
theorem State.gatomEnds_done (f : GA) (x : GatomX) (v : List Byte × State) :
    if f.k then (v.2.after u x.ord.toNat x.scope.toNat).PlainDone (State.gatomEnds u f x v) u (.gatom f x) false
    else (v.2.after u x.ord.toNat x.scope.toNat).ScalarDone (State.gatomEnds u f x v) u (.gatom f x) f.d.toNat false
      (BitVec.ofNat 64 (leNat v.1)) := by
  unfold State.gatomEnds
  dsimp only
  by_cases hk : f.k = true
  · rw [if_pos hk, if_pos hk]
    exact State.plainDoneG _ u _
  · rw [if_neg hk, if_neg hk]
    exact State.scalarDone _ u _ _ false _

section
variable {r : Ready}

/-- GLD, GST and GATOM that neither wait nor fault. -/
theorem State.gld_ready {f : GA} {x : GmemX} (hok : spOk u x.sp = true)
    (hw : s.mustWait u x.sp (sizeOfSZ x.sz.toNat) (s.uniAddr u f.a.toNat f.b.toNat x.ixe x.off) = false)
    (hr : s.accessCheck u x.sp .load (sizeOfSZ x.sz.toNat) (viewReq (reqOf x.pol.toNat) x.ord.toNat x.scope.toNat)
      (s.uniAddr u f.a.toNat f.b.toNat x.ixe x.off) = .ok r) :
    State.gld f x u s = ((s.readAt u (s.whoOf u) r (sizeOfSZ x.sz.toNat) (reqOf x.pol.toNat) (freshLoad x.ord.toNat x.scope.toNat)).2.after u
      x.ord.toNat x.scope.toNat).doneR u (.gld f x) f.d.toNat f.k (loadValueG x.sz.toNat
        (s.readAt u (s.whoOf u) r (sizeOfSZ x.sz.toNat) (reqOf x.pol.toNat) (freshLoad x.ord.toNat x.scope.toNat)).1) := by
  rw [State.gld_eq hok, State.uniMem_ready hw hr]
theorem State.gst_ready {f : GA} {x : GmemX} (hok : spOk u x.sp = true)
    (hw : s.mustWait u x.sp (sizeOfSZ x.sz.toNat) (s.uniAddr u f.a.toNat f.b.toNat x.ixe x.off) = false)
    (hr : s.accessCheck u x.sp .store (sizeOfSZ x.sz.toNat) 0 (s.uniAddr u f.a.toNat f.b.toNat x.ixe x.off) = .ok r) :
    State.gst f x u s = ((s.beforeStore u x.sp x.ord.toNat x.scope.toNat).writeAt u (s.whoOf u) r
      (natLe (sizeOfSZ x.sz.toNat) (s.sget u f.d.toNat).toNat) (reqOf x.pol.toNat)
      (relScope x.ord.toNat x.scope.toNat)).doneG u (.gst f x) := by
  rw [State.gst_eq hok, State.uniMem_ready hw hr]
theorem State.gatom_ready {f : GA} {x : GatomX} (hok : spOk u x.sp = true)
    (hw : s.mustWait u x.sp (typeW x.ty / 8) (s.uniAddr u f.a.toNat f.b.toNat x.ixe x.off) = false)
    (hr : s.accessCheck u x.sp .atomic (typeW x.ty / 8) 0 (s.uniAddr u f.a.toNat f.b.toNat x.ixe x.off) = .ok r) :
    State.gatom f x u s = State.gatomEnds u f x
      ((s.before u x.ord.toNat x.scope.toNat).rmwAt u (s.whoOf u) r (typeW x.ty / 8) (s.gatomNew u f x)) := by
  rw [State.gatom_eq hok, State.uniMem_ready hw hr]
  exact congrArg (State.gatomEnds u f x) (State.rmwAt_congr _ u _ _ r fun old hold => State.gatomBytes_eq f x hold)

end

/-- Settles O17: the one access of the unit neither waits nor faults; what it leaves are the laws of a read, a write and an atomic. -/
theorem uniformAccesses : Obligations.UniformAccesses := by
  unfold Obligations.UniformAccesses
  intro s u f
  refine ⟨fun x i a hi hcomes => ?waits, fun x a hcomes => ?atomWaits, fun x r => ?loadStore, fun x r a hcomes hok => ?atomic, fun x hissue hbad => ?lantern⟩
  case waits =>
    intro ea hok hwait
    rcases List.mem_cons.mp hi with rfl | h
    · refine ⟨_, hcomes.scratchpad (exec_gld s f x) rfl, ?_⟩
      rw [State.gld_eq hok]
      exact State.uniMem_waits hwait _ _ _ _
    · cases List.mem_singleton.mp h
      refine ⟨_, hcomes.scratchpad (exec_gst s f x) rfl, ?_⟩
      rw [State.gst_eq hok]
      exact State.uniMem_waits hwait _ _ _ _
  case atomWaits =>
    intro ea hok hwait
    refine ⟨_, hcomes.scratchpad (exec_gatom s f x) rfl, ?_⟩
    rw [State.gatom_eq hok]
    exact State.uniMem_waits hwait _ _ _ _
  case loadStore =>
    intro n ea view hok hgo
    refine ⟨fun a hcomes hcheck => ?_, fun a hcomes hcheck => ?_⟩
    · intro q val
      obtain ⟨hmem, hkept, hsp⟩ := State.readAt_after s u r n (reqOf x.pol.toNat) x.ord.toNat x.scope.toNat (freshLoad x.ord.toNat x.scope.toNat)
      refine ⟨_, hcomes.scratchpad (exec_gld s f x) rfl, hmem, ?_, hkept, hsp, fun h hahead => State.readAt_scratchpad hcheck h hahead _ _⟩
      rw [State.gld_ready hok hgo hcheck, loadValueG_eq]
      exact State.scalarDone _ u _ _ _ _
    · intro q bytes
      have hq : s.MemoryOnly q := State.memoryOnly_beforeStore s u x.sp _ _
      have hkept : s.SpKept q := State.spKept_beforeStore s u x.sp _ _
      have hlen : bytes.length = n := natLe_length _ _
      let p := q.writeAt u (s.whoOf u) r bytes (reqOf x.pol.toNat) (relScope x.ord.toNat x.scope.toNat)
      have hp : s.MemoryOnly p := hq.trans (State.memoryOnly_writeAt q u _ r bytes _ _)
      have hxl (hsp : x.sp = true) : r = { addr := ea, xl := none } := State.accessCheck_scratchpad (by rw [hsp] at hcheck; exact hcheck)
      have hglobal (hsp : x.sp = false) : ∃ y, r.xl = some y := by
        rw [hsp] at hcheck
        obtain ⟨y, hy, -⟩ := State.accessCheck_global hcheck
        exact ⟨y, by rw [hy]⟩
      refine ⟨_, p, hcomes.scratchpad (exec_gst s f x) rfl, hp, ?done, fun b h => State.get_writeAt_outside q _ bytes _ _ h,
        fun c b h => ?kept, fun hsp => ?written, fun hsp hn b => ⟨fun hlo hhi => ?seen, fun hout hleaf => ?other⟩⟩
      case done =>
        rw [State.gst_ready hok hgo hcheck]
        exact State.plainDoneG p u _
      case kept =>
        refine (State.sp_writeAt_other hlen q _ _ _ fun hx hc hin => ?_).trans (congrArg (Mem.get · b) (hkept c))
        have hsp : x.sp = true := by
          by_contra hsp
          obtain ⟨y, hy⟩ := hglobal (Bool.eq_false_of_not_eq_true hsp)
          rw [hx] at hy
          cases hy
        have := (hq.touches r n b).mp hin
        rw [State.Touches] at this
        have := h hsp hc
        omega
      case written =>
        have hx : r.xl = none := by rw [hxl hsp]
        have hplace : q.placeOf u r = (s.team u.place (s.teamSlot u)).spBase + ea.toNat := by
          rw [hq.placeOf, hxl hsp]
          rfl
        have hread := State.read_writeAt_scratchpad (u := u) hlen q (s.whoOf u) (reqOf x.pol.toNat) (relScope x.ord.toNat x.scope.toNat) hx
        rw [hplace] at hread
        rw [State.spRead, hp.team]
        exact hread
      case seen =>
        obtain ⟨y, hy⟩ := hglobal hsp
        have hin : b - s.placeOf u r < bytes.length := by rw [hlen]; omega
        rw [← some_getD_eq hin, ← hq.placeOf]
        refine (State.pendsAt_writeAt q u _ bytes _ _ hy rfl hn ?_).seen
        rw [hlen, hq.placeOf]
        exact ⟨hlo, hhi⟩
      case other =>
        obtain ⟨y, hy⟩ := hglobal hsp
        refine State.seeHome_writeAt_other q u _ bytes _ _ hy rfl hn ?_ hleaf
        rw [hlen, hq.placeOf]
        exact hout
  case atomic =>
    intro w ea hgo hcheck op new p q
    have hp : s.MemoryOnly p := State.memoryOnly_before s u _ _
    have hkept : s.SpKept p := State.spKept_before s u _ _
    have hlen (old bs : List Byte) (h : new old = some bs) : bs.length = w / 8 := State.gatomNew_length h
    have hq : p.MemoryOnly q.2 := State.memoryOnly_rmwAt p u _ r _ _
    refine ⟨_, hcomes.scratchpad (exec_gatom s f x) rfl, hp.trans hq, ?done, fun hsp => ?scratchpad, fun z hz hbuf => ⟨fun b hleaf hout => ?other, fun c => ?kept, fun hapart => ?home⟩⟩
    case done =>
      rw [State.gatom_ready hok hgo hcheck, ← hp.whoOf u]
      exact State.gatomEnds_done f x q
    case scratchpad =>
      rw [hsp] at hcheck
      have hr := State.accessCheck_scratchpad hcheck
      have hx : r.xl = none := by rw [hr]
      have hplace : p.placeOf u r = (s.team u.place (s.teamSlot u)).spBase + ea.toNat := by
        rw [hp.placeOf, hr]
        rfl
      have hread := State.read_rmwAt_scratchpad p u (p.whoOf u) (w / 8) new hlen hx
      rw [hplace] at hread
      refine ⟨(State.rmwAt_found p u _ _ new hx).trans ?_, ?_⟩
      · rw [hplace, hkept]
        rfl
      · rw [State.spRead, (hp.trans hq).team]
        exact hread
    case other => exact State.get_rmwAt_other hlen hz hbuf hleaf hout
    case kept => exact (State.spKept_rmwAt_global p u _ _ new hz c).trans (hkept c)
    case home =>
      have hfound : q.1 = p.mem.read z.pa (w / 8) := State.rmwAt_found_home hz hbuf
      refine ⟨hfound, ?_⟩
      rw [hfound]
      exact State.read_rmwAt hlen hz hbuf hapart
  case lantern =>
    rw [exec_gld, execGld, hissue.next, State.gld, hbad]
    rfl

end Sys2Proof.Machine

namespace Sys2Proof.Machine

variable {s t : State} {u : UnitId}

/-! Fields of entries (spec/01 R23, R24). -/

theorem fld_bit {w : Nat} (e : BitVec w) (j : Nat) : fld e j 1 = if e.getLsbD j then 1 else 0 := by
  rw [fld, Nat.pow_one, BitVec.getLsbD, Nat.testBit_eq_decide_div_mod_eq]
  have := Nat.mod_lt (e.toNat / 2 ^ j) (by decide : 0 < 2)
  split
  · rename_i h
    exact of_decide_eq_true h
  · rename_i h
    have := (decide_eq_true_iff (p := e.toNat / 2 ^ j % 2 = 1)).not.mp h
    omega
theorem fld_bit_beq_one {w : Nat} (e : BitVec w) (j : Nat) : (fld e j 1 == 1) = e.getLsbD j := by
  rw [fld_bit]
  cases e.getLsbD j <;> rfl
theorem fld_bit_beq_zero {w : Nat} (e : BitVec w) (j : Nat) : (fld e j 1 == 0) = !e.getLsbD j := by
  rw [fld_bit]
  cases e.getLsbD j <;> rfl

theorem inHost_leafPa (e : Dword) : inHost (leafPa e) = (e.toNat / 2 ^ 48 % 16 == 1) := by
  have hdiv : leafPa e / 2 ^ 48 = e.toNat / 2 ^ 48 % 16 := by
    rw [leafPa, fld]
    omega
  rw [inHost, hdiv]

/-- The form of a leaf at a level (spec/01 R24). -/
def leafForm (e : Dword) (lvl : Nat) : Bool :=
  fld e 12 4 == 0 && fld e 58 6 == 0 && fld e 5 2 != 3 && !(fld e 3 1 == 1 && fld e 4 1 == 1) && leafPa e % pageBytes lvl == 0 &&
    (decide (leafPa e < 2 ^ 40) || leafPa e / 2 ^ 48 == 1 || leafPa e / 2 ^ 48 == 2) &&
    (decide (leafPa e < 2 ^ 40) || (fld e 7 1 == 0 && fld e 9 1 == 0))

theorem leafOk_eq (e : Dword) (lvl : Nat) : leafOk e lvl = leafForm e lvl := by
  rw [leafOk, leafForm, fld_bit_beq_one, fld_bit_beq_one, fld_bit_beq_zero, fld_bit_beq_zero, Bool.and_comm (e.getLsbD 4)]
  refine congrArg₂ (· && ·) rfl ?_
  change (!((e.getLsbD 7 || e.getLsbD 9) && !decide (leafPa e < 2 ^ 40))) = _
  cases decide (leafPa e < 2 ^ 40) <;> cases e.getLsbD 7 <;> cases e.getLsbD 9 <;> rfl

/-- One level of the walk (spec/01 R25). -/
theorem State.walk_step (s : State) (va lvl table : Nat) {here : Nat} {e : Dword} (hhere : here = table + 8 * vaIndex va lvl)
    (he : e = s.home64 here) : s.walk va lvl table =
      if fld e 0 1 = 0 then .error (0, lvl)
      else if fld e 1 1 = 0 then if lvl = 0 ∨ pointerOk e lvl = false then .error (1, lvl) else s.walk va (lvl - 1) (pteNext e)
      else if lvl = 3 ∨ leafForm e lvl = false then .error (1, lvl)
      else .ok { pa := leafPa e + va % pageBytes lvl, leaf := e, level := lvl, pte := here } := by
  rw [State.walk.eq_def]
  dsimp only
  rw [← hhere, ← he, fld_bit, fld_bit, ← leafOk_eq]
  cases e.getLsbD 0 with
  | false => rfl
  | true =>
    cases e.getLsbD 1 with
    | false =>
      cases pointerOk e lvl with
      | false => cases lvl <;> rfl
      | true => cases lvl <;> rfl
    | true =>
      by_cases hleaf : lvl = 3 ∨ leafOk e lvl = false
      · have hbad : (lvl == 3 || !leafOk e lvl) = true := by simpa using hleaf
        rw [hbad, if_pos hleaf]
        rfl
      · have hgood : (lvl == 3 || !leafOk e lvl) = false := by simpa using hleaf
        rw [hgood, if_neg hleaf]
        rfl

/-! Translation by a node (spec/01 R25, R32). -/

theorem State.tlbFind_some {n c va : Nat} {z : TlbEntry} (h : s.tlbFind n c va = some z) : z ∈ (s.caches n).tlb ∧ z.ctx = c ∧
    z.base = va / pageBytes z.level * pageBytes z.level := by
  have hmatch := List.find?_some h
  rw [Bool.and_eq_true, beq_iff_eq, beq_iff_eq] at hmatch
  exact ⟨List.mem_of_find?_eq_some h, hmatch⟩
theorem State.lookup_tlb {n c va : Nat} {z : TlbEntry} (h : s.tlbFind n c va = some z) :
    s.lookup n c va = .ok { pa := leafPa z.leaf + va % pageBytes z.level, leaf := z.leaf, level := z.level, pte := z.pte } := by
  rw [State.lookup, h]
/-- Where the die's walk cache holds nothing of the context, a walk begins at the root. -/
theorem State.walkStart_root {n c : Nat} (h : ∀ w ∈ s.walkCache n, w.ctx ≠ c) (va : Nat) :
    s.walkStart n c va = (3, (s.descOf n c).root) := by
  have hnone (p : WalkEntry → Bool) : (s.walkCache n).find? (fun w => w.ctx == c && p w) = none := by
    refine List.find?_eq_none.mpr fun w hw => ?_
    rw [beq_false_of_ne (h w hw), Bool.false_and]
    exact Bool.false_ne_true
  have hheld (l : Nat) : (s.walkCache n).find? (fun w => w.ctx == c && w.root == (s.descOf n c).root && w.level == l && w.base == va / spanBytes l) = none := by
    simpa only [Bool.and_assoc] using hnone fun w => w.root == (s.descOf n c).root && (w.level == l && w.base == va / spanBytes l)
  unfold State.walkStart
  simp only [List.findSome?_cons, List.findSome?_nil, hheld]
theorem State.lookup_root {n c va : Nat} (htlb : s.tlbFind n c va = none) (h : ∀ w ∈ s.walkCache n, w.ctx ≠ c) :
    s.lookup n c va = s.walk va 3 (s.descOf n c).root := by
  rw [State.lookup, htlb, State.walkStart_root h]

/-- The code of the first check of a leaf that fails for an access of kind `k`, 0 where none does (spec/01 R25). -/
def denyCode (e : Dword) (k : Kind) (key : Bool) : Nat :=
  if (k = .load ∨ k = .engRead) ∧ e.getLsbD 2 = false then 3
  else if (k = .store ∨ k = .engWrite ∨ k = .discard) ∧ e.getLsbD 3 = false then 4
  else if k = .atomic ∧ (e.getLsbD 2 = false ∨ e.getLsbD 3 = false) then 4
  else if k = .fetch ∧ e.getLsbD 4 = false then 5
  else if key = false then 6
  else if k = .atomic ∧ e.getLsbD 7 = true then 7
  else if k = .atomic ∧ (e.toNat / 2 ^ 48 % 16 == 1) = true then 9
  else if k = .discard ∧ e.getLsbD 8 = false then 8
  else 0
theorem leafDeny_eq (e : Dword) (k : Kind) (m : Dword) :
    leafDeny e k m = if denyCode e k (m.getLsbD (e.toNat / 2 ^ 52 % 64)) = 0 then none
      else some (denyCode e k (m.getLsbD (e.toNat / 2 ^ 52 % 64))) := by
  have hkey : m.getLsbD (fld e 52 6) = m.getLsbD (e.toNat / 2 ^ 52 % 64) := rfl
  unfold leafDeny denyCode
  rw [hkey, inHost_leafPa]
  generalize m.getLsbD (e.toNat / 2 ^ 52 % 64) = key
  generalize (e.toNat / 2 ^ 48 % 16 == 1) = host
  generalize e.getLsbD 2 = rd
  generalize e.getLsbD 3 = wr
  generalize e.getLsbD 4 = ex
  generalize e.getLsbD 7 = mirror
  generalize e.getLsbD 8 = disc
  revert key host rd wr ex mirror disc
  cases k <;> decide

section
variable {n c : Nat} {va : Dword} {k : Kind}

/-- The fault of a translation that gives a code at a level. -/
def xlatFault (va : Dword) (k : Kind) (code lvl : Nat) : Flt := { cause := code, detail := 0, addr := va, kind := k.code, level := lvl }

theorem State.translate_form (h : 2 ^ 56 ≤ va.toNat) : s.translate n c va k = .error (xlatFault va k 2 3) := by
  have hform : (fld va 56 8 != 0) = true := by
    rw [fld_link, bne_iff_ne]
    omega
  rw [State.translate, hform]
  rfl
theorem State.translate_canonical (h : va.toNat < 2 ^ 56) : s.translate n c va k = match s.lookup n c va.toNat with
    | .error e => .error (xlatFault va k e.1 e.2)
    | .ok x => if denyCode x.leaf k ((s.descOf n c).w1.getLsbD (x.leaf.toNat / 2 ^ 52 % 64)) = 0 then .ok x
      else .error (xlatFault va k (denyCode x.leaf k ((s.descOf n c).w1.getLsbD (x.leaf.toNat / 2 ^ 52 % 64))) x.level) := by
  have hform : (fld va 56 8 != 0) = false := by
    rw [fld_link, bne_eq_false_iff_eq]
    omega
  rw [State.translate, hform]
  cases hx : s.lookup n c va.toNat with
  | error e => rfl
  | ok x =>
    simp only [leafDeny_eq, Bool.false_eq_true, if_false]
    by_cases hcode : denyCode x.leaf k ((s.descOf n c).w1.getLsbD (x.leaf.toNat / 2 ^ 52 % 64)) = 0
    · rw [if_pos hcode, if_pos hcode]
    · rw [if_neg hcode, if_neg hcode]
      rfl

end

/-! Poison in the sectors of an access (spec/02 R80). -/

/-- The stretches of [a, a + n) are those of the blocks in which its bytes lie. -/
theorem pieces_blocks {k a n l : Nat} (hk : 0 < k) :
    (∃ p ∈ pieces k a n, p.1 / k = l) ↔ ∃ b, a ≤ b ∧ b < a + n ∧ b / k = l := by
  have hblock (p : Nat × Nat) (hp : p ∈ pieces k a n) : 0 < p.2 ∧ ∀ b, p.1 ≤ b → b < p.1 + p.2 → b / k = p.1 / k := by
    unfold pieces at hp
    split at hp
    · cases hp
    · obtain ⟨i, hi, rfl⟩ := List.mem_map.mp hp
      have hlast : (a / k + i) * k ≤ a + n - 1 :=
        (Nat.le_div_iff_mul_le hk).mp (by have := List.mem_range.mp hi; have := Nat.div_le_div_right (c := k) (show a ≤ a + n - 1 by omega); omega)
      have hfirst : a < (a / k + i + 1) * k := (Nat.div_lt_iff_lt_mul hk).mp (by omega)
      have hstep : (a / k + i + 1) * k = (a / k + i) * k + k := Nat.succ_mul _ _
      have hdiv (b : Nat) (hlo : (a / k + i) * k ≤ b) (hhi : b < (a / k + i + 1) * k) : b / k = a / k + i :=
        Nat.div_eq_of_lt_le hlo hhi
      dsimp only
      refine ⟨by omega, fun b hlo hhi => (hdiv b (by omega) (by omega)).trans (hdiv _ (by omega) (by omega)).symm⟩
  constructor
  · rintro ⟨p, hp, rfl⟩
    have := pieces_within k a n hk p hp
    have := (hblock p hp).1
    exact ⟨p.1, by omega, by omega, rfl⟩
  · rintro ⟨b, hlo, hhi, rfl⟩
    obtain ⟨p, hp, hb⟩ := pieces_cover k a n b hk ⟨hlo, hhi⟩
    exact ⟨p, hp, ((hblock p hp).2 b hb.1 hb.2).symm⟩
theorem any_sectors {a n : Nat} {f : Nat → Bool} :
    (pieces 64 a n).any (fun p => f (p.1 / 64)) = true ↔ ∃ b, a ≤ b ∧ b < a + n ∧ f (b / 64) = true := by
  rw [List.any_eq_true]
  constructor
  · rintro ⟨p, hp, hf⟩
    obtain ⟨b, hlo, hhi, hb⟩ := (pieces_blocks (k := 64) (by decide)).mp ⟨p, hp, rfl⟩
    exact ⟨b, hlo, hhi, by rw [hb]; exact hf⟩
  · rintro ⟨b, hlo, hhi, hf⟩
    obtain ⟨p, hp, hb⟩ := (pieces_blocks (k := 64) (by decide)).mpr ⟨b, hlo, hhi, rfl⟩
    exact ⟨p, hp, by rw [hb]; exact hf⟩

/-- What stands in for a sector that a read of effective policy `pol` would find poisoned: the node's L1 line, or what the node has seen of
it before, or a pending write over the whole of it (spec/02 R80, notes/assumptions/59.md). -/
def State.Hidden (s : State) (n pol sec : Nat) : Prop :=
  (pol = 2 ∧ ((s.caches n).line sec).isSome = true) ∨ ∃ w ∈ (s.caches n).wbuf, w.pa = 64 * sec ∧ 64 ≤ w.bytes.length
/-- A read of [pa, pa + len) meets poison where a byte of it lies in a poisoned sector for which nothing stands in. -/
theorem State.poisonedFor_iff (s : State) (n pa len pol : Nat) : s.poisonedFor n pa len pol = true ↔
    ∃ b, pa ≤ b ∧ b < pa + len ∧ s.poison.contains (b / 64) = true ∧ ¬ s.Hidden n pol (b / 64) := by
  refine (any_sectors (f := fun sec => s.poison.contains sec && !(pol == 2 && ((s.caches n).line sec).isSome) &&
    !((s.caches n).wbuf.any fun w => w.pa == sec * 64 && decide (64 ≤ w.bytes.length)))).trans ?_
  refine exists_congr fun b => and_congr_right fun _ => and_congr_right fun _ => ?_
  rw [Bool.and_eq_true, Bool.and_eq_true, and_assoc, State.Hidden, not_or]
  refine and_congr_right fun _ => and_congr ?_ ?_
  · rw [Bool.not_eq_true', ← Bool.not_eq_true, Bool.and_eq_true, beq_iff_eq]
  · rw [Bool.not_eq_true', ← Bool.not_eq_true, List.any_eq_true]
    simp only [Bool.and_eq_true, beq_iff_eq, decide_eq_true_eq, Nat.mul_comm]

/-! The checks of an access in their order (spec/10 R226, R227). -/

theorem reads_iff (k : Kind) (b : Bool) : ((k == .load || k == .atomic) && b) = true ↔ (k = .load ∨ k = .atomic) ∧ b = true := by
  rw [Bool.and_eq_true, Bool.or_eq_true, beq_iff_eq, beq_iff_eq]

section
variable {sp : Bool} {k : Kind} {n req : Nat} {ea : Dword}

theorem State.accessCheck_align (h : ea.toNat % n ≠ 0) : s.accessCheck u sp k n req ea = .error (fltAt 0x10 ea) := by
  rw [State.accessCheck, if_pos (bne_iff_ne.mpr h)]

variable (halign : ea.toNat % n = 0)
include halign

theorem State.accessCheck_sp : s.accessCheck u true k n req ea =
    if ea.toNat < 2 ^ 20 ∧ ea.toNat + n ≤ (s.teamOf u).spSize then
      if (k = .load ∨ k = .atomic) ∧ s.spPoisoned u.place (s.teamSlot u) ea.toNat n = true then .error (fltAt 0x12 ea)
      else .ok { addr := ea, xl := none }
    else .error (fltAt 0x11 ea) := by
  have hneg : ¬ (ea.toNat % n != 0) = true := by simp [halign]
  have hin : (s.teamOf u).spIn ea.toNat n = decide (ea.toNat < 2 ^ 20 ∧ ea.toNat + n ≤ (s.teamOf u).spSize) := (Bool.decide_and _ _).symm
  rw [State.accessCheck, if_neg hneg, if_pos rfl, hin]
  by_cases h : ea.toNat < 2 ^ 20 ∧ ea.toNat + n ≤ (s.teamOf u).spSize
  · rw [decide_eq_true h, if_neg (by decide), if_pos h]
    exact if_congr (reads_iff k _) rfl rfl
  · rw [decide_eq_false h, if_pos (by decide), if_neg h]
theorem State.accessCheck_home : s.accessCheck u false k n req ea = match s.translate u.node (s.ctxOf u) ea k with
    | .error e => .error e
    | .ok x => if (k = .load ∨ k = .atomic) ∧ s.poisonedFor u.node (x.at_ u.node) n (effPol x req) = true then .error (poisonAt k ea)
        else .ok { addr := ea, xl := some x } := by
  have hneg : ¬ (ea.toNat % n != 0) = true := by simp [halign]
  rw [State.accessCheck, if_neg hneg, if_neg Bool.false_ne_true]
  cases s.translate u.node (s.ctxOf u) ea k with
  | error e => rfl
  | ok x => exact if_congr (reads_iff k _) rfl rfl

end

/-! The bits that a use of a leaf sets (spec/01 R33). -/

theorem or_eq_self_iff_and_eq (e b : Dword) : e ||| b = e ↔ e &&& b = b := by
  constructor
  · intro h
    rw [← h]
    ext j
    simpa using Or.inr
  · intro h
    rw [← h]
    ext j
    simpa using fun he _ => he
theorem State.useLeaf_present (s : State) (n c : Nat) (va : Dword) {x : Xlat} {k : Kind} (h : x.leaf &&& leafFlags 0 k = leafFlags 0 k) :
    (s.useLeaf n c va x k).mem = s.mem := by
  rw [State.mem_useLeaf, if_pos]
  rw [leafFlags_eq]
  exact (or_eq_self_iff_and_eq _ _).mpr h
theorem State.useLeaf_absent (s : State) (n c : Nat) (va : Dword) {x : Xlat} {k : Kind} (h : x.leaf &&& leafFlags 0 k ≠ leafFlags 0 k) :
    (s.useLeaf n c va x k).home64 x.pte = s.home64 x.pte ||| leafFlags 0 k ∧
      ∀ a, a < x.pte ∨ x.pte + 8 ≤ a → (s.useLeaf n c va x k).mem.get a = s.mem.get a := by
  refine ⟨State.home64_useLeaf s n c va fun hsame => h ((or_eq_self_iff_and_eq _ _).mp ?_), fun a ha => State.get_useLeaf s n c va x k ha⟩
  rw [← leafFlags_eq]
  exact hsame
theorem State.useLeaf_sets (s : State) (n c : Nat) (va : Dword) (x : Xlat) {k : Kind} {bits : Dword} (hbits : leafFlags 0 k = bits) :
    (x.leaf &&& bits = bits → (s.useLeaf n c va x k).mem = s.mem) ∧
      (x.leaf &&& bits ≠ bits → (s.useLeaf n c va x k).home64 x.pte = s.home64 x.pte ||| bits ∧
        ∀ a, a < x.pte ∨ x.pte + 8 ≤ a → (s.useLeaf n c va x k).mem.get a = s.mem.get a) := by
  subst hbits
  exact ⟨State.useLeaf_present s n c va, State.useLeaf_absent s n c va⟩

/-- Settles O18: the walk a level at a time, a translation from the TLB or the root, and the checks in their order. -/
theorem accessChecks : Obligations.AccessChecks := by
  unfold Obligations.AccessChecks
  refine ⟨fun s va lvl table hlvl => ?walk, fun s n c va k => ?translation, fun s u sp k n req ea => ?checks⟩
  case walk =>
    match lvl, hlvl with
    | 0, _ => exact State.walk_step s va 0 table rfl rfl
    | 1, _ => exact State.walk_step s va 1 table rfl rfl
    | 2, _ => exact State.walk_step s va 2 table rfl rfl
    | 3, _ => exact State.walk_step s va 3 table rfl rfl
  case translation =>
    intro err
    refine ⟨fun z hz => ?_, fun htlb hwalks => State.lookup_root htlb hwalks, State.translate_form, fun hva => ⟨fun e he => ?_, fun x hx => ?_⟩, fun x => ?_⟩
    · obtain ⟨hmem, hctx, hbase⟩ := State.tlbFind_some hz
      have hlookup := State.lookup_tlb hz
      refine ⟨hmem, hctx, ?_⟩
      obtain ⟨ctx, base, level, leaf, pte⟩ := z
      rcases level with _ | _ | level <;> exact ⟨hbase, hlookup⟩
    · rw [State.translate_canonical hva, he]
      rfl
    · rw [State.translate_canonical hva, hx]
      rfl
    · cases k <;> exact State.useLeaf_sets s n c va x rfl
  case checks =>
    refine ⟨State.accessCheck_align, fun ha hsp hout => ?_, fun ha hsp hlo hhi hclean => ?_, fun ha hsp hlo hhi hk hbad => ?_, fun ha hsp hform => ?_,
      fun ha hsp e he => ?_, fun ha hsp x hx => ?_⟩
    · rw [hsp, State.accessCheck_sp ha, if_neg hout]
    · rw [hsp, State.accessCheck_sp ha, if_pos ⟨hlo, hhi⟩, if_neg]
      rintro ⟨hk, hbad⟩
      rcases hclean with ⟨hload, hatomic⟩ | hclean
      · exact hk.elim hload hatomic
      · rw [hclean] at hbad
        cases hbad
    · rw [hsp, State.accessCheck_sp ha, if_pos ⟨hlo, hhi⟩, if_pos ⟨hk, hbad⟩]
    · rw [hsp, State.accessCheck_home ha, State.translate_form hform]
      rfl
    · rw [hsp, State.accessCheck_home ha, he]
    · have hmeets := State.poisonedFor_iff s u.node (x.at_ u.node) n (effPol x req)
      have hcheck : s.accessCheck u sp k n req ea = if (k = .load ∨ k = .atomic) ∧
          s.poisonedFor u.node (x.at_ u.node) n (effPol x req) = true then .error (poisonAt k ea) else .ok { addr := ea, xl := some x } := by
        rw [hsp, State.accessCheck_home ha, hx]
      exact ⟨fun hclean => hcheck.trans (if_neg fun h => hclean ⟨h.1, hmeets.mp h.2⟩),
        fun hk hbad => hcheck.trans (if_pos ⟨hk, hmeets.mpr hbad⟩)⟩

end Sys2Proof.Machine

namespace Sys2Proof.Machine

variable {s t : State} {u : UnitId} {i : Instr} {a : Answer}

/-! The lines that a command clears at issue (spec/02 R53). -/

theorem mem_dedup {l : List Nat} {x : Nat} : x ∈ dedup l ↔ x ∈ l := by
  have key (l acc : List Nat) : x ∈ l.foldl (fun acc a => if acc.contains a then acc else acc ++ [a]) acc ↔ x ∈ acc ∨ x ∈ l := by
    induction l generalizing acc with
    | nil => simp
    | cons b r ih =>
      rw [List.foldl_cons, ih]
      split
      · rename_i hb
        have hin : b ∈ acc := List.contains_iff_mem.mp hb
        constructor
        · exact Or.imp_right (List.mem_cons_of_mem b)
        · rintro (h | h)
          · exact .inl h
          · exact (List.mem_cons.mp h).elim (fun heq => .inl (heq ▸ hin)) .inr
      · rw [List.mem_append, List.mem_singleton, List.mem_cons, or_assoc]
  exact (key l []).trans (or_iff_right List.not_mem_nil)
/-- The lines of a range that lies in the allocation are those in which its bytes lie. -/
theorem Team.mem_linesOf {t : Team} {d n l : Nat} (hd : d < 2 ^ 20) (hn : d + n ≤ t.spSize) :
    l ∈ t.linesOf d n ↔ ∃ b, d ≤ b ∧ b < d + n ∧ l = b / 256 := by
  unfold Team.linesOf Team.spIn
  by_cases hzero : n = 0
  · subst hzero
    simp only [decide_true, Bool.true_or, if_true, List.not_mem_nil, false_iff]
    rintro ⟨b, hlo, hhi, -⟩
    omega
  · have hin : (decide (n = 0) || !(decide (d < 2 ^ 20) && decide (d + n ≤ t.spSize))) = false := by
      rw [decide_eq_false hzero, decide_eq_true hd, decide_eq_true hn]
      rfl
    rw [hin, if_neg Bool.false_ne_true, List.mem_map]
    exact (pieces_blocks (by decide)).trans (exists_congr fun b => and_congr_right fun _ => and_congr_right fun _ => eq_comm)

/-- The lines `ls` are those in which the bytes of the stretches `rs` lie, where each of them lies in the allocation and none is longer
than a command may be. -/
def Team.LinesAre (t : Team) (ls : List Nat) (rs : List (Nat × Nat)) : Prop :=
  (∀ x ∈ rs, x.1 < 2 ^ 20 ∧ x.2 ≤ 2 ^ 30 ∧ x.1 + x.2 ≤ t.spSize) →
    ∀ l, l ∈ ls ↔ ∃ x ∈ rs, ∃ n, x.1 ≤ n ∧ n < x.1 + x.2 ∧ l = n / 256

theorem Team.linesAre_nil (t : Team) : t.LinesAre [] [] := fun _ _ => by simp
theorem Team.linesAre_one (t : Team) (d n : Nat) : t.LinesAre (t.linesOf d n) [(d, n)] := by
  intro h l
  obtain ⟨hd, -, hn⟩ := h (d, n) (List.mem_singleton_self _)
  rw [Team.mem_linesOf hd hn]
  simp
theorem Team.linesAre_upTo (t : Team) (d n : Nat) : t.LinesAre (if n ≤ 2 ^ 30 then t.linesOf d n else []) [(d, n)] := by
  intro h
  rw [if_pos (h (d, n) (List.mem_singleton_self _)).2.1]
  exact t.linesAre_one d n h
/-- MSTORE's 128 rows. -/
theorem Team.linesAre_store (t : Team) (x : StoreX) (d pitch : Nat) :
    t.LinesAre (t.storeLines x d pitch) ((List.range 128).map fun n => (d + n * pitch, if x.ty then 256 else 512)) := by
  have hrow : (if x.ty then 256 else 512) = 128 * storeElem x := by
    unfold storeElem
    cases x.ty <;> rfl
  rw [hrow]
  intro h l
  have hrows (n : Nat) (hn : n < 128) : d + n * pitch < 2 ^ 20 ∧ d + n * pitch + 128 * storeElem x ≤ t.spSize := by
    obtain ⟨hlo, -, hhi⟩ := h _ (List.mem_map_of_mem (List.mem_range.mpr hn))
    exact ⟨hlo, hhi⟩
  have hspan : t.spIn d (storeSpan x pitch) = true := by
    have hfirst := (hrows 0 (by decide)).1
    have hlast := (hrows 127 (by decide)).2
    unfold Team.spIn storeSpan
    rw [decide_eq_true (by omega), decide_eq_true (by omega)]
    rfl
  rw [Team.storeLines, if_pos hspan, List.mem_flatMap]
  constructor
  · rintro ⟨n, hn, hl⟩
    obtain ⟨hlo, hhi⟩ := hrows n (List.mem_range.mp hn)
    exact ⟨_, List.mem_map_of_mem hn, (Team.mem_linesOf hlo hhi).mp hl⟩
  · rintro ⟨y, hy, hl⟩
    obtain ⟨n, hn, rfl⟩ := List.mem_map.mp hy
    obtain ⟨hlo, hhi⟩ := hrows n (List.mem_range.mp hn)
    exact ⟨n, hn, (Team.mem_linesOf hlo hhi).mpr hl⟩

/-! A command placed in its queue (spec/10 R237). -/

/-- Whether it issues the command or its wait for room ends, the sequencer performs the same. -/
theorem State.ComesTo.engine (h : s.ComesTo u i (.engineQueueRoom u) a) {k : UnitId → State → State}
    (hexec : exec i s = issue i s k) (hbody : engineBody i = some k) : a = .next (k u s) := by
  rcases h with ⟨hissue, rfl⟩ | ⟨halive, hwait, -, rfl⟩
  · rw [hexec, hissue.next]
  · rw [exec_engineQueueRoom, execEngineQueueRoom, State.wake, halive, hwait]
    simp only [hbody]
    rfl

/-- Room for one more command in queue `q` of the team of a unit (spec/10 R237). -/
def State.RoomIn (s : State) (u : UnitId) (q : Nat) : Prop :=
  if q = 0 ∨ q = 3 then
    (((s.core u.place).teams.cells.map fun x => (x.2.eng.get 0 .none).cmds.length + (x.2.eng.get 3 .none).cmds.length).sum) < 1024
  else ((s.teamOf u).eng.get q .none).cmds.length < 64
theorem State.engineRoom_iff (s : State) (u : UnitId) (q : Nat) : s.engineRoom u.place (s.teamSlot u) q = true ↔ s.RoomIn u q := by
  have hsum (l : List (Nat × Team)) (n : Nat) : l.foldl (fun a x => a + (x.2.engq 0).cmds.length + (x.2.engq 3).cmds.length) n =
      n + (l.map fun x => (x.2.eng.get 0 .none).cmds.length + (x.2.eng.get 3 .none).cmds.length).sum := by
    induction l generalizing n with
    | nil => rfl
    | cons x r ih =>
      rw [List.foldl_cons, ih, List.map_cons, List.sum_cons, ← Nat.add_assoc, ← Nat.add_assoc]
      rfl
  unfold State.engineRoom State.RoomIn
  split
  · rw [decide_eq_true_iff, hsum, Nat.zero_add]
  · exact decide_eq_true_iff

/-- What the guard of a new command says of it already: nothing where its slot is not resolved (spec/07 R170). -/
def Team.resolved (t : Team) (guard : Option (Nat × Bool)) : Option Bool := match guard with
  | .none => some true
  | .some (k, sense) => (t.guards.find k).map (· == sense)
/-- The command as it stands in its queue. -/
def NewCmd.placed (x : NewCmd) (t : Team) (i : Instr) : Cmd :=
  { id := t.nextCmd, instr := i, ops := x.ops, record := x.record, guard := x.guard, go := t.resolved x.guard, lines := dedup x.lines,
    rdTiles := x.rd, wrTiles := x.wr, progress := 0, begun := false, buf := [], park := none, failed := false, doomed := false }
/-- The team's next number is taken. -/
def State.counted (s : State) (u : UnitId) : State := s.onTeamOf u fun m => { m with nextCmd := (s.teamOf u).nextCmd + 1 }
/-- Command `c` stands last in queue `q`. -/
def State.queued (s : State) (u : UnitId) (q : Nat) (c : Cmd) : State :=
  (s.counted u).onTeamOf u fun m =>
    { m with eng := m.eng.put q { m.eng.get q .none with cmds := ((s.teamOf u).eng.get q .none).cmds ++ [c] } }

section
variable {f : State → UnitId → NewCmd}

theorem State.enqueue_eq (hroom : s.RoomIn u (engQueue i)) : State.enqueue i f u s =
    (s.onTeamOf u fun t => if (f s u).empty || (s.teamOf u).resolved (f s u).guard == some false then { t with nextCmd := t.nextCmd + 1 }
      else ({ t with nextCmd := t.nextCmd + 1 } : Team).onEngq (engQueue i) fun e =>
        { e with cmds := e.cmds ++ [(f s u).placed (s.teamOf u) i] }).doneG u i := by
  rw [State.enqueue, (State.engineRoom_iff s u _).mpr hroom]
  rfl
/-- A command that finds no room is put off. -/
theorem State.enqueue_full (hroom : ¬ s.RoomIn u (engQueue i)) : s.WaitsIn (State.enqueue i f u s) u i := by
  rw [State.enqueue, Bool.eq_false_of_not_eq_true (mt (State.engineRoom_iff s u _).mp hroom)]
  exact State.waitsIn s u { instr := i, lo := 0 }
/-- One that has nothing to do, or is discarded, takes a number alone. -/
theorem State.enqueue_void (hroom : s.RoomIn u (engQueue i))
    (hvoid : (f s u).empty = true ∨ (s.teamOf u).resolved (f s u).guard = some false) :
    State.enqueue i f u s = (s.counted u).doneG u i := by
  have hout : ((f s u).empty || (s.teamOf u).resolved (f s u).guard == some false) = true := by
    rw [Bool.or_eq_true, beq_iff_eq]
    exact hvoid
  rw [State.enqueue_eq hroom, State.counted]
  refine congrArg (State.doneG · u i) (State.onTeam_congr ?_)
  rw [if_pos hout]
  rfl
/-- Another stands last in its queue. -/
theorem State.enqueue_queued (hroom : s.RoomIn u (engQueue i)) (hempty : (f s u).empty = false)
    (hgo : (s.teamOf u).resolved (f s u).guard ≠ some false) :
    State.enqueue i f u s = (s.queued u (engQueue i) ((f s u).placed (s.teamOf u) i)).doneG u i := by
  have hin : ((f s u).empty || (s.teamOf u).resolved (f s u).guard == some false) = false := by
    rw [hempty, Bool.false_or]
    exact beq_false_of_ne hgo
  have htwice : s.queued u (engQueue i) ((f s u).placed (s.teamOf u) i) = s.onTeamOf u fun m => { m with
      nextCmd := (s.teamOf u).nextCmd + 1
      eng := m.eng.put (engQueue i) { m.eng.get (engQueue i) .none with
        cmds := ((s.teamOf u).eng.get (engQueue i) .none).cmds ++ [(f s u).placed (s.teamOf u) i] } } := by
    unfold State.queued State.counted State.onTeamOf
    rw [State.teamSlot_onTeam, State.onTeam_onTeam]
  rw [State.enqueue_eq hroom, htwice]
  refine congrArg (State.doneG · u i) (State.onTeam_congr ?_)
  rw [hin, if_neg Bool.false_ne_true]
  rfl

end

end Sys2Proof.Machine

namespace Sys2Proof.Machine

variable {s t : State} {u : UnitId} {i : Instr} {a : Answer}

/-! The forms of engine commands (spec/10 R239 to R245, spec/11 R250 to R267). -/

/-- CPY's box modes. -/
abbrev BoxMode (y : CpyX) : Prop := 4 ≤ y.mode.toNat ∧ y.mode.toNat ≤ 5
/-- What an engine command brings to queue `q`: its operands, tiles, guard and lines, and the record of a box copy. -/
structure State.EngineForm (s : State) (u : UnitId) (i : Instr) (d a : Dword) (q : Nat) (guard : Option (Nat × Bool)) (ops : List Dword)
    (rd wr : List Nat) (spans : Option (List (Nat × Nat))) (void : Bool) (x : NewCmd) : Prop where
  queueIs : engQueue i = q
  guardIs : x.guard = guard
  opsAre : x.ops = ops
  readsAre : x.rd = rd
  writesAre : x.wr = wr
  emptyIs : x.empty = void
  linesAre : ∀ rs, spans = some rs → (s.teamOf u).LinesAre x.lines rs
  recordNone : (∀ g y, i = .cpy g y → ¬ BoxMode y) → x.record = none
  boxAre : ∀ g y, i = .cpy g y → BoxMode y → wordAt ops 0 = d ∧ wordAt ops 1 = a ∧ x.record = s.boxRecord u ops ∧
    (y.mode = 4 → x.lines = (s.teamOf u).boxLines (s.boxRecord u ops) ops)

theorem cpyBox_iff (y : CpyX) : cpyBox y.mode.toNat = true ↔ BoxMode y := by
  unfold cpyBox BoxMode
  rw [Bool.or_eq_true, beq_iff_eq, beq_iff_eq]
  omega
theorem cpyToSp_iff {y : CpyX} (h : ¬ BoxMode y) : cpyToSp y.mode.toNat = true ↔ y.mode = 0 ∨ y.mode = 3 := by
  have hmode (k : BitVec 3) : y.mode = k ↔ y.mode.toNat = k.toNat := BitVec.toNat_eq
  unfold BoxMode at h
  unfold cpyToSp
  rw [Bool.or_eq_true, Bool.or_eq_true, beq_iff_eq, beq_iff_eq, beq_iff_eq, hmode, hmode]
  change _ ↔ y.mode.toNat = 0 ∨ y.mode.toNat = 3
  omega

/-- CPY, by its mode. -/
theorem State.engineForm_cpy (f : GA) (y : CpyX) (hcomes : s.ComesTo u (.cpy f y) (.engineQueueRoom u) a) :
    let r := fun n : Nat => s.sget u n
    let d := r f.d.toNat
    let src := s.srcG u f.a.toNat
    let b := r f.b.toNat
    ∃ g, a = .next (State.enqueue (.cpy f y) g u s) ∧ s.EngineForm u (.cpy f y) d src 0 (guardOf y.gen y.gslot y.gsense)
      (if 4 ≤ y.mode.toNat ∧ y.mode.toNat ≤ 5 then [d, src, b, r (f.b.toNat + 1), r (f.b.toNat + 2)] else [d, src + y.soff.signExtend 64, b])
      [] [] (if y.mode = 0 ∨ y.mode = 3 then some [(d.toNat, b.toNat)] else if y.mode = 4 then none else some [])
      (if 4 ≤ y.mode.toNat ∧ y.mode.toNat ≤ 5 then false else b == 0) (g s u) := by
  intro r d src b
  refine ⟨_, hcomes.engine (exec_cpy s f y) rfl, ?_⟩
  dsimp only
  by_cases hbox : BoxMode y
  · have hmode : ¬ (y.mode = 0 ∨ y.mode = 3) := by
      rintro (h | h) <;> rw [BoxMode, h] at hbox <;> exact absurd hbox (by decide)
    rw [(cpyBox_iff y).mpr hbox, if_pos rfl, if_pos hbox, if_pos hbox, if_neg hmode]
    refine ⟨rfl, rfl, rfl, rfl, rfl, rfl, fun rs hrs => ?_, fun h => absurd hbox (h _ _ rfl), fun g z hz _ => ?_⟩
    · have hfour : ¬ y.mode = 4 := fun h => by
        rw [if_pos h] at hrs
        cases hrs
      have hfour' : (y.mode.toNat == 4) = false := beq_false_of_ne fun h => hfour (BitVec.toNat_eq.mpr h)
      rw [if_neg hfour] at hrs
      cases hrs
      dsimp only
      rw [hfour']
      exact Team.linesAre_nil _
    · cases hz
      refine ⟨rfl, rfl, rfl, fun h => ?_⟩
      dsimp only
      rw [h]
      rfl
  · rw [Bool.eq_false_of_not_eq_true (mt (cpyBox_iff y).mp hbox), if_neg Bool.false_ne_true, if_neg hbox, if_neg hbox]
    refine ⟨rfl, rfl, rfl, rfl, rfl, rfl, fun rs hrs => ?_, fun _ => rfl, fun g z hz h => ?_⟩
    · dsimp only
      by_cases hsp : y.mode = 0 ∨ y.mode = 3
      · rw [if_pos hsp] at hrs
        cases hrs
        have hlines := (s.teamOf u).linesAre_upTo d.toNat b.toNat
        rw [(cpyToSp_iff hbox).mpr hsp, Bool.true_and]
        simpa only [decide_eq_true_eq] using hlines
      · have hfour : ¬ y.mode = 4 := fun h => hbox (by rw [BoxMode, h]; decide)
        rw [if_neg hsp, if_neg hfour] at hrs
        cases hrs
        rw [Bool.eq_false_of_not_eq_true (mt (cpyToSp_iff hbox).mp hsp)]
        exact Team.linesAre_nil _
    · cases hz
      exact absurd h hbox
/-- ZFILL. -/
theorem Team.linesAre_zfill (t : Team) (sp : Bool) (d n : Nat) :
    t.LinesAre (if sp && decide (n ≤ 2 ^ 30) then t.linesOf d n else []) (if sp then [(d, n)] else []) := by
  cases sp with
  | false => exact t.linesAre_nil
  | true => simpa only [Bool.true_and, decide_eq_true_eq, if_true] using t.linesAre_upTo d n
/-- A collective that writes no scratchpad. -/
theorem State.linesAre_coll (s : State) (u : UnitId) (red : Bool) (x : CollX) (d b : Dword) {rs : List (Nat × Nat)}
    (h : (if x.dsp then none else some []) = some rs) : (s.teamOf u).LinesAre (s.collLines u red x d b) rs := by
  cases hd : x.dsp with
  | true =>
    rw [hd] at h
    cases h
  | false =>
    rw [hd] at h
    cases h
    rw [State.collLines, hd]
    exact Team.linesAre_nil _

/-- Every form of engine command: the sequencer places it in its queue, and what it brings there. -/
theorem State.engineForm_of_mem (f : GA) (cp : CpyX) (la : LayoutX) (zf : ZfillX) (om : OmapX) (mm : MmaX) (tk : TopkX) (mt : MtileX)
    (st : StoreX) (tc : TcfgX) (im : ImageX) (co : CollX) {q : Nat} {gen : Bool} {slot : BitVec 4} {sense : Bool} {ops : List Dword}
    {rd wr : List Nat} {spans : Option (List (Nat × Nat))} {void : Bool} :
    let r := fun n : Nat => s.sget u n
    let d := r f.d.toNat
    let a := s.srcG u f.a.toNat
    let b := r f.b.toNat
    let k := fun x : BitVec 2 => [x.toNat]
    let rows := topkRows a
    (i, q, gen, slot, sense, ops, rd, wr, spans, void) ∈
      [(Instr.cpy f cp, 0, cp.gen, cp.gslot, cp.gsense,
          if 4 ≤ cp.mode.toNat ∧ cp.mode.toNat ≤ 5 then [d, a, b, r (f.b.toNat + 1), r (f.b.toNat + 2)] else [d, a + cp.soff.signExtend 64, b],
          [], [], if cp.mode = 0 ∨ cp.mode = 3 then some [(d.toNat, b.toNat)] else if cp.mode = 4 then none else some [],
          if 4 ≤ cp.mode.toNat ∧ cp.mode.toNat ≤ 5 then false else b == 0),
        (.layout f la, 0, la.gen, la.gslot, la.gsense, [a], [], [], some [], false),
        (.zfill f zf, 0, zf.gen, zf.gslot, zf.gsense, [a + zf.off.signExtend 64, b], [], [],
          some (if zf.sp then [((a + zf.off.signExtend 64).toNat, b.toNat)] else []), b == 0),
        (.omap f om, 1, om.gen, om.gslot, om.gsense, [a], [], [], some [], false),
        (.mma f mm, 1, mm.gen, mm.gslot, mm.gsense, [], if mm.acc then k mm.tile else [], k mm.tile, some [], false),
        (.msqd f mm, 1, mm.gen, mm.gslot, mm.gsense, [], if mm.acc then k mm.tile else [], k mm.tile, some [], false),
        (.mtopk f tk, 1, tk.gen, tk.gslot, tk.gsense, [d, a], k tk.tile, [], some [(d.toNat, 8 * (tk.km1.toNat + 1) * rows)], false),
        (.mzero f mt, 1, mt.gen, mt.gslot, mt.gsense, [], [], k mt.tile, some [], false),
        (.mstore f st, 1, st.gen, st.gslot, st.gsense, [d, b], k st.tile, [],
          some (if st.sp then (List.range 128).map fun n => (d.toNat + n * b.toNat, if st.ty then 256 else 512) else []), false),
        (.maddt f mt, 2, mt.gen, mt.gslot, mt.gsense, [a], k mt.tile, [], some [], false),
        (.tcfg f tc, 2, tc.gen, tc.gslot, tc.gsense, [a, b], [], [], some [], false),
        (.tevict f im, if im.obj then 1 else 2, im.gen, im.gslot, im.gsense, [a, b], if im.obj then k im.tile else [], [], some [], false),
        (.trestore f im, if im.obj then 1 else 2, im.gen, im.gslot, im.gsense, [a, b], [], if im.obj then k im.tile else [], some [], false),
        (.callred f co, 3, co.gen, co.gslot, co.gsense, [d, a, b], [], [], if co.dsp then none else some [], false),
        (.cgather f co, 3, co.gen, co.gslot, co.gsense, [d, a, b], [], [], if co.dsp then none else some [], false)] →
    ∀ x, s.ComesTo u i (.engineQueueRoom u) x →
      ∃ g, x = .next (State.enqueue i g u s) ∧ s.EngineForm u i d a q (guardOf gen slot sense) ops rd wr spans void (g s u) := by
  intro r d a b k rows hi x hcomes
  have hnil (rs : List (Nat × Nat)) (h : some [] = some rs) : (s.teamOf u).LinesAre [] rs := Option.some.inj h ▸ Team.linesAre_nil _
  rcases List.mem_cons.mp hi with h | hi
  · cases h
    exact State.engineForm_cpy f cp hcomes
  rcases List.mem_cons.mp hi with h | hi
  · cases h
    exact ⟨_, hcomes.engine (exec_layout s f la) rfl, rfl, rfl, rfl, rfl, rfl, rfl, hnil, fun _ => rfl, nofun⟩
  rcases List.mem_cons.mp hi with h | hi
  · cases h
    exact ⟨_, hcomes.engine (exec_zfill s f zf) rfl, rfl, rfl, rfl, rfl, rfl, rfl,
      fun rs h => Option.some.inj h ▸ Team.linesAre_zfill _ _ _ _, fun _ => rfl, nofun⟩
  rcases List.mem_cons.mp hi with h | hi
  · cases h
    exact ⟨_, hcomes.engine (exec_omap s f om) rfl, rfl, rfl, rfl, rfl, rfl, rfl, hnil, fun _ => rfl, nofun⟩
  rcases List.mem_cons.mp hi with h | hi
  · cases h
    exact ⟨_, hcomes.engine (exec_mma s f mm) rfl, rfl, rfl, rfl, rfl, rfl, rfl, hnil, fun _ => rfl, nofun⟩
  rcases List.mem_cons.mp hi with h | hi
  · cases h
    exact ⟨_, hcomes.engine (exec_msqd s f mm) rfl, rfl, rfl, rfl, rfl, rfl, rfl, hnil, fun _ => rfl, nofun⟩
  rcases List.mem_cons.mp hi with h | hi
  · cases h
    exact ⟨_, hcomes.engine (exec_mtopk s f tk) rfl, rfl, rfl, rfl, rfl, rfl, rfl,
      fun rs h => Option.some.inj h ▸ Team.linesAre_one _ _ _, fun _ => rfl, nofun⟩
  rcases List.mem_cons.mp hi with h | hi
  · cases h
    exact ⟨_, hcomes.engine (exec_mzero s f mt) rfl, rfl, rfl, rfl, rfl, rfl, rfl, hnil, fun _ => rfl, nofun⟩
  rcases List.mem_cons.mp hi with h | hi
  · cases h
    refine ⟨_, hcomes.engine (exec_mstore s f st) rfl, rfl, rfl, rfl, rfl, rfl, rfl, fun rs h => ?_, fun _ => rfl, nofun⟩
    rw [← Option.some.inj h]
    dsimp only
    cases st.sp with
    | false => exact Team.linesAre_nil _
    | true => exact Team.linesAre_store _ st _ _
  rcases List.mem_cons.mp hi with h | hi
  · cases h
    exact ⟨_, hcomes.engine (exec_maddt s f mt) rfl, rfl, rfl, rfl, rfl, rfl, rfl, hnil, fun _ => rfl, nofun⟩
  rcases List.mem_cons.mp hi with h | hi
  · cases h
    exact ⟨_, hcomes.engine (exec_tcfg s f tc) rfl, rfl, rfl, rfl, rfl, rfl, rfl, hnil, fun _ => rfl, nofun⟩
  rcases List.mem_cons.mp hi with h | hi
  · cases h
    exact ⟨_, hcomes.engine (exec_tevict s f im) rfl, rfl, rfl, rfl, by cases im.obj <;> rfl, by cases im.obj <;> rfl, rfl, hnil,
      fun _ => rfl, nofun⟩
  rcases List.mem_cons.mp hi with h | hi
  · cases h
    exact ⟨_, hcomes.engine (exec_trestore s f im) rfl, rfl, rfl, rfl, by cases im.obj <;> rfl, by cases im.obj <;> rfl, rfl, hnil,
      fun _ => rfl, nofun⟩
  rcases List.mem_cons.mp hi with h | hi
  · cases h
    exact ⟨_, hcomes.engine (exec_callred s f co) rfl, rfl, rfl, rfl, rfl, rfl, rfl,
      fun rs h => State.linesAre_coll s u true co _ _ h, fun _ => rfl, nofun⟩
  · cases List.mem_singleton.mp hi
    exact ⟨_, hcomes.engine (exec_cgather s f co) rfl, rfl, rfl, rfl, rfl, rfl, rfl,
      fun rs h => State.linesAre_coll s u false co _ _ h, fun _ => rfl, nofun⟩

end Sys2Proof.Machine

namespace Sys2Proof.Machine

variable {s t : State} {u : UnitId} {i : Instr} {a : Answer}

/-! What the placed command is. -/

theorem Team.resolved_guardOf (t : Team) (gen : Bool) (slot : BitVec 4) (sense : Bool) :
    t.resolved (guardOf gen slot sense) = if gen then (t.guards.find slot.toNat).map (· == sense) else some true := by
  cases gen <;> rfl

/-- A LAYOUT of the team's queue 0 stands before what comes to it now. -/
def Team.LayoutQueued (t : Team) : Prop := ∃ z ∈ (t.eng.get 0 .none).cmds, ∃ g y, z.instr = .layout g y
/-- Behind a LAYOUT a box copy has no record at issue. -/
theorem State.boxRecord_behind (h : (s.teamOf u).LayoutQueued) (ops : List Dword) : s.boxRecord u ops = none := by
  obtain ⟨z, hz, g, y, hlayout⟩ := h
  unfold State.boxRecord
  refine if_pos ?_
  rw [Bool.or_eq_true, List.any_eq_true]
  exact .inl ⟨z, hz, by rw [hlayout]⟩
/-- Otherwise it has the one that its handle names in the core's cache. -/
theorem State.boxRecord_cached (h : ¬ (s.teamOf u).LayoutQueued) {ops : List Dword} {e : LayoutEntry}
    (he : ((s.core u.place).layouts.find? fun e => e.ctx == s.ctxOf u && e.handle == (wordAt ops 1).toNat) = some e) :
    s.boxRecord u ops = some e.words := by
  have huse : s.useLayout u.place (s.ctxOf u) (wordAt ops 1) = { s := s, words := e.words, stop := none } := by
    rw [State.useLayout, he]
  unfold State.boxRecord
  rw [huse]
  refine if_neg ?_
  rw [Bool.or_eq_true, List.any_eq_true]
  rintro (⟨z, hz, hlayout⟩ | hstop)
  · split at hlayout
    · rename_i g y hinstr
      exact h ⟨z, hz, g, y, hinstr⟩
    · cases hlayout
  · cases hstop
/-- With its record, it clears the lines of its range. -/
theorem Team.mem_boxLines {t : Team} {r ops : List Dword} (hn : boxCount ops * layoutElem (recType r) ≤ 2 ^ 30)
    (hd : (wordAt ops 0).toNat < 2 ^ 20) (hend : (wordAt ops 0).toNat + boxCount ops * layoutElem (recType r) ≤ t.spSize) (l : Nat) :
    l ∈ t.boxLines (some r) ops ↔
      ∃ b, (wordAt ops 0).toNat ≤ b ∧ b < (wordAt ops 0).toNat + boxCount ops * layoutElem (recType r) ∧ l = b / 256 := by
  unfold Team.boxLines
  dsimp only
  rw [if_neg (Nat.not_lt.mpr hn)]
  exact Team.mem_linesOf hd hend

/-! BFENCE and BWAIT (spec/10 R243, spec/04 R99). -/

/-- Whether it issues BWAIT or its wait ends, a unit performs the same. -/
theorem State.ComesTo.batch (h : s.ComesTo u i (.batchWaitComplete u) a) {k : UnitId → State → State}
    (hexec : exec i s = issue i s k) (hbody : batchBody i = some k) : a = .next (k u s) := by
  rcases h with ⟨hissue, rfl⟩ | ⟨halive, hwait, -, rfl⟩
  · rw [hexec, hissue.next]
  · rw [exec_batchWaitComplete, execBatchWaitComplete, State.wake, halive, hwait]
    simp only [hbody]
    rfl
theorem Team.rangeDone_iff (t : Team) (lo hi : Nat) : t.rangeDone lo hi = true ↔ ∀ c ∈ t.cmds, ¬ (lo ≤ c.id ∧ c.id < hi) := by
  unfold Team.rangeDone
  rw [List.all_eq_true]
  refine forall₂_congr fun c _ => ?_
  rw [Bool.not_eq_true', ← Bool.not_eq_true, Bool.and_eq_true, decide_eq_true_iff, decide_eq_true_iff]
theorem State.bwait_done {f : GI} {lo hi : Nat} (hclosure : (s.teamOf u).closures.get f.imm.toNat (0, 0) = (lo, hi))
    (h : ∀ c ∈ (s.teamOf u).cmds, ¬ (lo ≤ c.id ∧ c.id < hi)) : State.bwait f u s = (s.acquire u.node 2).doneG u (.bwait f) := by
  unfold State.bwait
  dsimp only
  rw [hclosure, if_pos ((Team.rangeDone_iff _ lo hi).mpr h)]
theorem State.bwait_waits {f : GI} {lo hi : Nat} (hclosure : (s.teamOf u).closures.get f.imm.toNat (0, 0) = (lo, hi))
    (h : ∃ c ∈ (s.teamOf u).cmds, lo ≤ c.id ∧ c.id < hi) : s.WaitsIn (State.bwait f u s) u (.bwait f) := by
  obtain ⟨c, hc, hopen⟩ := h
  unfold State.bwait
  dsimp only
  rw [hclosure, if_neg fun hdone => (Team.rangeDone_iff _ lo hi).mp hdone c hc hopen]
  exact State.waitsIn s u { instr := .bwait f, lo := 0 }

/-- Settles O41: every engine command is what the sequencer brings to its queue, which takes it, counts it alone, or is full. -/
theorem engineCommands : Obligations.EngineCommands := by
  unfold Obligations.EngineCommands
  refine ⟨?issue, fun s u f lo hi => ?batches⟩
  case issue =>
    intro s u f cp la zf om mm tk mt st tc im co i q gen slot sense ops rd wr spans void tm r d a b k queue rows room go ahead hi x hcomes
    obtain ⟨g, hx, hform⟩ := State.engineForm_of_mem f cp la zf om mm tk mt st tc im co hi x hcomes
    obtain ⟨rfl, hguard, hops, hrd, hwr, hempty, hlines, hrecord, hbox⟩ := hform
    have hgo : tm.resolved (g s u).guard = go := by
      rw [hguard]
      exact tm.resolved_guardOf gen slot sense
    refine ⟨fun hroom hvoid hopen => ?_, fun hroom hvoid => ?_, fun hroom => ⟨_, hx, State.enqueue_full hroom⟩⟩
    · refine ⟨_, (g s u).placed tm i, hx, rfl, rfl, hops, hguard, hgo, hrd, hwr, rfl, rfl, rfl, fun rs hrs hin l => ?_, hrecord, fun y z hi hmode => ?_, ?_⟩
      · exact mem_dedup.trans (hlines rs hrs hin l)
      · obtain ⟨(hd : wordAt ops 0 = d), ha, hrec, hclears⟩ := hbox y z hi hmode
        refine ⟨fun hbehind => hrec.trans (State.boxRecord_behind hbehind ops), fun e hfree he => ?_⟩
        have hcached := State.boxRecord_cached hfree (ops := ops) (by rw [ha]; exact he)
        refine ⟨hrec.trans hcached, fun hread hone hn hlo hhi l => ?_⟩
        rw [← hd] at hlo hhi ⊢
        refine mem_dedup.trans ?_
        rw [hclears hread, hcached]
        exact Team.mem_boxLines hn hlo hhi l
      · rw [State.enqueue_queued hroom (hempty.trans hvoid) (by rw [hgo]; exact hopen)]
        exact State.plainDoneG _ u i
    · refine ⟨_, hx, ?_⟩
      rw [State.enqueue_void hroom (hvoid.imp hempty.trans hgo.trans)]
      exact State.plainDoneG _ u i
  case batches =>
    intro tm open_
    refine ⟨fun hissue => ⟨_, ?_, State.plainDoneG _ u _⟩, fun x hclosure hcomes => ⟨fun hdone => ⟨_, hcomes.batch (exec_bwait s f) rfl, ?_⟩,
      fun hopen => ⟨_, hcomes.batch (exec_bwait s f) rfl, State.bwait_waits hclosure hopen⟩⟩⟩
    · rw [exec_bfence, execBfence, hissue.next]
      rfl
    · rw [State.bwait_done hclosure hdone]
      exact State.plainDoneG _ u _

end Sys2Proof.Machine

namespace Sys2Proof.Machine

variable {s : State} {c k q : Nat} {x : Cmd} {rest : List Cmd}

/-! O48. A command that has ended as ill-formed stays at the head of its queue, marked `failed`, until its record is written
(spec/15 R335, `State.cmdFails`); until then nothing performs it (`State.headOf`). `State.Heads`, from which the statement has a command do
its work, does not ask that the head be unmarked. -/

/-- The queue whose head has ended stands. -/
theorem State.headOf_failed (hqueue : (s.team c k).eng.get q .none = { cmds := x :: rest, halted := false }) (hfailed : x.failed = true) :
    s.headOf c k q = none := by
  unfold State.headOf
  dsimp only
  split
  · rfl
  · rw [show ((s.team c k).engq q).cmds = x :: rest from congrArg EngQueue.cmds hqueue]
    dsimp only
    rw [hfailed, Bool.not_true, Bool.and_false, if_neg Bool.false_ne_true]
theorem State.perform_failed (hqueue : (s.team c k).eng.get q .none = { cmds := x :: rest, halted := false }) (hfailed : x.failed = true)
    (work : State → Cmd → Option Work) : s.perform c k q work = s := by
  rw [State.perform, State.headOf_failed hqueue hfailed]

/-- A LAYOUT of the handle 0x10040 that met a fault, and whose record of the fault has not been written. -/
def endedLayout : Cmd :=
  { id := 0, instr := .layout { b := 0, a := 0, d := 0, k := false } { op := false, res := 0, gsense := false, gslot := 0, gen := false }
    ops := [0x10040], record := none, guard := none, go := some true, lines := [], rdTiles := [], wrTiles := [], progress := 0, begun := true
    buf := [], park := none, failed := true, doomed := false }
/-- It heads queue 0 of a team for which its page has since come to be readable, with the record of a layout of one element there. -/
def endedAtHead : State :=
  let s := State.reset.placeCode (.seq 0 0) 0
  ({ s with
    mem := (s.mem.write 0x200000 (natLe 8 (placedFrame + 0x54F))).write (placedFrame + 0x10040)
      (bytesOfDwords [0x1000000000010000, 0x100000001, 0x100000001, 0, 0, 0, 0, 1]) } : State).onTeam 0 0 fun m =>
    { m with eng := Tab.empty.put 0 { cmds := [endedLayout], halted := false } }

theorem endedAtHead_queue : (endedAtHead.team 0 0).eng.get 0 .none = { cmds := [endedLayout], halted := false } := by decide +kernel
theorem endedAtHead_heads : endedAtHead.Heads 0 0 0 endedLayout [] :=
  ⟨by decide +kernel, endedAtHead_queue, rfl, rfl, by decide +kernel⟩
/-- What the statement has a LAYOUT meet that loads its record. -/
theorem endedAtHead_loads : (endedAtHead.engRead 0 (endedAtHead.team 0 0).ctx (wordAt endedLayout.ops 0) 64 2).flt = none ∧
    layoutOk (dwordsOfBytes 8 (endedAtHead.engRead 0 (endedAtHead.team 0 0).ctx (wordAt endedLayout.ops 0) 64 2).bytes) = true := by
  decide +kernel

/-- Refutes O48: the clause on LAYOUT has the head of queue 0 load its record and leave, but a head that has ended stays as it is. -/
theorem not_copyEngineWork : ¬ Obligations.CopyEngineWork := by
  unfold Obligations.CopyEngineWork
  intro h
  obtain ⟨-, -, -, -, -, hlayout, -⟩ := h endedAtHead 0 0 endedLayout [] { b := 0, a := 0, d := 0, k := false }
  obtain ⟨hread, hform⟩ := endedAtHead_loads
  obtain ⟨t, hexec, -, hqueue⟩ := (hlayout _ endedAtHead_heads rfl).2 rfl (by decide) hread hform
  have hstays : exec (.layoutPerform 0 0) endedAtHead = .next endedAtHead := by
    rw [exec_layoutPerform, execLayoutPerform, State.perform_failed endedAtHead_queue rfl]
  rw [hstays] at hexec
  injection hexec with hstate
  rw [← hstate, endedAtHead_queue] at hqueue
  cases hqueue

end Sys2Proof.Machine
